-- ==== Sys2Proof/Word.lean ====
section
/-! DEFINITION. The word types of the part and their plainest arithmetic: bytes, 32-bit words, device time,
and counts that hold at their maximum. -/

namespace Sys2Proof

abbrev Byte := BitVec 8
abbrev Half := BitVec 16
abbrev Word := BitVec 32

/-- Device time: a 32-bit count of milliseconds that wraps (00_scope, Device time). -/
abbrev Time := BitVec 32

/-- The largest value of a 32-bit field. -/
def max32 : Nat := 4294967295

/-- The largest value of a 64-bit field. -/
def max64 : Nat := 18446744073709551615

/-- A 32-bit count that holds at its maximum. -/
def hold32 (n : Nat) : Nat := min n max32

/-- A 16-bit count that holds at its maximum. -/
def hold16 (n : Nat) : Nat := min n 65535

/-- An 8-bit count that holds at its maximum. -/
def hold8 (n : Nat) : Nat := min n 255

end Sys2Proof
end

