-- ==== Sys2Proof/Syntax.lean ====
section
/-! DEFINITION. The commands of the CH-410: one constructor of Instr per row of spec/opcode_table.json, with what
the sender of the command supplies. -/

namespace Sys2Proof

/-- The two paths; FIBRE is path 1 and RADIO is path 2 (00_scope, Paths). -/
inductive Path where
  | fibre
  | radio
deriving DecidableEq, Repr

/-- The two probe generators (R2). -/
inductive Generator where
  | a
  | b
deriving DecidableEq, Repr

/-- The two modem lines the part pulses (R53). -/
inductive PulseLine where
  | pwr
  | mrst
deriving DecidableEq, Repr

/-- The three lines of the battery backup unit (R150). -/
inductive SupplyLine where
  | mainsOk
  | battLow
  | battCrit
deriving DecidableEq, Repr

/-- The commands. Orders carry no operands of their own: the exchange port takes the next collected slot and
copies kind, ticket and parameters from it (R174, log 4). -/
inductive Instr where
  /-- First application of power (R181). -/
  | powerOn
  /-- Assertion of the RESET pin (R181). -/
  | resetPinAssert
  /-- Release of the RESET pin (R177). -/
  | resetPinRelease
  /-- A CONTROL write with bit 0 set (R167, R181). -/
  | softReset
  /-- INIT ends (R182). -/
  | initEnd
  /-- A CONTROL write with bit 0 clear, bit 1 as given (R167). -/
  | interruptEnableWrite (enable : Bool)
  /-- A 32-bit write to NUDGE (R172). -/
  | nudge (value : Word)
  /-- A read of EVENTS of the given width in bytes (R187). -/
  | eventsRead (width : Nat)
  /-- A write to EVENT_ENABLE of the given width in bytes (R188). -/
  | eventEnableWrite (width : Nat) (value : Word)
  /-- A write of the given width at the given offset of the register window (R165). -/
  | registerWrite (offset width : Nat) (value : BitVec 64)
  /-- A host write to the exchange window (R168, R171). -/
  | exchangeMemoryWrite (offset width : Nat) (value : BitVec 64)
  | sweepTimerExpiry
  | slotPassedOver
  | sweepEnd
  | unknownOrderKind
  | setGenerator
  | setProbing
  | setTemplate
  | setScoring
  | setDamping
  | clearCause
  | setRadio
  | setModemLines
  | releaseRadio
  | setClass
  | setSteering
  | holdPath
  | releaseHold
  | openFlow
  | closeFlow
  | setAllowance
  | newPeriod
  | setSupply
  | runDrill
  | cancelDrill
  | setEventEdges
  | startService
  | stopService
  | setExchange
  | generatorTick (g : Generator)
  /-- The expiry of the pending entry with this sequence number on this path (R10). -/
  | probeExpiry (p : Path) (seq : Half)
  /-- A frame received on the fibre port or the modem data link (R132). -/
  | inboundFrame (p : Path) (bytes : List Byte)
  | fibreLinkChange (up : Bool)
  | losChange (active : Bool)
  | fibreSettleExpiry
  | decayTick (p : Path)
  | okAnswer
  | refusedAnswer (reason : Byte)
  | signalAnswer (grade : Byte)
  | sessionClosed
  | detached
  | signalIndication (grade : Byte)
  /-- Bytes arriving on the control link that are no message (R55, log 16). -/
  | linkFrameDiscarded (bytes : List Byte)
  /-- More than 50 ms since the last byte of the control link frame under way, and the bytes that end the silence, none
  while it lasts (R55, log 16). -/
  | linkInterbyteTimeout (bytes : List Byte)
  | answerTimeout
  /-- The electrical level of READY, true for high (R52). -/
  | readyChange (high : Bool)
  | poweringTimeout
  | stoppingTimeout
  | backoffExpiry
  | pulseEnd (line : PulseLine)
  | pollTimerExpiry
  | lingerExpiry
  | returnDelayDue
  | holdExpiry
  | flowIdleExpiry (flow : Fin 128)
  | idleGapReturn (flow : Fin 128)
  | longIdleMark (flow : Fin 128)
  /-- A frame from the LAN port, tag included (R118). -/
  | outboundFrame (bytes : List Byte)
  /-- A port has finished the frame it was sending and can take the next (R123). -/
  | transmitHandoff (p : Path)
  | holdAgeExpiry
  /-- The LAN port can take a frame, its link being up or down (R133, log 14). -/
  | receiveQueueDelivery (linkUp : Bool)
  /-- The electrical level of a supply line, true for high (R150). -/
  | supplyLineChange (line : SupplyLine) (high : Bool)
  | debounceExpiry (line : SupplyLine)
  | drillLimitExpiry
deriving DecidableEq, Repr

end Sys2Proof
end

