-- ==== Sys2Proof/Decode.lean ====
section
/-! DEFINITION. The command a word spells. spec/opcode_table.json gives none of its rows any bits (98_reader.md counts
no row with fixed bits or fields): the commands are bus accesses, orders in slots, messages and expiries, and no word
spells one. -/

namespace Sys2Proof

/-- No row of the table gives bits, so every word is rejected. -/
def decodeTableWord (_nbits _w : Nat) : Option Instr := none

end Sys2Proof
end

