-- ==== Sys2Proof/Config.lean ====
section
/-! DEFINITION. What the manual fixes for the whole part (capacities, intervals, identity codes) and the one free
value the model needs: the order in which expiries that fall due at one tick are taken. -/

namespace Sys2Proof.Config

/-- FREE VALUE (log 2). The manual says of expiries that fall together that they "may be taken in either order"
(R29, R40, R110, R123 and others). Where several fall due at one tick of the clock, the place each takes among
the others is this function of the model's own counter, about which nothing is known. -/
opaque freeOrder : Nat → Nat

/-- IDENT (R166): vendor 0xC7A, part 0x410, revision 0x01. -/
def ident : Nat := 0xC7A41001

/-- Greatest length of a pending list (R6). -/
def pendingMax : Nat := 4

/-- Greatest length of a result window (R13). -/
def windowMax : Nat := 16

/-- Results a path needs to be measure ready (R14). -/
def readyMin : Nat := 8

/-- Greatest flap penalty (R39). -/
def penaltyMax : Nat := 8000

/-- Frames a band of a transmit queue holds (R122). -/
def bandMax : Nat := 32

/-- Frames the hold buffer holds (R127). -/
def heldMax : Nat := 32

/-- Frames the receive queue holds (R133). -/
def receiveMax : Nat := 64

/-- Shortest and longest frame proper (R119, R132). -/
def frameMin : Nat := 60
def frameMax : Nat := 1518

/-- The fibre settle timer, ms (R29). -/
def settleMs : Nat := 1000

/-- The debounce timer of a supply line, ms (R151). -/
def debounceMs : Nat := 2000

/-- The POWERING and STOPPING timers, ms (R58, R63). -/
def readyWaitMs : Nat := 30000

/-- The gap after which a control link frame is discarded, ms (R55). -/
def interbyteMs : Nat := 50

/-- The idle time after which a flow's long-idle mark becomes 1, ms (R107). -/
def longIdleMs : Nat := 600000

/-- The bound of R177 on initialization, in steps of 0.01 ms (log 6). -/
def initTicks : Nat := 200

/-- Steering passes one event may need (log 9): each further pass follows from a change the one before it
handed on (R89). -/
def passFuel : Nat := 8

end Sys2Proof.Config
end

