-- ==== Sys2Proof/Machine/State.lean ====
section
/-! DEFINITION. The state of the part, block by block, as plain data, and the state right after power-on.
Each field is named as the manual names it and holds what the rule cited beside it gives. -/

namespace Sys2Proof.Machine

/-- The part never stops: the manual reports every error as an order's result, a count or an ignored access
(R165, R168, R176). No command raises a fault, so the type has no constructor. -/
inductive Fault where
deriving DecidableEq, Repr

/-- Why a command has no meaning. -/
inductive Refusal where
  /-- Raised by exec's arm of a command that is not modelled yet; safe. No arm raises it now. -/
  | notModelled (mnemonic : String)
deriving DecidableEq, Repr

/-! ## Exchange port -/

/-- Service states (R177). -/
inductive Service where
  | init
  | config
  | service
deriving DecidableEq, Repr

/-- Device time, with the 0.01 ms part that RTTs are measured with (R6): `sub` is 0..99. -/
structure Clock where
  ms : Time
  sub : Nat
deriving DecidableEq, Repr

/-- The exchange port (chapter 9). -/
structure Exchange where
  service : Service
  /-- RESET pin held active (R181). -/
  resetHeld : Bool
  /-- The reset under way is a RESET pin or soft reset (R144, R148). -/
  warm : Bool
  /-- Steps of 0.01 ms since initialization began (R177, log 6). -/
  initElapsed : Nat
  /-- CONTROL bit 1 (R167). -/
  intEnable : Bool
  /-- Sweep interval, ms (R172). -/
  interval : Nat
  /-- Next expiry of the sweep timer (R172). -/
  sweepDue : Time
  /-- The collected slots still to be taken, in order, while a sweep is in progress (R173). -/
  sweep : Option (List Nat)
  /-- The sweep in progress has written DONE (R175). -/
  sweepDone : Bool
  nudgePending : Bool
  lastTicket : Half
  sweepCount : Word
  /-- The flow-change count of R116. -/
  flowChanges : Word
  /-- What the last read of EVENTS returned on the bus (R187). -/
  readData : Word
deriving DecidableEq, Repr

/-- Update counts of the mirror records that are not kept in a table (R169, R191). -/
structure Counts where
  header : Half
  fibre : Half
  radio : Half
  allowance : Half
  radioUnit : Half
  supply : Half
  hold : Half
  forwarding : Half
deriving DecidableEq, Repr

/-! ## Probe engine and path monitors -/

/-- A probe generator: its period setting and its next tick (R2). -/
structure GeneratorState where
  n : Nat
  due : Time
deriving DecidableEq, Repr

structure Generators where
  a : GeneratorState
  b : GeneratorState
deriving DecidableEq, Repr

/-- A path's assignment (R3). -/
inductive Assignment where
  | none
  | genA
  | genB
deriving DecidableEq, Repr

/-- What has become of a pending probe (R6); RTTs are in 0.1 ms. -/
inductive Resolution where
  | unresolved
  | replied (rtt : Nat)
  | lost
deriving DecidableEq, Repr

/-- An entry of a pending list (R6). The expiry has the send time's 0.01 ms part. -/
structure Probe where
  seq : Half
  sent : Time
  sentSub : Nat
  expiry : Time
  res : Resolution
deriving DecidableEq, Repr

/-- A result of the window: REPLIED with an RTT, or LOST (R13). -/
structure Result where
  seq : Half
  rtt : Option Nat
deriving DecidableEq, Repr

/-- Path states (section 2.5). -/
inductive PathState where
  | down
  | proving
  | up
  | weak
  | suppressed
deriving DecidableEq, Repr

/-- Causes of a fall (R45). -/
inductive Cause where
  | physical
  | loss
  | latency
  | signal
deriving DecidableEq, Repr

/-- The snapshot of a recorded fall (R45). -/
structure Snapshot where
  time : Time
  before : Option PathState
  h : Nat
  n : Nat
  l : Nat
  s : Nat
  grade : Nat
  gradeValid : Bool
  penalty : Nat
deriving DecidableEq, Repr

/-- The cause record (R45); a cause of `none` reads 0. -/
structure CauseRecord where
  valid : Bool
  cause : Option Cause
  repeated : Bool
  falls : Nat
  snap : Snapshot
deriving DecidableEq, Repr

/-- One path: the probe engine's state for it (R3 to R13) and the path monitor's (R23 to R45). -/
structure PathRec where
  assign : Assignment
  d : Nat
  timeout : Nat
  template : List Byte
  ticks : Nat
  seq : Half
  probes : List Probe
  window : List Result
  sent : Word
  unmatched : Nat
  s : Nat
  replied : Bool
  score : Nat
  measured : Bool
  floor : Nat
  ceiling : Nat
  upT : Nat
  weakT : Nat
  failT : Nat
  failLimit : Nat
  lockFirst : Bool
  damping : Bool
  suppress : Nat
  reuse : Nat
  td : Nat
  decayDue : Time
  penalty : Nat
  state : PathState
  failCount : Nat
  usableSince : Time
  usableFlag : Bool
  cause : CauseRecord
deriving DecidableEq, Repr

/-- What the fibre monitor watches (R29). -/
structure FibreIn where
  link : Bool
  los : Bool
  available : Bool
  settleDue : Option Time
deriving DecidableEq, Repr

/-- The radio signal grade state (R17). -/
structure GradeState where
  last : Option Nat
  unknown : Nat
  scoring : Nat
  valid : Bool
deriving DecidableEq, Repr

/-! ## Radio unit -/

/-- Radio states (section 3.4). -/
inductive RadioState where
  | off
  | powering
  | idle
  | attaching
  | attached
  | opening
  | session
  | closing
  | detaching
  | stopping
  | backoff
  | resetting
  | fault
  | resync
deriving DecidableEq, Repr

/-- Targets (R73). -/
inductive Target where
  | off
  | attached
  | session
deriving DecidableEq, Repr

inductive Standby where
  | cold
  | warm
  | hot
deriving DecidableEq, Repr

/-- Requests of the control link (section 3.2). -/
inductive Request where
  | attach
  | detach
  | openSession
  | closeSession
  | signalQuery
deriving DecidableEq, Repr

/-- The outstanding request, its staleness and the expiry of its answer timer (R56, R57). -/
structure Outstanding where
  kind : Request
  stale : Bool
  due : Time
deriving DecidableEq, Repr

/-- Settings of SET MODEM LINES (R52, R53): `level` is PWR style LEVEL; a `Low` flag is active-low. -/
structure LineSettings where
  level : Bool
  pwrLow : Bool
  mrstLow : Bool
  readyLow : Bool
  pwrWidth : Nat
  mrstWidth : Nat
deriving DecidableEq, Repr

/-- A pulsed line: the end of the pulse in progress, and whether another waits (R53). -/
structure Pulse where
  ends : Option Time
  waiting : Bool
deriving DecidableEq, Repr

/-- The radio unit (chapter 3). -/
structure RadioUnit where
  state : RadioState
  target : Target
  standby : Standby
  linger : Nat
  attachTimeout : Nat
  poll : Nat
  lingerOn : Bool
  lingerStart : Time
  outstanding : Option Outstanding
  /-- The timer of POWERING, STOPPING or BACKOFF, whichever the unit is in (R58, R63, R64). -/
  stateDue : Option Time
  b : Nat
  attachTimeouts : Nat
  resets : Nat
  attaches : Word
  discards : Nat
  refusalReason : Byte
  refusalKind : Option Request
  grade : Option Nat
  gradeTime : Time
  sessionSince : Time
  pollDue : Option Time
  queryPending : Bool
  lines : LineSettings
  pwr : Pulse
  mrst : Pulse
  /-- Electrical level of READY, true for high. -/
  readyHigh : Bool
  /-- Bytes of the control link frame under way, start byte first (R55). -/
  rx : List Byte
  rxTime : Time
  /-- The last request frame sent (R54). -/
  tx : List Byte
deriving DecidableEq, Repr

/-! ## Steering unit and flow table -/

inductive RadioUse where
  | never
  | failover
  | failoverWeak
deriving DecidableEq, Repr

/-- A class's current path (R80). -/
inductive ClassPath where
  | fibre
  | radio
  | waiting
  | blocked
deriving DecidableEq, Repr

/-- A service class: policy (R79), state (R80) and update count (R98). -/
structure ClassRec where
  use : RadioUse
  tier : Nat
  atIdle : Bool
  permit : Bool
  gap : Nat
  cur : ClassPath
  since : Time
  dropped : Nat
  count : Half
deriving DecidableEq, Repr

/-- Return-delay states (R83). -/
inductive ReturnState where
  | notArmed
  | armed
  | passed
deriving DecidableEq, Repr

/-- Steering settings (R97), return-delay state (R83) and demand (R90). -/
structure Steering where
  delay : Nat
  holdAge : Nat
  defaultClass : Nat
  ret : ReturnState
  retDue : Time
  demand : Bool
  urgent : Bool
deriving DecidableEq, Repr

/-- How a hold ended (R91). -/
inductive HoldEnd where
  | none
  | released
  | expired
  | broken
  | stopped
deriving DecidableEq, Repr

/-- The hold record (R91). -/
structure Hold where
  active : Bool
  path : Option Path
  start : Time
  stop : Time
  duration : Nat
  seen : Bool
  reason : HoldEnd
deriving DecidableEq, Repr

/-- Flow states with the path that goes with them (R99). -/
inductive FlowState where
  | free
  | carried (p : Path)
  | waiting
  | blocked
  | expired
deriving DecidableEq, Repr

/-- A flow record (R99). -/
structure FlowRec where
  state : FlowState
  cls : Nat
  pinned : Bool
  last : Option Path
  moves : Nat
  opened : Time
  lastFrame : Time
  idle : Nat
  bytes : Nat
  saturated : Bool
  longIdle : Bool
  count : Half
deriving DecidableEq, Repr

/-! ## Forwarding unit -/

/-- A frame of a transmit queue, with its flow binding (R122). -/
structure TxFrame where
  data : List Byte
  flow : Option Nat
deriving DecidableEq, Repr

/-- A path's transmit queue, the probes waiting at its port (R7) and the frame the port is sending (R123). -/
structure TxQueue where
  urgent : List TxFrame
  normal : List TxFrame
  probes : List TxFrame
  sending : Option (List Byte)
deriving DecidableEq, Repr

/-- A held frame (R127); bound to the flow, or to the class where `flow` is none. -/
structure HeldFrame where
  data : List Byte
  cls : Nat
  flow : Option Nat
  arrival : Time
deriving DecidableEq, Repr

/-- A frame of the receive queue (R133). -/
structure RxFrame where
  data : List Byte
  path : Path
deriving DecidableEq, Repr

/-- The counts of R135. -/
structure ForwardCounts where
  outMalformed : Nat
  untracked : Word
  fibreDrop : Nat
  radioDrop : Nat
  fibreFlush : Nat
  radioFlush : Nat
  holdFull : Nat
  holdAge : Nat
  holdDiscard : Nat
  fibreIn : Nat
  radioIn : Nat
  receiveDrop : Nat
deriving DecidableEq, Repr

/-- The forwarding unit (chapter 6). -/
structure Forwarding where
  fibreQ : TxQueue
  radioQ : TxQueue
  held : List HeldFrame
  receive : List RxFrame
  lanLink : Bool
  lanOut : Option (List Byte)
  counts : ForwardCounts
deriving DecidableEq, Repr

/-! ## Allowance meter -/

/-- Allowance stages, lowest first (R140). -/
inductive Stage where
  | normal
  | conserve
  | reserve
  | exhausted
deriving DecidableEq, Repr

/-- The previous-period summary (R146). -/
structure Summary where
  valid : Bool
  used : Nat
  peak : Stage
  sticky : Bool
  start : Time
  stop : Time
  warmResets : Nat
deriving DecidableEq, Repr

/-- The allowance meter (chapter 7). -/
structure Allowance where
  kib : Nat
  conserve : Nat
  reserve : Nat
  hardCap : Bool
  overhead : Nat
  bc : Nat
  br : Nat
  bx : Nat
  used : Nat
  stage : Stage
  peak : Stage
  live : Bool
  sticky : Bool
  start : Time
  warmResets : Nat
  summary : Summary
deriving DecidableEq, Repr

/-! ## Supply monitor and drill unit -/

/-- A supply line: polarity, electrical level, debounced level, debounce timer (R150, R151). -/
structure LineRec where
  low : Bool
  high : Bool
  debounced : Bool
  due : Option Time
deriving DecidableEq, Repr

/-- Supply states (R152). -/
inductive Supply where
  | mains
  | battery
  | batteryLow
  | critical
deriving DecidableEq, Repr

structure SupplyMonitor where
  mainsOk : LineRec
  battLow : LineRec
  battCrit : LineRec
  state : Supply
  since : Time
deriving DecidableEq, Repr

inductive DrillOutcome where
  | pass
  | fail
  | aborted
deriving DecidableEq, Repr

inductive DrillCause where
  | radioUp
  | limit
  | radioFault
  | realUse
  | cancelled
  | stopped
deriving DecidableEq, Repr

/-- The drill record (R161); fields of `none` read 0. -/
structure DrillRecord where
  valid : Bool
  outcome : Option DrillOutcome
  cause : Option DrillCause
  start : Time
  limit : Nat
  duration : Word
  radio : Option RadioState
  path : Option PathState
  score : Nat
  measured : Bool
  pathCause : Option Cause
  causeValid : Bool
  attaches : Word
deriving DecidableEq, Repr

/-- The drill unit (R155). DRILL_PENDING is `running`. -/
structure Drill where
  running : Bool
  start : Time
  limit : Nat
  attaches : Word
  pass : Bool
  last : DrillRecord
deriving DecidableEq, Repr

/-! ## Event unit -/

structure EventUnit where
  cond : Half
  rising : Half
  falling : Half
  latch : Word
  enable : Word
  irq : Bool
deriving DecidableEq, Repr

/-! ## The whole part -/

/-- The state of the CH-410, and the queue of commands that wait. -/
structure State where
  clk : Clock
  exch : Exchange
  mem : List Host.Cell
  counts : Counts
  gens : Generators
  fibre : PathRec
  radio : PathRec
  fin : FibreIn
  grade : GradeState
  ru : RadioUnit
  steer : Steering
  classes : List ClassRec
  hold : Hold
  flows : List FlowRec
  fwd : Forwarding
  allow : Allowance
  sup : SupplyMonitor
  drill : Drill
  ev : EventUnit
  /-- The commands that wait, first in first out. -/
  pending : List Instr
  /-- Which free value is taken next (log 2). -/
  free : Nat
deriving DecidableEq, Repr

/-! ## Power-on values -/

/-- An empty snapshot: every field 0 (R45). -/
def Snapshot.zero : Snapshot :=
  { time := 0, before := none, h := 0, n := 0, l := 0, s := 0, grade := 0, gradeValid := false, penalty := 0 }

def CauseRecord.zero : CauseRecord :=
  { valid := false, cause := none, repeated := false, falls := 0, snap := Snapshot.zero }

/-- A path after every reset (tables of R3, R28, R41 and section 2.10). -/
def PathRec.initial (assign : Assignment) (timeout floor ceiling : Nat) : PathRec :=
  { assign := assign, d := 2, timeout := timeout, template := [], ticks := 0, seq := 0, probes := [], window := [],
    sent := 0, unmatched := 0, s := 0, replied := false, score := 0, measured := false,
    floor := floor, ceiling := ceiling, upT := 700, weakT := 550, failT := 250, failLimit := 3, lockFirst := false,
    damping := true, suppress := 3000, reuse := 1500, td := 15, decayDue := 0, penalty := 0,
    state := .down, failCount := 0, usableSince := 0, usableFlag := false, cause := CauseRecord.zero }

/-- The grade state at power-on and when the radio path leaves DOWN (R17). -/
def GradeState.start : GradeState := { last := none, unknown := 0, scoring := 10, valid := false }

def Pulse.idle : Pulse := { ends := none, waiting := false }

/-- The radio unit after every reset (R78); the level of READY is an input. -/
def RadioUnit.initial (readyHigh : Bool) : RadioUnit :=
  { state := .resync, target := .off, standby := .cold, linger := 300, attachTimeout := 120, poll := 10,
    lingerOn := false, lingerStart := 0, outstanding := none, stateDue := none, b := 10, attachTimeouts := 0,
    resets := 0, attaches := 0, discards := 0, refusalReason := 0, refusalKind := none, grade := none,
    gradeTime := 0, sessionSince := 0, pollDue := none, queryPending := false,
    lines := { level := false, pwrLow := false, mrstLow := false, readyLow := false,
               pwrWidth := 1000, mrstWidth := 500 },
    pwr := Pulse.idle, mrst := Pulse.idle, readyHigh := readyHigh, rx := [], rxTime := 0, tx := [] }

/-- A class after every reset (R79, R80). -/
def ClassRec.initial (tier : Nat) (atIdle : Bool) : ClassRec :=
  { use := .failover, tier := tier, atIdle := atIdle, permit := true, gap := 30, cur := .blocked, since := 0,
    dropped := 0, count := 0 }

/-- The eight classes after every reset (R79). -/
def initialClasses : List ClassRec :=
  [ClassRec.initial 0 false, ClassRec.initial 1 true, ClassRec.initial 2 false, ClassRec.initial 2 false,
   ClassRec.initial 2 false, ClassRec.initial 2 false, ClassRec.initial 2 false, ClassRec.initial 3 false]

/-- A FREE flow record: every field but the update count 0 (R99). -/
def FlowRec.freed (count : Half) : FlowRec :=
  { state := .free, cls := 0, pinned := false, last := none, moves := 0, opened := 0, lastFrame := 0, idle := 0,
    bytes := 0, saturated := false, longIdle := false, count := count }

def TxQueue.empty : TxQueue := { urgent := [], normal := [], probes := [], sending := none }

def Forwarding.initial : Forwarding :=
  { fibreQ := TxQueue.empty, radioQ := TxQueue.empty, held := [], receive := [], lanLink := false, lanOut := none,
    counts := { outMalformed := 0, untracked := 0, fibreDrop := 0, radioDrop := 0, fibreFlush := 0, radioFlush := 0,
                holdFull := 0, holdAge := 0, holdDiscard := 0, fibreIn := 0, radioIn := 0, receiveDrop := 0 } }

/-- The allowance meter at power-on (R137 to R146). -/
def Allowance.initial : Allowance :=
  { kib := 0, conserve := 80, reserve := 95, hardCap := false, overhead := 0, bc := 0, br := 0, bx := 0, used := 0,
    stage := .normal, peak := .normal, live := false, sticky := false, start := 0, warmResets := 0,
    summary := { valid := false, used := 0, peak := .normal, sticky := false, start := 0, stop := 0,
                 warmResets := 0 } }

def DrillRecord.zero : DrillRecord :=
  { valid := false, outcome := none, cause := none, start := 0, limit := 0, duration := 0, radio := none,
    path := none, score := 0, measured := false, pathCause := none, causeValid := false, attaches := 0 }

/-- A supply line with the given electrical level; it is debounced at the end of INIT (R153). -/
def LineRec.initial (high debounced : Bool) : LineRec :=
  { low := false, high := high, debounced := debounced, due := none }

/-- The machine right after power-on: INIT has begun (R181), every block has its power-on status, no command waits.
Input levels at that moment are log 5, supply levels during INIT log 7, timers that do not run yet log 34, device time
log 35. -/
def State.reset : State :=
  { clk := { ms := 0, sub := 0 },
    exch := { service := .init, resetHeld := false, warm := false, initElapsed := 0, intEnable := false,
              interval := 20, sweepDue := 0, sweep := none, sweepDone := false, nudgePending := false,
              lastTicket := 65535, sweepCount := 0, flowChanges := 0, readData := 0 },
    mem := [],
    counts := { header := 0, fibre := 0, radio := 0, allowance := 0, radioUnit := 0, supply := 0, hold := 0,
                forwarding := 0 },
    gens := { a := { n := 39, due := 0 }, b := { n := 199, due := 0 } },
    fibre := PathRec.initial .genA 1000 100 1000,
    radio := PathRec.initial .genB 3000 400 3000,
    fin := { link := false, los := false, available := false, settleDue := none },
    grade := GradeState.start,
    ru := RadioUnit.initial false,
    steer := { delay := 60, holdAge := 2000, defaultClass := 7, ret := .notArmed, retDue := 0, demand := false,
               urgent := false },
    classes := initialClasses,
    hold := { active := false, path := none, start := 0, stop := 0, duration := 0, seen := false, reason := .none },
    flows := List.replicate 128 (FlowRec.freed 0),
    fwd := Forwarding.initial,
    allow := Allowance.initial,
    sup := { mainsOk := LineRec.initial false true, battLow := LineRec.initial false false,
             battCrit := LineRec.initial false false, state := .mains, since := 0 },
    drill := { running := false, start := 0, limit := 0, attaches := 0, pass := false, last := DrillRecord.zero },
    ev := { cond := 0, rising := 65535, falling := 0, latch := 0, enable := 0, irq := false },
    pending := [],
    free := 0 }

end Sys2Proof.Machine
end

