-- ==== Sys2Proof/Machine/Ops.lean ====
section
/-! DEFINITION. The operations every block uses: wrap-safe time, the exchange memory's bytes, the work of one event
(the state under way and what the event still owes), and one updater per block of the state. -/

namespace Sys2Proof.Machine

/-! ## Time (R1) -/

/-- The wrap-safe difference: the later time minus the earlier, modulo 2^32, in ms (R1). -/
def elapsed (now start : Time) : Nat := (now - start).toNat

/-- The time this many ms later. -/
def later (t : Time) (ms : Nat) : Time := t + BitVec.ofNat 32 ms

/-- The due time has come: less than 2^31 ms have passed since it (R1). -/
def reached (now due : Time) : Bool := decide (elapsed now due < 2147483648)

/-- A timer that runs and has come to its due time. -/
def expired (now : Time) : Option Time → Bool
  | none => false
  | some due => reached now due

/-- A probe's expiry, compared with its 0.01 ms part (R6, R10). -/
def reachedFine (clk : Clock) (due : Time) (sub : Nat) : Bool :=
  if clk.ms = due then decide (sub ≤ clk.sub) else reached clk.ms due

/-- Device time, 0.01 ms later (R6). -/
def Clock.tick (c : Clock) : Clock :=
  if c.sub < 99 then { c with sub := c.sub + 1 } else { ms := c.ms + 1, sub := 0 }

/-- The round-trip time in 0.1 ms, rounded down, bounded by 65,000 (R9). -/
def roundTrip (clk : Clock) (sent : Time) (sub : Nat) : Nat :=
  min ((elapsed clk.ms sent * 100 + clk.sub - sub) / 10) 65000

/-! ## The bytes of the exchange memory -/

/-- Bytes by address, in canonical form: addresses strictly rising, no entry 0 (what an unlisted address reads as). -/
abbrev Memory := List Host.Cell

/-- One byte; an unlisted address reads 0 (R182: the memory is zero when INIT ends). -/
def Memory.read : Memory → Nat → Byte
  | [], _ => 0
  | (x, v) :: m, a => if x = a then v else Memory.read m a

/-- One byte written, keeping the canonical form. -/
def Memory.write : Memory → Nat → Byte → Memory
  | [], a, b => if b = 0 then [] else [(a, b)]
  | (x, v) :: m, a, b =>
    if a < x then (if b = 0 then (x, v) :: m else (a, b) :: (x, v) :: m)
    else if a = x then (if b = 0 then m else (a, b) :: m)
    else (x, v) :: Memory.write m a b

/-- The canonical form. -/
def Memory.wf : Memory → Bool
  | [] => true
  | (x, v) :: m => decide (v ≠ 0) && m.all (fun c => decide (x < c.1)) && Memory.wf m

/-- The bytes from an address on. -/
def Memory.readBytes (m : Memory) (a : Nat) : Nat → List Byte
  | 0 => []
  | n + 1 => m.read a :: Memory.readBytes m (a + 1) n

/-- Bytes written from an address on. -/
def Memory.writeBytes (m : Memory) (a : Nat) : List Byte → Memory
  | [] => m
  | b :: bs => Memory.writeBytes (m.write a b) (a + 1) bs

/-! ## The work of one event -/

/-- The mirror records (R191). -/
inductive Rec where
  | header
  | path (p : Path)
  | cls (i : Nat)
  | flow (i : Nat)
  | allowance
  | radioUnit
  | supply
  | hold
  | forwarding
deriving DecidableEq, Repr

/-- One event under way: the state so far, whether a steering pass is owed (R87, R89), whether demand must be
recomputed outside a pass (R90), whether a drill ended in this event (R74), and the records a rule rewrites in
this event whether or not their fields end up changed. -/
structure Work where
  st : State
  passDue : Bool
  demandDue : Bool
  drillEnded : Bool
  touched : List Rec
deriving DecidableEq, Repr

def Work.begin (s : State) : Work :=
  { st := s, passDue := false, demandDue := false, drillEnded := false, touched := [] }

/-- The event owes a steering pass (R87). -/
def Work.owePass (w : Work) : Work := { w with passDue := true }

/-- The event owes a recomputation of demand (R90). -/
def Work.oweDemand (w : Work) : Work := { w with demandDue := true }

/-- The record is rewritten in this event (R169). -/
def Work.touch (r : Rec) (w : Work) : Work := { w with touched := r :: w.touched }

/-- The record is rewritten in this event where a field of it has changed: also one that the event changes back
(R169, log 8). -/
def Work.touchIf (changed : Bool) (r : Rec) (w : Work) : Work :=
  { w with touched := if changed then r :: w.touched else w.touched }

/-- The records are rewritten in this event. -/
def Work.touchAll (rs : List Rec) (w : Work) : Work := { w with touched := rs ++ w.touched }

/-- Device time now. -/
def State.now (s : State) : Time := s.clk.ms

/-- Device time of the event. -/
def Work.now (w : Work) : Time := w.st.clk.ms

/-! ## One updater per block -/

def State.path (s : State) : Path → PathRec
  | .fibre => s.fibre
  | .radio => s.radio

def State.onPath (s : State) (p : Path) (f : PathRec → PathRec) : State :=
  match p with
  | .fibre => { s with fibre := f s.fibre }
  | .radio => { s with radio := f s.radio }

def Work.onPath (p : Path) (f : PathRec → PathRec) (w : Work) : Work := { w with st := w.st.onPath p f }
def Work.onExch (f : Exchange → Exchange) (w : Work) : Work := { w with st := { w.st with exch := f w.st.exch } }
def Work.onMem (f : Memory → Memory) (w : Work) : Work := { w with st := { w.st with mem := f w.st.mem } }
def Work.onGens (f : Generators → Generators) (w : Work) : Work := { w with st := { w.st with gens := f w.st.gens } }
def Work.onFin (f : FibreIn → FibreIn) (w : Work) : Work := { w with st := { w.st with fin := f w.st.fin } }
def Work.onGrade (f : GradeState → GradeState) (w : Work) : Work := { w with st := { w.st with grade := f w.st.grade } }
def Work.onRu (f : RadioUnit → RadioUnit) (w : Work) : Work := { w with st := { w.st with ru := f w.st.ru } }
def Work.onSteer (f : Steering → Steering) (w : Work) : Work := { w with st := { w.st with steer := f w.st.steer } }
def Work.onClasses (f : List ClassRec → List ClassRec) (w : Work) : Work :=
  { w with st := { w.st with classes := f w.st.classes } }
def Work.onHold (f : Hold → Hold) (w : Work) : Work := { w with st := { w.st with hold := f w.st.hold } }
def Work.onFlows (f : List FlowRec → List FlowRec) (w : Work) : Work :=
  { w with st := { w.st with flows := f w.st.flows } }
def Work.onFwd (f : Forwarding → Forwarding) (w : Work) : Work := { w with st := { w.st with fwd := f w.st.fwd } }
def Work.onAllow (f : Allowance → Allowance) (w : Work) : Work := { w with st := { w.st with allow := f w.st.allow } }
def Work.onSup (f : SupplyMonitor → SupplyMonitor) (w : Work) : Work := { w with st := { w.st with sup := f w.st.sup } }
def Work.onDrill (f : Drill → Drill) (w : Work) : Work := { w with st := { w.st with drill := f w.st.drill } }
def Work.onEv (f : EventUnit → EventUnit) (w : Work) : Work := { w with st := { w.st with ev := f w.st.ev } }

/-! ## Generators, classes, flows and transmit queues by number -/

def Generators.get (g : Generators) : Generator → GeneratorState
  | .a => g.a
  | .b => g.b

def Generators.set (g : Generators) (i : Generator) (v : GeneratorState) : Generators :=
  match i with
  | .a => { g with a := v }
  | .b => { g with b := v }

/-- The class with this number. -/
def State.cls (s : State) (i : Nat) : ClassRec := s.classes.getD i (ClassRec.initial 3 false)

/-- The flow record with this number. -/
def State.flow (s : State) (i : Nat) : FlowRec := s.flows.getD i (FlowRec.freed 0)

def Work.onClass (i : Nat) (f : ClassRec → ClassRec) (w : Work) : Work :=
  w.onClasses fun cs => cs.set i (f (w.st.cls i))

def Work.onFlow (i : Nat) (f : FlowRec → FlowRec) (w : Work) : Work :=
  w.onFlows fun fs => fs.set i (f (w.st.flow i))

def Forwarding.queue (f : Forwarding) : Path → TxQueue
  | .fibre => f.fibreQ
  | .radio => f.radioQ

def Forwarding.setQueue (f : Forwarding) (p : Path) (q : TxQueue) : Forwarding :=
  match p with
  | .fibre => { f with fibreQ := q }
  | .radio => { f with radioQ := q }

def Work.onQueue (p : Path) (g : TxQueue → TxQueue) (w : Work) : Work :=
  w.onFwd fun f => f.setQueue p (g (f.queue p))

def Work.onCounts (g : ForwardCounts → ForwardCounts) (w : Work) : Work :=
  w.onFwd fun f => { f with counts := g f.counts }

def SupplyMonitor.line (m : SupplyMonitor) : SupplyLine → LineRec
  | .mainsOk => m.mainsOk
  | .battLow => m.battLow
  | .battCrit => m.battCrit

def SupplyMonitor.setLine (m : SupplyMonitor) (l : SupplyLine) (v : LineRec) : SupplyMonitor :=
  match l with
  | .mainsOk => { m with mainsOk := v }
  | .battLow => { m with battLow := v }
  | .battCrit => { m with battCrit := v }

/-! ## Facts the blocks read of each other -/

/-- Usable: UP or WEAK (section 2.5). -/
def PathState.usable : PathState → Bool
  | .up | .weak => true
  | .down | .proving | .suppressed => false

/-- The fibre path is usable (R84). -/
def State.fibreUsable (s : State) : Bool := s.fibre.state.usable

/-- The radio path is usable, which is also "radio is ready" (R84, R107). -/
def State.radioUsable (s : State) : Bool := s.radio.state.usable

/-- Link-only mode (R3). -/
def PathRec.linkOnly (r : PathRec) : Bool := decide (r.assign = .none) || r.template.isEmpty

/-- Measure ready: at least 8 results in the window (R14). -/
def PathRec.ready (r : PathRec) : Bool := decide (Config.readyMin ≤ r.window.length)

/-- The number of LOST results (R13). -/
def PathRec.losses (r : PathRec) : Nat := (r.window.filter fun x => x.rtt.isNone).length

/-- Scoring, and eligible to probe: in SERVICE, probing, not DOWN (R5, R27). -/
def State.scoring (s : State) (p : Path) : Bool :=
  decide (s.exch.service = .service) && !(s.path p).linkOnly && decide ((s.path p).state ≠ .down)

/-- The score the path reports (R27). -/
def State.reported (s : State) (p : Path) : Nat :=
  if (s.path p).linkOnly || decide (s.exch.service ≠ .service) then 1000 else (s.path p).score

/-- The flow is in use and followed: OPEN, WAITING or BLOCKED (R106). -/
def FlowState.live : FlowState → Bool
  | .carried _ | .waiting | .blocked => true
  | .free | .expired => false

/-- The flow is OPEN on RADIO or WAITING (R112). -/
def FlowState.wantsRadio : FlowState → Bool
  | .carried .radio | .waiting => true
  | .carried .fibre | .blocked | .free | .expired => false

/-- The class is RADIO or WAITING (R90). -/
def ClassPath.wantsRadio : ClassPath → Bool
  | .radio | .waiting => true
  | .fibre | .blocked => false

/-- Any class RADIO or WAITING, or any flow OPEN on RADIO or WAITING (R156, R160). -/
def State.realUse (s : State) : Bool :=
  s.classes.any (fun c => c.cur.wantsRadio) || s.flows.any (fun f => f.state.wantsRadio)

/-- A flow of a tier-0 class is OPEN, WAITING or BLOCKED while fibre is not usable (R90, R112). -/
def State.tier0Flow (s : State) : Bool :=
  !s.fibreUsable && s.flows.any (fun f => f.state.live && decide ((s.cls f.cls).tier = 0))

/-- Radio demand (R90). -/
def State.wantsSession (s : State) : Bool :=
  s.realUse || s.tier0Flow || s.drill.running || (s.hold.active && decide (s.hold.path = some .radio))

/-- Urgent demand (R73, R90). -/
def State.wantsUrgently (s : State) : Bool :=
  s.tier0Flow || s.classes.any (fun c => decide (c.tier = 0) && c.cur.wantsRadio)

/-- The effective linger in seconds: the setting lowered by the supply state (R74). -/
def State.effectiveLinger (s : State) : Nat :=
  match s.sup.state with
  | .mains | .battery => s.ru.linger
  | .batteryLow => min s.ru.linger 60
  | .critical => 0

/-- A generator's period in ms (R2). -/
def periodMs (n : Nat) : Nat := 25 * (n + 1)

/-- The period of the generator an assignment names, 0 for NONE (R3). -/
def State.assignedPeriod (s : State) : Assignment → Nat
  | .none => 0
  | .genA => periodMs s.gens.a.n
  | .genB => periodMs s.gens.b.n

/-- The grade state a path record shows: zeros on fibre (R45, section 11.3). -/
def State.shownGrade (s : State) : Path → GradeState
  | .fibre => { last := none, unknown := 0, scoring := 0, valid := false }
  | .radio => s.grade

/-- READY, normalized by its polarity (R52). -/
def RadioUnit.ready (r : RadioUnit) : Bool := r.readyHigh != r.lines.readyLow

/-- A supply line's normalized level (R150). -/
def LineRec.normal (l : LineRec) : Bool := l.high != l.low

/-- The normalized level of PWR: by state in LEVEL style, during a pulse in PULSE style (R52). -/
def RadioUnit.pwrActive (r : RadioUnit) : Bool :=
  if r.lines.level then
    match r.state with
    | .off | .stopping | .fault => false
    | .powering | .idle | .attaching | .attached | .opening | .session | .closing | .detaching | .backoff
    | .resetting | .resync => true
  else r.pwr.ends.isSome

/-- The normalized level of MRST: active during a pulse (R52). -/
def RadioUnit.mrstActive (r : RadioUnit) : Bool := r.mrst.ends.isSome

/-- Electrical levels of PWR and MRST, true for high (R52). During a reset both lines are inactive. -/
def State.pwrHigh (s : State) : Bool :=
  (decide (s.exch.service ≠ .init) && s.ru.pwrActive) != s.ru.lines.pwrLow

def State.mrstHigh (s : State) : Bool :=
  (decide (s.exch.service ≠ .init) && s.ru.mrstActive) != s.ru.lines.mrstLow

end Sys2Proof.Machine
end

