-- ==== Sys2Proof/Machine/Operands.lean ====
section
/-! DEFINITION. Operand forms: byte orders, the codes of the enumerations, the fields of an order slot, clamping, and
the formats of frames and control link messages (chapter 11). -/

namespace Sys2Proof.Machine

/-! ## Byte orders (R190) -/

def byteOf (n : Nat) : Byte := BitVec.ofNat 8 n

/-- Little-endian bytes of a number, as many as asked. -/
def leBytes : Nat → Nat → List Byte
  | 0, _ => []
  | size + 1, n => byteOf n :: leBytes size (n / 256)

/-- The number little-endian bytes spell. -/
def leValue : List Byte → Nat
  | [] => 0
  | b :: bs => b.toNat + 256 * leValue bs

/-- The number bytes sent most significant first spell. -/
def beValue (bs : List Byte) : Nat := bs.foldl (fun n b => 256 * n + b.toNat) 0

/-- Bytes of a number, most significant first. -/
def beBytes (size n : Nat) : List Byte := (leBytes size n).reverse

/-- A field of a parameter area: `size` bytes at `off`, little-endian (R190). -/
def param (ps : List Byte) (off size : Nat) : Nat := leValue ((ps.drop off).take size)

/-- Bytes filled up with zeros to a length (R190: unused answer bytes are zero). -/
def padTo (size : Nat) (bs : List Byte) : List Byte := (bs ++ List.replicate (size - bs.length) 0).take size

/-! ## Clamping (R176) -/

def clamp (lo hi n : Nat) : Nat := max lo (min hi n)

/-! ## Codes of R190 -/

def pathCode : Path → Nat
  | .fibre => 1
  | .radio => 2

def pathOf : Nat → Option Path
  | 1 => some .fibre
  | 2 => some .radio
  | _ => none

def optPathCode : Option Path → Nat
  | none => 0
  | some p => pathCode p

def generatorOf : Nat → Option Generator
  | 1 => some .a
  | 2 => some .b
  | _ => none

def generatorCode : Generator → Nat
  | .a => 1
  | .b => 2

def Assignment.code : Assignment → Nat
  | .none => 0
  | .genA => 1
  | .genB => 2

def assignmentOf : Nat → Option Assignment
  | 0 => some .none
  | 1 => some .genA
  | 2 => some .genB
  | _ => Option.none

def Service.code : Service → Nat
  | .init => 0
  | .config => 1
  | .service => 2

def PathState.code : PathState → Nat
  | .down => 1
  | .proving => 2
  | .up => 3
  | .weak => 4
  | .suppressed => 5

def ClassPath.code : ClassPath → Nat
  | .fibre => 1
  | .radio => 2
  | .waiting => 3
  | .blocked => 4

def FlowState.code : FlowState → Nat
  | .free => 0
  | .carried _ => 1
  | .waiting => 2
  | .blocked => 3
  | .expired => 4

/-- The path of a flow state: NONE unless OPEN (R99). -/
def FlowState.path : FlowState → Option Path
  | .carried p => some p
  | .free | .waiting | .blocked | .expired => none

def RadioState.code : RadioState → Nat
  | .off => 1
  | .powering => 2
  | .idle => 3
  | .attaching => 4
  | .attached => 5
  | .opening => 6
  | .session => 7
  | .closing => 8
  | .detaching => 9
  | .stopping => 10
  | .backoff => 11
  | .resetting => 12
  | .fault => 13
  | .resync => 14

def Target.code : Target → Nat
  | .off => 0
  | .attached => 1
  | .session => 2

def Standby.code : Standby → Nat
  | .cold => 0
  | .warm => 1
  | .hot => 2

def standbyOf : Nat → Option Standby
  | 0 => some .cold
  | 1 => some .warm
  | 2 => some .hot
  | _ => none

def RadioUse.code : RadioUse → Nat
  | .never => 0
  | .failover => 1
  | .failoverWeak => 2

def radioUseOf : Nat → Option RadioUse
  | 0 => some .never
  | 1 => some .failover
  | 2 => some .failoverWeak
  | _ => none

/-- Off/on, no/yes, flags, styles, polarities and returns: 0 or 1. -/
def flagOf : Nat → Option Bool
  | 0 => some false
  | 1 => some true
  | _ => none

def Stage.code : Stage → Nat
  | .normal => 0
  | .conserve => 1
  | .reserve => 2
  | .exhausted => 3

def Supply.code : Supply → Nat
  | .mains => 0
  | .battery => 1
  | .batteryLow => 2
  | .critical => 3

def Cause.code : Cause → Nat
  | .physical => 1
  | .loss => 2
  | .latency => 3
  | .signal => 4

def ReturnState.code : ReturnState → Nat
  | .notArmed => 0
  | .armed => 1
  | .passed => 2

def HoldEnd.code : HoldEnd → Nat
  | .none => 0
  | .released => 1
  | .expired => 2
  | .broken => 3
  | .stopped => 4

def DrillOutcome.code : DrillOutcome → Nat
  | .pass => 1
  | .fail => 2
  | .aborted => 3

def DrillCause.code : DrillCause → Nat
  | .radioUp => 1
  | .limit => 2
  | .radioFault => 3
  | .realUse => 4
  | .cancelled => 5
  | .stopped => 6

/-- The code of a field that is 0 where there is none. -/
def optCode {α : Type} (f : α → Nat) : Option α → Nat
  | none => 0
  | some a => f a

/-- Link kind codes of requests (section 11.10). -/
def Request.code : Request → Nat
  | .attach => 0x01
  | .detach => 0x02
  | .openSession => 0x03
  | .closeSession => 0x04
  | .signalQuery => 0x05

/-- A grade in records: 0..31, UNKNOWN 99 (R190). -/
def gradeCode : Option Nat → Nat
  | none => 99
  | some g => g

/-- Flags in one byte, the first at bit 0. -/
def flagBits : List Bool → Nat
  | [] => 0
  | b :: bs => b.toNat + 2 * flagBits bs

/-! ## Results of orders (R176) -/

inductive ResultCode where
  | ok
  | clamped
  | badKind
  | badValue
  | wrongState
  | busy
  | full
  | noSuch
  | notUsable
  | notHeld
  | notRunning
  | inUse
  | stage
  | radioFault
deriving DecidableEq, Repr

def ResultCode.code : ResultCode → Nat
  | .ok => 0
  | .clamped => 1
  | .badKind => 2
  | .badValue => 3
  | .wrongState => 4
  | .busy => 5
  | .full => 6
  | .noSuch => 7
  | .notUsable => 8
  | .notHeld => 9
  | .notRunning => 10
  | .inUse => 11
  | .stage => 12
  | .radioFault => 13

/-- CLAMPED if any value was clamped, and OK otherwise (R176). -/
def okOrClamped (clamped : Bool) : ResultCode := if clamped then .clamped else .ok

/-! ## Order slots (section 11.2) -/

/-- The first byte of a slot. -/
def slotBase (i : Nat) : Nat := 0x0100 + 128 * i

/-- Slot states (section 9.3). -/
def Slot.ready : Byte := 1
def Slot.done : Byte := 3

def slotState (m : Memory) (i : Nat) : Byte := m.read (slotBase i)
def slotKind (m : Memory) (i : Nat) : Nat := (m.read (slotBase i + 1)).toNat
def slotTicket (m : Memory) (i : Nat) : Nat := leValue (m.readBytes (slotBase i + 2) 2)
def slotParams (m : Memory) (i : Nat) : List Byte := m.readBytes (slotBase i + 8) 96

/-- Result, answer and DONE written (R174). -/
def slotAnswer (m : Memory) (i : Nat) (r : ResultCode) (answer : List Byte) : Memory :=
  let m := m.writeBytes (slotBase i + 4) (leBytes 2 r.code)
  let m := m.writeBytes (slotBase i + 104) (padTo 24 answer)
  m.write (slotBase i) Slot.done

/-- The kind codes of section 9.8. -/
def Kind.setGenerator : Nat := 0x10
def Kind.setProbing : Nat := 0x11
def Kind.setTemplate : Nat := 0x12
def Kind.setScoring : Nat := 0x20
def Kind.setDamping : Nat := 0x21
def Kind.clearCause : Nat := 0x22
def Kind.setRadio : Nat := 0x30
def Kind.setModemLines : Nat := 0x31
def Kind.releaseRadio : Nat := 0x32
def Kind.setClass : Nat := 0x40
def Kind.setSteering : Nat := 0x41
def Kind.holdPath : Nat := 0x42
def Kind.releaseHold : Nat := 0x43
def Kind.openFlow : Nat := 0x50
def Kind.closeFlow : Nat := 0x51
def Kind.setAllowance : Nat := 0x60
def Kind.newPeriod : Nat := 0x61
def Kind.setSupply : Nat := 0x70
def Kind.runDrill : Nat := 0x71
def Kind.cancelDrill : Nat := 0x72
def Kind.setEventEdges : Nat := 0x80
def Kind.startService : Nat := 0x90
def Kind.stopService : Nat := 0x91
def Kind.setExchange : Nat := 0x92

/-- The order a kind code stands for (section 9.8). -/
def kindOrder (kind : Nat) : Option Instr :=
  match kind with
  | 0x10 => some .setGenerator
  | 0x11 => some .setProbing
  | 0x12 => some .setTemplate
  | 0x20 => some .setScoring
  | 0x21 => some .setDamping
  | 0x22 => some .clearCause
  | 0x30 => some .setRadio
  | 0x31 => some .setModemLines
  | 0x32 => some .releaseRadio
  | 0x40 => some .setClass
  | 0x41 => some .setSteering
  | 0x42 => some .holdPath
  | 0x43 => some .releaseHold
  | 0x50 => some .openFlow
  | 0x51 => some .closeFlow
  | 0x60 => some .setAllowance
  | 0x61 => some .newPeriod
  | 0x70 => some .setSupply
  | 0x71 => some .runDrill
  | 0x72 => some .cancelDrill
  | 0x80 => some .setEventEdges
  | 0x90 => some .startService
  | 0x91 => some .stopService
  | 0x92 => some .setExchange
  | _ => none

/-! ## Frames (R118, R119, R8, R133) -/

/-- A frame from the LAN port: its flow byte, its class byte (none where untagged) and the frame proper (R118). -/
structure LanFrame where
  flow : Option Nat
  cls : Option Nat
  data : List Byte
deriving DecidableEq, Repr

/-- The steering tag read (R118). A flow byte of 128..255 names no flow. -/
def readTag (bytes : List Byte) : LanFrame :=
  if bytes.head? = some 0xC4 then
    let flow := (bytes.getD 1 0).toNat
    { flow := if flow < 128 then some flow else none,
      cls := some (bytes.getD 2 0).toNat,
      data := bytes.drop 4 }
  else { flow := none, cls := none, data := bytes }

/-- A frame length that is carried (R119, R132). -/
def frameFits (data : List Byte) : Bool :=
  decide (Config.frameMin ≤ data.length) && decide (data.length ≤ Config.frameMax)

/-- The outbound frame is accepted: length, and class byte where tagged (R119). -/
def LanFrame.accepted (f : LanFrame) : Bool := frameFits f.data && decide (f.cls.getD 0 ≤ 7)

/-- The probe marker (section 11.10). -/
def probeMarker : List Byte := [0xD3, 0x5A, 0x0F, 0x96]

/-- The last 12 bytes of a frame. -/
def trailerOf (data : List Byte) : List Byte := data.drop (data.length - 12)

/-- Probe-shaped: at least 12 bytes, the last 12 beginning with the marker (R8). -/
def probeShaped (data : List Byte) : Bool :=
  decide (12 ≤ data.length) && decide ((trailerOf data).take 4 = probeMarker)

/-- The path byte and the sequence number of a probe trailer (section 11.10). -/
def trailerPath (data : List Byte) : Nat := ((trailerOf data).getD 4 0).toNat
def trailerSeq (data : List Byte) : Half := BitVec.ofNat 16 (beValue (((trailerOf data).drop 6).take 2))

/-- The probe frame: template, zeros to 48 bytes, trailer (R7). -/
def probeFrame (p : Path) (template : List Byte) (seq : Half) (sent : Time) : List Byte :=
  template ++ List.replicate (48 - template.length) 0
    ++ probeMarker ++ [byteOf (pathCode p), 0] ++ beBytes 2 seq.toNat ++ beBytes 4 sent.toNat

/-- The arrival tag in front of an inbound frame (R133). -/
def arrivalTag (p : Path) : List Byte := [0xC5, byteOf (pathCode p), 0, 0]

/-! ## Control link messages (R54, R55) -/

/-- The check byte: the two's complement of the sum of kind, length and payload (R54). -/
def checkByte (body : List Byte) : Byte := 0 - body.foldl (· + ·) 0

/-- The frame of a request (R54). -/
def requestFrame (k : Request) : List Byte :=
  let body : List Byte := [byteOf k.code, 0]
  0x7E :: body ++ [checkByte body]

/-- A message the modem sends (section 3.2). -/
inductive LinkMessage where
  | ok
  | refused (reason : Byte)
  | signalAnswer (grade : Byte)
  | sessionClosed
  | detached
  | signalIndication (grade : Byte)
deriving DecidableEq, Repr

/-- Kind, length and payload of a message (section 3.2). -/
def LinkMessage.body : LinkMessage → List Byte
  | .ok => [0x81, 0]
  | .refused reason => [0x82, 1, reason]
  | .signalAnswer grade => [0x83, 1, grade]
  | .sessionClosed => [0xC1, 0]
  | .detached => [0xC2, 0]
  | .signalIndication grade => [0xC3, 1, grade]

/-- The frame of a message (R54). -/
def LinkMessage.frame (m : LinkMessage) : List Byte := 0x7E :: m.body ++ [checkByte m.body]

/-- A kind with the payload the table gives it (R55, section 11.10). -/
def linkMessageOf : Nat → List Byte → Option LinkMessage
  | 0x81, [] => some .ok
  | 0x82, [r] => some (.refused r)
  | 0x83, [g] => some (.signalAnswer g)
  | 0xC1, [] => some .sessionClosed
  | 0xC2, [] => some .detached
  | 0xC3, [g] => some (.signalIndication g)
  | _, _ => none

/-- A grade byte: 0..31 is a grade, every other value UNKNOWN (section 3.2). -/
def gradeOf (b : Byte) : Option Nat := if b.toNat ≤ 31 then some b.toNat else none

/-- Bytes from the first start byte on; what comes before it is dropped while hunting (R55). -/
def hunt : List Byte → List Byte
  | [] => []
  | b :: bs => if b = 0x7E then b :: bs else hunt bs

/-- What the receiver makes of one frame that has arrived whole. -/
inductive Received where
  | taken (m : LinkMessage)
  | discarded
deriving DecidableEq, Repr

/-- The receiver's work over bytes that have arrived: frames taken and discarded in order, and the bytes of the
frame still under way. A discarded frame is hunted through from the byte after its start byte (R55). -/
def receive : Nat → List Byte → List Received × List Byte
  | 0, bs => ([], bs)
  | fuel + 1, bs =>
    match hunt bs with
    | start :: kind :: len :: rest =>
      if rest.length < len.toNat + 1 then ([], start :: kind :: len :: rest)
      else
        let payload := rest.take len.toNat
        let check := rest.getD len.toNat 0
        match (if checkByte (kind :: len :: payload) = check then linkMessageOf kind.toNat payload else none) with
        | some m =>
          let (more, left) := receive fuel (rest.drop (len.toNat + 1))
          (.taken m :: more, left)
        | none =>
          let (more, left) := receive fuel (kind :: len :: rest)
          (.discarded :: more, left)
    | part => ([], part)

end Sys2Proof.Machine
end

