-- ==== Sys2Proof/Machine/Flags.lean ====
section
/-! DEFINITION. The event unit: the 16 condition bits as facts of the state, the edge events their changes latch,
the fixed events, and the IRQ line (chapter 10). -/

namespace Sys2Proof.Machine

/-- Bit numbers of the fixed events (R186). -/
def Bit.initDone : Nat := 0
def Bit.fibreChange : Nat := 1
def Bit.radioPathChange : Nat := 2
def Bit.classMove : Nat := 3
def Bit.flowChange : Nat := 4
def Bit.stageChange : Nat := 5
def Bit.overrun : Nat := 6
def Bit.supplyChange : Nat := 7
def Bit.radioState : Nat := 8
def Bit.radioFault : Nat := 9
def Bit.holdEnd : Nat := 10
def Bit.drillEnd : Nat := 11
def Bit.causeLatched : Nat := 12
def Bit.holdDrops : Nat := 13
def Bit.orderDone : Nat := 14
def Bit.readyChange : Nat := 15

/-- A word with this one bit set. -/
def bitMask (i : Nat) : Word := BitVec.ofNat 32 (2 ^ i)

/-- A fixed event latches; a bit already set stays set (R186). -/
def latch (i : Nat) (w : Work) : Work := w.onEv fun e => { e with latch := e.latch ||| bitMask i }

/-- Bits as a number, the first at bit 0. -/
def bitsToNat : List Bool → Nat
  | [] => 0
  | b :: bs => b.toNat + 2 * bitsToNat bs

/-- A stage at or above CONSERVE, at or above RESERVE (R141). -/
def Stage.atConserve : Stage → Bool
  | .normal => false
  | .conserve | .reserve | .exhausted => true

def Stage.atReserve : Stage → Bool
  | .normal | .conserve => false
  | .reserve | .exhausted => true

/-- The 16 facts of R183, bit 0 first. -/
def State.factList (s : State) : List Bool :=
  [ s.fibreUsable,
    s.radioUsable,
    decide (s.ru.state = .session),
    s.classes.any (fun c => decide (c.cur = .radio)) || s.flows.any (fun f => decide (f.state = .carried .radio)),
    s.classes.any (fun c => decide (c.cur = .waiting)) || s.flows.any (fun f => decide (f.state = .waiting)),
    s.allow.stage.atConserve,
    s.allow.stage.atReserve,
    s.allow.live,
    s.allow.sticky,
    decide (s.sup.state ≠ .mains),
    decide (s.sup.state = .critical),
    s.drill.running,
    s.drill.pass,
    s.hold.active,
    s.fibre.ready,
    s.radio.ready ]

/-- The condition set as the facts stand (R183). -/
def State.facts (s : State) : Half := BitVec.ofNat 16 (bitsToNat s.factList)

/-- The edge events that a change of the condition set latches under the two masks, at bits 16 to 31 (R184). -/
def edgeEvents (rising falling old new : Half) : Word :=
  (((new &&& ~~~old) &&& rising) ||| ((old &&& ~~~new) &&& falling)).setWidth 32 <<< 16

/-- Every condition bit whose fact has changed is written and its change handed to the edge masks; the header is
rewritten with it (R183, R184). -/
def handConditions (w : Work) : Work :=
  let new := w.st.facts
  if new = w.st.ev.cond then w
  else (w.onEv fun e => { e with cond := new, latch := e.latch ||| edgeEvents e.rising e.falling e.cond new }).touch .header

/-- The IRQ line's level from its three inputs (R189). -/
def irqLevel (intEnable : Bool) (latch enable : Word) : Bool := intEnable && decide (latch &&& enable ≠ 0)

/-- The IRQ line recomputed (R189). -/
def refreshIrq (s : State) : State :=
  { s with ev := { s.ev with irq := irqLevel s.exch.intEnable s.ev.latch s.ev.enable } }

end Sys2Proof.Machine
end

