-- ==== Sys2Proof/Machine/Meter.lean ====
section
/-! DEFINITION. The allowance meter's shared operations: boundaries, stage, overrun, additions (chapter 7). -/

namespace Sys2Proof.Machine

/-- Order of the stages (R140). -/
def Stage.rank : Stage → Nat
  | .normal => 0
  | .conserve => 1
  | .reserve => 2
  | .exhausted => 3

/-- The boundaries from A, c and r (R139). -/
def Allowance.bounded (a : Allowance) : Allowance :=
  { a with bc := a.kib * 1024 * a.conserve / 100, br := a.kib * 1024 * a.reserve / 100, bx := a.kib * 1024 }

/-- The stage of used bytes against the boundaries (R140). -/
def Allowance.stageNow (a : Allowance) : Stage :=
  if a.kib = 0 then .normal
  else if a.bx ≤ a.used then .exhausted
  else if a.br ≤ a.used then .reserve
  else if a.bc ≤ a.used then .conserve
  else .normal

/-- Live overrun (R142). -/
def Allowance.liveNow (a : Allowance) : Bool := decide (a.kib ≠ 0) && decide (a.bx ≤ a.used)

/-- Stage, peak stage and both overrun flags from U and the boundaries (R140, R142, R144). -/
def Allowance.restaged (a : Allowance) : Allowance :=
  { a with
    stage := a.stageNow,
    peak := if a.peak.rank < a.stageNow.rank then a.stageNow else a.peak,
    live := a.liveNow,
    sticky := a.sticky || (a.liveNow && !a.live) }

/-- The stage recomputed with the effects of a change (R140, R141, R142). -/
def restage (w : Work) : Work :=
  let old := w.st.allow
  let w := w.onAllow Allowance.restaged
  let w := if old.liveNow && !old.live then latch Bit.overrun w else w
  let w := handConditions w
  if old.stageNow = old.stage then w else (latch Bit.stageChange w).owePass

/-- An addition of counted bytes to U (R136, R137). -/
def addUsed (n : Nat) (w : Work) : Work :=
  restage (w.onAllow fun a => { a with used := min (a.used + n) max64 })

/-- The counted length of a frame: its length plus the overhead in force (R136). -/
def State.counted (s : State) (data : List Byte) : Nat := data.length + s.allow.overhead

end Sys2Proof.Machine
end

