-- ==== Sys2Proof/Machine/Port.lean ====
section
/-! DEFINITION. The forwarding unit's shared operations: handoff at a ready port, entry into a band, flushes, and frames
that leave the hold buffer by being dropped (chapter 6). -/

namespace Sys2Proof.Machine

/-- The port can take a frame: it is not sending one, and its link is up or the session is open (R124, R125). -/
def State.portReady (s : State) : Path → Bool
  | .fibre => s.fin.link && s.fwd.fibreQ.sending.isNone
  | .radio => decide (s.ru.state = .session) && s.fwd.radioQ.sending.isNone

/-- The frame a ready port takes first, and the queue without it (R123). -/
def TxQueue.next (q : TxQueue) : Option (TxFrame × TxQueue) :=
  match q.probes, q.urgent, q.normal with
  | f :: fs, _, _ => some (f, { q with probes := fs })
  | [], f :: fs, _ => some (f, { q with urgent := fs })
  | [], [], f :: fs => some (f, { q with normal := fs })
  | [], [], [] => none

/-- A counted length added to a flow's radio bytes (R114). -/
def FlowRec.addBytes (n : Nat) (f : FlowRec) : FlowRec :=
  if max32 < f.bytes + n then { f with bytes := max32, saturated := true } else { f with bytes := f.bytes + n }

/-- The flow part of a radio handoff (R114, R123). -/
def countFlow (flow : Option Nat) (n : Nat) (w : Work) : Work :=
  match flow with
  | none => w
  | some i => w.onFlow i (FlowRec.addBytes n)

/-- The handoff of a frame to its port; at the modem data link it is counted (R123, R136). -/
def handoff (p : Path) (f : TxFrame) (rest : TxQueue) (w : Work) : Work :=
  let w := w.onQueue p fun _ => { rest with sending := some f.data }
  match p with
  | .fibre => w
  | .radio => addUsed (w.st.counted f.data) (countFlow f.flow (w.st.counted f.data) w)

/-- A ready port takes its next frame, if one waits (R123). -/
def takeNext (p : Path) (w : Work) : Work :=
  if w.st.portReady p then
    match (w.st.fwd.queue p).next with
    | none => w
    | some (f, rest) => handoff p f rest w
  else w

/-- The band of a tier: urgent for 0 and 1 (R122). -/
def TxQueue.band (q : TxQueue) (tier : Nat) : List TxFrame := if tier ≤ 1 then q.urgent else q.normal

/-- A frame at the tail of the band of a tier. -/
def TxQueue.append (tier : Nat) (f : TxFrame) (q : TxQueue) : TxQueue :=
  if tier ≤ 1 then { q with urgent := q.urgent ++ [f] } else { q with normal := q.normal ++ [f] }

/-- The band a frame of this tier would enter is full (R122). -/
def State.bandFull (s : State) (p : Path) (tier : Nat) : Bool :=
  decide (Config.bandMax ≤ ((s.fwd.queue p).band tier).length)

/-- One queue drop of a path (R122, R135). -/
def ForwardCounts.queueDrop (p : Path) (c : ForwardCounts) : ForwardCounts :=
  match p with
  | .fibre => { c with fibreDrop := hold32 (c.fibreDrop + 1) }
  | .radio => { c with radioDrop := hold32 (c.radioDrop + 1) }

/-- A frame enters the band of its tier, or is dropped where the band is full; a ready port takes it at once
(R122, R123). -/
def enterBand (p : Path) (tier : Nat) (f : TxFrame) (w : Work) : Work :=
  if w.st.bandFull p tier then w.onCounts (ForwardCounts.queueDrop p)
  else takeNext p (w.onQueue p (TxQueue.append tier f))

/-- Frames removed by a flush, counted (R124, R125, R135). -/
def ForwardCounts.flush (p : Path) (n : Nat) (c : ForwardCounts) : ForwardCounts :=
  match p with
  | .fibre => { c with fibreFlush := hold32 (c.fibreFlush + n) }
  | .radio => { c with radioFlush := hold32 (c.radioFlush + n) }

/-- Both bands of a path emptied and counted (R124, R125). -/
def flushQueue (p : Path) (w : Work) : Work :=
  let q := w.st.fwd.queue p
  (w.onQueue p fun q => { q with urgent := [], normal := [] }).onCounts
    (ForwardCounts.flush p (q.urgent.length + q.normal.length))

/-- A frame of a BLOCKED class or flow, counted to its class (R80, R121). -/
def dropBlocked (cls : Nat) (w : Work) : Work :=
  w.onClass cls fun c => { c with dropped := hold32 (c.dropped + 1) }

/-- Held frames dropped and counted; HOLD_DROPS latches if there were any (R128, R130, R131). -/
def dropHeld (gone : HeldFrame → Bool) (tally : Nat → ForwardCounts → ForwardCounts) (w : Work) : Work :=
  let n := (w.st.fwd.held.filter gone).length
  if n = 0 then w
  else
    latch Bit.holdDrops
      ((w.onFwd fun f => { f with held := f.held.filter fun h => !gone h }).onCounts (tally n))

/-- The hold-discard count (R130). -/
def ForwardCounts.discardHeld (n : Nat) (c : ForwardCounts) : ForwardCounts :=
  { c with holdDiscard := hold32 (c.holdDiscard + n) }

/-- The hold-age count (R128). -/
def ForwardCounts.ageHeld (n : Nat) (c : ForwardCounts) : ForwardCounts :=
  { c with holdAge := hold32 (c.holdAge + n) }

/-- The frame's age has reached the hold-age limit (R128). -/
def State.aged (s : State) (h : HeldFrame) : Bool := decide (s.steer.holdAge ≤ elapsed s.now h.arrival)

/-- Frames of a transmit queue that were bound to a flow lose the binding (R126). -/
def unbind (i : Nat) (fs : List TxFrame) : List TxFrame :=
  fs.map fun f => if f.flow = some i then { f with flow := none } else f

def TxQueue.unbound (i : Nat) (q : TxQueue) : TxQueue :=
  { q with urgent := unbind i q.urgent, normal := unbind i q.normal }

/-- What becomes of a flow's frames when its record is freed or expires (R104, R110, R126, R130). -/
def releaseFrames (i : Nat) (w : Work) : Work :=
  let w := dropHeld (fun h => decide (h.flow = some i)) ForwardCounts.discardHeld w
  (w.onQueue .fibre (TxQueue.unbound i)).onQueue .radio (TxQueue.unbound i)

end Sys2Proof.Machine
end

