-- ==== Sys2Proof/Machine/Monitor.lean ====
section
/-! DEFINITION. The path monitors and the probe engine's shared operations: settling, path state changes with all they
hand on, falls and the cause record, scores, and the way from a resolved probe to an evaluation (chapters 1 and 2);
with them the ends of a hold and of a drill, which path state changes can cause. -/

namespace Sys2Proof.Machine

/-! ## Ends of holds and drills -/

/-- The end of a hold latches HOLD_END (R93). -/
def HoldEnd.latches : HoldEnd → Bool
  | .expired | .broken => true
  | .none | .released | .stopped => false

/-- A hold ends (R93). -/
def endHold (reason : HoldEnd) (w : Work) : Work :=
  if w.st.hold.active then
    let w := w.onHold fun h => { h with active := false, stop := w.now, reason := reason }
    let w := if reason.latches then latch Bit.holdEnd w else w
    ((handConditions w).touch .hold).owePass
  else w

/-- The drill record of a drill that ends now (R161). -/
def drillRecordNow (s : State) (outcome : DrillOutcome) (cause : DrillCause) : DrillRecord :=
  { valid := true, outcome := some outcome, cause := some cause, start := s.drill.start, limit := s.drill.limit,
    duration := s.now - s.drill.start, radio := some s.ru.state, path := some s.radio.state,
    score := s.reported .radio, measured := s.radio.measured, pathCause := s.radio.cause.cause,
    causeValid := s.radio.cause.valid, attaches := s.ru.attaches - s.drill.attaches }

/-- A running drill ends with an outcome (R158 to R161); demand is recomputed in this event. -/
def endDrill (outcome : DrillOutcome) (cause : DrillCause) (w : Work) : Work :=
  if w.st.drill.running then
    let w := w.onDrill fun d =>
      { d with running := false, pass := decide (outcome = .pass), last := drillRecordNow w.st outcome cause }
    let w := handConditions (latch Bit.drillEnd w)
    { (w.touch .supply).oweDemand with drillEnded := true }
  else w

/-! ## Settling -/

/-- READY_CHANGE and the condition bit, where measure readiness has changed (R14). -/
def noteReady (p : Path) (was : Bool) (w : Work) : Work :=
  if (w.st.path p).ready = was then w else latch Bit.readyChange (handConditions w)

/-- A path settled, fail count and probes waiting at the port included (R7, R15, R23, R35). -/
def settle (p : Path) (w : Work) : Work :=
  let was := (w.st.path p).ready
  let w := w.onPath p fun r =>
    { r with probes := [], window := [], s := 0, replied := false, ticks := 0, failCount := 0 }
  noteReady p was (w.onQueue p fun q => { q with probes := [] })

/-! ## Path state changes -/

/-- The path's own part of a state change: fail count and usable-since (R35, R36). -/
def PathRec.enter (n : PathState) (now : Time) (r : PathRec) : PathRec :=
  { r with
    state := n,
    failCount := if r.state.usable && n.usable then r.failCount else 0,
    usableSince := if !r.state.usable && n.usable then now else r.usableSince,
    usableFlag := n.usable }

/-- A hold's view of a path state change: seen usable, or broken (R91, R95). -/
def holdSees (p : Path) (old new : PathState) (w : Work) : Work :=
  if w.st.hold.active && decide (w.st.hold.path = some p) then
    match p with
    | .fibre => if old.usable && !new.usable then endHold .broken w else w
    | .radio =>
      if new.usable then w.onHold fun h => { h with seen := true }
      else if old.usable && w.st.hold.seen then endHold .broken w
      else w
  else w

/-- The return-delay state's view of a fibre state change (R83). The due time is written when the delay is armed and
stays after that, whatever becomes of the state: the model's choice (log 31). -/
def returnSees (old new : PathState) (w : Work) : Work :=
  if !old.usable && new.usable then
    if w.st.steer.delay = 0 then (w.onSteer fun t => { t with ret := .passed }).touch .hold
    else (w.onSteer fun t => { t with ret := .armed, retDue := later w.now (t.delay * 1000) }).touch .hold
  else if old.usable && !new.usable then (w.onSteer fun t => { t with ret := .notArmed }).touch .hold
  else w

/-- The fixed event of a path's state changes (R38). -/
def changeBit : Path → Nat
  | .fibre => Bit.fibreChange
  | .radio => Bit.radioPathChange

/-- What the entry into DOWN brings: settling, and on fibre the flush (R15, R38, R124). -/
def enterDown (p : Path) (w : Work) : Work :=
  match p with
  | .fibre => flushQueue .fibre (settle .fibre w)
  | .radio => settle .radio w

/-- What only one path has at a change: the return delay on fibre, the grade state and the drill on radio
(R17, R32, R83, R158). -/
def pathSees (p : Path) (old new : PathState) (w : Work) : Work :=
  match p with
  | .fibre => returnSees old new w
  | .radio =>
    let w := if old = .down then w.onGrade fun _ => GradeState.start else w
    if new = .up then endDrill .pass .radioUp w else w

/-- A path changes state, with everything the change hands on; its record is rewritten in the event, even where the
event takes the state back, and the steering pass is owed (R38, R51). -/
def setPathState (p : Path) (n : PathState) (w : Work) : Work :=
  let old := (w.st.path p).state
  if old = n then w
  else
    let w := w.onPath p (PathRec.enter n w.now)
    let w := if n = .down then enterDown p w else w
    let w := holdSees p old n w
    let w := handConditions (latch (changeBit p) w)
    ((pathSees p old n w).touch (.path p)).owePass

/-! ## Falls and the cause record -/

/-- The flap penalty increased (R39). -/
def PathRec.penalize (n : Nat) (r : PathRec) : PathRec := { r with penalty := min Config.penaltyMax (r.penalty + n) }

/-- A snapshot of a path as it stands, with the state it falls from (R45). -/
def snapshotOf (s : State) (p : Path) : Snapshot :=
  let r := s.path p
  let g := s.shownGrade p
  { time := s.now, before := some r.state, h := s.reported p, n := r.window.length, l := r.losses, s := r.s,
    grade := g.scoring, gradeValid := g.valid, penalty := r.penalty }

/-- Significance of a cause: a lower number is more significant (R45). -/
def Cause.rank : Cause → Nat
  | .physical => 1
  | .loss => 2
  | .latency => 3
  | .signal => 4

/-- The offered cause is more significant than the recorded one (R47). -/
def moreSignificant (offered : Cause) : Option Cause → Bool
  | none => true
  | some held => decide (offered.rank < held.rank)

/-- The offer writes the cause field (first and third row of R47). -/
def CauseRecord.writes (c : CauseRecord) (lock : Bool) (offered : Cause) : Bool :=
  !c.valid || (!lock && moreSignificant offered c.cause)

/-- The record after an offer (R47). -/
def CauseRecord.offered (c : CauseRecord) (lock : Bool) (k : Cause) (snap : Snapshot) : CauseRecord :=
  if !c.valid then { valid := true, cause := some k, repeated := false, falls := 1, snap := snap }
  else if c.writes lock k then { c with cause := some k, snap := snap, falls := hold8 (c.falls + 1) }
  else { c with repeated := true, falls := hold8 (c.falls + 1) }

/-- A cause offered to a path's cause record, with the snapshot of the path as it stands (R47). -/
def offerCause (p : Path) (k : Cause) (w : Work) : Work :=
  let r := w.st.path p
  let snap := snapshotOf w.st p
  let w := w.onPath p fun r => { r with cause := r.cause.offered r.lockFirst k snap }
  if r.cause.writes r.lockFirst k then latch Bit.causeLatched w else w

/-- A physical loss (R31). -/
def physicalLoss (p : Path) (w : Work) : Work :=
  let old := (w.st.path p).state
  if old = .down then w
  else
    let w := if old.usable then offerCause p .physical (w.onPath p (PathRec.penalize 1000)) else w
    setPathState p .down w

/-- The flap penalty stands at or above the suppress threshold, damping on (R32, R34). -/
def PathRec.suppressible (r : PathRec) : Bool := r.damping && decide (r.suppress ≤ r.penalty)

/-- PROVING, or UP where the path is link-only (R32, R37, R40). -/
def PathRec.provingOrUp (r : PathRec) : PathState := if r.linkOnly then .up else .proving

/-- A physical availability (R32). -/
def physicalAvailability (p : Path) (w : Work) : Work :=
  let r := w.st.path p
  if r.state ≠ .down then w
  else if w.st.exch.service ≠ .service then setPathState p .up w
  else if r.suppressible then setPathState p .suppressed w
  else setPathState p r.provingOrUp w

/-- A SUPPRESSED path leaves it for PROVING, or UP where link-only (R40, R41). -/
def releaseSuppressed (p : Path) (w : Work) : Work := setPathState p (w.st.path p).provingOrUp w

/-! ## Scores -/

/-- P_L (R24). -/
def lossPenalty (n l : Nat) : Nat := l * 600 / n

/-- P_T (R24). -/
def latencyPenalty (r : PathRec) : Nat :=
  if !r.replied then 300
  else if r.s ≤ r.floor then 0
  else if r.ceiling ≤ r.s then 300
  else 300 * (r.s - r.floor) / (r.ceiling - r.floor)

/-- P_G from the scoring grade (R25). -/
def gradePenalty (g : Nat) : Nat := if 20 ≤ g then 0 else (20 - g) * 10

/-- P_G of a path: 0 on fibre (R25). -/
def State.signalPenalty (s : State) : Path → Nat
  | .fibre => 0
  | .radio => gradePenalty s.grade.scoring

/-- H (R26). -/
def healthScore (pl pt pg : Nat) : Nat := 1000 - (pl + pt + pg)

/-- The dominant score cause (R46). -/
def dominantCause (pl pt pg : Nat) : Cause :=
  if pt ≤ pl ∧ pg ≤ pl then .loss else if pg ≤ pt then .latency else .signal

/-- A fall on score (R34). -/
def fallOnScore (p : Path) (k : Cause) (w : Work) : Work :=
  let w := w.onPath p fun r => { r.penalize 500 with failCount := 0 }
  let w := offerCause p k w
  setPathState p (if (w.st.path p).suppressible then .suppressed else .proving) w

/-- The state rule of UP and WEAK after a computation of H (R34). -/
def judgeUsable (p : Path) (h : Nat) (k : Cause) (w : Work) : Work :=
  let r := w.st.path p
  if h < r.failT then
    if r.failLimit ≤ r.failCount + 1 then fallOnScore p k w
    else setPathState p .weak (w.onPath p fun r => { r with failCount := r.failCount + 1 })
  else
    let w := w.onPath p fun r => { r with failCount := 0 }
    if r.upT ≤ h then setPathState p .up w
    else if h < r.weakT then setPathState p .weak w
    else w

/-- The state rule of the path's current state (R33, R34). -/
def judge (p : Path) (h : Nat) (k : Cause) (w : Work) : Work :=
  match (w.st.path p).state with
  | .proving => if (w.st.path p).upT ≤ h then setPathState p .up w else w
  | .up => judgeUsable p h k w
  | .weak => judgeUsable p h k w
  | .suppressed => w
  | .down => w

/-- An evaluation event: with the path scoring and N at least 8, H is computed and the state rule applied (R27). -/
def evaluate (p : Path) (w : Work) : Work :=
  let r := w.st.path p
  if w.st.scoring p && r.ready then
    let pl := lossPenalty r.window.length r.losses
    let pt := latencyPenalty r
    let pg := w.st.signalPenalty p
    let h := healthScore pl pt pg
    judge p h (dominantCause pl pt pg) (w.onPath p fun r => { r with score := h, measured := true })
  else w

/-! ## From probes to results -/

/-- The smoothed RTT after a REPLIED result (R23). -/
def PathRec.smooth (rtt : Nat) (r : PathRec) : PathRec :=
  if r.replied then { r with s := (7 * r.s + rtt + 4) / 8 } else { r with s := rtt, replied := true }

/-- A result at the newest end of the window (R13). -/
def PathRec.record (x : Result) (r : PathRec) : PathRec :=
  let full := r.window ++ [x]
  let r := { r with window := full.drop (full.length - Config.windowMax) }
  match x.rtt with
  | none => r
  | some rtt => r.smooth rtt

/-- A result enters the window and is evaluated (R11, R13, R14, R27). -/
def enterResult (p : Path) (x : Result) (w : Work) : Work :=
  let was := (w.st.path p).ready
  evaluate p (noteReady p was (w.onPath p (PathRec.record x)))

/-- The pending list drained: resolved entries at the front leave as results, one at a time (R11). -/
def drainList (p : Path) : List Probe → Work → Work
  | [], w => w.onPath p fun r => { r with probes := [] }
  | e :: rest, w =>
    match e.res with
    | .unresolved => w.onPath p fun r => { r with probes := e :: rest }
    | .replied rtt =>
      drainList p rest (enterResult p { seq := e.seq, rtt := some rtt } (w.onPath p fun r => { r with probes := rest }))
    | .lost =>
      drainList p rest (enterResult p { seq := e.seq, rtt := none } (w.onPath p fun r => { r with probes := rest }))

def drain (p : Path) (w : Work) : Work := drainList p (w.st.path p).probes w

/-- The first unresolved entry with this sequence number, resolved (R9, R10). -/
def resolveSeq (seq : Half) (res : Resolution) : List Probe → List Probe
  | [] => []
  | e :: es => if e.seq = seq ∧ e.res = .unresolved then { e with res := res } :: es else e :: resolveSeq seq res es

/-- The unresolved entry with this sequence number. -/
def findUnresolved (seq : Half) (es : List Probe) : Option Probe :=
  es.find? fun e => decide (e.seq = seq) && decide (e.res = .unresolved)

/-- An entry resolved and the list drained (R9, R10, R11). -/
def resolveProbe (p : Path) (seq : Half) (res : Resolution) (w : Work) : Work :=
  drain p (w.onPath p fun r => { r with probes := resolveSeq seq res r.probes })

/-- A due probe meets a full list: the oldest entry is lost first (R12). -/
def makeRoom (p : Path) (w : Work) : Work :=
  match (w.st.path p).probes with
  | [] => w
  | e :: es =>
    if Config.pendingMax ≤ (e :: es).length then
      drain p (w.onPath p fun r => { r with probes := { e with res := .lost } :: es })
    else w

/-- A due probe is sent: frame built, entry added, counts raised, handed to the port (R6, R7). -/
def sendProbe (p : Path) (w : Work) : Work :=
  let w := makeRoom p w
  let r := w.st.path p
  let clk := w.st.clk
  let entry : Probe :=
    { seq := r.seq, sent := clk.ms, sentSub := clk.sub, expiry := later clk.ms r.timeout, res := .unresolved }
  let frame : TxFrame := { data := probeFrame p r.template r.seq clk.ms, flow := none }
  let w := w.onPath p fun r => { r with probes := r.probes ++ [entry], seq := r.seq + 1, sent := r.sent + 1 }
  takeNext p (w.onQueue p fun q => { q with probes := q.probes ++ [frame] })

/-- A tick offered to a path (R5). -/
def tickPath (p : Path) (w : Work) : Work :=
  let r := w.st.path p
  if w.st.scoring p then
    if r.d ≤ r.ticks + 1 then sendProbe p (w.onPath p fun r => { r with ticks := 0 })
    else w.onPath p fun r => { r with ticks := r.ticks + 1 }
  else w

/-! ## Probe timeout and link-only changes -/

/-- The upper limit of the probe timeout (R4). -/
def timeoutMax (s : State) (a : Assignment) (d : Nat) : Nat :=
  match a with
  | .none => 6500
  | .genA => min (4 * (s.assignedPeriod .genA * d)) 6500
  | .genB => min (4 * (s.assignedPeriod .genB * d)) 6500

/-- The probe interval, 0 where the assignment is NONE (R3). -/
def State.interval (s : State) (r : PathRec) : Nat := s.assignedPeriod r.assign * r.d

/-- A path that has just become link-only in SERVICE goes from PROVING or WEAK to UP (R37). -/
def becameLinkOnly (p : Path) (was : Bool) (w : Work) : Work :=
  let r := w.st.path p
  if !was && r.linkOnly && decide (w.st.exch.service = .service)
      && (decide (r.state = .proving) || decide (r.state = .weak)) then setPathState p .up w
  else w

end Sys2Proof.Machine
end

