-- ==== Sys2Proof/Machine/Modem.lean ====
section
/-! DEFINITION. The radio unit's shared operations: lines and pulses, requests and staleness, the entries into the radio
states, what each answer and indication does, signal reports, and the control link receiver (chapter 3). -/

namespace Sys2Proof.Machine

/-! ## Lines and pulses (R52, R53) -/

/-- A pulse requested on a line: it starts now, or waits for the one in progress (R53). -/
def Pulse.request (now : Time) (width : Nat) (p : Pulse) : Pulse :=
  match p.ends with
  | none => { ends := some (later now width), waiting := false }
  | some _ => { p with waiting := true }

/-- A pulse of a line ends, and a waiting one starts with the width in force (R53). -/
def Pulse.finish (now : Time) (width : Nat) (p : Pulse) : Pulse :=
  if p.waiting then { ends := some (later now width), waiting := false } else Pulse.idle

def RadioUnit.pulsePwr (now : Time) (r : RadioUnit) : RadioUnit :=
  { r with pwr := r.pwr.request now r.lines.pwrWidth }

def RadioUnit.pulseMrst (now : Time) (r : RadioUnit) : RadioUnit :=
  { r with mrst := r.mrst.request now r.lines.mrstWidth }

/-- In PULSE style a PWR pulse is requested; in LEVEL style PWR follows the state (R52). -/
def drivePower (w : Work) : Work := if w.st.ru.lines.level then w else w.onRu (RadioUnit.pulsePwr w.now)

/-! ## Requests (R56, R57) -/

/-- The answer timeout of a request, s (R56). -/
def RadioUnit.answerSeconds (r : RadioUnit) : Request → Nat
  | .attach => r.attachTimeout
  | .openSession => 30
  | .closeSession => 15
  | .detach => 15
  | .signalQuery => 5

/-- The link holds no outstanding request. -/
def RadioUnit.linkFree (r : RadioUnit) : Bool := r.outstanding.isNone

/-- A request sent: it is outstanding and its answer timer runs; an ATTACH is counted (R56). -/
def RadioUnit.send (k : Request) (now : Time) (r : RadioUnit) : RadioUnit :=
  { r with
    outstanding := some { kind := k, stale := false, due := later now (r.answerSeconds k * 1000) },
    attaches := if k = .attach then r.attaches + 1 else r.attaches,
    tx := requestFrame k }

def sendRequest (k : Request) (w : Work) : Work := (w.onRu (RadioUnit.send k w.now)).touch .radioUnit

/-! ## State changes -/

/-- The states in which the poll timer runs (R71). -/
def RadioState.polls : RadioState → Bool
  | .attached | .opening | .session => true
  | .off | .powering | .idle | .attaching | .closing | .detaching | .stopping | .backoff | .resetting | .fault
  | .resync => false

/-- The radio unit's own part of a state change: an outstanding request becomes stale (R57), the state's timer stops,
waiting pulses are dropped (R53), the poll timer keeps, starts or stops and a pending query with it (R71). -/
def RadioUnit.enter (n : RadioState) (now : Time) (r : RadioUnit) : RadioUnit :=
  { r with
    state := n,
    outstanding := r.outstanding.map fun o => { o with stale := true },
    stateDue := none,
    pwr := { r.pwr with waiting := false },
    mrst := { r.mrst with waiting := false },
    pollDue := if n.polls then (if r.state.polls then r.pollDue else some (later now (r.poll * 1000))) else none,
    queryPending := n.polls && r.queryPending }

/-- The effects of leaving SESSION (R61). -/
def leaveSession (w : Work) : Work :=
  physicalLoss .radio (latch Bit.radioState (flushQueue .radio w))

/-- The unit goes to a state, leaving SESSION with its effects where it was there; its record is rewritten in the event,
even where the event takes the state back (R78). -/
def moveTo (n : RadioState) (w : Work) : Work :=
  let old := w.st.ru.state
  let w := (w.onRu (RadioUnit.enter n w.now)).touchIf (decide (old ≠ n)) .radioUnit
  handConditions (if old = .session ∧ n ≠ .session then leaveSession w else w)

/-- The timer of the state just entered (R58, R63, R64). -/
def startTimer (ms : Nat) (w : Work) : Work := w.onRu fun r => { r with stateDue := some (later w.now ms) }

/-- Entry into STOPPING (R63); it is entered with target OFF, so an immediate OFF stays OFF. -/
def enterStopping (w : Work) : Work :=
  let w := moveTo .stopping w
  if w.st.ru.ready then startTimer Config.readyWaitMs (drivePower w) else moveTo .off w

/-- IDLE acts on the target (R59). -/
def actIdle (w : Work) : Work :=
  if w.st.ru.target = .off then enterStopping w
  else if w.st.ru.linkFree then sendRequest .attach (moveTo .attaching w)
  else w

def enterIdle (w : Work) : Work := actIdle (moveTo .idle w)

/-- Entry into POWERING without a power action (R58, R65, R70). -/
def enterPowering (w : Work) : Work :=
  let w := moveTo .powering w
  if w.st.ru.ready then enterIdle w else startTimer Config.readyWaitMs w

/-- OFF acts on the target (R58). The PWR pulse driven on the way to POWERING is requested by POWERING, so that it waits
behind a pulse in progress and is dropped only where POWERING is left first (R53): the model's choice (log 41). -/
def actOff (w : Work) : Work :=
  if w.st.ru.target = .off then w
  else if w.st.ru.ready then enterIdle w
  else startTimer Config.readyWaitMs (drivePower (moveTo .powering w))

def enterOff (w : Work) : Work := actOff (moveTo .off w)

/-- ATTACHED acts on the target, waiting for the link where it is held (R60). -/
def actAttached (w : Work) : Work :=
  match w.st.ru.target with
  | .attached => w
  | .session => if w.st.ru.linkFree then sendRequest .openSession (moveTo .opening w) else w
  | .off => if w.st.ru.linkFree then sendRequest .detach (moveTo .detaching w) else w

def enterAttached (w : Work) : Work := actAttached ((moveTo .attached w).onRu fun r => { r with resets := 0 })

/-- SESSION acts on the target, waiting for the link where it is held (R61). -/
def actSession (w : Work) : Work :=
  if w.st.ru.target ≠ .session ∧ w.st.ru.linkFree then sendRequest .closeSession (moveTo .closing w) else w

/-- Entry into SESSION (R61). -/
def enterSession (w : Work) : Work :=
  let w := (moveTo .session w).onRu fun r => { r with b := 10, attachTimeouts := 0, sessionSince := w.now }
  actSession (physicalAvailability .radio (latch Bit.radioState w))

/-- Entry into BACKOFF: the timer takes b, then b doubles up to 640 s (R64). -/
def enterBackoff (w : Work) : Work :=
  let w := moveTo .backoff w
  startTimer (w.st.ru.b * 1000) (w.onRu fun r => { r with b := min 640 (2 * r.b) })

/-- Entry into RESETTING (R59, R65). -/
def enterResetting (w : Work) : Work :=
  let w := moveTo .resetting w
  w.onRu fun r => { RadioUnit.pulseMrst w.now r with resets := min 3 (r.resets + 1), attachTimeouts := 0 }

/-- A RADIO hold breaks at FAULT (R95). -/
def breakRadioHold (w : Work) : Work := if w.st.hold.path = some .radio then endHold .broken w else w

/-- Entry into FAULT (R66): lines inactive, RADIO_FAULT, a RADIO hold broken, a drill failed, the pass owed. -/
def enterFault (w : Work) : Work :=
  let w := (moveTo .fault w).onRu fun r => { r with pwr := Pulse.idle, mrst := Pulse.idle }
  (breakRadioHold (endDrill .fail .radioFault (latch Bit.radioFault w))).owePass

/-- An exit from FAULT by SET RADIO or a restart zeroes the counts and returns b to 10 s; RADIO_FAULT latches and
the pass is owed (R67). -/
def exitFault (w : Work) : Work :=
  let w := w.onRu fun r => { r with attachTimeouts := 0, resets := 0, b := 10 }
  ((latch Bit.radioFault w).touch .radioUnit).owePass

/-- The tier-0 restart (R67, R102). -/
def tier0Restart (w : Work) : Work := if w.st.ru.state = .fault then enterResetting (exitFault w) else w

/-- The four states that check the target whenever it changes (section 3.4). -/
def act (w : Work) : Work :=
  match w.st.ru.state with
  | .off => actOff w
  | .idle => actIdle w
  | .attached => actAttached w
  | .session => actSession w
  | .powering | .attaching | .opening | .closing | .detaching | .stopping | .backoff | .resetting | .fault
  | .resync => w

/-- The link is free: a waiting state request is sent first, then a pending query (R57, R71). -/
def serveLink (w : Work) : Work :=
  if w.st.ru.linkFree then
    let w := act w
    if w.st.ru.linkFree && w.st.ru.queryPending then
      sendRequest .signalQuery (w.onRu fun r => { r with queryPending := false })
    else w
  else w

/-! ## Signal reports (R17, R18, R72) -/

/-- The grade state after a report (R17). -/
def GradeState.take (g : GradeState) : Option Nat → GradeState
  | some v => { last := some v, unknown := 0, scoring := v, valid := true }
  | none =>
    let k := min 4 (g.unknown + 1)
    if k = 4 then { g with unknown := 4, scoring := 0, valid := false } else { g with unknown := k }

/-- The path monitor takes a report: an evaluation event where the scoring grade changes (R17, R18). -/
def gradeSees (v : Option Nat) (w : Work) : Work :=
  let old := w.st.grade
  let w := (w.onGrade fun g => g.take v).touchIf (decide (old.take v ≠ old)) (.path .radio)
  if w.st.grade.scoring = old.scoring then w else evaluate .radio w

/-- A signal report: shown in the radio record, and taken by the path monitor unless the radio path is DOWN (R17, R72).
-/
def reportSignal (v : Option Nat) (w : Work) : Work :=
  let old := w.st.ru.grade
  let w := (w.onRu fun r => { r with grade := v, gradeTime := w.now }).touchIf (decide (old ≠ v)) .radioUnit
  if w.st.radio.state = .down then w else gradeSees v w

/-! ## Answers, timeouts, indications -/

/-- The outstanding request stops being outstanding (R56). -/
def clearRequest (w : Work) : Work := w.onRu fun r => { r with outstanding := none }

/-- An answer or a frame discarded and counted (R55, R56). -/
def countDiscard (w : Work) : Work := w.onRu fun r => { r with discards := hold32 (r.discards + 1) }

/-- RESYNC goes on to DETACH, then to IDLE (R68). -/
def resyncStep (k : Request) (w : Work) : Work :=
  match k with
  | .closeSession => sendRequest .detach w
  | .detach => enterIdle w
  | .attach | .openSession | .signalQuery => w

/-- OK to a request that is not stale, in the state that sent it (R59, R60, R62, R68). -/
def okTo (k : Request) (w : Work) : Work :=
  match w.st.ru.state, k with
  | .attaching, .attach => enterAttached (w.onRu fun r => { r with attachTimeouts := 0 })
  | .opening, .openSession => enterSession w
  | .closing, .closeSession => enterAttached w
  | .detaching, .detach => enterIdle w
  | .resync, k => resyncStep k w
  | _, _ => w

/-- REFUSED to a request that is not stale (R59, R60, R62, R68). -/
def refusedTo (k : Request) (w : Work) : Work :=
  match w.st.ru.state, k with
  | .attaching, .attach => enterBackoff (w.onRu fun r => { r with attachTimeouts := 0 })
  | .opening, .openSession => enterBackoff w
  | .closing, .closeSession => enterAttached w
  | .detaching, .detach => enterIdle w
  | .resync, k => resyncStep k w
  | _, _ => w

/-- An ATTACH timeout: the third in a row resets the modem (R59). -/
def attachTimedOut (w : Work) : Work :=
  let w := w.onRu fun r => { r with attachTimeouts := min 3 (r.attachTimeouts + 1) }
  if w.st.ru.attachTimeouts = 3 then enterResetting w else enterBackoff w

/-- The timeout of a request that is not stale (R59, R60, R62, R68). -/
def timeoutOf (k : Request) (w : Work) : Work :=
  match w.st.ru.state, k with
  | .attaching, .attach => attachTimedOut w
  | .opening, .openSession => enterBackoff w
  | .closing, .closeSession => enterResetting w
  | .detaching, .detach => enterResetting w
  | .resync, k => resyncStep k w
  | _, _ => w

/-- An OK answer (R56, R57). The freed link is given away before the event's passes recompute demand, so a pending SIGNAL
QUERY goes before the CLOSE SESSION that the end of a drill brings: the model's choice (R161, log 39). -/
def takeOk (w : Work) : Work :=
  match w.st.ru.outstanding with
  | none => countDiscard w
  | some o =>
    if o.kind = .signalQuery then countDiscard w
    else
      let w := clearRequest w
      serveLink (if o.stale then w else okTo o.kind w)

/-- A REFUSED answer (R56, R57, R72). A stale one frees the link; a stale SIGNAL QUERY still reports UNKNOWN. -/
def takeRefused (reason : Byte) (w : Work) : Work :=
  match w.st.ru.outstanding with
  | none => countDiscard w
  | some o =>
    let w := clearRequest w
    let w := if o.stale then w else w.onRu fun r => { r with refusalReason := reason, refusalKind := some o.kind }
    if o.kind = .signalQuery then serveLink (reportSignal none w)
    else serveLink (if o.stale then w else refusedTo o.kind w)

/-- A SIGNAL answer (R56, R57, R72). Its evaluation comes before what the link then sends, so also before the physical
loss that a waiting CLOSE SESSION brings into the event: the model's choice (R34, log 37). -/
def takeSignal (grade : Byte) (w : Work) : Work :=
  match w.st.ru.outstanding with
  | none => countDiscard w
  | some o =>
    if o.kind = .signalQuery then serveLink (reportSignal (gradeOf grade) (clearRequest w)) else countDiscard w

/-- The answer timer of the outstanding request expires (R56, R57, R72). -/
def takeTimeout (o : Outstanding) (w : Work) : Work :=
  let w := clearRequest w
  if o.kind = .signalQuery then serveLink (reportSignal none w)
  else serveLink (if o.stale then w else timeoutOf o.kind w)

/-- SESSION CLOSED (R69). -/
def takeSessionClosed (w : Work) : Work :=
  match w.st.ru.state with
  | .session | .closing => enterAttached w
  | .off | .powering | .idle | .attaching | .attached | .opening | .detaching | .stopping | .backoff | .resetting
  | .fault | .resync => w

/-- DETACHED (R69). -/
def takeDetached (w : Work) : Work :=
  match w.st.ru.state with
  | .attached | .opening | .session | .closing | .detaching => enterIdle w
  | .off | .powering | .idle | .attaching | .stopping | .backoff | .resetting | .fault | .resync => w

/-- A message taken by the receiver (R55). -/
def takeMessage (m : LinkMessage) (w : Work) : Work :=
  match m with
  | .ok => takeOk w
  | .refused reason => takeRefused reason w
  | .signalAnswer grade => takeSignal grade w
  | .sessionClosed => takeSessionClosed w
  | .detached => takeDetached w
  | .signalIndication grade => reportSignal (gradeOf grade) w

/-- What the receiver made of the bytes, in order; all of it falls in the event of the bytes' command: the model's
choice (R55, log 38). -/
def takeReceived : List Received → Work → Work
  | [], w => w
  | .taken m :: rest, w => takeReceived rest (takeMessage m w)
  | .discarded :: rest, w => takeReceived rest (countDiscard w)

/-- The silence of more than 50 ms discards the frame under way and, hunting on from the byte after its start byte,
every unfinished frame hidden in it (R55). -/
def receiveSilence : Nat → List Byte → List Received
  | 0, _ => []
  | fuel + 1, bs =>
    match receive bs.length bs with
    | (items, []) => items
    | (items, _ :: rest) => items ++ .discarded :: receiveSilence fuel rest

/-- A frame of the control link has been under way for more than 50 ms since its last byte (R55). -/
def RadioUnit.silent (now : Time) (r : RadioUnit) : Bool :=
  !r.rx.isEmpty && decide (Config.interbyteMs < elapsed now r.rxTime)

/-- The frame under way ends in a silence (R55). -/
def silence (w : Work) : Work :=
  takeReceived (receiveSilence (w.st.ru.rx.length + 1) w.st.ru.rx) (w.onRu fun r => { r with rx := [] })

/-- The frame under way is discarded where its silence has lasted more than 50 ms (R55). -/
def endSilence (w : Work) : Work := if w.st.ru.silent w.now then silence w else w

/-- Bytes arrive on the control link, without a gap among them (R55, log 16), in one event whatever frames are in them
(log 38). -/
def receiveBytes (bytes : List Byte) (w : Work) : Work :=
  let w := endSilence w
  let all := w.st.ru.rx ++ bytes
  let (items, left) := receive all.length all
  takeReceived items (w.onRu fun r => { r with rx := left, rxTime := if left.isEmpty then r.rxTime else w.now })

/-- The frame of a message arrives: a receiver that hunts takes it, and one with a frame under way reads its bytes as
that frame's (R55). -/
def takeFrame (m : LinkMessage) (w : Work) : Work := receiveBytes m.frame w

/-! ## READY (R58, R63, R68, R70) -/

/-- A change of normalized READY (R58, R63, R68, R70). In STOPPING it counts while the 30 s timer runs. -/
def readyChanged (w : Work) : Work :=
  if w.st.ru.ready then
    match w.st.ru.state with
    | .powering => enterIdle w
    | .off | .idle | .attaching | .attached | .opening | .session | .closing | .detaching | .stopping | .backoff
    | .resetting | .fault | .resync => w
  else
    match w.st.ru.state with
    | .idle | .attaching | .attached | .opening | .session | .closing | .detaching | .backoff => enterPowering w
    | .stopping => if w.st.ru.stateDue.isSome then enterOff w else w
    | .resync => enterOff w
    | .off | .powering | .resetting | .fault => w

/-- A change of the READY line or of its polarity, taken as a READY change where the normalized value changes (R52). -/
def setReady (f : RadioUnit → RadioUnit) (w : Work) : Work :=
  let was := w.st.ru.ready
  let w := w.onRu f
  if w.st.ru.ready = was then w else readyChanged w

/-! ## Ends of pulses (R53, R63, R65) -/

/-- The MRST pulse a state waited for has ended (R63, R65). -/
def resetPulseEnded (w : Work) : Work :=
  match w.st.ru.state with
  | .resetting => if w.st.ru.resets < 3 then enterPowering w else enterFault w
  | .stopping => if w.st.ru.stateDue.isNone then enterOff w else w
  | .off | .powering | .idle | .attaching | .attached | .opening | .session | .closing | .detaching | .backoff
  | .fault | .resync => w

/-- The end of a PWR pulse. -/
def pwrPulseEnds (w : Work) : Work :=
  (w.onRu fun r => { r with pwr := r.pwr.finish w.now r.lines.pwrWidth }).touch .radioUnit

/-- The end of an MRST pulse; where another waited, it starts and no state moves on (R53). -/
def mrstPulseEnds (w : Work) : Work :=
  let waiting := w.st.ru.mrst.waiting
  let w := (w.onRu fun r => { r with mrst := r.mrst.finish w.now r.lines.mrstWidth }).touch .radioUnit
  if waiting then w else resetPulseEnded w

/-! ## The target (R73) -/

/-- The capped standby as a target (R73). -/
def State.cappedStandby (s : State) : Target :=
  match s.sup.state, s.ru.standby with
  | .mains, .hot => .session
  | .mains, .warm => .attached
  | .battery, .hot => .attached
  | .battery, .warm => .attached
  | _, _ => .off

/-- The target (R73). -/
def State.targetNow (s : State) : Target :=
  if s.exch.service ≠ .service then .off
  else if s.steer.demand || s.ru.lingerOn then .session
  else s.cappedStandby

/-- The target takes the value its inputs give (R73). -/
def setTarget (w : Work) : Work :=
  let old := w.st.ru.target
  (w.onRu fun r => { r with target := w.st.targetNow }).touchIf (decide (old ≠ w.st.targetNow)) .radioUnit

/-- The target recomputed and acted on; BACKOFF ends where it becomes OFF (R64, R73). -/
def recomputeTarget (w : Work) : Work :=
  let old := w.st.ru.target
  let w := setTarget w
  if w.st.ru.state = .backoff then
    if old ≠ .off ∧ w.st.ru.target = .off then enterIdle w else w
  else act w

/-- The linger stops, if it runs (R74). Its start time stays as it was, and stays shown: the manual is silent, and this is
the model's choice (log 43). -/
def stopLinger (w : Work) : Work :=
  (w.onRu fun r => { r with lingerOn := false }).touchIf w.st.ru.lingerOn .radioUnit

/-- A running linger stops where its effective value has passed (R74); its start time stays (log 43). -/
def compareLinger (w : Work) : Work :=
  if w.st.ru.lingerOn && decide (w.st.effectiveLinger * 1000 ≤ elapsed w.now w.st.ru.lingerStart) then stopLinger w
  else w

/-- The linger's view of demand handed on (R74): it stops where demand is true; where demand falls in SERVICE it
starts, unless a drill ended in this event or its effective value is 0. -/
def lingerSees (old new : Bool) (w : Work) : Work :=
  if new then stopLinger w
  else if old && decide (w.st.exch.service = .service) && !w.drillEnded && decide (0 < w.st.effectiveLinger) then
    (w.onRu fun r => { r with lingerOn := true, lingerStart := w.now }).touch .radioUnit
  else w

/-- Urgent demand that becomes true ends a BACKOFF (R64). -/
def urgencySees (old new : Bool) (w : Work) : Work :=
  if !old && new && decide (w.st.ru.state = .backoff) then
    enterIdle (setTarget w)
  else recomputeTarget w

/-- Demand and urgent demand recomputed and handed to the radio unit; the hold record is rewritten in the event, even
where the event changes them back (R90, R98). -/
def recomputeDemand (w : Work) : Work :=
  let old := w.st.steer
  let demand := w.st.wantsSession
  let urgent := w.st.wantsUrgently
  let w := (w.onSteer fun t => { t with demand := demand, urgent := urgent }).touchIf
    (decide (old.demand ≠ demand) || decide (old.urgent ≠ urgent)) .hold
  urgencySees old.urgent urgent (lingerSees old.demand demand w)

end Sys2Proof.Machine
end

