-- ==== Sys2Proof/Machine/Records.lean ====
section
/-! DEFINITION. The mirror records (chapter 11): each is the list of its fields as the state stands, which is also what
decides whether an event rewrites it (R169); what the bus reads of them; and the end of an event. -/

namespace Sys2Proof.Machine

/-- A field of a record: offset, size in bytes, value. -/
structure Field where
  off : Nat
  size : Nat
  val : Nat
deriving DecidableEq, Repr

/-- Fields of the given sizes and values, one after the other. -/
def place : Nat → List (Nat × Nat) → List Field
  | _, [] => []
  | off, (size, val) :: rest => { off := off, size := size, val := val } :: place (off + size) rest

/-- Fields of one byte each. -/
def bytes1 (vs : List Nat) : List (Nat × Nat) := vs.map fun v => (1, v)

/-- Section 11.1. -/
def headerFields (s : State) : List Field :=
  place 2 [(1, s.exch.service.code)]
    ++ place 4 [(2, s.ev.cond.toNat)]
    ++ place 8 [(4, s.exch.sweepCount.toNat), (4, s.exch.flowChanges.toNat), (2, s.exch.lastTicket.toNat),
                (2, s.exch.interval)]

/-- A window entry: sequence number, RTT or 0xFFFF for LOST. -/
def windowEntry (r : Result) : List (Nat × Nat) := [(2, r.seq.toNat), (2, r.rtt.getD 0xFFFF)]

/-- Section 11.3. -/
def pathFields (s : State) (p : Path) : List Field :=
  let r := s.path p
  let g := s.shownGrade p
  let c := r.cause
  place 2 [(1, r.state.code),
      (1, flagBits [r.linkOnly, r.ready, r.measured, r.replied, r.usableFlag, g.valid,
        decide (p = .fibre) && s.fin.available]),
      (2, s.reported p), (2, r.s), (1, r.window.length), (1, r.losses), (1, r.failCount), (1, r.probes.length),
      (2, r.penalty), (2, r.seq.toNat), (4, r.usableSince.toNat), (4, r.sent.toNat), (4, r.unmatched),
      (1, r.assign.code), (1, r.d), (2, r.timeout), (2, s.assignedPeriod r.assign),
      (1, r.template.length), (1, g.scoring), (1, g.unknown), (1, r.lockFirst.toNat), (1, r.failLimit),
      (1, r.damping.toNat), (2, r.floor), (2, r.ceiling), (2, r.upT), (2, r.weakT), (2, r.failT), (2, r.suppress),
      (2, r.reuse), (1, r.td)]
    ++ place 56 [(1, c.valid.toNat), (1, optCode Cause.code c.cause), (1, c.repeated.toNat), (1, c.falls),
      (4, c.snap.time.toNat), (1, optCode PathState.code c.snap.before), (1, c.snap.grade),
      (1, c.snap.gradeValid.toNat), (1, c.snap.n), (1, c.snap.l)]
    ++ place 70 [(2, c.snap.h), (2, c.snap.s), (2, c.snap.penalty)]
    ++ place 128 (r.window.flatMap windowEntry)

/-- Section 11.4. -/
def classFields (c : ClassRec) : List Field :=
  place 2 [(1, c.use.code), (1, c.tier), (1, c.atIdle.toNat), (1, c.permit.toNat), (2, c.gap), (1, c.cur.code)]
    ++ place 12 [(4, c.since.toNat), (4, c.dropped)]

/-- Section 11.5. -/
def flowFields (f : FlowRec) : List Field :=
  place 2 [(1, f.state.code), (1, f.cls), (1, optPathCode f.state.path), (1, f.pinned.toNat), (1, optPathCode f.last),
      (1, f.saturated.toNat), (2, f.moves), (2, f.idle), (4, f.opened.toNat), (4, f.lastFrame.toNat), (4, f.bytes)]

/-- Section 11.6. -/
def allowanceFields (a : Allowance) : List Field :=
  place 2 [(1, a.stage.code), (1, a.peak.code), (1, a.hardCap.toNat), (1, a.conserve), (1, a.reserve), (1, a.overhead),
      (4, a.kib), (1, a.live.toNat), (1, a.sticky.toNat), (1, a.warmResets)]
    ++ place 16 [(8, a.used), (8, a.bc), (8, a.br), (8, a.bx), (4, a.start.toNat)]
    ++ place 64 [(1, a.summary.valid.toNat), (1, a.summary.peak.code), (1, a.summary.sticky.toNat),
      (1, a.summary.warmResets), (4, a.summary.start.toNat), (4, a.summary.stop.toNat)]
    ++ place 80 [(8, a.summary.used)]

/-- Section 11.7. The last refusal request kind is coded as the outstanding one is, and the stale byte is 0 with no
request outstanding: the model's choice (log 40). -/
def radioFields (s : State) : List Field :=
  let r := s.ru
  place 2 [(1, r.state.code), (1, r.target.code), (1, r.standby.code),
      (1, optCode (fun o => Request.code o.kind) r.outstanding), (1, optCode (fun o => o.stale.toNat) r.outstanding),
      (1, r.lingerOn.toNat), (2, r.linger), (2, s.effectiveLinger), (4, r.lingerStart.toNat),
      (4, r.sessionSince.toNat), (2, r.attachTimeout), (1, r.poll), (1, r.attachTimeouts), (1, r.resets),
      (1, r.refusalReason.toNat), (1, optCode Request.code r.refusalKind), (1, gradeCode r.grade),
      (4, r.gradeTime.toNat), (2, r.b), (1, r.lines.level.toNat), (1, r.lines.pwrLow.toNat),
      (1, r.lines.mrstLow.toNat), (1, r.lines.readyLow.toNat), (1, flagBits [r.pwrActive, r.mrstActive, r.ready])]
    ++ place 40 [(2, r.lines.pwrWidth), (2, r.lines.mrstWidth), (4, r.attaches.toNat), (4, r.discards)]

/-- The drill record, packed (section 11.8). -/
def drillRecordParts (d : DrillRecord) : List (Nat × Nat) :=
  [(1, d.valid.toNat), (1, optCode DrillOutcome.code d.outcome), (1, optCode DrillCause.code d.cause),
   (4, d.start.toNat), (2, d.limit), (4, d.duration.toNat), (1, optCode RadioState.code d.radio),
   (1, optCode PathState.code d.path), (2, d.score), (1, d.measured.toNat), (1, optCode Cause.code d.pathCause),
   (1, d.causeValid.toNat), (4, d.attaches.toNat)]

/-- Bytes of parts given by size and value, packed (R190). -/
def pack (parts : List (Nat × Nat)) : List Byte := parts.flatMap fun p => leBytes p.1 p.2

/-- Section 11.8. The start, limit and attach count of the last drill stay after its end (log 30). -/
def supplyFields (m : SupplyMonitor) (d : Drill) : List Field :=
  place 2 [(1, m.state.code), (1, m.mainsOk.low.toNat), (1, m.battLow.low.toNat), (1, m.battCrit.low.toNat),
      (1, flagBits [m.mainsOk.normal, m.battLow.normal, m.battCrit.normal]),
      (1, flagBits [m.mainsOk.debounced, m.battLow.debounced, m.battCrit.debounced]),
      (1, flagBits [m.mainsOk.due.isSome, m.battLow.due.isSome, m.battCrit.due.isSome]),
      (1, d.running.toNat), (1, d.running.toNat), (1, d.pass.toNat), (4, m.since.toNat), (4, d.start.toNat),
      (2, d.limit)]
    ++ place 24 [(4, d.attaches.toNat)]
    ++ place 32 (drillRecordParts d.last)

/-- Section 11.9, the hold record. -/
def holdFields (h : Hold) (t : Steering) : List Field :=
  place 2 [(1, h.active.toNat), (1, optPathCode h.path), (1, h.reason.code), (1, h.seen.toNat), (2, h.duration),
      (4, h.start.toNat), (4, h.stop.toNat), (2, t.delay), (2, t.holdAge), (1, t.defaultClass), (1, t.ret.code),
      (1, t.demand.toNat), (1, t.urgent.toNat), (4, t.retDue.toNat)]

/-- Section 11.9, the forwarding counters. -/
def forwardingFields (f : Forwarding) : List Field :=
  let c := f.counts
  place 2 [(1, f.held.length)]
    ++ place 4 [(4, c.outMalformed), (4, c.untracked.toNat), (4, c.fibreDrop), (4, c.radioDrop), (4, c.fibreFlush),
      (4, c.radioFlush), (4, c.holdFull), (4, c.holdAge), (4, c.holdDiscard), (4, c.fibreIn), (4, c.radioIn),
      (4, c.receiveDrop)]

/-! ## What the bus reads -/

/-- One byte of a record: byte `k` of the field that covers it, else 0 (R190). -/
def fieldByte : List Field → Nat → Byte
  | [], _ => 0
  | f :: fs, a => if f.off ≤ a ∧ a < f.off + f.size then byteOf (f.val / 256 ^ (a - f.off)) else fieldByte fs a

/-- One byte of a record with its update count at offset 0 (R191). -/
def recordByte (count : Half) (fs : List Field) (a : Nat) : Byte :=
  if a < 2 then byteOf (count.toNat / 256 ^ a) else fieldByte fs a

/-- One byte of the exchange memory outside INIT (the areas of R168). -/
def exchangeByte (s : State) (a : Nat) : Byte :=
  if a < 0x0100 then recordByte s.counts.header (headerFields s) a
  else if a < 0x0900 then Memory.read s.mem a
  else if a < 0x0A00 then recordByte s.counts.fibre (pathFields s .fibre) (a - 0x0900)
  else if a < 0x0B00 then recordByte s.counts.radio (pathFields s .radio) (a - 0x0A00)
  else if a < 0x0C00 then
    let i := (a - 0x0B00) / 32
    recordByte (s.cls i).count (classFields (s.cls i)) ((a - 0x0B00) % 32)
  else if a < 0x0C80 then recordByte s.counts.allowance (allowanceFields s.allow) (a - 0x0C00)
  else if a < 0x0D00 then recordByte s.counts.radioUnit (radioFields s) (a - 0x0C80)
  else if a < 0x0D80 then recordByte s.counts.supply (supplyFields s.sup s.drill) (a - 0x0D00)
  else if a < 0x0DC0 then recordByte s.counts.hold (holdFields s.hold s.steer) (a - 0x0D80)
  else if a < 0x0E00 then recordByte s.counts.forwarding (forwardingFields s.fwd) (a - 0x0DC0)
  else if a < 0x1000 then 0
  else if a < 0x3000 then
    let i := (a - 0x1000) / 64
    recordByte (s.flow i).count (flowFields (s.flow i)) ((a - 0x1000) % 64)
  else 0

/-- An access the exchange memory takes: 1, 2, 4 or 8 bytes, naturally aligned, within 12 KiB (R168). -/
def exchangeAccess (off width : Nat) : Bool :=
  (decide (width = 1) || decide (width = 2) || decide (width = 4) || decide (width = 8))
    && decide (off % width = 0) && decide (off < 0x3000)

/-- A read of the exchange window (R168): zero during INIT and for an access the memory does not take. -/
def exchangeRead (s : State) (off width : Nat) : Nat :=
  if s.exch.service = .init || !exchangeAccess off width then 0
  else leValue ((List.range width).map fun k => exchangeByte s (off + k))

/-- A read of the register window that changes nothing (R165, R166, R167, R188): IDENT at all times, the others zero
during INIT; NUDGE and the unused words read zero. So does a 32-bit read at an offset that is not a multiple of 4: the
rule is silent there, and this is the model's choice (log 44). A 32-bit read of EVENTS clears what it returns and is the command
EVENTS_READ; this function gives the value it would return. -/
def registerRead (s : State) (off width : Nat) : Word :=
  if width ≠ 4 then 0
  else if off = 0x00 then BitVec.ofNat 32 Config.ident
  else if s.exch.service = .init then 0
  else if off = 0x04 then (if s.exch.intEnable then 2 else 0)
  else if off = 0x0C then s.ev.latch
  else if off = 0x10 then s.ev.enable
  else 0

/-! ## The end of an event -/

/-- A flow change between the start and the end of an event (R116). -/
def flowChanged (old new : FlowRec) : Bool := decide (old.state ≠ new.state) || decide (old.pinned ≠ new.pinned)

def countFlowChanges : List FlowRec → List FlowRec → Nat
  | o :: os, n :: ns => (flowChanged o n).toNat + countFlowChanges os ns
  | _, _ => 0

/-- The flow-change count and FLOW_CHANGE, once for the event (R116). -/
def reportFlows (old : List FlowRec) (w : Work) : Work :=
  let k := countFlowChanges old w.st.flows
  if k = 0 then w
  else latch Bit.flowChange (w.onExch fun e => { e with flowChanges := e.flowChanges + BitVec.ofNat 32 k })

/-- The update count after the event: two more where the record is rewritten (R169). -/
def nextCount (rewritten : Bool) (c : Half) : Half := if rewritten then c + 2 else c

/-- The update counts of the class entries (R98). -/
def countClasses (touched : List Rec) : Nat → List ClassRec → List ClassRec → List ClassRec
  | i, o :: os, n :: ns =>
    { n with count := nextCount (touched.contains (.cls i) || decide (classFields o ≠ classFields n)) n.count }
      :: countClasses touched (i + 1) os ns
  | _, _, ns => ns

/-- The update counts of the flow records (R117). A frame that leaves every field of its record as it was does not
rewrite it: the model's choice (log 33). -/
def countFlows (touched : List Rec) : Nat → List FlowRec → List FlowRec → List FlowRec
  | i, o :: os, n :: ns =>
    { n with count := nextCount (touched.contains (.flow i)
        || (decide (o ≠ n) && decide (flowFields o ≠ flowFields n))) n.count }
      :: countFlows touched (i + 1) os ns
  | _, _, ns => ns

/-- Every record that the event changed, or that a rule rewrites in it, is rewritten once (R169). An addition that
leaves used bytes at their maximum does not rewrite the allowance record: the model's choice (R149, log 33). -/
def rewriteRecords (s0 : State) (touched : List Rec) (s : State) : State :=
  let changed (r : Rec) (f : State → List Field) : Bool := touched.contains r || decide (f s0 ≠ f s)
  { s with
    counts :=
      { header := nextCount (changed .header headerFields) s.counts.header,
        fibre := nextCount (changed (.path .fibre) fun s => pathFields s .fibre) s.counts.fibre,
        radio := nextCount (changed (.path .radio) fun s => pathFields s .radio) s.counts.radio,
        allowance := nextCount (changed .allowance fun s => allowanceFields s.allow) s.counts.allowance,
        radioUnit := nextCount (changed .radioUnit radioFields) s.counts.radioUnit,
        supply := nextCount (changed .supply fun s => supplyFields s.sup s.drill) s.counts.supply,
        hold := nextCount (changed .hold fun s => holdFields s.hold s.steer) s.counts.hold,
        forwarding := nextCount (changed .forwarding fun s => forwardingFields s.fwd) s.counts.forwarding },
    classes := countClasses touched 0 s0.classes s.classes,
    flows := countFlows touched 0 s0.flows s.flows }

/-- The end of an event: conditions handed on, flow changes reported, records rewritten, the IRQ line recomputed. -/
def finish (s0 : State) (w : Work) : State :=
  let w := reportFlows s0.flows (handConditions w)
  refreshIrq (rewriteRecords s0 w.touched w.st)

end Sys2Proof.Machine
end

