-- ==== Sys2Proof/Machine/Pass.lean ====
section
/-! DEFINITION. The steering pass (chapter 4) with the flow table's part of it (section 5.4) and the release of held
frames (R129); the further passes of an event (R89); an event as a whole; and the taking of an order (R174). -/

namespace Sys2Proof.Machine

/-! ## Permission (R81, R82) -/

/-- The stage blocks the tier from radio (R81, R143). -/
def stageBlocks (stage : Stage) (hardCap : Bool) (tier : Nat) : Bool :=
  match stage with
  | .normal => false
  | .conserve => decide (3 ≤ tier)
  | .reserve => decide (2 ≤ tier)
  | .exhausted => if hardCap then decide (1 ≤ tier) else decide (2 ≤ tier)

/-- The supply state blocks the tier from radio (R81). -/
def supplyBlocks (supply : Supply) (tier : Nat) : Bool :=
  match supply with
  | .mains => false
  | .battery => decide (3 ≤ tier)
  | .batteryLow => decide (2 ≤ tier)
  | .critical => decide (1 ≤ tier)

/-- Radio is permitted for the class; for tier 0 the last three conditions are always met (R82). -/
def State.permits (s : State) (c : ClassRec) : Bool :=
  decide (s.exch.service = .service) && decide (c.use ≠ .never) && decide (s.ru.state ≠ .fault)
    && (decide (c.tier = 0)
        || (!stageBlocks s.allow.stage s.allow.hardCap c.tier && !supplyBlocks s.sup.state c.tier
            && (decide (s.sup.state = .mains) || c.permit)))

/-! ## The class decision (R84, R85, R86) -/

/-- Fibre fits the class (R84). -/
def State.fits (s : State) (c : ClassRec) : Bool :=
  match s.fibre.state with
  | .up => true
  | .weak => decide (c.use ≠ .failoverWeak)
  | .down | .proving | .suppressed => false

/-- RADIO when radio is ready and WAITING when it is not (R84, R85). -/
def State.radioOrWait (s : State) : ClassPath := if s.radioUsable then .radio else .waiting

/-- FIBRE if fibre is usable and BLOCKED otherwise (R84, R85, R86). -/
def State.fibreOrBlock (s : State) : ClassPath := if s.fibreUsable then .fibre else .blocked

/-- The class decision in SERVICE with no hold (R84). -/
def decideFree (s : State) (c : ClassRec) : ClassPath :=
  if !c.cur.wantsRadio && s.fits c then .fibre
  else if c.cur.wantsRadio && s.fits c && decide (s.steer.ret = .passed) then .fibre
  else if s.permits c then s.radioOrWait
  else s.fibreOrBlock

/-- The class decision (R84, R85, R86). -/
def decideClass (s : State) (c : ClassRec) : ClassPath :=
  if s.exch.service ≠ .service then s.fibreOrBlock
  else if s.hold.active then
    match s.hold.path with
    | some .radio => if s.permits c then s.radioOrWait else s.fibreOrBlock
    | some .fibre => .fibre
    | none => decideFree s c
  else decideFree s c

/-- A class takes its new path; the since-time is written with a change (R80, R87). -/
def ClassRec.takePath (now : Time) (new : ClassPath) (c : ClassRec) : ClassRec :=
  if c.cur = new then c else { c with cur := new, since := now }

/-- The numbers, from `i` on, of the entries a pass changes. -/
def numbersWhere {α : Type} (changes : α → Bool) : Nat → List α → List Nat
  | _, [] => []
  | i, x :: xs => if changes x then i :: numbersWhere changes (i + 1) xs else numbersWhere changes (i + 1) xs

/-! ## Flows (R106, R107, R108, R115) -/

/-- The state a class path gives a flow (R101, R106). -/
def ClassPath.flowState : ClassPath → FlowState
  | .fibre => .carried .fibre
  | .radio => .carried .radio
  | .waiting => .waiting
  | .blocked => .blocked

/-- The other of the two paths. -/
def otherPath : Path → Path
  | .fibre => .radio
  | .radio => .fibre

/-- A flow in a new state, left as it is where it has that state already: a move is counted where it becomes OPEN on
the path other than its last (R106, R115). -/
def FlowRec.become (n : FlowState) (f : FlowRec) : FlowRec :=
  if f.state = n then f
  else
    match n with
    | .carried p =>
      { f with
        state := n,
        last := some p,
        moves := if f.last = some (otherPath p) then hold16 (f.moves + 1) else f.moves }
    | .free | .waiting | .blocked | .expired => { f with state := n }

/-- The flow has been idle for less than the gap, in s, and is not marked long idle (R107). -/
def FlowRec.recent (now : Time) (gap : Nat) (f : FlowRec) : Bool :=
  decide (elapsed now f.lastFrame < gap * 1000) && !f.longIdle

/-- What the pass knows of a flow's class: its record before step 1 and its new path. -/
def mayPin (s : State) (c : ClassRec) (new : ClassPath) (f : FlowRec) : Bool :=
  c.atIdle && decide (c.cur = .radio) && decide (new = .fibre) && decide (f.state = .carried .radio)
    && s.radioUsable && s.permits c && f.recent s.now c.gap

/-- A pinned flow stays pinned (R108). -/
def staysPinned (s : State) (c : ClassRec) (new : ClassPath) : Bool :=
  c.atIdle && decide (new ≠ .radio) && s.radioUsable && s.permits c

/-- One flow at step 2 of a pass (R106, R107, R108). -/
def followClass (s : State) (new : ClassPath) (f : FlowRec) : FlowRec :=
  let c := s.cls f.cls
  if !f.state.live then f
  else if f.pinned then
    if staysPinned s c new then f else { f.become new.flowState with pinned := false }
  else if mayPin s c new f then { f with pinned := true }
  else f.become new.flowState

/-! ## Held frames (R129) -/

/-- The path or state a held frame's binding now has. -/
def State.bindingPath (s : State) (h : HeldFrame) : ClassPath :=
  match h.flow with
  | none => (s.cls h.cls).cur
  | some i =>
    match (s.flow i).state with
    | .carried .fibre => .fibre
    | .carried .radio => .radio
    | .waiting => .waiting
    | .blocked | .free | .expired => .blocked

/-- A frame goes where its governing record sends it, except to the hold buffer (R121, R129). -/
def placeFrame (dest : Path) (cls : Nat) (flow : Option Nat) (data : List Byte) (w : Work) : Work :=
  enterBand dest (w.st.cls cls).tier { data := data, flow := flow } w

/-- A released frame joins its band or is dropped (R129, R131). -/
def releaseHeld (h : HeldFrame) (w : Work) : Work :=
  let onto (p : Path) : Work :=
    let full := w.st.bandFull p (w.st.cls h.cls).tier
    let w := placeFrame p h.cls h.flow h.data w
    if full then latch Bit.holdDrops w else w
  match w.st.bindingPath h with
  | .fibre => onto .fibre
  | .radio => onto .radio
  | .waiting => w
  | .blocked => latch Bit.holdDrops (dropBlocked h.cls w)

def releaseAll : List HeldFrame → Work → Work
  | [], w => w
  | h :: hs, w => releaseAll hs (releaseHeld h w)

/-- The frame's binding was WAITING before the pass and is not now (R129). -/
def leftWaiting (s0 s : State) (h : HeldFrame) : Bool :=
  decide (s0.bindingPath h = .waiting) && decide (s.bindingPath h ≠ .waiting)

/-- Step 3: the frames whose binding left WAITING are taken out together and dealt with in arrival order (R129). -/
def releaseStep (s0 : State) (w : Work) : Work :=
  let leaving := w.st.fwd.held.filter (leftWaiting s0 w.st)
  let staying := w.st.fwd.held.filter fun h => !leftWaiting s0 w.st h
  releaseAll leaving (w.onFwd fun f => { f with held := staying })

/-! ## The pass (R87) -/

/-- Step 1: every class decided against the inputs at the start of the pass (R87, R88). -/
def classStep (w : Work) : Work :=
  let s := w.st
  let moved := numbersWhere (fun c => decide (decideClass s c ≠ c.cur)) 0 s.classes
  let w := w.onClasses fun cs => cs.map fun c => c.takePath s.now (decideClass s c)
  if moved.isEmpty then w else latch Bit.classMove (w.touchAll (moved.map Rec.cls))

/-- Step 2: every live flow follows its class, by the paths before and after step 1; a record that changes is rewritten
in the event, even where a further pass changes it back (R87, R106, R117). -/
def flowStep (s0 : State) (w : Work) : Work :=
  let follow := fun (f : FlowRec) => followClass s0 (w.st.cls f.cls).cur f
  let moved := numbersWhere (fun f => decide (follow f ≠ f)) 0 w.st.flows
  (w.onFlows fun fs => fs.map follow).touchAll (moved.map Rec.flow)

/-- Step 4: a class or flow RADIO or WAITING aborts a running drill (R87, R160). -/
def drillStep (w : Work) : Work := if w.st.realUse then endDrill .aborted .realUse w else w

/-- A steering pass, in the five steps of R87; ANY_RADIO and ANY_WAITING are handed on after step 2 (R88). -/
def steeringPass (w : Work) : Work :=
  let s0 := w.st
  recomputeDemand (drillStep (releaseStep s0 (handConditions (flowStep s0 (classStep w)))))

/-- The passes an event owes: one after its own changes, and a further one after each change that a pass hands on
(R89); demand owed outside a pass is recomputed last. -/
def runPasses : Nat → Work → Work
  | 0, w => w
  | n + 1, w =>
    if w.passDue then runPasses n (steeringPass { w with passDue := false, demandDue := false })
    else if w.demandDue then runPasses n (recomputeDemand { w with demandDue := false })
    else w

def passes (w : Work) : Work := runPasses Config.passFuel w

/-! ## Events and orders -/

/-- One event: outside INIT, its own changes, the passes it owes, and its end. During INIT every block stands still
(R181). -/
def event (f : Work → Work) (s : State) : State :=
  if s.exch.service = .init then s else finish s (passes (f (Work.begin s)))

/-- What an order's rule gives: the work after its own changes, the result, and the answer read from the state at the
end of the taking event. -/
structure Answered where
  work : Work
  result : ResultCode
  answer : State → List Byte

/-- An order refused: nothing changes, the answer is zeros (R176). -/
def refuse (r : ResultCode) (w : Work) : Answered := { work := w, result := r, answer := fun _ => [] }

/-- The part of a taking that every order has: result, answer, DONE, last-taken ticket, header (R174). -/
def writeAnswer (i : Nat) (rest : List Nat) (ticket : Nat) (r : ResultCode) (answer : List Byte) (w : Work) : Work :=
  ((w.onMem fun m => slotAnswer m i r answer).onExch fun e =>
    { e with sweep := some rest, sweepDone := true, lastTicket := BitVec.ofNat 16 ticket }).touch .header

/-- The taking of the next collected slot, which is READY and holds a kind the test accepts: the order is executed
from the copy of its kind, ticket and parameters, with the passes it owes, then answered (R174). Where the next
collected slot is not such a slot, this is not the event that happens, and nothing changes (log 3). -/
def takeOrder (accepts : Nat → Bool) (body : List Byte → Work → Answered) (s : State) : State :=
  match s.exch.sweep with
  | some (i :: rest) =>
    if s.exch.service ≠ .init ∧ slotState s.mem i = Slot.ready ∧ accepts (slotKind s.mem i) then
      let a := body (slotParams s.mem i) (Work.begin s)
      let w := passes a.work
      finish s (writeAnswer i rest (slotTicket s.mem i) a.result (a.answer w.st) w)
    else s
  | some [] => s
  | none => s

/-- The taking of an order of one kind. -/
def takeKind (kind : Nat) (body : List Byte → Work → Answered) (s : State) : State :=
  takeOrder (fun k => decide (k = kind)) body s

end Sys2Proof.Machine
end

