-- ==== Sys2Proof/Machine/DrillOrders.lean ====
section
/-! DEFINITION. The drill unit: RUN DRILL (R156), CANCEL DRILL (R162), DRILL_LIMIT_EXPIRY (R159). -/

namespace Sys2Proof.Machine

/-! ## RUN DRILL (R156) -/

/-- A drill starts (R155, R156). -/
def Drill.begin (now : Time) (limit : Nat) (attaches : Word) (d : Drill) : Drill :=
  { d with running := true, start := now, limit := limit, attaches := attaches, pass := true }

/-- The drill started, its demand handed on, and its PASS where the radio path is UP already (R156, R158). -/
def runDrill (limit : Nat) (w : Work) : Work :=
  let w := w.onDrill (Drill.begin w.now limit w.st.ru.attaches)
  let w := recomputeDemand ((handConditions w).touch .supply)
  if w.st.radio.state = .up then endDrill .pass .radioUp w else w

def drillAnswer (s : State) : List Byte :=
  pack [(2, s.drill.limit), (4, s.drill.start.toNat), (1, s.drill.running.toNat), (1, s.drill.pass.toNat),
        (1, s.ru.state.code), (1, s.radio.state.code)]

def orderRunDrill (ps : List Byte) (w : Work) : Answered :=
  if w.st.exch.service ≠ .service then refuse .wrongState w
  else if w.st.drill.running then refuse .busy w
  else if w.st.realUse then refuse .inUse w
  else if w.st.ru.state = .fault then refuse .radioFault w
  else if w.st.allow.stage.atReserve then refuse .stage w
  else
    let limit := clamp 60 1800 (param ps 0 2)
    { work := runDrill limit w, result := okOrClamped (decide (limit ≠ param ps 0 2)), answer := drillAnswer }

/-- RUN_DRILL (R156). -/
def execRunDrill (s : State) : Host.Outcome State Fault Refusal := .next (takeKind Kind.runDrill orderRunDrill s)

/-! ## CANCEL DRILL (R162) -/

def cancelAnswer (s : State) : List Byte := pack (drillRecordParts s.drill.last)

def orderCancelDrill (_ps : List Byte) (w : Work) : Answered :=
  if w.st.drill.running then { work := endDrill .aborted .cancelled w, result := .ok, answer := cancelAnswer }
  else { work := w, result := .notRunning, answer := cancelAnswer }

/-- CANCEL_DRILL (R162). -/
def execCancelDrill (s : State) : Host.Outcome State Fault Refusal :=
  .next (takeKind Kind.cancelDrill orderCancelDrill s)

/-! ## The limit (R159) -/

/-- The time since the start has reached the limit (R159). -/
def Drill.limitReached (now : Time) (d : Drill) : Bool := d.running && decide (d.limit * 1000 ≤ elapsed now d.start)

/-- DRILL_LIMIT_EXPIRY (R159). -/
def execDrillLimitExpiry (s : State) : Host.Outcome State Fault Refusal :=
  .next (if s.drill.limitReached s.now then event (endDrill .fail .limit) s else s)

end Sys2Proof.Machine
end

