-- ==== Sys2Proof/Machine/SteeringOrders.lean ====
section
/-! DEFINITION. The steering orders and the two steering timers: SET CLASS, SET STEERING, HOLD PATH, RELEASE HOLD
(sections 4.7 and 4.8), HOLD_EXPIRY (R94), RETURN_DELAY_DUE (R83). -/

namespace Sys2Proof.Machine

/-! ## SET CLASS (R96) -/

/-- The five settings of a class written (R79). -/
def ClassRec.setPolicy (use : RadioUse) (tier : Nat) (atIdle permit : Bool) (gap : Nat) (c : ClassRec) : ClassRec :=
  { c with use := use, tier := tier, atIdle := atIdle, permit := permit, gap := gap }

/-- An idle-gap return of one flow: unpinned, on its class's path (R109). -/
def FlowRec.comeBack (path : ClassPath) (f : FlowRec) : FlowRec := { f.become path.flowState with pinned := false }

/-- A pinned flow of the class whose time since its last frame has reached the gap (R109). -/
def FlowRec.gapPassed (now : Time) (cls gap : Nat) (f : FlowRec) : Bool :=
  f.pinned && decide (f.cls = cls) && decide (gap * 1000 ≤ elapsed now f.lastFrame)

/-- After the pass of a SET CLASS that changed the gap: pinned flows of the class that have already been idle for the
new gap return (R96, R109). -/
def returnFlows (cls : Nat) (w : Work) : Work :=
  let c := w.st.cls cls
  let w := w.onFlows fun fs => fs.map fun f => if f.gapPassed w.now cls c.gap then f.comeBack c.cur else f
  (handConditions w).oweDemand

def classAnswer (i : Nat) (s : State) : List Byte :=
  let c := s.cls i
  pack [(1, i), (1, c.use.code), (1, c.tier), (1, c.atIdle.toNat), (1, c.permit.toNat), (2, c.gap), (1, c.cur.code),
        (4, c.since.toNat)]

def orderSetClass (ps : List Byte) (w : Work) : Answered :=
  let i := param ps 0 1
  match radioUseOf (param ps 1 1), flagOf (param ps 3 1), flagOf (param ps 4 1) with
  | some use, some atIdle, some permit =>
    if 7 < i then refuse .badValue w
    else
      let tier := min (param ps 2 1) 3
      let gap := clamp 1 600 (param ps 5 2)
      let clamped := decide (tier ≠ param ps 2 1) || decide (gap ≠ param ps 5 2)
      let before := (w.st.cls i).gap
      let w := passes (w.onClass i (ClassRec.setPolicy use tier atIdle permit gap)).owePass
      { work := if before = gap then w else returnFlows i w, result := okOrClamped clamped, answer := classAnswer i }
  | _, _, _ => refuse .badValue w

/-- SET_CLASS (R96). -/
def execSetClass (s : State) : Host.Outcome State Fault Refusal := .next (takeKind Kind.setClass orderSetClass s)

/-! ## SET STEERING (R97) -/

/-- The three settings written; an armed return delay is measured from usable-since again where R changes (R83). -/
def Steering.configure (delay holdAge defaultClass : Nat) (now usableSince : Time) (t : Steering) : Steering :=
  let adjusted :=
    if t.ret = .armed ∧ t.delay ≠ delay then
      { t with
        retDue := later usableSince (delay * 1000),
        ret := if delay * 1000 ≤ elapsed now usableSince then .passed else .armed }
    else t
  { adjusted with delay := delay, holdAge := holdAge, defaultClass := defaultClass }

def steeringAnswer (s : State) : List Byte :=
  pack [(2, s.steer.delay), (2, s.steer.holdAge), (1, s.steer.defaultClass), (1, s.steer.ret.code),
        (4, s.steer.retDue.toNat)]

def orderSetSteering (ps : List Byte) (w : Work) : Answered :=
  let dc := param ps 4 1
  if 7 < dc then refuse .badValue w
  else
    let delay := min (param ps 0 2) 3600
    let age := clamp 100 10000 (param ps 2 2)
    let clamped := decide (delay ≠ param ps 0 2) || decide (age ≠ param ps 2 2)
    let w := w.onSteer (Steering.configure delay age dc w.now w.st.fibre.usableSince)
    { work := (dropHeld w.st.aged ForwardCounts.ageHeld w).owePass, result := okOrClamped clamped,
      answer := steeringAnswer }

/-- SET_STEERING (R97). -/
def execSetSteering (s : State) : Host.Outcome State Fault Refusal :=
  .next (takeKind Kind.setSteering orderSetSteering s)

/-! ## HOLD PATH (R92) -/

/-- A hold begins; the last end reason stays (R91, R92). -/
def Hold.begin (p : Path) (now : Time) (dur : Nat) (seen : Bool) (h : Hold) : Hold :=
  { h with
    active := true, path := some p, start := now, stop := later now (dur * 1000), duration := dur, seen := seen }

/-- What a new hold finds of the radio path: its seen flag (R91, R92). A FIBRE hold begins with 0: the model's choice
(log 32). -/
def State.holdSeen (s : State) : Path → Bool
  | .fibre => false
  | .radio => s.radioUsable

/-- The path cannot carry the hold, with the result that says so (R92). -/
def holdRefusal (s : State) : Path → Option ResultCode
  | .fibre => if s.fibreUsable then none else some .notUsable
  | .radio => if s.ru.state = .fault then some .radioFault else none

def holdAnswer (s : State) : List Byte :=
  pack [(1, optPathCode s.hold.path), (2, s.hold.duration), (4, s.hold.start.toNat), (4, s.hold.stop.toNat)]

def beginHold (p : Path) (dur : Nat) (w : Work) : Work :=
  let w := w.onHold (Hold.begin p w.now dur (w.st.holdSeen p))
  ((handConditions w).touch .hold).owePass

def orderHoldPath (ps : List Byte) (w : Work) : Answered :=
  match pathOf (param ps 0 1) with
  | none => refuse .badValue w
  | some p =>
    if w.st.exch.service ≠ .service then refuse .wrongState w
    else if w.st.hold.active then refuse .busy w
    else
      match holdRefusal w.st p with
      | some r => refuse r w
      | none =>
        let dur := clamp 1 3600 (param ps 1 2)
        { work := beginHold p dur w, result := okOrClamped (decide (dur ≠ param ps 1 2)), answer := holdAnswer }

/-- HOLD_PATH (R92). -/
def execHoldPath (s : State) : Host.Outcome State Fault Refusal := .next (takeKind Kind.holdPath orderHoldPath s)

/-! ## RELEASE HOLD (R94) -/

def releaseHoldAnswer (h : Hold) (second third : Time) : List Byte :=
  pack [(1, optPathCode h.path), (4, second.toNat), (4, third.toNat), (1, h.reason.code)]

def orderReleaseHold (_ps : List Byte) (w : Work) : Answered :=
  if w.st.hold.active then
    { work := endHold .released w, result := .ok,
      answer := fun s => releaseHoldAnswer s.hold s.hold.start s.hold.stop }
  else
    { work := w, result := .notHeld, answer := fun s => releaseHoldAnswer s.hold s.hold.stop 0 }

/-- RELEASE_HOLD (R94). -/
def execReleaseHold (s : State) : Host.Outcome State Fault Refusal :=
  .next (takeKind Kind.releaseHold orderReleaseHold s)

/-! ## Timers -/

/-- HOLD_EXPIRY (R94). -/
def execHoldExpiry (s : State) : Host.Outcome State Fault Refusal :=
  .next (if s.hold.active ∧ reached s.now s.hold.stop then event (endHold .expired) s else s)

/-- The return delay has passed; the pass is owed (R83). -/
def passReturnDelay (w : Work) : Work := (w.onSteer fun t => { t with ret := .passed }).owePass

/-- RETURN_DELAY_DUE (R83). -/
def execReturnDelayDue (s : State) : Host.Outcome State Fault Refusal :=
  .next (if s.steer.ret = .armed ∧ reached s.now s.steer.retDue then event passReturnDelay s else s)

end Sys2Proof.Machine
end

