-- ==== Sys2Proof/Machine/FlowOrders.lean ====
section
/-! DEFINITION. The flow table's orders and timers: OPEN FLOW, CLOSE FLOW (chapter 5), FLOW_IDLE_EXPIRY (R110),
IDLE_GAP_RETURN (R109), LONG_IDLE_MARK (R107). -/

namespace Sys2Proof.Machine

/-! ## OPEN FLOW (R101, R102) -/

/-- The lowest FREE record, counting from the given number (R101). -/
def lowestFree : Nat → List FlowRec → Option Nat
  | _, [] => none
  | i, f :: fs => if f.state = .free then some i else lowestFree (i + 1) fs

/-- A record as OPEN FLOW allocates it: the update count carries on (R101, R117). -/
def FlowRec.opening (cls idle : Nat) (path : ClassPath) (now : Time) (f : FlowRec) : FlowRec :=
  { state := path.flowState, cls := cls, pinned := false, last := path.flowState.path, moves := 0, opened := now,
    lastFrame := now, idle := idle, bytes := 0, saturated := false, longIdle := false, count := f.count }

/-- The drill unit's view of an opening: a flow RADIO or WAITING aborts a drill (R101, R160). -/
def drillSeesFlow (i : Nat) (w : Work) : Work :=
  if (w.st.flow i).state.wantsRadio then endDrill .aborted .realUse w else w

/-- The radio unit's view of a tier-0 opening while fibre is not usable (R102). -/
def restartSees (cls : Nat) (w : Work) : Work :=
  if (w.st.cls cls).tier = 0 ∧ w.st.fibreUsable = false then tier0Restart w else w

def openFlow (i cls idle : Nat) (w : Work) : Work :=
  let w := w.onFlow i (FlowRec.opening cls idle (w.st.cls cls).cur w.now)
  restartSees cls (recomputeDemand (drillSeesFlow i (handConditions w)))

def openAnswer (i cls : Nat) (s : State) : List Byte :=
  let f := s.flow i
  pack [(1, i), (1, f.state.code), (1, optPathCode f.state.path), (1, (s.cls cls).cur.code)]

def orderOpenFlow (ps : List Byte) (w : Work) : Answered :=
  let cls := param ps 0 1
  if 7 < cls then refuse .badValue w
  else if w.st.exch.service ≠ .service then refuse .wrongState w
  else
    match lowestFree 0 w.st.flows with
    | none => refuse .full w
    | some i =>
      let idle := min (param ps 1 4) 65535
      { work := openFlow i cls idle w, result := okOrClamped (decide (idle ≠ param ps 1 4)),
        answer := openAnswer i cls }

/-- OPEN_FLOW (R101, R102). -/
def execOpenFlow (s : State) : Host.Outcome State Fault Refusal := .next (takeKind Kind.openFlow orderOpenFlow s)

/-! ## CLOSE FLOW (R103, R104) -/

/-- A record freed, and what becomes of its frames (R104). -/
def freeFlow (i : Nat) (w : Work) : Work :=
  (releaseFrames i (w.onFlow i fun f => FlowRec.freed f.count)).touch (.flow i)

def closeAnswer (i : Nat) (f : FlowRec) : List Byte :=
  pack [(1, i), (1, f.state.code), (1, optPathCode f.state.path), (1, f.cls), (2, f.moves), (4, f.bytes),
        (1, f.saturated.toNat), (4, f.opened.toNat), (4, f.lastFrame.toNat)]

def orderCloseFlow (ps : List Byte) (w : Work) : Answered :=
  let i := param ps 0 1
  if 127 < i ∨ (w.st.flow i).state = .free then refuse .noSuch w
  else
    let before := w.st.flow i
    { work := (handConditions (freeFlow i w)).oweDemand, result := .ok, answer := fun _ => closeAnswer i before }

/-- CLOSE_FLOW (R103). -/
def execCloseFlow (s : State) : Host.Outcome State Fault Refusal := .next (takeKind Kind.closeFlow orderCloseFlow s)

/-! ## Timers -/

/-- The idle timer of a flow is due: it runs while the record is live and its timeout is not 0 (R110). -/
def FlowRec.idleDue (now : Time) (f : FlowRec) : Bool :=
  f.state.live && decide (f.idle ≠ 0) && decide (f.idle * 1000 ≤ elapsed now f.lastFrame)

/-- A flow expires; class, counts and times are kept (R110). -/
def expireFlow (i : Nat) (w : Work) : Work :=
  let w := w.onFlow i fun f => { f with state := .expired, pinned := false }
  (handConditions (releaseFrames i w)).oweDemand

/-- FLOW_IDLE_EXPIRY (R110). -/
def execFlowIdleExpiry (i : Fin 128) (s : State) : Host.Outcome State Fault Refusal :=
  .next (if (s.flow i).idleDue s.now then event (expireFlow i) s else s)

/-- The idle-gap timer of a pinned flow is due (R109). -/
def State.gapDue (s : State) (i : Nat) : Bool := (s.flow i).gapPassed s.now (s.flow i).cls (s.cls (s.flow i).cls).gap

/-- An idle-gap return (R109). -/
def gapReturn (i : Nat) (w : Work) : Work :=
  let w := w.onFlow i (FlowRec.comeBack (w.st.cls (w.st.flow i).cls).cur)
  (handConditions w).oweDemand

/-- IDLE_GAP_RETURN (R109). -/
def execIdleGapReturn (i : Fin 128) (s : State) : Host.Outcome State Fault Refusal :=
  .next (if s.gapDue i then event (gapReturn i) s else s)

/-- The long-idle mark of a record in use is due (R107). -/
def FlowRec.markDue (now : Time) (f : FlowRec) : Bool :=
  decide (f.state ≠ .free) && !f.longIdle && decide (Config.longIdleMs ≤ elapsed now f.lastFrame)

/-- LONG_IDLE_MARK (R107). -/
def execLongIdleMark (i : Fin 128) (s : State) : Host.Outcome State Fault Refusal :=
  .next (if (s.flow i).markDue s.now then event (fun w => w.onFlow i fun f => { f with longIdle := true }) s else s)

end Sys2Proof.Machine
end

