-- ==== Sys2Proof/Machine/Frames.lean ====
section
/-! DEFINITION. The forwarding unit's events: OUTBOUND_FRAME, TRANSMIT_HANDOFF, HOLD_AGE_EXPIRY,
RECEIVE_QUEUE_DELIVERY (chapter 6). -/

namespace Sys2Proof.Machine

/-! ## Outbound frames (R118 to R121) -/

/-- An accepted frame of a live flow: its last-frame time and long-idle mark (R107, R113). -/
def FlowRec.sent (now : Time) (f : FlowRec) : FlowRec := { f with lastFrame := now, longIdle := false }

/-- The flow that governs an accepted frame: the one it names, if that is live (R120). -/
def governing (s : State) (f : LanFrame) : Option Nat :=
  match f.flow with
  | none => none
  | some i => if (s.flow i).state.live then some i else none

/-- A frame joins the hold buffer, or is dropped at a full one (R127, R131). -/
def holdFrame (cls : Nat) (flow : Option Nat) (data : List Byte) (w : Work) : Work :=
  if Config.heldMax ≤ w.st.fwd.held.length then
    latch Bit.holdDrops (w.onCounts fun c => { c with holdFull := hold32 (c.holdFull + 1) })
  else
    w.onFwd fun f => { f with held := f.held ++ [{ data := data, cls := cls, flow := flow, arrival := w.now }] }

/-- An accepted frame is placed by its governing record (R121). -/
def placeOutbound (path : ClassPath) (cls : Nat) (flow : Option Nat) (data : List Byte) (w : Work) : Work :=
  match path with
  | .fibre => placeFrame .fibre cls flow data w
  | .radio => placeFrame .radio cls flow data w
  | .waiting => holdFrame cls flow data w
  | .blocked => dropBlocked cls w

/-- The path of a live flow as a class path (R121). -/
def FlowState.asPath : FlowState → ClassPath
  | .carried .fibre => .fibre
  | .carried .radio => .radio
  | .waiting => .waiting
  | .blocked | .free | .expired => .blocked

/-- An accepted frame: the flow's time, or the untracked count, then its placement (R119, R120, R121). -/
def acceptFrame (f : LanFrame) (w : Work) : Work :=
  match governing w.st f with
  | some i =>
    let r := w.st.flow i
    placeOutbound r.state.asPath r.cls (some i) f.data (w.onFlow i (FlowRec.sent w.now))
  | none =>
    let cls := f.cls.getD w.st.steer.defaultClass
    placeOutbound (w.st.cls cls).cur cls none f.data (w.onCounts fun c => { c with untracked := c.untracked + 1 })

/-- A frame from the LAN port (R118, R119). -/
def takeOutbound (bytes : List Byte) (w : Work) : Work :=
  let f := readTag bytes
  if f.accepted then acceptFrame f w
  else w.onCounts fun c => { c with outMalformed := hold32 (c.outMalformed + 1) }

/-- OUTBOUND_FRAME: discarded during INIT (R118). -/
def execOutboundFrame (bytes : List Byte) (s : State) : Host.Outcome State Fault Refusal :=
  .next (event (takeOutbound bytes) s)

/-! ## Ports (R123) -/

/-- The port has sent its frame and takes the next that waits (R123, log 13). -/
def portFree (p : Path) (w : Work) : Work := takeNext p (w.onQueue p fun q => { q with sending := none })

/-- TRANSMIT_HANDOFF (R123). -/
def execTransmitHandoff (p : Path) (s : State) : Host.Outcome State Fault Refusal := .next (event (portFree p) s)

/-! ## Hold buffer and receive queue (R128, R133) -/

/-- The oldest held frame has reached the hold-age limit (R128). -/
def State.oldestAged (s : State) : Bool :=
  match s.fwd.held with
  | [] => false
  | h :: _ => s.aged h

/-- The oldest held frame is removed and counted (R128, R131). -/
def dropOldest (w : Work) : Work :=
  latch Bit.holdDrops
    ((w.onFwd fun f => { f with held := f.held.drop 1 }).onCounts (ForwardCounts.ageHeld 1))

/-- HOLD_AGE_EXPIRY (R128). -/
def execHoldAgeExpiry (s : State) : Host.Outcome State Fault Refusal :=
  .next (if s.oldestAged then event dropOldest s else s)

/-- The oldest frame leaves for the host with its arrival tag while the LAN link is up (R133). -/
def deliver (w : Work) : Work :=
  match w.st.fwd.receive with
  | [] => w
  | r :: rest =>
    if w.st.fwd.lanLink then
      w.onFwd fun f => { f with receive := rest, lanOut := some (arrivalTag r.path ++ r.data) }
    else w

/-- RECEIVE_QUEUE_DELIVERY: the LAN link's level as given, then one frame while it is up (R133, log 14). During INIT
only the level is held. -/
def execReceiveQueueDelivery (linkUp : Bool) (s : State) : Host.Outcome State Fault Refusal :=
  .next (if s.exch.service = .init then { s with fwd := { s.fwd with lanLink := linkUp } }
    else event (fun w => deliver (w.onFwd fun f => { f with lanLink := linkUp })) s)

end Sys2Proof.Machine
end

