-- ==== Sys2Proof/Machine/Measuring.lean ====
section
/-! DEFINITION. The events of measurement: GENERATOR_TICK, PROBE_EXPIRY, INBOUND_FRAME (chapters 1 and 6),
FIBRE_LINK_CHANGE, LOS_CHANGE, FIBRE_SETTLE_EXPIRY (R29), DECAY_TICK (R40). -/

namespace Sys2Proof.Machine

/-! ## Ticks and expiries (R2, R5, R10) -/

/-- A tick offered to a path where it is assigned to the generator (R2). -/
def offerTick (g : Generator) (p : Path) (w : Work) : Work :=
  match (w.st.path p).assign, g with
  | .genA, .a => tickPath p w
  | .genB, .b => tickPath p w
  | .genA, .b => w
  | .genB, .a => w
  | .none, _ => w

/-- The generator's next tick falls one period later, and this one is offered to its paths (R2, R5). -/
def generatorTick (g : Generator) (w : Work) : Work :=
  let w := w.onGens fun gs => gs.set g { gs.get g with due := later (gs.get g).due (periodMs (gs.get g).n) }
  offerTick g .radio (offerTick g .fibre w)

/-- GENERATOR_TICK (R2, R5). -/
def execGeneratorTick (g : Generator) (s : State) : Host.Outcome State Fault Refusal :=
  .next (if reached s.now (s.gens.get g).due then event (generatorTick g) s else s)

/-- The path's unresolved entry with this sequence number has come to its expiry (R10). -/
def State.probeDue (s : State) (p : Path) (seq : Half) : Bool :=
  match findUnresolved seq (s.path p).probes with
  | none => false
  | some e => reachedFine s.clk e.expiry e.sentSub

/-- PROBE_EXPIRY (R10). -/
def execProbeExpiry (p : Path) (seq : Half) (s : State) : Host.Outcome State Fault Refusal :=
  .next (if s.probeDue p seq then event (resolveProbe p seq .lost) s else s)

/-! ## Inbound frames (R8, R132, R133) -/

/-- An inbound frame of a wrong length (R132). -/
def ForwardCounts.inboundMalformed (p : Path) (c : ForwardCounts) : ForwardCounts :=
  match p with
  | .fibre => { c with fibreIn := hold32 (c.fibreIn + 1) }
  | .radio => { c with radioIn := hold32 (c.radioIn + 1) }

def countUnmatched (p : Path) (w : Work) : Work :=
  w.onPath p fun r => { r with unmatched := hold32 (r.unmatched + 1) }

/-- A probe-shaped frame: a reply resolves its entry, any other is unmatched (R8, R9). -/
def takeProbeShaped (p : Path) (data : List Byte) (w : Work) : Work :=
  if trailerPath data = pathCode p then
    match findUnresolved (trailerSeq data) (w.st.path p).probes with
    | some e => resolveProbe p (trailerSeq data) (.replied (roundTrip w.st.clk e.sent e.sentSub)) w
    | none => countUnmatched p w
  else countUnmatched p w

/-- A frame enters the receive queue, or is dropped where it is full (R133). -/
def enterReceive (p : Path) (data : List Byte) (w : Work) : Work :=
  if Config.receiveMax ≤ w.st.fwd.receive.length then
    w.onCounts fun c => { c with receiveDrop := hold32 (c.receiveDrop + 1) }
  else w.onFwd fun f => { f with receive := f.receive ++ [{ data := data, path := p }] }

/-- The length check, the probe-reply check and the receive queue (R132). -/
def inboundChecked (p : Path) (data : List Byte) (w : Work) : Work :=
  if !frameFits data then w.onCounts (ForwardCounts.inboundMalformed p)
  else if probeShaped data then takeProbeShaped p data w
  else enterReceive p data w

/-- A radio frame is counted, with the pass that a change of stage owes, before any other handling (R132, R141). -/
def countInbound (p : Path) (data : List Byte) (w : Work) : Work :=
  match p with
  | .fibre => w
  | .radio => passes (addUsed (w.st.counted data) w)

/-- The port hands on what it receives: fibre while its link is up, the modem data link in SESSION (R132). -/
def State.portReceives (s : State) : Path → Bool
  | .fibre => s.fin.link
  | .radio => decide (s.ru.state = .session)

/-- INBOUND_FRAME (R132). -/
def execInboundFrame (p : Path) (bytes : List Byte) (s : State) : Host.Outcome State Fault Refusal :=
  .next (if s.portReceives p then event (fun w => inboundChecked p bytes (countInbound p bytes w)) s else s)

/-! ## The fibre port's link and LOS (R29, R124) -/

/-- Link up and LOS inactive (R29). -/
def FibreIn.good (f : FibreIn) : Bool := f.link && !f.los

/-- What the fibre monitor does after a change of link or LOS (R29). -/
def watchFibre (w : Work) : Work :=
  let f := w.st.fin
  if f.available then
    if f.good then w else physicalLoss .fibre (w.onFin fun f => { f with available := false })
  else if f.good then
    if f.settleDue.isSome then w
    else w.onFin fun f => { f with settleDue := some (later w.now Config.settleMs) }
  else w.onFin fun f => { f with settleDue := none }

/-- FIBRE_LINK_CHANGE: watched from the end of INIT; a port whose link comes up is ready (R29, R124). -/
def execFibreLinkChange (up : Bool) (s : State) : Host.Outcome State Fault Refusal :=
  .next (if s.exch.service = .init then { s with fin := { s.fin with link := up } }
    else event (fun w => takeNext .fibre (watchFibre (w.onFin fun f => { f with link := up }))) s)

/-- LOS_CHANGE: watched from the end of INIT (R29). -/
def execLosChange (active : Bool) (s : State) : Host.Outcome State Fault Refusal :=
  .next (if s.exch.service = .init then { s with fin := { s.fin with los := active } }
    else event (fun w => watchFibre (w.onFin fun f => { f with los := active })) s)

/-- The settle timer expires: a physical availability of the fibre path (R29, R32). -/
def fibreSettled (w : Work) : Work :=
  physicalAvailability .fibre (w.onFin fun f => { f with available := true, settleDue := none })

/-- FIBRE_SETTLE_EXPIRY (R29). -/
def execFibreSettleExpiry (s : State) : Host.Outcome State Fault Refusal :=
  .next (if expired s.now s.fin.settleDue then event fibreSettled s else s)

/-! ## Decay of the flap penalty (R40) -/

/-- One decay of a penalty (R40). -/
def decayed (n : Nat) : Nat := n - max 1 (n / 16)

def PathRec.decay (r : PathRec) : PathRec :=
  { r with decayDue := later r.decayDue (r.td * 1000), penalty := decayed r.penalty }

def decayTick (p : Path) (w : Work) : Work :=
  let w := w.onPath p PathRec.decay
  let r := w.st.path p
  if r.state = .suppressed ∧ r.penalty < r.reuse then releaseSuppressed p w else w

/-- DECAY_TICK (R40). -/
def execDecayTick (p : Path) (s : State) : Host.Outcome State Fault Refusal :=
  .next (if reached s.now (s.path p).decayDue then event (decayTick p) s else s)

end Sys2Proof.Machine
end

