-- ==== Sys2Proof/Machine/ModemEvents.lean ====
section
/-! DEFINITION. What comes from the modem and the radio unit's timers: answers, indications, discarded frames, READY,
POWERING and STOPPING timeouts, BACKOFF, pulses, polling and linger (chapter 3). -/

namespace Sys2Proof.Machine

/-! ## Messages of the control link (R55, R56, R69, R72) -/

/-- OK_ANSWER (R56). -/
def execOkAnswer (s : State) : Host.Outcome State Fault Refusal := .next (event (takeFrame .ok) s)

/-- REFUSED_ANSWER (R56). -/
def execRefusedAnswer (reason : Byte) (s : State) : Host.Outcome State Fault Refusal :=
  .next (event (takeFrame (.refused reason)) s)

/-- SIGNAL_ANSWER (R72). -/
def execSignalAnswer (grade : Byte) (s : State) : Host.Outcome State Fault Refusal :=
  .next (event (takeFrame (.signalAnswer grade)) s)

/-- SESSION_CLOSED (R69). -/
def execSessionClosed (s : State) : Host.Outcome State Fault Refusal := .next (event (takeFrame .sessionClosed) s)

/-- DETACHED (R69). -/
def execDetached (s : State) : Host.Outcome State Fault Refusal := .next (event (takeFrame .detached) s)

/-- SIGNAL_INDICATION (R72). -/
def execSignalIndication (grade : Byte) (s : State) : Host.Outcome State Fault Refusal :=
  .next (event (takeFrame (.signalIndication grade)) s)

/-- LINK_FRAME_DISCARDED: bytes arrive, and the receiver discards the frames that are wrong (R55, log 16). -/
def execLinkFrameDiscarded (bytes : List Byte) (s : State) : Host.Outcome State Fault Refusal :=
  .next (event (receiveBytes bytes) s)

/-- LINK_INTERBYTE_TIMEOUT: the frame under way ends in its silence, and the bytes that end the silence, if any,
arrive (R55, log 16). -/
def execLinkInterbyteTimeout (bytes : List Byte) (s : State) : Host.Outcome State Fault Refusal :=
  .next (if s.ru.silent s.now then event (receiveBytes bytes) s else s)

/-! ## Timers of requests and states (R56, R58, R63, R64) -/

/-- The answer timer's expiry acted on (R56). -/
def answerTimedOut (w : Work) : Work :=
  match w.st.ru.outstanding with
  | none => w
  | some o => takeTimeout o w

/-- The answer timer has come to its expiry. -/
def RadioUnit.answerDue (now : Time) (r : RadioUnit) : Bool := expired now (r.outstanding.map Outstanding.due)

/-- ANSWER_TIMEOUT (R56). -/
def execAnswerTimeout (s : State) : Host.Outcome State Fault Refusal :=
  .next (if s.ru.answerDue s.now then event answerTimedOut s else s)

/-- The timer of the given state has come to its expiry. -/
def RadioUnit.timerDue (n : RadioState) (now : Time) (r : RadioUnit) : Bool :=
  decide (r.state = n) && expired now r.stateDue

/-- POWERING_TIMEOUT (R58). -/
def execPoweringTimeout (s : State) : Host.Outcome State Fault Refusal :=
  .next (if s.ru.timerDue .powering s.now then event enterResetting s else s)

/-- The STOPPING timer expires: an MRST pulse starts, and its end leads to OFF (R63). -/
def stoppingTimedOut (w : Work) : Work := w.onRu fun r => { r.pulseMrst w.now with stateDue := none }

/-- STOPPING_TIMEOUT (R63). -/
def execStoppingTimeout (s : State) : Host.Outcome State Fault Refusal :=
  .next (if s.ru.timerDue .stopping s.now then event stoppingTimedOut s else s)

/-- BACKOFF_EXPIRY (R64). -/
def execBackoffExpiry (s : State) : Host.Outcome State Fault Refusal :=
  .next (if s.ru.timerDue .backoff s.now then event enterIdle s else s)

/-! ## READY and pulses (R52, R53) -/

/-- READY_CHANGE: during INIT only the pin's level is held (R68). -/
def execReadyChange (high : Bool) (s : State) : Host.Outcome State Fault Refusal :=
  .next (if s.exch.service = .init then { s with ru := { s.ru with readyHigh := high } }
    else event (setReady fun r => { r with readyHigh := high }) s)

/-- The pulse of a line. -/
def RadioUnit.pulse (r : RadioUnit) : PulseLine → Pulse
  | .pwr => r.pwr
  | .mrst => r.mrst

def pulseEnds (line : PulseLine) (w : Work) : Work :=
  match line with
  | .pwr => pwrPulseEnds w
  | .mrst => mrstPulseEnds w

/-- PULSE_END (R53). -/
def execPulseEnd (line : PulseLine) (s : State) : Host.Outcome State Fault Refusal :=
  .next (if expired s.now (s.ru.pulse line).ends then event (pulseEnds line) s else s)

/-! ## Polling and linger (R71, R74) -/

/-- A signal query becomes due (R71). -/
def pollDue (due : Time) (w : Work) : Work :=
  let w := w.onRu fun r => { r with pollDue := some (later due (r.poll * 1000)) }
  match w.st.ru.outstanding with
  | none => if w.st.ru.queryPending then w else sendRequest .signalQuery w
  | some o => if o.kind = .signalQuery then w else w.onRu fun r => { r with queryPending := true }

/-- POLL_TIMER_EXPIRY (R71). -/
def execPollTimerExpiry (s : State) : Host.Outcome State Fault Refusal :=
  match s.ru.pollDue with
  | none => .next s
  | some due => .next (if reached s.now due then event (pollDue due) s else s)

/-- The linger has reached its effective value (R74). -/
def State.lingerDue (s : State) : Bool :=
  s.ru.lingerOn && decide (s.effectiveLinger * 1000 ≤ elapsed s.now s.ru.lingerStart)

/-- LINGER_EXPIRY (R74). -/
def execLingerExpiry (s : State) : Host.Outcome State Fault Refusal :=
  .next (if s.lingerDue then event (fun w => recomputeTarget (compareLinger w)) s else s)

end Sys2Proof.Machine
end

