-- ==== Sys2Proof/Machine/Resets.lean ====
section
/-! DEFINITION. The resets and the end of INIT: POWER_ON, RESET_PIN_ASSERT, RESET_PIN_RELEASE, SOFT_RESET, INIT_END
(section 9.9). -/

namespace Sys2Proof.Machine

/-- Every block's power-on status, the levels of the input lines and the commands that wait kept; a warm reset keeps
the allowance state as well (R181, R148). Live overrun and the period start time, which R148 does not list, are kept
with it until INIT ends: the model's choice (log 45). -/
def resetTo (warm : Bool) (s : State) : State :=
  { State.reset with
    exch := { State.reset.exch with resetHeld := s.exch.resetHeld, warm := warm },
    fin := { State.reset.fin with link := s.fin.link, los := s.fin.los },
    ru := RadioUnit.initial s.ru.readyHigh,
    fwd := { Forwarding.initial with lanLink := s.fwd.lanLink },
    allow := if warm then s.allow else Allowance.initial,
    sup := { State.reset.sup with
             mainsOk := LineRec.initial s.sup.mainsOk.high true,
             battLow := LineRec.initial s.sup.battLow.high false,
             battCrit := LineRec.initial s.sup.battCrit.high false },
    pending := s.pending,
    free := s.free }

/-- POWER_ON (R181). -/
def execPowerOn (s : State) : Host.Outcome State Fault Refusal := .next (resetTo false s)

/-- RESET_PIN_ASSERT: a warm reset begins, or INIT begins again (R181). -/
def execResetPinAssert (s : State) : Host.Outcome State Fault Refusal :=
  let r := resetTo true s
  .next { r with exch := { r.exch with resetHeld := true } }

/-- RESET_PIN_RELEASE: the bounded initialization runs from here (R177). Released while it is not held, the pin begins
the bound of an INIT anew all the same: the model's choice (log 42). -/
def execResetPinRelease (s : State) : Host.Outcome State Fault Refusal :=
  .next { s with exch := { s.exch with resetHeld := false, initElapsed := 0 } }

/-- A CONTROL write outside INIT: bit 0 begins a soft reset, else bit 1 is the interrupt enable (R167). -/
def controlWrite (v : Word) (s : State) : State :=
  if s.exch.service = .init then s
  else if v.getLsbD 0 then resetTo true s
  else event (fun w => w.onExch fun e => { e with intEnable := v.getLsbD 1 }) s

/-- SOFT_RESET: a CONTROL write with bit 0 set (R167, R181). -/
def execSoftReset (s : State) : Host.Outcome State Fault Refusal := .next (controlWrite 1 s)

/-- INTERRUPT_ENABLE_WRITE: a CONTROL write with bit 0 clear (R167). -/
def execInterruptEnableWrite (enable : Bool) (s : State) : Host.Outcome State Fault Refusal :=
  .next (controlWrite (if enable then 2 else 0) s)

/-- A debounced level set from the normalized level, timer stopped (R153). -/
def LineRec.settled (l : LineRec) : LineRec := { l with debounced := l.normal, due := none }

/-- The supply state of three debounced levels (R152). -/
def supplyOf (mainsOk battLow battCrit : Bool) : Supply :=
  if mainsOk then .mains else if battCrit then .critical else if battLow then .batteryLow else .battery

/-- The supply monitor at the end of INIT (R153). -/
def SupplyMonitor.started (m : SupplyMonitor) : SupplyMonitor :=
  { mainsOk := m.mainsOk.settled, battLow := m.battLow.settled, battCrit := m.battCrit.settled,
    state := supplyOf m.mainsOk.normal m.battLow.normal m.battCrit.normal, since := 0 }

/-- The allowance meter at the end of INIT: a warm reset's kept state completed (R144, R148). An INIT that a RESET pin
began again counts as one warm reset: the model's choice (log 28). -/
def Allowance.started (warm : Bool) (a : Allowance) : Allowance :=
  if warm then { a with start := 0, warmResets := hold8 (a.warmResets + 1), live := a.liveNow } else a

/-- The way out of RESYNC at the end of INIT: OFF, or RESYNC with CLOSE SESSION to be sent in the next event (R68, R78,
log 36). -/
def RadioUnit.started (r : RadioUnit) : RadioUnit := { r with state := if r.ready then .resync else .off }

/-- Everything the end of INIT sets but the condition set and the EVENTS latch (R182, steps 1 to 6). -/
def initState (s : State) : State :=
  { s with
    clk := { ms := 0, sub := 0 },
    exch := { s.exch with service := .config, sweepDue := later 0 s.exch.interval },
    mem := [],
    counts := State.reset.counts,
    gens := { a := { s.gens.a with due := later 0 (periodMs s.gens.a.n) },
              b := { s.gens.b with due := later 0 (periodMs s.gens.b.n) } },
    fibre := { s.fibre with decayDue := later 0 (s.fibre.td * 1000) },
    radio := { s.radio with decayDue := later 0 (s.radio.td * 1000) },
    fin := { s.fin with settleDue := if s.fin.link && !s.fin.los then some (later 0 Config.settleMs) else none },
    ru := s.ru.started,
    classes := s.classes.map fun c => { c with count := 0 },
    flows := s.flows.map fun f => { f with count := 0 },
    allow := s.allow.started s.exch.warm,
    sup := s.sup.started }

/-- INIT_END: outside INIT, or while the RESET pin is held, it does not happen (R181, R182). The condition bits take
their starting values without edges, and INIT_DONE is the only event latched. -/
def execInitEnd (s : State) : Host.Outcome State Fault Refusal :=
  if s.exch.service = .init ∧ s.exch.resetHeld = false then
    let t := initState s
    .next (refreshIrq { t with ev := { t.ev with cond := t.facts, latch := bitMask Bit.initDone } })
  else .next s

end Sys2Proof.Machine
end

