-- ==== Sys2Proof/Machine/Registers.lean ====
section
/-! DEFINITION. Bus accesses to registers and exchange memory, and the sweeps: NUDGE, EVENTS_READ, EVENT_ENABLE_WRITE,
REGISTER_WRITE, EXCHANGE_MEMORY_WRITE, SWEEP_TIMER_EXPIRY, SLOT_PASSED_OVER, SWEEP_END, UNKNOWN_ORDER_KIND
(chapters 9 and 10). -/

namespace Sys2Proof.Machine

/-! ## Sweeps (R172, R173, R175) -/

/-- The distance of a slot's ticket from the last-taken ticket (R173). -/
def ticketDistance (ticket last : Nat) : Nat := (ticket + 131071 - last) % 65536

/-- A slot put behind every slot of the same or a lesser key. -/
def insertSlot (key : Nat → Nat) (i : Nat) : List Nat → List Nat
  | [] => [i]
  | j :: js => if key i < key j then i :: j :: js else j :: insertSlot key i js

/-- The slots that are READY, by ticket distance and then by index (R173). -/
def collectSlots (m : Memory) (last : Half) : List Nat :=
  let ready := (List.range 16).filter fun i => decide (slotState m i = Slot.ready)
  ready.foldl (fun acc i => insertSlot (fun j => ticketDistance (slotTicket m j) last.toNat) i acc) []

/-- A sweep begins with its collection (R173). -/
def beginSweep (w : Work) : Work :=
  w.onExch fun e => { e with sweep := some (collectSlots w.st.mem e.lastTicket), sweepDone := false }

/-- A nudge: a sweep, or nudge pending while one is in progress (R172). -/
def takeNudge (w : Work) : Work :=
  match w.st.exch.sweep with
  | none => beginSweep w
  | some _ => w.onExch fun e => { e with nudgePending := true }

/-- NUDGE (R172). -/
def execNudge (_value : Word) (s : State) : Host.Outcome State Fault Refusal := .next (event takeNudge s)

/-- A sweep timer expiry: the timer keeps its phase (R172). -/
def takeSweepTimer (w : Work) : Work :=
  let w := w.onExch fun e => { e with sweepDue := later e.sweepDue e.interval }
  match w.st.exch.sweep with
  | none => beginSweep w
  | some _ => w

/-- SWEEP_TIMER_EXPIRY (R172). -/
def execSweepTimerExpiry (s : State) : Host.Outcome State Fault Refusal :=
  .next (if reached s.now s.exch.sweepDue then event takeSweepTimer s else s)

/-- SLOT_PASSED_OVER: the next collected slot is no longer READY (R174). -/
def execSlotPassedOver (s : State) : Host.Outcome State Fault Refusal :=
  match s.exch.sweep with
  | some (i :: rest) =>
    .next (if slotState s.mem i = Slot.ready then s
           else event (fun w => w.onExch fun e => { e with sweep := some rest }) s)
  | some [] => .next s
  | none => .next s

/-- The end of a sweep (R172, R175). -/
def endSweep (w : Work) : Work :=
  let done := w.st.exch.sweepDone
  let nudged := w.st.exch.nudgePending
  let w := w.onExch fun e =>
    { e with sweep := none, sweepDone := false, nudgePending := false, sweepCount := e.sweepCount + 1 }
  let w := if done then latch Bit.orderDone w else w
  if nudged then beginSweep w else w

/-- SWEEP_END: every collected slot has been taken or passed over (R175). -/
def execSweepEnd (s : State) : Host.Outcome State Fault Refusal :=
  .next (if s.exch.sweep = some [] then event endSweep s else s)

/-- UNKNOWN_ORDER_KIND: answered BAD_KIND with zeros (R176). -/
def execUnknownOrderKind (s : State) : Host.Outcome State Fault Refusal :=
  .next (takeOrder (fun k => (kindOrder k).isNone) (fun _ w => refuse .badKind w) s)

/-! ## Registers (R165, R187, R188) -/

/-- EVENTS_READ: a 32-bit read returns the latch and clears what it returns; a read during INIT or of another width
returns zero and clears nothing (R165, R187). -/
def execEventsRead (width : Nat) (s : State) : Host.Outcome State Fault Refusal :=
  if s.exch.service = .init ∨ width ≠ 4 then .next { s with exch := { s.exch with readData := 0 } }
  else
    .next (event (fun w =>
      (w.onExch fun e => { e with readData := w.st.ev.latch }).onEv fun v => { v with latch := 0 }) s)

/-- The whole mask replaced (R188). -/
def writeEnable (v : Word) (s : State) : State := event (fun w => w.onEv fun e => { e with enable := v }) s

/-- EVENT_ENABLE_WRITE: writes of other widths are ignored (R188). -/
def execEventEnableWrite (width : Nat) (value : Word) (s : State) : Host.Outcome State Fault Refusal :=
  .next (if width = 4 then writeEnable value s else s)

/-- A write to the register window: CONTROL, NUDGE and EVENT_ENABLE have their behaviour, every other register, offset
and width ignores the write (R165, R166, R167, R172, R187, R188). -/
def registerStore (offset width : Nat) (value : Word) (s : State) : State :=
  if width ≠ 4 then s
  else if offset = 0x04 then controlWrite value s
  else if offset = 0x08 then event takeNudge s
  else if offset = 0x10 then writeEnable value s
  else s

/-- REGISTER_WRITE (R165). -/
def execRegisterWrite (offset width : Nat) (value : BitVec 64) (s : State) : Host.Outcome State Fault Refusal :=
  .next (registerStore offset width (value.setWidth 32) s)

/-- The offset lies in the order slots (R168). -/
def inSlots (off : Nat) : Bool := decide (0x0100 ≤ off) && decide (off < 0x0900)

/-- EXCHANGE_MEMORY_WRITE: stored in an order slot, ignored elsewhere, at a width or alignment the memory does not take,
and during INIT (R168, R171, R181). -/
def execExchangeMemoryWrite (offset width : Nat) (value : BitVec 64) (s : State) : Host.Outcome State Fault Refusal :=
  .next (if s.exch.service ≠ .init ∧ exchangeAccess offset width ∧ inSlots offset then
      { s with mem := Memory.writeBytes s.mem offset (leBytes width value.toNat) }
    else s)

end Sys2Proof.Machine
end

