-- ==== Sys2Proof/Machine/Clock.lean ====
section
/-! DEFINITION. What a step does when no command waits (log 1): device time moves on by 0.01 ms, and every timer that
has come to its expiry puts its command in the queue, in an order about which nothing is known (log 2). -/

namespace Sys2Proof.Machine

/-- A command where its condition holds. -/
def whenDue (due : Bool) (c : Instr) : List Instr := if due then [c] else []

/-- The next event of a sweep in progress (R173, R174, R175). -/
def sweepCommands (s : State) : List Instr :=
  match s.exch.sweep with
  | none => []
  | some [] => [.sweepEnd]
  | some (i :: _) =>
    if slotState s.mem i = Slot.ready then [(kindOrder (slotKind s.mem i)).getD .unknownOrderKind]
    else [.slotPassedOver]

/-- Expiries of the pending entries of a path (R10). -/
def probeCommands (s : State) (p : Path) : List Instr :=
  (s.path p).probes.flatMap fun e =>
    whenDue (decide (e.res = .unresolved) && reachedFine s.clk e.expiry e.sentSub) (.probeExpiry p e.seq)

/-- Timers of one flow record (R107, R109, R110). -/
def flowCommands (s : State) (i : Fin 128) : List Instr :=
  let f := s.flow i
  if f.state = .free then []
  else whenDue (f.idleDue s.now) (.flowIdleExpiry i) ++ whenDue (s.gapDue i) (.idleGapReturn i)
    ++ whenDue (f.markDue s.now) (.longIdleMark i)

/-- Timers of the exchange port, the probe engine and the path monitors. -/
def measureCommands (s : State) : List Instr :=
  whenDue (reached s.now s.exch.sweepDue) .sweepTimerExpiry
    ++ whenDue (reached s.now s.gens.a.due) (.generatorTick .a)
    ++ whenDue (reached s.now s.gens.b.due) (.generatorTick .b)
    ++ probeCommands s .fibre ++ probeCommands s .radio
    ++ whenDue (expired s.now s.fin.settleDue) .fibreSettleExpiry
    ++ whenDue (reached s.now s.fibre.decayDue) (.decayTick .fibre)
    ++ whenDue (reached s.now s.radio.decayDue) (.decayTick .radio)

/-- Timers of the radio unit. -/
def radioCommands (s : State) : List Instr :=
  whenDue (s.ru.answerDue s.now) .answerTimeout
    ++ whenDue (s.ru.timerDue .powering s.now) .poweringTimeout
    ++ whenDue (s.ru.timerDue .stopping s.now) .stoppingTimeout
    ++ whenDue (s.ru.timerDue .backoff s.now) .backoffExpiry
    ++ whenDue (expired s.now s.ru.pwr.ends) (.pulseEnd .pwr)
    ++ whenDue (expired s.now s.ru.mrst.ends) (.pulseEnd .mrst)
    ++ whenDue (expired s.now s.ru.pollDue) .pollTimerExpiry
    ++ whenDue s.lingerDue .lingerExpiry
    ++ whenDue (s.ru.silent s.now) (.linkInterbyteTimeout [])

/-- Timers of the steering unit, the flow table, the forwarding unit, the supply monitor and the drill unit. -/
def steeringCommands (s : State) : List Instr :=
  whenDue (decide (s.steer.ret = .armed) && reached s.now s.steer.retDue) .returnDelayDue
    ++ whenDue (s.hold.active && reached s.now s.hold.stop) .holdExpiry
    ++ (List.finRange 128).flatMap (flowCommands s)
    ++ (s.fwd.held.flatMap fun h => whenDue (s.aged h) .holdAgeExpiry)
    ++ whenDue (expired s.now s.sup.mainsOk.due) (.debounceExpiry .mainsOk)
    ++ whenDue (expired s.now s.sup.battLow.due) (.debounceExpiry .battLow)
    ++ whenDue (expired s.now s.sup.battCrit.due) (.debounceExpiry .battCrit)
    ++ whenDue (s.drill.limitReached s.now) .drillLimitExpiry

/-- Every command that falls due as the state stands. -/
def dueCommands (s : State) : List Instr :=
  sweepCommands s ++ measureCommands s ++ radioCommands s ++ steeringCommands s

/-- A command put among others at a place of the free order (log 2); alone, it has only one place. -/
def insertFreely (k : Nat) (c : Instr) : List Instr → List Instr
  | [] => [c]
  | d :: ds => (d :: ds).insertIdx (Config.freeOrder k % (ds.length + 2)) c

/-- Commands that fall due together, in the free order (log 2). -/
def freelyOrdered : Nat → List Instr → List Instr
  | _, [] => []
  | k, c :: cs => insertFreely k c (freelyOrdered (k + 1) cs)

/-- Time passes in INIT: its bound of 2 ms runs, unless the RESET pin is held (R177, log 6). -/
def initTick (s : State) : State :=
  if s.exch.resetHeld then s
  else
    let t := { s with exch := { s.exch with initElapsed := s.exch.initElapsed + 1 } }
    if Config.initTicks ≤ t.exch.initElapsed then { t with pending := t.pending ++ [.initEnd] } else t

/-- Time passes outside INIT: device time, and what falls due. -/
def runTick (s : State) : State :=
  let t := { s with clk := s.clk.tick }
  let due := dueCommands t
  { t with pending := t.pending ++ freelyOrdered t.free due, free := t.free + due.length }

/-- RESYNC has its first request, CLOSE SESSION, still to send (R68). -/
def RadioUnit.resyncWaits (r : RadioUnit) : Bool := decide (r.state = .resync) && r.outstanding.isNone

/-- What happens when no command waits: a tick of 0.01 ms (log 1), or, right after INIT with READY active, the sending of
CLOSE SESSION, which takes no time (log 36). -/
def tick (s : State) : State :=
  if s.exch.service = .init then initTick s
  else if s.ru.resyncWaits then event (sendRequest .closeSession) s
  else runTick s

end Sys2Proof.Machine
end

