-- ==== Sys2Proof/Machine/AllowanceOrders.lean ====
section
/-! DEFINITION. The allowance meter's orders: SET ALLOWANCE (R145) and NEW PERIOD (R146). -/

namespace Sys2Proof.Machine

/-! ## SET ALLOWANCE (R145) -/

/-- The five settings written and the boundaries recomputed (R138, R139). -/
def Allowance.configure (kib c r : Nat) (hardCap : Bool) (overhead : Nat) (a : Allowance) : Allowance :=
  Allowance.bounded { a with kib := kib, conserve := c, reserve := r, hardCap := hardCap, overhead := overhead }

/-- A change of the hard cap while the stage is EXHAUSTED owes the pass (R143). -/
def capSees (before : Bool) (w : Work) : Work :=
  if w.st.allow.hardCap ≠ before ∧ w.st.allow.stage = .exhausted then w.owePass else w

def allowanceAnswer (s : State) : List Byte :=
  let a := s.allow
  pack [(4, a.kib), (1, a.conserve), (1, a.reserve), (1, a.hardCap.toNat), (1, a.overhead), (1, a.stage.code),
        (1, a.live.toNat), (1, a.sticky.toNat)]

def orderSetAllowance (ps : List Byte) (w : Work) : Answered :=
  match flagOf (param ps 6 1) with
  | none => refuse .badValue w
  | some hardCap =>
    let kib := param ps 0 4
    let c := clamp 50 98 (param ps 4 1)
    let r := clamp 51 99 (param ps 5 1)
    let overhead := min (param ps 7 1) 64
    let clamped := decide (c ≠ param ps 4 1) || decide (r ≠ param ps 5 1) || decide (overhead ≠ param ps 7 1)
    if r ≤ c then refuse .badValue w
    else
      let before := w.st.allow.hardCap
      let w := restage (w.onAllow (Allowance.configure kib c r hardCap overhead))
      { work := (capSees before w).touch .allowance, result := okOrClamped clamped, answer := allowanceAnswer }

/-- SET_ALLOWANCE (R145). -/
def execSetAllowance (s : State) : Host.Outcome State Fault Refusal :=
  .next (takeKind Kind.setAllowance orderSetAllowance s)

/-! ## NEW PERIOD (R146) -/

/-- The summary of the period that ends now (R146). -/
def Allowance.summarize (now : Time) (a : Allowance) : Summary :=
  { valid := true, used := a.used, peak := a.peak, sticky := a.sticky, start := a.start, stop := now,
    warmResets := a.warmResets }

/-- Steps 1 to 3 of R146, but for the stage and live overrun, which are recomputed from the new U. -/
def Allowance.newPeriod (now : Time) (a : Allowance) : Allowance :=
  { a with
    summary := a.summarize now, used := 0, sticky := false, peak := .normal, start := now, warmResets := 0 }

def summaryAnswer (s : State) : List Byte :=
  let m := s.allow.summary
  pack [(8, m.used), (1, m.peak.code), (1, m.sticky.toNat), (4, m.start.toNat), (4, m.stop.toNat), (1, m.warmResets)]

def orderNewPeriod (_ps : List Byte) (w : Work) : Answered :=
  { work := (restage (w.onAllow (Allowance.newPeriod w.now))).touch .allowance, result := .ok, answer := summaryAnswer }

/-- NEW_PERIOD (R146). -/
def execNewPeriod (s : State) : Host.Outcome State Fault Refusal := .next (takeKind Kind.newPeriod orderNewPeriod s)

end Sys2Proof.Machine
end

