-- ==== Sys2Proof/Machine/PathOrders.lean ====
section
/-! DEFINITION. The orders of the probe engine and the path monitors: SET GENERATOR, SET PROBING, SET TEMPLATE
(section 1.8), SET SCORING, SET DAMPING, CLEAR CAUSE (section 2.9). -/

namespace Sys2Proof.Machine

/-! ## SET GENERATOR (R19) -/

/-- The assignment to a generator. -/
def assignmentTo : Generator → Assignment
  | .a => .genA
  | .b => .genB

/-- A path of the changed generator is settled and its To clamped to its new range (R4, R19). -/
def reclampPath (g : Generator) (p : Path) (w : Work) : Work :=
  if (w.st.path p).assign = assignmentTo g then
    let w := settle p w
    w.onPath p fun r => { r with timeout := clamp 100 (timeoutMax w.st r.assign r.d) r.timeout }
  else w

/-- SET GENERATOR's answer. -/
def generatorAnswer (g : Generator) (s : State) : List Byte :=
  pack [(1, generatorCode g), (2, (s.gens.get g).n), (2, periodMs (s.gens.get g).n), (2, s.fibre.timeout),
        (2, s.radio.timeout)]

def orderSetGenerator (ps : List Byte) (w : Work) : Answered :=
  match generatorOf (param ps 0 1) with
  | none => refuse .badValue w
  | some g =>
    let n := min (param ps 1 2) 399
    let above := decide (399 < param ps 1 2)
    if (w.st.gens.get g).n = n then { work := w, result := okOrClamped above, answer := generatorAnswer g }
    else
      let before := w.st
      let w := w.onGens fun gs => gs.set g { n := n, due := later w.now (periodMs n) }
      let w := reclampPath g .radio (reclampPath g .fibre w)
      let moved := decide (w.st.fibre.timeout ≠ before.fibre.timeout) || decide (w.st.radio.timeout ≠ before.radio.timeout)
      { work := w, result := okOrClamped (above || moved), answer := generatorAnswer g }

/-- SET_GENERATOR (R19). -/
def execSetGenerator (s : State) : Host.Outcome State Fault Refusal :=
  .next (takeKind Kind.setGenerator orderSetGenerator s)

/-! ## SET PROBING (R20) -/

def orderSetProbing (ps : List Byte) (w : Work) : Answered :=
  match pathOf (param ps 0 1), assignmentOf (param ps 1 1) with
  | some p, some a =>
    let r := w.st.path p
    let d := clamp 1 60 (param ps 2 1)
    let t := clamp 100 (timeoutMax w.st a d) (param ps 3 4)
    let clamped := decide (d ≠ param ps 2 1) || decide (t ≠ param ps 3 4)
    let w := w.onPath p fun r => { r with assign := a, d := d, timeout := t }
    let w := if r.assign ≠ a ∨ r.d ≠ d then settle p w else w
    { work := becameLinkOnly p r.linkOnly w, result := okOrClamped clamped,
      answer := fun s =>
        let r := s.path p
        pack [(1, pathCode p), (1, r.assign.code), (1, r.d), (2, r.timeout), (4, s.interval r)] }
  | _, _ => refuse .badValue w

/-- SET_PROBING (R20). -/
def execSetProbing (s : State) : Host.Outcome State Fault Refusal :=
  .next (takeKind Kind.setProbing orderSetProbing s)

/-! ## SET TEMPLATE (R21) -/

def orderSetTemplate (ps : List Byte) (w : Work) : Answered :=
  match pathOf (param ps 0 1) with
  | none => refuse .badValue w
  | some p =>
    let r := w.st.path p
    let len := min (param ps 1 1) 64
    let template := (ps.drop 2).take len
    let w := w.onPath p fun r => { r with template := template }
    let w := if r.template ≠ template then settle p w else w
    { work := becameLinkOnly p r.linkOnly w, result := okOrClamped (decide (64 < param ps 1 1)),
      answer := fun s =>
        let r := s.path p
        pack [(1, pathCode p), (1, r.template.length), (1, r.linkOnly.toNat)] }

/-- SET_TEMPLATE (R21). -/
def execSetTemplate (s : State) : Host.Outcome State Fault Refusal :=
  .next (takeKind Kind.setTemplate orderSetTemplate s)

/-! ## SET SCORING (R48) -/

def scoringAnswer (p : Path) (s : State) : List Byte :=
  let r := s.path p
  pack [(1, pathCode p), (1, r.lockFirst.toNat), (2, r.floor), (2, r.ceiling), (2, r.upT), (2, r.weakT), (2, r.failT),
        (1, r.failLimit)]

def orderSetScoring (ps : List Byte) (w : Work) : Answered :=
  match pathOf (param ps 0 1), flagOf (param ps 1 1) with
  | some p, some lock =>
    let f := min (param ps 2 2) 60000
    let c := min (param ps 4 2) 60000
    let u := min (param ps 6 2) 1000
    let wk := min (param ps 8 2) 1000
    let d := min (param ps 10 2) 1000
    let k := clamp 1 16 (param ps 12 1)
    let clamped := decide (f ≠ param ps 2 2) || decide (c ≠ param ps 4 2) || decide (u ≠ param ps 6 2)
      || decide (wk ≠ param ps 8 2) || decide (d ≠ param ps 10 2) || decide (k ≠ param ps 12 1)
    if f < c ∧ d < wk ∧ wk < u then
      { work := w.onPath p fun r =>
          { r with floor := f, ceiling := c, upT := u, weakT := wk, failT := d, failLimit := k, lockFirst := lock },
        result := okOrClamped clamped, answer := scoringAnswer p }
    else refuse .badValue w
  | _, _ => refuse .badValue w

/-- SET_SCORING (R48). -/
def execSetScoring (s : State) : Host.Outcome State Fault Refusal :=
  .next (takeKind Kind.setScoring orderSetScoring s)

/-! ## SET DAMPING (R49) -/

def dampingAnswer (p : Path) (s : State) : List Byte :=
  let r := s.path p
  pack [(1, pathCode p), (1, r.damping.toNat), (2, r.suppress), (2, r.reuse), (2, r.td), (2, r.penalty),
        (1, r.state.code)]

/-- The settings written; a changed Td restarts the decay timer's phase (R40, R49). -/
def PathRec.damp (on : Bool) (suppress reuse td : Nat) (now : Time) (r : PathRec) : PathRec :=
  { r with
    damping := on, suppress := suppress, reuse := reuse, td := td,
    decayDue := if r.td = td then r.decayDue else later now (td * 1000) }

def orderSetDamping (ps : List Byte) (w : Work) : Answered :=
  match pathOf (param ps 0 1), flagOf (param ps 1 1) with
  | some p, some on =>
    let suppress := min (param ps 2 2) 8000
    let reuse := min (param ps 4 2) 8000
    let td := clamp 1 255 (param ps 6 2)
    let clamped := decide (suppress ≠ param ps 2 2) || decide (reuse ≠ param ps 4 2) || decide (td ≠ param ps 6 2)
    if 0 < reuse ∧ reuse < suppress then
      let w := w.onPath p (PathRec.damp on suppress reuse td w.now)
      let w := if !on && decide ((w.st.path p).state = .suppressed) then releaseSuppressed p w else w
      { work := w, result := okOrClamped clamped, answer := dampingAnswer p }
    else refuse .badValue w
  | _, _ => refuse .badValue w

/-- SET_DAMPING (R49). -/
def execSetDamping (s : State) : Host.Outcome State Fault Refusal :=
  .next (takeKind Kind.setDamping orderSetDamping s)

/-! ## CLEAR CAUSE (R50) -/

/-- valid, repeat and the fall count become 0, the rest is kept (R50). -/
def CauseRecord.cleared (c : CauseRecord) : CauseRecord := { c with valid := false, repeated := false, falls := 0 }

def orderClearCause (ps : List Byte) (w : Work) : Answered :=
  match pathOf (param ps 0 1) with
  | none => refuse .badValue w
  | some p =>
    let c := (w.st.path p).cause
    { work := w.onPath p fun r => { r with cause := r.cause.cleared },
      result := .ok,
      answer := fun _ =>
        pack [(1, pathCode p), (1, optCode Cause.code c.cause), (1, c.repeated.toNat), (1, c.falls)] }

/-- CLEAR_CAUSE (R50). -/
def execClearCause (s : State) : Host.Outcome State Fault Refusal :=
  .next (takeKind Kind.clearCause orderClearCause s)

end Sys2Proof.Machine
end

