-- ==== Sys2Proof/Machine/RadioOrders.lean ====
section
/-! DEFINITION. The three radio orders: SET RADIO, SET MODEM LINES, RELEASE RADIO (section 3.7). -/

namespace Sys2Proof.Machine

/-! ## SET RADIO (R75) -/

/-- The four settings written; a running poll timer restarts its phase where the interval changes (R71, R75). -/
def RadioUnit.configure (standby : Standby) (linger attach poll : Nat) (now : Time) (r : RadioUnit) : RadioUnit :=
  { r with
    standby := standby, linger := linger, attachTimeout := attach, poll := poll,
    pollDue := if r.poll = poll then r.pollDue else r.pollDue.map fun _ => later now (poll * 1000) }

/-- SET RADIO taken in FAULT: the unit goes to IDLE or OFF by READY; the state entered acts after the pass that the
exit owes (R67, log 11). -/
def leaveFault (w : Work) : Work :=
  if w.st.ru.state = .fault then
    let w := exitFault w
    moveTo (if w.st.ru.ready then .idle else .off) w
  else w

def radioAnswer (s : State) : List Byte :=
  pack [(1, s.ru.standby.code), (2, s.ru.linger), (2, s.ru.attachTimeout), (2, s.ru.poll), (1, s.ru.state.code),
        (1, s.ru.target.code)]

def orderSetRadio (ps : List Byte) (w : Work) : Answered :=
  match standbyOf (param ps 0 1) with
  | none => refuse .badValue w
  | some standby =>
    let linger := min (param ps 1 2) 3600
    let attach := clamp 10 300 (param ps 3 2)
    let poll := clamp 1 60 (param ps 5 2)
    let clamped := decide (linger ≠ param ps 1 2) || decide (attach ≠ param ps 3 2) || decide (poll ≠ param ps 5 2)
    let w := w.onRu (RadioUnit.configure standby linger attach poll w.now)
    { work := recomputeTarget (passes (compareLinger (leaveFault w))), result := okOrClamped clamped,
      answer := radioAnswer }

/-- SET_RADIO (R75). -/
def execSetRadio (s : State) : Host.Outcome State Fault Refusal := .next (takeKind Kind.setRadio orderSetRadio s)

/-! ## SET MODEM LINES (R76) -/

/-- The six settings written; a change of style ends a PWR pulse in progress (R53, R76, log 17). -/
def RadioUnit.setLines (l : LineSettings) (r : RadioUnit) : RadioUnit :=
  { r with lines := l, pwr := if r.lines.level = l.level then r.pwr else Pulse.idle }

def linesAnswer (s : State) : List Byte :=
  let l := s.ru.lines
  pack [(1, l.level.toNat), (1, l.pwrLow.toNat), (1, l.mrstLow.toNat), (1, l.readyLow.toNat), (2, l.pwrWidth),
        (2, l.mrstWidth), (1, s.ru.pwrActive.toNat), (1, s.ru.mrstActive.toNat), (1, s.ru.ready.toNat)]

def orderSetModemLines (ps : List Byte) (w : Work) : Answered :=
  match flagOf (param ps 0 1), flagOf (param ps 1 1), flagOf (param ps 2 1), flagOf (param ps 3 1) with
  | some level, some pwrLow, some mrstLow, some readyLow =>
    let pwrWidth := clamp 100 5000 (param ps 4 2)
    let mrstWidth := clamp 100 2000 (param ps 6 2)
    let clamped := decide (pwrWidth ≠ param ps 4 2) || decide (mrstWidth ≠ param ps 6 2)
    { work := setReady (RadioUnit.setLines { level := level, pwrLow := pwrLow, mrstLow := mrstLow,
                                             readyLow := readyLow, pwrWidth := pwrWidth, mrstWidth := mrstWidth }) w,
      result := okOrClamped clamped, answer := linesAnswer }
  | _, _, _, _ => refuse .badValue w

/-- SET_MODEM_LINES (R76). -/
def execSetModemLines (s : State) : Host.Outcome State Fault Refusal :=
  .next (takeKind Kind.setModemLines orderSetModemLines s)

/-! ## RELEASE RADIO (R77) -/

def releaseAnswer (stopped : Bool) (s : State) : List Byte :=
  pack [(1, stopped.toNat), (1, s.ru.state.code), (1, s.ru.target.code)]

def orderReleaseRadio (_ps : List Byte) (w : Work) : Answered :=
  if w.st.steer.demand then refuse .inUse w
  else if w.st.ru.lingerOn then
    { work := recomputeTarget (stopLinger w), result := .ok, answer := releaseAnswer true }
  else { work := w, result := .ok, answer := releaseAnswer false }

/-- RELEASE_RADIO (R77). -/
def execReleaseRadio (s : State) : Host.Outcome State Fault Refusal :=
  .next (takeKind Kind.releaseRadio orderReleaseRadio s)

end Sys2Proof.Machine
end

