-- ==== Sys2Proof/Machine/ServiceOrders.lean ====
section
/-! DEFINITION. The service orders and the event unit's order: START SERVICE (R178), STOP SERVICE (R179), SET EXCHANGE
(R180), SET EVENT EDGES (R185). -/

namespace Sys2Proof.Machine

/-! ## START SERVICE (R178) -/

def startAnswer (s : State) : List Byte :=
  pack [(1, s.exch.service.code), (1, s.fibre.state.code), (1, s.radio.state.code), (1, s.ru.state.code),
        (1, s.ru.target.code)]

/-- The service state changes, and the header is rewritten (R177). -/
def setService (n : Service) (w : Work) : Work := (w.onExch fun e => { e with service := n }).touch .header

def clearTicks (p : Path) (w : Work) : Work := w.onPath p fun r => { r with ticks := 0 }

def startService (w : Work) : Work :=
  recomputeTarget (passes (clearTicks .radio (clearTicks .fibre (setService .service w))).owePass)

def orderStartService (_ps : List Byte) (w : Work) : Answered :=
  { work := if w.st.exch.service = .service then w else startService w, result := .ok, answer := startAnswer }

/-- START_SERVICE (R178). -/
def execStartService (s : State) : Host.Outcome State Fault Refusal :=
  .next (takeKind Kind.startService orderStartService s)

/-! ## STOP SERVICE (R179) -/

/-- Every record that is not FREE is freed, with its held frames (R105, R130). -/
def freeFlows : List Nat → Work → Work
  | [], w => w
  | i :: is, w => freeFlows is (if (w.st.flow i).state = .free then w else freeFlow i w)

/-- The number of records in use. -/
def State.flowsInUse (s : State) : Nat := (s.flows.filter fun f => decide (f.state ≠ .free)).length

/-- A path of step 6: PROVING, WEAK and SUPPRESSED go to UP (R43). -/
def backToUp (p : Path) (w : Work) : Work :=
  match (w.st.path p).state with
  | .proving | .weak | .suppressed => setPathState p .up w
  | .down | .up => w

/-- Steps 1 to 6 of R179. -/
def stopSteps (w : Work) : Work :=
  let w := endDrill .aborted .stopped w
  let w := handConditions (freeFlows (List.range 128) w)
  let w := stopLinger (flushQueue .radio (endHold .stopped w))
  let w := settle .radio (settle .fibre (setService .config w))
  backToUp .radio (backToUp .fibre w)

/-- STOP SERVICE taken in SERVICE: its steps, its one pass, and the target (R179). -/
def stopService (w : Work) : Work := recomputeTarget (passes (stopSteps w).owePass)

def stopAnswer (freed : Nat) (aborted ended : Bool) (s : State) : List Byte :=
  pack [(1, freed), (1, aborted.toNat), (1, ended.toNat), (1, s.exch.service.code), (1, s.fibre.state.code),
        (1, s.radio.state.code), (1, s.ru.state.code)]

def orderStopService (_ps : List Byte) (w : Work) : Answered :=
  if w.st.exch.service = .service then
    let s := w.st
    { work := stopService w, result := .ok, answer := stopAnswer s.flowsInUse s.drill.running s.hold.active }
  else { work := w, result := .ok, answer := stopAnswer 0 false false }

/-- STOP_SERVICE (R179). -/
def execStopService (s : State) : Host.Outcome State Fault Refusal :=
  .next (takeKind Kind.stopService orderStopService s)

/-! ## SET EXCHANGE (R180) -/

def orderSetExchange (ps : List Byte) (w : Work) : Answered :=
  let n := clamp 1 250 (param ps 0 2)
  let w := w.onExch fun e =>
    { e with interval := n, sweepDue := if e.interval = n then e.sweepDue else later w.now n }
  { work := w.touch .header, result := okOrClamped (decide (n ≠ param ps 0 2)),
    answer := fun s => pack [(2, s.exch.interval)] }

/-- SET_EXCHANGE (R180). -/
def execSetExchange (s : State) : Host.Outcome State Fault Refusal :=
  .next (takeKind Kind.setExchange orderSetExchange s)

/-! ## SET EVENT EDGES (R185) -/

def edgesAnswer (s : State) : List Byte := pack [(2, s.ev.rising.toNat), (2, s.ev.falling.toNat), (2, s.ev.cond.toNat)]

def orderSetEventEdges (ps : List Byte) (w : Work) : Answered :=
  { work := w.onEv fun e =>
      { e with rising := BitVec.ofNat 16 (param ps 0 2), falling := BitVec.ofNat 16 (param ps 2 2) },
    result := .ok, answer := edgesAnswer }

/-- SET_EVENT_EDGES (R185). -/
def execSetEventEdges (s : State) : Host.Outcome State Fault Refusal :=
  .next (takeKind Kind.setEventEdges orderSetEventEdges s)

end Sys2Proof.Machine
end

