-- ==== Sys2Proof/Machine/SupplyOrders.lean ====
section
/-! DEFINITION. The supply monitor: SUPPLY_LINE_CHANGE (R150), DEBOUNCE_EXPIRY (R151, R152), SET SUPPLY (R154). -/

namespace Sys2Proof.Machine

/-! ## Level changes (R150, R151) -/

/-- A level change taken by the debounce: the timer starts from 0 toward a new level, or stops (R151). -/
def LineRec.levelChanged (now : Time) (l : LineRec) : LineRec :=
  { l with due := if l.normal = l.debounced then none else some (later now Config.debounceMs) }

/-- A change of polarity or electrical level, taken as a level change where the normalized level changes (R150). -/
def LineRec.changed (now : Time) (f : LineRec → LineRec) (l : LineRec) : LineRec :=
  if (f l).normal = l.normal then f l else (f l).levelChanged now

def setLineLevel (line : SupplyLine) (high : Bool) (now : Time) (m : SupplyMonitor) : SupplyMonitor :=
  m.setLine line ((m.line line).changed now fun l => { l with high := high })

/-- SUPPLY_LINE_CHANGE: during INIT the lines are not watched and only the pin's level is held (R150, R153). -/
def execSupplyLineChange (line : SupplyLine) (high : Bool) (s : State) : Host.Outcome State Fault Refusal :=
  .next (if s.exch.service = .init then
      { s with sup := s.sup.setLine line { s.sup.line line with high := high } }
    else event (fun w => w.onSup (setLineLevel line high w.now)) s)

/-! ## Debounced changes (R151, R152) -/

/-- The supply state of the debounced levels (R152). -/
def SupplyMonitor.stateNow (m : SupplyMonitor) : Supply :=
  supplyOf m.mainsOk.debounced m.battLow.debounced m.battCrit.debounced

/-- A new supply state with its effects, in the order of R152. -/
def changeSupply (n : Supply) (w : Work) : Work :=
  let w := w.onSup fun m => { m with state := n, since := w.now }
  let w := (latch Bit.supplyChange (handConditions w)).touch .supply
  recomputeTarget (compareLinger (passes w.owePass))

/-- The debounce timer of a line expires (R151, R152). -/
def debounce (line : SupplyLine) (w : Work) : Work :=
  let w := w.onSup fun m => m.setLine line (m.line line).settled
  let n := w.st.sup.stateNow
  if n = w.st.sup.state then w else changeSupply n w

/-- DEBOUNCE_EXPIRY (R151). -/
def execDebounceExpiry (line : SupplyLine) (s : State) : Host.Outcome State Fault Refusal :=
  .next (if expired s.now (s.sup.line line).due then event (debounce line) s else s)

/-! ## SET SUPPLY (R154) -/

/-- A line takes a polarity (R150, R154). -/
def LineRec.setPolarity (now : Time) (low : Bool) (l : LineRec) : LineRec :=
  l.changed now fun l => { l with low := low }

def SupplyMonitor.configure (a b c : Bool) (now : Time) (m : SupplyMonitor) : SupplyMonitor :=
  { m with
    mainsOk := m.mainsOk.setPolarity now a, battLow := m.battLow.setPolarity now b,
    battCrit := m.battCrit.setPolarity now c }

def supplyAnswer (s : State) : List Byte :=
  let m := s.sup
  pack [(1, m.mainsOk.low.toNat), (1, m.battLow.low.toNat), (1, m.battCrit.low.toNat),
        (1, flagBits [m.mainsOk.normal, m.battLow.normal, m.battCrit.normal]),
        (1, flagBits [m.mainsOk.debounced, m.battLow.debounced, m.battCrit.debounced]), (1, m.state.code)]

def orderSetSupply (ps : List Byte) (w : Work) : Answered :=
  match flagOf (param ps 0 1), flagOf (param ps 1 1), flagOf (param ps 2 1) with
  | some a, some b, some c =>
    { work := w.onSup (SupplyMonitor.configure a b c w.now), result := .ok, answer := supplyAnswer }
  | _, _, _ => refuse .badValue w

/-- SET_SUPPLY (R154). -/
def execSetSupply (s : State) : Host.Outcome State Fault Refusal := .next (takeKind Kind.setSupply orderSetSupply s)

end Sys2Proof.Machine
end

