-- ==== Sys2Proof/Machine/Dispatch.lean ====
section
/-! DEFINITION. What each command does to everything but the queue: one arm per constructor of Instr, each one call of its meaning. -/

namespace Sys2Proof.Machine

def exec (i : Instr) (s : State) : Host.Outcome State Fault Refusal :=
  match i with
  | .powerOn => Sys2Proof.Machine.execPowerOn s
  | .resetPinAssert => Sys2Proof.Machine.execResetPinAssert s
  | .resetPinRelease => Sys2Proof.Machine.execResetPinRelease s
  | .softReset => Sys2Proof.Machine.execSoftReset s
  | .initEnd => Sys2Proof.Machine.execInitEnd s
  | .interruptEnableWrite enable => Sys2Proof.Machine.execInterruptEnableWrite enable s
  | .nudge value => Sys2Proof.Machine.execNudge value s
  | .eventsRead width => Sys2Proof.Machine.execEventsRead width s
  | .eventEnableWrite width value => Sys2Proof.Machine.execEventEnableWrite width value s
  | .registerWrite offset width value => Sys2Proof.Machine.execRegisterWrite offset width value s
  | .exchangeMemoryWrite offset width value => Sys2Proof.Machine.execExchangeMemoryWrite offset width value s
  | .sweepTimerExpiry => Sys2Proof.Machine.execSweepTimerExpiry s
  | .slotPassedOver => Sys2Proof.Machine.execSlotPassedOver s
  | .sweepEnd => Sys2Proof.Machine.execSweepEnd s
  | .unknownOrderKind => Sys2Proof.Machine.execUnknownOrderKind s
  | .setGenerator => Sys2Proof.Machine.execSetGenerator s
  | .setProbing => Sys2Proof.Machine.execSetProbing s
  | .setTemplate => Sys2Proof.Machine.execSetTemplate s
  | .setScoring => Sys2Proof.Machine.execSetScoring s
  | .setDamping => Sys2Proof.Machine.execSetDamping s
  | .clearCause => Sys2Proof.Machine.execClearCause s
  | .setRadio => Sys2Proof.Machine.execSetRadio s
  | .setModemLines => Sys2Proof.Machine.execSetModemLines s
  | .releaseRadio => Sys2Proof.Machine.execReleaseRadio s
  | .setClass => Sys2Proof.Machine.execSetClass s
  | .setSteering => Sys2Proof.Machine.execSetSteering s
  | .holdPath => Sys2Proof.Machine.execHoldPath s
  | .releaseHold => Sys2Proof.Machine.execReleaseHold s
  | .openFlow => Sys2Proof.Machine.execOpenFlow s
  | .closeFlow => Sys2Proof.Machine.execCloseFlow s
  | .setAllowance => Sys2Proof.Machine.execSetAllowance s
  | .newPeriod => Sys2Proof.Machine.execNewPeriod s
  | .setSupply => Sys2Proof.Machine.execSetSupply s
  | .runDrill => Sys2Proof.Machine.execRunDrill s
  | .cancelDrill => Sys2Proof.Machine.execCancelDrill s
  | .setEventEdges => Sys2Proof.Machine.execSetEventEdges s
  | .startService => Sys2Proof.Machine.execStartService s
  | .stopService => Sys2Proof.Machine.execStopService s
  | .setExchange => Sys2Proof.Machine.execSetExchange s
  | .generatorTick g => Sys2Proof.Machine.execGeneratorTick g s
  | .probeExpiry p seq => Sys2Proof.Machine.execProbeExpiry p seq s
  | .inboundFrame p bytes => Sys2Proof.Machine.execInboundFrame p bytes s
  | .fibreLinkChange up => Sys2Proof.Machine.execFibreLinkChange up s
  | .losChange active => Sys2Proof.Machine.execLosChange active s
  | .fibreSettleExpiry => Sys2Proof.Machine.execFibreSettleExpiry s
  | .decayTick p => Sys2Proof.Machine.execDecayTick p s
  | .okAnswer => Sys2Proof.Machine.execOkAnswer s
  | .refusedAnswer reason => Sys2Proof.Machine.execRefusedAnswer reason s
  | .signalAnswer grade => Sys2Proof.Machine.execSignalAnswer grade s
  | .sessionClosed => Sys2Proof.Machine.execSessionClosed s
  | .detached => Sys2Proof.Machine.execDetached s
  | .signalIndication grade => Sys2Proof.Machine.execSignalIndication grade s
  | .linkFrameDiscarded bytes => Sys2Proof.Machine.execLinkFrameDiscarded bytes s
  | .linkInterbyteTimeout bytes => Sys2Proof.Machine.execLinkInterbyteTimeout bytes s
  | .answerTimeout => Sys2Proof.Machine.execAnswerTimeout s
  | .readyChange high => Sys2Proof.Machine.execReadyChange high s
  | .poweringTimeout => Sys2Proof.Machine.execPoweringTimeout s
  | .stoppingTimeout => Sys2Proof.Machine.execStoppingTimeout s
  | .backoffExpiry => Sys2Proof.Machine.execBackoffExpiry s
  | .pulseEnd line => Sys2Proof.Machine.execPulseEnd line s
  | .pollTimerExpiry => Sys2Proof.Machine.execPollTimerExpiry s
  | .lingerExpiry => Sys2Proof.Machine.execLingerExpiry s
  | .returnDelayDue => Sys2Proof.Machine.execReturnDelayDue s
  | .holdExpiry => Sys2Proof.Machine.execHoldExpiry s
  | .flowIdleExpiry flow => Sys2Proof.Machine.execFlowIdleExpiry flow s
  | .idleGapReturn flow => Sys2Proof.Machine.execIdleGapReturn flow s
  | .longIdleMark flow => Sys2Proof.Machine.execLongIdleMark flow s
  | .outboundFrame bytes => Sys2Proof.Machine.execOutboundFrame bytes s
  | .transmitHandoff p => Sys2Proof.Machine.execTransmitHandoff p s
  | .holdAgeExpiry => Sys2Proof.Machine.execHoldAgeExpiry s
  | .receiveQueueDelivery linkUp => Sys2Proof.Machine.execReceiveQueueDelivery linkUp s
  | .supplyLineChange line high => Sys2Proof.Machine.execSupplyLineChange line high s
  | .debounceExpiry line => Sys2Proof.Machine.execDebounceExpiry line s
  | .drillLimitExpiry => Sys2Proof.Machine.execDrillLimitExpiry s

end Sys2Proof.Machine
end

