-- ==== Sys2Proof/Safety.lean ====
section
/-! DEFINITION. The words the statements are written in: the parts of the state that a steering pass and the end of an
event leave as they are, the answer to an order, and the properties that every step keeps. -/

namespace Sys2Proof.Machine

/-! ## Each block without what other blocks' events can change -/

/-- A path's settings: its record with everything else blanked. -/
def PathRec.settings (r : PathRec) : PathRec :=
  { r with
    ticks := 0, seq := 0, probes := [], window := [], sent := 0, unmatched := 0, s := 0, replied := false, score := 0,
    measured := false, decayDue := 0, penalty := 0, state := .down, failCount := 0, usableSince := 0,
    usableFlag := false, cause := CauseRecord.zero }

/-- A path's settings with its counts of probes and its decay timer. -/
def PathRec.lasting (r : PathRec) : PathRec :=
  { r.settings with seq := r.seq, sent := r.sent, unmatched := r.unmatched, decayDue := r.decayDue }

/-- The radio unit's settings and input level. -/
def RadioUnit.settings (r : RadioUnit) : RadioUnit :=
  { RadioUnit.initial r.readyHigh with
    standby := r.standby, linger := r.linger, attachTimeout := r.attachTimeout, poll := r.poll, lines := r.lines }

/-- The radio unit's settings, failure counts, reports and receiver. -/
def RadioUnit.lasting (r : RadioUnit) : RadioUnit :=
  { r.settings with
    b := r.b, attachTimeouts := r.attachTimeouts, resets := r.resets, discards := r.discards,
    refusalReason := r.refusalReason, refusalKind := r.refusalKind, grade := r.grade, gradeTime := r.gradeTime,
    sessionSince := r.sessionSince, rx := r.rx, rxTime := r.rxTime }

/-- A class's policy. -/
def ClassRec.policy (c : ClassRec) : ClassRec := { c with cur := .blocked, since := 0, dropped := 0, count := 0 }

/-- A flow record without its path, moves, pinning and bytes; FREE and EXPIRED are told apart from the live states,
which read WAITING here. -/
def FlowRec.identity (f : FlowRec) : FlowRec :=
  { FlowRec.freed 0 with
    state := if f.state.live then .waiting else f.state, cls := f.cls, opened := f.opened, lastFrame := f.lastFrame,
    idle := f.idle, longIdle := f.longIdle }

/-- The allowance meter's settings, boundaries and period. -/
def Allowance.settings (a : Allowance) : Allowance :=
  { a with used := 0, stage := .normal, peak := .normal, live := false, sticky := false }

def EventUnit.settings (e : EventUnit) : EventUnit := { e with cond := 0, latch := 0, irq := false }

def Steering.settings (t : Steering) : Steering :=
  { t with ret := .notArmed, retDue := 0, demand := false, urgent := false }

def Hold.settings (h : Hold) : Hold := { h with active := false, stop := 0, seen := false, reason := .none }

def Drill.settings (d : Drill) : Drill := { d with running := false, pass := false, last := DrillRecord.zero }

/-- The forwarding unit's inputs, output and receive queue. -/
def Forwarding.lasting (f : Forwarding) : Forwarding :=
  { Forwarding.initial with lanLink := f.lanLink, lanOut := f.lanOut, receive := f.receive }

/-! ## Frames -/

/-- The state without the update counts of the mirror records (R169). -/
def State.plain (s : State) : State :=
  { s with
    counts := State.reset.counts, classes := s.classes.map fun c => { c with count := 0 },
    flows := s.flows.map fun f => { f with count := 0 } }

/-- The state without update counts, condition bits, latch and IRQ line: all blocks but the event unit's outputs. -/
def State.quiet (s : State) : State := { s.plain with ev := s.ev.settings }

/-- The part of the state that steering passes, and what they hand on, never change (R87 to R90): everything but the
paths of classes and flows, the queues they send frames to, the radio unit and radio path as demand moves them, used
bytes and stage, ends of a hold or drill, condition bits, latch and IRQ. -/
def State.kept (s : State) : State :=
  { s with
    exch := { s.exch with flowChanges := 0 }, counts := State.reset.counts, radio := s.radio.lasting,
    ru := s.ru.lasting, steer := { s.steer with demand := false, urgent := false },
    classes := s.classes.map ClassRec.policy, hold := s.hold.settings, flows := s.flows.map FlowRec.identity,
    fwd := s.fwd.lasting, allow := s.allow.settings, drill := s.drill.settings, ev := s.ev.settings }

/-- What an event of the modem or the radio unit's timers leaves as well as its passes do: `kept`, but for the radio
unit's own counts, reports and receiver, and the grade state. -/
def State.keptByModem (s : State) : State := { s.kept with ru := s.ru.settings, grade := GradeState.start }

/-- What an event of the paths or an order to them leaves: `kept`, but for the states, windows, penalties and causes of
both paths, the grade state, the return delay, and fibre's availability. -/
def State.keptByPaths (s : State) : State :=
  { s.kept with
    fibre := s.fibre.lasting, grade := GradeState.start, steer := s.steer.settings, fin := { s.fin with available := false, settleDue := none } }

/-- What an event of the probe engine leaves: `keptByPaths`, but for the counts and decay timers of both paths. -/
def State.keptByProbes (s : State) : State :=
  { s.keptByPaths with fibre := s.fibre.settings, radio := s.radio.settings }

/-- A path settled (R15): probes, window and smoothed RTT cleared, tick and fail counts 0. -/
def PathRec.settled (r : PathRec) : PathRec :=
  { r with probes := [], window := [], s := 0, replied := false, ticks := 0, failCount := 0 }

/-- The state with one path's record replaced; where the path is settled, its probes no longer wait at the port (R7). -/
def State.withPath (s : State) (p : Path) (r : PathRec) (settles : Bool) : State :=
  let t := s.onPath p fun _ => r
  if settles then { t with fwd := t.fwd.setQueue p { t.fwd.queue p with probes := [] } } else t

/-- The state with every change of a fact written to the condition set, its edge events latched under the masks, and the
IRQ line recomputed (R183, R184, R189). -/
def State.handed (s : State) : State := refreshIrq (handConditions (Work.begin s)).st

/-! ## The cause record (R45, R47) -/

/-- The offered cause is written: the record holds none, or lock-first is off and the offered cause is more significant,
which is the lower number (first and third row of R47). -/
def CauseRecord.offerWrites (c : CauseRecord) (lockFirst : Bool) (offered : Cause) : Prop :=
  c.valid = false ∨ (lockFirst = false ∧ ∀ held, c.cause = some held → offered.code < held.code)

/-- The record after an offer with its snapshot, by the four rows of R47. -/
def CauseRecord.afterOffer (c : CauseRecord) (lockFirst : Bool) (offered : Cause) (snap : Snapshot) : CauseRecord :=
  let more := match c.cause with | none => true | some held => decide (offered.code < held.code)
  if c.valid = false then { valid := true, cause := some offered, repeated := false, falls := 1, snap := snap }
  else if lockFirst = false ∧ more = true then
    { c with cause := some offered, snap := snap, falls := min (c.falls + 1) 255 }
  else { c with repeated := true, falls := min (c.falls + 1) 255 }

/-! ## Path state changes (R15, R17, R31, R32, R35, R36, R39) -/

/-- The record of a path that goes to this state; where it is in it already, nothing changes. The fail count becomes 0,
but for a move between UP and WEAK; from a state that is not usable to a usable one the usable-since time becomes now,
and it stays otherwise; its bit says whether the state is usable (R35, R36). -/
def PathRec.movesTo (now : Time) (n : PathState) (r : PathRec) : PathRec :=
  let was := r.state = .up ∨ r.state = .weak
  let is := n = .up ∨ n = .weak
  if r.state = n then r
  else { r with
    state := n, failCount := if was ∧ is then r.failCount else 0,
    usableSince := if ¬was ∧ is then now else r.usableSince, usableFlag := decide is }

/-- The record of a path after a physical loss: settled and DOWN; from UP or WEAK the penalty is 1,000 higher, at most
8,000, and PHYSICAL is offered, with the snapshot from before the settling and with the penalty after the increase. A
path that is DOWN stays as it is (R15, R31, R39, R45, R47). -/
def PathRec.lostIn (s : State) (p : Path) (r : PathRec) : PathRec :=
  let gone := r.settled.movesTo s.now .down
  let penalty := min 8000 (r.penalty + 1000)
  if r.state = .down then r
  else if r.state = .up ∨ r.state = .weak then { gone with
    penalty := penalty,
    cause := r.cause.afterOffer r.lockFirst .physical {
      time := s.now, before := some r.state,
      h := if r.linkOnly = true ∨ s.exch.service ≠ .service then 1000 else r.score,
      n := r.window.length, l := (r.window.filter fun x => x.rtt.isNone).length, s := r.s,
      grade := (match p with | .fibre => 0 | .radio => s.grade.scoring),
      gradeValid := (match p with | .fibre => false | .radio => s.grade.valid), penalty := penalty } }
  else gone

/-- The record of a path after a physical availability: out of DOWN, in CONFIG to UP, in SERVICE to SUPPRESSED where
damping is on and the penalty at the suppress threshold, otherwise to UP where it is link-only and to PROVING where it
is not (R32). -/
def PathRec.availableIn (s : State) (r : PathRec) : PathRec :=
  if r.state ≠ .down then r
  else r.movesTo s.now (
    if s.exch.service ≠ .service then .up
    else if r.damping = true ∧ r.suppress ≤ r.penalty then .suppressed
    else if r.linkOnly = true then .up else .proving)

/-! ## Results and evaluations (R11, R13, R23 to R27, R33, R34, R46) -/

/-- The record of a path after an evaluation: measured, with its score; PROVING goes UP at the up threshold; UP and WEAK
count a failure below the fail threshold, and fall at the limit, with a penalty of 500, the dominant cause offered and
the snapshot after it; otherwise they go by their thresholds. -/
def PathRec.evaluatedIn (s : State) (p : Path) (r : PathRec) : PathRec :=
  let n := r.window.length
  let l := (r.window.filter fun x => x.rtt.isNone).length
  let pl := l * 600 / n
  let pt := if r.replied = false then 300 else if r.s ≤ r.floor then 0 else if r.ceiling ≤ r.s then 300
    else 300 * (r.s - r.floor) / (r.ceiling - r.floor)
  let pg := match p with
    | .fibre => 0
    | .radio => if 20 ≤ s.grade.scoring then 0 else (20 - s.grade.scoring) * 10
  let h := 1000 - (pl + pt + pg)
  let scored := { r with score := h, measured := true }
  let usable := r.state = .up ∨ r.state = .weak
  let penalty := min 8000 (r.penalty + 500)
  let offered := if pt ≤ pl ∧ pg ≤ pl then Cause.loss else if pg ≤ pt then .latency else .signal
  if r.state = .proving then (if r.upT ≤ h then scored.movesTo s.now .up else scored)
  else if usable ∧ h < r.failT ∧ r.failLimit ≤ r.failCount + 1 then
    { scored.movesTo s.now (if r.damping = true ∧ r.suppress ≤ penalty then .suppressed else .proving) with
      penalty := penalty,
      cause := r.cause.afterOffer r.lockFirst offered {
        time := s.now, before := some r.state, h := h, n := n, l := l, s := r.s,
        grade := (match p with | .fibre => 0 | .radio => s.grade.scoring),
        gradeValid := (match p with | .fibre => false | .radio => s.grade.valid), penalty := penalty } }
  else if usable ∧ h < r.failT then { scored with failCount := r.failCount + 1 }.movesTo s.now .weak
  else if usable then
    { scored with failCount := 0 }.movesTo s.now (if r.upT ≤ h then .up else if h < r.weakT then .weak else r.state)
  else scored

/-- The record of a path after one result: it joins the window of at most 16, an RTT is smoothed into S, and a scoring
path with eight results or more is evaluated. -/
def PathRec.afterResult (s : State) (p : Path) (x : Result) (r : PathRec) : PathRec :=
  let all := r.window ++ [x]
  let entered := { r with
    window := all.drop (all.length - 16),
    s := (match x.rtt with | none => r.s | some rtt => if r.replied then (7 * r.s + rtt + 4) / 8 else rtt),
    replied := r.replied || x.rtt.isSome }
  if s.exch.service = .service ∧ r.linkOnly = false ∧ r.state ≠ .down ∧ 8 ≤ entered.window.length then
    entered.evaluatedIn s p
  else entered

/-- The records a path goes through as results enter one at a time, each taken whole before the next (R11). -/
def PathRec.through (s : State) (p : Path) : List Result → PathRec → List PathRec
  | [], _ => []
  | x :: xs, r => r.afterResult s p x :: (r.afterResult s p x).through s p xs

/-- The result of a resolved entry (R11). -/
def Probe.result (e : Probe) : Option Result :=
  match e.res with
  | .unresolved => none
  | .replied rtt => some { seq := e.seq, rtt := some rtt }
  | .lost => some { seq := e.seq, rtt := none }

/-- The results of the resolved entries at the front of a list (R11). -/
def resultsOf (es : List Probe) : List Result := (es.takeWhile fun e => e.result.isSome).filterMap Probe.result

/-- A list from its first unresolved entry on (R11). -/
def unresolvedOn (es : List Probe) : List Probe := es.dropWhile fun e => e.result.isSome

/-! ## What a path's state changes hand on (R38, R83, R91, R95, R158) -/

/-- The return delay after fibre has gone from one state to another: PASSED or ARMED, with its due time, where fibre
becomes usable, NOT_ARMED where it stops being usable (R83; that the due time then stays is the model's reading, log
31). -/
def Steering.sees (now : Time) (was is : PathState) (t : Steering) : Steering :=
  let usable := fun (n : PathState) => n = .up ∨ n = .weak
  if ¬usable was ∧ usable is then
    (if t.delay = 0 then { t with ret := .passed }
     else { t with ret := .armed, retDue := now + BitVec.ofNat 32 (t.delay * 1000) })
  else if usable was ∧ ¬usable is then { t with ret := .notArmed }
  else t

/-- The hold after a path has gone from one state to another: a RADIO hold sees radio usable; a hold of the path that
stops being usable breaks, a RADIO hold only where it has seen it usable (R91, R93, R95). -/
def Hold.sees (now : Time) (p : Path) (was is : PathState) (h : Hold) : Hold :=
  let usable := fun (n : PathState) => n = .up ∨ n = .weak
  if h.active = false ∨ h.path ≠ some p ∨ was = is then h
  else if p = .radio ∧ usable is then { h with seen := true }
  else if usable was ∧ ¬usable is ∧ (p = .fibre ∨ h.seen = true) then
    { h with active := false, stop := now, reason := .broken }
  else h

/-- The drill unit after a drill that runs in this state has ended (R155, R161). -/
def State.drillEnded (s : State) (o : DrillOutcome) (c : DrillCause) : Drill :=
  { s.drill with
    running := false, pass := decide (o = .pass),
    last := {
      valid := true, outcome := some o, cause := some c, start := s.drill.start, limit := s.drill.limit,
      duration := s.now - s.drill.start, radio := some s.ru.state, path := some s.radio.state,
      score := if s.radio.linkOnly = true ∨ s.exch.service ≠ .service then 1000 else s.radio.score,
      measured := s.radio.measured, pathCause := s.radio.cause.cause, causeValid := s.radio.cause.valid,
      attaches := s.ru.attaches - s.drill.attaches } }

/-- The session that was open before an event is left in it. -/
def State.closes (s t : State) : Prop := s.ru.state = .session ∧ t.ru.state ≠ .session

/-- An event in which a path goes through these records, the last of which is its own; where the session closes in the
event, the radio path then takes the physical loss. The other path keeps its record. The return delay and a hold follow
the states in their order, a drill that runs passes where the radio path becomes UP, and the fixed events latch
(R31, R38, R47, R83, R95, R158). -/
def State.pathGoes (s t : State) (p : Path) (xs : List PathRec) : Prop :=
  let old := s.path p
  let last := xs.getLastD old
  let radio := match p with | .fibre => s.radio | .radio => last
  let delay := (xs.foldl (fun a x => (a.1.sees s.now a.2 x.state, x.state)) (s.steer, old.state)).1
  let held := (xs.foldl (fun a x => (a.1.sees s.now p a.2 x.state, x.state)) (s.hold, old.state)).1
  t.fibre = (match p with | .fibre => last | .radio => s.fibre)
    ∧ (s.closes t → t.radio = radio.lostIn s .radio ∧ t.hold = held.sees s.now .radio radio.state .down)
    ∧ (¬s.closes t → t.radio = radio ∧ t.hold = held)
    ∧ (p = .fibre → t.steer.ret = delay.ret ∧ t.steer.retDue = delay.retDue)
    ∧ (p = .radio → t.steer.ret = s.steer.ret ∧ t.steer.retDue = s.steer.retDue)
    ∧ t.grade = s.grade
    ∧ ((∃ x ∈ xs, x.state ≠ old.state) → t.ev.latch.getLsbD (match p with | .fibre => 1 | .radio => 2) = true)
    ∧ (¬(8 ≤ old.window.length ↔ 8 ≤ last.window.length) → t.ev.latch.getLsbD 15 = true)
    ∧ (last.cause.valid ≠ old.cause.valid ∨ last.cause.cause ≠ old.cause.cause → t.ev.latch.getLsbD 12 = true)
    ∧ (s.hold.active = true → t.hold.active = false → t.ev.latch.getLsbD 10 = true)
    ∧ (p = .radio → s.drill.running = true → old.state ≠ .up → ∀ before x after, xs = before ++ x :: after →
        (∀ y ∈ before, y.state ≠ .up) → x.state = .up →
        t.drill = { s with radio := x }.drillEnded .pass .radioUp ∧ t.ev.latch.getLsbD 11 = true)

/-- An event in which SESSION is left: the radio path takes the physical loss, a RADIO hold that has seen it usable
breaks, the grade state stays, the frames queued for radio are flushed and counted, probes at the port with them where
the path was not DOWN, and the fixed events latch (R31, R38, R47, R61, R95, R125). -/
def State.leavesSession (s t : State) : Prop :=
  let q := s.fwd.radioQ
  t.radio = s.radio.lostIn s .radio ∧ t.grade = s.grade
    ∧ t.hold = s.hold.sees s.now .radio s.radio.state .down
    ∧ t.fwd.radioQ.urgent = [] ∧ t.fwd.radioQ.normal = []
    ∧ t.fwd.counts.radioFlush = min (s.fwd.counts.radioFlush + q.urgent.length + q.normal.length) 4294967295
    ∧ t.ev.latch.getLsbD 8 = true
    ∧ (s.radio.state ≠ .down → t.fwd.radioQ.probes = [] ∧ t.ev.latch.getLsbD 2 = true)
    ∧ (s.radio.state ≠ .down → 8 ≤ s.radio.window.length → t.ev.latch.getLsbD 15 = true)
    ∧ ((s.radio.state = .up ∨ s.radio.state = .weak) → s.radio.cause.offerWrites s.radio.lockFirst .physical →
        t.ev.latch.getLsbD 12 = true)
    ∧ (s.hold.active = true → t.hold.active = false → t.ev.latch.getLsbD 10 = true)

/-! ## Where a steering pass leaves classes and flows (R81, R82, R84 to R86, R106) -/

/-- Policy or supply state keeps the class from radio, whatever the stage (R81, R82). -/
def State.keepsFromRadio (s : State) (c : ClassRec) : Prop :=
  c.use = .never ∨
    (c.tier ≠ 0 ∧ ((s.sup.state ≠ .mains ∧ c.permit = false) ∨ s.sup.state = .critical
      ∨ (s.sup.state = .batteryLow ∧ 2 ≤ c.tier) ∨ (s.sup.state = .battery ∧ 3 ≤ c.tier)))

/-- What a steering pass has settled for classes and flows, whatever the radio unit did after it: classes outside
SERVICE, under a FIBRE hold, kept from radio by policy or supply state, or, where no hold was active in the pass
(`free`), on a fibre path that fits with the return delay passed; and the flows of classes whose return is IMMEDIATE,
which are on the path of their class. -/
def State.steered (s : State) (free : Prop) : Prop :=
  (∀ c ∈ s.classes,
    let last := if s.fibre.state = .up ∨ s.fibre.state = .weak then ClassPath.fibre else .blocked
    let fibreHold := s.hold.active = true ∧ s.hold.path = some .fibre
    (s.exch.service ≠ .service → c.cur = last)
      ∧ (s.exch.service = .service → fibreHold → c.cur = .fibre)
      ∧ (s.exch.service = .service → ¬fibreHold → s.keepsFromRadio c → c.cur = last)
      ∧ (s.exch.service = .service → free → s.steer.ret = .passed →
          (s.fibre.state = .up ∨ (s.fibre.state = .weak ∧ c.use ≠ .failoverWeak)) → c.cur = .fibre))
  ∧ ∀ f ∈ s.flows, f.state.live = true → f.cls < s.classes.length → (s.cls f.cls).atIdle = false →
      f.pinned = false ∧ f.state = (match (s.cls f.cls).cur with
        | .fibre => FlowState.carried .fibre | .radio => .carried .radio | .waiting => .waiting | .blocked => .blocked)

/-! ## Where the radio unit goes (R57 to R63, R68, R70, R73) -/

/-- The target once no linger runs (R73). -/
def State.targetWithout (s : State) : Target :=
  if s.exch.service ≠ .service then .off else if s.steer.demand then .session else s.cappedStandby

/-- A radio unit that entered IDLE with target OFF and the link free: STOPPING with its 30 s timer, or OFF where READY is
inactive, and nothing asked of the modem (R59, R63). -/
def State.stopsModem (s t : State) : Prop :=
  t.ru.state = (if s.ru.ready then RadioState.stopping else .off)
    ∧ t.ru.stateDue = (if s.ru.ready then some (s.now + 30000) else none)
    ∧ t.ru.outstanding = none ∧ t.ru.attaches = s.ru.attaches ∧ t.radio = s.radio

/-- A change of normalized READY to this level moves the radio unit (R58, R63, R68, R70). -/
def State.readyMoves (s : State) (active : Bool) : Bool :=
  match s.ru.state, active with
  | .powering, true => true
  | .idle, false | .attaching, false | .attached, false | .opening, false | .session, false | .closing, false
  | .detaching, false | .backoff, false | .resync, false => true
  | .stopping, false => s.ru.stateDue.isSome
  | _, _ => false

/-- Where a change of normalized READY to this level takes a radio unit that it moves. Active: from POWERING to IDLE,
which acts on target and link. Inactive: to POWERING with its 30 s timer, from SESSION with the effects of leaving it;
from STOPPING and RESYNC to OFF, which acts on the target. A request outstanding becomes stale. -/
def State.movedByReady (s : State) (active : Bool) (t : State) : Prop :=
  let stale := s.ru.outstanding.map fun o => { o with stale := true }
  let goesTo := fun (n : RadioState) (due : Option Time) =>
    t.ru.state = n ∧ t.ru.stateDue = due ∧ t.ru.outstanding = stale ∧ t.ru.attaches = s.ru.attaches
  let timer := some (s.now + 30000)
  (s.ru.state ≠ .session → t.radio = s.radio)
    ∧ (s.ru.state = .powering → active = true →
        (s.ru.target = .off → goesTo .stopping timer)
        ∧ (s.ru.target ≠ .off → s.ru.outstanding ≠ none → goesTo .idle none)
        ∧ (s.ru.target ≠ .off → s.ru.outstanding = none →
            t.ru.state = .attaching ∧ t.ru.attaches = s.ru.attaches + 1
            ∧ t.ru.outstanding = some { kind := .attach, stale := false,
                                        due := s.now + BitVec.ofNat 32 (s.ru.attachTimeout * 1000) }))
    ∧ (active = false → s.ru.state ≠ .stopping → s.ru.state ≠ .resync → goesTo .powering timer)
    ∧ (active = false → (s.ru.state = .stopping ∨ s.ru.state = .resync) →
        (s.ru.target = .off → goesTo .off none) ∧ (s.ru.target ≠ .off → goesTo .powering timer))
    ∧ (s.ru.state = .session → s.leavesSession t)

/-- The state that a radio unit which waits for the link goes to, with the request of that state, once the link is free
(R57, R59, R60, R61). -/
def RadioUnit.sends (r : RadioUnit) : Option RadioState :=
  match r.state, r.target with
  | .idle, .attached | .idle, .session => some .attaching
  | .attached, .session => some .opening
  | .attached, .off => some .detaching
  | .session, .attached | .session, .off => some .closing
  | _, _ => none

/-- Where a radio unit that enters IDLE goes: with target OFF to STOPPING, or to OFF where READY is inactive; otherwise
to ATTACHING where the link is free, and where a request, now stale, holds it, it waits in IDLE (R57, R59, R63). -/
def State.entersIdle (s t : State) : Prop :=
  let stale := s.ru.outstanding.map fun o => { o with stale := true }
  t.radio = s.radio
    ∧ (s.ru.target = .off →
        t.ru.state = (if s.ru.ready then RadioState.stopping else .off)
        ∧ t.ru.stateDue = (if s.ru.ready then some (s.now + 30000) else none)
        ∧ t.ru.outstanding = stale ∧ t.ru.attaches = s.ru.attaches)
    ∧ (s.ru.target ≠ .off → s.ru.outstanding ≠ none →
        t.ru.state = .idle ∧ t.ru.stateDue = none ∧ t.ru.outstanding = stale ∧ t.ru.attaches = s.ru.attaches)
    ∧ (s.ru.target ≠ .off → s.ru.outstanding = none →
        t.ru.state = .attaching ∧ t.ru.stateDue = none ∧ t.ru.attaches = s.ru.attaches + 1
        ∧ t.ru.outstanding = some { kind := .attach, stale := false,
                                    due := s.now + BitVec.ofNat 32 (s.ru.attachTimeout * 1000) })

/-! ## The link freed (R53, R54, R56, R57, R71) -/

/-- The radio unit without its target and linger, which passes move. -/
def RadioUnit.unaimed (r : RadioUnit) : RadioUnit := { r with target := .off, lingerOn := false, lingerStart := 0 }

/-- The radio unit that goes to ATTACHING, OPENING, CLOSING or DETACHING and sends that state's request: its frame, its
answer timer, an ATTACH counted; pulses that wait are dropped, and but for OPENING the poll timer stops and a query that
waits is dropped (R53, R56, R59 to R62, R71). -/
def RadioUnit.asking (now : Time) (n : RadioState) (r : RadioUnit) : RadioUnit :=
  let request : Request × Byte × Nat := match n with
    | .attaching => (.attach, 1, r.attachTimeout)
    | .opening => (.openSession, 3, 30)
    | .closing => (.closeSession, 4, 15)
    | _ => (.detach, 2, 15)
  { r with
    state := n, stateDue := none,
    outstanding := some { kind := request.1, stale := false, due := now + BitVec.ofNat 32 (request.2.2 * 1000) },
    attaches := if n = .attaching then r.attaches + 1 else r.attaches,
    pwr := { r.pwr with waiting := false }, mrst := { r.mrst with waiting := false },
    pollDue := if n = .opening then r.pollDue else none, queryPending := decide (n = .opening) && r.queryPending,
    tx := [0x7E, request.2.1, 0, 0 - request.2.1] }

/-- The radio unit that sends the SIGNAL QUERY that has waited (R56, R71). -/
def RadioUnit.querying (now : Time) (r : RadioUnit) : RadioUnit :=
  { r with
    queryPending := false, tx := [0x7E, 0x05, 0x00, 0xFB],
    outstanding := some { kind := .signalQuery, stale := false, due := now + 5000 } }

/-- What a radio unit does in the event in which the link is freed in this state: the request that its state waits to
send goes first, and otherwise a SIGNAL QUERY that waits; with neither, the unit is as it was unless a pass moves it
(R57, R71). -/
def State.linkServed (u t : State) : Prop :=
  (∀ n, u.ru.sends = some n → t.ru.unaimed = (u.ru.asking u.now n).unaimed)
    ∧ (u.ru.sends = none → u.ru.queryPending = true →
        (u.ru.state = .attached ∨ u.ru.state = .opening ∨ u.ru.state = .session) →
        t.ru.unaimed = (u.ru.querying u.now).unaimed)
    ∧ (u.ru.sends = none → u.ru.queryPending = false → t.ru.state = u.ru.state → t.ru.unaimed = u.ru.unaimed)

/-- An event that frees the link in this state and does nothing else of its own: with CLOSE SESSION the session is left;
with any other request, a query or neither, nothing but the radio unit changes (R57, R61, R71). -/
def State.linkFreed (u t : State) : Prop :=
  let rests := u.ru.sends = none ∧ u.ru.state ≠ .idle ∧ (u.ru.state = .off → u.ru.target = .off)
  let polls := u.ru.state = .attached ∨ u.ru.state = .opening ∨ u.ru.state = .session
  u.linkServed t ∧ t.keptByModem = u.keptByModem
    ∧ (u.ru.sends = some .closing → u.leavesSession t)
    ∧ (∀ n, u.ru.sends = some n → n ≠ .closing → t.plain = { u with ru := u.ru.asking u.now n }.plain)
    ∧ (rests → polls → u.ru.queryPending = true → t.plain = { u with ru := u.ru.querying u.now }.plain)
    ∧ (rests → u.ru.queryPending = false → t.plain = u.plain)

/-! ## The allowance meter, and an addition that changes its stage (R136 to R142) -/

/-- The allowance meter's fields agree (R138 to R142): settings in their ranges, boundaries from the settings, stage and
live overrun from used bytes, the peak at or above the stage, sticky overrun with live overrun. -/
def Allowance.sound (a : Allowance) : Prop :=
  50 ≤ a.conserve ∧ a.conserve < a.reserve ∧ a.reserve ≤ 99 ∧ a.overhead ≤ 64
    ∧ a.bc = a.kib * 1024 * a.conserve / 100 ∧ a.br = a.kib * 1024 * a.reserve / 100 ∧ a.bx = a.kib * 1024
    ∧ a.used ≤ max64 ∧ a.stage = a.stageNow ∧ a.live = a.liveNow ∧ a.stage.rank ≤ a.peak.rank
    ∧ (a.live = true → a.sticky = true)

/-- What an addition of these counted bytes makes of a state where it changes the stage: used bytes, stage and peak, the
overrun flags, STAGE_CHANGE, OVERRUN where live overrun begins, and the steering pass. The pass can hand held frames to
a radio port that is free, which counts them too. Where it closes the session, the radio path takes the physical loss,
and a RADIO hold that has seen it usable breaks; otherwise path and hold stay. -/
def State.restages (s : State) (n : Nat) (t : State) : Prop :=
  let used := min (s.allow.used + n) 18446744073709551615
  let now := { s.allow with used := used }.stageNow
  let overrun := s.allow.kib ≠ 0 ∧ s.allow.bx ≤ used
  t.kept = s.kept
    ∧ (s.fwd.held = [] ∨ s.fwd.radioQ.sending ≠ none → t.allow = { s.allow with
        used := used, stage := now, peak := if s.allow.peak.rank < now.rank then now else s.allow.peak,
        live := decide overrun, sticky := s.allow.sticky || decide overrun })
    ∧ used ≤ t.allow.used ∧ t.allow.sound
    ∧ t.ev.latch.getLsbD 5 = true ∧ (overrun → s.allow.live = false → t.ev.latch.getLsbD 6 = true)
    ∧ (s.closes t → t.radio = s.radio.lostIn s .radio ∧ t.hold = s.hold.sees s.now .radio s.radio.state .down)
    ∧ (¬s.closes t → t.radio = s.radio ∧ t.hold = s.hold)
    ∧ t.steered (s.hold.active = false)

/-- What an inbound radio probe that a pending entry awaits makes of a state where its counting changes the stage: the
addition comes first, with its pass, and the probe is taken in the state it leaves. Where that pass closes the session
the path is settled, and the probe matches nothing (R9, R31, R132, R141). -/
def State.restagesThen (s : State) (n : Nat) (taken : State → State → Prop) (t : State) : Prop :=
  (s.radio.state ≠ .down ∧ s.closes t
      ∧ { s with radio := { s.radio with unmatched := min (s.radio.unmatched + 1) 4294967295 } }.restages n t)
    ∨ ∃ v : State, s.restages n v ∧ (s.closes v → s.radio.state = .down) ∧ t.keptByPaths = s.keptByPaths ∧ taken v t

/-! ## The control link receiver (R54, R55) -/

/-- The kinds of the modem's messages, each with the payload length that the tables give it (section 3.2, section
11.10). -/
def linkTable : List (Byte × Nat) := [(0x81, 0), (0x82, 1), (0x83, 1), (0xC1, 0), (0xC2, 0), (0xC3, 1)]

/-- The bytes of a frame behind its start byte: kind, length, payload and check byte (R54). -/
def linkBytes (kind : Byte) (payload : List Byte) (check : Byte) : List Byte :=
  kind :: BitVec.ofNat 8 payload.length :: (payload ++ [check])

/-- A frame that is discarded: its kind is none of the table's, or its length differs from the table's, or its check byte
is wrong, the sum of kind, length, payload and check byte not 0 (R54, R55). -/
def linkBad (kind : Byte) (payload : List Byte) (check : Byte) : Prop :=
  (kind, payload.length) ∉ linkTable ∨ (linkBytes kind payload check).foldl (· + ·) 0 ≠ 0

/-- The bytes behind a start byte are those of a frame still under way: kind or length missing, or fewer bytes behind
them than the payload and the check byte (R55). -/
def linkUnfinished (part : List Byte) : Prop :=
  ∀ (kind len : Byte) (rest : List Byte), part = kind :: len :: rest → rest.length ≤ len.toNat

/-! ## Frames that leave a transmit queue (R123) -/

/-- The frame that leaves a queue first, and what the queue then holds: probes, then the urgent band, then the normal
band. -/
def TxQueue.gives (q : TxQueue) (f : TxFrame) (rest : TxQueue) : Prop :=
  (∃ fs, q.probes = f :: fs ∧ rest = { q with probes := fs })
    ∨ (∃ fs, q.probes = [] ∧ q.urgent = f :: fs ∧ rest = { q with urgent := fs })
    ∨ (∃ fs, q.probes = [] ∧ q.urgent = [] ∧ q.normal = f :: fs ∧ rest = { q with normal := fs })

/-- What the handoff of a frame that leaves `rest` behind makes of a state: the port sends it; a radio frame is counted
to used bytes and to its flow, and where that changes the stage, the change has its effects (R114, R123, R136, R140). -/
def State.handsOff (s : State) (p : Path) (f : TxFrame) (rest : TxQueue) (t : State) : Prop :=
  let sent := { s with fwd := s.fwd.setQueue p { rest with sending := some f.data } }
  let n := f.data.length + s.allow.overhead
  let used := min (s.allow.used + n) 18446744073709551615
  let now := { s.allow with used := used }.stageNow
  (p = .fibre → t.plain = sent.plain)
    ∧ (p = .radio → now = s.allow.stage → t.plain = { sent with
        allow := { s.allow with used := used },
        flows := match f.flow with
          | none => s.flows
          | some i => s.flows.set i
            (if 4294967295 < (s.flow i).bytes + n then { (s.flow i) with bytes := 4294967295, saturated := true }
             else { (s.flow i) with bytes := (s.flow i).bytes + n }) }.plain)
    ∧ (p = .radio → now ≠ s.allow.stage → sent.restages n t ∧ t.fwd.radioQ.sending = some f.data
        ∧ (∀ i < s.flows.length, f.flow = some i → (t.flow i).bytes = min ((s.flow i).bytes + n) 4294967295))

/-! ## Records as the bus reads them (R190, R191) -/

/-- The bytes from an address on show a value of this size, low byte first. -/
def State.shows (s : State) (a size val : Nat) : Prop :=
  ∀ k < size, exchangeByte s (a + k) = BitVec.ofNat 8 (val / 256 ^ k)

/-- The record of `len` bytes at an address shows these fields, each given by its offset, size and value, and 0 in
every byte that none of them has. -/
def State.showsRecord (s : State) (base len : Nat) (fields : List (Nat × Nat × Nat)) : Prop :=
  (∀ f ∈ fields, s.shows (base + f.1) f.2.1 f.2.2)
    ∧ ∀ a < len, (∀ f ∈ fields, ¬(f.1 ≤ a ∧ a < f.1 + f.2.1)) → exchangeByte s (base + a) = 0

/-! ## Orders (R173, R174) -/

/-- Outside INIT a sweep is in progress, its next collected slot is READY and holds this kind. -/
def State.offersKind (s : State) (kind i : Nat) (rest : List Nat) : Prop :=
  s.exch.sweep = some (i :: rest) ∧ s.exch.service ≠ .init ∧ slotState s.mem i = Slot.ready ∧ slotKind s.mem i = kind

/-- The state with a slot answered: result, answer, DONE, the slot passed, its ticket the last taken (R174). -/
def State.answered (s : State) (i : Nat) (rest : List Nat) (r : ResultCode) (answer : List Byte) : State :=
  { s with
    mem := slotAnswer s.mem i r answer,
    exch := { s.exch with
              sweep := some rest, sweepDone := true, lastTicket := BitVec.ofNat 16 (slotTicket s.mem i) } }

/-! ## Properties of states -/

/-- The condition bits are the facts (R183). -/
def State.condTrue (s : State) : Prop := s.ev.cond = s.facts

/-- The IRQ line is at its level (R189). -/
def State.irqTrue (s : State) : Prop := s.ev.irq = irqLevel s.exch.intEnable s.ev.latch s.ev.enable

/-- Outside INIT, with condition bits and IRQ line as R183 and R189 say. -/
def State.current (s : State) : Prop := s.exch.service ≠ .init ∧ s.condTrue ∧ s.irqTrue

/-- Eight classes and 128 flow records (R79, R99). -/
def State.tables (s : State) : Prop := s.classes.length = 8 ∧ s.flows.length = 128

/-- Every drop count of the forwarding unit within its 32 bits (R135). -/
def ForwardCounts.inRange (c : ForwardCounts) : Prop :=
  c.outMalformed ≤ max32 ∧ c.fibreDrop ≤ max32 ∧ c.radioDrop ≤ max32 ∧ c.fibreFlush ≤ max32 ∧ c.radioFlush ≤ max32
    ∧ c.holdFull ≤ max32 ∧ c.holdAge ≤ max32 ∧ c.holdDiscard ≤ max32 ∧ c.fibreIn ≤ max32 ∧ c.radioIn ≤ max32
    ∧ c.receiveDrop ≤ max32

/-- Every store of the forwarding unit within its capacity, and its counts within theirs (R122, R127, R133, R135). -/
def Forwarding.bounded (f : Forwarding) : Prop :=
  f.fibreQ.urgent.length ≤ 32 ∧ f.fibreQ.normal.length ≤ 32 ∧ f.radioQ.urgent.length ≤ 32
    ∧ f.radioQ.normal.length ≤ 32 ∧ f.held.length ≤ 32 ∧ f.receive.length ≤ 64 ∧ f.counts.inRange

/-- A path's pending list, window, fail count and fail limit, flap penalty and usable bit as R6, R13, R34, R35, R39 and
R38 bound them. -/
def PathRec.sound (r : PathRec) : Prop :=
  r.probes.length ≤ 4 ∧ r.window.length ≤ 16 ∧ r.failCount ≤ 16 ∧ r.failLimit ≤ 16 ∧ r.penalty ≤ 8000
    ∧ r.usableFlag = r.state.usable

/-- The radio unit's counts within their ranges (R59, R64, R65). -/
def RadioUnit.inRange (r : RadioUnit) : Prop := r.attachTimeouts ≤ 3 ∧ r.resets ≤ 3 ∧ r.b ≤ 640

/-- No FREE or EXPIRED flow record is pinned (R99, R104, R110). -/
def State.pinsLive (s : State) : Prop := ∀ f ∈ s.flows, f.pinned = true → f.state.live = true

/-- A pinned flow record is OPEN on RADIO (R107, R108). -/
def State.pinsOnRadio (s : State) : Prop := ∀ f ∈ s.flows, f.pinned = true → f.state = .carried .radio

/-- A FIBRE hold is active only while fibre is usable (R85, R92, R95). -/
def State.fibreHoldCarried (s : State) : Prop :=
  s.hold.active = true → s.hold.path = some .fibre → s.fibre.state = .up ∨ s.fibre.state = .weak

/-- Every frame of the hold buffer is bound to a class or flow that is WAITING (R121, R129, R130). -/
def State.heldFramesWait (s : State) : Prop := ∀ h ∈ s.fwd.held, s.bindingPath h = .waiting

/-- The radio unit's target is the one its inputs give (R73). -/
def State.onTarget (s : State) : Prop := s.ru.target = s.targetNow

/-- Outside SERVICE no drill runs, no hold is active and no flow record is in use (R92, R99, R155, R179). -/
def State.quietOutsideService (s : State) : Prop :=
  s.exch.service ≠ .service →
    s.drill.running = false ∧ s.hold.active = false ∧ ∀ f ∈ s.flows, f.state = .free

/-- Every store, window, penalty and count of the state within its range. -/
def State.withinBounds (s : State) : Prop :=
  s.tables ∧ s.fwd.bounded ∧ s.fibre.sound ∧ s.radio.sound ∧ s.ru.inRange

end Sys2Proof.Machine
end

