-- ==== Sys2Proof/Certificates/Slice0/Obligations.lean ====
section
/-! DEFINITION. The statements for the provers: what a step is, what each command of the CH-410 does where it does its
own work, what it leaves alone, and what every step keeps. -/

open Sys2Proof Sys2Proof.Machine

/-! ## Steps, resets and the end of INIT -/

/-- A step takes the command at the front of the queue and runs exec on it with the rest of the queue waiting. -/
def Obligations.StepTakesFront : Prop :=
  ∀ (c : Instr) (rest : List Instr) (s : State),
    step { s with pending := c :: rest } = exec c { s with pending := rest }

/-- The model's own choice (log 1, log 2, log 6, log 36): with no command waiting, a step outside INIT moves device time
by 0.01 ms and queues exactly the commands that are due then, in some order; where the radio unit is in RESYNC with
nothing outstanding, as INIT_END leaves it with READY active, the step is instead the sending of CLOSE SESSION, which
takes no time (log 13) and is answered within 15 s. In INIT a step counts towards the bound of R177, unless the RESET
pin is held, and queues the end of INIT when the bound is reached. Nothing else changes. Due are: the next event of a
sweep in progress, and the command of every timer that runs and has come to its expiry. -/
def Obligations.EmptyQueueTicks : Prop :=
  (∀ s : State, s.pending = [] →
    (s.exch.service ≠ .init → ¬(s.ru.state = .resync ∧ s.ru.outstanding = none) →
      ∃ q, step s = .next { s with clk := s.clk.tick, pending := q, free := s.free + q.length }
        ∧ q.Perm (dueCommands { s with clk := s.clk.tick }))
    ∧ (s.current → s.ru.state = .resync → s.ru.outstanding = none → ∃ t, step s = .next t ∧
        t.plain = { s with ru := { s.ru with
          tx := [0x7E, 0x04, 0x00, 0xFC],
          outstanding := some { kind := .closeSession, stale := false, due := s.now + 15000 } } }.plain)
    ∧ (s.exch.service = .init → s.exch.resetHeld = true → step s = .next s)
    ∧ (s.exch.service = .init → s.exch.resetHeld = false →
        step s = .next { s with
          exch := { s.exch with initElapsed := s.exch.initElapsed + 1 },
          pending := if 200 ≤ s.exch.initElapsed + 1 then [.initEnd] else [] }))
  ∧
  (∀ (s : State) (c : Instr),
    let came := fun (t : Option Time) => ∃ d, t = some d ∧ reached s.now d = true
    let since := fun (t : Time) => (s.now - t).toNat
    let next := fun (state : Byte → Prop) (order : Option Instr → Prop) =>
      ∃ i rest, s.exch.sweep = some (i :: rest) ∧ state (slotState s.mem i) ∧ order (kindOrder (slotKind s.mem i))
    c ∈ dueCommands s ↔
      match c with
      | .sweepTimerExpiry => reached s.now s.exch.sweepDue = true
      | .sweepEnd => s.exch.sweep = some []
      | .slotPassedOver => next (fun b => b ≠ 1) (fun _ => True)
      | .unknownOrderKind => next (fun b => b = 1) (fun o => o = none)
      | .generatorTick g => reached s.now (s.gens.get g).due = true
      | .probeExpiry p seq =>
        ∃ e ∈ (s.path p).probes, e.seq = seq ∧ e.res = .unresolved ∧ reachedFine s.clk e.expiry e.sentSub = true
      | .fibreSettleExpiry => came s.fin.settleDue
      | .decayTick p => reached s.now (s.path p).decayDue = true
      | .answerTimeout => ∃ o, s.ru.outstanding = some o ∧ reached s.now o.due = true
      | .poweringTimeout => s.ru.state = .powering ∧ came s.ru.stateDue
      | .stoppingTimeout => s.ru.state = .stopping ∧ came s.ru.stateDue
      | .backoffExpiry => s.ru.state = .backoff ∧ came s.ru.stateDue
      | .pulseEnd .pwr => came s.ru.pwr.ends
      | .pulseEnd .mrst => came s.ru.mrst.ends
      | .pollTimerExpiry => came s.ru.pollDue
      | .lingerExpiry => s.ru.lingerOn = true ∧ s.effectiveLinger * 1000 ≤ since s.ru.lingerStart
      | .linkInterbyteTimeout bytes => bytes = [] ∧ s.ru.rx ≠ [] ∧ 50 < since s.ru.rxTime
      | .returnDelayDue => s.steer.ret = .armed ∧ reached s.now s.steer.retDue = true
      | .holdExpiry => s.hold.active = true ∧ reached s.now s.hold.stop = true
      | .flowIdleExpiry i => (s.flow i).state.live = true ∧ (s.flow i).idle ≠ 0
          ∧ (s.flow i).idle * 1000 ≤ since (s.flow i).lastFrame
      | .idleGapReturn i => (s.flow i).state ≠ .free ∧ (s.flow i).pinned = true
          ∧ (s.cls (s.flow i).cls).gap * 1000 ≤ since (s.flow i).lastFrame
      | .longIdleMark i => (s.flow i).state ≠ .free ∧ (s.flow i).longIdle = false
          ∧ 600000 ≤ since (s.flow i).lastFrame
      | .holdAgeExpiry => ∃ h ∈ s.fwd.held, s.steer.holdAge ≤ since h.arrival
      | .debounceExpiry line => came (s.sup.line line).due
      | .drillLimitExpiry => s.drill.running = true ∧ s.drill.limit * 1000 ≤ since s.drill.start
      | order => next (fun b => b = 1) (fun o => o = some order))

/-- Every command runs: no state and no operands make one fault or be refused. -/
def Obligations.EveryCommandRuns : Prop :=
  ∀ (c : Instr) (s : State), ∃ t, exec c s = .next t

/-- The machine right after power-on, field by field of every block: clock, exchange port, memory and update counts,
generators, both paths with their cause records, fibre's inputs, the grade state, the radio unit with its lines, pulses
and receiver, the steering unit with return delay and demand, the eight classes, the hold, the flow table, the
forwarding unit, the allowance meter with its summary, the supply monitor, the drill unit with its record, and the event
unit with its condition set. The values are the power-on status the manual gives; where it gives none, the model's own:
input levels (log 5), the measure of INIT (log 6), supply lines, supply state and condition set during INIT (log 7), the
LAN link's level (log 14), the time of the last byte received (log 16), outputs and the return delay's due time before
their first use (log 19), the counter of free values (log 20), due times (log 34) and device time (log 35). -/
def Obligations.PowerOnStatus : Prop :=
  let path := fun (assign : Assignment) (timeout floor ceiling : Nat) =>
    ({ assign := assign, d := 2, timeout := timeout, template := [], ticks := 0, seq := 0, probes := [], window := [],
       sent := 0, unmatched := 0, s := 0, replied := false, score := 0, measured := false, floor := floor,
       ceiling := ceiling, upT := 700, weakT := 550, failT := 250, failLimit := 3, lockFirst := false, damping := true,
       suppress := 3000, reuse := 1500, td := 15, decayDue := 0, penalty := 0, state := .down, failCount := 0,
       usableSince := 0, usableFlag := false,
       cause := { valid := false, cause := none, repeated := false, falls := 0,
                  snap := { time := 0, before := none, h := 0, n := 0, l := 0, s := 0, grade := 0, gradeValid := false,
                            penalty := 0 } } } : PathRec)
  let cls := fun (tier : Nat) (atIdle : Bool) =>
    ({ use := .failover, tier := tier, atIdle := atIdle, permit := true, gap := 30, cur := .blocked, since := 0,
       dropped := 0, count := 0 } : ClassRec)
  let queue : TxQueue := { urgent := [], normal := [], probes := [], sending := none }
  let pulse : Pulse := { ends := none, waiting := false }
  let line := fun (debounced : Bool) => ({ low := false, high := false, debounced := debounced, due := none } : LineRec)
  State.reset.clk = { ms := 0, sub := 0 }
    ∧ State.reset.exch = {
        service := .init, resetHeld := false, warm := false, initElapsed := 0, intEnable := false, interval := 20,
        sweepDue := 0, sweep := none, sweepDone := false, nudgePending := false, lastTicket := 65535, sweepCount := 0,
        flowChanges := 0, readData := 0 }
    ∧ State.reset.mem = []
    ∧ State.reset.counts = { header := 0, fibre := 0, radio := 0, allowance := 0, radioUnit := 0, supply := 0, hold := 0,
                             forwarding := 0 }
    ∧ State.reset.gens = { a := { n := 39, due := 0 }, b := { n := 199, due := 0 } }
    ∧ State.reset.fibre = path .genA 1000 100 1000 ∧ State.reset.radio = path .genB 3000 400 3000
    ∧ State.reset.fin = { link := false, los := false, available := false, settleDue := none }
    ∧ State.reset.grade = { last := none, unknown := 0, scoring := 10, valid := false }
    ∧ State.reset.ru = {
        state := .resync, target := .off, standby := .cold, linger := 300, attachTimeout := 120, poll := 10,
        lingerOn := false, lingerStart := 0, outstanding := none, stateDue := none, b := 10, attachTimeouts := 0,
        resets := 0, attaches := 0, discards := 0, refusalReason := 0, refusalKind := none, grade := none,
        gradeTime := 0, sessionSince := 0, pollDue := none, queryPending := false,
        lines := { level := false, pwrLow := false, mrstLow := false, readyLow := false, pwrWidth := 1000,
                   mrstWidth := 500 },
        pwr := pulse, mrst := pulse, readyHigh := false, rx := [], rxTime := 0, tx := [] }
    ∧ State.reset.steer = { delay := 60, holdAge := 2000, defaultClass := 7, ret := .notArmed, retDue := 0,
                            demand := false, urgent := false }
    ∧ State.reset.classes
        = [cls 0 false, cls 1 true, cls 2 false, cls 2 false, cls 2 false, cls 2 false, cls 2 false, cls 3 false]
    ∧ State.reset.hold = { active := false, path := none, start := 0, stop := 0, duration := 0, seen := false,
                           reason := .none }
    ∧ State.reset.flows = List.replicate 128 {
        state := .free, cls := 0, pinned := false, last := none, moves := 0, opened := 0, lastFrame := 0, idle := 0,
        bytes := 0, saturated := false, longIdle := false, count := 0 }
    ∧ State.reset.fwd = {
        fibreQ := queue, radioQ := queue, held := [], receive := [], lanLink := false, lanOut := none,
        counts := { outMalformed := 0, untracked := 0, fibreDrop := 0, radioDrop := 0, fibreFlush := 0, radioFlush := 0,
                    holdFull := 0, holdAge := 0, holdDiscard := 0, fibreIn := 0, radioIn := 0, receiveDrop := 0 } }
    ∧ State.reset.allow = {
        kib := 0, conserve := 80, reserve := 95, hardCap := false, overhead := 0, bc := 0, br := 0, bx := 0, used := 0,
        stage := .normal, peak := .normal, live := false, sticky := false, start := 0, warmResets := 0,
        summary := { valid := false, used := 0, peak := .normal, sticky := false, start := 0, stop := 0,
                     warmResets := 0 } }
    ∧ State.reset.sup = { mainsOk := line true, battLow := line false, battCrit := line false, state := .mains,
                          since := 0 }
    ∧ State.reset.drill = {
        running := false, start := 0, limit := 0, attaches := 0, pass := false,
        last := { valid := false, outcome := none, cause := none, start := 0, limit := 0, duration := 0, radio := none,
                  path := none, score := 0, measured := false, pathCause := none, causeValid := false, attaches := 0 } }
    ∧ State.reset.ev = { cond := 0, rising := 65535, falling := 0, latch := 0, enable := 0, irq := false }
    ∧ State.reset.pending = [] ∧ State.reset.free = 0

/-- POWER_ON begins INIT with every block at its power-on status; only the levels of the input lines, the RESET pin, the
commands that wait and the model's own counter stay. RESET_PIN_ASSERT, and SOFT_RESET outside INIT, leave what POWER_ON
leaves, but for the allowance state, which they keep; during INIT a soft reset is an ignored write. RESET_PIN_RELEASE
ends the hold of the pin and starts the bounded initialization; nothing else changes. The levels that stay, the pin and
the register during INIT, the release of a pin that is not held, and that live overrun and the period start time are
kept from a warm reset to the end of INIT are the model's choice (log 5, log 28, log 42, log 45). -/
def Obligations.ResetsEnterInit : Prop :=
  (∀ s : State, ∃ t, exec .powerOn s = .next t ∧
    t = { State.reset with
          exch := { State.reset.exch with resetHeld := s.exch.resetHeld },
          fin := { State.reset.fin with link := s.fin.link, los := s.fin.los },
          ru := { State.reset.ru with readyHigh := s.ru.readyHigh },
          fwd := { State.reset.fwd with lanLink := s.fwd.lanLink },
          sup := { State.reset.sup with
                   mainsOk := { State.reset.sup.mainsOk with high := s.sup.mainsOk.high },
                   battLow := { State.reset.sup.battLow with high := s.sup.battLow.high },
                   battCrit := { State.reset.sup.battCrit with high := s.sup.battCrit.high } },
          pending := s.pending, free := s.free })
  ∧
  (∀ s : State, ∃ u t v, exec .powerOn s = .next u ∧ exec .resetPinAssert s = .next t ∧ exec .softReset s = .next v
    ∧ t = { u with allow := s.allow, exch := { u.exch with warm := true, resetHeld := true } }
    ∧ (s.exch.service ≠ .init → v = { u with allow := s.allow, exch := { u.exch with warm := true } })
    ∧ (s.exch.service = .init → v = s))
  ∧
  (∀ s : State, ∃ t, exec .resetPinRelease s = .next t
    ∧ t = { s with exch := { s.exch with resetHeld := false, initElapsed := 0 } })

/-- INIT_END: device time 0, timers and generators started, memory zeroed, CONFIG, supply state from the lines, the
radio unit's way out of RESYNC, the kept allowance state completed after a warm reset, condition bits at their facts,
INIT_DONE the only event latched; the rest as INIT left it. It happens only in INIT with the RESET pin released. With
READY active the radio unit stays in RESYNC and sends nothing here, and it holds no request, since the reset has
forgotten them; that CLOSE SESSION is sent by the next step with no command waiting is the model's choice (log 36, log
13), and so is that the command changes nothing elsewhere (log 3, log 6). -/
def Obligations.InitEndEntersConfig : Prop :=
  (∀ s : State, (s.exch.service ≠ .init ∨ s.exch.resetHeld = true) → exec .initEnd s = .next s) ∧
  ∀ s : State, s.exch.service = .init → s.exch.resetHeld = false → ∃ t, exec .initEnd s = .next t
    ∧ t.clk = { ms := 0, sub := 0 } ∧ t.mem = []
    ∧ t.exch = { s.exch with service := .config, sweepDue := BitVec.ofNat 32 s.exch.interval }
    ∧ t.counts = { header := 0, fibre := 0, radio := 0, allowance := 0, radioUnit := 0, supply := 0, hold := 0,
                   forwarding := 0 }
    ∧ t.gens.a = { s.gens.a with due := BitVec.ofNat 32 (25 * (s.gens.a.n + 1)) }
    ∧ t.gens.b = { s.gens.b with due := BitVec.ofNat 32 (25 * (s.gens.b.n + 1)) }
    ∧ t.fibre = { s.fibre with decayDue := BitVec.ofNat 32 (s.fibre.td * 1000) }
    ∧ t.radio = { s.radio with decayDue := BitVec.ofNat 32 (s.radio.td * 1000) }
    ∧ t.fin = { s.fin with settleDue := if s.fin.link = true ∧ s.fin.los = false then some 1000 else none }
    ∧ (s.ru.ready = false → t.ru = { s.ru with state := .off })
    ∧ (s.ru.ready = true → t.ru = { s.ru with state := .resync })
    ∧ t.sup.mainsOk = { s.sup.mainsOk with debounced := s.sup.mainsOk.normal, due := none }
    ∧ t.sup.battLow = { s.sup.battLow with debounced := s.sup.battLow.normal, due := none }
    ∧ t.sup.battCrit = { s.sup.battCrit with debounced := s.sup.battCrit.normal, due := none }
    ∧ t.sup.since = 0
    ∧ t.sup.state = (if s.sup.mainsOk.normal = true then Supply.mains
        else if s.sup.battCrit.normal = true then .critical
        else if s.sup.battLow.normal = true then .batteryLow else .battery)
    ∧ (s.exch.warm = false → t.allow = s.allow)
    ∧ (s.exch.warm = true → t.allow = { s.allow with
        start := 0, warmResets := min (s.allow.warmResets + 1) 255, live := s.allow.liveNow })
    ∧ t.ev = { s.ev with cond := t.facts, latch := 1, irq := s.exch.intEnable && decide (s.ev.enable &&& 1 ≠ 0) }
    ∧ t.classes = (s.classes.map fun c => { c with count := 0 })
    ∧ t.flows = (s.flows.map fun f => { f with count := 0 })
    ∧ t.grade = s.grade ∧ t.steer = s.steer ∧ t.hold = s.hold ∧ t.fwd = s.fwd ∧ t.drill = s.drill
    ∧ t.pending = s.pending ∧ t.free = s.free

/-- During INIT every block stands still: a command that is not a reset, a pin, the end of INIT or a read of EVENTS
changes nothing. What the excepted commands hold in INIT is the model's choice (log 5). -/
def Obligations.InitStandsStill : Prop :=
  ∀ (c : Instr) (s : State), s.exch.service = .init →
    (match c with
      | .powerOn | .resetPinAssert | .resetPinRelease | .initEnd | .eventsRead _ | .fibreLinkChange _ | .losChange _
      | .readyChange _ | .supplyLineChange _ _ | .receiveQueueDelivery _ => False
      | _ => True) →
    exec c s = .next s

/-! ## Bus accesses and sweeps -/

/-- INTERRUPT_ENABLE_WRITE writes CONTROL bit 1, and the IRQ line follows in the same event; nothing else changes.
EVENT_ENABLE_WRITE of 32 bits outside INIT replaces the whole mask, and the IRQ line follows; a read then gives the mask
back; latch and condition set stay. Another width is ignored. -/
def Obligations.EnablesWritten : Prop :=
  (∀ (b : Bool) (s : State), s.current → ∃ t, exec (.interruptEnableWrite b) s = .next t ∧
    t.plain = { s with
      exch := { s.exch with intEnable := b },
      ev := { s.ev with irq := b && decide (s.ev.latch &&& s.ev.enable ≠ 0) } }.plain)
  ∧
  (∀ (width : Nat) (v : Word) (s : State),
    (width ≠ 4 → exec (.eventEnableWrite width v) s = .next s) ∧
    (s.current → ∃ t, exec (.eventEnableWrite 4 v) s = .next t ∧ registerRead t 0x10 4 = v ∧
      t.plain = { s with
        ev := { s.ev with enable := v, irq := s.exch.intEnable && decide (s.ev.latch &&& v ≠ 0) } }.plain))

/-- EVENTS_READ of 32 bits outside INIT returns the latch and clears exactly what it returned, and the IRQ line goes
inactive; a read of another width, or during INIT, returns 0 and clears nothing. A bit of the EVENTS latch, once set,
stays set through every command but a 32-bit read of EVENTS, a reset and the end of INIT. -/
def Obligations.EventsStayUntilRead : Prop :=
  (∀ (width : Nat) (s : State),
    (s.current → ∃ t, exec (.eventsRead 4) s = .next t ∧
      t.plain = { s with
        exch := { s.exch with readData := s.ev.latch }, ev := { s.ev with latch := 0, irq := false } }.plain) ∧
    (width ≠ 4 ∨ s.exch.service = .init →
      exec (.eventsRead width) s = .next { s with exch := { s.exch with readData := 0 } }))
  ∧
  (∀ (c : Instr) (s t : State) (k : Nat), exec c s = .next t → s.ev.latch.getLsbD k = true →
    (match c with
      | .powerOn | .resetPinAssert | .softReset | .initEnd | .eventsRead _ | .registerWrite _ _ _ => False
      | _ => True) →
    t.ev.latch.getLsbD k = true)

/-- REGISTER_WRITE of 32 bits at CONTROL, NUDGE and EVENT_ENABLE is the write of that register; every other offset and
width is ignored. EXCHANGE_MEMORY_WRITE of 1, 2, 4 or 8 aligned bytes in the order slots stores those bytes,
little-endian, and no other; anywhere else, misaligned, of another width or during INIT it is ignored. Reads: IDENT at
all times, the other registers outside INIT, as aligned words; aligned bytes of the exchange memory outside INIT,
little-endian, else zero. Its areas are the order slots' bytes and the mirror records, each with its update count first,
its fields at the offsets and with the codes of chapter 11, and zero in every other byte. The model's choices: that
REGISTER_WRITE has the registers' own behaviour (log 25), and in the radio record the code of the last refusal request
kind and the stale byte 0 with no request outstanding (log 40). Registers read at offsets that are not aligned read
zero, by the model's choice (log 44). -/
def Obligations.WindowsWrittenAndRead : Prop :=
  (∀ (off width : Nat) (v : BitVec 64) (s : State),
    ((width ≠ 4 ∨ (off ≠ 0x04 ∧ off ≠ 0x08 ∧ off ≠ 0x10)) → exec (.registerWrite off width v) s = .next s) ∧
    (∃ t, exec (.registerWrite 0x04 4 v) s = .next t ∧
      exec (if v.getLsbD 0 then .softReset else .interruptEnableWrite (v.getLsbD 1)) s = .next t) ∧
    (∃ t, exec (.registerWrite 0x08 4 v) s = .next t ∧ exec (.nudge (v.setWidth 32)) s = .next t) ∧
    (∃ t, exec (.registerWrite 0x10 4 v) s = .next t ∧ exec (.eventEnableWrite 4 (v.setWidth 32)) s = .next t))
  ∧
  (∀ (off width : Nat) (v : BitVec 64) (s : State),
    (Memory.wf s.mem = true → s.exch.service ≠ .init → (width = 1 ∨ width = 2 ∨ width = 4 ∨ width = 8) →
      off % width = 0 → 0x100 ≤ off → off < 0x900 →
      ∃ t, exec (.exchangeMemoryWrite off width v) s = .next t ∧ t = { s with mem := t.mem } ∧
        ∀ a : Nat, Memory.read t.mem a
          = (if off ≤ a ∧ a < off + width then BitVec.ofNat 8 (v.toNat / 256 ^ (a - off)) else Memory.read s.mem a)) ∧
    ((s.exch.service = .init ∨ ¬(width = 1 ∨ width = 2 ∨ width = 4 ∨ width = 8) ∨ off % width ≠ 0 ∨ off < 0x100
        ∨ 0x900 ≤ off) →
      exec (.exchangeMemoryWrite off width v) s = .next s))
  ∧
  (∀ (off width : Nat) (s : State),
    (width ≠ 4 → registerRead s off width = 0)
      ∧ registerRead s 0x00 4 = 0xC7A41001
      ∧ (s.exch.service = .init → off ≠ 0x00 → registerRead s off 4 = 0)
      ∧ (s.exch.service ≠ .init →
          registerRead s 0x04 4 = (if s.exch.intEnable then 2 else 0) ∧ registerRead s 0x0C 4 = s.ev.latch
          ∧ registerRead s 0x10 4 = s.ev.enable
          ∧ (off ≠ 0x00 → off ≠ 0x04 → off ≠ 0x0C → off ≠ 0x10 → registerRead s off 4 = 0))
      ∧ ((s.exch.service = .init ∨ ¬(width = 1 ∨ width = 2 ∨ width = 4 ∨ width = 8) ∨ off % width ≠ 0 ∨ 0x3000 ≤ off) →
          exchangeRead s off width = 0)
      ∧ (s.exch.service ≠ .init → (width = 1 ∨ width = 2 ∨ width = 4 ∨ width = 8) → off % width = 0 → off < 0x3000 →
          exchangeRead s off width < 256 ^ width ∧
          ∀ k < width, exchangeRead s off width / 256 ^ k % 256 = (exchangeByte s (off + k)).toNat))
  ∧
  (∀ s : State,
    (∀ a, 0x100 ≤ a → a < 0x900 → exchangeByte s a = Memory.read s.mem a)
      ∧ (∀ a, (0xE00 ≤ a ∧ a < 0x1000) ∨ 0x3000 ≤ a → exchangeByte s a = 0)
      ∧ s.showsRecord 0x0000 256 [(0, 2, s.counts.header.toNat), (2, 1, s.exch.service.code), (4, 2, s.ev.cond.toNat),
          (8, 4, s.exch.sweepCount.toNat), (12, 4, s.exch.flowChanges.toNat), (16, 2, s.exch.lastTicket.toNat),
          (18, 2, s.exch.interval)]
      ∧ (∀ p : Path, (s.path p).window.length ≤ 16 →
          let r := s.path p
          let g := match p with
            | .fibre => ({ last := none, unknown := 0, scoring := 0, valid := false } : GradeState)
            | .radio => s.grade
          let c := r.cause
          s.showsRecord (match p with | .fibre => 0x0900 | .radio => 0x0A00) 256
            ([(0, 2, (match p with | .fibre => s.counts.fibre | .radio => s.counts.radio).toNat),
              (2, 1, r.state.code),
              (3, 1, flagBits [r.linkOnly, decide (8 ≤ r.window.length), r.measured, r.replied, r.usableFlag, g.valid,
                match p with | .fibre => s.fin.available | .radio => false]),
              (4, 2, if r.linkOnly = true ∨ s.exch.service ≠ .service then 1000 else r.score), (6, 2, r.s),
              (8, 1, r.window.length), (9, 1, (r.window.filter fun x => x.rtt.isNone).length), (10, 1, r.failCount),
              (11, 1, r.probes.length), (12, 2, r.penalty), (14, 2, r.seq.toNat), (16, 4, r.usableSince.toNat),
              (20, 4, r.sent.toNat), (24, 4, r.unmatched), (28, 1, r.assign.code), (29, 1, r.d), (30, 2, r.timeout),
              (32, 2, match r.assign with
                | .none => 0 | .genA => 25 * (s.gens.a.n + 1) | .genB => 25 * (s.gens.b.n + 1)),
              (34, 1, r.template.length), (35, 1, g.scoring), (36, 1, g.unknown), (37, 1, r.lockFirst.toNat),
              (38, 1, r.failLimit), (39, 1, r.damping.toNat), (40, 2, r.floor), (42, 2, r.ceiling), (44, 2, r.upT),
              (46, 2, r.weakT), (48, 2, r.failT), (50, 2, r.suppress), (52, 2, r.reuse), (54, 1, r.td),
              (56, 1, c.valid.toNat), (57, 1, optCode Cause.code c.cause), (58, 1, c.repeated.toNat), (59, 1, c.falls),
              (60, 4, c.snap.time.toNat), (64, 1, optCode PathState.code c.snap.before), (65, 1, c.snap.grade),
              (66, 1, c.snap.gradeValid.toNat), (67, 1, c.snap.n), (68, 1, c.snap.l), (70, 2, c.snap.h),
              (72, 2, c.snap.s), (74, 2, c.snap.penalty)]
             ++ (List.range 16).flatMap fun j => match r.window[j]? with
                | some x => [(128 + 4 * j, 2, x.seq.toNat), (130 + 4 * j, 2, x.rtt.getD 0xFFFF)]
                | none => []))
      ∧ (∀ i < 8, let c := s.cls i
          s.showsRecord (0x0B00 + 32 * i) 32 [(0, 2, c.count.toNat), (2, 1, c.use.code), (3, 1, c.tier),
            (4, 1, c.atIdle.toNat), (5, 1, c.permit.toNat), (6, 2, c.gap), (8, 1, c.cur.code), (12, 4, c.since.toNat),
            (16, 4, c.dropped)])
      ∧ (∀ i < 128, let f := s.flow i
          s.showsRecord (0x1000 + 64 * i) 64 [(0, 2, f.count.toNat), (2, 1, f.state.code), (3, 1, f.cls),
            (4, 1, optPathCode f.state.path), (5, 1, f.pinned.toNat), (6, 1, optPathCode f.last),
            (7, 1, f.saturated.toNat), (8, 2, f.moves), (10, 2, f.idle), (12, 4, f.opened.toNat),
            (16, 4, f.lastFrame.toNat), (20, 4, f.bytes)])
      ∧ (let a := s.allow
         s.showsRecord 0x0C00 128 [(0, 2, s.counts.allowance.toNat), (2, 1, a.stage.code), (3, 1, a.peak.code),
            (4, 1, a.hardCap.toNat), (5, 1, a.conserve), (6, 1, a.reserve), (7, 1, a.overhead), (8, 4, a.kib),
            (12, 1, a.live.toNat), (13, 1, a.sticky.toNat), (14, 1, a.warmResets), (16, 8, a.used), (24, 8, a.bc),
            (32, 8, a.br), (40, 8, a.bx), (48, 4, a.start.toNat), (64, 1, a.summary.valid.toNat),
            (65, 1, a.summary.peak.code), (66, 1, a.summary.sticky.toNat), (67, 1, a.summary.warmResets),
            (68, 4, a.summary.start.toNat), (72, 4, a.summary.stop.toNat), (80, 8, a.summary.used)])
      ∧ (let r := s.ru
         s.showsRecord 0x0C80 128 [(0, 2, s.counts.radioUnit.toNat), (2, 1, r.state.code), (3, 1, r.target.code),
            (4, 1, r.standby.code), (5, 1, optCode (fun o => o.kind.code) r.outstanding),
            (6, 1, optCode (fun o => o.stale.toNat) r.outstanding), (7, 1, r.lingerOn.toNat), (8, 2, r.linger),
            (10, 2, match s.sup.state with | .critical => 0 | .batteryLow => min r.linger 60 | _ => r.linger),
            (12, 4, r.lingerStart.toNat), (16, 4, r.sessionSince.toNat), (20, 2, r.attachTimeout), (22, 1, r.poll),
            (23, 1, r.attachTimeouts), (24, 1, r.resets), (25, 1, r.refusalReason.toNat),
            (26, 1, optCode Request.code r.refusalKind), (27, 1, r.grade.getD 99), (28, 4, r.gradeTime.toNat),
            (32, 2, r.b), (34, 1, r.lines.level.toNat), (35, 1, r.lines.pwrLow.toNat), (36, 1, r.lines.mrstLow.toNat),
            (37, 1, r.lines.readyLow.toNat), (38, 1, flagBits [r.pwrActive, r.mrstActive, r.ready]),
            (40, 2, r.lines.pwrWidth), (42, 2, r.lines.mrstWidth), (44, 4, r.attaches.toNat), (48, 4, r.discards)])
      ∧ (let m := s.sup
         let d := s.drill
         let l := s.drill.last
         s.showsRecord 0x0D00 128 [(0, 2, s.counts.supply.toNat), (2, 1, m.state.code), (3, 1, m.mainsOk.low.toNat),
            (4, 1, m.battLow.low.toNat), (5, 1, m.battCrit.low.toNat),
            (6, 1, flagBits [m.mainsOk.high != m.mainsOk.low, m.battLow.high != m.battLow.low,
              m.battCrit.high != m.battCrit.low]),
            (7, 1, flagBits [m.mainsOk.debounced, m.battLow.debounced, m.battCrit.debounced]),
            (8, 1, flagBits [m.mainsOk.due.isSome, m.battLow.due.isSome, m.battCrit.due.isSome]),
            (9, 1, d.running.toNat), (10, 1, d.running.toNat), (11, 1, d.pass.toNat), (12, 4, m.since.toNat),
            (16, 4, d.start.toNat), (20, 2, d.limit), (24, 4, d.attaches.toNat), (32, 1, l.valid.toNat),
            (33, 1, optCode DrillOutcome.code l.outcome), (34, 1, optCode DrillCause.code l.cause),
            (35, 4, l.start.toNat), (39, 2, l.limit), (41, 4, l.duration.toNat),
            (45, 1, optCode RadioState.code l.radio), (46, 1, optCode PathState.code l.path), (47, 2, l.score),
            (49, 1, l.measured.toNat), (50, 1, optCode Cause.code l.pathCause), (51, 1, l.causeValid.toNat),
            (52, 4, l.attaches.toNat)])
      ∧ (let h := s.hold
         let t := s.steer
         s.showsRecord 0x0D80 64 [(0, 2, s.counts.hold.toNat), (2, 1, h.active.toNat), (3, 1, optPathCode h.path),
            (4, 1, h.reason.code), (5, 1, h.seen.toNat), (6, 2, h.duration), (8, 4, h.start.toNat),
            (12, 4, h.stop.toNat), (16, 2, t.delay), (18, 2, t.holdAge), (20, 1, t.defaultClass), (21, 1, t.ret.code),
            (22, 1, t.demand.toNat), (23, 1, t.urgent.toNat), (24, 4, t.retDue.toNat)])
      ∧ (let c := s.fwd.counts
         s.showsRecord 0x0DC0 64 [(0, 2, s.counts.forwarding.toNat), (2, 1, s.fwd.held.length), (4, 4, c.outMalformed),
            (8, 4, c.untracked.toNat), (12, 4, c.fibreDrop), (16, 4, c.radioDrop), (20, 4, c.fibreFlush),
            (24, 4, c.radioFlush), (28, 4, c.holdFull), (32, 4, c.holdAge), (36, 4, c.holdDiscard), (40, 4, c.fibreIn),
            (44, 4, c.radioIn), (48, 4, c.receiveDrop)]))
  ∧ pathCode .fibre = 1 ∧ pathCode .radio = 2 ∧ (∀ p, optPathCode (some p) = pathCode p) ∧ optPathCode none = 0
  ∧ [Assignment.none, .genA, .genB].map Assignment.code = [0, 1, 2]
  ∧ [Service.config, .service].map Service.code = [1, 2]
  ∧ [PathState.down, .proving, .up, .weak, .suppressed].map PathState.code = [1, 2, 3, 4, 5]
  ∧ [ClassPath.fibre, .radio, .waiting, .blocked].map ClassPath.code = [1, 2, 3, 4]
  ∧ [FlowState.free, .carried .fibre, .carried .radio, .waiting, .blocked, .expired].map
      (fun f => (f.code, optPathCode f.path)) = [(0, 0), (1, 1), (1, 2), (2, 0), (3, 0), (4, 0)]
  ∧ [RadioState.off, .powering, .idle, .attaching, .attached, .opening, .session, .closing, .detaching, .stopping,
      .backoff, .resetting, .fault, .resync].map RadioState.code = [1, 2, 3, 4, 5, 6, 7, 8, 9, 10, 11, 12, 13, 14]
  ∧ [Target.off, .attached, .session].map Target.code = [0, 1, 2]
  ∧ [Standby.cold, .warm, .hot].map Standby.code = [0, 1, 2]
  ∧ [RadioUse.never, .failover, .failoverWeak].map RadioUse.code = [0, 1, 2]
  ∧ [Stage.normal, .conserve, .reserve, .exhausted].map Stage.code = [0, 1, 2, 3]
  ∧ [Supply.mains, .battery, .batteryLow, .critical].map Supply.code = [0, 1, 2, 3]
  ∧ [Cause.physical, .loss, .latency, .signal].map Cause.code = [1, 2, 3, 4]
  ∧ [ReturnState.notArmed, .armed, .passed].map ReturnState.code = [0, 1, 2]
  ∧ [HoldEnd.none, .released, .expired, .broken, .stopped].map HoldEnd.code = [0, 1, 2, 3, 4]
  ∧ [DrillOutcome.pass, .fail, .aborted].map DrillOutcome.code = [1, 2, 3]
  ∧ [DrillCause.radioUp, .limit, .radioFault, .realUse, .cancelled, .stopped].map DrillCause.code = [1, 2, 3, 4, 5, 6]
  ∧ [Request.attach, .detach, .openSession, .closeSession, .signalQuery].map Request.code = [1, 2, 3, 4, 5]

/-- A sweep collects exactly the READY slots, each once, by (ticket − last-taken − 1) modulo 65,536 and then by index.
-/
def Obligations.CollectionOrder : Prop :=
  ∀ (m : Memory) (last : Half),
    let dist := fun i => (BitVec.ofNat 16 (slotTicket m i) - last - 1).toNat
    (∀ i, i ∈ collectSlots m last ↔ i < 16 ∧ slotState m i = 1)
      ∧ (collectSlots m last).Pairwise fun i j => dist i < dist j ∨ (dist i = dist j ∧ i < j)

/-- NUDGE and SWEEP_TIMER_EXPIRY begin a sweep with its collection where none is in progress; during one a nudge sets
nudge pending and the timer only keeps its phase; an expiry that is not due does nothing. SLOT_PASSED_OVER leaves a
collected slot that is no longer READY as it is and goes on to the next. SWEEP_END counts the sweep, latches ORDER_DONE
once if the sweep wrote DONE, and begins a further sweep where a nudge is pending. The expiry that is not due is the
model's choice (log 3). -/
def Obligations.SweepsRun : Prop :=
  (∀ (v : Word) (s : State), s.current →
    (∃ t, exec (.nudge v) s = .next t ∧
      t.plain = { s with exch :=
        match s.exch.sweep with
        | none => { s.exch with sweep := some (collectSlots s.mem s.exch.lastTicket), sweepDone := false }
        | some _ => { s.exch with nudgePending := true } }.plain) ∧
    (reached s.now s.exch.sweepDue = true → ∃ t, exec .sweepTimerExpiry s = .next t ∧
      t.plain = { s with exch :=
        match s.exch.sweep with
        | none => { s.exch with
            sweep := some (collectSlots s.mem s.exch.lastTicket), sweepDone := false,
            sweepDue := s.exch.sweepDue + BitVec.ofNat 32 s.exch.interval }
        | some _ => { s.exch with sweepDue := s.exch.sweepDue + BitVec.ofNat 32 s.exch.interval } }.plain) ∧
    (reached s.now s.exch.sweepDue = false → exec .sweepTimerExpiry s = .next s))
  ∧
  (∀ (i : Nat) (rest : List Nat) (s : State), s.current → s.exch.sweep = some (i :: rest) → slotState s.mem i ≠ 1 →
    ∃ t, exec .slotPassedOver s = .next t ∧ t.plain = { s with exch := { s.exch with sweep := some rest } }.plain)
  ∧
  (∀ s : State, s.current → s.exch.sweep = some [] → ∃ t, exec .sweepEnd s = .next t ∧
    t.plain = (refreshIrq { s with
      exch := { s.exch with
        sweep := if s.exch.nudgePending then some (collectSlots s.mem s.exch.lastTicket) else none,
        sweepDone := false, nudgePending := false, sweepCount := s.exch.sweepCount + 1 },
      ev := { s.ev with latch := if s.exch.sweepDone then s.ev.latch ||| 0x4000 else s.ev.latch } }).plain
    ∧ t.counts.header = s.counts.header + 2)

/-! ## Orders: how they are taken -/

/-- Every taking of an order writes DONE, the result and 24 answer bytes into its slot and no other byte of memory,
makes the slot's ticket the last taken, and goes on to the next collected slot. -/
def Obligations.TakingsAnswerTheirSlot : Prop :=
  ∀ (c : Instr) (kind i : Nat) (rest : List Nat) (s : State), kindOrder kind = some c → s.offersKind kind i rest →
    ∃ t r answer, exec c s = .next t ∧ t.mem = slotAnswer s.mem i r answer ∧ slotState t.mem i = 3
      ∧ (∀ a : Nat, a ≠ slotBase i → ¬(slotBase i + 4 ≤ a ∧ a < slotBase i + 6) →
          ¬(slotBase i + 104 ≤ a ∧ a < slotBase i + 128) → Memory.read t.mem a = Memory.read s.mem a)
      ∧ t.exch.sweep = some rest ∧ t.exch.sweepDone = true
      ∧ t.exch.lastTicket = BitVec.ofNat 16 (slotTicket s.mem i)

/-- The model's own choice (log 3, log 4): an order that is not the next collected slot's does not happen.
UNKNOWN_ORDER_KIND: a collected READY slot whose kind is no order's is answered BAD_KIND with zeros; nothing else
changes. -/
def Obligations.OnlyTheNextSlotsOrderRuns : Prop :=
  (∀ (c : Instr) (kind : Nat) (s : State), kindOrder kind = some c →
    (∀ (i : Nat) (rest : List Nat), ¬s.offersKind kind i rest) → exec c s = .next s)
  ∧
  (∀ (kind i : Nat) (rest : List Nat) (s : State), s.current → s.offersKind kind i rest →
    kind ∉ [0x10, 0x11, 0x12, 0x20, 0x21, 0x22, 0x30, 0x31, 0x32, 0x40, 0x41, 0x42, 0x43, 0x50, 0x51, 0x60, 0x61,
            0x70, 0x71, 0x72, 0x80, 0x90, 0x91, 0x92] →
    ∃ t, exec .unknownOrderKind s = .next t ∧ t.plain = (s.answered i rest .badKind []).plain)

/-- Values that the rules of the orders refuse are answered BAD_VALUE with zeros, and nothing else changes. -/
def Obligations.BadValuesRefused : Prop :=
  ∀ (i : Nat) (s : State), s.current →
    let ps := slotParams s.mem i
    let refused := fun (c : Instr) (kind : Nat) => ∀ rest, s.offersKind kind i rest →
      ∃ t, exec c s = .next t ∧ t.plain = (s.answered i rest .badValue []).plain
    let badPath := param ps 0 1 ≠ 1 ∧ param ps 0 1 ≠ 2
    (badPath → refused .setGenerator 0x10)
      ∧ (badPath ∨ 2 < param ps 1 1 → refused .setProbing 0x11)
      ∧ (badPath → refused .setTemplate 0x12)
      ∧ (badPath ∨ 1 < param ps 1 1
          ∨ min (param ps 4 2) 60000 ≤ min (param ps 2 2) 60000
          ∨ min (param ps 8 2) 1000 ≤ min (param ps 10 2) 1000
          ∨ min (param ps 6 2) 1000 ≤ min (param ps 8 2) 1000 → refused .setScoring 0x20)
      ∧ (badPath ∨ 1 < param ps 1 1 ∨ param ps 4 2 = 0 ∨ min (param ps 2 2) 8000 ≤ min (param ps 4 2) 8000 →
          refused .setDamping 0x21)
      ∧ (badPath → refused .clearCause 0x22)
      ∧ (2 < param ps 0 1 → refused .setRadio 0x30)
      ∧ (1 < param ps 0 1 ∨ 1 < param ps 1 1 ∨ 1 < param ps 2 1 ∨ 1 < param ps 3 1 → refused .setModemLines 0x31)
      ∧ (7 < param ps 0 1 ∨ 2 < param ps 1 1 ∨ 1 < param ps 3 1 ∨ 1 < param ps 4 1 → refused .setClass 0x40)
      ∧ (7 < param ps 4 1 → refused .setSteering 0x41)
      ∧ (badPath → refused .holdPath 0x42)
      ∧ (7 < param ps 0 1 → refused .openFlow 0x50)
      ∧ (1 < param ps 6 1 ∨ clamp 51 99 (param ps 5 1) ≤ clamp 50 98 (param ps 4 1) → refused .setAllowance 0x60)
      ∧ (1 < param ps 0 1 ∨ 1 < param ps 1 1 ∨ 1 < param ps 2 1 → refused .setSupply 0x70)

/-- Orders that the state refuses are answered with the result their rules name, and nothing else changes. -/
def Obligations.StatesRefuseOrders : Prop :=
  ∀ (i : Nat) (s : State), s.current →
    let ps := slotParams s.mem i
    let refused := fun (c : Instr) (kind : Nat) (r : ResultCode) => ∀ rest, s.offersKind kind i rest →
      ∃ t, exec c s = .next t ∧ t.plain = (s.answered i rest r []).plain
    (s.steer.demand = true → refused .releaseRadio 0x32 .inUse)
      ∧ (param ps 0 1 = 1 ∨ param ps 0 1 = 2 → s.exch.service ≠ .service → refused .holdPath 0x42 .wrongState)
      ∧ (param ps 0 1 = 1 ∨ param ps 0 1 = 2 → s.exch.service = .service → s.hold.active = true →
          refused .holdPath 0x42 .busy)
      ∧ (param ps 0 1 = 1 → s.exch.service = .service → s.hold.active = false → s.fibreUsable = false →
          refused .holdPath 0x42 .notUsable)
      ∧ (param ps 0 1 = 2 → s.exch.service = .service → s.hold.active = false → s.ru.state = .fault →
          refused .holdPath 0x42 .radioFault)
      ∧ (param ps 0 1 ≤ 7 → s.exch.service ≠ .service → refused .openFlow 0x50 .wrongState)
      ∧ (param ps 0 1 ≤ 7 → s.exch.service = .service → (∀ f ∈ s.flows, f.state ≠ .free) →
          refused .openFlow 0x50 .full)
      ∧ (127 < param ps 0 1 ∨ (s.flow (param ps 0 1)).state = .free → refused .closeFlow 0x51 .noSuch)
      ∧ (s.exch.service ≠ .service → refused .runDrill 0x71 .wrongState)
      ∧ (s.exch.service = .service → s.drill.running = true → refused .runDrill 0x71 .busy)
      ∧ (s.exch.service = .service → s.drill.running = false → s.realUse = true → refused .runDrill 0x71 .inUse)
      ∧ (s.exch.service = .service → s.drill.running = false → s.realUse = false → s.ru.state = .fault →
          refused .runDrill 0x71 .radioFault)
      ∧ (s.exch.service = .service → s.drill.running = false → s.realUse = false → s.ru.state ≠ .fault →
          (s.allow.stage = .reserve ∨ s.allow.stage = .exhausted) → refused .runDrill 0x71 .stage)

/-! ## Orders of the probe engine and the path monitors -/

/-- SET_GENERATOR: an equal period changes nothing; another one is written, restarts the phase, settles the generator's
paths and clamps their probe timeouts. That an equal period reached by clamping is CLAMPED is the model's choice (log
27). -/
def Obligations.GeneratorSet : Prop :=
  ∀ (g : Generator) (i : Nat) (rest : List Nat) (s : State), s.current → s.offersKind 0x10 i rest →
    let ps := slotParams s.mem i
    let n := min (param ps 1 2) 399
    let above := decide (399 < param ps 1 2)
    let mine := match g with | .a => Assignment.genA | .b => .genB
    let after := fun r : PathRec =>
      if r.assign = mine then
        { r.settled with timeout := clamp 100 (min (4 * (25 * (n + 1) * r.d)) 6500) r.timeout }
      else r
    let moved := decide ((after s.fibre).timeout ≠ s.fibre.timeout) || decide ((after s.radio).timeout ≠ s.radio.timeout)
    let answer := fun u : State =>
      pack [(1, generatorCode g), (2, n), (2, 25 * (n + 1)), (2, u.fibre.timeout), (2, u.radio.timeout)]
    param ps 0 1 = generatorCode g →
    ((s.gens.get g).n = n → ∃ t, exec .setGenerator s = .next t ∧
      t.plain = (s.answered i rest (if above then .clamped else .ok) (answer s)).plain) ∧
    ((s.gens.get g).n ≠ n → ∃ t, exec .setGenerator s = .next t ∧
      t.quiet = (({ (s.withPath .fibre (after s.fibre) (decide (s.fibre.assign = mine))).withPath .radio
              (after s.radio) (decide (s.radio.assign = mine)) with
            gens := s.gens.set g { n := n, due := s.now + BitVec.ofNat 32 (25 * (n + 1)) } } : State).answered i rest
          (if above || moved then .clamped else .ok) (answer t)).quiet)

/-- SET_PROBING writes assignment, divisor and probe timeout, clamped, and settles the path where assignment or divisor
changed; a path that becomes link-only in SERVICE leaves PROVING or WEAK for UP, with its usable-since time, the return
delay that fibre's rise arms, the hold and the drill that follow it; where a pass that follows closes the session, the
radio path then takes the physical loss. That the return delay's due time stays where nothing arms it is the model's
choice (log 31). -/
def Obligations.ProbingSet : Prop :=
  ∀ (p : Path) (a : Assignment) (i : Nat) (rest : List Nat) (s : State), s.current → s.offersKind 0x11 i rest →
    let ps := slotParams s.mem i
    let d := clamp 1 60 (param ps 2 1)
    let most := if a = .none then 6500 else min (4 * (s.assignedPeriod a * d)) 6500
    let timeout := clamp 100 most (param ps 3 4)
    let result := if d = param ps 2 1 ∧ timeout = param ps 3 4 then ResultCode.ok else .clamped
    let answer := pack [(1, pathCode p), (1, a.code), (1, d), (2, timeout), (4, s.assignedPeriod a * d)]
    let r := s.path p
    let changes := decide (r.assign ≠ a ∨ r.d ≠ d)
    let after := { (if changes then r.settled else r) with assign := a, d := d, timeout := timeout }
    let goesUp := r.linkOnly = false ∧ after.linkOnly = true ∧ s.exch.service = .service
      ∧ (r.state = .proving ∨ r.state = .weak)
    param ps 0 1 = pathCode p → param ps 1 1 = a.code →
    (¬goesUp → ∃ t, exec .setProbing s = .next t ∧
      t.quiet = ((s.withPath p after changes).answered i rest result answer).quiet) ∧
    (goesUp → ∃ t, exec .setProbing s = .next t ∧
      t.keptByPaths = ((s.withPath p after changes).answered i rest result answer).keptByPaths ∧
      (t.path p).window = [] ∧ (t.path p).probes = [] ∧ s.pathGoes t p [after.movesTo s.now .up])

/-- SET_TEMPLATE writes the template, at most 64 bytes of it, and settles the path where it changed; a path that becomes
link-only in SERVICE leaves PROVING or WEAK for UP, with its usable-since time, the return delay that fibre's rise arms,
the hold and the drill that follow it; where a pass that follows closes the session, the radio path then takes the
physical loss. That the return delay's due time stays where nothing arms it is the model's choice (log 31). -/
def Obligations.TemplateSet : Prop :=
  ∀ (p : Path) (i : Nat) (rest : List Nat) (s : State), s.current → s.offersKind 0x12 i rest →
    let ps := slotParams s.mem i
    let template := (ps.drop 2).take (min (param ps 1 1) 64)
    let result := if param ps 1 1 ≤ 64 then ResultCode.ok else .clamped
    let r := s.path p
    let changes := decide (r.template ≠ template)
    let after := { (if changes then r.settled else r) with template := template }
    let answer := pack [(1, pathCode p), (1, template.length), (1, after.linkOnly.toNat)]
    let goesUp := r.linkOnly = false ∧ after.linkOnly = true ∧ s.exch.service = .service
      ∧ (r.state = .proving ∨ r.state = .weak)
    param ps 0 1 = pathCode p →
    (¬goesUp → ∃ t, exec .setTemplate s = .next t ∧
      t.quiet = ((s.withPath p after changes).answered i rest result answer).quiet) ∧
    (goesUp → ∃ t, exec .setTemplate s = .next t ∧
      t.keptByPaths = ((s.withPath p after changes).answered i rest result answer).keptByPaths ∧
      (t.path p).window = [] ∧ (t.path p).probes = [] ∧ s.pathGoes t p [after.movesTo s.now .up])

/-- SET_SCORING writes thresholds, fail limit and lock-first, clamped; nothing else changes. -/
def Obligations.ScoringSet : Prop :=
  ∀ (p : Path) (lock : Bool) (i : Nat) (rest : List Nat) (s : State), s.current → s.offersKind 0x20 i rest →
    let ps := slotParams s.mem i
    let f := min (param ps 2 2) 60000
    let c := min (param ps 4 2) 60000
    let u := min (param ps 6 2) 1000
    let w := min (param ps 8 2) 1000
    let d := min (param ps 10 2) 1000
    let k := clamp 1 16 (param ps 12 1)
    let asGiven := f = param ps 2 2 ∧ c = param ps 4 2 ∧ u = param ps 6 2 ∧ w = param ps 8 2 ∧ d = param ps 10 2
      ∧ k = param ps 12 1
    param ps 0 1 = pathCode p → param ps 1 1 = lock.toNat → f < c → d < w → w < u →
    ∃ t, exec .setScoring s = .next t ∧
      t.plain = ((s.onPath p fun r =>
          { r with floor := f, ceiling := c, upT := u, weakT := w, failT := d, failLimit := k, lockFirst := lock }).answered
        i rest (if asGiven then .ok else .clamped)
        (pack [(1, pathCode p), (1, lock.toNat), (2, f), (2, c), (2, u), (2, w), (2, d), (1, k)])).plain

/-- SET_DAMPING writes damping, suppress, reuse and decay interval, clamped, and a changed interval restarts the decay
timer; turned off on a SUPPRESSED path, it takes that path to PROVING, or to UP where it is link-only, with its
usable-since time, the return delay that fibre's rise arms, the hold and the drill that follow it; where a pass that
follows closes the session, the radio path then takes the physical loss. That the return delay's due time stays where
nothing arms it is the model's choice (log 31). -/
def Obligations.DampingSet : Prop :=
  ∀ (p : Path) (on : Bool) (i : Nat) (rest : List Nat) (s : State), s.current → s.offersKind 0x21 i rest →
    let ps := slotParams s.mem i
    let suppress := min (param ps 2 2) 8000
    let reuse := min (param ps 4 2) 8000
    let td := clamp 1 255 (param ps 6 2)
    let result := if suppress = param ps 2 2 ∧ reuse = param ps 4 2 ∧ td = param ps 6 2 then ResultCode.ok else .clamped
    let r := s.path p
    let after := { r with
      damping := on, suppress := suppress, reuse := reuse, td := td,
      decayDue := if r.td = td then r.decayDue else s.now + BitVec.ofNat 32 (td * 1000) }
    let answer := fun x : PathRec =>
      pack [(1, pathCode p), (1, on.toNat), (2, suppress), (2, reuse), (2, td), (2, x.penalty), (1, x.state.code)]
    param ps 0 1 = pathCode p → param ps 1 1 = on.toNat → 0 < reuse → reuse < suppress →
    ((on = true ∨ r.state ≠ .suppressed) → ∃ t, exec .setDamping s = .next t ∧
      t.plain = ((s.onPath p fun _ => after).answered i rest result (answer r)).plain) ∧
    (on = false → r.state = .suppressed → ∃ t, exec .setDamping s = .next t ∧
      t.keptByPaths = ((s.onPath p fun _ => after).answered i rest result (answer (t.path p))).keptByPaths ∧
      s.pathGoes t p [after.movesTo s.now (if r.linkOnly then .up else .proving)])

/-- CLEAR_CAUSE clears valid, repeat and fall count of the path's cause record and answers what the record held; nothing
else changes. -/
def Obligations.CauseCleared : Prop :=
  ∀ (p : Path) (i : Nat) (rest : List Nat) (s : State), s.current → s.offersKind 0x22 i rest →
    param (slotParams s.mem i) 0 1 = pathCode p →
    let c := (s.path p).cause
    ∃ t, exec .clearCause s = .next t ∧
      t.plain = ((s.onPath p fun r =>
          { r with cause := { c with valid := false, repeated := false, falls := 0 } }).answered i rest .ok
        (pack [(1, pathCode p), (1, optCode Cause.code c.cause), (1, c.repeated.toNat), (1, c.falls)])).plain

/-! ## Orders of the radio unit -/

/-- SET_RADIO writes standby, linger, attach timeout and poll interval, clamped; it takes the unit out of FAULT, with
the failure counts 0 and the backoff 10 s; the target follows; a poll timer that runs on restarts where the interval
changed, and keeps its phase where it did not; the exit from FAULT leads to IDLE where READY is active and to OFF where
it is not, and the state entered acts on the target; a SESSION that it ends is left with all the effects of leaving it;
a BACKOFF ends where the target becomes OFF, and lasts otherwise; the answer shows state and target at the end of the
event. That the way out of FAULT acts on the target after the pass is the model's choice (log 11). -/
def Obligations.RadioSet : Prop :=
  ∀ (standby : Standby) (i : Nat) (rest : List Nat) (s : State), s.offersKind 0x30 i rest →
    let ps := slotParams s.mem i
    let linger := min (param ps 1 2) 3600
    let attach := clamp 10 300 (param ps 3 2)
    let poll := clamp 1 60 (param ps 5 2)
    let result := if linger = param ps 1 2 ∧ attach = param ps 3 2 ∧ poll = param ps 5 2 then ResultCode.ok else .clamped
    let r := { s.ru with standby := standby, linger := linger, attachTimeout := attach, poll := poll }
    let after := if s.ru.state = .fault then { r with attachTimeouts := 0, resets := 0, b := 10 } else r
    param ps 0 1 = standby.code →
    ∃ t, exec .setRadio s = .next t ∧
      t.kept = (({ s with ru := after } : State).answered i rest result
        (pack [(1, standby.code), (2, linger), (2, attach), (2, poll), (1, t.ru.state.code), (1, t.ru.target.code)])).kept
      ∧ t.ru.state ≠ .fault ∧ t.ru.target = t.targetNow
      ∧ ((s.ru.state = .attached ∨ s.ru.state = .opening ∨ s.ru.state = .session) →
          (t.ru.state = .attached ∨ t.ru.state = .opening ∨ t.ru.state = .session) →
          t.ru.pollDue = if s.ru.poll = poll then s.ru.pollDue
            else s.ru.pollDue.map fun _ => s.now + BitVec.ofNat 32 (poll * 1000))
      ∧ (s.ru.state = .fault → t.ev.latch.getLsbD 9 = true ∧ t.radio = s.radio
          ∧ (s.ru.ready = true → t.ru.state = if t.ru.target = .off then RadioState.stopping
              else if s.ru.outstanding = none then .attaching else .idle)
          ∧ (s.ru.ready = false → t.ru.state = if t.ru.target = .off then RadioState.off else .powering))
      ∧ (s.closes t → s.leavesSession t)
      ∧ (s.ru.state = .backoff → s.ru.target ≠ .off → t.ru.target = .off →
          { s with ru := { s.ru with target := .off } }.entersIdle t)
      ∧ (s.ru.state = .backoff → (s.ru.target = .off ∨ t.ru.target ≠ .off) →
          t.ru.state = .backoff ∧ t.ru.stateDue = s.ru.stateDue)

/-- SET_MODEM_LINES writes style, polarities and pulse widths, clamped; a change of style ends a PWR pulse; where the
normalized level of READY stays, or changes in a state that a READY change does not move, nothing else changes, and in
the others the unit goes where the READY change moves it, out of SESSION with all the effects of leaving it. That a
change of style also drops a PWR pulse that waits is the model's choice (log 17). -/
def Obligations.ModemLinesSet : Prop :=
  ∀ (level pwrLow mrstLow readyLow : Bool) (i : Nat) (rest : List Nat) (s : State), s.current →
    s.offersKind 0x31 i rest →
    let ps := slotParams s.mem i
    let pwrWidth := clamp 100 5000 (param ps 4 2)
    let mrstWidth := clamp 100 2000 (param ps 6 2)
    let result := if pwrWidth = param ps 4 2 ∧ mrstWidth = param ps 6 2 then ResultCode.ok else .clamped
    let after := { s.ru with
      lines := { level := level, pwrLow := pwrLow, mrstLow := mrstLow, readyLow := readyLow, pwrWidth := pwrWidth,
                 mrstWidth := mrstWidth },
      pwr := if s.ru.lines.level = level then s.ru.pwr else { ends := none, waiting := false } }
    let answer := fun u : State =>
      pack [(1, level.toNat), (1, pwrLow.toNat), (1, mrstLow.toNat), (1, readyLow.toNat), (2, pwrWidth), (2, mrstWidth),
            (1, u.ru.pwrActive.toNat), (1, u.ru.mrstActive.toNat), (1, u.ru.ready.toNat)]
    param ps 0 1 = level.toNat → param ps 1 1 = pwrLow.toNat → param ps 2 1 = mrstLow.toNat →
    param ps 3 1 = readyLow.toNat →
    ∃ t, exec .setModemLines s = .next t ∧
      t.kept = (({ s with ru := after } : State).answered i rest result (answer t)).kept ∧ t.ru.ready = after.ready ∧
      (after.ready = s.ru.ready ∨ s.readyMoves after.ready = false →
        t.plain = (({ s with ru := after } : State).answered i rest result (answer { s with ru := after })).plain) ∧
      (after.ready ≠ s.ru.ready → s.readyMoves after.ready = true → s.movedByReady after.ready t)

/-- RELEASE_RADIO, with demand false, stops a running linger, and the target follows: a SESSION that nothing else keeps
is left, with all the effects of leaving it, where the link is free, and stays where a request holds the link or a HOT
standby keeps it. Where no linger runs nothing changes. -/
def Obligations.RadioReleased : Prop :=
  ∀ (i : Nat) (rest : List Nat) (s : State), s.current → s.offersKind 0x32 i rest → s.steer.demand = false →
    (s.ru.lingerOn = false → ∃ t, exec .releaseRadio s = .next t ∧
      t.plain = (s.answered i rest .ok (pack [(1, 0), (1, s.ru.state.code), (1, s.ru.target.code)])).plain) ∧
    (s.ru.lingerOn = true → ∃ t, exec .releaseRadio s = .next t ∧
      t.kept = (s.answered i rest .ok (pack [(1, 1), (1, t.ru.state.code), (1, t.ru.target.code)])).kept
      ∧ t.ru.target = t.targetNow ∧ (s.ru.state ≠ .session → t.ru.lingerOn = false)
      ∧ (s.steer.demand = s.wantsSession → t.ru.lingerOn = false)
      ∧ (s.ru.state = .session → (s.ru.outstanding ≠ none ∨ s.targetWithout = .session) → t.ru.state = .session)
      ∧ (s.ru.state = .session → s.ru.outstanding = none →
          (s.exch.service ≠ .service ∨ s.cappedStandby ≠ .session) → t.ru.state ≠ .session ∧ t.radio.state = .down)
      ∧ (s.closes t → s.leavesSession t))

/-! ## Orders of the steering unit and the flow table -/

/-- SET_CLASS writes the class's five settings, tier and idle gap clamped; the steering pass follows, and it and what
follows it move paths, not settings: a class that may never use radio is left on FIBRE or BLOCKED. The answer shows the
class at the end of the event. -/
def Obligations.ClassSet : Prop :=
  ∀ (use : RadioUse) (atIdle permit : Bool) (i : Nat) (rest : List Nat) (s : State), s.offersKind 0x40 i rest →
    let ps := slotParams s.mem i
    let k := param ps 0 1
    let tier := min (param ps 2 1) 3
    let gap := clamp 1 600 (param ps 5 2)
    let result := if tier = param ps 2 1 ∧ gap = param ps 5 2 then ResultCode.ok else .clamped
    let after := { s.cls k with use := use, tier := tier, atIdle := atIdle, permit := permit, gap := gap }
    k ≤ 7 → param ps 1 1 = use.code → param ps 3 1 = atIdle.toNat → param ps 4 1 = permit.toNat → s.tables → s.pinsLive →
    ∃ t, exec .setClass s = .next t ∧
      t.kept = (({ s with classes := s.classes.set k after } : State).answered i rest result
        (pack [(1, k), (1, use.code), (1, tier), (1, atIdle.toNat), (1, permit.toNat), (2, gap),
               (1, (t.cls k).cur.code), (4, (t.cls k).since.toNat)])).kept
      ∧ (s.onTarget → t.onTarget)
      ∧ t.steered (s.hold.active = false)
      ∧ (use = .never → s.hold.active = false →
          (t.cls k).cur = if s.fibre.state = .up ∨ s.fibre.state = .weak then ClassPath.fibre else .blocked)

/-- SET_STEERING writes return delay, hold-age limit and default class, clamped. An armed return delay that changes is
measured from usable-since again, and has passed if that long has elapsed; the steering pass follows. That a due time
stays after it has passed is the model's choice (log 31). -/
def Obligations.SteeringSet : Prop :=
  ∀ (i : Nat) (rest : List Nat) (s : State), s.offersKind 0x41 i rest →
    let ps := slotParams s.mem i
    let delay := min (param ps 0 2) 3600
    let age := clamp 100 10000 (param ps 2 2)
    let dc := param ps 4 1
    let result := if delay = param ps 0 2 ∧ age = param ps 2 2 then ResultCode.ok else .clamped
    let since := s.fibre.usableSince
    let armed := s.steer.ret = .armed ∧ s.steer.delay ≠ delay
    let after := { s.steer with
      delay := delay, holdAge := age, defaultClass := dc,
      retDue := if armed then since + BitVec.ofNat 32 (delay * 1000) else s.steer.retDue,
      ret := if armed then (if delay * 1000 ≤ (s.now - since).toNat then .passed else .armed) else s.steer.ret }
    dc ≤ 7 → ∃ t, exec .setSteering s = .next t ∧
      t.kept = (({ s with steer := after } : State).answered i rest result
        (pack [(2, delay), (2, age), (1, dc), (1, after.ret.code), (4, after.retDue.toNat)])).kept
      ∧ (∀ h ∈ t.fwd.held, h ∈ s.fwd.held ∧ (s.now - h.arrival).toNat < age)
      ∧ t.steered (s.hold.active = false)

/-- HOLD_PATH in SERVICE, with no hold active and the path able to carry it, begins a hold of the given duration,
clamped, on that path from now, and it is active after the event; a RADIO hold's radio seen usable becomes 1 where the
radio path is UP or WEAK, and 0 otherwise. The steering pass follows: under the FIBRE hold every class is on FIBRE,
under the RADIO hold a class of tier 0 is RADIO or WAITING, unless it may never use radio. RELEASE_HOLD ends an active
hold RELEASED now, without latching HOLD_END, and the steering pass follows; with none active it is answered NOT_HELD
with the last hold's account, and nothing else changes. -/
def Obligations.HoldsBeginAndEnd : Prop :=
  (∀ (p : Path) (i : Nat) (rest : List Nat) (s : State), s.offersKind 0x42 i rest →
    let ps := slotParams s.mem i
    let duration := clamp 1 3600 (param ps 1 2)
    let result := if duration = param ps 1 2 then ResultCode.ok else .clamped
    let stop := s.now + BitVec.ofNat 32 (duration * 1000)
    param ps 0 1 = pathCode p → s.exch.service = .service → s.hold.active = false →
    (match p with | .fibre => s.fibreUsable = true | .radio => s.ru.state ≠ .fault) →
    ∃ t, exec .holdPath s = .next t ∧
      t.kept = (({ s with hold := { s.hold with path := some p, start := s.now, duration := duration } } : State).answered
        i rest result (pack [(1, pathCode p), (2, duration), (4, s.now.toNat), (4, t.hold.stop.toNat)])).kept
      ∧ t.hold.active = true ∧ t.hold.stop = stop ∧ t.steered False
      ∧ (p = .radio → (t.hold.seen = true ↔ s.radio.state = .up ∨ s.radio.state = .weak))
      ∧ (p = .radio → ∀ c ∈ t.classes, c.tier = 0 → c.use ≠ .never →
          c.cur = .radio ∨ c.cur = .waiting))
  ∧
  (∀ (i : Nat) (rest : List Nat) (s : State), s.current → s.offersKind 0x43 i rest →
    (s.hold.active = true → ∃ t, exec .releaseHold s = .next t ∧
      t.hold = { s.hold with active := false, stop := s.now, reason := .released } ∧
      t.kept = (s.answered i rest .ok
        (pack [(1, optPathCode s.hold.path), (4, s.hold.start.toNat), (4, s.now.toNat), (1, 1)])).kept ∧
      t.ev.latch.getLsbD 10 = s.ev.latch.getLsbD 10 ∧ t.steered True) ∧
    (s.hold.active = false → ∃ t, exec .releaseHold s = .next t ∧
      t.plain = (s.answered i rest .notHeld
        (pack [(1, optPathCode s.hold.path), (4, s.hold.stop.toNat), (4, 0), (1, s.hold.reason.code)])).plain))

/-- OPEN_FLOW in SERVICE allocates the lowest FREE record, bound to the class, opened and last used now, with its idle
timeout, clamped; every other record's identity stays. Where no session, drill or fault can owe a pass, the record is
whole: on its class's path, unpinned, no moves and no bytes, and queues and the other records stay. A drill ends where
the flow is RADIO or WAITING. An opening of tier 0 while fibre is not usable makes demand true and urgent, stops the
linger, aims at a session, takes the radio unit out of FAULT by a reset, and, where demand was not urgent before, ends a
BACKOFF: the unit enters IDLE and acts on target and link. CLOSE_FLOW of a record in use answers its final account and
frees it: every field of the record 0, its held frames dropped and counted, with HOLD_DROPS, frames queued for it sent
unbound; demand is recomputed, and where it falls the linger starts. -/
def Obligations.FlowsOpenAndClose : Prop :=
  (∀ (k i : Nat) (rest : List Nat) (s : State), s.offersKind 0x50 i rest →
    let ps := slotParams s.mem i
    let cls := param ps 0 1
    let idle := min (param ps 1 4) 65535
    let result := if idle = param ps 1 4 then ResultCode.ok else .clamped
    let opened := { FlowRec.freed 0 with
      state := .waiting, cls := cls, opened := s.now, lastFrame := s.now, idle := idle }
    let answer := fun t : State =>
      pack [(1, k), (1, (t.flow k).state.code), (1, optPathCode (t.flow k).state.path), (1, (t.cls cls).cur.code)]
    let path := (s.cls cls).cur
    let keepsSession := s.ru.lingerOn = true ∨ s.cappedStandby = .session ∨ path = .radio ∨ path = .waiting ∨
      (s.steer.demand = true ∧ 0 < s.effectiveLinger)
    cls ≤ 7 → s.exch.service = .service →
    k < s.flows.length → (s.flow k).state = .free → (∀ j < k, (s.flow j).state ≠ .free) →
    ∃ t, exec .openFlow s = .next t ∧ (t.flow k).state.live = true
      ∧ t.keptByModem = (({ s with flows := s.flows.set k opened } : State).answered i rest result (answer t)).keptByModem
      ∧ t.grade = s.grade
      ∧ (s.ru.state ≠ .fault →
          t.kept = (({ s with flows := s.flows.set k opened } : State).answered i rest result (answer t)).kept)
      ∧ (s.drill.running = false → s.ru.state ≠ .fault → (s.ru.state ≠ .session ∨ keepsSession) →
          t.flows = s.flows.set k
            { state := (match path with
                | .fibre => .carried .fibre | .radio => .carried .radio | .waiting => .waiting | .blocked => .blocked),
              cls := cls, pinned := false,
              last := (match path with
                | .fibre => some .fibre | .radio => some .radio | .waiting => none | .blocked => none),
              moves := 0, opened := s.now, lastFrame := s.now, idle := idle, bytes := 0, saturated := false,
              longIdle := false, count := (s.flow k).count + 2 }
          ∧ t.fwd = s.fwd)
      ∧ (s.drill.running = true → (path = .radio ∨ path = .waiting) →
          t.drill.running = false ∧ t.drill.last.outcome = some .aborted ∧ t.drill.last.cause = some .realUse)
      ∧ ((s.cls cls).tier = 0 → s.fibreUsable = false →
          t.steer.demand = true ∧ t.steer.urgent = true ∧ t.ru.lingerOn = false ∧ t.ru.target = .session)
      ∧ (s.ru.state = .fault → (s.cls cls).tier = 0 → s.fibreUsable = false →
          t.ru.state ≠ .fault ∧ t.ru.b = 10 ∧ t.ru.resets = 1 ∧ t.ru.attachTimeouts = 0
          ∧ t.ev.latch.getLsbD 9 = true)
      ∧ (s.ru.state = .backoff → s.steer.urgent = false → (s.cls cls).tier = 0 → s.fibreUsable = false →
          { s with ru := { s.ru with target := .session } }.entersIdle t ∧ t.ru.b = s.ru.b))
  ∧
  (∀ (i : Nat) (rest : List Nat) (s : State), s.offersKind 0x51 i rest →
    let k := param (slotParams s.mem i) 0 1
    let f := s.flow k
    k < s.flows.length → k ≤ 127 → f.state ≠ .free →
    ∃ t, exec .closeFlow s = .next t ∧
      t.kept = (({ s with flows := s.flows.set k (FlowRec.freed 0) } : State).answered i rest .ok
        (pack [(1, k), (1, f.state.code), (1, optPathCode f.state.path), (1, f.cls), (2, f.moves), (4, f.bytes),
               (1, f.saturated.toNat), (4, f.opened.toNat), (4, f.lastFrame.toNat)])).kept
      ∧ (t.flow k).state = .free
      ∧ (∀ h ∈ t.fwd.held, h ∈ s.fwd.held ∧ h.flow ≠ some k)
      ∧ (let gone := (s.fwd.held.filter fun h => decide (h.flow = some k)).length
         (gone = 0 → t.fwd.counts.holdDiscard = s.fwd.counts.holdDiscard)
           ∧ (0 < gone → t.fwd.counts.holdDiscard = min (s.fwd.counts.holdDiscard + gone) 4294967295
               ∧ t.ev.latch.getLsbD 13 = true))
      ∧ t.flow k = { FlowRec.freed 0 with count := (t.flow k).count }
      ∧ (let freed := { s with flows := s.flows.set k (FlowRec.freed 0) }
         let unbound := fun (fs : List TxFrame) => fs.map fun x => if x.flow = some k then { x with flow := none } else x
         let queue := fun (q : TxQueue) => { q with urgent := unbound q.urgent, normal := unbound q.normal }
         (s.ru.state ≠ .session ∨ freed.wantsSession = true ∨ s.cappedStandby = .session ∨ s.ru.lingerOn = true
             ∨ (s.steer.demand = true ∧ 0 < s.effectiveLinger)) → s.exch.service = .service →
           (∀ p : Path, t.fwd.queue p = queue (s.fwd.queue p))
           ∧ t.fwd.held = s.fwd.held.filter (fun h => decide (h.flow ≠ some k))
           ∧ t.steer.demand = freed.wantsSession ∧ t.steer.urgent = freed.wantsUrgently
           ∧ (freed.wantsSession = true → t.ru.lingerOn = false)
           ∧ (s.steer.demand = true → freed.wantsSession = false → 0 < s.effectiveLinger →
               t.ru.lingerOn = true ∧ t.ru.lingerStart = s.now ∧ t.ru.target = .session)))

/-! ## Orders of the allowance meter, the supply monitor and the drill unit -/

/-- SET_ALLOWANCE writes the five settings, clamped, and recomputes the boundaries; used bytes and period stay, and
stage and overrun flags follow; sticky overrun is kept and is set where live overrun begins, which latches OVERRUN; the
peak rises with the stage and stays where it falls; a stage that changes, and a hard cap that changes in EXHAUSTED,
bring the steering pass; the answer shows stage and flags. NEW_PERIOD writes the summary of the period that ends and
starts a new one: used bytes 0, stage and peak NORMAL, both overrun flags 0; the settings stay; the answer is the
summary. What is zeroed is stated where the passes that follow hand no frame to the modem. -/
def Obligations.AllowanceSetAndPeriodsStarted : Prop :=
  (∀ (cap : Bool) (i : Nat) (rest : List Nat) (s : State), s.offersKind 0x60 i rest →
    let ps := slotParams s.mem i
    let kib := param ps 0 4
    let c := clamp 50 98 (param ps 4 1)
    let r := clamp 51 99 (param ps 5 1)
    let extra := min (param ps 7 1) 64
    let result := if c = param ps 4 1 ∧ r = param ps 5 1 ∧ extra = param ps 7 1 then ResultCode.ok else .clamped
    let after := { s.allow with
      kib := kib, conserve := c, reserve := r, hardCap := cap, overhead := extra,
      bc := kib * 1024 * c / 100, br := kib * 1024 * r / 100, bx := kib * 1024 }
    let overrun := kib ≠ 0 ∧ kib * 1024 ≤ s.allow.used
    let sticky := s.allow.sticky || (decide overrun && !s.allow.live)
    let peak := if s.allow.peak.rank < after.stageNow.rank then after.stageNow else s.allow.peak
    let passes := after.stageNow ≠ s.allow.stage ∨ (cap ≠ s.allow.hardCap ∧ after.stageNow = .exhausted)
    param ps 6 1 = cap.toNat → c < r →
    ∃ t, exec .setAllowance s = .next t ∧
      t.kept = (({ s with allow := after } : State).answered i rest result
        (pack [(4, kib), (1, c), (1, r), (1, cap.toNat), (1, extra), (1, t.allow.stage.code), (1, t.allow.live.toNat),
               (1, t.allow.sticky.toNat)])).kept
      ∧ t.allow.stage = t.allow.stageNow ∧ t.allow.live = t.allow.liveNow
      ∧ (after.stageNow = s.allow.stage → (cap = s.allow.hardCap ∨ s.allow.stage ≠ .exhausted) →
          t.allow.used = s.allow.used)
      ∧ (after.stageNow ≠ s.allow.stage → t.ev.latch.getLsbD 5 = true)
      ∧ ((¬passes ∨ s.portReady .radio = false) → t.allow = { after with
          stage := after.stageNow, peak := peak, live := decide overrun, sticky := sticky })
      ∧ (sticky = true → t.allow.sticky = true) ∧ peak.rank ≤ t.allow.peak.rank
      ∧ (overrun → s.allow.live = false → t.ev.latch.getLsbD 6 = true)
      ∧ (passes → t.steered (s.hold.active = false)))
  ∧
  (∀ (i : Nat) (rest : List Nat) (s : State), s.offersKind 0x61 i rest →
    let m : Summary := { valid := true, used := s.allow.used, peak := s.allow.peak, sticky := s.allow.sticky,
                         start := s.allow.start, stop := s.now, warmResets := s.allow.warmResets }
    ∃ t, exec .newPeriod s = .next t ∧
      t.kept = (({ s with allow := { s.allow with summary := m, start := s.now, warmResets := 0 } } : State).answered i
        rest .ok (pack [(8, m.used), (1, m.peak.code), (1, m.sticky.toNat), (4, m.start.toNat), (4, m.stop.toNat),
                        (1, m.warmResets)])).kept
      ∧ (s.allow.sound → (s.allow.stage = .normal ∨ s.portReady .radio = false) →
          t.allow.used = 0 ∧ t.allow.stage = .normal ∧ t.allow.peak = .normal ∧ t.allow.live = false
          ∧ t.allow.sticky = false)
      ∧ (s.allow.sound → s.allow.stage ≠ .normal → t.ev.latch.getLsbD 5 = true))

/-- The three boundaries: from SET ALLOWANCE on, each is the floor of its product, formed in full; with A of 1 or more
they are strictly ordered; the largest product fits in 50 bits; power-on leaves all three 0 and a RESET pin or soft
reset keeps them; with A = 1 KiB and the power-on percentages they are 819, 972 and 1,024, so 818 is NORMAL and 819
CONSERVE. -/
def Obligations.BoundariesComputed : Prop :=
  (∀ (i : Nat) (rest : List Nat) (s : State), s.offersKind 0x60 i rest →
    let ps := slotParams s.mem i
    let c := clamp 50 98 (param ps 4 1)
    let r := clamp 51 99 (param ps 5 1)
    param ps 6 1 ≤ 1 → c < r →
    ∃ t, exec .setAllowance s = .next t
      ∧ t.allow.kib = param ps 0 4 ∧ t.allow.conserve = c ∧ t.allow.reserve = r
      ∧ t.allow.bc = t.allow.kib * 1024 * t.allow.conserve / 100
      ∧ t.allow.br = t.allow.kib * 1024 * t.allow.reserve / 100
      ∧ t.allow.bx = t.allow.kib * 1024)
  ∧ (∀ A c r : Nat, 1 ≤ A → 50 ≤ c → c < r → r ≤ 99 →
      A * 1024 * c / 100 < A * 1024 * r / 100 ∧ A * 1024 * r / 100 < A * 1024)
  ∧ (∀ A : Nat, A ≤ 4294967295 → A * 1024 * 99 < 2 ^ 50)
  ∧ (∀ s : State, ∃ t u v, exec .powerOn s = .next t ∧ exec .resetPinAssert s = .next u ∧ exec .softReset s = .next v
      ∧ t.allow.kib = 0 ∧ t.allow.bc = 0 ∧ t.allow.br = 0 ∧ t.allow.bx = 0
      ∧ u.allow.bc = s.allow.bc ∧ u.allow.br = s.allow.br ∧ u.allow.bx = s.allow.bx
      ∧ v.allow.bc = s.allow.bc ∧ v.allow.br = s.allow.br ∧ v.allow.bx = s.allow.bx)
  ∧ (let a := Allowance.bounded { Allowance.initial with kib := 1 }
     a.bc = 819 ∧ a.br = 972 ∧ a.bx = 1024 ∧ { a with used := 818 }.stageNow = .normal
       ∧ { a with used := 819 }.stageNow = .conserve)

/-- SUPPLY_LINE_CHANGE and SET_SUPPLY: a change of level or polarity that leaves a line's normalized level leaves its
debounce; one that changes it starts the timer of 2,000 ms toward a new level, or stops it at the debounced one.
Debounced levels and supply state stay. During INIT only the pin's level is held. DEBOUNCE_EXPIRY, due: the line's
debounced level takes its normalized level and its timer stops; the supply state is recomputed, and where it changes,
its time is written, SUPPLY_CHANGE latches, and pass and target follow: a class that the new state keeps from radio is
left on FIBRE or BLOCKED. What is held in INIT is the model's choice (log 5). -/
def Obligations.SupplyFollowsItsLines : Prop :=
  (∀ s : State,
    let change := fun (l n : LineRec) =>
      if (n.high != n.low) = (l.high != l.low) then n
      else { n with due := if (n.high != n.low) = l.debounced then none else some (s.now + 2000) }
    (∀ (line : SupplyLine) (high : Bool), s.current → ∃ t, exec (.supplyLineChange line high) s = .next t ∧
      t.plain = { s with
        sup := s.sup.setLine line (change (s.sup.line line) { (s.sup.line line) with high := high }) }.plain) ∧
    (∀ (line : SupplyLine) (high : Bool), s.exch.service = .init → ∃ t, exec (.supplyLineChange line high) s = .next t ∧
      t = { s with sup := s.sup.setLine line { (s.sup.line line) with high := high } }) ∧
    (∀ (a b c : Bool) (i : Nat) (rest : List Nat), s.current → s.offersKind 0x70 i rest →
      let ps := slotParams s.mem i
      let m := { s.sup with
        mainsOk := change s.sup.mainsOk { s.sup.mainsOk with low := a },
        battLow := change s.sup.battLow { s.sup.battLow with low := b },
        battCrit := change s.sup.battCrit { s.sup.battCrit with low := c } }
      param ps 0 1 = a.toNat → param ps 1 1 = b.toNat → param ps 2 1 = c.toNat →
      ∃ t, exec .setSupply s = .next t ∧
        t.plain = (({ s with sup := m } : State).answered i rest .ok
          (pack [(1, a.toNat), (1, b.toNat), (1, c.toNat),
                 (1, flagBits [m.mainsOk.normal, m.battLow.normal, m.battCrit.normal]),
                 (1, flagBits [m.mainsOk.debounced, m.battLow.debounced, m.battCrit.debounced]),
                 (1, s.sup.state.code)])).plain))
  ∧
  (∀ (line : SupplyLine) (s : State), s.current → expired s.now (s.sup.line line).due = true →
    let m := s.sup.setLine line
      { (s.sup.line line) with debounced := (s.sup.line line).high != (s.sup.line line).low, due := none }
    let n := if m.mainsOk.debounced = true then Supply.mains
      else if m.battCrit.debounced = true then .critical
      else if m.battLow.debounced = true then .batteryLow else .battery
    (n = s.sup.state → ∃ t, exec (.debounceExpiry line) s = .next t ∧ t.plain = { s with sup := m }.plain) ∧
    (n ≠ s.sup.state → ∃ t, exec (.debounceExpiry line) s = .next t ∧
      t.kept = { s with sup := { m with state := n, since := s.now } }.kept
      ∧ t.ev.latch.getLsbD 7 = true ∧ t.ru.target = t.targetNow ∧ t.steered (s.hold.active = false)))

/-- RUN_DRILL, where nothing refuses it, starts a drill now with its limit, clamped: where the radio path is not UP it
runs after the event with DRILL_PASS 1, and the radio path stays; where it is UP the drill ends in the event PASS,
RADIO_UP, DRILL_END latches, and the hold record is rewritten once where demand rises in it. CANCEL_DRILL ends a running
drill ABORTED, CANCELLED, and DRILL_LIMIT_EXPIRY, due, ends one FAIL, LIMIT: the record is written from the radio unit
and the radio path as they stand, DRILL_PASS becomes 0 and DRILL_END latches. With none running CANCEL_DRILL is answered
NOT_RUNNING with the last record and changes nothing. That start, limit and attach count stay after the end is the
model's choice (log 30). -/
def Obligations.DrillsRunAndEnd : Prop :=
  (∀ (i : Nat) (rest : List Nat) (s : State), s.offersKind 0x71 i rest →
    let ps := slotParams s.mem i
    let limit := clamp 60 1800 (param ps 0 2)
    let result := if limit = param ps 0 2 then ResultCode.ok else .clamped
    s.exch.service = .service → s.drill.running = false → s.realUse = false → s.ru.state ≠ .fault →
    (s.allow.stage = .normal ∨ s.allow.stage = .conserve) →
    ∃ t, exec .runDrill s = .next t ∧
      t.kept = (({ s with drill := { s.drill with start := s.now, limit := limit, attaches := s.ru.attaches } }
          : State).answered i rest result
        (pack [(2, limit), (4, s.now.toNat), (1, t.drill.running.toNat), (1, t.drill.pass.toNat), (1, t.ru.state.code),
               (1, t.radio.state.code)])).kept
      ∧ t.drill.pass = true
      ∧ (s.radio.state ≠ .up → t.drill.running = true ∧ t.drill.last = s.drill.last ∧ t.radio = s.radio)
      ∧ (s.radio.state = .up → t.drill.running = false ∧ t.ev.latch.getLsbD 11 = true
          ∧ t.drill.last.valid = true ∧ t.drill.last.outcome = some .pass ∧ t.drill.last.cause = some .radioUp
          ∧ t.drill.last.start = s.now ∧ t.drill.last.limit = limit ∧ t.drill.last.duration = 0
          ∧ t.drill.last.path = some .up
          ∧ (s.steer.demand = false → t.counts.hold = s.counts.hold + 2)))
  ∧
  (∀ s : State, s.current →
    let record := fun (o : DrillOutcome) (c : DrillCause) =>
      ({ valid := true, outcome := some o, cause := some c, start := s.drill.start, limit := s.drill.limit,
         duration := s.now - s.drill.start, radio := some s.ru.state, path := some s.radio.state,
         score := if s.radio.linkOnly = true ∨ s.exch.service ≠ .service then 1000 else s.radio.score,
         measured := s.radio.measured, pathCause := s.radio.cause.cause, causeValid := s.radio.cause.valid,
         attaches := s.ru.attaches - s.drill.attaches } : DrillRecord)
    let ended := fun o c => { s.drill with running := false, pass := false, last := record o c }
    (∀ (i : Nat) (rest : List Nat), s.offersKind 0x72 i rest → s.drill.running = true →
      ∃ t, exec .cancelDrill s = .next t ∧ t.drill = ended .aborted .cancelled ∧ t.ev.latch.getLsbD 11 = true
        ∧ t.kept = (s.answered i rest .ok (pack (drillRecordParts (record .aborted .cancelled)))).kept) ∧
    (∀ (i : Nat) (rest : List Nat), s.offersKind 0x72 i rest → s.drill.running = false →
      ∃ t, exec .cancelDrill s = .next t
        ∧ t.plain = (s.answered i rest .notRunning (pack (drillRecordParts s.drill.last))).plain) ∧
    (s.drill.running = true → s.drill.limit * 1000 ≤ (s.now - s.drill.start).toNat →
      ∃ t, exec .drillLimitExpiry s = .next t ∧ t.drill = ended .fail .limit ∧ t.ev.latch.getLsbD 11 = true
        ∧ t.kept = s.kept))

/-! ## Service orders and the event unit's order -/

/-- SET EXCHANGE, in CONFIG and in SERVICE: an interval of 0 becomes 1 and one above 250 becomes 250; it is written, and
the header rewritten; a different interval restarts the sweep timer's phase, an equal one leaves it; the sweep carries
on with the slots it collected; the answer is the interval now held. Nothing else changes. -/
def Obligations.ExchangeSet : Prop :=
  ∀ (i : Nat) (rest : List Nat) (s : State), s.current → s.offersKind 0x92 i rest →
    let given := param (slotParams s.mem i) 0 2
    let n := if given = 0 then 1 else if 250 < given then 250 else given
    ∃ t, exec .setExchange s = .next t ∧
      t.plain = (({ s with exch := { s.exch with
          interval := n, sweepDue := if s.exch.interval = n then s.exch.sweepDue else s.now + BitVec.ofNat 32 n } }
            : State).answered i rest (if n = given then .ok else .clamped) (pack [(2, n)])).plain
      ∧ t.counts.header = s.counts.header + 2 ∧ t.exch.sweep = some rest

/-- SET EVENT EDGES, in CONFIG and in SERVICE, writes both masks, never refused and never clamped; condition set and
latch stay; the answer gives the masks and the condition set. The masks are all 1 and all 0 at power-on and after every
reset, and no mirror record shows them. -/
def Obligations.EventEdgesSet : Prop :=
  (∀ (i : Nat) (rest : List Nat) (s : State), s.current → s.offersKind 0x80 i rest →
    let ps := slotParams s.mem i
    ∃ t, exec .setEventEdges s = .next t ∧
      t.plain = (({ s with ev := { s.ev with
          rising := BitVec.ofNat 16 (param ps 0 2), falling := BitVec.ofNat 16 (param ps 2 2) } } : State).answered i rest
        .ok (pack [(2, param ps 0 2), (2, param ps 2 2), (2, s.ev.cond.toNat)])).plain
      ∧ t.ev.cond = s.ev.cond ∧ t.ev.latch = s.ev.latch) ∧
  State.reset.ev.rising = 0xFFFF ∧ State.reset.ev.falling = 0 ∧
  (∀ s : State, ∃ t u v, exec .powerOn s = .next t ∧ exec .resetPinAssert s = .next u ∧ exec .softReset s = .next v
    ∧ t.ev.rising = 0xFFFF ∧ t.ev.falling = 0 ∧ u.ev.rising = 0xFFFF ∧ u.ev.falling = 0
    ∧ (s.exch.service ≠ .init → v.ev.rising = 0xFFFF ∧ v.ev.falling = 0)) ∧
  (∀ (s : State) (r f : Half) (a : Nat),
    exchangeByte { s with ev := { s.ev with rising := r, falling := f } } a = exchangeByte s a)

/-- START_SERVICE in CONFIG enters SERVICE with both tick counts 0, and pass and target follow; in SERVICE it changes
nothing. STOP_SERVICE in SERVICE enters CONFIG: a drill and a hold end, every flow is freed, both paths are settled, and
go to UP unless they are DOWN, with usable-since times and the return delay that fibre's rise arms; where the session
then closes, the radio path takes the physical loss in CONFIG; a BACKOFF ends unless the target was OFF before; the
frames queued for radio are flushed and the held frames of flows discarded, both counted, the hold buffer is left empty
(given that held frames are those that wait, which every step keeps while pinned flows are OPEN on RADIO, as every step
keeps them), the pass leaves every class on FIBRE or BLOCKED, the target is OFF; the answer says how many flows were in
use and whether a drill and a hold ended. In CONFIG it changes nothing. That the return delay's due time stays where
nothing arms it is the model's choice (log 31). -/
def Obligations.ServiceStartsAndStops : Prop :=
  (∀ (i : Nat) (rest : List Nat) (s : State), s.current → s.offersKind 0x90 i rest →
    let answer := fun t : State =>
      pack [(1, 2), (1, t.fibre.state.code), (1, t.radio.state.code), (1, t.ru.state.code), (1, t.ru.target.code)]
    (s.exch.service = .config → ∃ t, exec .startService s = .next t ∧
      t.kept = (({ s with exch := { s.exch with service := .service }, fibre := { s.fibre with ticks := 0 } }
          : State).answered i rest .ok (answer t)).kept
      ∧ t.radio.ticks = 0 ∧ t.ru.target = t.targetNow ∧ t.steered (s.hold.active = false)) ∧
    (s.exch.service = .service → ∃ t, exec .startService s = .next t ∧
      t.plain = (s.answered i rest .ok (answer s)).plain))
  ∧
  (∀ (i : Nat) (rest : List Nat) (s : State), s.current → s.offersKind 0x91 i rest →
    let answer := fun (freed : Nat) (drill hold : Bool) (t : State) =>
      pack [(1, freed), (1, drill.toNat), (1, hold.toNat), (1, 1), (1, t.fibre.state.code), (1, t.radio.state.code),
            (1, t.ru.state.code)]
    (s.exch.service = .service → s.tables → ∃ t, exec .stopService s = .next t ∧
      t.keptByPaths = (({ s with
          exch := { s.exch with service := .config },
          flows := s.flows.map fun f => if f.state = .free then f else FlowRec.freed f.count } : State).answered i rest .ok
        (answer (s.flows.filter fun f => decide (f.state ≠ .free)).length s.drill.running s.hold.active t)).keptByPaths
      ∧ t.drill.running = false ∧ t.hold.active = false ∧ t.ru.target = .off
      ∧ (s.drill.running = true → t.drill.last.outcome = some .aborted ∧ t.drill.last.cause = some .stopped)
      ∧ (s.hold.active = true → t.hold.reason = .stopped)
      ∧ (let stopped := fun (p : Path) =>
           let r := (s.path p).settled
           if r.state = .down then r else r.movesTo s.now .up
         t.fibre = stopped .fibre
           ∧ (s.closes t → t.radio
               = (stopped .radio).lostIn { s with exch := { s.exch with service := .config } } .radio)
           ∧ (¬s.closes t → t.radio = stopped .radio)
           ∧ t.steer.ret = (s.steer.sees s.now s.fibre.state t.fibre.state).ret
           ∧ t.steer.retDue = (s.steer.sees s.now s.fibre.state t.fibre.state).retDue ∧ t.grade = s.grade
           ∧ (∀ p : Path, (s.path p).state ≠ .down →
               ((s.path p).state ≠ .up → t.ev.latch.getLsbD (match p with | .fibre => 1 | .radio => 2) = true)
               ∧ (8 ≤ (s.path p).window.length → t.ev.latch.getLsbD 15 = true)))
      ∧ (s.ru.state = .backoff →
          t.ru.state = (if s.ru.target = .off then .backoff else if s.ru.ready then RadioState.stopping else .off))
      ∧ (∀ c ∈ t.classes, c.cur = if t.fibre.state = .up then .fibre else .blocked)
      ∧ t.fwd.radioQ.urgent = [] ∧ t.fwd.radioQ.normal = []
      ∧ t.fwd.counts.radioFlush
          = min (s.fwd.counts.radioFlush + s.fwd.radioQ.urgent.length + s.fwd.radioQ.normal.length) 4294967295
      ∧ (let bound := fun (h : HeldFrame) =>
           match h.flow with | none => false | some k => decide ((s.flow k).state ≠ .free)
         let gone := (s.fwd.held.filter bound).length
         (gone = 0 → t.fwd.counts.holdDiscard = s.fwd.counts.holdDiscard)
           ∧ (0 < gone → t.fwd.counts.holdDiscard = min (s.fwd.counts.holdDiscard + gone) 4294967295
               ∧ t.ev.latch.getLsbD 13 = true))
      ∧ (s.heldFramesWait → t.fwd.held = [])
      ∧ (∀ i < 128, (s.flow i).state ≠ .free → t.flow i = { FlowRec.freed 0 with count := (t.flow i).count })) ∧
    (s.exch.service = .config → ∃ t, exec .stopService s = .next t ∧
      t.plain = (s.answered i rest .ok (answer 0 false false s)).plain))

/-! ## Measurement -/

/-- GENERATOR_TICK, due: the next tick falls one period later; a path of the other generator, or not scoring, is left; a
scoring path counts the tick, and at its divisor sends a probe: its entry joins the pending list, and its frame waits at
the port, or goes straight to a port that is free. A full list first loses its oldest entry, and the entries resolved
behind it leave with it, one result at a time, each evaluated before the next enters. A generator of both paths offers
its tick to both. PROBE_EXPIRY, due, with other entries before it: the entry is lost where it stands; at the front it
leaves as a LOST result, and the entries resolved behind it leave with it, here stated where fewer than eight results
come together. That the return delay's due time stays where nothing arms it is the model's choice (log 31). -/
def Obligations.ProbesSentAndLost : Prop :=
  (∀ (p : Path) (s : State), s.current →
    let r := s.path p
    (∀ g : Generator, reached s.now (s.gens.get g).due = true →
      (∀ q : Path, (s.path q).assign = (match g with | .a => Assignment.genA | .b => .genB) → q = p) →
      let held := s.gens.get g
      let next := { held with due := held.due + BitVec.ofNat 32 (25 * (held.n + 1)) }
      let ticked := { s with gens := s.gens.set g next }
      let mine := decide (r.assign = (match g with | .a => Assignment.genA | .b => .genB)) && s.scoring p
      let entry : Probe := { seq := r.seq, sent := s.now, sentSub := s.clk.sub,
                             expiry := s.now + BitVec.ofNat 32 r.timeout, res := .unresolved }
      let after := { r with ticks := 0, seq := r.seq + 1, sent := r.sent + 1, probes := r.probes ++ [entry] }
      let queue := { s.fwd.queue p with
        probes := (s.fwd.queue p).probes ++ [(⟨probeFrame p r.template r.seq s.now, none⟩ : TxFrame)] }
      (mine = false → ∃ t, exec (.generatorTick g) s = .next t ∧ t.plain = ticked.plain) ∧
      (mine = true → r.ticks + 1 < r.d → ∃ t, exec (.generatorTick g) s = .next t ∧
        t.plain = (ticked.onPath p fun _ => { r with ticks := r.ticks + 1 }).plain) ∧
      (mine = true → r.d ≤ r.ticks + 1 → r.probes.length < 4 → s.portReady p = false →
        ∃ t, exec (.generatorTick g) s = .next t ∧
          t.plain = { ticked.onPath p (fun _ => after) with fwd := s.fwd.setQueue p queue }.plain) ∧
      (mine = true → r.d ≤ r.ticks + 1 → r.probes.length < 4 → s.portReady p = true →
        (s.fwd.queue p).probes = [] →
        let frame := probeFrame p r.template r.seq s.now
        let used := min (s.allow.used + frame.length + s.allow.overhead) 18446744073709551615
        (p = .radio → s.allow.sound ∧ { s.allow with used := used }.stageNow = s.allow.stage) →
        ∃ t, exec (.generatorTick g) s = .next t ∧
          t.plain = { ticked.onPath p (fun _ => after) with
            fwd := s.fwd.setQueue p { s.fwd.queue p with sending := some frame },
            allow := match p with | .fibre => s.allow | .radio => { s.allow with used := used } }.plain) ∧
      (∀ (x : Probe) (xs : List Probe), mine = true → r.d ≤ r.ticks + 1 → r.probes = x :: xs → 4 ≤ r.probes.length →
        (∀ y ∈ xs.head?, y.res = .unresolved) → r.window.length < 7 → s.portReady p = false →
        ∃ t, exec (.generatorTick g) s = .next t ∧
          t.plain = { ticked.onPath p (fun _ => { after with
            probes := xs ++ [entry], window := r.window ++ [(⟨x.seq, none⟩ : Result)] }) with
              fwd := s.fwd.setQueue p queue }.plain) ∧
      (∀ (x : Probe) (xs : List Probe), mine = true → r.d ≤ r.ticks + 1 → r.probes = x :: xs → 4 ≤ r.probes.length →
        s.portReady p = false →
        let went := { r with ticks := 0, probes := unresolvedOn xs }.through s p (⟨x.seq, none⟩ :: resultsOf xs)
        let last := went.getLastD r
        ∃ t, exec (.generatorTick g) s = .next t ∧ t.keptByProbes = ticked.keptByProbes
          ∧ s.pathGoes t p (went ++ [{ last with
              seq := r.seq + 1, sent := r.sent + 1, probes := unresolvedOn xs ++ [entry] }])
          ∧ (¬s.closes t → (t.fwd.queue p).probes = queue.probes)
          ∧ (last.window.length < 8 → t.plain = { ticked.onPath p (fun _ => { last with
              seq := r.seq + 1, sent := r.sent + 1, probes := unresolvedOn xs ++ [entry] }) with
                fwd := s.fwd.setQueue p queue }.plain))) ∧
    (∀ (before after : List Probe) (e : Probe), r.probes = before ++ e :: after → e.res = .unresolved →
      (∀ x ∈ before, ¬(x.seq = e.seq ∧ x.res = .unresolved)) → reachedFine s.clk e.expiry e.sentSub = true →
      ((∃ x rest, before = x :: rest ∧ x.res = .unresolved) → ∃ t, exec (.probeExpiry p e.seq) s = .next t ∧
        t.plain = (s.onPath p fun _ => { r with probes := before ++ { e with res := .lost } :: after }).plain) ∧
      (before = [] → (∀ x ∈ after.head?, x.res = .unresolved) → r.window.length < 7 →
        ∃ t, exec (.probeExpiry p e.seq) s = .next t ∧
          t.plain = (s.onPath p fun _ =>
            { r with probes := after, window := r.window ++ [(⟨e.seq, none⟩ : Result)] }).plain) ∧
      (before = [] → r.window.length + 1 + (resultsOf after).length < 8 →
        ∃ t, exec (.probeExpiry p e.seq) s = .next t ∧
          t.plain = (s.onPath p fun _ => (({ r with probes := unresolvedOn after }.through s p
            (⟨e.seq, none⟩ :: resultsOf after)).getLastD r)).plain)))
  ∧
  (∀ (g : Generator) (s : State), s.current → reached s.now (s.gens.get g).due = true →
    let mine := match g with | .a => Assignment.genA | .b => .genB
    let held := s.gens.get g
    let sends := fun (p : Path) => s.scoring p = true ∧ (s.path p).d ≤ (s.path p).ticks + 1
    let after := fun (p : Path) =>
      let r := s.path p
      if s.scoring p = false then r
      else if r.ticks + 1 < r.d then { r with ticks := r.ticks + 1 }
      else { r with
        ticks := 0, seq := r.seq + 1, sent := r.sent + 1,
        probes := r.probes ++ [{ seq := r.seq, sent := s.now, sentSub := s.clk.sub,
                                 expiry := s.now + BitVec.ofNat 32 r.timeout, res := .unresolved }] }
    let queue := fun (p : Path) =>
      let q := s.fwd.queue p
      let r := s.path p
      if s.scoring p = true ∧ r.d ≤ r.ticks + 1 then
        { q with probes := q.probes ++ [(⟨probeFrame p r.template r.seq s.now, none⟩ : TxFrame)] }
      else q
    s.fibre.assign = mine → s.radio.assign = mine →
    (∀ p : Path, sends p → (s.path p).probes.length < 4 ∧ s.portReady p = false) →
    ∃ t, exec (.generatorTick g) s = .next t ∧
      t.plain = { s with
        gens := s.gens.set g { held with due := held.due + BitVec.ofNat 32 (25 * (held.n + 1)) },
        fibre := after .fibre, radio := after .radio,
        fwd := { s.fwd with fibreQ := queue .fibre, radioQ := queue .radio } }.plain)

/-- PROBE_EXPIRY, due, of the front entry of a scoring path with at least seven results enters a LOST result in the
window of at most 16, which latches READY_CHANGE as its eighth, and INBOUND_FRAME with a reply to it a REPLIED one, with
the smoothed RTT; the path is measured: H is 1,000 less the loss, latency and signal penalties, at least 0. A PROVING
path goes UP at the up threshold; a usable one below the fail threshold counts a failure, and falls at its limit, with a
penalty of 500 and the dominant cause offered to the cause record by its four rows, with the snapshot; otherwise it is
UP, WEAK or stays by its thresholds. A fall breaks a hold of the path, a RADIO hold where it has seen the path usable,
as it does from PROVING to UP on; a rise of the radio path to UP passes a drill that runs. Fibre's rise writes its
usable-since time and arms the return delay, or passes it at a delay of 0, and its fall makes it NOT_ARMED. Entries
resolved behind the front leave with it: their results enter one at a time, each taken whole before the next, whatever
the path holds. A pass that closes the session then takes the radio path DOWN, with the physical loss. Where the
counting of a reply on radio changes the stage, that has its effects first, and the reply then scores the path; it is
unmatched where the pass closes the session. The bound of 65,000 on an RTT is the model's reading (log 21). That the
return delay's due time stays where nothing arms it is the model's choice (log 31). -/
def Obligations.ResultsScoreThePath : Prop :=
  (∀ (p : Path) (e : Probe) (rest : List Probe) (s : State), s.exch.service = .service →
    let r := s.path p
    r.linkOnly = false → r.state ≠ .down → r.probes = e :: rest → e.res = .unresolved →
    (∀ x ∈ rest.head?, x.res = .unresolved) → 7 ≤ r.window.length →
    let scored := fun (c : Instr) (rtt : Option Nat) (srtt : Nat) (replied : Bool) =>
      let full := r.window ++ [(⟨e.seq, rtt⟩ : Result)]
      let window := full.drop (full.length - 16)
      let pl := (window.filter fun x => x.rtt.isNone).length * 600 / window.length
      let pt := if replied = false then 300 else if srtt ≤ r.floor then 0 else if r.ceiling ≤ srtt then 300
        else 300 * (srtt - r.floor) / (r.ceiling - r.floor)
      let pg := match p with
        | .fibre => 0
        | .radio => if 20 ≤ s.grade.scoring then 0 else (20 - s.grade.scoring) * 10
      let h := 1000 - (pl + pt + pg)
      let fails := r.state.usable && decide (h < r.failT)
      let falls := fails && decide (r.failLimit ≤ r.failCount + 1)
      let penalty := if falls then min 8000 (r.penalty + 500) else r.penalty
      let next := if r.state = .suppressed then PathState.suppressed
        else if falls then (if r.damping = true ∧ r.suppress ≤ penalty then .suppressed else .proving)
        else if fails then .weak
        else if r.upT ≤ h then .up
        else if r.state = .proving then .proving
        else if h < r.weakT then .weak else r.state
      ∃ t, exec c s = .next t ∧ (t.path p).score = h ∧ (t.path p).measured = true
        ∧ t.keptByPaths = s.keptByPaths
        ∧ (((t.path p).state = next ∧ (t.path p).window = window ∧ (t.path p).probes = rest
              ∧ (t.path p).penalty = penalty ∧ (t.path p).s = srtt ∧ (t.path p).replied = replied
              ∧ (r.state.usable = true → (t.path p).failCount = if fails && !falls then r.failCount + 1 else 0))
            ∨ (p = .radio ∧ (t.path p).state = .down ∧ s.ru.state = .session ∧ t.ru.state ≠ .session))
        ∧ (let offered := if pt ≤ pl ∧ pg ≤ pl then Cause.loss else if pg ≤ pt then .latency else .signal
           let snap : Snapshot := {
             time := s.now, before := some r.state, h := h, n := window.length,
             l := (window.filter fun x => x.rtt.isNone).length, s := srtt,
             grade := (match p with | .fibre => 0 | .radio => s.grade.scoring),
             gradeValid := (match p with | .fibre => false | .radio => s.grade.valid), penalty := penalty }
           (falls = true → (t.path p).cause = r.cause.afterOffer r.lockFirst offered snap
              ∧ (r.cause.offerWrites r.lockFirst offered → t.ev.latch.getLsbD 12 = true)
              ∧ (¬r.cause.offerWrites r.lockFirst offered → s.ev.latch.getLsbD 12 = false → t.ru.state = s.ru.state →
                  t.ev.latch.getLsbD 12 = false))
            ∧ (falls = false → (t.path p).state ≠ .down → (t.path p).cause = r.cause))
        ∧ (window.length = 8 → r.window.length = 7 → t.ev.latch.getLsbD 15 = true)
        ∧ (s.hold.active = true → s.hold.path = some p →
            (falls = true → (p = .radio → s.hold.seen = true) → t.ev.latch.getLsbD 10 = true
              ∧ t.hold = { s.hold with active := false, stop := s.now, reason := .broken })
            ∧ (r.state = .proving → next = .up → p = .radio → t.hold.seen = true))
    (reachedFine s.clk e.expiry e.sentSub = true → scored (.probeExpiry p e.seq) none r.s r.replied) ∧
    (∀ d : List Byte, s.portReceives p = true → 60 ≤ d.length → d.length ≤ 1518 → probeShaped d = true →
      trailerPath d = pathCode p → trailerSeq d = e.seq →
      (p = .radio → s.allow.sound ∧
        { s.allow with
          used := min (s.allow.used + d.length + s.allow.overhead) 18446744073709551615 }.stageNow = s.allow.stage) →
      let rtt := min (((s.now - e.sent).toNat * 100 + s.clk.sub - e.sentSub) / 10) 65000
      scored (.inboundFrame p d) (some rtt) (if r.replied then (7 * r.s + rtt + 4) / 8 else rtt) true))
  ∧
  (∀ (p : Path) (e : Probe) (rest : List Probe) (s : State), s.exch.service ≠ .init →
    (s.path p).probes = e :: rest → e.res = .unresolved →
    let drains := fun (c : Instr) (rtt : Option Nat) =>
      ∃ t, exec c s = .next t ∧ t.keptByPaths = s.keptByPaths
        ∧ s.pathGoes t p ({ s.path p with probes := unresolvedOn rest }.through s p (⟨e.seq, rtt⟩ :: resultsOf rest))
    (reachedFine s.clk e.expiry e.sentSub = true → drains (.probeExpiry p e.seq) none) ∧
    (∀ d : List Byte, s.portReceives p = true → 60 ≤ d.length → d.length ≤ 1518 → probeShaped d = true →
      trailerPath d = pathCode p → trailerSeq d = e.seq →
      (p = .radio → s.allow.sound ∧
        { s.allow with
          used := min (s.allow.used + d.length + s.allow.overhead) 18446744073709551615 }.stageNow = s.allow.stage) →
      drains (.inboundFrame p d) (some (min (((s.now - e.sent).toNat * 100 + s.clk.sub - e.sentSub) / 10) 65000))))
  ∧
  (∀ (e : Probe) (rest : List Probe) (d : List Byte) (s : State), s.exch.service ≠ .init → s.portReceives .radio = true →
    s.radio.probes = e :: rest → e.res = .unresolved → 60 ≤ d.length → d.length ≤ 1518 → probeShaped d = true →
    trailerPath d = pathCode .radio → trailerSeq d = e.seq → s.allow.sound →
    let n := d.length + s.allow.overhead
    { s.allow with used := min (s.allow.used + n) 18446744073709551615 }.stageNow ≠ s.allow.stage →
    let rtt := min (((s.now - e.sent).toNat * 100 + s.clk.sub - e.sentSub) / 10) 65000
    ∃ t, exec (.inboundFrame .radio d) s = .next t ∧ s.restagesThen n (fun v t => v.pathGoes t .radio
      ({ v.radio with probes := unresolvedOn rest }.through v .radio (⟨e.seq, some rtt⟩ :: resultsOf rest))) t)

/-- INBOUND_FRAME: a radio frame is counted first; then a frame of a wrong length is counted malformed, a probe-shaped
frame that matches no unresolved entry is unmatched, a reply to the front entry leaves as a REPLIED result with its RTT,
with the entries resolved behind it, here stated where fewer than eight results come together, a reply to one behind an
unresolved entry resolves it where it stands, and any other frame joins the receive queue, or is dropped at a full one.
Where the counting changes the stage, used bytes, stage, peak and overrun flags follow, STAGE_CHANGE latches, and
OVERRUN where live overrun begins, and the steering pass runs, before the frame is handled in the same ways; a reply is
unmatched where that pass closes the session. The bound of 65,000 on an RTT is the model's reading (log 21). -/
def Obligations.InboundFramesTaken : Prop :=
  (∀ (p : Path) (d : List Byte) (s : State), s.current → s.portReceives p = true →
    let used := min (s.allow.used + d.length + s.allow.overhead) 18446744073709551615
    let u := match p with
      | .fibre => s
      | .radio => { s with allow := { s.allow with used := used } }
    (p = .radio → s.allow.sound ∧ { s.allow with used := used }.stageNow = s.allow.stage) →
    let counts := s.fwd.counts
    let malformed := match p with
      | .fibre => { counts with fibreIn := min (counts.fibreIn + 1) 4294967295 }
      | .radio => { counts with radioIn := min (counts.radioIn + 1) 4294967295 }
    let dropped := { counts with receiveDrop := min (counts.receiveDrop + 1) 4294967295 }
    let result := fun t : State => exec (.inboundFrame p d) s = .next t
    (¬(60 ≤ d.length ∧ d.length ≤ 1518) → ∃ t, result t ∧
      t.plain = { u with fwd := { s.fwd with counts := malformed } }.plain) ∧
    (60 ≤ d.length → d.length ≤ 1518 → probeShaped d = false → s.fwd.receive.length < 64 → ∃ t, result t ∧
      t.plain = { u with fwd := { s.fwd with receive := s.fwd.receive ++ [(⟨d, p⟩ : RxFrame)] } }.plain) ∧
    (60 ≤ d.length → d.length ≤ 1518 → probeShaped d = false → 64 ≤ s.fwd.receive.length → ∃ t, result t ∧
      t.plain = { u with fwd := { s.fwd with counts := dropped } }.plain) ∧
    (60 ≤ d.length → d.length ≤ 1518 → probeShaped d = true →
      (trailerPath d ≠ pathCode p ∨ ∀ e ∈ (s.path p).probes, ¬(e.seq = trailerSeq d ∧ e.res = .unresolved)) →
      ∃ t, result t ∧ t.plain = (u.onPath p fun r => { r with unmatched := min (r.unmatched + 1) 4294967295 }).plain) ∧
    (∀ (e : Probe) (rest : List Probe), 60 ≤ d.length → d.length ≤ 1518 → probeShaped d = true →
      trailerPath d = pathCode p → (s.path p).probes = e :: rest → e.seq = trailerSeq d → e.res = .unresolved →
      (∀ x ∈ rest.head?, x.res = .unresolved) → (s.path p).window.length < 7 →
      let rtt := min (((s.now - e.sent).toNat * 100 + s.clk.sub - e.sentSub) / 10) 65000
      ∃ t, result t ∧
        t.plain = (u.onPath p fun r => { r with
          probes := rest, window := r.window ++ [(⟨e.seq, some rtt⟩ : Result)],
          s := if r.replied then (7 * r.s + rtt + 4) / 8 else rtt, replied := true }).plain) ∧
    (∀ (e : Probe) (rest : List Probe), 60 ≤ d.length → d.length ≤ 1518 → probeShaped d = true →
      trailerPath d = pathCode p → (s.path p).probes = e :: rest → e.seq = trailerSeq d → e.res = .unresolved →
      (s.path p).window.length + 1 + (resultsOf rest).length < 8 →
      let rtt := min (((s.now - e.sent).toNat * 100 + s.clk.sub - e.sentSub) / 10) 65000
      ∃ t, result t ∧
        t.plain = (u.onPath p fun r => (({ r with probes := unresolvedOn rest }.through u p
          (⟨e.seq, some rtt⟩ :: resultsOf rest)).getLastD r)).plain) ∧
    (∀ (before after : List Probe) (e x : Probe), 60 ≤ d.length → d.length ≤ 1518 → probeShaped d = true →
      trailerPath d = pathCode p → (s.path p).probes = before ++ e :: after → e.seq = trailerSeq d →
      e.res = .unresolved → (∀ y ∈ before, ¬(y.seq = e.seq ∧ y.res = .unresolved)) → before.head? = some x →
      x.res = .unresolved →
      let rtt := min (((s.now - e.sent).toNat * 100 + s.clk.sub - e.sentSub) / 10) 65000
      ∃ t, result t ∧
        t.plain = (u.onPath p fun r => { r with probes := before ++ { e with res := .replied rtt } :: after }).plain))
  ∧
  (∀ (d : List Byte) (s : State), s.current → s.portReceives .radio = true → s.allow.sound →
    let n := d.length + s.allow.overhead
    { s.allow with used := min (s.allow.used + n) 18446744073709551615 }.stageNow ≠ s.allow.stage →
    let counts := s.fwd.counts
    let fits := 60 ≤ d.length ∧ d.length ≤ 1518
    let result := fun t : State => exec (.inboundFrame .radio d) s = .next t
    let counted := fun (t : State) (radioIn receiveDrop : Nat) => t.fwd.counts.fibreIn = counts.fibreIn
      ∧ t.fwd.counts.radioIn = radioIn ∧ t.fwd.counts.receiveDrop = receiveDrop
    let stay := fun (t : State) => counted t counts.radioIn counts.receiveDrop
    (¬fits → ∃ t, result t ∧ s.restages n t ∧ counted t (min (counts.radioIn + 1) 4294967295) counts.receiveDrop) ∧
    (fits → probeShaped d = false → s.fwd.receive.length < 64 → ∃ t, result t ∧ stay t
      ∧ { s with fwd := { s.fwd with receive := s.fwd.receive ++ [(⟨d, .radio⟩ : RxFrame)] } }.restages n t) ∧
    (fits → probeShaped d = false → 64 ≤ s.fwd.receive.length → ∃ t, result t ∧ s.restages n t
      ∧ counted t counts.radioIn (min (counts.receiveDrop + 1) 4294967295)) ∧
    (fits → probeShaped d = true →
      (trailerPath d ≠ pathCode .radio ∨ ∀ e ∈ s.radio.probes, ¬(e.seq = trailerSeq d ∧ e.res = .unresolved)) →
      ∃ t, result t ∧ stay t
        ∧ { s with radio := { s.radio with unmatched := min (s.radio.unmatched + 1) 4294967295 } }.restages n t) ∧
    (∀ (before after : List Probe) (e : Probe), fits → probeShaped d = true → trailerPath d = pathCode .radio →
      s.radio.probes = before ++ e :: after → e.seq = trailerSeq d → e.res = .unresolved →
      (∀ y ∈ before, ¬(y.seq = e.seq ∧ y.res = .unresolved)) →
      let rtt := min (((s.now - e.sent).toNat * 100 + s.clk.sub - e.sentSub) / 10) 65000
      (before = [] → ∃ t, result t ∧ stay t ∧ s.restagesThen n (fun v t => v.pathGoes t .radio
        ({ v.radio with probes := unresolvedOn after }.through v .radio (⟨e.seq, some rtt⟩ :: resultsOf after))) t) ∧
      (∀ x : Probe, before.head? = some x → x.res = .unresolved → ∃ t, result t ∧ stay t
        ∧ s.restagesThen n (fun v t => t.plain = { v with radio := { v.radio with
            probes := before ++ { e with res := .replied rtt } :: after } }.plain) t)))

/-- FIBRE_LINK_CHANGE and LOS_CHANGE: link and LOS take the levels; good again, the settle timer starts, if it does not
run; not good, it stops; lost while available, the fibre path goes DOWN, settled, READY_CHANGE latched where it was
measure ready, its frames flushed and counted, its bands left empty (given that a FIBRE hold is active only while fibre
is usable, which every step keeps), its penalty 1,000 higher and PHYSICAL offered to its cause record where it was
usable, and a FIBRE hold then breaks, with HOLD_END, and the return delay is NOT_ARMED. FIBRE_SETTLE_EXPIRY, due, makes
fibre available and takes a DOWN path out of DOWN; where fibre becomes usable, its usable-since time is now and the
return delay ARMED, due the delay later, or PASSED where the delay is 0. During INIT only the levels are held.
DECAY_TICK, due: the penalty falls by its sixteenth, at least by 1, and the timer goes on; a SUPPRESSED path whose
penalty falls below reuse leaves for PROVING, or UP where it is link-only, with the same on fibre's rise; where a pass
that follows closes the session, the radio path then takes the physical loss. What is held in INIT is the model's choice
(log 5). That the return delay's due time stays where nothing arms it is the model's choice (log 31). -/
def Obligations.FibreWatchedAndPenaltiesDecay : Prop :=
  (∀ (up los : Bool) (s : State),
    (s.exch.service = .init → exec (.fibreLinkChange up) s = .next { s with fin := { s.fin with link := up } }
      ∧ exec (.losChange los) s = .next { s with fin := { s.fin with los := los } }) ∧
    (s.exch.service ≠ .init →
      let watched := fun (f : FibreIn) (t : State) =>
        let good := f.link = true ∧ f.los = false
        (s.fin.available = false → t.fibre = s.fibre ∧ s.pathGoes t .fibre []
          ∧ t.fin = { f with settleDue := if good then (if s.fin.settleDue = none then some (s.now + 1000) else s.fin.settleDue)
                                          else none })
        ∧ (s.fin.available = true → good → t.fibre = s.fibre ∧ s.pathGoes t .fibre [] ∧ t.fin = f)
        ∧ (s.fin.available = true → ¬good → t.fin = { f with available := false } ∧ t.fibre.state = .down
            ∧ s.pathGoes t .fibre [s.fibre.lostIn s .fibre]
            ∧ ((s.fibre.state = .up ∨ s.fibre.state = .weak) → t.steer.ret = .notArmed
                ∧ t.fibre.usableSince = s.fibre.usableSince ∧ t.fibre.usableFlag = false)
            ∧ (s.fibre.state ≠ .down → t.fibre.probes = [] ∧ t.fibre.window = [] ∧ t.ev.latch.getLsbD 1 = true
                ∧ t.fibre.penalty = (if s.fibre.state = .up ∨ s.fibre.state = .weak then min 8000 (s.fibre.penalty + 1000)
                                     else s.fibre.penalty))
            ∧ (s.fibre.state ≠ .down →
                (8 ≤ s.fibre.window.length → t.ev.latch.getLsbD 15 = true)
                ∧ (s.fibreHoldCarried → t.fwd.fibreQ.urgent = [] ∧ t.fwd.fibreQ.normal = [])
                ∧ t.fwd.counts.fibreFlush = min (s.fwd.counts.fibreFlush + s.fwd.fibreQ.urgent.length
                    + s.fwd.fibreQ.normal.length) 4294967295)
            ∧ (if s.fibre.state = .up ∨ s.fibre.state = .weak then
                t.fibre.cause = s.fibre.cause.afterOffer s.fibre.lockFirst .physical {
                  time := s.now, before := some s.fibre.state,
                  h := if s.fibre.linkOnly = true ∨ s.exch.service ≠ .service then 1000 else s.fibre.score,
                  n := s.fibre.window.length, l := (s.fibre.window.filter fun x => x.rtt.isNone).length, s := s.fibre.s,
                  grade := 0, gradeValid := false, penalty := min 8000 (s.fibre.penalty + 1000) }
                ∧ (s.fibre.cause.offerWrites s.fibre.lockFirst .physical → t.ev.latch.getLsbD 12 = true)
              else t.fibre.cause = s.fibre.cause)
            ∧ ((s.fibre.state = .up ∨ s.fibre.state = .weak) → s.hold.active = true → s.hold.path = some .fibre →
                t.hold = { s.hold with active := false, stop := s.now, reason := .broken }
                ∧ t.ev.latch.getLsbD 10 = true))
        ∧ t.keptByPaths = { s with fin := f }.keptByPaths
      (∃ t, exec (.fibreLinkChange up) s = .next t ∧ watched { s.fin with link := up } t)
      ∧ (∃ t, exec (.losChange los) s = .next t ∧ watched { s.fin with los := los } t)
      ∧ (expired s.now s.fin.settleDue = true → ∃ t, exec .fibreSettleExpiry s = .next t
          ∧ t.fin = { s.fin with available := true, settleDue := none } ∧ t.keptByPaths = s.keptByPaths
          ∧ t.fibre.state = (if s.fibre.state ≠ .down then s.fibre.state
              else if s.exch.service ≠ .service then .up
              else if s.fibre.damping = true ∧ s.fibre.suppress ≤ s.fibre.penalty then .suppressed
              else if s.fibre.linkOnly = true then .up else .proving)
          ∧ s.pathGoes t .fibre [s.fibre.availableIn s]
          ∧ (s.fibre.state = .down → t.fibre.state = .up →
              t.fibre.usableSince = s.now ∧ t.fibre.usableFlag = true
              ∧ (s.steer.delay = 0 → t.steer.ret = .passed)
              ∧ (s.steer.delay ≠ 0 → t.steer.ret = .armed
                  ∧ t.steer.retDue = s.now + BitVec.ofNat 32 (s.steer.delay * 1000))))))
  ∧
  (∀ (p : Path) (s : State), s.current → reached s.now (s.path p).decayDue = true →
    let r := s.path p
    let after := { r with
      penalty := r.penalty - max 1 (r.penalty / 16), decayDue := r.decayDue + BitVec.ofNat 32 (r.td * 1000) }
    ((r.state ≠ .suppressed ∨ r.reuse ≤ after.penalty) → ∃ t, exec (.decayTick p) s = .next t ∧
      t.plain = (s.onPath p fun _ => after).plain) ∧
    (r.state = .suppressed → after.penalty < r.reuse → ∃ t, exec (.decayTick p) s = .next t ∧
      t.keptByPaths = (s.onPath p fun _ => after).keptByPaths ∧
      s.pathGoes t p [after.movesTo s.now (if r.linkOnly then .up else .proving)]))

/-! ## The modem -/

/-- The state a radio unit goes to from an entry into ATTACHED, by its target, with the link free. SESSION CLOSED in
CLOSING overtakes the answer of CLOSE SESSION: the unit is in ATTACHED with that request stale, waits for the link, and
acts on its target when the answer has freed it. An entry into ATTACHED starts the poll timer. OK to OPEN SESSION in
OPENING enters SESSION: backoff 10 s, attach timeouts 0, session-since now, RADIO_STATE latched, and the grade state
starts again where the radio path leaves DOWN: scoring grade 10, not valid, no UNKNOWN counted. A SIGNAL QUERY that
waits is sent as soon as the link is free and the state's own request is not: in ATTACHED with target ATTACHED, in
SESSION with target SESSION; it goes on waiting in OPENING, and is dropped in DETACHING and CLOSING. With target SESSION
the unit stays in SESSION: in SERVICE, with no drill running and the session kept by standby, linger or demand, the
radio path leaves DOWN, for SUPPRESSED, UP or PROVING, as in any case where that path is not DOWN; a drill that runs
ends PASS, RADIO_UP, where the path goes UP, and otherwise goes on in the session unless a class or flow takes radio;
with another target the session closes in the event (log 23), the radio path takes the physical loss after its rise, and
its record is rewritten for the states it went through. OK to DETACH in DETACHING, and to the DETACH of RESYNC, goes to
IDLE, which acts on the target: ATTACHING, or with target OFF STOPPING, or OFF where READY is inactive; and OK to the
CLOSE SESSION of RESYNC sends DETACH. Stated for a receiver that hunts; a message's command is the arrival of its frame
by the model's choice (log 16). -/
def Obligations.OkAnswersMoveTheUnit : Prop :=
  (∀ s : State, s.current → s.ru.rx = [] →
    let attached := { s.ru with
      state := .attached, stateDue := none, outstanding := none, resets := 0,
      pollDue := some (s.now + BitVec.ofNat 32 (s.ru.poll * 1000)), pwr := { s.ru.pwr with waiting := false },
      mrst := { s.ru.mrst with waiting := false } }
    let gone := fun (t : State) =>
      t.ru.state = (match s.ru.target with | .attached => RadioState.attached | .session => .opening | .off => .detaching)
        ∧ t.ru.resets = 0 ∧ t.keptByModem = s.keptByModem ∧ t.radio = s.radio ∧ t.grade = s.grade ∧ t.allow = s.allow
    let served := fun (entered : RadioUnit) (t : State) => { s with ru := entered }.linkServed t
    (∀ due, s.ru.outstanding = some { kind := .attach, stale := false, due := due } → s.ru.state = .attaching →
      ∃ t, exec .okAnswer s = .next t ∧ gone t ∧ served { attached with attachTimeouts := 0 } t
        ∧ t.ru.attachTimeouts = 0) ∧
    (∀ due reason, s.ru.outstanding = some { kind := .closeSession, stale := false, due := due } → s.ru.state = .closing →
      (∃ t, exec .okAnswer s = .next t ∧ gone t ∧ served attached t)
        ∧ ∃ t, exec (.refusedAnswer reason) s = .next t ∧ gone t
            ∧ served { attached with refusalReason := reason, refusalKind := some .closeSession } t
            ∧ t.ru.refusalReason = reason ∧ t.ru.refusalKind = some .closeSession) ∧
    (s.ru.state = .closing → s.ru.outstanding = none → ∃ t, exec .sessionClosed s = .next t ∧ gone t
      ∧ (s.ru.queryPending = false → served attached t)) ∧
    (∀ o : Outstanding, s.ru.outstanding = some o → s.ru.state = .closing → ∃ t, exec .sessionClosed s = .next t
      ∧ t.ru.state = .attached ∧ t.ru.outstanding = some { o with stale := true } ∧ t.ru.resets = 0
      ∧ t.keptByModem = s.keptByModem ∧ t.radio = s.radio ∧ t.grade = s.grade) ∧
    (∀ (k : Request) (due : Time), s.ru.outstanding = some { kind := k, stale := true, due := due } →
      k ≠ .signalQuery → s.ru.state = .attached → ∃ t, exec .okAnswer s = .next t
      ∧ t.ru.state = (match s.ru.target with | .attached => RadioState.attached | .session => .opening | .off => .detaching)
      ∧ t.keptByModem = s.keptByModem ∧ t.radio = s.radio ∧ t.grade = s.grade))
  ∧
  (∀ (due : Time) (s : State), s.current → s.ru.rx = [] →
    (s.ru.outstanding = some { kind := .openSession, stale := false, due := due } → s.ru.state = .opening →
      ∃ t, exec .okAnswer s = .next t ∧ t.ru.b = 10 ∧ t.ru.attachTimeouts = 0 ∧ t.ru.sessionSince = s.now
        ∧ t.ev.latch.getLsbD 8 = true ∧ t.keptByModem = s.keptByModem
        ∧ (s.ru.target = .session → s.radio.state ≠ .down → t.ru.state = .session)
        ∧ (s.ru.target = .session → s.radio.state = .down → s.exch.service = .service → s.drill.running = false →
            (s.cappedStandby = .session ∨ (0 < s.effectiveLinger ∧ (s.ru.lingerOn = true ∨ s.steer.demand = true))) →
            t.ru.state = .session
            ∧ t.radio.state = (if s.radio.damping = true ∧ s.radio.suppress ≤ s.radio.penalty then PathState.suppressed
                else if s.radio.linkOnly = true then .up else .proving))
        ∧ (s.ru.target ≠ .session → t.radio.state = .down ∧ t.counts.radio = s.counts.radio + 2)
        ∧ t.grade = (if s.radio.state = .down then { last := none, unknown := 0, scoring := 10, valid := false }
            else s.grade)
        ∧ (let rises := s.radio.availableIn s
           t.radio = (if t.ru.state = .session then rises
             else rises.lostIn { s with grade := if s.radio.state = .down then GradeState.start else s.grade } .radio))
        ∧ { s with ru := { s.ru with
              state := .session, stateDue := none, outstanding := none, b := 10, attachTimeouts := 0,
              sessionSince := s.now, pwr := { s.ru.pwr with waiting := false },
              mrst := { s.ru.mrst with waiting := false } } }.linkServed t
        ∧ (s.radio.state = .down → s.exch.service = .service → s.drill.running = true →
            let suppressed := s.radio.damping = true ∧ s.radio.suppress ≤ s.radio.penalty
            let record : DrillRecord := {
              valid := true, outcome := some .pass, cause := some .radioUp, start := s.drill.start,
              limit := s.drill.limit, duration := s.now - s.drill.start, radio := some .session, path := some .up,
              score := 1000, measured := s.radio.measured, pathCause := s.radio.cause.cause,
              causeValid := s.radio.cause.valid, attaches := s.ru.attaches - s.drill.attaches }
            (s.radio.linkOnly = true → ¬suppressed → t.ev.latch.getLsbD 11 = true
              ∧ t.drill = { s.drill with running := false, pass := true, last := record })
            ∧ (s.radio.linkOnly = false ∨ suppressed → s.ru.target = .session →
                (t.drill.running = true → t.drill = s.drill ∧ t.ru.state = .session
                  ∧ t.radio.state = (if suppressed then PathState.suppressed else .proving))
                ∧ (t.drill.running = false →
                    t.drill.last.outcome = some .aborted ∧ t.drill.last.cause = some .realUse)))) ∧
    (s.ru.outstanding = some { kind := .detach, stale := false, due := due } →
      (s.ru.state = .detaching ∨ s.ru.state = .resync) → s.ru.target ≠ .off →
      ∃ t, exec .okAnswer s = .next t ∧ t.ru.state = .attaching ∧ t.keptByModem = s.keptByModem
        ∧ t.grade = s.grade) ∧
    (s.ru.outstanding = some { kind := .detach, stale := false, due := due } →
      (s.ru.state = .detaching ∨ s.ru.state = .resync) → s.ru.target = .off →
      ∃ t, exec .okAnswer s = .next t ∧ s.stopsModem t ∧ t.keptByModem = s.keptByModem ∧ t.grade = s.grade) ∧
    (s.ru.outstanding = some { kind := .closeSession, stale := false, due := due } → s.ru.state = .resync →
      ∃ t, exec .okAnswer s = .next t ∧ t.plain = { s with ru := { s.ru with
        rx := [], tx := [0x7E, 0x02, 0x00, 0xFE],
        outstanding := some { kind := .detach, stale := false, due := s.now + 15000 } } }.plain))

/-- SESSION_CLOSED and DETACHED in SESSION leave it: the radio path goes DOWN, settled, from UP or WEAK with its penalty
1,000 higher and PHYSICAL offered with its snapshot, the frames queued for radio are flushed and counted, RADIO_STATE
latches, a RADIO hold that has seen the path usable breaks, with HOLD_END, and no pass opens the session again; a
request outstanding becomes stale, and with the link free SESSION_CLOSED leads on to OPENING for a target SESSION,
DETACHED to ATTACHING for a target other than OFF; DETACHED in ATTACHED, OPENING, CLOSING or DETACHING goes to IDLE,
which acts on the target: a request outstanding becomes stale and holds ATTACH back, and target OFF goes on to STOPPING,
or OFF where READY is inactive; SESSION_CLOSED in ATTACHED, OPENING or DETACHING, and in every other state both, are
taken without effect. Stated for a receiver that hunts; a message's command is the arrival of its frame by the model's
choice (log 16). -/
def Obligations.IndicationsMoveTheUnit : Prop :=
  ∀ s : State, s.exch.service ≠ .init → s.ru.rx = [] →
    (s.ru.state = .session → ∃ t u, exec .sessionClosed s = .next t ∧ exec .detached s = .next u
      ∧ t.ru.state ≠ .session ∧ t.radio.state = .down ∧ t.ev.latch.getLsbD 8 = true ∧ t.ru.resets = 0
      ∧ t.keptByModem = s.keptByModem
      ∧ u.ru.state ≠ .session ∧ u.radio.state = .down ∧ u.ev.latch.getLsbD 8 = true ∧ u.keptByModem = s.keptByModem
      ∧ s.leavesSession t ∧ s.leavesSession u
      ∧ (∀ o : Outstanding, s.ru.outstanding = some o →
          t.ru.state = .attached ∧ t.ru.outstanding = some { o with stale := true }
          ∧ u.ru.outstanding = some { o with stale := true })
      ∧ (s.ru.outstanding = none → s.ru.target = .session → t.ru.state = .opening
          ∧ t.ru.outstanding = some { kind := .openSession, stale := false, due := s.now + 30000 })
      ∧ (s.ru.outstanding = none → s.ru.target ≠ .off → u.ru.state = .attaching
          ∧ u.ru.attaches = s.ru.attaches + 1
          ∧ u.ru.outstanding = some { kind := .attach, stale := false,
                                      due := s.now + BitVec.ofNat 32 (s.ru.attachTimeout * 1000) })) ∧
    ((s.ru.state = .attached ∨ s.ru.state = .opening ∨ s.ru.state = .closing ∨ s.ru.state = .detaching) →
      s.current → s.ru.target ≠ .off → s.ru.outstanding = none → ∃ t, exec .detached s = .next t
        ∧ t.ru.state = .attaching ∧ t.ru.attaches = s.ru.attaches + 1
        ∧ t.ru.outstanding = some { kind := .attach, stale := false,
                                    due := s.now + BitVec.ofNat 32 (s.ru.attachTimeout * 1000) }) ∧
    ((s.ru.state = .attached ∨ s.ru.state = .opening ∨ s.ru.state = .closing ∨ s.ru.state = .detaching) → s.current →
      (∀ o : Outstanding, s.ru.outstanding = some o → s.ru.target ≠ .off → ∃ t, exec .detached s = .next t
        ∧ t.ru.state = .idle ∧ t.ru.outstanding = some { o with stale := true } ∧ t.ru.attaches = s.ru.attaches
        ∧ t.keptByModem = s.keptByModem ∧ t.radio = s.radio ∧ t.grade = s.grade) ∧
      (s.ru.target = .off → ∃ t, exec .detached s = .next t
        ∧ t.ru.state = (if s.ru.ready then RadioState.stopping else .off)
        ∧ t.ru.stateDue = (if s.ru.ready then some (s.now + 30000) else none)
        ∧ t.ru.outstanding = s.ru.outstanding.map (fun o => { o with stale := true })
        ∧ t.keptByModem = s.keptByModem ∧ t.radio = s.radio ∧ t.grade = s.grade)) ∧
    (s.current → (s.ru.state = .attached ∨ s.ru.state = .opening ∨ s.ru.state = .detaching) →
      ∃ t, exec .sessionClosed s = .next t ∧ t.plain = s.plain) ∧
    (s.current →
      (s.ru.state = .off ∨ s.ru.state = .powering ∨ s.ru.state = .idle ∨ s.ru.state = .attaching ∨ s.ru.state = .stopping
        ∨ s.ru.state = .backoff ∨ s.ru.state = .resetting ∨ s.ru.state = .fault ∨ s.ru.state = .resync) →
      ∃ t u, exec .sessionClosed s = .next t ∧ exec .detached s = .next u
        ∧ t.plain = { s with ru := { s.ru with rx := [] } }.plain ∧ u.plain = t.plain)

/-- Answers that match nothing are counted and change nothing else: OK with no request outstanding or to a SIGNAL QUERY,
REFUSED with none, SIGNAL with none or to another request. A message's command is the arrival of its frame, in every
state of the receiver: one with a frame under way reads the bytes as that frame's. While it hunts, bytes before a start
byte are dropped, uncounted, and a frame that is not whole stays under way. A frame of an unknown kind, of a length that
is not its kind's, or with a wrong check byte, behind whatever payload, is counted, and hunting goes on at the byte
after its start byte, so that what is hidden inside it is received: a frame that stays under way, or a message, as a
SIGNAL indication. LINK_INTERBYTE_TIMEOUT counts the frame under way where more than 50 ms have passed since its last
byte, hunts through it as well, and takes the bytes that end the silence; it does nothing elsewhere. That these commands
stand for bytes is the model's choice (log 16), and so is the expiry that is not due (log 3). -/
def Obligations.DiscardsCounted : Prop :=
  (∀ (a : Byte) (s : State), s.current →
    let counted := { s with ru := { s.ru with rx := [], discards := min (s.ru.discards + 1) 4294967295 } }
    let silent := (s.now - s.ru.rxTime).toNat
    (s.ru.rx = [] → s.ru.outstanding = none →
      (∃ t, exec .okAnswer s = .next t ∧ t.plain = counted.plain)
        ∧ (∃ t, exec (.refusedAnswer a) s = .next t ∧ t.plain = counted.plain)
        ∧ ∃ t, exec (.signalAnswer a) s = .next t ∧ t.plain = counted.plain) ∧
    (∀ o : Outstanding, s.ru.outstanding = some o → s.ru.rx = [] → o.kind = .signalQuery →
      ∃ t, exec .okAnswer s = .next t ∧ t.plain = counted.plain) ∧
    (∀ o : Outstanding, s.ru.outstanding = some o → s.ru.rx = [] → o.kind ≠ .signalQuery →
      ∃ t, exec (.signalAnswer a) s = .next t ∧ t.plain = counted.plain) ∧
    (∀ bytes : List Byte, s.ru.rx = [] → 0x7E ∉ bytes →
      ∃ t, exec (.linkFrameDiscarded bytes) s = .next t ∧ t.plain = s.plain) ∧
    (∀ pre part : List Byte, s.ru.rx = [] → 0x7E ∉ pre → linkUnfinished part →
      ∃ t, exec (.linkFrameDiscarded (pre ++ 0x7E :: part)) s = .next t ∧
        t.plain = { s with ru := { s.ru with rx := 0x7E :: part, rxTime := s.now } }.plain) ∧
    (∀ (kind check : Byte) (payload : List Byte), s.ru.rx = [] → payload.length ≤ 255 → linkBad kind payload check →
      let inside := linkBytes kind payload check
      (0x7E ∉ inside → ∃ t, exec (.linkFrameDiscarded (0x7E :: inside)) s = .next t ∧ t.plain = counted.plain) ∧
      (∀ pre part : List Byte, inside = pre ++ 0x7E :: part → 0x7E ∉ pre → linkUnfinished part →
        ∃ t, exec (.linkFrameDiscarded (0x7E :: inside)) s = .next t ∧
          t.plain = { counted with ru := { counted.ru with rx := 0x7E :: part, rxTime := s.now } }.plain) ∧
      (∀ pre : List Byte, inside = pre ++ [0x7E, 0xC3, 0x01, a, 0 - (0xC4 + a)] → 0x7E ∉ pre → s.radio.state = .down →
        ∃ t, exec (.linkFrameDiscarded (0x7E :: inside)) s = .next t ∧
          t.plain = { counted with ru := { counted.ru with
            grade := if a.toNat ≤ 31 then some a.toNat else none, gradeTime := s.now } }.plain)) ∧
    (s.ru.rx = [0x7E, a, 4] → silent ≤ 50 → ∃ t, exec .okAnswer s = .next t ∧
      t.plain = { s with ru := { s.ru with
        rx := [0x7E, a, 4, 0x7E, 0x81, 0x00, 0x7F], rxTime := s.now } }.plain) ∧
    (∀ part : List Byte, s.ru.rx = 0x7E :: part → 0x7E ∉ part → linkUnfinished part → 50 < silent →
      ∃ t, exec (.linkInterbyteTimeout []) s = .next t ∧ t.plain = counted.plain) ∧
    (∀ bytes : List Byte,
      (s.ru.rx ≠ [] → 50 < silent → exec (.linkInterbyteTimeout bytes) s = exec (.linkFrameDiscarded bytes) s) ∧
      (s.ru.rx = [] ∨ silent ≤ 50 → exec (.linkInterbyteTimeout bytes) s = .next s)))
  ∧
  (∀ (a : Byte) (s : State),
    exec .okAnswer s = exec (.linkFrameDiscarded [0x7E, 0x81, 0x00, 0x7F]) s
      ∧ exec (.refusedAnswer a) s = exec (.linkFrameDiscarded [0x7E, 0x82, 0x01, a, 0 - (0x83 + a)]) s
      ∧ exec (.signalAnswer a) s = exec (.linkFrameDiscarded [0x7E, 0x83, 0x01, a, 0 - (0x84 + a)]) s
      ∧ exec .sessionClosed s = exec (.linkFrameDiscarded [0x7E, 0xC1, 0x00, 0x3F]) s
      ∧ exec .detached s = exec (.linkFrameDiscarded [0x7E, 0xC2, 0x00, 0x3E]) s
      ∧ exec (.signalIndication a) s = exec (.linkFrameDiscarded [0x7E, 0xC3, 0x01, a, 0 - (0xC4 + a)]) s)
  ∧
  (∀ (bytes : List Byte) (s : State), exec (.linkFrameDiscarded bytes) s = .next (event (receiveBytes bytes) s))
  ∧
  (∀ w : Work,
    let discard := fun (rx : List Byte) => w.onRu fun r => { r with rx := rx, discards := min (r.discards + 1) 4294967295 }
    let silent := (w.st.now - w.st.ru.rxTime).toNat
    (∀ (kind check : Byte) (payload more : List Byte), w.st.ru.rx = [] → payload.length ≤ 255 →
      linkBad kind payload check →
      receiveBytes (0x7E :: linkBytes kind payload check ++ more) w
        = receiveBytes (linkBytes kind payload check ++ more) (discard [])) ∧
    (∀ bytes : List Byte, silent ≤ 50 →
      receiveBytes bytes w = receiveBytes (w.st.ru.rx ++ bytes) (w.onRu fun r => { r with rx := [] })) ∧
    (∀ part : List Byte, w.st.ru.rx = 0x7E :: part → linkUnfinished part →
      silence w = silence (discard part) ∧
      (∀ bytes : List Byte, 0x7E ∉ part → 50 < silent → receiveBytes bytes w = receiveBytes bytes (discard []))))

/-- REFUSED to ATTACH in ATTACHING, or to OPEN SESSION in OPENING, is recorded and leads to BACKOFF; ANSWER_TIMEOUT,
due, of OPEN SESSION in OPENING or a first or second of ATTACH in ATTACHING leads to BACKOFF too: its timer takes b, and
b doubles, up to 640 s. A third ATTACH timeout, and one of CLOSE SESSION in CLOSING or of DETACH in DETACHING, resets
the modem. REFUSED to DETACH in DETACHING or RESYNC, and its timeout in RESYNC, go to IDLE, which acts on the target;
REFUSED to CLOSE SESSION in RESYNC and its timeout go on to DETACH. The OK, the REFUSED and the timeout of a stale
request free the link and do nothing else: the unit that waits in IDLE, ATTACHED or SESSION then sends the request of
its state, one that waits for none sends the SIGNAL QUERY that waits, and with neither nothing changes. BACKOFF drops a
query that waits, and the poll timer stops. Answers are stated for a receiver that hunts. That a stale refusal is not
recorded is the model's choice (log 12), and so are a message's command as the arrival of its frame (log 16) and BACKOFF
waited out where it is entered with target OFF (log 22). -/
def Obligations.FailuresBackOffOrReset : Prop :=
  ∀ (k : Request) (due : Time) (reason : Byte) (s : State), s.current →
    let isOpen := s.ru.outstanding = some { kind := k, stale := false, due := due }
    let timedOut := reached s.now due = true
    let backsOff := fun t : State => t.ru.state = .backoff ∧ t.ru.outstanding = none
      ∧ t.ru.queryPending = false ∧ t.ru.pollDue = none ∧ t.ru.attaches = s.ru.attaches
      ∧ t.ru.stateDue = some (s.now + BitVec.ofNat 32 (s.ru.b * 1000)) ∧ t.ru.b = min 640 (2 * s.ru.b)
      ∧ t.keptByModem = s.keptByModem ∧ t.radio = s.radio ∧ t.grade = s.grade
    let resets := fun t : State => t.ru.state = .resetting ∧ t.ru.resets = min 3 (s.ru.resets + 1)
      ∧ t.ru.attachTimeouts = 0 ∧ t.ru.mrst.ends.isSome = true ∧ t.keptByModem = s.keptByModem
      ∧ t.radio = s.radio ∧ t.grade = s.grade
    let attaching := k = .attach ∧ s.ru.state = .attaching
    let opening := k = .openSession ∧ s.ru.state = .opening
    (isOpen → s.ru.rx = [] → (attaching ∨ opening) → ∃ t, exec (.refusedAnswer reason) s = .next t ∧ backsOff t
      ∧ t.ru.refusalReason = reason ∧ t.ru.refusalKind = some k
      ∧ t.ru.attachTimeouts = (if k = .attach then 0 else s.ru.attachTimeouts)) ∧
    (isOpen → timedOut → attaching → s.ru.attachTimeouts < 2 → ∃ t, exec .answerTimeout s = .next t ∧ backsOff t
      ∧ t.ru.attachTimeouts = s.ru.attachTimeouts + 1) ∧
    (isOpen → timedOut → opening → ∃ t, exec .answerTimeout s = .next t ∧ backsOff t) ∧
    (isOpen → timedOut → attaching → s.ru.attachTimeouts = 2 → ∃ t, exec .answerTimeout s = .next t ∧ resets t) ∧
    (isOpen → timedOut → ((k = .closeSession ∧ s.ru.state = .closing) ∨ (k = .detach ∧ s.ru.state = .detaching)) →
      ∃ t, exec .answerTimeout s = .next t ∧ resets t) ∧
    (isOpen → k = .detach → (s.ru.state = .detaching ∨ s.ru.state = .resync) →
      let goesOn := fun t : State => t.keptByModem = s.keptByModem ∧ t.radio = s.radio ∧ t.grade = s.grade
        ∧ (s.ru.target = .off → s.stopsModem t)
        ∧ (s.ru.target ≠ .off → t.ru.state = .attaching ∧ t.ru.attaches = s.ru.attaches + 1)
      (s.ru.rx = [] → ∃ t, exec (.refusedAnswer reason) s = .next t ∧ goesOn t
        ∧ t.ru.refusalReason = reason ∧ t.ru.refusalKind = some .detach) ∧
      (timedOut → s.ru.state = .resync → ∃ t, exec .answerTimeout s = .next t ∧ goesOn t)) ∧
    (isOpen → k = .closeSession → s.ru.state = .resync →
      let asks := { s.ru with
        tx := [0x7E, 0x02, 0x00, 0xFE],
        outstanding := some { kind := .detach, stale := false, due := s.now + 15000 } }
      (s.ru.rx = [] → ∃ t, exec (.refusedAnswer reason) s = .next t ∧ t.plain = { s with ru := { asks with
        rx := [], refusalReason := reason, refusalKind := some .closeSession } }.plain) ∧
      (timedOut → ∃ t, exec .answerTimeout s = .next t ∧ t.plain = { s with ru := asks }.plain)) ∧
    (s.ru.outstanding = some { kind := k, stale := true, due := due } → k ≠ .signalQuery → s.ru.queryPending = false →
      (s.ru.state = .backoff ∨ s.ru.state = .powering ∨ s.ru.state = .resetting ∨ s.ru.state = .fault) →
      (s.ru.rx = [] → ∃ t, exec (.refusedAnswer reason) s = .next t
        ∧ t.plain = { s with ru := { s.ru with outstanding := none, rx := [] } }.plain) ∧
      (timedOut → ∃ t, exec .answerTimeout s = .next t
        ∧ t.plain = { s with ru := { s.ru with outstanding := none } }.plain)) ∧
    (s.ru.outstanding = some { kind := k, stale := true, due := due } → k ≠ .signalQuery →
      let freed := { s with ru := { s.ru with outstanding := none } }
      (s.ru.rx = [] → (∃ t, exec .okAnswer s = .next t ∧ freed.linkFreed t)
        ∧ ∃ t, exec (.refusedAnswer reason) s = .next t ∧ freed.linkFreed t) ∧
      (timedOut → ∃ t, exec .answerTimeout s = .next t ∧ freed.linkFreed t))

/-- SIGNAL_INDICATION, and SIGNAL_ANSWER to a SIGNAL QUERY, report a grade: the radio record shows it with its time;
while the radio path is not DOWN, the path monitor's grade state takes it. REFUSED to SIGNAL QUERY, and its
ANSWER_TIMEOUT, due, report UNKNOWN, and a refusal that is not stale is recorded (a stale one is not: the model's
choice, log 12). The answer, refusal or timeout, stale or not, frees the link: a unit that waits for it then sends, or
else a query that waits. A scoring grade that changes, by any of the four reports, is an evaluation: nothing else
changes where the path is not scoring or holds fewer than eight results, and the path is scored anew where it does, with
its failures and falls; where the session closes in the event, the radio path then takes the physical loss, after the
evaluation by the model's choice (log 37). Reports are stated for a receiver that hunts; a message's command is the
arrival of its frame by the model's choice (log 16). POLL_TIMER_EXPIRY, due, restarts its timer and sends SIGNAL QUERY
where the link is free, or lets one wait for it; a query in the link is the one that is due. LINGER_EXPIRY, due, stops
the linger, and the target follows: a SESSION that nothing else keeps is left, with all the effects of leaving it, and
one that a request in the link, demand or a HOT standby keeps stays. -/
def Obligations.SignalsReportedAndAsked : Prop :=
  (∀ (g : Byte) (due : Time) (s : State), s.current →
    let v := if g.toNat ≤ 31 then some g.toNat else none
    let known := match v with
      | some n => { last := some n, unknown := 0, scoring := n, valid := true }
      | none =>
        if 3 ≤ s.grade.unknown then { s.grade with unknown := 4, scoring := 0, valid := false }
        else { s.grade with unknown := s.grade.unknown + 1 }
    let after := if s.radio.state = .down then s.grade else known
    let evaluates := after.scoring ≠ s.grade.scoring ∧ s.scoring .radio = true ∧ 8 ≤ s.radio.window.length
    let reported := fun (r : RadioUnit) =>
      ({ s with ru := { r with grade := v, gradeTime := s.now }, grade := after } : State)
    let freed := { s.ru with outstanding := none }
    let scored := fun (u t : State) => t.keptByModem = s.keptByModem ∧ t.radio.measured = true
      ∧ t.ru.grade = v ∧ t.ru.gradeTime = s.now ∧ u.pathGoes t .radio [s.radio.evaluatedIn u .radio]
    let answered := fun (r : RadioUnit) (t : State) =>
      (evaluates → scored (reported r) t ∧ (reported r).linkServed t) ∧ (¬evaluates → (reported r).linkFreed t)
    (s.ru.rx = [] → ∃ t, exec (.signalIndication g) s = .next t
      ∧ (evaluates → scored (reported s.ru) t) ∧ (¬evaluates → t.plain = (reported s.ru).plain)) ∧
    (∀ (stale : Bool) (reason : Byte), s.ru.outstanding = some { kind := .signalQuery, stale := stale, due := due } →
      (s.ru.rx = [] → ∃ t, exec (.signalAnswer g) s = .next t ∧ answered freed t) ∧
      (v = none → s.ru.rx = [] → ∃ t, exec (.refusedAnswer reason) s = .next t
        ∧ answered (if stale then freed else { freed with refusalReason := reason, refusalKind := some .signalQuery })
            t) ∧
      (v = none → reached s.now due = true → ∃ t, exec .answerTimeout s = .next t ∧ answered freed t)))
  ∧
  (∀ s : State, s.current →
    (∀ due : Time, s.ru.pollDue = some due → reached s.now due = true →
      let timer := some (due + BitVec.ofNat 32 (s.ru.poll * 1000))
      (s.ru.outstanding = none → s.ru.queryPending = false → ∃ t, exec .pollTimerExpiry s = .next t ∧
        t.plain = { s with ru := { s.ru with
          pollDue := timer, tx := [0x7E, 0x05, 0x00, 0xFB],
          outstanding := some { kind := .signalQuery, stale := false, due := s.now + 5000 } } }.plain) ∧
      (∀ (o : Outstanding), s.ru.outstanding = some o → ∃ t, exec .pollTimerExpiry s = .next t ∧
        t.plain = { s with ru := { s.ru with
          pollDue := timer, queryPending := if o.kind = Request.signalQuery then s.ru.queryPending else true } }.plain)) ∧
    (s.ru.lingerOn = true → s.effectiveLinger * 1000 ≤ (s.now - s.ru.lingerStart).toNat →
      ∃ t, exec .lingerExpiry s = .next t ∧ t.kept = s.kept ∧ t.ru.target = t.targetNow
        ∧ (s.ru.state ≠ .session → t.ru.lingerOn = false)
        ∧ (s.steer.demand = s.wantsSession → t.ru.lingerOn = false)
        ∧ (s.ru.state = .session → (s.ru.outstanding ≠ none ∨ s.targetWithout = .session) → t.ru.state = .session)
        ∧ (s.ru.state = .session → s.ru.outstanding = none → s.steer.demand = false →
            (s.exch.service ≠ .service ∨ s.cappedStandby ≠ .session) → t.ru.state ≠ .session ∧ t.radio.state = .down)
        ∧ (s.closes t → s.leavesSession t)))

/-- READY_CHANGE: a READY that goes active in POWERING leads to IDLE, which acts on the target and the link: ATTACHING,
IDLE behind a stale request, or STOPPING. One that goes inactive leads back to POWERING with its 30 s timer, a request
outstanding then stale, out of SESSION with the radio path DOWN, settled, from UP or WEAK with its penalty 1,000 higher
and PHYSICAL offered with its snapshot, its frames flushed and counted and a RADIO hold that has seen it usable broken;
from STOPPING with its timer running, and from RESYNC, it leads to OFF, and on to POWERING where the target is not OFF.
In every other state, both ways, and where the normalized value stays, only the level is held. During INIT only the
level is held. What is held in INIT is the model's choice (log 5). -/
def Obligations.ReadyMovesTheUnit : Prop :=
  ∀ (high : Bool) (s : State),
    let before := s.ru.readyHigh != s.ru.lines.readyLow
    let now := high != s.ru.lines.readyLow
    let held := { s with ru := { s.ru with readyHigh := high } }
    (s.exch.service = .init → exec (.readyChange high) s = .next held) ∧
    (s.current → (now = before ∨ s.readyMoves now = false) →
      ∃ t, exec (.readyChange high) s = .next t ∧ t.plain = held.plain) ∧
    (s.current → now ≠ before → s.readyMoves now = true →
      ∃ t, exec (.readyChange high) s = .next t ∧ s.movedByReady now t ∧ t.kept = held.kept)

/-- POWERING_TIMEOUT, due, resets the modem; STOPPING_TIMEOUT, due, starts an MRST pulse; BACKOFF_EXPIRY, due, goes to
IDLE, which acts on target and link; PULSE_END, due, ends the pulse of its line, or starts the one that waits; the end
of the MRST pulse leads from STOPPING to OFF, which acts on the target, and from RESETTING to POWERING, at once on to
IDLE where READY is active, or to FAULT after the third reset, with RADIO_FAULT latched and a RADIO hold broken, with
HOLD_END, while any other hold stays; a drill that runs ends FAIL, RADIO_FAULT, with its record, DRILL_PASS 0 and
DRILL_END. -/
def Obligations.ModemTimersExpire : Prop :=
  ∀ s : State, s.current →
    let due := expired s.now s.ru.stateDue = true
    (s.ru.state = .powering → due → ∃ t, exec .poweringTimeout s = .next t ∧ t.ru.state = .resetting
      ∧ t.ru.resets = min 3 (s.ru.resets + 1) ∧ t.ru.attachTimeouts = 0 ∧ t.ru.mrst.ends.isSome = true
      ∧ t.keptByModem = s.keptByModem ∧ t.radio = s.radio ∧ t.grade = s.grade) ∧
    (s.ru.state = .stopping → due → s.ru.mrst.ends ≠ none → ∃ t, exec .stoppingTimeout s = .next t ∧
      t.plain = { s with ru := { s.ru with stateDue := none, mrst := { s.ru.mrst with waiting := true } } }.plain) ∧
    (s.ru.state = .stopping → due → s.ru.mrst.ends = none → ∃ t, exec .stoppingTimeout s = .next t ∧
      t.plain = { s with ru := { s.ru with
        stateDue := none,
        mrst := { ends := some (s.now + BitVec.ofNat 32 s.ru.lines.mrstWidth), waiting := false } } }.plain) ∧
    (s.ru.state = .backoff → due → s.ru.target ≠ .off → s.ru.outstanding = none →
      ∃ t, exec .backoffExpiry s = .next t ∧ t.ru.state = .attaching ∧ t.ru.attaches = s.ru.attaches + 1
        ∧ t.kept = s.kept ∧ t.radio = s.radio) ∧
    (s.ru.state = .backoff → due → ∃ t, exec .backoffExpiry s = .next t ∧ t.kept = s.kept ∧ s.entersIdle t) ∧
    (expired s.now s.ru.pwr.ends = true → ∃ t, exec (.pulseEnd .pwr) s = .next t ∧
      t.plain = { s with ru := { s.ru with pwr := {
        ends := if s.ru.pwr.waiting then some (s.now + BitVec.ofNat 32 s.ru.lines.pwrWidth) else none,
        waiting := false } } }.plain) ∧
    (expired s.now s.ru.mrst.ends = true →
      (s.ru.mrst.waiting = true ∨ (s.ru.state ≠ .resetting ∧ ¬(s.ru.state = .stopping ∧ s.ru.stateDue = none))) →
      ∃ t, exec (.pulseEnd .mrst) s = .next t ∧ t.plain = { s with ru := { s.ru with mrst := {
        ends := if s.ru.mrst.waiting then some (s.now + BitVec.ofNat 32 s.ru.lines.mrstWidth) else none,
        waiting := false } } }.plain) ∧
    (expired s.now s.ru.mrst.ends = true → s.ru.mrst.waiting = false →
      (s.ru.state = .stopping → s.ru.stateDue = none → s.ru.target ≠ .off →
        ∃ t, exec (.pulseEnd .mrst) s = .next t ∧ t.ru.mrst.ends = none ∧ t.kept = s.kept
          ∧ (s.ru.ready = true → s.entersIdle t)
          ∧ (s.ru.ready = false → t.ru.state = .powering ∧ t.ru.stateDue = some (s.now + 30000))) ∧
      (s.ru.state = .resetting → s.ru.resets < 3 → s.ru.ready = true →
        ∃ t, exec (.pulseEnd .mrst) s = .next t ∧ t.ru.mrst.ends = none ∧ t.kept = s.kept ∧ s.entersIdle t) ∧
      (s.ru.state = .stopping → s.ru.stateDue = none → s.ru.target = .off →
        ∃ t, exec (.pulseEnd .mrst) s = .next t ∧ t.ru.state = .off ∧ t.ru.mrst.ends = none ∧ t.kept = s.kept) ∧
      (s.ru.state = .resetting → s.ru.resets < 3 → s.ru.ready = false →
        ∃ t, exec (.pulseEnd .mrst) s = .next t ∧ t.ru.state = .powering ∧ t.ru.stateDue = some (s.now + 30000)
          ∧ t.ru.mrst.ends = none ∧ t.kept = s.kept) ∧
      (s.ru.state = .resetting → s.ru.resets = 3 →
        ∃ t, exec (.pulseEnd .mrst) s = .next t ∧ t.ru.state = .fault ∧ t.ev.latch.getLsbD 9 = true
          ∧ t.keptByModem = s.keptByModem ∧ t.radio = s.radio ∧ t.grade = s.grade
          ∧ (s.drill.running = true →
              t.drill = { s with ru := { s.ru with state := .fault } }.drillEnded .fail .radioFault
              ∧ t.drill.running = false ∧ t.drill.pass = false ∧ t.ev.latch.getLsbD 11 = true)
          ∧ (s.drill.running = false → t.drill = s.drill)
          ∧ (if s.hold.active = true ∧ s.hold.path = some .radio then
              t.hold = { s.hold with active := false, stop := s.now, reason := .broken } ∧ t.ev.latch.getLsbD 10 = true
            else t.hold = s.hold)))

/-! ## Steering timers, flow timers and frames -/

/-- RETURN_DELAY_DUE, due, makes an armed return delay PASSED; HOLD_EXPIRY, due, ends the hold EXPIRED, now, and
HOLD_END latches; the steering pass follows each. That the due time stays after the delay has passed is the model's
choice (log 31). -/
def Obligations.SteeringTimersExpire : Prop :=
  ∀ s : State, s.exch.service ≠ .init →
    (s.steer.ret = .armed → reached s.now s.steer.retDue = true → ∃ t, exec .returnDelayDue s = .next t ∧
      t.kept = { s with steer := { s.steer with ret := .passed } }.kept ∧ t.steer.ret = .passed
      ∧ t.steered (s.hold.active = false)) ∧
    (s.hold.active = true → reached s.now s.hold.stop = true → ∃ t, exec .holdExpiry s = .next t ∧
      t.hold = { s.hold with active := false, stop := s.now, reason := .expired } ∧ t.ev.latch.getLsbD 10 = true
      ∧ t.kept = s.kept ∧ t.steered True)

/-- FLOW_IDLE_EXPIRY, due, makes the record EXPIRED and unpinned, drops and counts its held frames, and keeps its
account. IDLE_GAP_RETURN, due, unpins the flow, with FLOW_CHANGE, and it takes its class's path, stated where demand
does not close the session. LONG_IDLE_MARK, due, sets the mark. -/
def Obligations.FlowTimersExpire : Prop :=
  ∀ (i : Fin 128) (s : State), s.current → s.tables →
    let f := s.flow i
    let idle := (s.now - f.lastFrame).toNat
    (f.state.live = true → f.idle ≠ 0 → f.idle * 1000 ≤ idle → ∃ t, exec (.flowIdleExpiry i) s = .next t ∧
      t.kept = { s with flows := s.flows.set i { f with state := .expired, pinned := false } }.kept
      ∧ t.flow i = { f with state := .expired, pinned := false, count := (t.flow i).count }
      ∧ (t.flow i).state = .expired ∧ t.ev.latch.getLsbD 4 = true
      ∧ (∀ h ∈ t.fwd.held, h ∈ s.fwd.held ∧ h.flow ≠ some i.val)
      ∧ (let gone := (s.fwd.held.filter fun h => decide (h.flow = some i.val)).length
         (gone = 0 → t.fwd.counts.holdDiscard = s.fwd.counts.holdDiscard)
           ∧ (0 < gone → t.fwd.counts.holdDiscard = min (s.fwd.counts.holdDiscard + gone) 4294967295
               ∧ t.ev.latch.getLsbD 13 = true))) ∧
    (f.state = .carried .radio → f.pinned = true → (s.cls f.cls).gap * 1000 ≤ idle →
      ∃ t, exec (.idleGapReturn i) s = .next t ∧ t.kept = s.kept ∧ (t.flow i).pinned = false
        ∧ t.ev.latch.getLsbD 4 = true
        ∧ ((s.ru.state ≠ .session ∨ (s.steer.demand = true ∧ s.exch.service = .service ∧ 0 < s.effectiveLinger)) →
            (t.flow i).state = (match (s.cls f.cls).cur with
              | .fibre => FlowState.carried .fibre | .radio => .carried .radio | .waiting => .waiting
              | .blocked => .blocked)
            ∧ (t.flow i).moves = (if (s.cls f.cls).cur = .fibre ∧ f.last = some .radio then min (f.moves + 1) 65535
                                  else f.moves)
            ∧ t.exch.flowChanges = s.exch.flowChanges + 1)) ∧
    (f.state ≠ .free → f.longIdle = false → 600000 ≤ idle → ∃ t, exec (.longIdleMark i) s = .next t ∧
      t.plain = { s with flows := s.flows.set i { f with longIdle := true } }.plain)

/-- OUTBOUND_FRAME: a frame of a wrong length or class byte is counted malformed; an accepted frame takes the path of
the live flow it names, whose last-frame time it writes, and otherwise the path of its class, counted untracked: BLOCKED
drops it at the class, WAITING holds it, or drops it at a full buffer, and a path's band takes it at its tail, or drops
it where the band is full. Where the port is ready it takes its first frame in the same event: this one, where none
waited before it. -/
def Obligations.OutboundFramesPlaced : Prop :=
  ∀ (d : List Byte) (s : State), s.current →
    let f := readTag d
    let accepted := 60 ≤ f.data.length ∧ f.data.length ≤ 1518 ∧ f.cls.getD 0 ≤ 7
    let counts := s.fwd.counts
    let named : Option Nat := match f.flow with
      | some i => if (s.flow i).state.live then some i else none
      | none => none
    let cls := match named with
      | some i => (s.flow i).cls
      | none => f.cls.getD s.steer.defaultClass
    let path := match named with
      | some i => (match (s.flow i).state with
          | .carried .fibre => ClassPath.fibre
          | .carried .radio => .radio
          | .waiting => .waiting
          | _ => .blocked)
      | none => (s.cls cls).cur
    let u := match named with
      | some i => { s with flows := s.flows.set i { s.flow i with lastFrame := s.now, longIdle := false } }
      | none => { s with fwd := { s.fwd with counts := { counts with untracked := counts.untracked + 1 } } }
    let result := fun t : State => exec (.outboundFrame d) s = .next t
    (¬accepted → ∃ t, result t ∧
      let malformed := { counts with outMalformed := min (counts.outMalformed + 1) 4294967295 }
      t.plain = { s with fwd := { s.fwd with counts := malformed } }.plain) ∧
    (accepted → path = .blocked → ∃ t, result t ∧
      let c := s.cls cls
      t.plain = { u with classes := s.classes.set cls { c with dropped := min (c.dropped + 1) 4294967295 } }.plain) ∧
    (accepted → path = .waiting → s.fwd.held.length < 32 → ∃ t, result t ∧
      let entry : HeldFrame := { data := f.data, cls := cls, flow := named, arrival := s.now }
      t.plain = { u with fwd := { u.fwd with held := s.fwd.held ++ [entry] } }.plain) ∧
    (accepted → path = .waiting → 32 ≤ s.fwd.held.length → ∃ t, result t ∧ t.ev.latch.getLsbD 13 = true ∧
      let full := { u.fwd.counts with holdFull := min (counts.holdFull + 1) 4294967295 }
      t.quiet = { u with fwd := { u.fwd with counts := full } }.quiet) ∧
    (∀ p : Path, accepted → path = (match p with | .fibre => .fibre | .radio => .radio) →
      let q := s.fwd.queue p
      let frame : TxFrame := { data := f.data, flow := named }
      let urgent := (s.cls cls).tier ≤ 1
      let band := if urgent then q.urgent else q.normal
      let longer := if urgent then { q with urgent := q.urgent ++ [frame] } else { q with normal := q.normal ++ [frame] }
      let dropped := match p with
        | .fibre => { u.fwd.counts with fibreDrop := min (counts.fibreDrop + 1) 4294967295 }
        | .radio => { u.fwd.counts with radioDrop := min (counts.radioDrop + 1) 4294967295 }
      (band.length < 32 → s.portReady p = false → ∃ t, result t ∧
        t.plain = { u with fwd := u.fwd.setQueue p longer }.plain) ∧
      (band.length < 32 → s.portReady p = true → (p = .radio → s.allow.sound) →
        ∀ (first : TxFrame) (left : TxQueue), longer.gives first left → ∃ t, result t ∧ u.handsOff p first left t) ∧
      (32 ≤ band.length → ∃ t, result t ∧ t.plain = { u with fwd := { u.fwd with counts := dropped } }.plain))

/-- TRANSMIT_HANDOFF: the port has sent its frame and, while its link is up or the session open, takes the oldest probe,
or else urgent frame, or else normal frame that waits. A radio frame is counted with its overhead, to used bytes and to
its flow; where that changes the stage, peak and overrun flags follow, STAGE_CHANGE latches, and OVERRUN where live
overrun begins, and the steering pass runs. That the command stands for a port that has become ready is the model's
choice (log 13). -/
def Obligations.PortsTakeTheNextFrame : Prop :=
  ∀ (p : Path) (s : State), s.current →
    let q := s.fwd.queue p
    let isOpen := match p with | .fibre => s.fin.link = true | .radio => s.ru.state = .session
    let idle := { q with sending := none }
    ((¬isOpen ∨ (q.probes = [] ∧ q.urgent = [] ∧ q.normal = [])) → ∃ t, exec (.transmitHandoff p) s = .next t ∧
      t.plain = { s with fwd := s.fwd.setQueue p idle }.plain) ∧
    (∀ (f : TxFrame) (rest : TxQueue), isOpen →
      ((∃ fs, q.probes = f :: fs ∧ rest = { idle with probes := fs })
        ∨ (∃ fs, q.probes = [] ∧ q.urgent = f :: fs ∧ rest = { idle with urgent := fs })
        ∨ (∃ fs, q.probes = [] ∧ q.urgent = [] ∧ q.normal = f :: fs ∧ rest = { idle with normal := fs })) →
      let sent := { s with fwd := s.fwd.setQueue p { rest with sending := some f.data } }
      let n := f.data.length + s.allow.overhead
      let used := min (s.allow.used + n) 18446744073709551615
      (p = .fibre → ∃ t, exec (.transmitHandoff p) s = .next t ∧ t.plain = sent.plain) ∧
      (p = .radio → s.allow.sound → { s.allow with used := used }.stageNow = s.allow.stage →
        ∃ t, exec (.transmitHandoff p) s = .next t ∧
          t.plain = { sent with
            allow := { s.allow with used := used },
            flows := match f.flow with
              | none => s.flows
              | some i => s.flows.set i
                (if 4294967295 < (s.flow i).bytes + n then { (s.flow i) with bytes := 4294967295, saturated := true }
                 else { (s.flow i) with bytes := (s.flow i).bytes + n }) }.plain) ∧
      (p = .radio → s.allow.sound → { s.allow with used := used }.stageNow ≠ s.allow.stage →
        ∃ t, exec (.transmitHandoff p) s = .next t ∧ sent.restages n t ∧ t.fwd.radioQ.sending = some f.data
          ∧ (∀ i < s.flows.length, f.flow = some i → (t.flow i).bytes = min ((s.flow i).bytes + n) 4294967295)))

/-- HOLD_AGE_EXPIRY, due, drops and counts the oldest held frame. RECEIVE_QUEUE_DELIVERY with the LAN link up hands over
the oldest frame received, behind its arrival tag; with the link down, or nothing received, only the level is held, as
during INIT. The operand of RECEIVE_QUEUE_DELIVERY is the model's choice (log 14). -/
def Obligations.BuffersGiveTheirOldest : Prop :=
  (∀ (h : HeldFrame) (rest : List HeldFrame) (s : State), s.current → s.fwd.held = h :: rest →
    s.steer.holdAge ≤ (s.now - h.arrival).toNat → ∃ t, exec .holdAgeExpiry s = .next t ∧
      let counts := { s.fwd.counts with holdAge := min (s.fwd.counts.holdAge + 1) 4294967295 }
      t.quiet = { s with fwd := { s.fwd with held := rest, counts := counts } }.quiet ∧ t.ev.latch.getLsbD 13 = true) ∧
  (∀ (f : RxFrame) (rest : List RxFrame) (s : State), s.current → s.fwd.receive = f :: rest →
    ∃ t, exec (.receiveQueueDelivery true) s = .next t ∧
      let tag : List Byte := [0xC5, if f.path = .fibre then 1 else 2, 0, 0]
      t.plain = { s with fwd := { s.fwd with lanLink := true, receive := rest, lanOut := some (tag ++ f.data) } }.plain) ∧
  (∀ (up : Bool) (s : State), s.current → (up = false ∨ s.fwd.receive = []) →
    ∃ t, exec (.receiveQueueDelivery up) s = .next t ∧
      t.plain = { s with fwd := { s.fwd with lanLink := up } }.plain) ∧
  (∀ (up : Bool) (s : State), s.exch.service = .init →
    exec (.receiveQueueDelivery up) s = .next { s with fwd := { s.fwd with lanLink := up } })

/-! ## Steering, marks and records -/

/-- In a steering pass every class takes the path that R84, R85 and R86 give it from the state at the start of the pass,
and its since-time becomes now and CLASS_MOVE latches where that path is new; policies stay. Radio is permitted by
service state, use, fault, and, above tier 0, by stage, hard cap, supply state and battery permit. A live flow follows
its class, and its moves are counted; a flow on radio is pinned where its class returns AT_IDLE with the flow lately
used, and stays pinned while radio is ready and permitted and its class is not on radio. Held frames whose binding
leaves WAITING leave the buffer in arrival order for the band of their path, while it has room, or are dropped. A drill
that runs is then ended ABORTED, REAL_USE, with its record, where a class or flow is RADIO or WAITING, and goes on where
none is. A class that is RADIO or WAITING makes demand true, and urgent at tier 0. -/
def Obligations.PassDecidesEveryClass : Prop :=
  (∀ (w : Work) (i : Nat), i < w.st.classes.length →
    let s := w.st
    let c := s.cls i
    let usable := s.fibre.state = .up ∨ s.fibre.state = .weak
    let ready := s.radio.state = .up ∨ s.radio.state = .weak
    let fits := s.fibre.state = .up ∨ (s.fibre.state = .weak ∧ c.use ≠ .failoverWeak)
    let onFibre := c.cur = .fibre ∨ c.cur = .blocked
    let n := ((steeringPass w).st.cls i).cur
    let last := if usable then ClassPath.fibre else .blocked
    let overRadio := if ready then ClassPath.radio else .waiting
    (s.exch.service ≠ .service → n = last)
      ∧ (s.exch.service = .service → s.hold.active = false →
          n = if onFibre ∧ fits then .fibre
            else if ¬onFibre ∧ fits ∧ s.steer.ret = .passed then .fibre
            else if s.permits c then overRadio else last)
      ∧ (s.exch.service = .service → s.hold.active = true → s.hold.path = some .radio →
          n = if s.permits c then overRadio else last)
      ∧ (s.exch.service = .service → s.hold.active = true → s.hold.path = some .fibre → n = .fibre)
      ∧ ((steeringPass w).st.cls i).since = (if n = c.cur then c.since else s.now)
      ∧ (n ≠ c.cur → (steeringPass w).st.ev.latch.getLsbD 3 = true)
      ∧ ((steeringPass w).st.cls i).policy = c.policy
      ∧ (n = .radio ∨ n = .waiting → (steeringPass w).st.steer.demand = true
          ∧ (c.tier = 0 → (steeringPass w).st.steer.urgent = true)))
  ∧
  (∀ (s : State) (c : ClassRec),
    let byStage := match s.allow.stage with
      | .normal => True
      | .conserve => c.tier < 3
      | .reserve => c.tier < 2
      | .exhausted => if s.allow.hardCap then c.tier < 1 else c.tier < 2
    let bySupply := match s.sup.state with
      | .mains => True
      | .battery => c.tier < 3 ∧ c.permit = true
      | .batteryLow => c.tier < 2 ∧ c.permit = true
      | .critical => c.tier < 1 ∧ c.permit = true
    s.permits c = true ↔ s.exch.service = .service ∧ c.use ≠ .never ∧ s.ru.state ≠ .fault
      ∧ (c.tier = 0 ∨ (byStage ∧ bySupply)))
  ∧
  (∀ (w : Work) (k : Nat),
    let s := w.st
    let t := (steeringPass w).st
    let f := s.flow k
    let c := s.cls f.cls
    k < s.flows.length → f.cls < s.classes.length →
    let ready := s.radio.state = .up ∨ s.radio.state = .weak
    let new := (t.cls f.cls).cur
    let follow := match new with
      | .fibre => FlowState.carried .fibre | .radio => .carried .radio | .waiting => .waiting | .blocked => .blocked
    let live := f.state ≠ .free ∧ f.state ≠ .expired
    let stays := f.pinned = true ∧ c.atIdle = true ∧ new ≠ .radio ∧ ready ∧ s.permits c = true
    let pins := f.pinned = false ∧ c.atIdle = true ∧ c.cur = .radio ∧ new = .fibre ∧ f.state = .carried .radio ∧ ready
      ∧ s.permits c = true ∧ (s.now - f.lastFrame).toNat < c.gap * 1000 ∧ f.longIdle = false
    let after := if live ∧ ¬stays ∧ ¬pins then follow else f.state
    let opens := fun (p : Path) => after = .carried p ∧ f.state ≠ .carried p
    (t.flow k).state = after
      ∧ ((t.flow k).pinned = true ↔ if live then stays ∨ pins else f.pinned = true)
      ∧ (t.flow k).last = (if opens .fibre then some .fibre else if opens .radio then some .radio else f.last)
      ∧ (t.flow k).moves = (if (opens .fibre ∧ f.last = some .radio) ∨ (opens .radio ∧ f.last = some .fibre)
          then min (f.moves + 1) 65535 else f.moves))
  ∧
  (∀ w : Work,
    let s := w.st
    let t := (steeringPass w).st
    let bound : State → HeldFrame → ClassPath := fun u h => match h.flow with
      | none => (u.cls h.cls).cur
      | some i => match (u.flow i).state with
        | .carried .fibre => ClassPath.fibre | .carried .radio => .radio | .waiting => .waiting | _ => .blocked
    let leaves := fun (h : HeldFrame) => decide (bound s h = .waiting) && decide (bound t h ≠ .waiting)
    t.fwd.held = s.fwd.held.filter (fun h => !leaves h)
      ∧ ((∃ h ∈ s.fwd.held, leaves h = true ∧ bound t h = .blocked) → t.ev.latch.getLsbD 13 = true)
      ∧ (∀ p : Path, s.portReady p = false → (p = .radio → s.ru.state = .session → t.ru.state = .session) →
          let mine := fun (urgent : Bool) => (s.fwd.held.filter fun h => leaves h
              && decide (bound t h = match p with | .fibre => .fibre | .radio => .radio)
              && (decide ((s.cls h.cls).tier ≤ 1) == urgent)).map
            fun h => ({ data := h.data, flow := h.flow } : TxFrame)
          ((s.fwd.queue p).urgent.length ≤ 32 →
            (t.fwd.queue p).urgent = ((s.fwd.queue p).urgent ++ mine true).take 32)
          ∧ ((s.fwd.queue p).normal.length ≤ 32 →
            (t.fwd.queue p).normal = ((s.fwd.queue p).normal ++ mine false).take 32)
          ∧ ((s.fwd.queue p).urgent.length ≤ 32 → 32 < (s.fwd.queue p).urgent.length + (mine true).length →
              t.ev.latch.getLsbD 13 = true)
          ∧ ((s.fwd.queue p).normal.length ≤ 32 → 32 < (s.fwd.queue p).normal.length + (mine false).length →
              t.ev.latch.getLsbD 13 = true)))
  ∧
  (∀ w : Work,
    let s := w.st
    let t := (steeringPass w).st
    let used := (∃ c ∈ t.classes, c.cur = .radio ∨ c.cur = .waiting)
      ∨ ∃ f ∈ t.flows, f.state = .carried .radio ∨ f.state = .waiting
    let record : DrillRecord := {
      valid := true, outcome := some .aborted, cause := some .realUse, start := s.drill.start, limit := s.drill.limit,
      duration := s.now - s.drill.start, radio := some s.ru.state, path := some s.radio.state,
      score := if s.radio.linkOnly = true ∨ s.exch.service ≠ .service then 1000 else s.radio.score,
      measured := s.radio.measured, pathCause := s.radio.cause.cause, causeValid := s.radio.cause.valid,
      attaches := s.ru.attaches - s.drill.attaches }
    (s.drill.running = true → used → t.ev.latch.getLsbD 11 = true
      ∧ t.drill = { s.drill with running := false, pass := false, last := record })
    ∧ ((s.drill.running = false ∨ ¬used) → t.drill = s.drill))

/-- An event that changes a field of a mirror record raises that record's update count by 2; an event raises it by 2 or
leaves it. The records are the eight kept outside the tables, each class entry and each flow record. That a command is
one event, and so rewrites a record once or not at all, also where its bytes hold several control link frames, is the
model's choice (log 38). -/
def Obligations.ChangedRecordsRewritten : Prop :=
  ∀ (c : Instr) (s t : State), exec c s = .next t → s.exch.service ≠ .init → t.exch.service ≠ .init →
    let ruled := fun (a b : Half) (f g : List Field) => (f ≠ g → b = a + 2) ∧ (b = a ∨ b = a + 2)
    ruled s.counts.header t.counts.header (headerFields s) (headerFields t)
      ∧ ruled s.counts.fibre t.counts.fibre (pathFields s .fibre) (pathFields t .fibre)
      ∧ ruled s.counts.radio t.counts.radio (pathFields s .radio) (pathFields t .radio)
      ∧ ruled s.counts.allowance t.counts.allowance (allowanceFields s.allow) (allowanceFields t.allow)
      ∧ ruled s.counts.radioUnit t.counts.radioUnit (radioFields s) (radioFields t)
      ∧ ruled s.counts.supply t.counts.supply (supplyFields s.sup s.drill) (supplyFields t.sup t.drill)
      ∧ ruled s.counts.hold t.counts.hold (holdFields s.hold s.steer) (holdFields t.hold t.steer)
      ∧ ruled s.counts.forwarding t.counts.forwarding (forwardingFields s.fwd) (forwardingFields t.fwd)
      ∧ (∀ i : Nat, ruled (s.cls i).count (t.cls i).count (classFields (s.cls i)) (classFields (t.cls i)))
      ∧ (∀ i : Nat, ruled (s.flow i).count (t.flow i).count (flowFields (s.flow i)) (flowFields (t.flow i)))

/-! ## What every step keeps -/

/-- Right after power-on every property below holds. -/
def Obligations.ResetIsSound : Prop :=
  Memory.wf State.reset.mem = true ∧ State.reset.irqTrue ∧ State.reset.allow.sound ∧ State.reset.withinBounds
    ∧ State.reset.onTarget ∧ State.reset.quietOutsideService ∧ State.reset.pinsLive
    ∧ State.reset.pinsOnRadio ∧ State.reset.fibreHoldCarried ∧ State.reset.heldFramesWait ∧ State.reset.ev.irq = false

/-- The exchange memory's bytes stay in canonical form: addresses strictly rising, no entry that reads as unlisted. -/
def Obligations.MemoryStaysCanonical : Prop :=
  ∀ s t : State, step s = .next t → Memory.wf s.mem = true → Memory.wf t.mem = true

/-- Outside INIT the condition bits stay the facts they stand for, and the IRQ line stays at its level, which is
inactive in INIT. In a step outside INIT that leaves the edge masks, a condition bit that changes in a direction its
mask selects has its edge event set after the step, and a bit that neither mask selects latches none. -/
def Obligations.ConditionsAndIrqStayTrue : Prop :=
  (∀ s t : State, step s = .next t →
    (s.exch.service ≠ .init → s.condTrue) → s.irqTrue → (s.exch.service = .init → s.ev.irq = false) →
    ((t.exch.service ≠ .init → t.condTrue) ∧ t.irqTrue ∧ (t.exch.service = .init → t.ev.irq = false)))
  ∧
  (∀ s t : State, step s = .next t → s.exch.service ≠ .init → t.exch.service ≠ .init →
    t.ev.rising = s.ev.rising → t.ev.falling = s.ev.falling → ∀ k < 16,
      (s.ev.cond.getLsbD k = false → t.ev.cond.getLsbD k = true → s.ev.rising.getLsbD k = true →
        t.ev.latch.getLsbD (16 + k) = true)
      ∧ (s.ev.cond.getLsbD k = true → t.ev.cond.getLsbD k = false → s.ev.falling.getLsbD k = true →
        t.ev.latch.getLsbD (16 + k) = true)
      ∧ (s.ev.rising.getLsbD k = false → s.ev.falling.getLsbD k = false → s.ev.latch.getLsbD (16 + k) = false →
        t.ev.latch.getLsbD (16 + k) = false))

/-- The allowance meter's fields stay in agreement: live overrun also in the INIT of a warm reset, where it is kept by
the model's choice (log 45). -/
def Obligations.AllowanceStaysSound : Prop :=
  ∀ s t : State, step s = .next t → s.allow.sound → t.allow.sound

/-- Stores, pending lists, windows, penalties, fail and failure counts and the forwarding counts stay within their
bounds, and the two tables whole. A pinned flow record stays OPEN on RADIO, and, given that, the frames of the hold
buffer stay frames that wait. -/
def Obligations.StoresStayBounded : Prop :=
  ∀ s t : State, step s = .next t →
    (s.withinBounds → t.withinBounds)
      ∧ (s.pinsOnRadio → t.pinsOnRadio)
      ∧ (s.pinsOnRadio → s.heldFramesWait → t.heldFramesWait)

/-- The radio unit's target stays the one its inputs give, and outside SERVICE no drill, hold or flow comes up; a FIBRE
hold is active only while fibre is usable. Demand, where it is recomputed, is true for a class RADIO or WAITING, a flow
OPEN on RADIO or WAITING, a live flow of tier 0 while fibre is not usable, a drill that runs or a RADIO hold, and urgent
by the first and third of these at tier 0; a linger stops where demand is true, and starts where demand falls in
SERVICE, no drill having ended in the event, unless its effective value is 0; a linger that stops keeps its start time,
by the model's choice (log 43). A BACKOFF ends early where urgent demand becomes true, and where the target becomes OFF:
the unit enters IDLE and acts on the target and the link; otherwise it goes on with its timer, and the backoff value
stays. -/
def Obligations.TargetAndServiceAgree : Prop :=
  (∀ s t : State, step s = .next t → s.tables → s.onTarget → s.quietOutsideService → s.pinsLive →
    s.fibreHoldCarried → t.onTarget ∧ t.quietOutsideService ∧ t.pinsLive ∧ t.fibreHoldCarried)
  ∧
  (∀ w : Work,
    let s := w.st
    let t := (recomputeDemand w).st
    let fibreUsable := s.fibre.state = .up ∨ s.fibre.state = .weak
    let wants := fun (c : ClassRec) => c.cur = .radio ∨ c.cur = .waiting
    let tier0 := ¬fibreUsable ∧ ∃ f ∈ s.flows,
      (f.state ≠ .free ∧ f.state ≠ .expired) ∧ (s.cls f.cls).tier = 0
    let demand := (∃ c ∈ s.classes, wants c)
      ∨ (∃ f ∈ s.flows, f.state = .carried .radio ∨ f.state = .waiting) ∨ tier0
      ∨ s.drill.running = true ∨ (s.hold.active = true ∧ s.hold.path = some .radio)
    let effective := match s.sup.state with
      | .critical => 0 | .batteryLow => min s.ru.linger 60 | _ => s.ru.linger
    let falls := s.steer.demand = true ∧ ¬demand ∧ s.exch.service = .service ∧ w.drillEnded = false ∧ 0 < effective
    (t.steer.demand = true ↔ demand)
      ∧ (t.steer.urgent = true ↔ tier0 ∨ ∃ c ∈ s.classes, c.tier = 0 ∧ wants c)
      ∧ (t.ru.lingerOn = true ↔ ¬demand ∧ (s.ru.lingerOn = true ∨ falls))
      ∧ (falls → t.ru.lingerStart = s.now) ∧ (¬falls → t.ru.lingerStart = s.ru.lingerStart)
      ∧ t.ru.target = t.targetNow
      ∧ (s.ru.state = .backoff →
          let early := (s.steer.urgent = false ∧ t.steer.urgent = true) ∨ (s.ru.target ≠ .off ∧ t.ru.target = .off)
          t.ru.b = s.ru.b
            ∧ (early → { s with ru := { s.ru with target := t.ru.target } }.entersIdle t)
            ∧ (¬early → t.ru.state = .backoff ∧ t.ru.stateDue = s.ru.stateDue)))
end

