-- ==== Sys2Proof/Laws/State.lean ====
section
/-! SUPPORT. What each update of one block does to each field of the state under way, true by definition: the updated
block is the function applied to it, every other field and mark is as it was. -/

namespace Sys2Proof.Machine

variable (w : Work)

section onExch
variable (f : Exchange → Exchange)
@[simp] theorem onExch_clk : (w.onExch f).st.clk = w.st.clk := rfl
@[simp] theorem onExch_exch : (w.onExch f).st.exch = f w.st.exch := rfl
@[simp] theorem onExch_mem : (w.onExch f).st.mem = w.st.mem := rfl
@[simp] theorem onExch_counts : (w.onExch f).st.counts = w.st.counts := rfl
@[simp] theorem onExch_gens : (w.onExch f).st.gens = w.st.gens := rfl
@[simp] theorem onExch_fibre : (w.onExch f).st.fibre = w.st.fibre := rfl
@[simp] theorem onExch_radio : (w.onExch f).st.radio = w.st.radio := rfl
@[simp] theorem onExch_fin : (w.onExch f).st.fin = w.st.fin := rfl
@[simp] theorem onExch_grade : (w.onExch f).st.grade = w.st.grade := rfl
@[simp] theorem onExch_ru : (w.onExch f).st.ru = w.st.ru := rfl
@[simp] theorem onExch_steer : (w.onExch f).st.steer = w.st.steer := rfl
@[simp] theorem onExch_classes : (w.onExch f).st.classes = w.st.classes := rfl
@[simp] theorem onExch_hold : (w.onExch f).st.hold = w.st.hold := rfl
@[simp] theorem onExch_flows : (w.onExch f).st.flows = w.st.flows := rfl
@[simp] theorem onExch_fwd : (w.onExch f).st.fwd = w.st.fwd := rfl
@[simp] theorem onExch_allow : (w.onExch f).st.allow = w.st.allow := rfl
@[simp] theorem onExch_sup : (w.onExch f).st.sup = w.st.sup := rfl
@[simp] theorem onExch_drill : (w.onExch f).st.drill = w.st.drill := rfl
@[simp] theorem onExch_ev : (w.onExch f).st.ev = w.st.ev := rfl
@[simp] theorem onExch_pending : (w.onExch f).st.pending = w.st.pending := rfl
@[simp] theorem onExch_free : (w.onExch f).st.free = w.st.free := rfl
@[simp] theorem onExch_passDue : (w.onExch f).passDue = w.passDue := rfl
@[simp] theorem onExch_demandDue : (w.onExch f).demandDue = w.demandDue := rfl
@[simp] theorem onExch_drillEnded : (w.onExch f).drillEnded = w.drillEnded := rfl
@[simp] theorem onExch_touched : (w.onExch f).touched = w.touched := rfl
end onExch

section onMem
variable (f : Memory → Memory)
@[simp] theorem onMem_clk : (w.onMem f).st.clk = w.st.clk := rfl
@[simp] theorem onMem_exch : (w.onMem f).st.exch = w.st.exch := rfl
@[simp] theorem onMem_mem : (w.onMem f).st.mem = f w.st.mem := rfl
@[simp] theorem onMem_counts : (w.onMem f).st.counts = w.st.counts := rfl
@[simp] theorem onMem_gens : (w.onMem f).st.gens = w.st.gens := rfl
@[simp] theorem onMem_fibre : (w.onMem f).st.fibre = w.st.fibre := rfl
@[simp] theorem onMem_radio : (w.onMem f).st.radio = w.st.radio := rfl
@[simp] theorem onMem_fin : (w.onMem f).st.fin = w.st.fin := rfl
@[simp] theorem onMem_grade : (w.onMem f).st.grade = w.st.grade := rfl
@[simp] theorem onMem_ru : (w.onMem f).st.ru = w.st.ru := rfl
@[simp] theorem onMem_steer : (w.onMem f).st.steer = w.st.steer := rfl
@[simp] theorem onMem_classes : (w.onMem f).st.classes = w.st.classes := rfl
@[simp] theorem onMem_hold : (w.onMem f).st.hold = w.st.hold := rfl
@[simp] theorem onMem_flows : (w.onMem f).st.flows = w.st.flows := rfl
@[simp] theorem onMem_fwd : (w.onMem f).st.fwd = w.st.fwd := rfl
@[simp] theorem onMem_allow : (w.onMem f).st.allow = w.st.allow := rfl
@[simp] theorem onMem_sup : (w.onMem f).st.sup = w.st.sup := rfl
@[simp] theorem onMem_drill : (w.onMem f).st.drill = w.st.drill := rfl
@[simp] theorem onMem_ev : (w.onMem f).st.ev = w.st.ev := rfl
@[simp] theorem onMem_pending : (w.onMem f).st.pending = w.st.pending := rfl
@[simp] theorem onMem_free : (w.onMem f).st.free = w.st.free := rfl
@[simp] theorem onMem_passDue : (w.onMem f).passDue = w.passDue := rfl
@[simp] theorem onMem_demandDue : (w.onMem f).demandDue = w.demandDue := rfl
@[simp] theorem onMem_drillEnded : (w.onMem f).drillEnded = w.drillEnded := rfl
@[simp] theorem onMem_touched : (w.onMem f).touched = w.touched := rfl
end onMem

section onGens
variable (f : Generators → Generators)
@[simp] theorem onGens_clk : (w.onGens f).st.clk = w.st.clk := rfl
@[simp] theorem onGens_exch : (w.onGens f).st.exch = w.st.exch := rfl
@[simp] theorem onGens_mem : (w.onGens f).st.mem = w.st.mem := rfl
@[simp] theorem onGens_counts : (w.onGens f).st.counts = w.st.counts := rfl
@[simp] theorem onGens_gens : (w.onGens f).st.gens = f w.st.gens := rfl
@[simp] theorem onGens_fibre : (w.onGens f).st.fibre = w.st.fibre := rfl
@[simp] theorem onGens_radio : (w.onGens f).st.radio = w.st.radio := rfl
@[simp] theorem onGens_fin : (w.onGens f).st.fin = w.st.fin := rfl
@[simp] theorem onGens_grade : (w.onGens f).st.grade = w.st.grade := rfl
@[simp] theorem onGens_ru : (w.onGens f).st.ru = w.st.ru := rfl
@[simp] theorem onGens_steer : (w.onGens f).st.steer = w.st.steer := rfl
@[simp] theorem onGens_classes : (w.onGens f).st.classes = w.st.classes := rfl
@[simp] theorem onGens_hold : (w.onGens f).st.hold = w.st.hold := rfl
@[simp] theorem onGens_flows : (w.onGens f).st.flows = w.st.flows := rfl
@[simp] theorem onGens_fwd : (w.onGens f).st.fwd = w.st.fwd := rfl
@[simp] theorem onGens_allow : (w.onGens f).st.allow = w.st.allow := rfl
@[simp] theorem onGens_sup : (w.onGens f).st.sup = w.st.sup := rfl
@[simp] theorem onGens_drill : (w.onGens f).st.drill = w.st.drill := rfl
@[simp] theorem onGens_ev : (w.onGens f).st.ev = w.st.ev := rfl
@[simp] theorem onGens_pending : (w.onGens f).st.pending = w.st.pending := rfl
@[simp] theorem onGens_free : (w.onGens f).st.free = w.st.free := rfl
@[simp] theorem onGens_passDue : (w.onGens f).passDue = w.passDue := rfl
@[simp] theorem onGens_demandDue : (w.onGens f).demandDue = w.demandDue := rfl
@[simp] theorem onGens_drillEnded : (w.onGens f).drillEnded = w.drillEnded := rfl
@[simp] theorem onGens_touched : (w.onGens f).touched = w.touched := rfl
end onGens

section onFin
variable (f : FibreIn → FibreIn)
@[simp] theorem onFin_clk : (w.onFin f).st.clk = w.st.clk := rfl
@[simp] theorem onFin_exch : (w.onFin f).st.exch = w.st.exch := rfl
@[simp] theorem onFin_mem : (w.onFin f).st.mem = w.st.mem := rfl
@[simp] theorem onFin_counts : (w.onFin f).st.counts = w.st.counts := rfl
@[simp] theorem onFin_gens : (w.onFin f).st.gens = w.st.gens := rfl
@[simp] theorem onFin_fibre : (w.onFin f).st.fibre = w.st.fibre := rfl
@[simp] theorem onFin_radio : (w.onFin f).st.radio = w.st.radio := rfl
@[simp] theorem onFin_fin : (w.onFin f).st.fin = f w.st.fin := rfl
@[simp] theorem onFin_grade : (w.onFin f).st.grade = w.st.grade := rfl
@[simp] theorem onFin_ru : (w.onFin f).st.ru = w.st.ru := rfl
@[simp] theorem onFin_steer : (w.onFin f).st.steer = w.st.steer := rfl
@[simp] theorem onFin_classes : (w.onFin f).st.classes = w.st.classes := rfl
@[simp] theorem onFin_hold : (w.onFin f).st.hold = w.st.hold := rfl
@[simp] theorem onFin_flows : (w.onFin f).st.flows = w.st.flows := rfl
@[simp] theorem onFin_fwd : (w.onFin f).st.fwd = w.st.fwd := rfl
@[simp] theorem onFin_allow : (w.onFin f).st.allow = w.st.allow := rfl
@[simp] theorem onFin_sup : (w.onFin f).st.sup = w.st.sup := rfl
@[simp] theorem onFin_drill : (w.onFin f).st.drill = w.st.drill := rfl
@[simp] theorem onFin_ev : (w.onFin f).st.ev = w.st.ev := rfl
@[simp] theorem onFin_pending : (w.onFin f).st.pending = w.st.pending := rfl
@[simp] theorem onFin_free : (w.onFin f).st.free = w.st.free := rfl
@[simp] theorem onFin_passDue : (w.onFin f).passDue = w.passDue := rfl
@[simp] theorem onFin_demandDue : (w.onFin f).demandDue = w.demandDue := rfl
@[simp] theorem onFin_drillEnded : (w.onFin f).drillEnded = w.drillEnded := rfl
@[simp] theorem onFin_touched : (w.onFin f).touched = w.touched := rfl
end onFin

section onGrade
variable (f : GradeState → GradeState)
@[simp] theorem onGrade_clk : (w.onGrade f).st.clk = w.st.clk := rfl
@[simp] theorem onGrade_exch : (w.onGrade f).st.exch = w.st.exch := rfl
@[simp] theorem onGrade_mem : (w.onGrade f).st.mem = w.st.mem := rfl
@[simp] theorem onGrade_counts : (w.onGrade f).st.counts = w.st.counts := rfl
@[simp] theorem onGrade_gens : (w.onGrade f).st.gens = w.st.gens := rfl
@[simp] theorem onGrade_fibre : (w.onGrade f).st.fibre = w.st.fibre := rfl
@[simp] theorem onGrade_radio : (w.onGrade f).st.radio = w.st.radio := rfl
@[simp] theorem onGrade_fin : (w.onGrade f).st.fin = w.st.fin := rfl
@[simp] theorem onGrade_grade : (w.onGrade f).st.grade = f w.st.grade := rfl
@[simp] theorem onGrade_ru : (w.onGrade f).st.ru = w.st.ru := rfl
@[simp] theorem onGrade_steer : (w.onGrade f).st.steer = w.st.steer := rfl
@[simp] theorem onGrade_classes : (w.onGrade f).st.classes = w.st.classes := rfl
@[simp] theorem onGrade_hold : (w.onGrade f).st.hold = w.st.hold := rfl
@[simp] theorem onGrade_flows : (w.onGrade f).st.flows = w.st.flows := rfl
@[simp] theorem onGrade_fwd : (w.onGrade f).st.fwd = w.st.fwd := rfl
@[simp] theorem onGrade_allow : (w.onGrade f).st.allow = w.st.allow := rfl
@[simp] theorem onGrade_sup : (w.onGrade f).st.sup = w.st.sup := rfl
@[simp] theorem onGrade_drill : (w.onGrade f).st.drill = w.st.drill := rfl
@[simp] theorem onGrade_ev : (w.onGrade f).st.ev = w.st.ev := rfl
@[simp] theorem onGrade_pending : (w.onGrade f).st.pending = w.st.pending := rfl
@[simp] theorem onGrade_free : (w.onGrade f).st.free = w.st.free := rfl
@[simp] theorem onGrade_passDue : (w.onGrade f).passDue = w.passDue := rfl
@[simp] theorem onGrade_demandDue : (w.onGrade f).demandDue = w.demandDue := rfl
@[simp] theorem onGrade_drillEnded : (w.onGrade f).drillEnded = w.drillEnded := rfl
@[simp] theorem onGrade_touched : (w.onGrade f).touched = w.touched := rfl
end onGrade

section onRu
variable (f : RadioUnit → RadioUnit)
@[simp] theorem onRu_clk : (w.onRu f).st.clk = w.st.clk := rfl
@[simp] theorem onRu_exch : (w.onRu f).st.exch = w.st.exch := rfl
@[simp] theorem onRu_mem : (w.onRu f).st.mem = w.st.mem := rfl
@[simp] theorem onRu_counts : (w.onRu f).st.counts = w.st.counts := rfl
@[simp] theorem onRu_gens : (w.onRu f).st.gens = w.st.gens := rfl
@[simp] theorem onRu_fibre : (w.onRu f).st.fibre = w.st.fibre := rfl
@[simp] theorem onRu_radio : (w.onRu f).st.radio = w.st.radio := rfl
@[simp] theorem onRu_fin : (w.onRu f).st.fin = w.st.fin := rfl
@[simp] theorem onRu_grade : (w.onRu f).st.grade = w.st.grade := rfl
@[simp] theorem onRu_ru : (w.onRu f).st.ru = f w.st.ru := rfl
@[simp] theorem onRu_steer : (w.onRu f).st.steer = w.st.steer := rfl
@[simp] theorem onRu_classes : (w.onRu f).st.classes = w.st.classes := rfl
@[simp] theorem onRu_hold : (w.onRu f).st.hold = w.st.hold := rfl
@[simp] theorem onRu_flows : (w.onRu f).st.flows = w.st.flows := rfl
@[simp] theorem onRu_fwd : (w.onRu f).st.fwd = w.st.fwd := rfl
@[simp] theorem onRu_allow : (w.onRu f).st.allow = w.st.allow := rfl
@[simp] theorem onRu_sup : (w.onRu f).st.sup = w.st.sup := rfl
@[simp] theorem onRu_drill : (w.onRu f).st.drill = w.st.drill := rfl
@[simp] theorem onRu_ev : (w.onRu f).st.ev = w.st.ev := rfl
@[simp] theorem onRu_pending : (w.onRu f).st.pending = w.st.pending := rfl
@[simp] theorem onRu_free : (w.onRu f).st.free = w.st.free := rfl
@[simp] theorem onRu_passDue : (w.onRu f).passDue = w.passDue := rfl
@[simp] theorem onRu_demandDue : (w.onRu f).demandDue = w.demandDue := rfl
@[simp] theorem onRu_drillEnded : (w.onRu f).drillEnded = w.drillEnded := rfl
@[simp] theorem onRu_touched : (w.onRu f).touched = w.touched := rfl
end onRu

section onSteer
variable (f : Steering → Steering)
@[simp] theorem onSteer_clk : (w.onSteer f).st.clk = w.st.clk := rfl
@[simp] theorem onSteer_exch : (w.onSteer f).st.exch = w.st.exch := rfl
@[simp] theorem onSteer_mem : (w.onSteer f).st.mem = w.st.mem := rfl
@[simp] theorem onSteer_counts : (w.onSteer f).st.counts = w.st.counts := rfl
@[simp] theorem onSteer_gens : (w.onSteer f).st.gens = w.st.gens := rfl
@[simp] theorem onSteer_fibre : (w.onSteer f).st.fibre = w.st.fibre := rfl
@[simp] theorem onSteer_radio : (w.onSteer f).st.radio = w.st.radio := rfl
@[simp] theorem onSteer_fin : (w.onSteer f).st.fin = w.st.fin := rfl
@[simp] theorem onSteer_grade : (w.onSteer f).st.grade = w.st.grade := rfl
@[simp] theorem onSteer_ru : (w.onSteer f).st.ru = w.st.ru := rfl
@[simp] theorem onSteer_steer : (w.onSteer f).st.steer = f w.st.steer := rfl
@[simp] theorem onSteer_classes : (w.onSteer f).st.classes = w.st.classes := rfl
@[simp] theorem onSteer_hold : (w.onSteer f).st.hold = w.st.hold := rfl
@[simp] theorem onSteer_flows : (w.onSteer f).st.flows = w.st.flows := rfl
@[simp] theorem onSteer_fwd : (w.onSteer f).st.fwd = w.st.fwd := rfl
@[simp] theorem onSteer_allow : (w.onSteer f).st.allow = w.st.allow := rfl
@[simp] theorem onSteer_sup : (w.onSteer f).st.sup = w.st.sup := rfl
@[simp] theorem onSteer_drill : (w.onSteer f).st.drill = w.st.drill := rfl
@[simp] theorem onSteer_ev : (w.onSteer f).st.ev = w.st.ev := rfl
@[simp] theorem onSteer_pending : (w.onSteer f).st.pending = w.st.pending := rfl
@[simp] theorem onSteer_free : (w.onSteer f).st.free = w.st.free := rfl
@[simp] theorem onSteer_passDue : (w.onSteer f).passDue = w.passDue := rfl
@[simp] theorem onSteer_demandDue : (w.onSteer f).demandDue = w.demandDue := rfl
@[simp] theorem onSteer_drillEnded : (w.onSteer f).drillEnded = w.drillEnded := rfl
@[simp] theorem onSteer_touched : (w.onSteer f).touched = w.touched := rfl
end onSteer

section onClasses
variable (f : List ClassRec → List ClassRec)
@[simp] theorem onClasses_clk : (w.onClasses f).st.clk = w.st.clk := rfl
@[simp] theorem onClasses_exch : (w.onClasses f).st.exch = w.st.exch := rfl
@[simp] theorem onClasses_mem : (w.onClasses f).st.mem = w.st.mem := rfl
@[simp] theorem onClasses_counts : (w.onClasses f).st.counts = w.st.counts := rfl
@[simp] theorem onClasses_gens : (w.onClasses f).st.gens = w.st.gens := rfl
@[simp] theorem onClasses_fibre : (w.onClasses f).st.fibre = w.st.fibre := rfl
@[simp] theorem onClasses_radio : (w.onClasses f).st.radio = w.st.radio := rfl
@[simp] theorem onClasses_fin : (w.onClasses f).st.fin = w.st.fin := rfl
@[simp] theorem onClasses_grade : (w.onClasses f).st.grade = w.st.grade := rfl
@[simp] theorem onClasses_ru : (w.onClasses f).st.ru = w.st.ru := rfl
@[simp] theorem onClasses_steer : (w.onClasses f).st.steer = w.st.steer := rfl
@[simp] theorem onClasses_classes : (w.onClasses f).st.classes = f w.st.classes := rfl
@[simp] theorem onClasses_hold : (w.onClasses f).st.hold = w.st.hold := rfl
@[simp] theorem onClasses_flows : (w.onClasses f).st.flows = w.st.flows := rfl
@[simp] theorem onClasses_fwd : (w.onClasses f).st.fwd = w.st.fwd := rfl
@[simp] theorem onClasses_allow : (w.onClasses f).st.allow = w.st.allow := rfl
@[simp] theorem onClasses_sup : (w.onClasses f).st.sup = w.st.sup := rfl
@[simp] theorem onClasses_drill : (w.onClasses f).st.drill = w.st.drill := rfl
@[simp] theorem onClasses_ev : (w.onClasses f).st.ev = w.st.ev := rfl
@[simp] theorem onClasses_pending : (w.onClasses f).st.pending = w.st.pending := rfl
@[simp] theorem onClasses_free : (w.onClasses f).st.free = w.st.free := rfl
@[simp] theorem onClasses_passDue : (w.onClasses f).passDue = w.passDue := rfl
@[simp] theorem onClasses_demandDue : (w.onClasses f).demandDue = w.demandDue := rfl
@[simp] theorem onClasses_drillEnded : (w.onClasses f).drillEnded = w.drillEnded := rfl
@[simp] theorem onClasses_touched : (w.onClasses f).touched = w.touched := rfl
end onClasses

section onHold
variable (f : Hold → Hold)
@[simp] theorem onHold_clk : (w.onHold f).st.clk = w.st.clk := rfl
@[simp] theorem onHold_exch : (w.onHold f).st.exch = w.st.exch := rfl
@[simp] theorem onHold_mem : (w.onHold f).st.mem = w.st.mem := rfl
@[simp] theorem onHold_counts : (w.onHold f).st.counts = w.st.counts := rfl
@[simp] theorem onHold_gens : (w.onHold f).st.gens = w.st.gens := rfl
@[simp] theorem onHold_fibre : (w.onHold f).st.fibre = w.st.fibre := rfl
@[simp] theorem onHold_radio : (w.onHold f).st.radio = w.st.radio := rfl
@[simp] theorem onHold_fin : (w.onHold f).st.fin = w.st.fin := rfl
@[simp] theorem onHold_grade : (w.onHold f).st.grade = w.st.grade := rfl
@[simp] theorem onHold_ru : (w.onHold f).st.ru = w.st.ru := rfl
@[simp] theorem onHold_steer : (w.onHold f).st.steer = w.st.steer := rfl
@[simp] theorem onHold_classes : (w.onHold f).st.classes = w.st.classes := rfl
@[simp] theorem onHold_hold : (w.onHold f).st.hold = f w.st.hold := rfl
@[simp] theorem onHold_flows : (w.onHold f).st.flows = w.st.flows := rfl
@[simp] theorem onHold_fwd : (w.onHold f).st.fwd = w.st.fwd := rfl
@[simp] theorem onHold_allow : (w.onHold f).st.allow = w.st.allow := rfl
@[simp] theorem onHold_sup : (w.onHold f).st.sup = w.st.sup := rfl
@[simp] theorem onHold_drill : (w.onHold f).st.drill = w.st.drill := rfl
@[simp] theorem onHold_ev : (w.onHold f).st.ev = w.st.ev := rfl
@[simp] theorem onHold_pending : (w.onHold f).st.pending = w.st.pending := rfl
@[simp] theorem onHold_free : (w.onHold f).st.free = w.st.free := rfl
@[simp] theorem onHold_passDue : (w.onHold f).passDue = w.passDue := rfl
@[simp] theorem onHold_demandDue : (w.onHold f).demandDue = w.demandDue := rfl
@[simp] theorem onHold_drillEnded : (w.onHold f).drillEnded = w.drillEnded := rfl
@[simp] theorem onHold_touched : (w.onHold f).touched = w.touched := rfl
end onHold

section onFlows
variable (f : List FlowRec → List FlowRec)
@[simp] theorem onFlows_clk : (w.onFlows f).st.clk = w.st.clk := rfl
@[simp] theorem onFlows_exch : (w.onFlows f).st.exch = w.st.exch := rfl
@[simp] theorem onFlows_mem : (w.onFlows f).st.mem = w.st.mem := rfl
@[simp] theorem onFlows_counts : (w.onFlows f).st.counts = w.st.counts := rfl
@[simp] theorem onFlows_gens : (w.onFlows f).st.gens = w.st.gens := rfl
@[simp] theorem onFlows_fibre : (w.onFlows f).st.fibre = w.st.fibre := rfl
@[simp] theorem onFlows_radio : (w.onFlows f).st.radio = w.st.radio := rfl
@[simp] theorem onFlows_fin : (w.onFlows f).st.fin = w.st.fin := rfl
@[simp] theorem onFlows_grade : (w.onFlows f).st.grade = w.st.grade := rfl
@[simp] theorem onFlows_ru : (w.onFlows f).st.ru = w.st.ru := rfl
@[simp] theorem onFlows_steer : (w.onFlows f).st.steer = w.st.steer := rfl
@[simp] theorem onFlows_classes : (w.onFlows f).st.classes = w.st.classes := rfl
@[simp] theorem onFlows_hold : (w.onFlows f).st.hold = w.st.hold := rfl
@[simp] theorem onFlows_flows : (w.onFlows f).st.flows = f w.st.flows := rfl
@[simp] theorem onFlows_fwd : (w.onFlows f).st.fwd = w.st.fwd := rfl
@[simp] theorem onFlows_allow : (w.onFlows f).st.allow = w.st.allow := rfl
@[simp] theorem onFlows_sup : (w.onFlows f).st.sup = w.st.sup := rfl
@[simp] theorem onFlows_drill : (w.onFlows f).st.drill = w.st.drill := rfl
@[simp] theorem onFlows_ev : (w.onFlows f).st.ev = w.st.ev := rfl
@[simp] theorem onFlows_pending : (w.onFlows f).st.pending = w.st.pending := rfl
@[simp] theorem onFlows_free : (w.onFlows f).st.free = w.st.free := rfl
@[simp] theorem onFlows_passDue : (w.onFlows f).passDue = w.passDue := rfl
@[simp] theorem onFlows_demandDue : (w.onFlows f).demandDue = w.demandDue := rfl
@[simp] theorem onFlows_drillEnded : (w.onFlows f).drillEnded = w.drillEnded := rfl
@[simp] theorem onFlows_touched : (w.onFlows f).touched = w.touched := rfl
end onFlows

section onFwd
variable (f : Forwarding → Forwarding)
@[simp] theorem onFwd_clk : (w.onFwd f).st.clk = w.st.clk := rfl
@[simp] theorem onFwd_exch : (w.onFwd f).st.exch = w.st.exch := rfl
@[simp] theorem onFwd_mem : (w.onFwd f).st.mem = w.st.mem := rfl
@[simp] theorem onFwd_counts : (w.onFwd f).st.counts = w.st.counts := rfl
@[simp] theorem onFwd_gens : (w.onFwd f).st.gens = w.st.gens := rfl
@[simp] theorem onFwd_fibre : (w.onFwd f).st.fibre = w.st.fibre := rfl
@[simp] theorem onFwd_radio : (w.onFwd f).st.radio = w.st.radio := rfl
@[simp] theorem onFwd_fin : (w.onFwd f).st.fin = w.st.fin := rfl
@[simp] theorem onFwd_grade : (w.onFwd f).st.grade = w.st.grade := rfl
@[simp] theorem onFwd_ru : (w.onFwd f).st.ru = w.st.ru := rfl
@[simp] theorem onFwd_steer : (w.onFwd f).st.steer = w.st.steer := rfl
@[simp] theorem onFwd_classes : (w.onFwd f).st.classes = w.st.classes := rfl
@[simp] theorem onFwd_hold : (w.onFwd f).st.hold = w.st.hold := rfl
@[simp] theorem onFwd_flows : (w.onFwd f).st.flows = w.st.flows := rfl
@[simp] theorem onFwd_fwd : (w.onFwd f).st.fwd = f w.st.fwd := rfl
@[simp] theorem onFwd_allow : (w.onFwd f).st.allow = w.st.allow := rfl
@[simp] theorem onFwd_sup : (w.onFwd f).st.sup = w.st.sup := rfl
@[simp] theorem onFwd_drill : (w.onFwd f).st.drill = w.st.drill := rfl
@[simp] theorem onFwd_ev : (w.onFwd f).st.ev = w.st.ev := rfl
@[simp] theorem onFwd_pending : (w.onFwd f).st.pending = w.st.pending := rfl
@[simp] theorem onFwd_free : (w.onFwd f).st.free = w.st.free := rfl
@[simp] theorem onFwd_passDue : (w.onFwd f).passDue = w.passDue := rfl
@[simp] theorem onFwd_demandDue : (w.onFwd f).demandDue = w.demandDue := rfl
@[simp] theorem onFwd_drillEnded : (w.onFwd f).drillEnded = w.drillEnded := rfl
@[simp] theorem onFwd_touched : (w.onFwd f).touched = w.touched := rfl
end onFwd

section onAllow
variable (f : Allowance → Allowance)
@[simp] theorem onAllow_clk : (w.onAllow f).st.clk = w.st.clk := rfl
@[simp] theorem onAllow_exch : (w.onAllow f).st.exch = w.st.exch := rfl
@[simp] theorem onAllow_mem : (w.onAllow f).st.mem = w.st.mem := rfl
@[simp] theorem onAllow_counts : (w.onAllow f).st.counts = w.st.counts := rfl
@[simp] theorem onAllow_gens : (w.onAllow f).st.gens = w.st.gens := rfl
@[simp] theorem onAllow_fibre : (w.onAllow f).st.fibre = w.st.fibre := rfl
@[simp] theorem onAllow_radio : (w.onAllow f).st.radio = w.st.radio := rfl
@[simp] theorem onAllow_fin : (w.onAllow f).st.fin = w.st.fin := rfl
@[simp] theorem onAllow_grade : (w.onAllow f).st.grade = w.st.grade := rfl
@[simp] theorem onAllow_ru : (w.onAllow f).st.ru = w.st.ru := rfl
@[simp] theorem onAllow_steer : (w.onAllow f).st.steer = w.st.steer := rfl
@[simp] theorem onAllow_classes : (w.onAllow f).st.classes = w.st.classes := rfl
@[simp] theorem onAllow_hold : (w.onAllow f).st.hold = w.st.hold := rfl
@[simp] theorem onAllow_flows : (w.onAllow f).st.flows = w.st.flows := rfl
@[simp] theorem onAllow_fwd : (w.onAllow f).st.fwd = w.st.fwd := rfl
@[simp] theorem onAllow_allow : (w.onAllow f).st.allow = f w.st.allow := rfl
@[simp] theorem onAllow_sup : (w.onAllow f).st.sup = w.st.sup := rfl
@[simp] theorem onAllow_drill : (w.onAllow f).st.drill = w.st.drill := rfl
@[simp] theorem onAllow_ev : (w.onAllow f).st.ev = w.st.ev := rfl
@[simp] theorem onAllow_pending : (w.onAllow f).st.pending = w.st.pending := rfl
@[simp] theorem onAllow_free : (w.onAllow f).st.free = w.st.free := rfl
@[simp] theorem onAllow_passDue : (w.onAllow f).passDue = w.passDue := rfl
@[simp] theorem onAllow_demandDue : (w.onAllow f).demandDue = w.demandDue := rfl
@[simp] theorem onAllow_drillEnded : (w.onAllow f).drillEnded = w.drillEnded := rfl
@[simp] theorem onAllow_touched : (w.onAllow f).touched = w.touched := rfl
end onAllow

section onSup
variable (f : SupplyMonitor → SupplyMonitor)
@[simp] theorem onSup_clk : (w.onSup f).st.clk = w.st.clk := rfl
@[simp] theorem onSup_exch : (w.onSup f).st.exch = w.st.exch := rfl
@[simp] theorem onSup_mem : (w.onSup f).st.mem = w.st.mem := rfl
@[simp] theorem onSup_counts : (w.onSup f).st.counts = w.st.counts := rfl
@[simp] theorem onSup_gens : (w.onSup f).st.gens = w.st.gens := rfl
@[simp] theorem onSup_fibre : (w.onSup f).st.fibre = w.st.fibre := rfl
@[simp] theorem onSup_radio : (w.onSup f).st.radio = w.st.radio := rfl
@[simp] theorem onSup_fin : (w.onSup f).st.fin = w.st.fin := rfl
@[simp] theorem onSup_grade : (w.onSup f).st.grade = w.st.grade := rfl
@[simp] theorem onSup_ru : (w.onSup f).st.ru = w.st.ru := rfl
@[simp] theorem onSup_steer : (w.onSup f).st.steer = w.st.steer := rfl
@[simp] theorem onSup_classes : (w.onSup f).st.classes = w.st.classes := rfl
@[simp] theorem onSup_hold : (w.onSup f).st.hold = w.st.hold := rfl
@[simp] theorem onSup_flows : (w.onSup f).st.flows = w.st.flows := rfl
@[simp] theorem onSup_fwd : (w.onSup f).st.fwd = w.st.fwd := rfl
@[simp] theorem onSup_allow : (w.onSup f).st.allow = w.st.allow := rfl
@[simp] theorem onSup_sup : (w.onSup f).st.sup = f w.st.sup := rfl
@[simp] theorem onSup_drill : (w.onSup f).st.drill = w.st.drill := rfl
@[simp] theorem onSup_ev : (w.onSup f).st.ev = w.st.ev := rfl
@[simp] theorem onSup_pending : (w.onSup f).st.pending = w.st.pending := rfl
@[simp] theorem onSup_free : (w.onSup f).st.free = w.st.free := rfl
@[simp] theorem onSup_passDue : (w.onSup f).passDue = w.passDue := rfl
@[simp] theorem onSup_demandDue : (w.onSup f).demandDue = w.demandDue := rfl
@[simp] theorem onSup_drillEnded : (w.onSup f).drillEnded = w.drillEnded := rfl
@[simp] theorem onSup_touched : (w.onSup f).touched = w.touched := rfl
end onSup

section onDrill
variable (f : Drill → Drill)
@[simp] theorem onDrill_clk : (w.onDrill f).st.clk = w.st.clk := rfl
@[simp] theorem onDrill_exch : (w.onDrill f).st.exch = w.st.exch := rfl
@[simp] theorem onDrill_mem : (w.onDrill f).st.mem = w.st.mem := rfl
@[simp] theorem onDrill_counts : (w.onDrill f).st.counts = w.st.counts := rfl
@[simp] theorem onDrill_gens : (w.onDrill f).st.gens = w.st.gens := rfl
@[simp] theorem onDrill_fibre : (w.onDrill f).st.fibre = w.st.fibre := rfl
@[simp] theorem onDrill_radio : (w.onDrill f).st.radio = w.st.radio := rfl
@[simp] theorem onDrill_fin : (w.onDrill f).st.fin = w.st.fin := rfl
@[simp] theorem onDrill_grade : (w.onDrill f).st.grade = w.st.grade := rfl
@[simp] theorem onDrill_ru : (w.onDrill f).st.ru = w.st.ru := rfl
@[simp] theorem onDrill_steer : (w.onDrill f).st.steer = w.st.steer := rfl
@[simp] theorem onDrill_classes : (w.onDrill f).st.classes = w.st.classes := rfl
@[simp] theorem onDrill_hold : (w.onDrill f).st.hold = w.st.hold := rfl
@[simp] theorem onDrill_flows : (w.onDrill f).st.flows = w.st.flows := rfl
@[simp] theorem onDrill_fwd : (w.onDrill f).st.fwd = w.st.fwd := rfl
@[simp] theorem onDrill_allow : (w.onDrill f).st.allow = w.st.allow := rfl
@[simp] theorem onDrill_sup : (w.onDrill f).st.sup = w.st.sup := rfl
@[simp] theorem onDrill_drill : (w.onDrill f).st.drill = f w.st.drill := rfl
@[simp] theorem onDrill_ev : (w.onDrill f).st.ev = w.st.ev := rfl
@[simp] theorem onDrill_pending : (w.onDrill f).st.pending = w.st.pending := rfl
@[simp] theorem onDrill_free : (w.onDrill f).st.free = w.st.free := rfl
@[simp] theorem onDrill_passDue : (w.onDrill f).passDue = w.passDue := rfl
@[simp] theorem onDrill_demandDue : (w.onDrill f).demandDue = w.demandDue := rfl
@[simp] theorem onDrill_drillEnded : (w.onDrill f).drillEnded = w.drillEnded := rfl
@[simp] theorem onDrill_touched : (w.onDrill f).touched = w.touched := rfl
end onDrill

section onEv
variable (f : EventUnit → EventUnit)
@[simp] theorem onEv_clk : (w.onEv f).st.clk = w.st.clk := rfl
@[simp] theorem onEv_exch : (w.onEv f).st.exch = w.st.exch := rfl
@[simp] theorem onEv_mem : (w.onEv f).st.mem = w.st.mem := rfl
@[simp] theorem onEv_counts : (w.onEv f).st.counts = w.st.counts := rfl
@[simp] theorem onEv_gens : (w.onEv f).st.gens = w.st.gens := rfl
@[simp] theorem onEv_fibre : (w.onEv f).st.fibre = w.st.fibre := rfl
@[simp] theorem onEv_radio : (w.onEv f).st.radio = w.st.radio := rfl
@[simp] theorem onEv_fin : (w.onEv f).st.fin = w.st.fin := rfl
@[simp] theorem onEv_grade : (w.onEv f).st.grade = w.st.grade := rfl
@[simp] theorem onEv_ru : (w.onEv f).st.ru = w.st.ru := rfl
@[simp] theorem onEv_steer : (w.onEv f).st.steer = w.st.steer := rfl
@[simp] theorem onEv_classes : (w.onEv f).st.classes = w.st.classes := rfl
@[simp] theorem onEv_hold : (w.onEv f).st.hold = w.st.hold := rfl
@[simp] theorem onEv_flows : (w.onEv f).st.flows = w.st.flows := rfl
@[simp] theorem onEv_fwd : (w.onEv f).st.fwd = w.st.fwd := rfl
@[simp] theorem onEv_allow : (w.onEv f).st.allow = w.st.allow := rfl
@[simp] theorem onEv_sup : (w.onEv f).st.sup = w.st.sup := rfl
@[simp] theorem onEv_drill : (w.onEv f).st.drill = w.st.drill := rfl
@[simp] theorem onEv_ev : (w.onEv f).st.ev = f w.st.ev := rfl
@[simp] theorem onEv_pending : (w.onEv f).st.pending = w.st.pending := rfl
@[simp] theorem onEv_free : (w.onEv f).st.free = w.st.free := rfl
@[simp] theorem onEv_passDue : (w.onEv f).passDue = w.passDue := rfl
@[simp] theorem onEv_demandDue : (w.onEv f).demandDue = w.demandDue := rfl
@[simp] theorem onEv_drillEnded : (w.onEv f).drillEnded = w.drillEnded := rfl
@[simp] theorem onEv_touched : (w.onEv f).touched = w.touched := rfl
end onEv

section onPath_fibre
variable (f : PathRec → PathRec)
@[simp] theorem onPath_fibre_clk : (w.onPath .fibre f).st.clk = w.st.clk := rfl
@[simp] theorem onPath_fibre_exch : (w.onPath .fibre f).st.exch = w.st.exch := rfl
@[simp] theorem onPath_fibre_mem : (w.onPath .fibre f).st.mem = w.st.mem := rfl
@[simp] theorem onPath_fibre_counts : (w.onPath .fibre f).st.counts = w.st.counts := rfl
@[simp] theorem onPath_fibre_gens : (w.onPath .fibre f).st.gens = w.st.gens := rfl
@[simp] theorem onPath_fibre_fibre : (w.onPath .fibre f).st.fibre = f w.st.fibre := rfl
@[simp] theorem onPath_fibre_radio : (w.onPath .fibre f).st.radio = w.st.radio := rfl
@[simp] theorem onPath_fibre_fin : (w.onPath .fibre f).st.fin = w.st.fin := rfl
@[simp] theorem onPath_fibre_grade : (w.onPath .fibre f).st.grade = w.st.grade := rfl
@[simp] theorem onPath_fibre_ru : (w.onPath .fibre f).st.ru = w.st.ru := rfl
@[simp] theorem onPath_fibre_steer : (w.onPath .fibre f).st.steer = w.st.steer := rfl
@[simp] theorem onPath_fibre_classes : (w.onPath .fibre f).st.classes = w.st.classes := rfl
@[simp] theorem onPath_fibre_hold : (w.onPath .fibre f).st.hold = w.st.hold := rfl
@[simp] theorem onPath_fibre_flows : (w.onPath .fibre f).st.flows = w.st.flows := rfl
@[simp] theorem onPath_fibre_fwd : (w.onPath .fibre f).st.fwd = w.st.fwd := rfl
@[simp] theorem onPath_fibre_allow : (w.onPath .fibre f).st.allow = w.st.allow := rfl
@[simp] theorem onPath_fibre_sup : (w.onPath .fibre f).st.sup = w.st.sup := rfl
@[simp] theorem onPath_fibre_drill : (w.onPath .fibre f).st.drill = w.st.drill := rfl
@[simp] theorem onPath_fibre_ev : (w.onPath .fibre f).st.ev = w.st.ev := rfl
@[simp] theorem onPath_fibre_pending : (w.onPath .fibre f).st.pending = w.st.pending := rfl
@[simp] theorem onPath_fibre_free : (w.onPath .fibre f).st.free = w.st.free := rfl
@[simp] theorem onPath_fibre_passDue : (w.onPath .fibre f).passDue = w.passDue := rfl
@[simp] theorem onPath_fibre_demandDue : (w.onPath .fibre f).demandDue = w.demandDue := rfl
@[simp] theorem onPath_fibre_drillEnded : (w.onPath .fibre f).drillEnded = w.drillEnded := rfl
@[simp] theorem onPath_fibre_touched : (w.onPath .fibre f).touched = w.touched := rfl
end onPath_fibre

section onPath_radio
variable (f : PathRec → PathRec)
@[simp] theorem onPath_radio_clk : (w.onPath .radio f).st.clk = w.st.clk := rfl
@[simp] theorem onPath_radio_exch : (w.onPath .radio f).st.exch = w.st.exch := rfl
@[simp] theorem onPath_radio_mem : (w.onPath .radio f).st.mem = w.st.mem := rfl
@[simp] theorem onPath_radio_counts : (w.onPath .radio f).st.counts = w.st.counts := rfl
@[simp] theorem onPath_radio_gens : (w.onPath .radio f).st.gens = w.st.gens := rfl
@[simp] theorem onPath_radio_fibre : (w.onPath .radio f).st.fibre = w.st.fibre := rfl
@[simp] theorem onPath_radio_radio : (w.onPath .radio f).st.radio = f w.st.radio := rfl
@[simp] theorem onPath_radio_fin : (w.onPath .radio f).st.fin = w.st.fin := rfl
@[simp] theorem onPath_radio_grade : (w.onPath .radio f).st.grade = w.st.grade := rfl
@[simp] theorem onPath_radio_ru : (w.onPath .radio f).st.ru = w.st.ru := rfl
@[simp] theorem onPath_radio_steer : (w.onPath .radio f).st.steer = w.st.steer := rfl
@[simp] theorem onPath_radio_classes : (w.onPath .radio f).st.classes = w.st.classes := rfl
@[simp] theorem onPath_radio_hold : (w.onPath .radio f).st.hold = w.st.hold := rfl
@[simp] theorem onPath_radio_flows : (w.onPath .radio f).st.flows = w.st.flows := rfl
@[simp] theorem onPath_radio_fwd : (w.onPath .radio f).st.fwd = w.st.fwd := rfl
@[simp] theorem onPath_radio_allow : (w.onPath .radio f).st.allow = w.st.allow := rfl
@[simp] theorem onPath_radio_sup : (w.onPath .radio f).st.sup = w.st.sup := rfl
@[simp] theorem onPath_radio_drill : (w.onPath .radio f).st.drill = w.st.drill := rfl
@[simp] theorem onPath_radio_ev : (w.onPath .radio f).st.ev = w.st.ev := rfl
@[simp] theorem onPath_radio_pending : (w.onPath .radio f).st.pending = w.st.pending := rfl
@[simp] theorem onPath_radio_free : (w.onPath .radio f).st.free = w.st.free := rfl
@[simp] theorem onPath_radio_passDue : (w.onPath .radio f).passDue = w.passDue := rfl
@[simp] theorem onPath_radio_demandDue : (w.onPath .radio f).demandDue = w.demandDue := rfl
@[simp] theorem onPath_radio_drillEnded : (w.onPath .radio f).drillEnded = w.drillEnded := rfl
@[simp] theorem onPath_radio_touched : (w.onPath .radio f).touched = w.touched := rfl
end onPath_radio

@[simp] theorem owePass_st : w.owePass.st = w.st := rfl
@[simp] theorem owePass_passDue : w.owePass.passDue = true := rfl
@[simp] theorem owePass_demandDue : w.owePass.demandDue = w.demandDue := rfl
@[simp] theorem owePass_drillEnded : w.owePass.drillEnded = w.drillEnded := rfl
@[simp] theorem owePass_touched : w.owePass.touched = w.touched := rfl
@[simp] theorem oweDemand_st : w.oweDemand.st = w.st := rfl
@[simp] theorem oweDemand_passDue : w.oweDemand.passDue = w.passDue := rfl
@[simp] theorem oweDemand_demandDue : w.oweDemand.demandDue = true := rfl
@[simp] theorem oweDemand_drillEnded : w.oweDemand.drillEnded = w.drillEnded := rfl
@[simp] theorem oweDemand_touched : w.oweDemand.touched = w.touched := rfl
@[simp] theorem touch_st (r : Rec) : (w.touch r).st = w.st := rfl
@[simp] theorem touch_passDue (r : Rec) : (w.touch r).passDue = w.passDue := rfl
@[simp] theorem touch_demandDue (r : Rec) : (w.touch r).demandDue = w.demandDue := rfl
@[simp] theorem touch_drillEnded (r : Rec) : (w.touch r).drillEnded = w.drillEnded := rfl
@[simp] theorem touch_touched (r : Rec) : (w.touch r).touched = r :: w.touched := rfl
@[simp] theorem touchIf_st (b : Bool) (r : Rec) : (w.touchIf b r).st = w.st := rfl
@[simp] theorem touchIf_passDue (b : Bool) (r : Rec) : (w.touchIf b r).passDue = w.passDue := rfl
@[simp] theorem touchIf_demandDue (b : Bool) (r : Rec) : (w.touchIf b r).demandDue = w.demandDue := rfl
@[simp] theorem touchIf_drillEnded (b : Bool) (r : Rec) : (w.touchIf b r).drillEnded = w.drillEnded := rfl
@[simp] theorem touchIf_touched (b : Bool) (r : Rec) :
    (w.touchIf b r).touched = if b then r :: w.touched else w.touched := rfl
@[simp] theorem touchAll_st (rs : List Rec) : (w.touchAll rs).st = w.st := rfl
@[simp] theorem touchAll_passDue (rs : List Rec) : (w.touchAll rs).passDue = w.passDue := rfl
@[simp] theorem touchAll_demandDue (rs : List Rec) : (w.touchAll rs).demandDue = w.demandDue := rfl
@[simp] theorem touchAll_drillEnded (rs : List Rec) : (w.touchAll rs).drillEnded = w.drillEnded := rfl
@[simp] theorem touchAll_touched (rs : List Rec) : (w.touchAll rs).touched = rs ++ w.touched := rfl
@[simp] theorem begin_st (s : State) : (Work.begin s).st = s := rfl
@[simp] theorem begin_passDue (s : State) : (Work.begin s).passDue = false := rfl
@[simp] theorem begin_demandDue (s : State) : (Work.begin s).demandDue = false := rfl
@[simp] theorem begin_drillEnded (s : State) : (Work.begin s).drillEnded = false := rfl
@[simp] theorem begin_touched (s : State) : (Work.begin s).touched = [] := rfl
@[simp] theorem path_fibre (s : State) : s.path .fibre = s.fibre := rfl
@[simp] theorem path_radio (s : State) : s.path .radio = s.radio := rfl
@[simp] theorem now_begin (s : State) : (Work.begin s).now = s.now := rfl

@[simp] theorem refreshIrq_clk (s : State) : (refreshIrq s).clk = s.clk := rfl
@[simp] theorem refreshIrq_exch (s : State) : (refreshIrq s).exch = s.exch := rfl
@[simp] theorem refreshIrq_mem (s : State) : (refreshIrq s).mem = s.mem := rfl
@[simp] theorem refreshIrq_counts (s : State) : (refreshIrq s).counts = s.counts := rfl
@[simp] theorem refreshIrq_gens (s : State) : (refreshIrq s).gens = s.gens := rfl
@[simp] theorem refreshIrq_fibre (s : State) : (refreshIrq s).fibre = s.fibre := rfl
@[simp] theorem refreshIrq_radio (s : State) : (refreshIrq s).radio = s.radio := rfl
@[simp] theorem refreshIrq_fin (s : State) : (refreshIrq s).fin = s.fin := rfl
@[simp] theorem refreshIrq_grade (s : State) : (refreshIrq s).grade = s.grade := rfl
@[simp] theorem refreshIrq_ru (s : State) : (refreshIrq s).ru = s.ru := rfl
@[simp] theorem refreshIrq_steer (s : State) : (refreshIrq s).steer = s.steer := rfl
@[simp] theorem refreshIrq_classes (s : State) : (refreshIrq s).classes = s.classes := rfl
@[simp] theorem refreshIrq_hold (s : State) : (refreshIrq s).hold = s.hold := rfl
@[simp] theorem refreshIrq_flows (s : State) : (refreshIrq s).flows = s.flows := rfl
@[simp] theorem refreshIrq_fwd (s : State) : (refreshIrq s).fwd = s.fwd := rfl
@[simp] theorem refreshIrq_allow (s : State) : (refreshIrq s).allow = s.allow := rfl
@[simp] theorem refreshIrq_sup (s : State) : (refreshIrq s).sup = s.sup := rfl
@[simp] theorem refreshIrq_drill (s : State) : (refreshIrq s).drill = s.drill := rfl
@[simp] theorem refreshIrq_pending (s : State) : (refreshIrq s).pending = s.pending := rfl
@[simp] theorem refreshIrq_free (s : State) : (refreshIrq s).free = s.free := rfl
@[simp] theorem refreshIrq_irq (s : State) :
    (refreshIrq s).ev.irq = irqLevel s.exch.intEnable s.ev.latch s.ev.enable := rfl
@[simp] theorem refreshIrq_cond (s : State) : (refreshIrq s).ev.cond = s.ev.cond := rfl
@[simp] theorem refreshIrq_rising (s : State) : (refreshIrq s).ev.rising = s.ev.rising := rfl
@[simp] theorem refreshIrq_falling (s : State) : (refreshIrq s).ev.falling = s.ev.falling := rfl
@[simp] theorem refreshIrq_latch (s : State) : (refreshIrq s).ev.latch = s.ev.latch := rfl
@[simp] theorem refreshIrq_enable (s : State) : (refreshIrq s).ev.enable = s.ev.enable := rfl

end Sys2Proof.Machine
end

