-- ==== Sys2Proof/Laws/Closed.lean ====
section
/-! SUPPORT. What the shared machinery can do to a state, said once. Each block's record changes only by the steps
below; a property of states that every such step keeps (`Closed`) is kept by every shared operation, and so by a
steering pass and by everything a pass hands on. The steps of passes alone (`F` and `B` false) never touch the fibre
path, the counts of the radio unit or a probe; `F` adds what other events do, `B` adds probes and their results. -/

namespace Sys2Proof.Machine

/-! ## Steps of the blocks -/

/-- A step of a path other than by a probe's resolution: settings kept; pending list and window kept or emptied. -/
structure PathStep (U : Prop) (r r' : PathRec) : Prop where
  settings : r'.settings = r.settings
  decayDue : r'.decayDue = r.decayDue
  seq : r'.seq = r.seq
  sent : r'.sent = r.sent
  unmatched : r'.unmatched = r.unmatched
  ticks : r.ticks = 0 → r'.ticks = 0
  probes : r'.probes = r.probes ∨ r'.probes = []
  window : r'.window = r.window ∨ r'.window = []
  penalty : r.penalty ≤ 8000 → r'.penalty ≤ 8000
  usable : r.usableFlag = r.state.usable → r'.usableFlag = r'.state.usable
  moves : U ∨ r'.state = r.state ∨ r'.state = .down
  cleared : r.s = 0 ∧ r.replied = false → r'.s = 0 ∧ r'.replied = false
  fails : r.failLimit ≤ 16 → r.failCount ≤ 16 → r'.failCount ≤ 16

/-- A step of a path by probes, results and decay. -/
structure ProbeStep (r r' : PathRec) : Prop where
  settings : r'.settings = r.settings
  window : r.window.length ≤ 16 → r'.window.length ≤ 16
  penalty : r.penalty ≤ 8000 → r'.penalty ≤ 8000
  usable : r.usableFlag = r.state.usable → r'.usableFlag = r'.state.usable
  fails : r'.failCount = r.failCount

/-- A step of the radio unit in a pass: it never enters FAULT or SESSION. -/
structure RuStep (r r' : RadioUnit) : Prop where
  lasting : r'.lasting = r.lasting
  fault : r'.state = .fault → r.state = .fault
  session : r'.state = .session → r.state = .session
  aim : r'.target = r.target ∧ r'.lingerOn = r.lingerOn

/-- A step of the radio unit in another event. -/
structure RuEvent (r r' : RadioUnit) : Prop where
  settings : r'.settings = r.settings
  inRange : r.inRange → r'.inRange
  aim : r'.target = r.target ∧ r'.lingerOn = r.lingerOn

structure FwdStep (f f' : Forwarding) : Prop where
  bounded : f.bounded → f'.bounded
  lanLink : f'.lanLink = f.lanLink
  lanOut : f'.lanOut = f.lanOut
  receive : f'.receive = f.receive
  held : ∀ h ∈ f'.held, h ∈ f.held

/-- A step of the hold record: it goes on, or an active hold ends, in a pass only by the break of a RADIO hold. -/
structure HoldStep (F : Prop) (h h' : Hold) : Prop where
  settings : h'.settings = h.settings
  goesOn : h'.active = h.active ∧ h'.stop = h.stop ∧ h'.reason = h.reason
    ∨ h.active = true ∧ h'.active = false ∧ (F ∨ h'.reason = .broken ∧ h.path = some .radio)

/-- A step of the drill unit: nothing, or the end of a running drill. -/
structure DrillStep (d d' : Drill) : Prop where
  settings : d'.settings = d.settings
  ends : d' = d ∨ d.running = true ∧ d'.running = false ∧ d'.last.valid = true

/-- An event unit step that only adds to the latch. -/
structure EvStep (e e' : EventUnit) : Prop where
  settings : e'.settings = e.settings
  latch : e.latch &&& e'.latch = e.latch

/-- Counted bytes added, with the stage recomputed (R137, R140). -/
def Allowance.added (n : Nat) (a : Allowance) : Allowance :=
  Allowance.restaged { a with used := min (a.used + n) max64 }

/-- A free record stays free, and the table keeps its length. -/
def KeepsFree (fs fs' : List FlowRec) : Prop :=
  fs'.length = fs.length ∧ ∀ i, (fs.getD i (FlowRec.freed 0)).state = .free → (fs'.getD i (FlowRec.freed 0)).state = .free

/-- A flow's state and its pinned flag. -/
def FlowRec.course (f : FlowRec) : FlowState × Bool := (f.state, f.pinned)

/-- The properties that every step of the machinery keeps; where `S` is false, only the steps that leave the paths of
classes and the states and pinned flags of flows as they are. -/
structure Closed (F M B G D S : Prop) (P : State → Prop) : Prop where
  path : ∀ s p f, (p = .radio ∨ F) → PathStep (F ∨ M ∨ B) (s.path p) (f (s.path p)) → P s → P (s.onPath p f)
  probe : B → ∀ s p f, (p = .radio ∨ F) → ProbeStep (s.path p) (f (s.path p)) → P s → P (s.onPath p f)
  grade : (F ∨ M ∨ B) → ∀ s g, P s → P { s with grade := g }
  ru : ∀ s r, RuStep s.ru r → P s → P { s with ru := r }
  ruEvent : M → ∀ s r, RuEvent s.ru r → P s → P { s with ru := r }
  aim : D → ∀ s a b c, P s → P { s with ru := { s.ru with target := a, lingerOn := b, lingerStart := c } }
  demand : D → ∀ s a b, P s → P { s with steer := { s.steer with demand := a, urgent := b } }
  ret : F → ∀ s a b, P s → P { s with steer := { s.steer with ret := a, retDue := b } }
  classes : ∀ s cs, cs.map ClassRec.policy = s.classes.map ClassRec.policy →
    (S ∨ cs.map ClassRec.cur = s.classes.map ClassRec.cur) → P s → P { s with classes := cs }
  hold : ∀ s h, HoldStep F s.hold h → P s → P { s with hold := h }
  flows : ∀ s fs, fs.map FlowRec.identity = s.flows.map FlowRec.identity →
    (S ∨ fs.map FlowRec.course = s.flows.map FlowRec.course) → P s → P { s with flows := fs }
  free : G → ∀ s fs, KeepsFree s.flows fs → P s → P { s with flows := fs }
  fwd : ∀ s f, FwdStep s.fwd f → P s → P { s with fwd := f }
  fwdEvent : G → ∀ s f, (s.fwd.bounded → f.bounded) → P s → P { s with fwd := f }
  allow : ∀ s n, P s → P { s with allow := s.allow.added n }
  drill : ∀ s d, DrillStep s.drill d → P s → P { s with drill := d }
  ev : ∀ s e, EvStep s.ev e → P s → P { s with ev := e }
  fin : F → ∀ s f, f.link = s.fin.link → f.los = s.fin.los → P s → P { s with fin := f }

/-! ## Lists updated at one place -/

/-- An update at one place that keeps what `g` reads keeps the list of what `g` reads. -/
theorem map_set_getD {α β : Type} (g : α → β) (f : α → α) (d : α) (hg : ∀ a, g (f a) = g a) (l : List α) (i : Nat) :
    (l.set i (f (l.getD i d))).map g = l.map g := by
  induction l generalizing i with
  | nil => rfl
  | cons a l ih =>
    cases i with
    | zero => simp [hg]
    | succ i => simpa using ih i

theorem map_map_keep {α β : Type} (g : α → β) (f : α → α) (hg : ∀ a, g (f a) = g a) (l : List α) :
    (l.map f).map g = l.map g := by
  simp [hg]

namespace Closed

variable {F M B G D S : Prop} {P : State → Prop} (C : Closed F M B G D S P)
include C
set_option linter.unusedSectionVars false

/-! ## Counts that stay within their 32 bits -/

omit C in
theorem hold32_le (n : Nat) : hold32 n ≤ max32 := Nat.min_le_right _ _

omit C in
theorem queueDrop_inRange (p : Path) (c : ForwardCounts) (h : c.inRange) : (c.queueDrop p).inRange := by
  obtain ⟨h1, h2, h3, h4, h5, h6, h7, h8, h9, h10, h11⟩ := h
  cases p
  · exact ⟨h1, hold32_le _, h3, h4, h5, h6, h7, h8, h9, h10, h11⟩
  · exact ⟨h1, h2, hold32_le _, h4, h5, h6, h7, h8, h9, h10, h11⟩

omit C in
theorem flush_inRange (p : Path) (n : Nat) (c : ForwardCounts) (h : c.inRange) : (c.flush p n).inRange := by
  obtain ⟨h1, h2, h3, h4, h5, h6, h7, h8, h9, h10, h11⟩ := h
  cases p
  · exact ⟨h1, h2, h3, hold32_le _, h5, h6, h7, h8, h9, h10, h11⟩
  · exact ⟨h1, h2, h3, h4, hold32_le _, h6, h7, h8, h9, h10, h11⟩

omit C in
theorem holdFull_inRange (n : Nat) (c : ForwardCounts) (h : c.inRange) :
    ({ c with holdFull := hold32 n } : ForwardCounts).inRange := by
  obtain ⟨h1, h2, h3, h4, h5, h6, h7, h8, h9, h10, h11⟩ := h
  exact ⟨h1, h2, h3, h4, h5, hold32_le _, h7, h8, h9, h10, h11⟩

omit C in
theorem ageHeld_inRange (n : Nat) (c : ForwardCounts) (h : c.inRange) : (c.ageHeld n).inRange := by
  obtain ⟨h1, h2, h3, h4, h5, h6, h7, h8, h9, h10, h11⟩ := h
  exact ⟨h1, h2, h3, h4, h5, h6, hold32_le _, h8, h9, h10, h11⟩

omit C in
theorem discardHeld_inRange (n : Nat) (c : ForwardCounts) (h : c.inRange) : (c.discardHeld n).inRange := by
  obtain ⟨h1, h2, h3, h4, h5, h6, h7, h8, h9, h10, h11⟩ := h
  exact ⟨h1, h2, h3, h4, h5, h6, h7, hold32_le _, h9, h10, h11⟩

/-! ## Updates of one block -/

theorem touch (r : Rec) (w : Work) (h : P w.st) : P (w.touch r).st := h
theorem touchIf (b : Bool) (r : Rec) (w : Work) (h : P w.st) : P (w.touchIf b r).st := h
theorem touchAll (rs : List Rec) (w : Work) (h : P w.st) : P (w.touchAll rs).st := h
theorem owePass (w : Work) (h : P w.st) : P w.owePass.st := h
theorem oweDemand (w : Work) (h : P w.st) : P w.oweDemand.st := h

theorem onEv (f : EventUnit → EventUnit) (w : Work) (hf : ∀ x, EvStep x (f x)) (h : P w.st) :
    P (w.onEv f).st := C.ev w.st _ (hf _) h

theorem onHold (f : Hold → Hold) (w : Work) (hf : HoldStep F w.st.hold (f w.st.hold)) (h : P w.st) :
    P (w.onHold f).st := C.hold w.st _ hf h

theorem onDrill (f : Drill → Drill) (w : Work) (hf : DrillStep w.st.drill (f w.st.drill)) (h : P w.st) :
    P (w.onDrill f).st := C.drill w.st _ hf h

theorem onGrade (hU : F ∨ M ∨ B) (f : GradeState → GradeState) (w : Work) (h : P w.st) : P (w.onGrade f).st :=
  C.grade hU w.st _ h

theorem onRet (hF : F) (f : Steering → Steering) (w : Work)
    (hf : ∀ t, f t = { t with ret := (f t).ret, retDue := (f t).retDue }) (h : P w.st) : P (w.onSteer f).st := by
  have h1 := C.ret hF w.st (f w.st.steer).ret (f w.st.steer).retDue h
  rw [← hf w.st.steer] at h1
  exact h1

theorem onDemand (hD : D) (a b : Bool) (w : Work) (h : P w.st) :
    P (w.onSteer fun t => { t with demand := a, urgent := b }).st := C.demand hD w.st _ _ h

theorem onAim (hD : D) (f : RadioUnit → RadioUnit) (w : Work)
    (hf : ∀ x, f x = { x with target := (f x).target, lingerOn := (f x).lingerOn, lingerStart := (f x).lingerStart })
    (h : P w.st) : P (w.onRu f).st := by
  have h1 := C.aim hD w.st (f w.st.ru).target (f w.st.ru).lingerOn (f w.st.ru).lingerStart h
  rw [← hf w.st.ru] at h1
  exact h1

theorem onFin (hF : F) (f : FibreIn → FibreIn) (w : Work) (h1 : ∀ x, (f x).link = x.link)
    (h2 : ∀ x, (f x).los = x.los) (h : P w.st) : P (w.onFin f).st := C.fin hF w.st _ (h1 _) (h2 _) h

theorem onRu (f : RadioUnit → RadioUnit) (w : Work) (hf : ∀ x, RuStep x (f x)) (h : P w.st) :
    P (w.onRu f).st := C.ru w.st _ (hf _) h

theorem onRuEvent (hM : M) (f : RadioUnit → RadioUnit) (w : Work) (hf : ∀ x, RuEvent x (f x)) (h : P w.st) :
    P (w.onRu f).st := C.ruEvent hM w.st _ (hf _) h

theorem onFwdEvent (hG : G) (f : Forwarding → Forwarding) (w : Work) (hf : w.st.fwd.bounded → (f w.st.fwd).bounded)
    (h : P w.st) : P (w.onFwd f).st := C.fwdEvent hG w.st _ hf h

theorem onFwd (f : Forwarding → Forwarding) (w : Work) (hf : FwdStep w.st.fwd (f w.st.fwd)) (h : P w.st) :
    P (w.onFwd f).st := C.fwd w.st _ hf h

theorem onPath (p : Path) (hp : p = .radio ∨ F) (f : PathRec → PathRec) (w : Work)
    (hf : ∀ x, PathStep (F ∨ M ∨ B) x (f x)) (h : P w.st) : P (w.onPath p f).st :=
  C.path w.st p f hp (hf _) h

theorem onProbe (hB : B) (p : Path) (hp : p = .radio ∨ F) (f : PathRec → PathRec) (w : Work)
    (hf : ∀ x, ProbeStep x (f x)) (h : P w.st) : P (w.onPath p f).st :=
  C.probe hB w.st p f hp (hf _) h

theorem onClasses (f : List ClassRec → List ClassRec) (w : Work)
    (hf : (f w.st.classes).map ClassRec.policy = w.st.classes.map ClassRec.policy)
    (hc : S ∨ (f w.st.classes).map ClassRec.cur = w.st.classes.map ClassRec.cur) (h : P w.st) :
    P (w.onClasses f).st := C.classes w.st _ hf hc h

theorem onFlows (f : List FlowRec → List FlowRec) (w : Work)
    (hf : (f w.st.flows).map FlowRec.identity = w.st.flows.map FlowRec.identity)
    (hc : S ∨ (f w.st.flows).map FlowRec.course = w.st.flows.map FlowRec.course) (h : P w.st) :
    P (w.onFlows f).st := C.flows w.st _ hf hc h

theorem onFree (hG : G) (f : List FlowRec → List FlowRec) (w : Work) (hf : KeepsFree w.st.flows (f w.st.flows))
    (h : P w.st) : P (w.onFlows f).st := C.free hG w.st _ hf h

/-! ## Event unit -/

omit C in
theorem latchStep (m : Word) (e : EventUnit) : EvStep e { e with latch := e.latch ||| m } := by
  refine ⟨rfl, ?_⟩
  ext j hj
  simp
  intro hh
  exact Or.inl hh

omit C in
theorem condStep (new : Half) (e : EventUnit) :
    EvStep e { e with cond := new, latch := e.latch ||| edgeEvents e.rising e.falling e.cond new } := by
  refine ⟨rfl, ?_⟩
  ext j hj
  simp
  intro hh
  exact Or.inl hh

theorem latch (i : Nat) (w : Work) (h : P w.st) : P (latch i w).st := C.onEv _ _ (latchStep _) h

theorem handConditions (w : Work) (h : P w.st) : P (handConditions w).st := by
  unfold Machine.handConditions
  dsimp only
  split
  · exact h
  · exact C.touch _ _ (C.onEv _ _ (condStep _) h)

/-! ## Allowance meter and ports -/

theorem restage (w : Work) (h : P (w.onAllow Allowance.restaged).st) : P (restage w).st := by
  unfold Machine.restage
  dsimp only
  have h1 : P (if w.st.allow.liveNow && !w.st.allow.live then Machine.latch Bit.overrun (w.onAllow Allowance.restaged)
      else w.onAllow Allowance.restaged).st := by
    split
    · exact C.latch _ _ h
    · exact h
  have h2 := C.handConditions _ h1
  split
  · exact h2
  · exact C.owePass _ (C.latch _ _ h2)

theorem addUsed (n : Nat) (w : Work) (h : P w.st) : P (addUsed n w).st :=
  C.restage _ (C.allow _ n h)

theorem onFlow (i : Nat) (f : FlowRec → FlowRec) (hf : ∀ r, (f r).identity = r.identity)
    (hs : ∀ r, (f r).course = r.course) (w : Work) (h : P w.st) : P (w.onFlow i f).st :=
  C.onFlows _ _ (map_set_getD _ _ _ hf _ _) (Or.inr (map_set_getD _ _ _ hs _ _)) h

theorem onClass (i : Nat) (f : ClassRec → ClassRec) (hf : ∀ r, (f r).policy = r.policy)
    (hs : ∀ r, (f r).cur = r.cur) (w : Work) (h : P w.st) : P (w.onClass i f).st :=
  C.onClasses _ _ (map_set_getD _ _ _ hf _ _) (Or.inr (map_set_getD _ _ _ hs _ _)) h

theorem countFlow (b : Option Nat) (n : Nat) (w : Work) (h : P w.st) : P (countFlow b n w).st := by
  unfold Machine.countFlow
  split
  · exact h
  · exact C.onFlow _ _ (fun r => by unfold FlowRec.addBytes; split <;> rfl)
      (fun r => by unfold FlowRec.addBytes; split <;> rfl) _ h

/-- A transmit queue whose bands do not grow. -/
theorem onQueue (p : Path) (g : TxQueue → TxQueue) (w : Work)
    (hu : ∀ q, w.st.fwd.queue p = q → (g q).urgent.length ≤ max q.urgent.length 32)
    (hn : ∀ q, w.st.fwd.queue p = q → (g q).normal.length ≤ max q.normal.length 32) (h : P w.st) :
    P (w.onQueue p g).st := by
  have hu := hu _ rfl
  have hn := hn _ rfl
  refine C.onFwd _ _ ?_ h
  cases p
  all_goals
    refine ⟨?_, rfl, rfl, rfl, fun _ hh => hh⟩
    intro hb
    obtain ⟨h1, h2, h3, h4, h5, h6, h7⟩ := hb
    simp only [Forwarding.queue] at hu hn
    refine ⟨?_, ?_, ?_, ?_, ?_, ?_, h7⟩ <;> simp only [Forwarding.setQueue, Forwarding.queue] <;> omega

theorem onCounts (g : ForwardCounts → ForwardCounts) (w : Work) (hg : ∀ c, c.inRange → (g c).inRange) (h : P w.st) :
    P (w.onCounts g).st := by
  refine C.onFwd _ _ ⟨?_, rfl, rfl, rfl, fun _ hh => hh⟩ h
  rintro ⟨h1, h2, h3, h4, h5, h6, h7⟩
  exact ⟨h1, h2, h3, h4, h5, h6, hg _ h7⟩

theorem takeNext (p : Path) (w : Work) (h : P w.st) : P (takeNext p w).st := by
  unfold Machine.takeNext
  split
  · split
    · exact h
    · rename_i f rest hq
      have hrest : rest.urgent.length ≤ (w.st.fwd.queue p).urgent.length ∧
          rest.normal.length ≤ (w.st.fwd.queue p).normal.length := by
        unfold TxQueue.next at hq
        split at hq
        · obtain ⟨-, rfl⟩ := Prod.mk.inj (Option.some.inj hq)
          exact ⟨le_refl _, le_refl _⟩
        · rename_i h1 h2
          obtain ⟨-, rfl⟩ := Prod.mk.inj (Option.some.inj hq)
          simp [h2]
        · rename_i h1 h2 h3
          obtain ⟨-, rfl⟩ := Prod.mk.inj (Option.some.inj hq)
          simp [h3]
        · cases hq
      have h1 : P (w.onQueue p fun _ => { rest with sending := some f.data }).st :=
        C.onQueue _ _ _ (fun q hq => by subst hq; exact le_max_of_le_left hrest.1)
          (fun q hq => by subst hq; exact le_max_of_le_left hrest.2) h
      unfold handoff
      cases p
      · exact h1
      · exact C.addUsed _ _ (C.countFlow _ _ _ h1)
  · exact h

theorem enterBand (p : Path) (tier : Nat) (f : TxFrame) (w : Work) (h : P w.st) : P (enterBand p tier f w).st := by
  unfold Machine.enterBand
  split
  · exact C.onCounts _ _ (queueDrop_inRange p) h
  · rename_i hfull
    refine C.takeNext _ _ (C.onQueue _ _ _ ?_ ?_ h)
    · intro q hq
      subst hq
      simp only [State.bandFull, TxQueue.band, Config.bandMax] at hfull
      unfold TxQueue.append
      split
      · rename_i ht
        simp only [ht, if_true, decide_eq_true_eq, not_le] at hfull
        simp only [List.length_append, List.length_cons, List.length_nil]
        omega
      · exact le_max_left _ _
    · intro q hq
      subst hq
      simp only [State.bandFull, TxQueue.band, Config.bandMax] at hfull
      unfold TxQueue.append
      split
      · exact le_max_left _ _
      · rename_i ht
        simp only [ht, if_false, decide_eq_true_eq, not_le] at hfull
        simp only [List.length_append, List.length_cons, List.length_nil]
        omega

theorem flushQueue (p : Path) (w : Work) (h : P w.st) : P (flushQueue p w).st :=
  C.onCounts _ _ (flush_inRange p _) (C.onQueue _ _ _ (fun _ _ => by simp) (fun _ _ => by simp) h)

theorem dropBlocked (i : Nat) (w : Work) (h : P w.st) : P (dropBlocked i w).st :=
  C.onClass i (fun c => { c with dropped := hold32 (c.dropped + 1) }) (fun _ => rfl) (fun _ => rfl) w h

theorem dropHeld (gone : HeldFrame → Bool) (tally : Nat → ForwardCounts → ForwardCounts) (w : Work)
    (ht : ∀ n c, c.inRange → (tally n c).inRange) (h : P w.st) : P (dropHeld gone tally w).st := by
  unfold Machine.dropHeld
  dsimp only
  split
  · exact h
  · refine C.latch _ _ (C.onCounts _ _ (ht _)
      (C.onFwd _ _ ⟨?_, rfl, rfl, rfl, fun _ hh => List.mem_of_mem_filter hh⟩ h))
    intro hb
    obtain ⟨h1, h2, h3, h4, h5, h6⟩ := hb
    refine ⟨h1, h2, h3, h4, ?_, h6⟩
    exact le_trans (List.length_filter_le _ _) h5

theorem releaseFrames (i : Nat) (w : Work) (h : P w.st) : P (releaseFrames i w).st := by
  unfold Machine.releaseFrames
  have hu : ∀ fs, (unbind i fs).length = fs.length := by simp [unbind]
  exact C.onQueue _ _ _ (fun _ _ => by simp [TxQueue.unbound, hu]) (fun _ _ => by simp [TxQueue.unbound, hu])
    (C.onQueue _ _ _ (fun _ _ => by simp [TxQueue.unbound, hu]) (fun _ _ => by simp [TxQueue.unbound, hu])
      (C.dropHeld _ _ _ discardHeld_inRange h))

/-! ## Holds, drills and paths -/

theorem endHold (r : HoldEnd) (w : Work) (hr : F ∨ r = .broken ∧ w.st.hold.path = some .radio) (h : P w.st) :
    P (endHold r w).st := by
  unfold Machine.endHold
  split
  · rename_i ha
    have h1 : P (w.onHold fun h => { h with active := false, stop := w.now, reason := r }).st :=
      C.onHold _ _ ⟨rfl, Or.inr ⟨ha, rfl, hr⟩⟩ h
    refine C.owePass _ (C.touch _ _ (C.handConditions _ ?_))
    split
    · exact C.latch _ _ h1
    · exact h1
  · exact h

theorem endDrill (o : DrillOutcome) (c : DrillCause) (w : Work) (h : P w.st) : P (endDrill o c w).st := by
  unfold Machine.endDrill
  split
  · rename_i ha
    have h1 := C.onDrill (fun d => { d with
        running := false, pass := decide (o = .pass), last := drillRecordNow w.st o c }) w
      ⟨rfl, Or.inr ⟨ha, rfl, rfl⟩⟩ h
    have h2 := C.handConditions _ (C.latch Bit.drillEnd _ h1)
    dsimp only [oweDemand_st, touch_st]
    exact h2
  · exact h

theorem noteReady (p : Path) (was : Bool) (w : Work) (h : P w.st) : P (noteReady p was w).st := by
  unfold Machine.noteReady
  split
  · exact h
  · exact C.latch _ _ (C.handConditions _ h)

theorem settle (p : Path) (hp : p = .radio ∨ F) (w : Work) (h : P w.st) : P (settle p w).st :=
  C.noteReady _ _ _ (C.onQueue _ _ _ (fun _ _ => by simp) (fun _ _ => by simp)
    (C.onPath p hp _ _ (fun _ => ⟨rfl, rfl, rfl, rfl, rfl, fun _ => rfl, Or.inr rfl, Or.inr rfl, id, id, Or.inr (Or.inl rfl),
        fun _ => ⟨rfl, rfl⟩, fun _ _ => Nat.zero_le _⟩) h))

theorem holdSees (p : Path) (hp : p = .radio ∨ F) (o n : PathState) (w : Work) (h : P w.st) :
    P (holdSees p o n w).st := by
  unfold Machine.holdSees
  split
  · rename_i ha
    simp only [Bool.and_eq_true, decide_eq_true_eq] at ha
    cases p
    · have hF : F := by simpa using hp
      dsimp only
      split
      · exact C.endHold _ _ (Or.inl hF) h
      · exact h
    · dsimp only
      split
      · exact C.onHold _ _ ⟨rfl, Or.inl ⟨rfl, rfl, rfl⟩⟩ h
      · split
        · exact C.endHold _ _ (Or.inr ⟨rfl, ha.2⟩) h
        · exact h
  · exact h

theorem returnSees (hF : F) (o n : PathState) (w : Work) (h : P w.st) : P (returnSees o n w).st := by
  unfold Machine.returnSees
  split
  · split
    · exact C.touch _ _ (C.onRet hF _ _ (fun _ => rfl) h)
    · exact C.touch _ _ (C.onRet hF _ _ (fun _ => rfl) h)
  · split
    · exact C.touch _ _ (C.onRet hF _ _ (fun _ => rfl) h)
    · exact h

theorem enterDown (p : Path) (hp : p = .radio ∨ F) (w : Work) (h : P w.st) : P (enterDown p w).st := by
  unfold Machine.enterDown
  cases p
  · exact C.flushQueue _ _ (C.settle _ hp _ h)
  · exact C.settle _ hp _ h

theorem pathSees (p : Path) (hp : p = .radio ∨ F) (o n : PathState) (w : Work) (ho : (F ∨ M ∨ B) ∨ o ≠ .down)
    (h : P w.st) : P (pathSees p o n w).st := by
  unfold Machine.pathSees
  cases p
  · have hF : F := by simpa using hp
    exact C.returnSees hF _ _ _ h
  · dsimp only
    have h1 : P (if o = .down then w.onGrade fun _ => GradeState.start else w).st := by
      split
      · rename_i e
        exact C.onGrade (ho.resolve_right (absurd e)) _ _ h
      · exact h
    split
    · exact C.endDrill _ _ _ h1
    · exact h1

omit C in
theorem enterStep (n : PathState) (now : Time) (r : PathRec) (hn : (F ∨ M ∨ B) ∨ n = .down) :
    PathStep (F ∨ M ∨ B) r (r.enter n now) :=
  ⟨rfl, rfl, rfl, rfl, rfl, id, Or.inl rfl, Or.inl rfl, id, fun _ => rfl, hn.imp id Or.inr, id, by
    intro _ h
    show (if r.state.usable && n.usable then r.failCount else 0) ≤ 16
    split <;> omega⟩

theorem setPathState (p : Path) (hp : p = .radio ∨ F) (n : PathState) (w : Work) (hn : (F ∨ M ∨ B) ∨ n = .down)
    (h : P w.st) : P (setPathState p n w).st := by
  unfold Machine.setPathState
  dsimp only
  split
  · exact h
  · rename_i hne
    have h1 : P (w.onPath p (PathRec.enter n w.now)).st := C.path w.st p _ hp (enterStep _ _ _ hn) h
    refine C.owePass _ (C.pathSees p hp _ _ _ (hn.imp id fun e o => hne (o.trans e.symm)) (C.handConditions _ (C.latch _ _ (C.holdSees p hp _ _ _ ?_))))
    split
    · exact C.enterDown p hp _ h1
    · exact h1

theorem offerCause (p : Path) (hp : p = .radio ∨ F) (k : Cause) (w : Work) (h : P w.st) : P (offerCause p k w).st := by
  unfold Machine.offerCause
  dsimp only
  have h1 := C.onPath p hp (fun r => { r with cause := r.cause.offered r.lockFirst k (snapshotOf w.st p) }) w
    (fun _ => ⟨rfl, rfl, rfl, rfl, rfl, id, Or.inl rfl, Or.inl rfl, id, id, Or.inr (Or.inl rfl), id, fun _ => id⟩) h
  split
  · exact C.latch _ _ h1
  · exact h1

omit C in
theorem penalizedStep (n : Nat) (r : PathRec) : PathStep (F ∨ M ∨ B) r (r.penalize n) :=
  ⟨rfl, rfl, rfl, rfl, rfl, id, Or.inl rfl, Or.inl rfl, fun _ => Nat.min_le_left _ _, id, Or.inr (Or.inl rfl), id,
    fun _ => id⟩

theorem physicalLoss (p : Path) (hp : p = .radio ∨ F) (w : Work) (h : P w.st) : P (physicalLoss p w).st := by
  unfold Machine.physicalLoss
  dsimp only
  split
  · exact h
  · refine C.setPathState p hp _ _ (Or.inr rfl) ?_
    split
    · exact C.offerCause p hp _ _ (C.onPath p hp _ _ (penalizedStep _) h)
    · exact h

theorem physicalAvailability (p : Path) (hp : p = .radio ∨ F) (hU : F ∨ M ∨ B) (w : Work) (h : P w.st) :
    P (physicalAvailability p w).st := by
  unfold Machine.physicalAvailability
  dsimp only
  split
  · exact h
  · split
    · exact C.setPathState p hp _ _ (Or.inl hU) h
    · split
      · exact C.setPathState p hp _ _ (Or.inl hU) h
      · exact C.setPathState p hp _ _ (Or.inl hU) h

theorem releaseSuppressed (p : Path) (hp : p = .radio ∨ F) (hU : F ∨ M ∨ B) (w : Work) (h : P w.st) :
    P (releaseSuppressed p w).st :=
  C.setPathState p hp _ _ (Or.inl hU) h

omit C in
theorem fallStep (n : Nat) (r : PathRec) : PathStep (F ∨ M ∨ B) r { r.penalize n with failCount := 0 } :=
  ⟨rfl, rfl, rfl, rfl, rfl, id, Or.inl rfl, Or.inl rfl, fun _ => Nat.min_le_left _ _, id, Or.inr (Or.inl rfl), id,
    fun _ _ => Nat.zero_le _⟩

theorem fallOnScore (p : Path) (hp : p = .radio ∨ F) (hU : F ∨ M ∨ B) (k : Cause) (w : Work) (h : P w.st) :
    P (fallOnScore p k w).st :=
  C.setPathState p hp _ _ (Or.inl hU) (C.offerCause p hp _ _ (C.onPath p hp _ _ (fallStep 500) h))

theorem failCount (p : Path) (hp : p = .radio ∨ F) (g : PathRec → Nat) (w : Work)
    (hg : (w.st.path p).failLimit ≤ 16 → (w.st.path p).failCount ≤ 16 → g (w.st.path p) ≤ 16) (h : P w.st) :
    P (w.onPath p fun r => { r with failCount := g r }).st :=
  C.path w.st p (fun r => { r with failCount := g r }) hp
    ⟨rfl, rfl, rfl, rfl, rfl, id, Or.inl rfl, Or.inl rfl, id, id, Or.inr (Or.inl rfl), id, hg⟩ h

theorem judgeUsable (p : Path) (hp : p = .radio ∨ F) (hU : F ∨ M ∨ B) (n : Nat) (k : Cause) (w : Work) (h : P w.st) :
    P (judgeUsable p n k w).st := by
  unfold Machine.judgeUsable
  dsimp only
  split
  · split
    · exact C.fallOnScore p hp hU _ _ h
    · rename_i hlim
      exact C.setPathState p hp _ _ (Or.inl hU) (C.failCount p hp _ _ (fun h16 _ => by omega) h)
  · split
    · exact C.setPathState p hp _ _ (Or.inl hU) (C.failCount p hp _ _ (fun _ _ => Nat.zero_le _) h)
    · split
      · exact C.setPathState p hp _ _ (Or.inl hU) (C.failCount p hp _ _ (fun _ _ => Nat.zero_le _) h)
      · exact C.failCount p hp _ _ (fun _ _ => Nat.zero_le _) h

theorem judge (p : Path) (hp : p = .radio ∨ F) (hU : F ∨ M ∨ B) (n : Nat) (k : Cause) (w : Work) (h : P w.st) :
    P (judge p n k w).st := by
  unfold Machine.judge
  split
  · split
    · exact C.setPathState p hp _ _ (Or.inl hU) h
    · exact h
  · exact C.judgeUsable p hp hU _ _ _ h
  · exact C.judgeUsable p hp hU _ _ _ h
  · exact h
  · exact h

theorem evaluate (p : Path) (hp : p = .radio ∨ F) (hU : F ∨ M ∨ B) (w : Work) (h : P w.st) :
    P (evaluate p w).st := by
  unfold Machine.evaluate
  dsimp only
  split
  · exact C.judge p hp hU _ _ _ (C.onPath p hp _ _
      (fun _ => ⟨rfl, rfl, rfl, rfl, rfl, id, Or.inl rfl, Or.inl rfl, id, id, Or.inr (Or.inl rfl), id, fun _ => id⟩) h)
  · exact h

theorem becameLinkOnly (p : Path) (hp : p = .radio ∨ F) (hU : F ∨ M ∨ B) (was : Bool) (w : Work) (h : P w.st) :
    P (becameLinkOnly p was w).st := by
  unfold Machine.becameLinkOnly
  dsimp only
  split
  · exact C.setPathState p hp _ _ (Or.inl hU) h
  · exact h

theorem backToUp (p : Path) (hp : p = .radio ∨ F) (hU : F ∨ M ∨ B) (w : Work) (h : P w.st) :
    P (backToUp p w).st := by
  unfold Machine.backToUp
  split <;> first | exact C.setPathState p hp _ _ (Or.inl hU) h | exact h

/-! ## Probes (events only) -/

omit C in
theorem recordStep (x : Result) (r : PathRec) : ProbeStep r (r.record x) := by
  refine ⟨?_, ?_, ?_, ?_, ?_⟩
  · unfold PathRec.record PathRec.smooth
    dsimp only
    split
    · rfl
    · split <;> rfl
  · intro _
    have : (r.record x).window.length ≤ 16 := by
      unfold PathRec.record PathRec.smooth
      dsimp only
      split
      · simp only [List.length_drop, List.length_append, List.length_cons, List.length_nil, Config.windowMax]
        omega
      · split <;>
          (simp only [List.length_drop, List.length_append, List.length_cons, List.length_nil, Config.windowMax]
           omega)
    exact this
  · unfold PathRec.record PathRec.smooth
    dsimp only
    split
    · exact id
    · split <;> exact id
  · unfold PathRec.record PathRec.smooth
    dsimp only
    split
    · exact id
    · split <;> exact id
  · unfold PathRec.record PathRec.smooth
    dsimp only
    split
    · rfl
    · split <;> rfl

theorem enterResult (hB : B) (p : Path) (hp : p = .radio ∨ F) (x : Result) (w : Work) (h : P w.st) : P (enterResult p x w).st :=
  C.evaluate p hp (Or.inr (Or.inr hB)) _ (C.noteReady _ _ _ (C.onProbe hB p hp _ _ (recordStep _) h))

theorem setProbes (hB : B) (p : Path) (hp : p = .radio ∨ F) (g : PathRec → List Probe) (w : Work) (h : P w.st) :
    P (w.onPath p fun r => { r with probes := g r }).st :=
  C.onProbe hB p hp _ _ (fun _ => ⟨rfl, id, id, id, rfl⟩) h

theorem drainList (hB : B) (p : Path) (hp : p = .radio ∨ F) (l : List Probe) (w : Work) (h : P w.st) : P (drainList p l w).st := by
  induction l generalizing w with
  | nil => exact C.setProbes hB p hp _ _ h
  | cons e l ih =>
    unfold Machine.drainList
    split
    · exact C.setProbes hB p hp _ _ h
    · exact ih _ (C.enterResult hB p hp _ _ (C.setProbes hB p hp _ _ h))
    · exact ih _ (C.enterResult hB p hp _ _ (C.setProbes hB p hp _ _ h))

theorem resolveProbe (hB : B) (p : Path) (hp : p = .radio ∨ F) (q : Half) (res : Resolution) (w : Work) (h : P w.st) :
    P (resolveProbe p q res w).st :=
  C.drainList hB p hp _ _ (C.setProbes hB p hp _ _ h)

theorem makeRoom (hB : B) (p : Path) (hp : p = .radio ∨ F) (w : Work) (h : P w.st) : P (makeRoom p w).st := by
  unfold Machine.makeRoom
  split
  · exact h
  · split
    · exact C.drainList hB p hp _ _ (C.setProbes hB p hp _ _ h)
    · exact h

theorem sendProbe (hB : B) (p : Path) (hp : p = .radio ∨ F) (w : Work) (h : P w.st) : P (sendProbe p w).st :=
  C.takeNext _ _ (C.onQueue _ _ _ (fun _ _ => by simp) (fun _ _ => by simp)
    (C.onProbe hB p hp _ _ (fun _ => ⟨rfl, id, id, id, rfl⟩) (C.makeRoom hB p hp _ h)))

theorem tickPath (hB : B) (p : Path) (hp : p = .radio ∨ F) (w : Work) (h : P w.st) : P (tickPath p w).st := by
  unfold Machine.tickPath
  dsimp only
  split
  · split
    · exact C.sendProbe hB p hp _ (C.onProbe hB p hp _ _ (fun _ => ⟨rfl, id, id, id, rfl⟩) h)
    · exact C.onProbe hB p hp _ _ (fun _ => ⟨rfl, id, id, id, rfl⟩) h
  · exact h

theorem offerTick (hB : B) (g : Generator) (p : Path) (hp : p = .radio ∨ F) (w : Work) (h : P w.st) : P (offerTick g p w).st := by
  unfold Machine.offerTick
  split <;> first | exact C.tickPath hB p hp _ h | exact h

/-! ## Radio unit -/

theorem drivePower (w : Work) (h : P w.st) : P (drivePower w).st := by
  unfold Machine.drivePower
  split
  · exact h
  · exact C.onRu _ _ (fun _ => ⟨rfl, id, id, rfl, rfl⟩) h

theorem sendRequest (k : Request) (w : Work) (h : P w.st) : P (sendRequest k w).st :=
  C.onRu _ _ (fun _ => ⟨rfl, id, id, rfl, rfl⟩) h

theorem leaveSession (w : Work) (h : P w.st) : P (leaveSession w).st :=
  C.physicalLoss .radio (Or.inl rfl) _ (C.latch _ _ (C.flushQueue _ _ h))

theorem moveTo (n : RadioState) (hn : (n ≠ .fault ∧ n ≠ .session) ∨ M) (w : Work) (h : P w.st) : P (moveTo n w).st := by
  unfold Machine.moveTo
  dsimp only
  refine C.handConditions _ ?_
  have h1 : P (w.onRu (RadioUnit.enter n w.now)).st := by
    rcases hn with hn | hM
    · exact C.onRu _ _ (fun _ => ⟨rfl, fun hh => absurd hh hn.1, fun hh => absurd hh hn.2, rfl, rfl⟩) h
    · exact C.onRuEvent hM _ _ (fun _ => ⟨rfl, id, rfl, rfl⟩) h
  split
  · exact C.leaveSession _ h1
  · exact h1

theorem startTimer (ms : Nat) (w : Work) (h : P w.st) : P (startTimer ms w).st := C.onRu _ _ (fun _ => ⟨rfl, id, id, rfl, rfl⟩) h

theorem enterStopping (w : Work) (h : P w.st) : P (enterStopping w).st := by
  unfold Machine.enterStopping
  dsimp only
  split
  · exact C.startTimer _ _ (C.drivePower _ (C.moveTo _ (Or.inl (by decide)) _ h))
  · exact C.moveTo _ (Or.inl (by decide)) _ (C.moveTo _ (Or.inl (by decide)) _ h)

theorem actIdle (w : Work) (h : P w.st) : P (actIdle w).st := by
  unfold Machine.actIdle
  split
  · exact C.enterStopping _ h
  · split
    · exact C.sendRequest _ _ (C.moveTo _ (Or.inl (by decide)) _ h)
    · exact h

theorem enterIdle (w : Work) (h : P w.st) : P (enterIdle w).st := C.actIdle _ (C.moveTo _ (Or.inl (by decide)) _ h)

theorem enterPowering (w : Work) (h : P w.st) : P (enterPowering w).st := by
  unfold Machine.enterPowering
  dsimp only
  split
  · exact C.enterIdle _ (C.moveTo _ (Or.inl (by decide)) _ h)
  · exact C.startTimer _ _ (C.moveTo _ (Or.inl (by decide)) _ h)

theorem actOff (w : Work) (h : P w.st) : P (actOff w).st := by
  unfold Machine.actOff
  split
  · exact h
  · split
    · exact C.enterIdle _ h
    · exact C.startTimer _ _ (C.drivePower _ (C.moveTo _ (Or.inl (by decide)) _ h))

theorem enterOff (w : Work) (h : P w.st) : P (enterOff w).st := C.actOff _ (C.moveTo _ (Or.inl (by decide)) _ h)

theorem actAttached (w : Work) (h : P w.st) : P (actAttached w).st := by
  unfold Machine.actAttached
  split
  · exact h
  · split
    · exact C.sendRequest _ _ (C.moveTo _ (Or.inl (by decide)) _ h)
    · exact h
  · split
    · exact C.sendRequest _ _ (C.moveTo _ (Or.inl (by decide)) _ h)
    · exact h

theorem actSession (w : Work) (h : P w.st) : P (actSession w).st := by
  unfold Machine.actSession
  split
  · exact C.sendRequest _ _ (C.moveTo _ (Or.inl (by decide)) _ h)
  · exact h

theorem act (w : Work) (h : P w.st) : P (act w).st := by
  unfold Machine.act
  split
  · exact C.actOff _ h
  · exact C.actIdle _ h
  · exact C.actAttached _ h
  · exact C.actSession _ h
  all_goals exact h

theorem serveLink (w : Work) (h : P w.st) : P (serveLink w).st := by
  unfold Machine.serveLink
  dsimp only
  split
  · split
    · exact C.sendRequest _ _ (C.onRu _ _ (fun _ => ⟨rfl, id, id, rfl, rfl⟩) (C.act _ h))
    · exact C.act _ h
  · exact h

theorem clearRequest (w : Work) (h : P w.st) : P (clearRequest w).st := C.onRu _ _ (fun _ => ⟨rfl, id, id, rfl, rfl⟩) h

theorem resyncStep (k : Request) (w : Work) (h : P w.st) : P (resyncStep k w).st := by
  unfold Machine.resyncStep
  split
  · exact C.sendRequest _ _ h
  · exact C.enterIdle _ h
  all_goals exact h

theorem takeDetached (w : Work) (h : P w.st) : P (takeDetached w).st := by
  unfold Machine.takeDetached
  split
  iterate 5 · exact C.enterIdle _ h
  all_goals exact h

theorem readyChanged (w : Work) (h : P w.st) : P (readyChanged w).st := by
  unfold Machine.readyChanged
  split
  · split
    · exact C.enterIdle _ h
    all_goals exact h
  · split
    iterate 8 · exact C.enterPowering _ h
    · split
      · exact C.enterOff _ h
      · exact h
    · exact C.enterOff _ h
    all_goals exact h

theorem pwrPulseEnds (w : Work) (h : P w.st) : P (pwrPulseEnds w).st :=
  C.touch _ _ (C.onRu _ _ (fun _ => ⟨rfl, id, id, rfl, rfl⟩) h)

theorem stoppingTimedOut (w : Work) (h : P w.st) : P (stoppingTimedOut w).st := C.onRu _ _ (fun _ => ⟨rfl, id, id, rfl, rfl⟩) h

theorem pollDue (due : Time) (w : Work) (h : P w.st) : P (pollDue due w).st := by
  unfold Machine.pollDue
  dsimp only
  have h1 : P (w.onRu fun r => { r with pollDue := some (later due (r.poll * 1000)) }).st :=
    C.onRu _ _ (fun _ => ⟨rfl, id, id, rfl, rfl⟩) h
  split
  · split
    · exact h1
    · exact C.sendRequest _ _ h1
  · split
    · exact h1
    · exact C.onRu _ _ (fun _ => ⟨rfl, id, id, rfl, rfl⟩) h1

/-! ## Radio unit, in events other than passes -/

theorem enterAttached (hM : M) (w : Work) (h : P w.st) : P (enterAttached w).st :=
  C.actAttached _ (C.onRuEvent hM _ _ (fun _ => ⟨rfl, fun hr => ⟨hr.1, Nat.zero_le _, hr.2.2⟩, rfl, rfl⟩)
    (C.moveTo _ (Or.inl (by decide)) _ h))

theorem enterSession (hM : M) (w : Work) (h : P w.st) : P (enterSession w).st :=
  C.actSession _ (C.physicalAvailability .radio (Or.inl rfl) (Or.inr (Or.inl hM)) _ (C.latch _ _
    (C.onRuEvent hM _ _ (fun _ => ⟨rfl, fun hr => ⟨Nat.zero_le _, hr.2.1, (by decide : 10 ≤ 640)⟩, rfl, rfl⟩)
      (C.moveTo _ (Or.inr hM) _ h))))

omit C in
theorem backoffStep (r : RadioUnit) : RuEvent r { r with b := min 640 (2 * r.b) } :=
  ⟨rfl, fun hr => ⟨hr.1, hr.2.1, Nat.min_le_left _ _⟩, rfl, rfl⟩

omit C in
theorem resettingStep (now : Time) (r : RadioUnit) :
    RuEvent r { RadioUnit.pulseMrst now r with resets := min 3 (r.resets + 1), attachTimeouts := 0 } :=
  ⟨rfl, fun hr => ⟨Nat.zero_le _, Nat.min_le_left _ _, hr.2.2⟩, rfl, rfl⟩

theorem enterBackoff (hM : M) (w : Work) (h : P w.st) : P (enterBackoff w).st :=
  C.startTimer _ _ (C.onRuEvent hM _ _ backoffStep (C.moveTo _ (Or.inl (by decide)) _ h))

theorem enterResetting (hM : M) (w : Work) (h : P w.st) : P (enterResetting w).st := by
  unfold Machine.enterResetting
  dsimp only
  exact C.onRuEvent hM _ _ (resettingStep _) (C.moveTo _ (Or.inl (by decide)) _ h)

theorem breakRadioHold (w : Work) (h : P w.st) : P (breakRadioHold w).st := by
  unfold Machine.breakRadioHold
  split
  · rename_i hp
    exact C.endHold _ _ (Or.inr ⟨rfl, hp⟩) h
  · exact h

theorem enterFault (hM : M) (w : Work) (h : P w.st) : P (enterFault w).st :=
  C.owePass _ (C.breakRadioHold _ (C.endDrill _ _ _ (C.latch _ _
    (C.onRu _ _ (fun _ => ⟨rfl, id, id, rfl, rfl⟩) (C.moveTo _ (Or.inr hM) _ h)))))

theorem exitFault (hM : M) (w : Work) (h : P w.st) : P (exitFault w).st :=
  C.owePass _ (C.touch _ _ (C.latch _ _
    (C.onRuEvent hM _ _ (fun _ => ⟨rfl, fun _ => ⟨Nat.zero_le _, Nat.zero_le _, (by decide : 10 ≤ 640)⟩, rfl, rfl⟩) h)))

theorem leaveFault (hM : M) (w : Work) (h : P w.st) : P (leaveFault w).st := by
  unfold Machine.leaveFault
  split
  · exact C.moveTo _ (Or.inr hM) _ (C.exitFault hM _ h)
  · exact h

theorem tier0Restart (hM : M) (w : Work) (h : P w.st) : P (tier0Restart w).st := by
  unfold Machine.tier0Restart
  split
  · exact C.enterResetting hM _ (C.exitFault hM _ h)
  · exact h

theorem gradeSees (hM : M) (v : Option Nat) (w : Work) (h : P w.st) : P (gradeSees v w).st := by
  unfold Machine.gradeSees
  dsimp only
  have h1 := C.touchIf (decide (w.st.grade.take v ≠ w.st.grade)) (.path .radio) _ 
    (C.onGrade (Or.inr (Or.inl hM)) (fun g => g.take v) w h)
  split
  · exact h1
  · exact C.evaluate .radio (Or.inl rfl) (Or.inr (Or.inl hM)) _ h1

theorem reportSignal (hM : M) (v : Option Nat) (w : Work) (h : P w.st) : P (reportSignal v w).st := by
  unfold Machine.reportSignal
  dsimp only
  have h1 := C.touchIf (decide (w.st.ru.grade ≠ v)) .radioUnit _
    (C.onRuEvent hM (fun r => { r with grade := v, gradeTime := w.now }) w (fun _ => ⟨rfl, id, rfl, rfl⟩) h)
  split
  · exact h1
  · exact C.gradeSees hM _ _ h1

theorem countDiscard (hM : M) (w : Work) (h : P w.st) : P (countDiscard w).st :=
  C.onRuEvent hM _ _ (fun _ => ⟨rfl, id, rfl, rfl⟩) h

theorem clearTimeouts (hM : M) (w : Work) (h : P w.st) : P (w.onRu fun r => { r with attachTimeouts := 0 }).st :=
  C.onRuEvent hM _ _ (fun _ => ⟨rfl, fun hr => ⟨Nat.zero_le _, hr.2.1, hr.2.2⟩, rfl, rfl⟩) h

theorem okTo (hM : M) (k : Request) (w : Work) (h : P w.st) : P (okTo k w).st := by
  unfold Machine.okTo
  split
  · exact C.enterAttached hM _ (C.clearTimeouts hM _ h)
  · exact C.enterSession hM _ h
  · exact C.enterAttached hM _ h
  · exact C.enterIdle _ h
  · exact C.resyncStep _ _ h
  · exact h

theorem refusedTo (hM : M) (k : Request) (w : Work) (h : P w.st) : P (refusedTo k w).st := by
  unfold Machine.refusedTo
  split
  · exact C.enterBackoff hM _ (C.clearTimeouts hM _ h)
  · exact C.enterBackoff hM _ h
  · exact C.enterAttached hM _ h
  · exact C.enterIdle _ h
  · exact C.resyncStep _ _ h
  · exact h

theorem attachTimedOut (hM : M) (w : Work) (h : P w.st) : P (attachTimedOut w).st := by
  unfold Machine.attachTimedOut
  dsimp only
  have h1 : P (w.onRu fun r => { r with attachTimeouts := min 3 (r.attachTimeouts + 1) }).st :=
    C.onRuEvent hM _ _ (fun _ => ⟨rfl, fun hr => ⟨Nat.min_le_left _ _, hr.2.1, hr.2.2⟩, rfl, rfl⟩) h
  split
  · exact C.enterResetting hM _ h1
  · exact C.enterBackoff hM _ h1

theorem timeoutOf (hM : M) (k : Request) (w : Work) (h : P w.st) : P (timeoutOf k w).st := by
  unfold Machine.timeoutOf
  split
  · exact C.attachTimedOut hM _ h
  · exact C.enterBackoff hM _ h
  · exact C.enterResetting hM _ h
  · exact C.enterResetting hM _ h
  · exact C.resyncStep _ _ h
  · exact h

theorem takeOk (hM : M) (w : Work) (h : P w.st) : P (takeOk w).st := by
  unfold Machine.takeOk
  split
  · exact C.countDiscard hM _ h
  · split
    · exact C.countDiscard hM _ h
    · refine C.serveLink _ ?_
      split
      · exact C.clearRequest _ h
      · exact C.okTo hM _ _ (C.clearRequest _ h)

theorem takeRefused (hM : M) (r : Byte) (w : Work) (h : P w.st) : P (takeRefused r w).st := by
  unfold Machine.takeRefused
  split
  · exact C.countDiscard hM _ h
  · rename_i o ho
    dsimp only
    have h1 := C.clearRequest _ h
    have h2 : P ((Machine.clearRequest w).onRu fun x =>
        { x with refusalReason := r, refusalKind := some o.kind }).st := C.onRuEvent hM _ _ (fun _ => ⟨rfl, id, rfl, rfl⟩) h1
    split
    · split
      · exact C.serveLink _ (C.reportSignal hM _ _ h1)
      · exact C.serveLink _ (C.reportSignal hM _ _ h2)
    · refine C.serveLink _ ?_
      split
      · exact h1
      · exact C.refusedTo hM _ _ h2

theorem takeSignal (hM : M) (g : Byte) (w : Work) (h : P w.st) : P (takeSignal g w).st := by
  unfold Machine.takeSignal
  split
  · exact C.countDiscard hM _ h
  · split
    · exact C.serveLink _ (C.reportSignal hM _ _ (C.clearRequest _ h))
    · exact C.countDiscard hM _ h

theorem takeTimeout (hM : M) (o : Outstanding) (w : Work) (h : P w.st) : P (takeTimeout o w).st := by
  unfold Machine.takeTimeout
  dsimp only
  split
  · exact C.serveLink _ (C.reportSignal hM _ _ (C.clearRequest _ h))
  · refine C.serveLink _ ?_
    split
    · exact C.clearRequest _ h
    · exact C.timeoutOf hM _ _ (C.clearRequest _ h)

theorem takeSessionClosed (hM : M) (w : Work) (h : P w.st) : P (takeSessionClosed w).st := by
  unfold Machine.takeSessionClosed
  split
  · exact C.enterAttached hM _ h
  · exact C.enterAttached hM _ h
  all_goals exact h

theorem takeMessage (hM : M) (m : LinkMessage) (w : Work) (h : P w.st) : P (takeMessage m w).st := by
  unfold Machine.takeMessage
  split
  · exact C.takeOk hM _ h
  · exact C.takeRefused hM _ _ h
  · exact C.takeSignal hM _ _ h
  · exact C.takeSessionClosed hM _ h
  · exact C.takeDetached _ h
  · exact C.reportSignal hM _ _ h

theorem takeReceived (hM : M) (l : List Received) (w : Work) (h : P w.st) : P (takeReceived l w).st := by
  induction l generalizing w with
  | nil => exact h
  | cons r l ih =>
    cases r
    · exact ih _ (C.takeMessage hM _ _ h)
    · exact ih _ (C.countDiscard hM _ h)

theorem silence (hM : M) (w : Work) (h : P w.st) : P (silence w).st :=
  C.takeReceived hM _ _ (C.onRuEvent hM _ _ (fun _ => ⟨rfl, id, rfl, rfl⟩) h)

theorem endSilence (hM : M) (w : Work) (h : P w.st) : P (endSilence w).st := by
  unfold Machine.endSilence
  split
  · exact C.silence hM _ h
  · exact h

theorem receiveBytes (hM : M) (bs : List Byte) (w : Work) (h : P w.st) : P (receiveBytes bs w).st :=
  C.takeReceived hM _ _ (C.onRuEvent hM _ _ (fun _ => ⟨rfl, id, rfl, rfl⟩) (C.endSilence hM _ h))

theorem takeFrame (hM : M) (m : LinkMessage) (w : Work) (h : P w.st) : P (takeFrame m w).st :=
  C.receiveBytes hM _ _ h

theorem answerTimedOut (hM : M) (w : Work) (h : P w.st) : P (answerTimedOut w).st := by
  unfold Machine.answerTimedOut
  split
  · exact h
  · exact C.takeTimeout hM _ _ h

theorem resetPulseEnded (hM : M) (w : Work) (h : P w.st) : P (resetPulseEnded w).st := by
  unfold Machine.resetPulseEnded
  split
  · split
    · exact C.enterPowering _ h
    · exact C.enterFault hM _ h
  · split
    · exact C.enterOff _ h
    · exact h
  all_goals exact h

theorem mrstPulseEnds (hM : M) (w : Work) (h : P w.st) : P (mrstPulseEnds w).st := by
  unfold Machine.mrstPulseEnds
  dsimp only
  have h1 := C.touch .radioUnit _ (C.onRu (fun r => { r with mrst := r.mrst.finish w.now r.lines.mrstWidth }) w
    (fun _ => ⟨rfl, id, id, rfl, rfl⟩) h)
  split
  · exact h1
  · exact C.resetPulseEnded hM _ h1

theorem pulseEnds (hM : M) (l : PulseLine) (w : Work) (h : P w.st) : P (pulseEnds l w).st := by
  cases l
  · exact C.pwrPulseEnds _ h
  · exact C.mrstPulseEnds hM _ h

/-! ## Target and demand -/

theorem setTarget (hD : D) (w : Work) (h : P w.st) : P (setTarget w).st :=
  C.touchIf (decide (w.st.ru.target ≠ w.st.targetNow)) .radioUnit _
    (C.onAim hD (fun r => { r with target := w.st.targetNow }) w (fun _ => rfl) h)

theorem recomputeTarget (hD : D) (w : Work) (h : P w.st) : P (recomputeTarget w).st := by
  unfold Machine.recomputeTarget
  dsimp only
  have h1 := C.setTarget hD w h
  split
  · split
    · exact C.enterIdle _ h1
    · exact h1
  · exact C.act _ h1

theorem stopLinger (hD : D) (w : Work) (h : P w.st) : P (stopLinger w).st :=
  C.touchIf w.st.ru.lingerOn .radioUnit _ (C.onAim hD (fun r => { r with lingerOn := false }) w (fun _ => rfl) h)

theorem compareLinger (hD : D) (w : Work) (h : P w.st) : P (compareLinger w).st := by
  unfold Machine.compareLinger
  split
  · exact C.stopLinger hD _ h
  · exact h

theorem lingerSees (hD : D) (o n : Bool) (w : Work) (h : P w.st) : P (lingerSees o n w).st := by
  unfold Machine.lingerSees
  split
  · exact C.stopLinger hD _ h
  · split
    · exact C.touch .radioUnit _
        (C.onAim hD (fun r => { r with lingerOn := true, lingerStart := w.now }) _ (fun _ => rfl) h)
    · exact h

theorem urgencySees (hD : D) (o n : Bool) (w : Work) (h : P w.st) : P (urgencySees o n w).st := by
  unfold Machine.urgencySees
  split
  · exact C.enterIdle _ (C.setTarget hD _ h)
  · exact C.recomputeTarget hD _ h

theorem recomputeDemand (hD : D) (w : Work) (h : P w.st) : P (recomputeDemand w).st :=
  C.urgencySees hD _ _ _ (C.lingerSees hD _ _ _ (C.touchIf _ _ _ (C.onDemand hD _ _ _ h)))

/-! ## The steering pass -/

omit C in
theorem takePath_policy (now : Time) (n : ClassPath) (c : ClassRec) : (c.takePath now n).policy = c.policy := by
  unfold ClassRec.takePath
  split <;> rfl

theorem classStep (hS : S) (w : Work) (h : P w.st) : P (classStep w).st := by
  unfold Machine.classStep
  dsimp only
  have h1 : P (w.onClasses fun cs => cs.map fun c => c.takePath w.st.now (decideClass w.st c)).st :=
    C.onClasses _ _ (map_map_keep _ _ (fun c => takePath_policy _ _ c) _) (Or.inl hS) h
  split
  · exact h1
  · exact C.latch _ _ (C.touchAll _ _ h1)

omit C in
theorem become_identity (n : FlowState) (f : FlowRec) (hn : n.live = true) (hf : f.state.live = true) :
    (f.become n).identity = f.identity := by
  unfold FlowRec.become
  split
  · rfl
  · have hb : ∀ x : FlowRec, x.state.live = true → x.identity = { FlowRec.freed 0 with
        state := .waiting, cls := x.cls, opened := x.opened, lastFrame := x.lastFrame, idle := x.idle,
        longIdle := x.longIdle } := by
      intro x hx
      unfold FlowRec.identity
      rw [if_pos hx]
    cases n with
    | carried p => rw [hb _ rfl, hb _ hf]
    | waiting => rw [hb _ rfl, hb _ hf]
    | blocked => rw [hb _ rfl, hb _ hf]
    | free => cases hn
    | expired => cases hn

omit C in
theorem flowState_live (c : ClassPath) : c.flowState.live = true := by cases c <;> rfl

omit C in
theorem followClass_identity (s : State) (new : ClassPath) (f : FlowRec) :
    (followClass s new f).identity = f.identity := by
  unfold followClass
  dsimp only
  split
  · rfl
  · rename_i hl
    have hl : f.state.live = true := by simpa using hl
    split
    · split
      · rfl
      · show (f.become new.flowState).identity = f.identity
        exact become_identity _ _ (flowState_live _) hl
    · split
      · rfl
      · exact become_identity _ _ (flowState_live _) hl

theorem flowStep (hS : S) (s0 : State) (w : Work) (h : P w.st) : P (flowStep s0 w).st :=
  C.touchAll _ _ <| C.onFlows _ _ (map_map_keep _ _ (fun f => followClass_identity _ _ f) _) (Or.inl hS) h

theorem releaseHeld (x : HeldFrame) (w : Work) (h : P w.st) : P (releaseHeld x w).st := by
  unfold Machine.releaseHeld
  dsimp only
  have h1 : ∀ p, P (if w.st.bandFull p (w.st.cls x.cls).tier then
      Machine.latch Bit.holdDrops (placeFrame p x.cls x.flow x.data w) else placeFrame p x.cls x.flow x.data w).st := by
    intro p
    split
    · exact C.latch _ _ (C.enterBand _ _ _ _ h)
    · exact C.enterBand _ _ _ _ h
  split
  · exact h1 _
  · exact h1 _
  · exact h
  · exact C.latch _ _ (C.dropBlocked _ _ h)

theorem releaseAll (l : List HeldFrame) (w : Work) (h : P w.st) : P (releaseAll l w).st := by
  induction l generalizing w with
  | nil => exact h
  | cons x l ih => exact ih _ (C.releaseHeld _ _ h)

theorem releaseStep (s0 : State) (w : Work) (h : P w.st) : P (releaseStep s0 w).st := by
  refine C.releaseAll _ _ (C.onFwd _ _ ⟨?_, rfl, rfl, rfl, fun _ hh => List.mem_of_mem_filter hh⟩ h)
  intro hb
  obtain ⟨h1, h2, h3, h4, h5, h6⟩ := hb
  exact ⟨h1, h2, h3, h4, le_trans (List.length_filter_le _ _) h5, h6⟩

theorem drillStep (w : Work) (h : P w.st) : P (drillStep w).st := by
  unfold Machine.drillStep
  split
  · exact C.endDrill _ _ _ h
  · exact h

/-- A pass before its last step. -/
theorem passBody (hS : S) (w : Work) (h : P w.st) :
    P (Machine.drillStep (Machine.releaseStep w.st (Machine.handConditions
      (Machine.flowStep w.st (Machine.classStep w))))).st :=
  C.drillStep _ (C.releaseStep _ _ (C.handConditions _ (C.flowStep hS _ _ (C.classStep hS _ h))))

theorem steeringPass (hD : D) (hS : S) (w : Work) (h : P w.st) : P (steeringPass w).st :=
  C.recomputeDemand hD _ (C.passBody hS _ h)

theorem runPasses (hD : D) (hS : S) (n : Nat) (w : Work) (h : P w.st) : P (runPasses n w).st := by
  induction n generalizing w with
  | zero => exact h
  | succ n ih =>
    unfold Machine.runPasses
    split
    · exact ih _ (C.steeringPass hD hS _ h)
    · split
      · exact ih _ (C.recomputeDemand hD _ h)
      · exact h

/-- What the passes of an event can do. -/
theorem passes (hD : D) (hS : S) (w : Work) (h : P w.st) : P (passes w).st := C.runPasses hD hS _ _ h

/-! ## Shared parts of events -/

theorem watchFibre (hF : F) (w : Work) (h : P w.st) : P (watchFibre w).st := by
  unfold Machine.watchFibre
  dsimp only
  split
  · split
    · exact h
    · exact C.physicalLoss .fibre (Or.inr hF) _ (C.onFin hF _ _ (fun _ => rfl) (fun _ => rfl) h)
  · split
    · split
      · exact h
      · exact C.onFin hF _ _ (fun _ => rfl) (fun _ => rfl) h
    · exact C.onFin hF _ _ (fun _ => rfl) (fun _ => rfl) h

theorem fibreSettled (hF : F) (w : Work) (h : P w.st) : P (fibreSettled w).st :=
  C.physicalAvailability .fibre (Or.inr hF) (Or.inl hF) _ (C.onFin hF _ _ (fun _ => rfl) (fun _ => rfl) h)

theorem decayTick (hB : B) (p : Path) (hp : p = .radio ∨ F) (w : Work) (h : P w.st) : P (decayTick p w).st := by
  unfold Machine.decayTick
  dsimp only
  have h1 : P (w.onPath p PathRec.decay).st := by
    refine C.onProbe hB p hp _ _ (fun _ => ⟨rfl, id, ?_, id, rfl⟩) h
    intro hp
    exact le_trans (Nat.sub_le _ _) hp
  split
  · exact C.releaseSuppressed p hp (Or.inr (Or.inr hB)) _ h1
  · exact h1

theorem countUnmatched (hB : B) (p : Path) (hp : p = .radio ∨ F) (w : Work) (h : P w.st) : P (countUnmatched p w).st :=
  C.onProbe hB p hp _ _ (fun _ => ⟨rfl, id, id, id, rfl⟩) h

theorem takeProbeShaped (hB : B) (p : Path) (hp : p = .radio ∨ F) (d : List Byte) (w : Work) (h : P w.st) :
    P (takeProbeShaped p d w).st := by
  unfold Machine.takeProbeShaped
  split
  · split
    · exact C.resolveProbe hB p hp _ _ _ h
    · exact C.countUnmatched hB p hp _ h
  · exact C.countUnmatched hB p hp _ h

theorem countInbound (hD : D) (hS : S) (p : Path) (d : List Byte) (w : Work) (h : P w.st) : P (countInbound p d w).st := by
  cases p
  · exact h
  · exact C.passes hD hS _ (C.addUsed _ _ h)

theorem placeOutbound (hG : G) (path : ClassPath) (cls : Nat) (flow : Option Nat) (d : List Byte) (w : Work) (h : P w.st) :
    P (placeOutbound path cls flow d w).st := by
  cases path
  · exact C.enterBand _ _ _ _ h
  · exact C.enterBand _ _ _ _ h
  · unfold Machine.placeOutbound holdFrame
    dsimp only
    split
    · exact C.latch _ _ (C.onCounts _ _ (fun _ => holdFull_inRange _ _) h)
    · rename_i hfull
      refine C.onFwdEvent hG _ _ ?_ h
      intro hb
      obtain ⟨h1, h2, h3, h4, h5, h6⟩ := hb
      refine ⟨h1, h2, h3, h4, ?_, h6⟩
      simp only [Config.heldMax] at hfull
      simp only [List.length_append, List.length_cons, List.length_nil]
      omega
  · exact C.dropBlocked _ _ h

theorem portFree (p : Path) (w : Work) (h : P w.st) : P (portFree p w).st :=
  C.takeNext _ _ (C.onQueue _ _ _ (fun _ _ => by simp) (fun _ _ => by simp) h)

theorem dropOldest (w : Work) (h : P w.st) : P (dropOldest w).st := by
  refine C.latch _ _ (C.onCounts _ _ (ageHeld_inRange 1)
    (C.onFwd _ _ ⟨?_, rfl, rfl, rfl, fun _ hh => List.mem_of_mem_drop hh⟩ h))
  intro hb
  obtain ⟨h1, h2, h3, h4, h5, h6⟩ := hb
  refine ⟨h1, h2, h3, h4, ?_, h6⟩
  simp only [List.length_drop]
  omega

theorem drillSeesFlow (i : Nat) (w : Work) (h : P w.st) : P (drillSeesFlow i w).st := by
  unfold Machine.drillSeesFlow
  split
  · exact C.endDrill _ _ _ h
  · exact h

theorem restartSees (hM : M) (i : Nat) (w : Work) (h : P w.st) : P (restartSees i w).st := by
  unfold Machine.restartSees
  split
  · exact C.tier0Restart hM _ h
  · exact h

end Closed

end Sys2Proof.Machine
end

