-- ==== Sys2Proof/Laws/Memory.lean ====
section
/-! SUPPORT. The exchange memory: reading after a write, and the canonical form that every operation keeps. -/

namespace Sys2Proof.Machine

namespace Memory

/-- The written byte reads as written. -/
@[simp] theorem read_write_same (m : Memory) (a : Nat) (b : Byte) (h : m.wf = true) : (m.write a b).read a = b := by
  induction m with
  | nil =>
    unfold write
    split
    · rename_i hb
      exact hb.symm
    · simp [read]
  | cons c m ih =>
    obtain ⟨x, v⟩ := c
    simp only [wf, Bool.and_eq_true, List.all_eq_true, decide_eq_true_eq] at h
    have hrest : ∀ m : Memory, (∀ c ∈ m, x < c.1) → m.read x = 0 := by
      intro m hm
      induction m with
      | nil => rfl
      | cons d m ih =>
        have hd := hm d (by simp)
        have : d.1 ≠ x := by omega
        simp only [read, this, if_false]
        exact ih fun c hc => hm c (by simp [hc])
    have hlow : ∀ m : Memory, (∀ c ∈ m, a < c.1) → m.read a = 0 := by
      intro m hm
      induction m with
      | nil => rfl
      | cons d m ih =>
        have hd := hm d (by simp)
        have : d.1 ≠ a := by omega
        simp only [read, this, if_false]
        exact ih fun c hc => hm c (by simp [hc])
    unfold write
    split
    · split
      · rename_i hlt hb
        subst hb
        refine hlow _ ?_
        intro c hc
        rcases List.mem_cons.mp hc with rfl | hc
        · exact hlt
        · exact Nat.lt_trans hlt (h.1.2 c hc)
      · simp [read]
    · split
      · rename_i hax
        subst hax
        split
        · rename_i hb
          rw [hb]
          exact hrest m h.1.2
        · simp [read]
      · rename_i hax
        have : x ≠ a := fun hh => hax hh.symm
        simp only [read, this, if_false]
        exact ih h.2

/-- Every other byte reads as before. -/
@[simp] theorem read_write_other (m : Memory) (a c : Nat) (b : Byte) (h : c ≠ a) : (m.write a b).read c = m.read c := by
  induction m with
  | nil =>
    unfold write
    split
    · rfl
    · have : a ≠ c := fun hh => h hh.symm
      simp [read, this]
  | cons d m ih =>
    obtain ⟨x, v⟩ := d
    have hac : a ≠ c := fun hh => h hh.symm
    unfold write
    split
    · split
      · rfl
      · simp [read, hac]
    · split
      · rename_i hax
        subst hax
        split
        · simp [read, hac]
        · simp [read, hac]
      · simp only [read]
        split
        · rfl
        · exact ih

/-- An address of the memory after a write is one of before, or the written one. -/
theorem mem_write (m : Memory) (a : Nat) (b : Byte) (c : Host.Cell) (h : c ∈ m.write a b) : c ∈ m ∨ c = (a, b) := by
  induction m with
  | nil =>
    unfold write at h
    split at h
    · simp at h
    · exact Or.inr (by simpa using h)
  | cons d m ih =>
    obtain ⟨x, v⟩ := d
    unfold write at h
    split at h
    · split at h
      · exact Or.inl h
      · rcases List.mem_cons.mp h with rfl | h
        · exact Or.inr rfl
        · exact Or.inl h
    · split at h
      · split at h
        · exact Or.inl (List.mem_cons_of_mem _ h)
        · rcases List.mem_cons.mp h with rfl | h
          · exact Or.inr rfl
          · exact Or.inl (List.mem_cons_of_mem _ h)
      · rcases List.mem_cons.mp h with rfl | h
        · exact Or.inl (by simp)
        · rcases ih h with h | h
          · exact Or.inl (List.mem_cons_of_mem _ h)
          · exact Or.inr h

/-- A write keeps the canonical form. -/
theorem wf_write (m : Memory) (a : Nat) (b : Byte) (h : m.wf = true) : (m.write a b).wf = true := by
  induction m with
  | nil =>
    unfold write
    split
    · rfl
    · rename_i hb
      simp only [wf, List.all_nil, Bool.and_true, decide_eq_true_eq]
      exact hb
  | cons d m ih =>
    obtain ⟨x, v⟩ := d
    have h' := h
    simp only [wf, Bool.and_eq_true, List.all_eq_true, decide_eq_true_eq] at h
    unfold write
    split
    · split
      · exact h'
      · rename_i hlt hb
        simp only [wf, Bool.and_eq_true, List.all_eq_true, decide_eq_true_eq]
        refine ⟨⟨hb, ?_⟩, h⟩
        intro c hc
        rcases List.mem_cons.mp hc with rfl | hc
        · exact hlt
        · exact Nat.lt_trans hlt (h.1.2 c hc)
    · split
      · rename_i hax
        subst hax
        split
        · exact h.2
        · rename_i hb
          simp only [wf, Bool.and_eq_true, List.all_eq_true, decide_eq_true_eq]
          exact ⟨⟨hb, h.1.2⟩, h.2⟩
      · rename_i hlt hax
        simp only [wf, Bool.and_eq_true, List.all_eq_true, decide_eq_true_eq]
        refine ⟨⟨h.1.1, ?_⟩, ih h.2⟩
        intro c hc
        rcases mem_write m a b c hc with hc | rfl
        · exact h.1.2 c hc
        · show x < a
          omega

/-- Bytes written keep the canonical form. -/
theorem wf_writeBytes (m : Memory) (a : Nat) (bs : List Byte) (h : m.wf = true) : (m.writeBytes a bs).wf = true := by
  induction bs generalizing m a with
  | nil => exact h
  | cons b bs ih => exact ih _ _ (wf_write m a b h)

/-- Outside the written bytes every byte reads as before. -/
theorem read_writeBytes_other (m : Memory) (a c : Nat) (bs : List Byte) (h : c < a ∨ a + bs.length ≤ c) :
    (m.writeBytes a bs).read c = m.read c := by
  induction bs generalizing m a with
  | nil => rfl
  | cons b bs ih =>
    simp only [List.length_cons] at h
    rw [writeBytes, ih _ _ (by omega), read_write_other _ _ _ _ (by omega)]

/-- The written bytes read as written. -/
theorem read_writeBytes_same (m : Memory) (a k : Nat) (bs : List Byte) (h : m.wf = true) (hk : k < bs.length) :
    (m.writeBytes a bs).read (a + k) = bs[k] := by
  induction bs generalizing m a k with
  | nil => simp at hk
  | cons b bs ih =>
    cases k with
    | zero =>
      rw [writeBytes, read_writeBytes_other _ _ _ _ (by omega)]
      simpa using read_write_same m a b h
    | succ k =>
      have hk' : k < bs.length := by simpa using hk
      have := ih (m.write a b) (a + 1) k (wf_write m a b h) hk'
      rw [writeBytes, show a + (k + 1) = a + 1 + k by omega, this]
      rfl

end Memory

@[simp] theorem length_leBytes (size n : Nat) : (leBytes size n).length = size := by
  induction size generalizing n with
  | zero => rfl
  | succ k ih => simp [leBytes, ih]

@[simp] theorem length_padTo (size : Nat) (bs : List Byte) : (padTo size bs).length = size := by
  simp [padTo]
  omega

/-- The answer of an order keeps the canonical form. -/
theorem wf_slotAnswer (m : Memory) (i : Nat) (r : ResultCode) (ans : List Byte) (h : m.wf = true) :
    (slotAnswer m i r ans).wf = true :=
  Memory.wf_write _ _ _ (Memory.wf_writeBytes _ _ _ (Memory.wf_writeBytes _ _ _ h))

/-- The answer of an order writes the state byte, the result field and the answer area of its slot, nothing else. -/
theorem read_slotAnswer_other (m : Memory) (i : Nat) (r : ResultCode) (ans : List Byte) (a : Nat)
    (h0 : a ≠ slotBase i) (h1 : a < slotBase i + 4 ∨ slotBase i + 6 ≤ a)
    (h2 : a < slotBase i + 104 ∨ slotBase i + 128 ≤ a) : (slotAnswer m i r ans).read a = m.read a := by
  unfold slotAnswer
  rw [Memory.read_write_other _ _ _ _ h0, Memory.read_writeBytes_other _ _ _ _ (by simpa using h2),
    Memory.read_writeBytes_other _ _ _ _ (by simpa using h1)]

/-- The slot of an answered order is DONE. -/
theorem slotState_slotAnswer (m : Memory) (i : Nat) (r : ResultCode) (ans : List Byte) (h : m.wf = true) :
    slotState (slotAnswer m i r ans) i = Slot.done :=
  Memory.read_write_same _ _ _ (Memory.wf_writeBytes _ _ _ (Memory.wf_writeBytes _ _ _ h))

end Sys2Proof.Machine
end

