-- ==== Sys2Proof/Laws/Event.lean ====
section
/-! SUPPORT. The end of an event, said once: what `finish` leaves as it is, what it makes true of the condition set and
the IRQ line, and what an event and the taking of an order keep. -/

namespace Sys2Proof.Machine

/-! ## What the parts of `finish` leave -/

@[simp] theorem handConditions_clk (w : Work) : (handConditions w).st.clk = w.st.clk := by
  unfold handConditions
  dsimp only
  split
  · rfl
  · simp only [touch_st, onEv_clk]

@[simp] theorem handConditions_exch (w : Work) : (handConditions w).st.exch = w.st.exch := by
  unfold handConditions
  dsimp only
  split
  · rfl
  · simp only [touch_st, onEv_exch]

@[simp] theorem handConditions_mem (w : Work) : (handConditions w).st.mem = w.st.mem := by
  unfold handConditions
  dsimp only
  split
  · rfl
  · simp only [touch_st, onEv_mem]

@[simp] theorem handConditions_counts (w : Work) : (handConditions w).st.counts = w.st.counts := by
  unfold handConditions
  dsimp only
  split
  · rfl
  · simp only [touch_st, onEv_counts]

@[simp] theorem handConditions_gens (w : Work) : (handConditions w).st.gens = w.st.gens := by
  unfold handConditions
  dsimp only
  split
  · rfl
  · simp only [touch_st, onEv_gens]

@[simp] theorem handConditions_fibre (w : Work) : (handConditions w).st.fibre = w.st.fibre := by
  unfold handConditions
  dsimp only
  split
  · rfl
  · simp only [touch_st, onEv_fibre]

@[simp] theorem handConditions_radio (w : Work) : (handConditions w).st.radio = w.st.radio := by
  unfold handConditions
  dsimp only
  split
  · rfl
  · simp only [touch_st, onEv_radio]

@[simp] theorem handConditions_fin (w : Work) : (handConditions w).st.fin = w.st.fin := by
  unfold handConditions
  dsimp only
  split
  · rfl
  · simp only [touch_st, onEv_fin]

@[simp] theorem handConditions_grade (w : Work) : (handConditions w).st.grade = w.st.grade := by
  unfold handConditions
  dsimp only
  split
  · rfl
  · simp only [touch_st, onEv_grade]

@[simp] theorem handConditions_ru (w : Work) : (handConditions w).st.ru = w.st.ru := by
  unfold handConditions
  dsimp only
  split
  · rfl
  · simp only [touch_st, onEv_ru]

@[simp] theorem handConditions_steer (w : Work) : (handConditions w).st.steer = w.st.steer := by
  unfold handConditions
  dsimp only
  split
  · rfl
  · simp only [touch_st, onEv_steer]

@[simp] theorem handConditions_classes (w : Work) : (handConditions w).st.classes = w.st.classes := by
  unfold handConditions
  dsimp only
  split
  · rfl
  · simp only [touch_st, onEv_classes]

@[simp] theorem handConditions_hold (w : Work) : (handConditions w).st.hold = w.st.hold := by
  unfold handConditions
  dsimp only
  split
  · rfl
  · simp only [touch_st, onEv_hold]

@[simp] theorem handConditions_flows (w : Work) : (handConditions w).st.flows = w.st.flows := by
  unfold handConditions
  dsimp only
  split
  · rfl
  · simp only [touch_st, onEv_flows]

@[simp] theorem handConditions_fwd (w : Work) : (handConditions w).st.fwd = w.st.fwd := by
  unfold handConditions
  dsimp only
  split
  · rfl
  · simp only [touch_st, onEv_fwd]

@[simp] theorem handConditions_allow (w : Work) : (handConditions w).st.allow = w.st.allow := by
  unfold handConditions
  dsimp only
  split
  · rfl
  · simp only [touch_st, onEv_allow]

@[simp] theorem handConditions_sup (w : Work) : (handConditions w).st.sup = w.st.sup := by
  unfold handConditions
  dsimp only
  split
  · rfl
  · simp only [touch_st, onEv_sup]

@[simp] theorem handConditions_drill (w : Work) : (handConditions w).st.drill = w.st.drill := by
  unfold handConditions
  dsimp only
  split
  · rfl
  · simp only [touch_st, onEv_drill]

@[simp] theorem handConditions_pending (w : Work) : (handConditions w).st.pending = w.st.pending := by
  unfold handConditions
  dsimp only
  split
  · rfl
  · simp only [touch_st, onEv_pending]

@[simp] theorem handConditions_free (w : Work) : (handConditions w).st.free = w.st.free := by
  unfold handConditions
  dsimp only
  split
  · rfl
  · simp only [touch_st, onEv_free]

@[simp] theorem handConditions_rising (w : Work) : (handConditions w).st.ev.rising = w.st.ev.rising := by
  unfold handConditions
  dsimp only
  split
  · rfl
  · simp only [touch_st, onEv_ev]

@[simp] theorem handConditions_falling (w : Work) : (handConditions w).st.ev.falling = w.st.ev.falling := by
  unfold handConditions
  dsimp only
  split
  · rfl
  · simp only [touch_st, onEv_ev]

@[simp] theorem handConditions_enable (w : Work) : (handConditions w).st.ev.enable = w.st.ev.enable := by
  unfold handConditions
  dsimp only
  split
  · rfl
  · simp only [touch_st, onEv_ev]

@[simp] theorem handConditions_irq (w : Work) : (handConditions w).st.ev.irq = w.st.ev.irq := by
  unfold handConditions
  dsimp only
  split
  · rfl
  · simp only [touch_st, onEv_ev]

@[simp] theorem reportFlows_clk (o : List FlowRec) (w : Work) : (reportFlows o w).st.clk = w.st.clk := by
  unfold reportFlows
  dsimp only
  split
  · rfl
  · simp only [latch, onEv_clk, onExch_clk]

@[simp] theorem reportFlows_mem (o : List FlowRec) (w : Work) : (reportFlows o w).st.mem = w.st.mem := by
  unfold reportFlows
  dsimp only
  split
  · rfl
  · simp only [latch, onEv_mem, onExch_mem]

@[simp] theorem reportFlows_counts (o : List FlowRec) (w : Work) : (reportFlows o w).st.counts = w.st.counts := by
  unfold reportFlows
  dsimp only
  split
  · rfl
  · simp only [latch, onEv_counts, onExch_counts]

@[simp] theorem reportFlows_gens (o : List FlowRec) (w : Work) : (reportFlows o w).st.gens = w.st.gens := by
  unfold reportFlows
  dsimp only
  split
  · rfl
  · simp only [latch, onEv_gens, onExch_gens]

@[simp] theorem reportFlows_fibre (o : List FlowRec) (w : Work) : (reportFlows o w).st.fibre = w.st.fibre := by
  unfold reportFlows
  dsimp only
  split
  · rfl
  · simp only [latch, onEv_fibre, onExch_fibre]

@[simp] theorem reportFlows_radio (o : List FlowRec) (w : Work) : (reportFlows o w).st.radio = w.st.radio := by
  unfold reportFlows
  dsimp only
  split
  · rfl
  · simp only [latch, onEv_radio, onExch_radio]

@[simp] theorem reportFlows_fin (o : List FlowRec) (w : Work) : (reportFlows o w).st.fin = w.st.fin := by
  unfold reportFlows
  dsimp only
  split
  · rfl
  · simp only [latch, onEv_fin, onExch_fin]

@[simp] theorem reportFlows_grade (o : List FlowRec) (w : Work) : (reportFlows o w).st.grade = w.st.grade := by
  unfold reportFlows
  dsimp only
  split
  · rfl
  · simp only [latch, onEv_grade, onExch_grade]

@[simp] theorem reportFlows_ru (o : List FlowRec) (w : Work) : (reportFlows o w).st.ru = w.st.ru := by
  unfold reportFlows
  dsimp only
  split
  · rfl
  · simp only [latch, onEv_ru, onExch_ru]

@[simp] theorem reportFlows_steer (o : List FlowRec) (w : Work) : (reportFlows o w).st.steer = w.st.steer := by
  unfold reportFlows
  dsimp only
  split
  · rfl
  · simp only [latch, onEv_steer, onExch_steer]

@[simp] theorem reportFlows_classes (o : List FlowRec) (w : Work) : (reportFlows o w).st.classes = w.st.classes := by
  unfold reportFlows
  dsimp only
  split
  · rfl
  · simp only [latch, onEv_classes, onExch_classes]

@[simp] theorem reportFlows_hold (o : List FlowRec) (w : Work) : (reportFlows o w).st.hold = w.st.hold := by
  unfold reportFlows
  dsimp only
  split
  · rfl
  · simp only [latch, onEv_hold, onExch_hold]

@[simp] theorem reportFlows_flows (o : List FlowRec) (w : Work) : (reportFlows o w).st.flows = w.st.flows := by
  unfold reportFlows
  dsimp only
  split
  · rfl
  · simp only [latch, onEv_flows, onExch_flows]

@[simp] theorem reportFlows_fwd (o : List FlowRec) (w : Work) : (reportFlows o w).st.fwd = w.st.fwd := by
  unfold reportFlows
  dsimp only
  split
  · rfl
  · simp only [latch, onEv_fwd, onExch_fwd]

@[simp] theorem reportFlows_allow (o : List FlowRec) (w : Work) : (reportFlows o w).st.allow = w.st.allow := by
  unfold reportFlows
  dsimp only
  split
  · rfl
  · simp only [latch, onEv_allow, onExch_allow]

@[simp] theorem reportFlows_sup (o : List FlowRec) (w : Work) : (reportFlows o w).st.sup = w.st.sup := by
  unfold reportFlows
  dsimp only
  split
  · rfl
  · simp only [latch, onEv_sup, onExch_sup]

@[simp] theorem reportFlows_drill (o : List FlowRec) (w : Work) : (reportFlows o w).st.drill = w.st.drill := by
  unfold reportFlows
  dsimp only
  split
  · rfl
  · simp only [latch, onEv_drill, onExch_drill]

@[simp] theorem reportFlows_pending (o : List FlowRec) (w : Work) : (reportFlows o w).st.pending = w.st.pending := by
  unfold reportFlows
  dsimp only
  split
  · rfl
  · simp only [latch, onEv_pending, onExch_pending]

@[simp] theorem reportFlows_free (o : List FlowRec) (w : Work) : (reportFlows o w).st.free = w.st.free := by
  unfold reportFlows
  dsimp only
  split
  · rfl
  · simp only [latch, onEv_free, onExch_free]

@[simp] theorem reportFlows_service (o : List FlowRec) (w : Work) :
    (reportFlows o w).st.exch.service = w.st.exch.service := by
  unfold reportFlows
  dsimp only
  split
  · rfl
  · simp only [latch, onEv_exch, onExch_exch]

@[simp] theorem reportFlows_resetHeld (o : List FlowRec) (w : Work) :
    (reportFlows o w).st.exch.resetHeld = w.st.exch.resetHeld := by
  unfold reportFlows
  dsimp only
  split
  · rfl
  · simp only [latch, onEv_exch, onExch_exch]

@[simp] theorem reportFlows_warm (o : List FlowRec) (w : Work) :
    (reportFlows o w).st.exch.warm = w.st.exch.warm := by
  unfold reportFlows
  dsimp only
  split
  · rfl
  · simp only [latch, onEv_exch, onExch_exch]

@[simp] theorem reportFlows_initElapsed (o : List FlowRec) (w : Work) :
    (reportFlows o w).st.exch.initElapsed = w.st.exch.initElapsed := by
  unfold reportFlows
  dsimp only
  split
  · rfl
  · simp only [latch, onEv_exch, onExch_exch]

@[simp] theorem reportFlows_intEnable (o : List FlowRec) (w : Work) :
    (reportFlows o w).st.exch.intEnable = w.st.exch.intEnable := by
  unfold reportFlows
  dsimp only
  split
  · rfl
  · simp only [latch, onEv_exch, onExch_exch]

@[simp] theorem reportFlows_interval (o : List FlowRec) (w : Work) :
    (reportFlows o w).st.exch.interval = w.st.exch.interval := by
  unfold reportFlows
  dsimp only
  split
  · rfl
  · simp only [latch, onEv_exch, onExch_exch]

@[simp] theorem reportFlows_sweepDue (o : List FlowRec) (w : Work) :
    (reportFlows o w).st.exch.sweepDue = w.st.exch.sweepDue := by
  unfold reportFlows
  dsimp only
  split
  · rfl
  · simp only [latch, onEv_exch, onExch_exch]

@[simp] theorem reportFlows_sweep (o : List FlowRec) (w : Work) :
    (reportFlows o w).st.exch.sweep = w.st.exch.sweep := by
  unfold reportFlows
  dsimp only
  split
  · rfl
  · simp only [latch, onEv_exch, onExch_exch]

@[simp] theorem reportFlows_sweepDone (o : List FlowRec) (w : Work) :
    (reportFlows o w).st.exch.sweepDone = w.st.exch.sweepDone := by
  unfold reportFlows
  dsimp only
  split
  · rfl
  · simp only [latch, onEv_exch, onExch_exch]

@[simp] theorem reportFlows_nudgePending (o : List FlowRec) (w : Work) :
    (reportFlows o w).st.exch.nudgePending = w.st.exch.nudgePending := by
  unfold reportFlows
  dsimp only
  split
  · rfl
  · simp only [latch, onEv_exch, onExch_exch]

@[simp] theorem reportFlows_lastTicket (o : List FlowRec) (w : Work) :
    (reportFlows o w).st.exch.lastTicket = w.st.exch.lastTicket := by
  unfold reportFlows
  dsimp only
  split
  · rfl
  · simp only [latch, onEv_exch, onExch_exch]

@[simp] theorem reportFlows_sweepCount (o : List FlowRec) (w : Work) :
    (reportFlows o w).st.exch.sweepCount = w.st.exch.sweepCount := by
  unfold reportFlows
  dsimp only
  split
  · rfl
  · simp only [latch, onEv_exch, onExch_exch]

@[simp] theorem reportFlows_readData (o : List FlowRec) (w : Work) :
    (reportFlows o w).st.exch.readData = w.st.exch.readData := by
  unfold reportFlows
  dsimp only
  split
  · rfl
  · simp only [latch, onEv_exch, onExch_exch]

@[simp] theorem reportFlows_cond (o : List FlowRec) (w : Work) : (reportFlows o w).st.ev.cond = w.st.ev.cond := by
  unfold reportFlows
  dsimp only
  split
  · rfl
  · simp only [latch, onEv_ev, onExch_ev]

@[simp] theorem reportFlows_rising (o : List FlowRec) (w : Work) : (reportFlows o w).st.ev.rising = w.st.ev.rising := by
  unfold reportFlows
  dsimp only
  split
  · rfl
  · simp only [latch, onEv_ev, onExch_ev]

@[simp] theorem reportFlows_falling (o : List FlowRec) (w : Work) : (reportFlows o w).st.ev.falling = w.st.ev.falling := by
  unfold reportFlows
  dsimp only
  split
  · rfl
  · simp only [latch, onEv_ev, onExch_ev]

@[simp] theorem reportFlows_enable (o : List FlowRec) (w : Work) : (reportFlows o w).st.ev.enable = w.st.ev.enable := by
  unfold reportFlows
  dsimp only
  split
  · rfl
  · simp only [latch, onEv_ev, onExch_ev]

@[simp] theorem reportFlows_irq (o : List FlowRec) (w : Work) : (reportFlows o w).st.ev.irq = w.st.ev.irq := by
  unfold reportFlows
  dsimp only
  split
  · rfl
  · simp only [latch, onEv_ev, onExch_ev]

@[simp] theorem finish_clk (s0 : State) (w : Work) : (finish s0 w).clk = w.st.clk := by
  show (reportFlows s0.flows (handConditions w)).st.clk = w.st.clk
  simp

@[simp] theorem finish_mem (s0 : State) (w : Work) : (finish s0 w).mem = w.st.mem := by
  show (reportFlows s0.flows (handConditions w)).st.mem = w.st.mem
  simp

@[simp] theorem finish_gens (s0 : State) (w : Work) : (finish s0 w).gens = w.st.gens := by
  show (reportFlows s0.flows (handConditions w)).st.gens = w.st.gens
  simp

@[simp] theorem finish_fibre (s0 : State) (w : Work) : (finish s0 w).fibre = w.st.fibre := by
  show (reportFlows s0.flows (handConditions w)).st.fibre = w.st.fibre
  simp

@[simp] theorem finish_radio (s0 : State) (w : Work) : (finish s0 w).radio = w.st.radio := by
  show (reportFlows s0.flows (handConditions w)).st.radio = w.st.radio
  simp

@[simp] theorem finish_fin (s0 : State) (w : Work) : (finish s0 w).fin = w.st.fin := by
  show (reportFlows s0.flows (handConditions w)).st.fin = w.st.fin
  simp

@[simp] theorem finish_grade (s0 : State) (w : Work) : (finish s0 w).grade = w.st.grade := by
  show (reportFlows s0.flows (handConditions w)).st.grade = w.st.grade
  simp

@[simp] theorem finish_ru (s0 : State) (w : Work) : (finish s0 w).ru = w.st.ru := by
  show (reportFlows s0.flows (handConditions w)).st.ru = w.st.ru
  simp

@[simp] theorem finish_steer (s0 : State) (w : Work) : (finish s0 w).steer = w.st.steer := by
  show (reportFlows s0.flows (handConditions w)).st.steer = w.st.steer
  simp

@[simp] theorem finish_hold (s0 : State) (w : Work) : (finish s0 w).hold = w.st.hold := by
  show (reportFlows s0.flows (handConditions w)).st.hold = w.st.hold
  simp

@[simp] theorem finish_fwd (s0 : State) (w : Work) : (finish s0 w).fwd = w.st.fwd := by
  show (reportFlows s0.flows (handConditions w)).st.fwd = w.st.fwd
  simp

@[simp] theorem finish_allow (s0 : State) (w : Work) : (finish s0 w).allow = w.st.allow := by
  show (reportFlows s0.flows (handConditions w)).st.allow = w.st.allow
  simp

@[simp] theorem finish_sup (s0 : State) (w : Work) : (finish s0 w).sup = w.st.sup := by
  show (reportFlows s0.flows (handConditions w)).st.sup = w.st.sup
  simp

@[simp] theorem finish_drill (s0 : State) (w : Work) : (finish s0 w).drill = w.st.drill := by
  show (reportFlows s0.flows (handConditions w)).st.drill = w.st.drill
  simp

@[simp] theorem finish_pending (s0 : State) (w : Work) : (finish s0 w).pending = w.st.pending := by
  show (reportFlows s0.flows (handConditions w)).st.pending = w.st.pending
  simp

@[simp] theorem finish_free (s0 : State) (w : Work) : (finish s0 w).free = w.st.free := by
  show (reportFlows s0.flows (handConditions w)).st.free = w.st.free
  simp

@[simp] theorem finish_service (s0 : State) (w : Work) : (finish s0 w).exch.service = w.st.exch.service := by
  show (reportFlows s0.flows (handConditions w)).st.exch.service = w.st.exch.service
  simp

@[simp] theorem finish_resetHeld (s0 : State) (w : Work) : (finish s0 w).exch.resetHeld = w.st.exch.resetHeld := by
  show (reportFlows s0.flows (handConditions w)).st.exch.resetHeld = w.st.exch.resetHeld
  simp

@[simp] theorem finish_warm (s0 : State) (w : Work) : (finish s0 w).exch.warm = w.st.exch.warm := by
  show (reportFlows s0.flows (handConditions w)).st.exch.warm = w.st.exch.warm
  simp

@[simp] theorem finish_initElapsed (s0 : State) (w : Work) : (finish s0 w).exch.initElapsed = w.st.exch.initElapsed := by
  show (reportFlows s0.flows (handConditions w)).st.exch.initElapsed = w.st.exch.initElapsed
  simp

@[simp] theorem finish_intEnable (s0 : State) (w : Work) : (finish s0 w).exch.intEnable = w.st.exch.intEnable := by
  show (reportFlows s0.flows (handConditions w)).st.exch.intEnable = w.st.exch.intEnable
  simp

@[simp] theorem finish_interval (s0 : State) (w : Work) : (finish s0 w).exch.interval = w.st.exch.interval := by
  show (reportFlows s0.flows (handConditions w)).st.exch.interval = w.st.exch.interval
  simp

@[simp] theorem finish_sweepDue (s0 : State) (w : Work) : (finish s0 w).exch.sweepDue = w.st.exch.sweepDue := by
  show (reportFlows s0.flows (handConditions w)).st.exch.sweepDue = w.st.exch.sweepDue
  simp

@[simp] theorem finish_sweep (s0 : State) (w : Work) : (finish s0 w).exch.sweep = w.st.exch.sweep := by
  show (reportFlows s0.flows (handConditions w)).st.exch.sweep = w.st.exch.sweep
  simp

@[simp] theorem finish_sweepDone (s0 : State) (w : Work) : (finish s0 w).exch.sweepDone = w.st.exch.sweepDone := by
  show (reportFlows s0.flows (handConditions w)).st.exch.sweepDone = w.st.exch.sweepDone
  simp

@[simp] theorem finish_nudgePending (s0 : State) (w : Work) : (finish s0 w).exch.nudgePending = w.st.exch.nudgePending := by
  show (reportFlows s0.flows (handConditions w)).st.exch.nudgePending = w.st.exch.nudgePending
  simp

@[simp] theorem finish_lastTicket (s0 : State) (w : Work) : (finish s0 w).exch.lastTicket = w.st.exch.lastTicket := by
  show (reportFlows s0.flows (handConditions w)).st.exch.lastTicket = w.st.exch.lastTicket
  simp

@[simp] theorem finish_sweepCount (s0 : State) (w : Work) : (finish s0 w).exch.sweepCount = w.st.exch.sweepCount := by
  show (reportFlows s0.flows (handConditions w)).st.exch.sweepCount = w.st.exch.sweepCount
  simp

@[simp] theorem finish_readData (s0 : State) (w : Work) : (finish s0 w).exch.readData = w.st.exch.readData := by
  show (reportFlows s0.flows (handConditions w)).st.exch.readData = w.st.exch.readData
  simp

@[simp] theorem finish_rising (s0 : State) (w : Work) : (finish s0 w).ev.rising = w.st.ev.rising := by
  show (reportFlows s0.flows (handConditions w)).st.ev.rising = w.st.ev.rising
  simp

@[simp] theorem finish_falling (s0 : State) (w : Work) : (finish s0 w).ev.falling = w.st.ev.falling := by
  show (reportFlows s0.flows (handConditions w)).st.ev.falling = w.st.ev.falling
  simp

@[simp] theorem finish_enable (s0 : State) (w : Work) : (finish s0 w).ev.enable = w.st.ev.enable := by
  show (reportFlows s0.flows (handConditions w)).st.ev.enable = w.st.ev.enable
  simp

/-! ## Update counts -/

/-- A class record without its update count. -/
def ClassRec.content (c : ClassRec) : ClassRec := { c with count := 0 }

/-- A flow record without its update count. -/
def FlowRec.content (f : FlowRec) : FlowRec := { f with count := 0 }

theorem countClasses_content (t : List Rec) (i : Nat) (os ns : List ClassRec) :
    (countClasses t i os ns).map ClassRec.content = ns.map ClassRec.content := by
  induction os generalizing i ns with
  | nil => cases ns <;> rfl
  | cons o os ih =>
    cases ns with
    | nil => rfl
    | cons n ns => simp [countClasses, ih, ClassRec.content]

theorem countFlows_content (t : List Rec) (i : Nat) (os ns : List FlowRec) :
    (countFlows t i os ns).map FlowRec.content = ns.map FlowRec.content := by
  induction os generalizing i ns with
  | nil => cases ns <;> rfl
  | cons o os ih =>
    cases ns with
    | nil => rfl
    | cons n ns => simp [countFlows, ih, FlowRec.content]

theorem finish_classes (s0 : State) (w : Work) :
    (finish s0 w).classes.map ClassRec.content = w.st.classes.map ClassRec.content := by
  show (countClasses _ _ _ (reportFlows s0.flows (handConditions w)).st.classes).map ClassRec.content = _
  rw [countClasses_content]
  simp

theorem finish_flows (s0 : State) (w : Work) :
    (finish s0 w).flows.map FlowRec.content = w.st.flows.map FlowRec.content := by
  show (countFlows _ _ _ (reportFlows s0.flows (handConditions w)).st.flows).map FlowRec.content = _
  rw [countFlows_content]
  simp

/-- A test that does not read update counts gives the same answer on lists with the same contents. -/
theorem any_content {α β : Type} (g : α → β) (t : β → Bool) (f : α → Bool) (hf : ∀ a, f a = t (g a)) (l m : List α)
    (h : l.map g = m.map g) : l.any f = m.any f := by
  have : ∀ l : List α, l.any f = (l.map g).any t := by
    intro l
    rw [List.any_map]
    congr 1
    funext a
    exact hf a
  rw [this, this, h]

/-! ## Condition bits and the IRQ line after an event -/

/-- The facts read no update count, no event latch and no exchange port. -/
theorem facts_congr (s t : State) (h1 : s.fibre = t.fibre) (h2 : s.radio = t.radio) (h3 : s.ru = t.ru)
    (h4 : s.classes.map ClassRec.content = t.classes.map ClassRec.content)
    (h5 : s.flows.map FlowRec.content = t.flows.map FlowRec.content) (h6 : s.allow = t.allow) (h7 : s.sup = t.sup)
    (h8 : s.drill = t.drill) (h9 : s.hold = t.hold) : s.facts = t.facts := by
  have c1 : ∀ p : ClassPath, s.classes.any (fun c => decide (c.cur = p)) = t.classes.any fun c => decide (c.cur = p) :=
    fun p => any_content ClassRec.content (fun c => decide (c.cur = p)) _ (fun _ => rfl) _ _ h4
  have f1 : ∀ p : FlowState, s.flows.any (fun f => decide (f.state = p)) = t.flows.any fun f => decide (f.state = p) :=
    fun p => any_content FlowRec.content (fun f => decide (f.state = p)) _ (fun _ => rfl) _ _ h5
  unfold State.facts State.factList State.fibreUsable State.radioUsable
  rw [h1, h2, h3, h6, h7, h8, h9, c1, c1, f1, f1]

@[simp] theorem handConditions_cond (w : Work) : (handConditions w).st.ev.cond = w.st.facts := by
  unfold handConditions
  dsimp only
  split
  · rename_i h
    exact h.symm
  · simp only [touch_st, onEv_ev]

/-- After every event the condition bits are the facts (R183). -/
theorem finish_cond (s0 : State) (w : Work) : (finish s0 w).ev.cond = (finish s0 w).facts := by
  have h : (finish s0 w).ev.cond = w.st.facts := by
    show (reportFlows s0.flows (handConditions w)).st.ev.cond = w.st.facts
    simp
  rw [h]
  exact facts_congr _ _ (by simp) (by simp) (by simp) (finish_classes _ _).symm (finish_flows _ _).symm (by simp)
    (by simp) (by simp) (by simp)

/-- After every event the IRQ line is at its level (R189). -/
theorem finish_irq (s0 : State) (w : Work) :
    (finish s0 w).ev.irq = irqLevel (finish s0 w).exch.intEnable (finish s0 w).ev.latch (finish s0 w).ev.enable := rfl

/-! ## Properties that the end of an event keeps -/

/-- The properties that do not read what only the end of an event writes. -/
structure Reported (P : State → Prop) : Prop where
  counts : ∀ s c, P s → P { s with counts := c }
  flowChanges : ∀ s n, P s → P { s with exch := { s.exch with flowChanges := n } }
  classes : ∀ s cs, cs.map ClassRec.content = s.classes.map ClassRec.content → P s → P { s with classes := cs }
  flows : ∀ s fs, fs.map FlowRec.content = s.flows.map FlowRec.content → P s → P { s with flows := fs }
  irq : ∀ s b, P s → P { s with ev := { s.ev with irq := b } }

theorem Reported.finish {F M B G D S : Prop} {P : State → Prop} (R : Reported P) (C : Closed F M B G D S P) (s0 : State)
    (w : Work) (h : P w.st) : P (finish s0 w) := by
  have h1 : P (reportFlows s0.flows (handConditions w)).st := by
    unfold reportFlows
    dsimp only
    split
    · exact C.handConditions _ h
    · refine C.latch _ _ ?_
      exact R.flowChanges _ _ (C.handConditions _ h)
  unfold Machine.finish
  dsimp only
  generalize reportFlows s0.flows (handConditions w) = u at h1
  have h2 : P (rewriteRecords s0 u.touched u.st) := by
    unfold rewriteRecords
    dsimp only
    exact R.flows _ _ (countFlows_content _ _ _ _) (R.classes _ _ (countClasses_content _ _ _ _) (R.counts _ _ h1))
  exact R.irq _ _ h2

/-- An event whose own changes keep the property keeps it. -/
theorem Reported.event {F M B G D S : Prop} {P : State → Prop} (R : Reported P) (C : Closed F M B G D S P) (hD : D) (hS : S)
    (f : Work → Work) (s : State) (hf : P s → P (f (Work.begin s)).st) (h : P s) : P (event f s) := by
  unfold Machine.event
  split
  · exact h
  · exact R.finish C _ _ (C.passes hD hS _ (hf h))

/-! ## The taking of an order (R174) -/

/-- The next collected slot is READY and holds an order that the test accepts. -/
def State.offers (s : State) (accepts : Nat → Bool) (i : Nat) (rest : List Nat) : Prop :=
  s.exch.sweep = some (i :: rest) ∧ s.exch.service ≠ .init ∧ slotState s.mem i = Slot.ready
    ∧ accepts (slotKind s.mem i) = true

/-- Where an acceptable order is next, taking it is its body, its passes, its answer and the end of the event. -/
theorem takeOrder_offers (accepts : Nat → Bool) (body : List Byte → Work → Answered) (s : State) (i : Nat)
    (rest : List Nat) (h : s.offers accepts i rest) :
    takeOrder accepts body s =
      let a := body (slotParams s.mem i) (Work.begin s)
      let w := passes a.work
      finish s (writeAnswer i rest (slotTicket s.mem i) a.result (a.answer w.st) w) := by
  obtain ⟨h1, h2, h3, h4⟩ := h
  unfold takeOrder
  rw [h1]
  simp [h2, h3, h4]

/-- Where none is, nothing changes. -/
theorem takeOrder_none (accepts : Nat → Bool) (body : List Byte → Work → Answered) (s : State)
    (h : ∀ i rest, ¬s.offers accepts i rest) : takeOrder accepts body s = s := by
  unfold takeOrder
  split
  · rename_i i rest he
    split
    · rename_i hh
      exact absurd ⟨he, hh.1, hh.2.1, hh.2.2⟩ (h i rest)
    · rfl
  · rfl
  · rfl

end Sys2Proof.Machine
end

