-- ==== Sys2Proof/Laws/Kept.lean ====
section
/-! SUPPORT. What steering passes and the end of an event leave as they are, as equations: `kept` for every event, and
for the modem's events `keptByModem`; with them the latch, which only gains bits. -/

namespace Sys2Proof.Machine

/-! ## `kept` -/

theorem lasting_of_step {U : Prop} {r r' : PathRec} (h : PathStep U r r') : r'.lasting = r.lasting := by
  unfold PathRec.lasting
  rw [h.settings, h.decayDue, h.seq, h.sent, h.unmatched]

theorem ru_settings_of_lasting {r r' : RadioUnit} (h : r'.lasting = r.lasting) : r'.settings = r.settings := by
  have := congrArg RadioUnit.settings h
  exact this

/-- `kept` as it is made of its parts. -/
theorem kept_congr {s t : State} (h : s.kept = t.kept) (f : State → State) (hf : ∀ x, f x.kept = f x) : f s = f t := by
  rw [← hf s, ← hf t, h]

theorem closed_kept (K : State) : Closed False False False False True True fun s => s.kept = K where
  path := by
    intro s p f hp hs h
    obtain rfl : p = .radio := by simpa using hp
    rw [← h]
    have := lasting_of_step hs
    simp only [State.path] at this
    simp only [State.kept, State.onPath, this]
  probe := fun h => h.elim
  grade := fun h => by simp at h
  ru := by
    intro s r hs h
    rw [← h]
    simp only [State.kept, hs.lasting]
  ruEvent := fun h => h.elim
  aim := fun _ s a b c h => h
  demand := fun _ s a b h => h
  ret := fun h => h.elim
  classes := by
    intro s cs hs _ h
    rw [← h]
    simp only [State.kept, hs]
  hold := by
    intro s x hs h
    rw [← h]
    simp only [State.kept, hs.settings]
  flows := by
    intro s fs hs _ h
    rw [← h]
    simp only [State.kept, hs]
  free := fun h => h.elim
  fwd := by
    intro s f hs h
    rw [← h]
    simp only [State.kept, Forwarding.lasting, hs.lanLink, hs.lanOut, hs.receive]
  fwdEvent := fun h => h.elim
  allow := fun s n h => h
  drill := by
    intro s d hs h
    rw [← h]
    simp only [State.kept, hs.settings]
  ev := by
    intro s e hs h
    rw [← h]
    simp only [State.kept, hs.settings]
  fin := fun h => h.elim

theorem policy_of_content {cs ds : List ClassRec} (h : cs.map ClassRec.content = ds.map ClassRec.content) :
    cs.map ClassRec.policy = ds.map ClassRec.policy := by
  have := congrArg (List.map ClassRec.policy) h
  simp only [List.map_map] at this
  exact this

theorem identity_of_content {fs gs : List FlowRec} (h : fs.map FlowRec.content = gs.map FlowRec.content) :
    fs.map FlowRec.identity = gs.map FlowRec.identity := by
  have := congrArg (List.map FlowRec.identity) h
  simp only [List.map_map] at this
  exact this

theorem reported_kept (K : State) : Reported fun s => s.kept = K where
  counts := fun s c h => h
  flowChanges := fun s n h => h
  classes := by
    intro s cs hs h
    rw [← h]
    simp only [State.kept, policy_of_content hs]
  flows := by
    intro s fs hs h
    rw [← h]
    simp only [State.kept, identity_of_content hs]
  irq := fun s b h => h

/-- Passes keep `kept`. -/
theorem passes_kept (w : Work) : (passes w).st.kept = w.st.kept := (closed_kept w.st.kept).passes trivial trivial w rfl

/-- The end of an event keeps `kept`. -/
theorem finish_kept (s0 : State) (w : Work) : (finish s0 w).kept = w.st.kept :=
  (reported_kept w.st.kept).finish (closed_kept w.st.kept) s0 w rfl

/-- After an event, `kept` is what the event's own changes made of it. -/
theorem event_kept (f : Work → Work) (s : State) (hs : s.exch.service ≠ .init) :
    (event f s).kept = (f (Work.begin s)).st.kept := by
  unfold event
  rw [if_neg hs, finish_kept, passes_kept]

/-! ## `keptByModem` -/

theorem keptByModem_of_kept {s t : State} (h : s.kept = t.kept) : s.keptByModem = t.keptByModem := by
  have h1 : s.ru.settings = t.ru.settings := ru_settings_of_lasting (congrArg State.ru h :)
  unfold State.keptByModem
  rw [h, h1]

theorem closed_keptByModem (K : State) : Closed False True False False True True fun s => s.keptByModem = K := by
  have hk : ∀ {s t : State}, s.keptByModem = K → t.kept = s.kept → t.keptByModem = K := by
    intro s t h e
    rw [← h]
    exact keptByModem_of_kept e
  exact {
    path := by
      intro s p f hp hs h
      obtain rfl : p = .radio := by simpa using hp
      refine hk h ?_
      have := lasting_of_step hs
      simp only [State.path] at this
      simp only [State.kept, State.onPath, this]
    probe := fun h => h.elim
    grade := fun _ s g h => h
    ru := fun s r hs h => hk h ((closed_kept s.kept).ru s r hs rfl)
    ruEvent := by
      intro _ s r hs h
      rw [← h]
      simp only [State.keptByModem, State.kept, hs.settings]
    aim := fun hD s a b c h => hk h ((closed_kept s.kept).aim hD s a b c rfl)
    demand := fun hD s a b h => hk h ((closed_kept s.kept).demand hD s a b rfl)
    ret := fun h => h.elim
    classes := fun s cs hs hc h => hk h ((closed_kept s.kept).classes s cs hs hc rfl)
    hold := fun s x hs h => hk h ((closed_kept s.kept).hold s x hs rfl)
    flows := fun s fs hs hc h => hk h ((closed_kept s.kept).flows s fs hs hc rfl)
    free := fun h => h.elim
    fwd := fun s f hs h => hk h ((closed_kept s.kept).fwd s f hs rfl)
    fwdEvent := fun h => h.elim
    allow := fun s n h => hk h ((closed_kept s.kept).allow s n rfl)
    drill := fun s d hs h => hk h ((closed_kept s.kept).drill s d hs rfl)
    ev := fun s e hs h => hk h ((closed_kept s.kept).ev s e hs rfl)
    fin := fun h => h.elim }

/-- An event whose own changes keep `keptByModem` keeps it. -/
theorem event_keptByModem (f : Work → Work) (s : State)
    (hf : (f (Work.begin s)).st.keptByModem = s.keptByModem) : (event f s).keptByModem = s.keptByModem := by
  unfold event
  split
  · rfl
  · rw [keptByModem_of_kept (finish_kept _ _), keptByModem_of_kept (passes_kept _), hf]

/-! ## `keptByPaths` and `keptByProbes` -/

theorem path_settings_of_lasting {r r' : PathRec} (h : r'.lasting = r.lasting) : r'.settings = r.settings :=
  (congrArg PathRec.settings h :)

theorem steer_settings_of {t t' : Steering}
    (h : ({ t' with demand := false, urgent := false } : Steering) = { t with demand := false, urgent := false }) :
    t'.settings = t.settings := (congrArg Steering.settings h :)

theorem keptByPaths_of_kept {s t : State} (h : s.kept = t.kept) : s.keptByPaths = t.keptByPaths := by
  have h1 : s.fibre = t.fibre := (congrArg State.fibre h :)
  have h2 : s.steer.settings = t.steer.settings := steer_settings_of (congrArg State.steer h :)
  have h3 : s.fin = t.fin := (congrArg State.fin h :)
  unfold State.keptByPaths
  rw [h, h1, h2, h3]

theorem closed_keptByPaths (K : State) : Closed True False False False True True fun s => s.keptByPaths = K := by
  have hk : ∀ {s t : State}, s.keptByPaths = K → t.kept = s.kept → t.keptByPaths = K := by
    intro s t h e
    rw [← h]
    exact keptByPaths_of_kept e
  exact {
    path := by
      intro s p f hp hs h
      rw [← h]
      have := lasting_of_step hs
      cases p
      · simp only [State.path] at this
        simp only [State.keptByPaths, State.kept, State.onPath, this]
      · simp only [State.path] at this
        simp only [State.keptByPaths, State.kept, State.onPath, this]
    probe := fun h => h.elim
    grade := fun _ s g h => h
    ru := fun s r hs h => hk h ((closed_kept s.kept).ru s r hs rfl)
    ruEvent := fun h => h.elim
    aim := fun hD s a b c h => hk h ((closed_kept s.kept).aim hD s a b c rfl)
    demand := fun hD s a b h => hk h ((closed_kept s.kept).demand hD s a b rfl)
    ret := fun _ s a b h => h
    classes := fun s cs hs hc h => hk h ((closed_kept s.kept).classes s cs hs hc rfl)
    hold := by
      intro s x hs h
      rw [← h]
      simp only [State.keptByPaths, State.kept, hs.settings]
    flows := fun s fs hs hc h => hk h ((closed_kept s.kept).flows s fs hs hc rfl)
    free := fun h => h.elim
    fwd := fun s f hs h => hk h ((closed_kept s.kept).fwd s f hs rfl)
    fwdEvent := fun h => h.elim
    allow := fun s n h => hk h ((closed_kept s.kept).allow s n rfl)
    drill := fun s d hs h => hk h ((closed_kept s.kept).drill s d hs rfl)
    ev := fun s e hs h => hk h ((closed_kept s.kept).ev s e hs rfl)
    fin := by
      intro _ s f h1 h2 h
      rw [← h]
      simp only [State.keptByPaths, State.kept]
      cases f
      cases hs : s.fin
      simp only [hs] at h1 h2
      subst h1 h2
      rfl }

theorem keptByProbes_of {s t : State} (h : s.keptByPaths = t.keptByPaths) : s.keptByProbes = t.keptByProbes := by
  have h1 : s.fibre.settings = t.fibre.settings := path_settings_of_lasting (congrArg State.fibre h :)
  have h2 : s.radio.settings = t.radio.settings := path_settings_of_lasting (congrArg State.radio h :)
  unfold State.keptByProbes
  rw [h, h1, h2]

theorem closed_keptByProbes (K : State) : Closed True False True False True True fun s => s.keptByProbes = K := by
  have hk : ∀ {s t : State}, s.keptByProbes = K → t.keptByPaths = s.keptByPaths → t.keptByProbes = K := by
    intro s t h e
    rw [← h]
    exact keptByProbes_of e
  exact {
    path := by
      intro s p f hp hs h
      rw [← h]
      have := hs.settings
      cases p
      · simp only [State.path] at this
        simp only [State.keptByProbes, State.keptByPaths, State.kept, State.onPath, this]
      · simp only [State.path] at this
        simp only [State.keptByProbes, State.keptByPaths, State.kept, State.onPath, this]
    probe := by
      intro _ s p f hp hs h
      rw [← h]
      have := hs.settings
      cases p
      · simp only [State.path] at this
        simp only [State.keptByProbes, State.keptByPaths, State.kept, State.onPath, this]
      · simp only [State.path] at this
        simp only [State.keptByProbes, State.keptByPaths, State.kept, State.onPath, this]
    grade := fun hU s g h => hk h ((closed_keptByPaths s.keptByPaths).grade (Or.inl trivial) s g rfl)
    ru := fun s r hs h => hk h ((closed_keptByPaths s.keptByPaths).ru s r hs rfl)
    ruEvent := fun h => h.elim
    aim := fun hD s a b c h => hk h ((closed_keptByPaths s.keptByPaths).aim hD s a b c rfl)
    demand := fun hD s a b h => hk h ((closed_keptByPaths s.keptByPaths).demand hD s a b rfl)
    ret := fun hF s a b h => hk h ((closed_keptByPaths s.keptByPaths).ret hF s a b rfl)
    classes := fun s cs hs hc h => hk h ((closed_keptByPaths s.keptByPaths).classes s cs hs hc rfl)
    hold := fun s x hs h => hk h ((closed_keptByPaths s.keptByPaths).hold s x hs rfl)
    flows := fun s fs hs hc h => hk h ((closed_keptByPaths s.keptByPaths).flows s fs hs hc rfl)
    free := fun h => h.elim
    fwd := fun s f hs h => hk h ((closed_keptByPaths s.keptByPaths).fwd s f hs rfl)
    fwdEvent := fun h => h.elim
    allow := fun s n h => hk h ((closed_keptByPaths s.keptByPaths).allow s n rfl)
    drill := fun s d hs h => hk h ((closed_keptByPaths s.keptByPaths).drill s d hs rfl)
    ev := fun s e hs h => hk h ((closed_keptByPaths s.keptByPaths).ev s e hs rfl)
    fin := fun hF s f h1 h2 h => hk h ((closed_keptByPaths s.keptByPaths).fin hF s f h1 h2 rfl) }

theorem event_keptByPaths (f : Work → Work) (s : State)
    (hf : (f (Work.begin s)).st.keptByPaths = s.keptByPaths) : (event f s).keptByPaths = s.keptByPaths := by
  unfold event
  split
  · rfl
  · rw [keptByPaths_of_kept (finish_kept _ _), keptByPaths_of_kept (passes_kept _), hf]

theorem event_keptByProbes (f : Work → Work) (s : State)
    (hf : (f (Work.begin s)).st.keptByProbes = s.keptByProbes) : (event f s).keptByProbes = s.keptByProbes := by
  unfold event
  split
  · rfl
  · rw [keptByProbes_of (keptByPaths_of_kept (finish_kept _ _)), keptByProbes_of (keptByPaths_of_kept (passes_kept _)), hf]

/-! ## Single facts that passes keep -/

theorem passes_fibre (w : Work) : (passes w).st.fibre = w.st.fibre := (congrArg State.fibre (passes_kept w) :)
theorem passes_clk (w : Work) : (passes w).st.clk = w.st.clk := (congrArg State.clk (passes_kept w) :)
theorem passes_mem (w : Work) : (passes w).st.mem = w.st.mem := (congrArg State.mem (passes_kept w) :)
theorem passes_gens (w : Work) : (passes w).st.gens = w.st.gens := (congrArg State.gens (passes_kept w) :)
theorem passes_fin (w : Work) : (passes w).st.fin = w.st.fin := (congrArg State.fin (passes_kept w) :)
theorem passes_grade (w : Work) : (passes w).st.grade = w.st.grade := (congrArg State.grade (passes_kept w) :)
theorem passes_sup (w : Work) : (passes w).st.sup = w.st.sup := (congrArg State.sup (passes_kept w) :)
theorem passes_pending (w : Work) : (passes w).st.pending = w.st.pending := (congrArg State.pending (passes_kept w) :)
theorem passes_free (w : Work) : (passes w).st.free = w.st.free := (congrArg State.free (passes_kept w) :)

/-- A property of the radio path's state that the fall to DOWN keeps is kept by passes. -/
theorem passes_radioState (S : PathState → Prop) (hd : S .down) (w : Work) (h : S w.st.radio.state) :
    S (passes w).st.radio.state := by
  refine Closed.passes (F := False) (M := False) (B := False) (G := False) (D := True) (S := True)
    (P := fun s => S s.radio.state) ?_ trivial trivial w h
  exact {
    path := by
      intro s p f hp hs h
      obtain rfl : p = .radio := by simpa using hp
      rcases hs.moves with hU | e | e
      · simp at hU
      · show S (f s.radio).state
        simp only [State.path] at e
        rw [e]
        exact h
      · show S (f s.radio).state
        simp only [State.path] at e
        rw [e]
        exact hd
    probe := fun h => h.elim
    grade := fun _ _ _ h => h
    ru := fun _ _ _ h => h
    ruEvent := fun h => h.elim
    aim := fun _ _ _ _ _ h => h
    demand := fun _ _ _ _ h => h
    ret := fun h => h.elim
    classes := fun _ _ _ _ h => h
    hold := fun _ _ _ h => h
    flows := fun _ _ _ _ h => h
    free := fun h => h.elim
    fwd := fun _ _ _ h => h
    fwdEvent := fun h => h.elim
    allow := fun _ _ h => h
    drill := fun _ _ _ h => h
    ev := fun _ _ _ h => h
    fin := fun h => h.elim }

/-- Passes take the radio unit neither into SESSION nor into FAULT. -/
theorem passes_ruState (w : Work) :
    ((passes w).st.ru.state = .session → w.st.ru.state = .session)
      ∧ ((passes w).st.ru.state = .fault → w.st.ru.state = .fault) := by
  refine Closed.passes (F := False) (M := False) (B := False) (G := False) (D := True) (S := True)
    (P := fun s => (s.ru.state = .session → w.st.ru.state = .session) ∧ (s.ru.state = .fault → w.st.ru.state = .fault))
    ?_ trivial trivial w ⟨id, id⟩
  exact {
    path := by
      intro s p f _ _ h
      cases p <;> exact h
    probe := fun h => h.elim
    grade := fun _ _ _ h => h
    ru := fun _ _ hs h => ⟨fun e => h.1 (hs.session e), fun e => h.2 (hs.fault e)⟩
    ruEvent := fun h => h.elim
    aim := fun _ _ _ _ _ h => h
    demand := fun _ _ _ _ h => h
    ret := fun h => h.elim
    classes := fun _ _ _ _ h => h
    hold := fun _ _ _ h => h
    flows := fun _ _ _ _ h => h
    free := fun h => h.elim
    fwd := fun _ _ _ h => h
    fwdEvent := fun h => h.elim
    allow := fun _ _ h => h
    drill := fun _ _ _ h => h
    ev := fun _ _ _ h => h
    fin := fun h => h.elim }

/-- In passes an active hold goes on, unless a RADIO hold breaks. -/
theorem passes_hold (w : Work) (ha : w.st.hold.active = true) :
    ((passes w).st.hold.active = true ∧ (passes w).st.hold.stop = w.st.hold.stop)
      ∨ ((passes w).st.hold.active = false ∧ (passes w).st.hold.reason = .broken
          ∧ (passes w).st.hold.path = some .radio) := by
  refine Closed.passes (F := False) (M := False) (B := False) (G := False) (D := True) (S := True)
    (P := fun s => (s.hold.active = true ∧ s.hold.stop = w.st.hold.stop)
      ∨ (s.hold.active = false ∧ s.hold.reason = .broken ∧ s.hold.path = some .radio)) ?_ trivial trivial w (Or.inl ⟨ha, rfl⟩)
  exact {
    path := by
      intro s p f _ _ h
      cases p <;> exact h
    probe := fun h => h.elim
    grade := fun _ _ _ h => h
    ru := fun _ _ _ h => h
    ruEvent := fun h => h.elim
    aim := fun _ _ _ _ _ h => h
    demand := fun _ _ _ _ h => h
    ret := fun h => h.elim
    classes := fun _ _ _ _ h => h
    hold := by
      intro s x hs h
      have hp : x.path = s.hold.path := (congrArg Hold.path hs.settings :)
      rcases hs.goesOn with ⟨e1, e2, e3⟩ | ⟨e1, e2, e3 | e3⟩
      · show (x.active = true ∧ x.stop = _) ∨ (x.active = false ∧ x.reason = .broken ∧ x.path = some .radio)
        rw [e1, e2, e3, hp]
        exact h
      · exact e3.elim
      · exact Or.inr ⟨e2, e3.1, hp.trans e3.2⟩
    flows := fun _ _ _ _ h => h
    free := fun h => h.elim
    fwd := fun _ _ _ h => h
    fwdEvent := fun h => h.elim
    allow := fun _ _ h => h
    drill := fun _ _ _ h => h
    ev := fun _ _ _ h => h
    fin := fun h => h.elim }

/-! ## The EVENTS latch -/

/-- Bits set in `m` and latched stay latched. -/
def latched (m : Word) (s : State) : Prop := m &&& s.ev.latch = m

theorem closed_latched (F M B G D : Prop) (m : Word) : Closed F M B G D True (latched m) where
  path := by
    intro s p f _ _ h
    cases p <;> exact h
  probe := by
    intro _ s p f _ _ h
    cases p <;> exact h
  grade := fun _ _ _ h => h
  ru := fun _ _ _ h => h
  ruEvent := fun _ _ _ _ h => h
  aim := fun _ _ _ _ _ h => h
  demand := fun _ _ _ _ h => h
  ret := fun _ _ _ _ h => h
  classes := fun _ _ _ _ h => h
  hold := fun _ _ _ h => h
  flows := fun _ _ _ _ h => h
  free := fun _ _ _ _ h => h
  fwd := fun _ _ _ h => h
  fwdEvent := fun _ _ _ _ h => h
  allow := fun _ _ h => h
  drill := fun _ _ _ h => h
  ev := by
    intro s e he h
    unfold latched at *
    have h1 := he.latch
    calc m &&& e.latch = (m &&& s.ev.latch) &&& e.latch := by rw [h]
      _ = m &&& (s.ev.latch &&& e.latch) := by rw [BitVec.and_assoc]
      _ = m := by rw [h1, h]
  fin := fun _ _ _ _ _ h => h

theorem reported_latched (m : Word) : Reported (latched m) where
  counts := fun _ _ h => h
  flowChanges := fun _ _ h => h
  classes := fun _ _ _ h => h
  flows := fun _ _ _ h => h
  irq := fun _ _ h => h

theorem latched_self (s : State) : latched s.ev.latch s := by simp [latched]

theorem latched_latch (m : Word) (i : Nat) (w : Work) (h : latched m w.st) : latched m (latch i w).st :=
  (closed_latched False False False False False m).latch i w h

end Sys2Proof.Machine
end

