-- ==== Sys2Proof/Laws/Plain.lean ====
section
/-! SUPPORT. Events that owe no pass, said once: the state after one is the state its own changes made, with the condition
bits handed on (`handed`), up to update counts (`plain`). -/

namespace Sys2Proof.Machine

/-! ## Parts of `plain` -/

theorem countClasses_plain (t : List Rec) (i : Nat) (os ns : List ClassRec) :
    (countClasses t i os ns).map (fun c => { c with count := 0 }) = ns.map fun c => { c with count := 0 } :=
  countClasses_content t i os ns

theorem countFlows_plain (t : List Rec) (i : Nat) (os ns : List FlowRec) :
    (countFlows t i os ns).map (fun c => { c with count := 0 }) = ns.map fun c => { c with count := 0 } :=
  countFlows_content t i os ns

theorem rewriteRecords_plain (s0 : State) (t : List Rec) (s : State) : (rewriteRecords s0 t s).plain = s.plain := by
  unfold rewriteRecords State.plain
  simp only [countClasses_plain, countFlows_plain]

theorem refreshIrq_plain {s t : State} (h : s.plain = t.plain) : (refreshIrq s).plain = (refreshIrq t).plain :=
  congrArg (fun u => { u with ev := { u.ev with irq := irqLevel u.exch.intEnable u.ev.latch u.ev.enable } }) h

theorem countFlowChanges_self (fs : List FlowRec) : countFlowChanges fs fs = 0 := by
  induction fs with
  | nil => rfl
  | cons f fs ih => simp [countFlowChanges, flowChanged, ih]

theorem reportFlows_none (old : List FlowRec) (w : Work) (h : countFlowChanges old w.st.flows = 0) :
    reportFlows old w = w := by
  unfold reportFlows
  simp [h]

theorem handConditions_st_eq (w : Work) :
    (handConditions w).st = if w.st.facts = w.st.ev.cond then w.st else
      { w.st with ev := { w.st.ev with
          cond := w.st.facts,
          latch := w.st.ev.latch ||| edgeEvents w.st.ev.rising w.st.ev.falling w.st.ev.cond w.st.facts } } := by
  unfold handConditions
  dsimp only
  split <;> rfl

theorem handConditions_st (w : Work) : (handConditions w).st = (handConditions (Work.begin w.st)).st := by
  rw [handConditions_st_eq, handConditions_st_eq]
  rfl

/-- The end of an event without a flow change, up to update counts. -/
theorem finish_plain (s0 : State) (w : Work) (h : countFlowChanges s0.flows w.st.flows = 0) :
    (finish s0 w).plain = w.st.handed.plain := by
  unfold finish
  dsimp only
  rw [reportFlows_none s0.flows (handConditions w) (by simpa using h)]
  refine refreshIrq_plain ?_
  rw [rewriteRecords_plain, handConditions_st]

/-! ## Passes that are not owed -/

theorem passes_idle (w : Work) (h1 : w.passDue = false) (h2 : w.demandDue = false) : passes w = w := by
  unfold passes
  show runPasses (7 + 1) w = w
  unfold runPasses
  simp [h1, h2]

/-- An event that owes no pass and changes no flow. -/
theorem event_plain (f : Work → Work) (s : State) (hs : s.exch.service ≠ .init)
    (h1 : (f (Work.begin s)).passDue = false) (h2 : (f (Work.begin s)).demandDue = false)
    (h3 : countFlowChanges s.flows (f (Work.begin s)).st.flows = 0) :
    (event f s).plain = (f (Work.begin s)).st.handed.plain := by
  unfold event
  rw [if_neg hs, passes_idle _ h1 h2, finish_plain _ _ h3]

/-! ## `handed` -/

theorem handed_of_cond (s : State) (h : s.condTrue) : s.handed = refreshIrq s := by
  unfold State.handed handConditions
  dsimp only
  show refreshIrq (if s.facts = s.ev.cond then _ else _ : Work).st = _
  rw [if_pos h.symm]
  rfl

theorem refreshIrq_of_true (s : State) (h : s.irqTrue) : refreshIrq s = s := by
  unfold refreshIrq
  rw [← h]

theorem handed_of_current (s : State) (h : s.current) : s.handed = s := by
  rw [handed_of_cond s h.2.1, refreshIrq_of_true s h.2.2]

/-! ## Orders -/

theorem offers_of_kind {s : State} {kind i : Nat} {rest : List Nat} (h : s.offersKind kind i rest) :
    s.offers (fun k => decide (k = kind)) i rest := ⟨h.1, h.2.1, h.2.2.1, by simp [h.2.2.2]⟩

theorem takeKind_eq (kind : Nat) (body : List Byte → Work → Answered) (s : State) (i : Nat) (rest : List Nat)
    (h : s.offersKind kind i rest) :
    takeKind kind body s =
      let a := body (slotParams s.mem i) (Work.begin s)
      let w := passes a.work
      finish s (writeAnswer i rest (slotTicket s.mem i) a.result (a.answer w.st) w) :=
  takeOrder_offers _ body s i rest (offers_of_kind h)

theorem slotTicket_eq {m m' : Memory} (h : m = m') (i : Nat) : slotTicket m i = slotTicket m' i := by rw [h]

/-- The part of a taking that every order has, seen as a state. -/
theorem writeAnswer_st (s : State) (i : Nat) (rest : List Nat) (r : ResultCode) (ans : List Byte) (w : Work)
    (hm : w.st.mem = s.mem) :
    (writeAnswer i rest (slotTicket s.mem i) r ans w).st = w.st.answered i rest r ans := by
  unfold writeAnswer State.answered
  rw [slotTicket_eq hm]
  rfl

/-- What every taking leaves of the parts that passes keep: the answered slot, and what the order's own changes made. -/
theorem takeKind_kept (kind : Nat) (body : List Byte → Work → Answered) (s : State) (i : Nat) (rest : List Nat)
    (h : s.offersKind kind i rest) (hm : (body (slotParams s.mem i) (Work.begin s)).work.st.mem = s.mem) :
    (takeKind kind body s).kept =
      ((body (slotParams s.mem i) (Work.begin s)).work.st.answered i rest
        (body (slotParams s.mem i) (Work.begin s)).result
        ((body (slotParams s.mem i) (Work.begin s)).answer
          (passes (body (slotParams s.mem i) (Work.begin s)).work).st)).kept := by
  rw [takeKind_eq kind body s i rest h]
  dsimp only
  generalize body (slotParams s.mem i) (Work.begin s) = a at *
  rw [finish_kept, writeAnswer_st s i rest _ _ _ (by rw [passes_mem, hm])]
  have hk := passes_kept a.work
  exact congrArg (fun u : State => (u.answered i rest a.result (a.answer (passes a.work).st))) hk

/-- An order that owes no pass and changes no flow. -/
theorem takeKind_plain (kind : Nat) (body : List Byte → Work → Answered) (s : State) (i : Nat) (rest : List Nat)
    (h : s.offersKind kind i rest) (a : Answered) (ha : body (slotParams s.mem i) (Work.begin s) = a)
    (h1 : a.work.passDue = false) (h2 : a.work.demandDue = false) (hm : a.work.st.mem = s.mem)
    (h3 : countFlowChanges s.flows a.work.st.flows = 0) :
    (takeKind kind body s).plain = (a.work.st.answered i rest a.result (a.answer a.work.st)).handed.plain := by
  rw [takeKind_eq kind body s i rest h]
  dsimp only
  rw [ha, passes_idle _ h1 h2]
  have h4 : countFlowChanges s.flows
      (writeAnswer i rest (slotTicket s.mem i) a.result (a.answer a.work.st) a.work).st.flows = 0 := h3
  rw [finish_plain _ _ h4, writeAnswer_st s i rest _ _ _ hm]

theorem answered_cond (s : State) (i : Nat) (rest : List Nat) (r : ResultCode) (ans : List Byte) (h : s.condTrue) :
    (s.answered i rest r ans).condTrue := h

theorem answered_current (s : State) (i : Nat) (rest : List Nat) (r : ResultCode) (ans : List Byte) (h : s.current) :
    (s.answered i rest r ans).current := h

/-- A refused order. -/
theorem takeKind_refuse (kind : Nat) (body : List Byte → Work → Answered) (s : State) (i : Nat) (rest : List Nat)
    (h : s.offersKind kind i rest) (hc : s.current) (r : ResultCode)
    (ha : body (slotParams s.mem i) (Work.begin s) = refuse r (Work.begin s)) :
    (takeKind kind body s).plain = (s.answered i rest r []).plain := by
  rw [takeKind_plain kind body s i rest h _ ha rfl rfl rfl (countFlowChanges_self _)]
  exact congrArg State.plain (handed_of_current _ hc)

end Sys2Proof.Machine
end

