-- ==== Sys2Proof/Laws/Target.lean ====
section
/-! SUPPORT. The radio unit's target follows its inputs: nothing but the recomputations of R73 and R90 touches the target or
what it is computed from, and each recomputation leaves the two in agreement. -/

namespace Sys2Proof.Machine

/-- The target, and what it is computed from (R73). -/
def State.aim (s : State) : Target × Bool × Standby × Bool × Supply × Service :=
  (s.ru.target, s.ru.lingerOn, s.ru.standby, s.steer.demand, s.sup.state, s.exch.service)

theorem targetNow_of_aim {s t : State} (h : s.aim = t.aim) : s.targetNow = t.targetNow ∧ s.ru.target = t.ru.target := by
  simp only [State.aim, Prod.mk.injEq] at h
  obtain ⟨h1, h2, h3, h4, h5, h6⟩ := h
  refine ⟨?_, h1⟩
  unfold State.targetNow State.cappedStandby
  rw [h2, h3, h4, h5, h6]

theorem onTarget_of_aim {s t : State} (h : s.aim = t.aim) (ht : t.onTarget) : s.onTarget := by
  unfold State.onTarget at *
  rw [(targetNow_of_aim h).1, (targetNow_of_aim h).2, ht]

theorem closed_aim (F M B G : Prop) (A : Target × Bool × Standby × Bool × Supply × Service) :
    Closed F M B G False True fun s => s.aim = A where
  path := by
    intro s p f _ _ h
    cases p <;> exact h
  probe := by
    intro _ s p f _ _ h
    cases p <;> exact h
  grade := fun _ _ _ h => h
  ru := by
    intro s r hs h
    have hst : r.standby = s.ru.standby := (congrArg RadioUnit.standby hs.lasting :)
    rw [← h]
    simp only [State.aim, hs.aim.1, hs.aim.2, hst]
  ruEvent := by
    intro _ s r hs h
    have hst : r.standby = s.ru.standby := (congrArg RadioUnit.standby hs.settings :)
    rw [← h]
    simp only [State.aim, hs.aim.1, hs.aim.2, hst]
  aim := fun h => h.elim
  demand := fun h => h.elim
  ret := fun _ _ _ _ h => h
  classes := fun _ _ _ _ h => h
  hold := fun _ _ _ h => h
  flows := fun _ _ _ _ h => h
  free := fun _ _ _ _ h => h
  fwd := fun _ _ _ h => h
  fwdEvent := fun _ _ _ _ h => h
  allow := fun _ _ h => h
  drill := fun _ _ _ h => h
  ev := fun _ _ _ h => h
  fin := fun _ _ _ _ _ h => h

theorem reported_aim (A : Target × Bool × Standby × Bool × Supply × Service) : Reported fun s => s.aim = A where
  counts := fun _ _ h => h
  flowChanges := fun _ _ h => h
  classes := fun _ _ _ h => h
  flows := fun _ _ _ h => h
  irq := fun _ _ h => h

theorem enterIdle_aim (w : Work) : (enterIdle w).st.aim = w.st.aim :=
  (closed_aim False False False False w.st.aim).enterIdle w rfl

theorem act_aim (w : Work) : (act w).st.aim = w.st.aim := (closed_aim False False False False w.st.aim).act w rfl

/-- A recomputation of the target leaves it in agreement with its inputs. -/
theorem recomputeTarget_onTarget (w : Work) : (recomputeTarget w).st.onTarget := by
  unfold recomputeTarget
  dsimp only
  have h : (setTarget w).st.onTarget := rfl
  split
  · split
    · exact onTarget_of_aim (enterIdle_aim _) h
    · exact h
  · exact onTarget_of_aim (act_aim _) h

/-- So does a recomputation of demand. -/
theorem recomputeDemand_onTarget (w : Work) : (recomputeDemand w).st.onTarget := by
  unfold recomputeDemand urgencySees
  dsimp only
  split
  · exact onTarget_of_aim (enterIdle_aim _) rfl
  · exact recomputeTarget_onTarget _

theorem runPasses_onTarget (n : Nat) (w : Work) (h : w.st.onTarget) : (runPasses n w).st.onTarget := by
  induction n generalizing w with
  | zero => exact h
  | succ n ih =>
    unfold runPasses
    split
    · exact ih _ (recomputeDemand_onTarget _)
    · split
      · exact ih _ (recomputeDemand_onTarget _)
      · exact h

theorem passes_onTarget (w : Work) (h : w.st.onTarget) : (passes w).st.onTarget := runPasses_onTarget _ _ h

theorem finish_onTarget (s0 : State) (w : Work) (h : w.st.onTarget) : (finish s0 w).onTarget :=
  onTarget_of_aim
    ((reported_aim w.st.aim).finish (closed_aim False False False False w.st.aim) s0 w rfl) h

/-- An event whose own changes leave the target on its inputs ends with it there. -/
theorem event_onTarget (f : Work → Work) (s : State) (h : s.onTarget)
    (hf : (f (Work.begin s)).st.onTarget) : (event f s).onTarget := by
  unfold event
  split
  · exact h
  · exact finish_onTarget _ _ (passes_onTarget _ hf)

end Sys2Proof.Machine
end

