-- ==== Sys2Proof/Laws/Bounds.lean ====
section
/-! SUPPORT. What the shared machinery does to the bounds of the state and to the hold buffer: every shared operation keeps
the tables, stores, windows, counts and penalties in range; the pending lists never grow past 4; passes keep
pinned flows OPEN on RADIO; and after a pass every frame that is still held is bound to a WAITING class or flow. -/

namespace Sys2Proof.Machine

/-! ## Bounds of the blocks -/

/-- What `PathRec.sound` says of a path but for its pending list. -/
def PathRec.graded (r : PathRec) : Prop :=
  r.window.length ≤ 16 ∧ r.failCount ≤ 16 ∧ r.failLimit ≤ 16 ∧ r.penalty ≤ 8000 ∧ r.usableFlag = r.state.usable

/-- Neither pending list is longer than 4 (R6). -/
def State.pendingFits (s : State) : Prop := s.fibre.probes.length ≤ 4 ∧ s.radio.probes.length ≤ 4

/-- What `State.withinBounds` says but for the pending lists. -/
def State.blocksInRange (s : State) : Prop :=
  s.tables ∧ s.fwd.bounded ∧ s.fibre.graded ∧ s.radio.graded ∧ s.ru.inRange

theorem withinBounds_iff (s : State) : s.withinBounds ↔ s.blocksInRange ∧ s.pendingFits := by
  unfold State.withinBounds State.blocksInRange State.pendingFits PathRec.sound PathRec.graded
  tauto

theorem graded_of_step {U : Prop} {r r' : PathRec} (h : PathStep U r r') (hr : r.graded) : r'.graded := by
  obtain ⟨h1, h2, h3, h4, h5⟩ := hr
  have hl : r'.failLimit = r.failLimit := (congrArg PathRec.failLimit h.settings :)
  refine ⟨?_, h.fails h3 h2, hl ▸ h3, h.penalty h4, h.usable h5⟩
  rcases h.window with e | e <;> rw [e]
  · exact h1
  · exact Nat.zero_le _

theorem graded_of_probe {r r' : PathRec} (h : ProbeStep r r') (hr : r.graded) : r'.graded := by
  obtain ⟨h1, h2, h3, h4, h5⟩ := hr
  have hl : r'.failLimit = r.failLimit := (congrArg PathRec.failLimit h.settings :)
  exact ⟨h.window h1, h.fails ▸ h2, hl ▸ h3, h.penalty h4, h.usable h5⟩

theorem inRange_of_step {r r' : RadioUnit} (h : RuStep r r') (hr : r.inRange) : r'.inRange := by
  have h1 : r'.attachTimeouts = r.attachTimeouts := (congrArg RadioUnit.attachTimeouts h.lasting :)
  have h2 : r'.resets = r.resets := (congrArg RadioUnit.resets h.lasting :)
  have h3 : r'.b = r.b := (congrArg RadioUnit.b h.lasting :)
  exact ⟨h1 ▸ hr.1, h2 ▸ hr.2.1, h3 ▸ hr.2.2⟩

theorem length_of_map_eq {α β : Type} (g : α → β) {l m : List α} (h : l.map g = m.map g) : l.length = m.length := by
  simpa using congrArg List.length h

/-- Every shared operation keeps all bounds but those of the pending lists. -/
theorem closed_blocksInRange : Closed True True True True True True State.blocksInRange where
  path := by
    rintro s p f - hs ⟨h1, h2, h3, h4, h5⟩
    cases p
    · exact ⟨h1, h2, graded_of_step hs h3, h4, h5⟩
    · exact ⟨h1, h2, h3, graded_of_step hs h4, h5⟩
  probe := by
    rintro - s p f - hs ⟨h1, h2, h3, h4, h5⟩
    cases p
    · exact ⟨h1, h2, graded_of_probe hs h3, h4, h5⟩
    · exact ⟨h1, h2, h3, graded_of_probe hs h4, h5⟩
  grade := fun _ _ _ h => h
  ru := fun _ _ hs ⟨h1, h2, h3, h4, h5⟩ => ⟨h1, h2, h3, h4, inRange_of_step hs h5⟩
  ruEvent := fun _ _ _ hs ⟨h1, h2, h3, h4, h5⟩ => ⟨h1, h2, h3, h4, hs.inRange h5⟩
  aim := fun _ _ _ _ _ h => h
  demand := fun _ _ _ _ h => h
  ret := fun _ _ _ _ h => h
  classes := fun _ _ hc _ ⟨h1, h2⟩ => ⟨⟨(length_of_map_eq _ hc).trans h1.1, h1.2⟩, h2⟩
  hold := fun _ _ _ h => h
  flows := fun _ _ hf _ ⟨h1, h2⟩ => ⟨⟨h1.1, (length_of_map_eq _ hf).trans h1.2⟩, h2⟩
  free := fun _ _ _ hk ⟨h1, h2⟩ => ⟨⟨h1.1, hk.1.trans h1.2⟩, h2⟩
  fwd := fun _ _ hs ⟨h1, h2, h3⟩ => ⟨h1, hs.bounded h2, h3⟩
  fwdEvent := fun _ _ _ hs ⟨h1, h2, h3⟩ => ⟨h1, hs h2, h3⟩
  allow := fun _ _ h => h
  drill := fun _ _ _ h => h
  ev := fun _ _ _ h => h
  fin := fun _ _ _ _ _ h => h

theorem reported_blocksInRange : Reported State.blocksInRange where
  counts := fun _ _ h => h
  flowChanges := fun _ _ h => h
  classes := fun _ _ hc ⟨h1, h2⟩ => ⟨⟨(length_of_map_eq _ hc).trans h1.1, h1.2⟩, h2⟩
  flows := fun _ _ hf ⟨h1, h2⟩ => ⟨⟨h1.1, (length_of_map_eq _ hf).trans h1.2⟩, h2⟩
  irq := fun _ _ h => h

/-! ## Pending lists (R6, R11, R12) -/

/-- Every shared operation but those on probes keeps the pending lists within 4. -/
theorem closed_pendingFits : Closed True True False True True True State.pendingFits where
  path := by
    rintro s p f - hs ⟨h1, h2⟩
    cases p
    · refine ⟨?_, h2⟩
      show (f s.fibre).probes.length ≤ 4
      rcases hs.probes with e | e
      · exact (congrArg List.length e).trans_le h1
      · exact (congrArg List.length e).trans_le (Nat.zero_le _)
    · refine ⟨h1, ?_⟩
      show (f s.radio).probes.length ≤ 4
      rcases hs.probes with e | e
      · exact (congrArg List.length e).trans_le h2
      · exact (congrArg List.length e).trans_le (Nat.zero_le _)
  probe := fun h => h.elim
  grade := fun _ _ _ h => h
  ru := fun _ _ _ h => h
  ruEvent := fun _ _ _ _ h => h
  aim := fun _ _ _ _ _ h => h
  demand := fun _ _ _ _ h => h
  ret := fun _ _ _ _ h => h
  classes := fun _ _ _ _ h => h
  hold := fun _ _ _ h => h
  flows := fun _ _ _ _ h => h
  free := fun _ _ _ _ h => h
  fwd := fun _ _ _ h => h
  fwdEvent := fun _ _ _ _ h => h
  allow := fun _ _ h => h
  drill := fun _ _ _ h => h
  ev := fun _ _ _ h => h
  fin := fun _ _ _ _ _ h => h

theorem reported_pendingFits : Reported State.pendingFits where
  counts := fun _ _ h => h
  flowChanges := fun _ _ h => h
  classes := fun _ _ _ h => h
  flows := fun _ _ _ h => h
  irq := fun _ _ h => h

/-- A path's record replaced by one with a pending list of at most 4. -/
theorem onPath_pendingFits (p : Path) (f : PathRec → PathRec) (w : Work) (hf : (f (w.st.path p)).probes.length ≤ 4)
    (h : w.st.pendingFits) : (w.onPath p f).st.pendingFits := by
  cases p
  · exact ⟨hf, h.2⟩
  · exact ⟨h.1, hf⟩

theorem path_pendingFits (p : Path) (s : State) (h : s.pendingFits) : (s.path p).probes.length ≤ 4 := by
  cases p
  · exact h.1
  · exact h.2

theorem record_probes (x : Result) (r : PathRec) : (r.record x).probes = r.probes := by
  unfold PathRec.record PathRec.smooth
  dsimp only
  split
  · rfl
  · split <;> rfl

theorem enterResult_pendingFits (p : Path) (x : Result) (w : Work) (h : w.st.pendingFits) :
    (enterResult p x w).st.pendingFits :=
  closed_pendingFits.evaluate p (Or.inr trivial) (Or.inl trivial) _ (closed_pendingFits.noteReady _ _ _
    (onPath_pendingFits p _ _ ((congrArg List.length (record_probes _ _)).trans_le (path_pendingFits p _ h)) h))

theorem drainList_pendingFits (p : Path) (l : List Probe) (w : Work) (hl : l.length ≤ 4) (h : w.st.pendingFits) :
    (drainList p l w).st.pendingFits := by
  induction l generalizing w with
  | nil => exact onPath_pendingFits p _ _ (Nat.zero_le _) h
  | cons e l ih =>
    have ht : l.length ≤ 4 := le_trans (Nat.le_succ _) hl
    unfold drainList
    split
    · exact onPath_pendingFits p _ _ hl h
    · exact ih _ ht (enterResult_pendingFits p _ _ (onPath_pendingFits p _ _ ht h))
    · exact ih _ ht (enterResult_pendingFits p _ _ (onPath_pendingFits p _ _ ht h))

theorem resolveSeq_length (q : Half) (res : Resolution) (l : List Probe) : (resolveSeq q res l).length = l.length := by
  induction l with
  | nil => rfl
  | cons e l ih =>
    unfold resolveSeq
    split
    · rfl
    · simp [ih]

theorem onPath_path (p : Path) (f : PathRec → PathRec) (w : Work) : (w.onPath p f).st.path p = f (w.st.path p) := by
  cases p <;> rfl

theorem resolveProbe_pendingFits (p : Path) (q : Half) (res : Resolution) (w : Work) (h : w.st.pendingFits) :
    (resolveProbe p q res w).st.pendingFits := by
  have h1 := (resolveSeq_length q res (w.st.path p).probes).trans_le (path_pendingFits p _ h)
  refine drainList_pendingFits p _ _ ?_ (onPath_pendingFits p _ _ h1 h)
  rw [onPath_path]
  exact h1

/-- Draining leaves no more entries than it was given. -/
theorem drainList_probes (p : Path) (l : List Probe) (w : Work) :
    ((drainList p l w).st.path p).probes.length ≤ l.length := by
  induction l generalizing w with
  | nil => simp [drainList, onPath_path]
  | cons e l ih =>
    unfold drainList
    split
    · simp [onPath_path]
    · exact le_trans (ih _) (Nat.le_succ _)
    · exact le_trans (ih _) (Nat.le_succ _)

/-- A drain whose first entry is resolved leaves fewer entries than it was given. -/
theorem drainList_lost (p : Path) (e : Probe) (l : List Probe) (w : Work) :
    ((drainList p ({ e with res := .lost } :: l) w).st.path p).probes.length ≤ l.length := by
  unfold drainList
  exact drainList_probes p l _

/-- After the oldest entry has made room, at most 3 entries stand (R12). -/
theorem makeRoom_pendingFits (p : Path) (w : Work) (h : w.st.pendingFits) :
    (makeRoom p w).st.pendingFits ∧ ((makeRoom p w).st.path p).probes.length ≤ 3 := by
  have hp := path_pendingFits p _ h
  unfold makeRoom
  split
  · rename_i he
    exact ⟨h, by rw [he]; exact Nat.zero_le _⟩
  · rename_i e es he
    rw [he] at hp
    have hes : es.length ≤ 3 := Nat.le_of_succ_le_succ hp
    split
    · unfold drain
      rw [onPath_path]
      exact ⟨drainList_pendingFits p _ _ hp (onPath_pendingFits p _ _ hp h), le_trans (drainList_lost p e es _) hes⟩
    · rename_i hm
      refine ⟨h, ?_⟩
      rw [he]
      simp only [Config.pendingMax] at hm
      omega

theorem sendProbe_pendingFits (p : Path) (w : Work) (h : w.st.pendingFits) : (sendProbe p w).st.pendingFits := by
  obtain ⟨h1, h2⟩ := makeRoom_pendingFits p w h
  refine closed_pendingFits.takeNext _ _ (closed_pendingFits.onQueue _ _ _ (fun _ _ => by simp) (fun _ _ => by simp)
    (onPath_pendingFits p _ _ ?_ h1))
  simp only [List.length_append, List.length_cons, List.length_nil]
  omega

theorem offerTick_pendingFits (g : Generator) (p : Path) (w : Work) (h : w.st.pendingFits) :
    (offerTick g p w).st.pendingFits := by
  have h0 := path_pendingFits p _ h
  have ht : (tickPath p w).st.pendingFits := by
    unfold tickPath
    dsimp only
    split
    · split
      · exact sendProbe_pendingFits p _ (onPath_pendingFits p _ _ h0 h)
      · exact onPath_pendingFits p _ _ h0 h
    · exact h
  unfold offerTick
  split <;> first | exact ht | exact h

theorem takeProbeShaped_pendingFits (p : Path) (d : List Byte) (w : Work) (h : w.st.pendingFits) :
    (takeProbeShaped p d w).st.pendingFits := by
  have hc : (countUnmatched p w).st.pendingFits := onPath_pendingFits p _ _ (path_pendingFits p _ h) h
  unfold takeProbeShaped
  split
  · split
    · exact resolveProbe_pendingFits p _ _ _ h
    · exact hc
  · exact hc

theorem decayTick_pendingFits (p : Path) (w : Work) (h : w.st.pendingFits) : (decayTick p w).st.pendingFits := by
  have h1 : (w.onPath p PathRec.decay).st.pendingFits := onPath_pendingFits p _ _ (path_pendingFits p _ h) h
  unfold decayTick
  dsimp only
  split
  · exact closed_pendingFits.releaseSuppressed p (Or.inr trivial) (Or.inl trivial) _ h1
  · exact h1

/-! ## Held frames (R129, R130) -/

/-- The paths of classes, the states and pinned flags of flows, and a list that the hold buffer stays within. -/
def State.bound (cs : List ClassPath) (fs : List (FlowState × Bool)) (hs : List HeldFrame) (s : State) : Prop :=
  s.classes.map ClassRec.cur = cs ∧ s.flows.map FlowRec.course = fs ∧ ∀ h ∈ s.fwd.held, h ∈ hs

/-- Every shared operation but the first two steps of a pass keeps all bindings and adds nothing to the hold buffer. -/
theorem closed_bound (cs : List ClassPath) (fs : List (FlowState × Bool)) (hs : List HeldFrame) :
    Closed True True True False True False (State.bound cs fs hs) where
  path := by
    intro s p f _ _ h
    cases p <;> exact h
  probe := by
    intro _ s p f _ _ h
    cases p <;> exact h
  grade := fun _ _ _ h => h
  ru := fun _ _ _ h => h
  ruEvent := fun _ _ _ _ h => h
  aim := fun _ _ _ _ _ h => h
  demand := fun _ _ _ _ h => h
  ret := fun _ _ _ _ h => h
  classes := fun _ _ _ hc ⟨h1, h2⟩ => ⟨(hc.resolve_left id).trans h1, h2⟩
  hold := fun _ _ _ h => h
  flows := fun _ _ _ hf ⟨h1, h2, h3⟩ => ⟨h1, (hf.resolve_left id).trans h2, h3⟩
  free := fun h => h.elim
  fwd := fun _ _ hs ⟨h1, h2, h3⟩ => ⟨h1, h2, fun h hh => h3 h (hs.held h hh)⟩
  fwdEvent := fun h => h.elim
  allow := fun _ _ h => h
  drill := fun _ _ _ h => h
  ev := fun _ _ _ h => h
  fin := fun _ _ _ _ _ h => h

theorem reported_bound (cs : List ClassPath) (fs : List (FlowState × Bool)) (hs : List HeldFrame) :
    Reported (State.bound cs fs hs) where
  counts := fun _ _ h => h
  flowChanges := fun _ _ h => h
  classes := by
    rintro s ds hd ⟨h1, h2⟩
    have e := congrArg (List.map ClassRec.cur) hd
    simp only [List.map_map] at e
    exact ⟨(show ds.map ClassRec.cur = _ from e).trans h1, h2⟩
  flows := by
    rintro s gs hg ⟨h1, h2, h3⟩
    have e := congrArg (List.map FlowRec.course) hg
    simp only [List.map_map] at e
    exact ⟨h1, (show gs.map FlowRec.course = _ from e).trans h2, h3⟩
  irq := fun _ _ h => h

/-- The hold buffer stays within a list in every step of a pass. -/
theorem closed_heldWithin (hs : List HeldFrame) :
    Closed True True True False True True fun s => ∀ h ∈ s.fwd.held, h ∈ hs where
  path := by
    intro s p f _ _ h
    cases p <;> exact h
  probe := by
    intro _ s p f _ _ h
    cases p <;> exact h
  grade := fun _ _ _ h => h
  ru := fun _ _ _ h => h
  ruEvent := fun _ _ _ _ h => h
  aim := fun _ _ _ _ _ h => h
  demand := fun _ _ _ _ h => h
  ret := fun _ _ _ _ h => h
  classes := fun _ _ _ _ h => h
  hold := fun _ _ _ h => h
  flows := fun _ _ _ _ h => h
  free := fun h => h.elim
  fwd := fun _ _ hs h3 h hh => h3 h (hs.held h hh)
  fwdEvent := fun h => h.elim
  allow := fun _ _ h => h
  drill := fun _ _ _ h => h
  ev := fun _ _ _ h => h
  fin := fun _ _ _ _ _ h => h

/-- The binding of a held frame is read from the paths of classes and the states of flows alone. -/
theorem bindingPath_congr {s t : State} (h1 : s.classes.map ClassRec.cur = t.classes.map ClassRec.cur)
    (h2 : s.flows.map FlowRec.course = t.flows.map FlowRec.course) (h : HeldFrame) : s.bindingPath h = t.bindingPath h := by
  have hc : ∀ i, (s.cls i).cur = (t.cls i).cur := by
    intro i
    have e := congrArg (fun l => l.getD i (ClassRec.initial 3 false).cur) h1
    simp only [List.getD_map] at e
    exact e
  have hf : ∀ i, (s.flow i).state = (t.flow i).state := by
    intro i
    have e := congrArg (fun l => l.getD i (FlowRec.freed 0).course) h2
    simp only [List.getD_map] at e
    exact congrArg Prod.fst e
  unfold State.bindingPath
  split
  · exact hc _
  · rw [hf]

/-- Bindings kept, and nothing added to the hold buffer: its frames wait as before. -/
theorem heldFramesWait_of_bound {s t : State}
    (h : t.bound (s.classes.map ClassRec.cur) (s.flows.map FlowRec.course) s.fwd.held) (hs : s.heldFramesWait) :
    t.heldFramesWait := fun x hx => (bindingPath_congr h.1 h.2.1 x).trans (hs x (h.2.2 x hx))

theorem bound_self (s : State) : s.bound (s.classes.map ClassRec.cur) (s.flows.map FlowRec.course) s.fwd.held :=
  ⟨rfl, rfl, fun _ h => h⟩

/-- A steering pass leaves in the hold buffer only frames whose class or flow is WAITING (R129). -/
theorem steeringPass_heldFramesWait (w : Work) (h : w.st.heldFramesWait) : (steeringPass w).st.heldFramesWait := by
  unfold steeringPass
  dsimp only
  have hin : ∀ x ∈ (handConditions (flowStep w.st (classStep w))).st.fwd.held, x ∈ w.st.fwd.held :=
    (closed_heldWithin w.st.fwd.held).handConditions _
      ((closed_heldWithin w.st.fwd.held).flowStep trivial _ _
        ((closed_heldWithin w.st.fwd.held).classStep trivial w fun _ hx => hx))
  generalize handConditions (flowStep w.st (classStep w)) = u at hin
  have hr : (releaseStep w.st u).st.heldFramesWait := by
    let v := u.onFwd fun f => { f with held := u.st.fwd.held.filter fun x => !leftWaiting w.st u.st x }
    have hv : v.st.heldFramesWait := by
      intro x hx
      obtain ⟨hx1, hx2⟩ := List.mem_filter.mp hx
      by_contra hne
      have hw := h x (hin x hx1)
      have hne' : u.st.bindingPath x ≠ .waiting := hne
      simp [leftWaiting, hw, hne'] at hx2
    exact heldFramesWait_of_bound ((closed_bound _ _ _).releaseAll _ v (bound_self v.st)) hv
  refine heldFramesWait_of_bound ?_ hr
  exact (closed_bound _ _ _).recomputeDemand trivial _ ((closed_bound _ _ _).drillStep _ (bound_self _))

theorem runPasses_heldFramesWait (n : Nat) (w : Work) (h : w.st.heldFramesWait) : (runPasses n w).st.heldFramesWait := by
  induction n generalizing w with
  | zero => exact h
  | succ n ih =>
    unfold runPasses
    split
    · exact ih _ (steeringPass_heldFramesWait _ h)
    · split
      · exact ih _ (heldFramesWait_of_bound ((closed_bound _ _ _).recomputeDemand trivial _ (bound_self w.st)) h)
      · exact h

theorem passes_heldFramesWait (w : Work) (h : w.st.heldFramesWait) : (passes w).st.heldFramesWait :=
  runPasses_heldFramesWait _ _ h

/-- An event whose own changes leave every held frame waiting ends so. -/
theorem event_heldFramesWait (f : Work → Work) (s : State) (h : s.heldFramesWait)
    (hf : (f (Work.begin s)).st.heldFramesWait) : (event f s).heldFramesWait := by
  unfold event
  split
  · exact h
  · have hp := passes_heldFramesWait _ hf
    exact heldFramesWait_of_bound ((reported_bound _ _ _).finish (closed_bound _ _ _) s _ (bound_self _)) hp

/-! ## Pinned flows (R107, R108) -/

/-- States and pinned flags kept: pinned flows are on radio as before. -/
theorem pinsOnRadio_of_course {s t : State} (h : t.flows.map FlowRec.course = s.flows.map FlowRec.course)
    (hs : s.pinsOnRadio) : t.pinsOnRadio := by
  intro f hf hp
  have hm : f.course ∈ s.flows.map FlowRec.course := h ▸ List.mem_map_of_mem hf
  obtain ⟨g, hg, e⟩ := List.mem_map.mp hm
  have h1 : g.state = f.state := congrArg Prod.fst e
  have h2 : g.pinned = f.pinned := congrArg Prod.snd e
  exact h1.symm.trans (hs g hg (h2.trans hp))

/-- A flow that follows its class is pinned only on radio. -/
theorem followClass_pinned (s : State) (n : ClassPath) (f : FlowRec) (h : f.pinned = true → f.state = .carried .radio) :
    (followClass s n f).pinned = true → (followClass s n f).state = .carried .radio := by
  have hb : ∀ x : FlowState, (f.become x).pinned = f.pinned := by
    intro x
    unfold FlowRec.become
    split
    · rfl
    · cases x <;> rfl
  unfold followClass
  dsimp only
  split
  · exact h
  · split
    · split
      · exact h
      · exact fun hp => absurd hp (by simp)
    · rename_i hp
      split
      · rename_i hm
        intro _
        simp only [mayPin, Bool.and_eq_true, decide_eq_true_eq] at hm
        exact hm.1.1.1.2
      · rw [hb]
        exact fun hp' => absurd hp' hp

theorem steeringPass_pinsOnRadio (w : Work) (h : w.st.pinsOnRadio) : (steeringPass w).st.pinsOnRadio := by
  have hc : (classStep w).st.flows = w.st.flows := by
    unfold classStep
    dsimp only
    split <;> simp [latch]
  unfold steeringPass
  dsimp only
  have hf : (flowStep w.st (classStep w)).st.pinsOnRadio := by
    intro f hf
    obtain ⟨g, hg, rfl⟩ := List.mem_map.mp (show f ∈ (classStep w).st.flows.map _ from hf)
    exact followClass_pinned _ _ g (h g (hc ▸ hg))
  have hh : (handConditions (flowStep w.st (classStep w))).st.pinsOnRadio := pinsOnRadio_of_course (by simp) hf
  generalize handConditions (flowStep w.st (classStep w)) = u at hh
  have hr : (releaseStep w.st u).st.pinsOnRadio :=
    pinsOnRadio_of_course ((closed_bound _ _ _).releaseAll _ _ (bound_self _)).2.1 hh
  exact pinsOnRadio_of_course
    ((closed_bound _ _ _).recomputeDemand trivial _ ((closed_bound _ _ _).drillStep _ (bound_self _))).2.1 hr

theorem runPasses_pinsOnRadio (n : Nat) (w : Work) (h : w.st.pinsOnRadio) : (runPasses n w).st.pinsOnRadio := by
  induction n generalizing w with
  | zero => exact h
  | succ n ih =>
    unfold runPasses
    split
    · exact ih _ (steeringPass_pinsOnRadio _ h)
    · split
      · exact ih _ (pinsOnRadio_of_course
          ((closed_bound _ _ _).recomputeDemand trivial { w with demandDue := false } (bound_self w.st)).2.1 h)
      · exact h

theorem passes_pinsOnRadio (w : Work) (h : w.st.pinsOnRadio) : (passes w).st.pinsOnRadio := runPasses_pinsOnRadio _ _ h

/-- An event whose own changes leave pinned flows on radio ends so. -/
theorem event_pinsOnRadio (f : Work → Work) (s : State) (h : s.pinsOnRadio)
    (hf : (f (Work.begin s)).st.pinsOnRadio) : (event f s).pinsOnRadio := by
  unfold event
  split
  · exact h
  · exact pinsOnRadio_of_course ((reported_bound _ _ _).finish (closed_bound _ _ _) s _ (bound_self _)).2.1
      (passes_pinsOnRadio _ hf)

end Sys2Proof.Machine
end

