-- ==== Sys2Proof/Laws/Link.lean ====
section
/-! SUPPORT. The control link receiver (R54, R55): a hunting receiver takes a message's frame whole, drops bytes that are
no start byte, keeps an unfinished frame, and hunts on behind the start byte of a bad one. -/

namespace Sys2Proof.Machine

/-- No bytes, nothing received. -/
theorem receive_nil (n : Nat) : receive n [] = ([], []) := by cases n <;> rfl

/-- A hunting receiver takes a message's frame whole (R54, R55). -/
theorem receive_frame (m : LinkMessage) (n : Nat) : receive (n + 1) m.frame = ([.taken m], []) := by
  cases m <;> simp [receive, LinkMessage.frame, LinkMessage.body, hunt, linkMessageOf, receive_nil]

/-- Bytes before a start byte are dropped (R55). -/
theorem hunt_append (pre bs : List Byte) (h : 0x7E ∉ pre) : hunt (pre ++ bs) = hunt bs := by
  induction pre with
  | nil => rfl
  | cons b pre ih =>
    simp only [List.mem_cons, not_or] at h
    rw [List.cons_append, hunt, if_neg (Ne.symm h.1), ih h.2]

/-- Bytes without a start byte are dropped (R55). -/
theorem hunt_none (bs : List Byte) (h : 0x7E ∉ bs) : hunt bs = [] := by
  rw [← List.append_nil bs, hunt_append bs [] h]; rfl

/-- The receiver's work depends on its bytes from the first start byte on. -/
theorem receive_append (n : Nat) (pre bs : List Byte) (h : 0x7E ∉ pre) :
    receive (n + 1) (pre ++ bs) = receive (n + 1) bs := by rw [receive, hunt_append pre bs h, receive]

/-- A frame that is not whole stays under way (R55). -/
theorem receive_unfinished (n : Nat) (part : List Byte) (h : linkUnfinished part) :
    receive (n + 1) (0x7E :: part) = ([], 0x7E :: part) := by
  rcases part with _ | ⟨kind, _ | ⟨len, rest⟩⟩
  · rfl
  · rfl
  · have := h kind len rest rfl
    simp only [receive, hunt, if_pos, if_pos (show rest.length < len.toNat + 1 by omega)]

/-- A kind with a payload that the table does not give it is no message. -/
theorem linkMessageOf_none (kind : Byte) (payload : List Byte) (h : (kind, payload.length) ∉ linkTable) :
    linkMessageOf kind.toNat payload = none := by
  have back : ∀ n : Nat, kind.toNat = n → n < 256 → kind = BitVec.ofNat 8 n := fun n hn hl => by
    apply BitVec.eq_of_toNat_eq; simp [hn, Nat.mod_eq_of_lt hl]
  unfold linkMessageOf
  split
  all_goals first
    | rfl
    | (rename_i hk; exact absurd (by rw [back _ hk (by decide)]; simp [linkTable]) h)

/-- A bad frame is discarded, and the receiver hunts on at the byte behind its start byte (R55). -/
theorem receive_bad (n : Nat) (kind check : Byte) (payload more : List Byte) (hl : payload.length ≤ 255)
    (h : linkBad kind payload check) :
    receive (n + 1) (0x7E :: linkBytes kind payload check ++ more)
      = (.discarded :: (receive n (linkBytes kind payload check ++ more)).1,
          (receive n (linkBytes kind payload check ++ more)).2) := by
  have hn : (BitVec.ofNat 8 payload.length).toNat = payload.length := by
    rw [BitVec.toNat_ofNat]; exact Nat.mod_eq_of_lt (by omega)
  have hbad : (if checkByte (kind :: BitVec.ofNat 8 payload.length :: payload) = check
      then linkMessageOf kind.toNat payload else none) = none := by
    split
    · rename_i hc
      rcases h with h | h
      · exact linkMessageOf_none kind payload h
      · refine absurd ?_ h
        rw [← hc]
        simp only [linkBytes, checkByte, List.foldl_cons, List.foldl_append, List.foldl_nil]
        exact BitVec.add_right_neg _
    · rfl
  simp only [linkBytes, List.cons_append, List.append_assoc, receive, hunt, if_pos, hn,
    List.take_left', List.length_append, List.length_cons]
  rw [if_neg (by omega)]
  simp only [List.getD_eq_getElem?_getD, List.getElem?_append_right (Nat.le_refl _), Nat.sub_self, List.getElem?_cons_zero,
    Option.getD_some, hbad]

/-- At a receiver with no frame under way a message's command is the message taken (R55). -/
theorem takeFrame_hunting (m : LinkMessage) (w : Work) (h : w.st.ru.rx = []) : takeFrame m w = takeMessage m w := by
  have hs : endSilence w = w := by simp [endSilence, RadioUnit.silent, h]
  have hl : m.frame.length = (m.body.length + 1) + 1 := by simp [LinkMessage.frame]
  unfold takeFrame receiveBytes
  simp only [hs, h, List.nil_append, hl, receive_frame, takeReceived]
  congr 1
  rcases w with ⟨⟩
  simp [Work.onRu, ← h]

end Sys2Proof.Machine
end

