-- ==== Sys2Proof/WellFormed.lean ====
section
/-! DEFINITION. Which commands a sender can form: a bus access has a width the bus has and stays inside its
window and its width; a frame or a run of link bytes has at least one byte. The machine gives ill-formed
commands a meaning too (they are ignored or dropped); the check says what the outside can send. -/

namespace Sys2Proof

/-- The widths of a bus access (R168: 1, 2, 4 and 8 bytes). -/
def accessWidth (w : Nat) : Bool := w = 1 || w = 2 || w = 4 || w = 8

/-- A value that the bytes of an access of this width can carry. -/
def fitsWidth (width : Nat) (v : Nat) : Bool := v < 256 ^ width

namespace Instr

/-- The operands of the command are ones its sender can form. -/
def wellFormed : Instr → Bool
  | .eventsRead width => accessWidth width
  | .eventEnableWrite width value => accessWidth width && fitsWidth width value.toNat
  | .registerWrite offset width value => accessWidth width && decide (offset < 32) && fitsWidth width value.toNat
  | .exchangeMemoryWrite offset width value =>
    accessWidth width && decide (offset < 0x4000) && fitsWidth width value.toNat
  | .inboundFrame _ bytes => !bytes.isEmpty
  | .outboundFrame bytes => !bytes.isEmpty
  | .linkFrameDiscarded bytes => !bytes.isEmpty
  | .powerOn | .resetPinAssert | .resetPinRelease | .softReset | .initEnd | .interruptEnableWrite _ | .nudge _ => true
  | .sweepTimerExpiry | .slotPassedOver | .sweepEnd | .unknownOrderKind => true
  | .setGenerator | .setProbing | .setTemplate | .setScoring | .setDamping | .clearCause => true
  | .setRadio | .setModemLines | .releaseRadio | .setClass | .setSteering | .holdPath | .releaseHold => true
  | .openFlow | .closeFlow | .setAllowance | .newPeriod | .setSupply | .runDrill | .cancelDrill => true
  | .setEventEdges | .startService | .stopService | .setExchange => true
  | .generatorTick _ | .probeExpiry _ _ | .fibreLinkChange _ | .losChange _ | .fibreSettleExpiry | .decayTick _ => true
  | .okAnswer | .refusedAnswer _ | .signalAnswer _ | .sessionClosed | .detached | .signalIndication _ => true
  | .linkInterbyteTimeout _ | .answerTimeout | .readyChange _ | .poweringTimeout | .stoppingTimeout => true
  | .backoffExpiry | .pulseEnd _ | .pollTimerExpiry | .lingerExpiry | .returnDelayDue | .holdExpiry => true
  | .flowIdleExpiry _ | .idleGapReturn _ | .longIdleMark _ | .transmitHandoff _ | .holdAgeExpiry => true
  | .receiveQueueDelivery _ | .supplyLineChange _ _ | .debounceExpiry _ | .drillLimitExpiry => true

end Instr

end Sys2Proof
end

