-- ==== Sys2Proof/Laws/PerInstr.lean ====
section
/-! SUPPORT. What a well-formed command's operands satisfy, one lemma per constructor of Instr. -/

namespace Sys2Proof.Laws.WidthBound

/-- A well-formed bus access has a width of 1, 2, 4 or 8 bytes and a value of that width, inside its window; a frame
or run of link bytes is not empty. -/
def Statement (i : Instr) : Prop :=
  i.wellFormed = true →
    match i with
    | .eventsRead w => w ∈ [1, 2, 4, 8]
    | .eventEnableWrite w v => w ∈ [1, 2, 4, 8] ∧ v.toNat < 256 ^ w
    | .registerWrite off w v => w ∈ [1, 2, 4, 8] ∧ off < 32 ∧ v.toNat < 256 ^ w
    | .exchangeMemoryWrite off w v => w ∈ [1, 2, 4, 8] ∧ off < 0x4000 ∧ v.toNat < 256 ^ w
    | .inboundFrame _ bytes | .outboundFrame bytes | .linkFrameDiscarded bytes => bytes ≠ []
    | _ => True

theorem width_mem {w : Nat} (h : accessWidth w = true) : w ∈ [1, 2, 4, 8] := by
  simp only [accessWidth, Bool.or_eq_true, decide_eq_true_eq] at h
  simp only [List.mem_cons, List.not_mem_nil, or_false]
  omega

theorem value_fits {w v : Nat} (h : fitsWidth w v = true) : v < 256 ^ w := of_decide_eq_true h

theorem nonempty {bytes : List Byte} (h : (!bytes.isEmpty) = true) : bytes ≠ [] := by
  intro e
  rw [e] at h
  exact absurd h (by decide)

theorem powerOn : Statement .powerOn := fun _ => trivial
theorem resetPinAssert : Statement .resetPinAssert := fun _ => trivial
theorem resetPinRelease : Statement .resetPinRelease := fun _ => trivial
theorem softReset : Statement .softReset := fun _ => trivial
theorem initEnd : Statement .initEnd := fun _ => trivial
theorem interruptEnableWrite (enable : Bool) : Statement (.interruptEnableWrite enable) := fun _ => trivial
theorem nudge (value : Word) : Statement (.nudge value) := fun _ => trivial
theorem eventsRead (width : Nat) : Statement (.eventsRead width) := fun h => width_mem h
theorem eventEnableWrite (width : Nat) (value : Word) : Statement (.eventEnableWrite width value) := fun h =>
  have h := Bool.and_eq_true_iff.mp h
  ⟨width_mem h.1, value_fits h.2⟩

theorem registerWrite (offset width : Nat) (value : BitVec 64) : Statement (.registerWrite offset width value) := fun h =>
  have h := Bool.and_eq_true_iff.mp h
  have g := Bool.and_eq_true_iff.mp h.1
  ⟨width_mem g.1, of_decide_eq_true g.2, value_fits h.2⟩

theorem exchangeMemoryWrite (offset width : Nat) (value : BitVec 64) : Statement (.exchangeMemoryWrite offset width value) := fun h =>
  have h := Bool.and_eq_true_iff.mp h
  have g := Bool.and_eq_true_iff.mp h.1
  ⟨width_mem g.1, of_decide_eq_true g.2, value_fits h.2⟩

theorem sweepTimerExpiry : Statement .sweepTimerExpiry := fun _ => trivial
theorem slotPassedOver : Statement .slotPassedOver := fun _ => trivial
theorem sweepEnd : Statement .sweepEnd := fun _ => trivial
theorem unknownOrderKind : Statement .unknownOrderKind := fun _ => trivial
theorem setGenerator : Statement .setGenerator := fun _ => trivial
theorem setProbing : Statement .setProbing := fun _ => trivial
theorem setTemplate : Statement .setTemplate := fun _ => trivial
theorem setScoring : Statement .setScoring := fun _ => trivial
theorem setDamping : Statement .setDamping := fun _ => trivial
theorem clearCause : Statement .clearCause := fun _ => trivial
theorem setRadio : Statement .setRadio := fun _ => trivial
theorem setModemLines : Statement .setModemLines := fun _ => trivial
theorem releaseRadio : Statement .releaseRadio := fun _ => trivial
theorem setClass : Statement .setClass := fun _ => trivial
theorem setSteering : Statement .setSteering := fun _ => trivial
theorem holdPath : Statement .holdPath := fun _ => trivial
theorem releaseHold : Statement .releaseHold := fun _ => trivial
theorem openFlow : Statement .openFlow := fun _ => trivial
theorem closeFlow : Statement .closeFlow := fun _ => trivial
theorem setAllowance : Statement .setAllowance := fun _ => trivial
theorem newPeriod : Statement .newPeriod := fun _ => trivial
theorem setSupply : Statement .setSupply := fun _ => trivial
theorem runDrill : Statement .runDrill := fun _ => trivial
theorem cancelDrill : Statement .cancelDrill := fun _ => trivial
theorem setEventEdges : Statement .setEventEdges := fun _ => trivial
theorem startService : Statement .startService := fun _ => trivial
theorem stopService : Statement .stopService := fun _ => trivial
theorem setExchange : Statement .setExchange := fun _ => trivial
theorem generatorTick (g : Generator) : Statement (.generatorTick g) := fun _ => trivial
theorem probeExpiry (p : Path) (seq : Half) : Statement (.probeExpiry p seq) := fun _ => trivial
theorem inboundFrame (p : Path) (bytes : List Byte) : Statement (.inboundFrame p bytes) := fun h => nonempty h
theorem fibreLinkChange (up : Bool) : Statement (.fibreLinkChange up) := fun _ => trivial
theorem losChange (active : Bool) : Statement (.losChange active) := fun _ => trivial
theorem fibreSettleExpiry : Statement .fibreSettleExpiry := fun _ => trivial
theorem decayTick (p : Path) : Statement (.decayTick p) := fun _ => trivial
theorem okAnswer : Statement .okAnswer := fun _ => trivial
theorem refusedAnswer (reason : Byte) : Statement (.refusedAnswer reason) := fun _ => trivial
theorem signalAnswer (grade : Byte) : Statement (.signalAnswer grade) := fun _ => trivial
theorem sessionClosed : Statement .sessionClosed := fun _ => trivial
theorem detached : Statement .detached := fun _ => trivial
theorem signalIndication (grade : Byte) : Statement (.signalIndication grade) := fun _ => trivial
theorem linkFrameDiscarded (bytes : List Byte) : Statement (.linkFrameDiscarded bytes) := fun h => nonempty h
theorem linkInterbyteTimeout (bytes : List Byte) : Statement (.linkInterbyteTimeout bytes) := fun _ => trivial
theorem answerTimeout : Statement .answerTimeout := fun _ => trivial
theorem readyChange (high : Bool) : Statement (.readyChange high) := fun _ => trivial
theorem poweringTimeout : Statement .poweringTimeout := fun _ => trivial
theorem stoppingTimeout : Statement .stoppingTimeout := fun _ => trivial
theorem backoffExpiry : Statement .backoffExpiry := fun _ => trivial
theorem pulseEnd (line : PulseLine) : Statement (.pulseEnd line) := fun _ => trivial
theorem pollTimerExpiry : Statement .pollTimerExpiry := fun _ => trivial
theorem lingerExpiry : Statement .lingerExpiry := fun _ => trivial
theorem returnDelayDue : Statement .returnDelayDue := fun _ => trivial
theorem holdExpiry : Statement .holdExpiry := fun _ => trivial
theorem flowIdleExpiry (flow : Fin 128) : Statement (.flowIdleExpiry flow) := fun _ => trivial
theorem idleGapReturn (flow : Fin 128) : Statement (.idleGapReturn flow) := fun _ => trivial
theorem longIdleMark (flow : Fin 128) : Statement (.longIdleMark flow) := fun _ => trivial
theorem outboundFrame (bytes : List Byte) : Statement (.outboundFrame bytes) := fun h => nonempty h
theorem transmitHandoff (p : Path) : Statement (.transmitHandoff p) := fun _ => trivial
theorem holdAgeExpiry : Statement .holdAgeExpiry := fun _ => trivial
theorem receiveQueueDelivery (linkUp : Bool) : Statement (.receiveQueueDelivery linkUp) := fun _ => trivial
theorem supplyLineChange (line : SupplyLine) (high : Bool) : Statement (.supplyLineChange line high) := fun _ => trivial
theorem debounceExpiry (line : SupplyLine) : Statement (.debounceExpiry line) := fun _ => trivial
theorem drillLimitExpiry : Statement .drillLimitExpiry := fun _ => trivial

end Sys2Proof.Laws.WidthBound
end

