-- ==== Sys2Proof/Laws/Records.lean ====
section
/-! SUPPORT. What the bus reads of a mirror record (R190, R191): each byte of a field where fields do not overlap, and 0
where no field is. -/

namespace Sys2Proof.Machine

/-- Two fields share no byte. -/
def Field.apart (f g : Field) : Prop := f.off + f.size ≤ g.off ∨ g.off + g.size ≤ f.off

/-- A byte that no field has reads 0. -/
theorem fieldByte_outside {fs : List Field} {a : Nat} (h : ∀ f ∈ fs, ¬(f.off ≤ a ∧ a < f.off + f.size)) :
    fieldByte fs a = 0 := by
  induction fs with
  | nil => rfl
  | cons f fs ih =>
    unfold fieldByte
    rw [if_neg (h f (List.mem_cons_self ..))]
    exact ih fun g hg => h g (List.mem_cons_of_mem _ hg)

/-- Byte `k` of a field that no other overlaps. -/
theorem fieldByte_inside {fs : List Field} {f : Field} {k : Nat} (hd : fs.Pairwise Field.apart) (hf : f ∈ fs)
    (hk : k < f.size) : fieldByte fs (f.off + k) = byteOf (f.val / 256 ^ k) := by
  induction fs with
  | nil => cases hf
  | cons g fs ih =>
    rw [List.pairwise_cons] at hd
    unfold fieldByte
    rcases List.mem_cons.mp hf with rfl | hmem
    · rw [if_pos ⟨by omega, by omega⟩]
      congr 2
      congr 1
      omega
    · have hapart := hd.1 f hmem
      rw [if_neg (by unfold Field.apart at hapart; omega)]
      exact ih hd.2 hmem

/-- The update count's bytes stand first. -/
theorem recordByte_count (count : Half) (fs : List Field) (k : Nat) (hk : k < 2) :
    recordByte count fs k = byteOf (count.toNat / 256 ^ k) := by
  unfold recordByte
  rw [if_pos hk]

/-- Behind the update count a record reads as its fields. -/
theorem recordByte_field (count : Half) (fs : List Field) (a : Nat) (ha : 2 ≤ a) :
    recordByte count fs a = fieldByte fs a := by
  unfold recordByte
  rw [if_neg (by omega)]

end Sys2Proof.Machine
end

