-- ==== Sys2Proof/Laws/Words.lean ====
section
/-! SUPPORT. The words of the statements beside the operations of the model: what a path state change, an evaluation, a
result, an offer, the return delay, a hold, the end of a drill and a request sent make of the record they touch. -/

namespace Sys2Proof.Machine

theorem usable_iff (n : PathState) : n.usable = true ↔ n = .up ∨ n = .weak := by cases n <;> decide

/-! ## Path records -/

/-- A path that changes state takes the record that `movesTo` gives. -/
theorem enter_eq_movesTo (n : PathState) (now : Time) (r : PathRec) (h : r.state ≠ n) :
    r.enter n now = r.movesTo now n := by
  unfold PathRec.enter PathRec.movesTo
  rw [if_neg h]
  simp only [Bool.and_eq_true, Bool.not_eq_true', ← Bool.not_eq_true, usable_iff]
  congr 1
  rw [Bool.eq_iff_iff, usable_iff, decide_eq_true_iff]

/-- A path that goes to the state it is in stays as it is. -/
theorem movesTo_self (now : Time) (r : PathRec) : r.movesTo now r.state = r := if_pos rfl

/-- A path that is DOWN loses nothing. -/
theorem lostIn_down (s : State) (p : Path) (r : PathRec) (h : r.state = .down) : r.lostIn s p = r := if_pos h

theorem rank_eq_code (k : Cause) : k.rank = k.code := by cases k <;> rfl

/-- An offer is taken as the four rows of R47 say. -/
theorem offered_eq_afterOffer (c : CauseRecord) (lock : Bool) (k : Cause) (snap : Snapshot) :
    c.offered lock k snap = c.afterOffer lock k snap := by
  unfold CauseRecord.offered CauseRecord.afterOffer CauseRecord.writes moreSignificant hold8
  cases c.valid <;> cases lock <;> cases hc : c.cause <;> simp [rank_eq_code]

/-- The dominant score cause, ties included (R46). -/
theorem dominantCause_eq (pl pt pg : Nat) :
    dominantCause pl pt pg = if pt ≤ pl ∧ pg ≤ pl then Cause.loss else if pg ≤ pt then .latency else .signal := rfl

/-! ## The return delay, holds and drills -/

/-- The return delay after a fibre state change. -/
theorem returnSees_steer (was is : PathState) (w : Work) :
    (returnSees was is w).st.steer = w.st.steer.sees w.now was is := by
  unfold returnSees Steering.sees
  cases was <;> cases is <;> simp [PathState.usable] <;> split <;> rfl

/-- The hold after a path state change. -/
theorem holdSees_hold (p : Path) (was is : PathState) (w : Work) (h : was ≠ is) :
    (holdSees p was is w).st.hold = w.st.hold.sees w.now p was is := by
  have he : ∀ v : Work, v.st.hold.active = true → (endHold .broken v).st.hold
      = { v.st.hold with active := false, stop := v.now, reason := .broken } := by
    intro v hv
    unfold endHold
    rw [if_pos hv]
    simp [HoldEnd.latches, latch]
  unfold holdSees Hold.sees
  by_cases ha : w.st.hold.active = true ∧ w.st.hold.path = some p
  · have h1 : (w.st.hold.active && decide (w.st.hold.path = some p)) = true := by simpa using ha
    have h2 : ¬(w.st.hold.active = false ∨ w.st.hold.path ≠ some p ∨ was = is) := by simp [ha.1, ha.2, h]
    rw [if_pos h1, if_neg h2]
    cases p <;> cases was <;> cases is <;> first
      | exact absurd rfl h
      | rfl
      | exact he w ha.1
      | (cases hs : w.st.hold.seen
         · simp [PathState.usable]
         · simpa [PathState.usable, hs] using he w ha.1)
  · have h1 : ¬(w.st.hold.active && decide (w.st.hold.path = some p)) = true := by simpa using ha
    have h2 : w.st.hold.active = false ∨ w.st.hold.path ≠ some p ∨ was = is := by
      by_cases h3 : w.st.hold.active = true
      · exact Or.inr (Or.inl fun e => ha ⟨h3, e⟩)
      · exact Or.inl (by simpa using h3)
    rw [if_neg h1, if_pos h2]

/-- The drill unit after the end of a drill that runs. -/
theorem endDrill_drill (o : DrillOutcome) (c : DrillCause) (w : Work) (h : w.st.drill.running = true) :
    (endDrill o c w).st.drill = w.st.drillEnded o c := by
  unfold endDrill
  rw [if_pos h]
  simp [latch, State.drillEnded, drillRecordNow, State.reported, State.path]

/-! ## The control link: a state entered and its request sent -/

theorem asking_attach (now : Time) (r : RadioUnit) : (r.enter .attaching now).send .attach now = r.asking now .attaching :=
  rfl

theorem asking_openSession (now : Time) (r : RadioUnit) (h : r.state.polls = true) :
    (r.enter .opening now).send .openSession now = r.asking now .opening := by
  have hp : (r.enter .opening now).pollDue = r.pollDue := if_pos h
  unfold RadioUnit.send
  rw [hp]
  rfl

theorem asking_detach (now : Time) (r : RadioUnit) : (r.enter .detaching now).send .detach now = r.asking now .detaching :=
  rfl

theorem asking_closeSession (now : Time) (r : RadioUnit) :
    (r.enter .closing now).send .closeSession now = r.asking now .closing := rfl

theorem querying_eq_send (now : Time) (r : RadioUnit) :
    { r with queryPending := false }.send .signalQuery now = r.querying now := by
  have h1 : later now (5 * 1000) = now + 5000 := by simp [later]
  have h2 : requestFrame .signalQuery = [0x7E, 0x05, 0x00, 0xFB] := by decide
  unfold RadioUnit.send RadioUnit.querying
  simp [RadioUnit.answerSeconds, h1, h2]

end Sys2Proof.Machine
end

