-- ==== Sys2Proof/Tests/Slice0.lean ====
section
/-! SUPPORT. Tests: ill-formed commands the check refuses; the manual's worked numbers; and, for every statement of
Certificates/Slice0/Obligations.lean that has premises, states and operands that meet all the premises of each of its
clauses together. -/

namespace Sys2Proof.Tests

set_option Elab.async false

open Sys2Proof.Machine

/-! ## The check of commands -/

theorem test_wellFormed_eventsRead : (Instr.eventsRead 3).wellFormed = false ∧ (Instr.eventsRead 8).wellFormed = true := by decide
theorem test_wellFormed_eventEnableWrite_width : (Instr.eventEnableWrite 16 0).wellFormed = false := by decide
theorem test_wellFormed_eventEnableWrite_value :
    (Instr.eventEnableWrite 1 256).wellFormed = false ∧ (Instr.eventEnableWrite 1 255).wellFormed = true := by decide
theorem test_wellFormed_registerWrite_width : (Instr.registerWrite 4 5 0).wellFormed = false := by decide
theorem test_wellFormed_registerWrite_offset :
    (Instr.registerWrite 32 4 0).wellFormed = false ∧ (Instr.registerWrite 31 4 0).wellFormed = true := by decide
theorem test_wellFormed_registerWrite_value : (Instr.registerWrite 4 2 65536).wellFormed = false := by decide
theorem test_wellFormed_exchangeMemoryWrite_width : (Instr.exchangeMemoryWrite 256 0 0).wellFormed = false := by decide
theorem test_wellFormed_exchangeMemoryWrite_offset :
    (Instr.exchangeMemoryWrite 0x4000 1 0).wellFormed = false ∧ (Instr.exchangeMemoryWrite 0x3FFF 1 0).wellFormed = true := by decide
theorem test_wellFormed_exchangeMemoryWrite_value : (Instr.exchangeMemoryWrite 256 1 256).wellFormed = false := by decide
theorem test_wellFormed_inboundFrame : (Instr.inboundFrame .fibre []).wellFormed = false := by decide
theorem test_wellFormed_outboundFrame : (Instr.outboundFrame []).wellFormed = false := by decide
theorem test_wellFormed_linkFrameDiscarded : (Instr.linkFrameDiscarded []).wellFormed = false := by decide

/-! ## The manual's worked numbers -/

/-- The worked arithmetic of section 2.2. -/
theorem test_scores_of_section_2_2 :
    healthScore (lossPenalty 16 3)
        (latencyPenalty { PathRec.initial .genB 3000 400 3000 with s := 1450, replied := true }) (gradePenalty 14) = 707
      ∧ healthScore (lossPenalty 10 1)
        (latencyPenalty { PathRec.initial .genA 1000 100 1000 with s := 550, replied := true }) 0 = 790
      ∧ healthScore (lossPenalty 9 9) (latencyPenalty (PathRec.initial .genB 3000 400 3000)) (gradePenalty 0) = 0 := by
  decide

/-- The smoothed RTT of section 2.1. -/
theorem test_smoothing_of_section_2_1 :
    ({ PathRec.initial .genA 1000 100 1000 with s := 1450, replied := true }.smooth 2250).s = 1550
      ∧ ({ PathRec.initial .genA 1000 100 1000 with s := 1550, replied := true }.smooth 1551).s = 1550
      ∧ ({ PathRec.initial .genA 1000 100 1000 with s := 1550, replied := true }.smooth 1554).s = 1551 := by decide

/-- The request frames of section 11.10. -/
theorem test_request_frames : [Request.attach, .detach, .openSession, .closeSession, .signalQuery].map requestFrame
    = [[0x7E, 1, 0, 0xFF], [0x7E, 2, 0, 0xFE], [0x7E, 3, 0, 0xFD], [0x7E, 4, 0, 0xFC], [0x7E, 5, 0, 0xFB]] := by decide

/-- No word of the opcode table spells a command (98_reader.md: no row gives bits). -/
theorem test_no_word_is_a_command : decodeTableWord 8 0x10 = none := by decide

/-- The step answers this next state. -/
def gives (o : Host.Outcome State Fault Refusal) (t : State) : Bool :=
  match o with
  | .next u => decide (u = t)
  | _ => false

/-- The step answers a next state of which this is true. -/
def leads (o : Host.Outcome State Fault Refusal) (f : State → Bool) : Bool :=
  match o with
  | .next u => f u
  | _ => false

/-! ## States for the premises -/

/-- `State.current`, in words that can be decided. -/
abbrev Current (s : State) : Prop :=
  s.exch.service ≠ .init ∧ s.ev.cond = s.facts ∧ s.ev.irq = irqLevel s.exch.intEnable s.ev.latch s.ev.enable

theorem test_current_is (s : State) : Current s = s.current := rfl

/-- `State.offersKind` for slot 0, the last of the sweep. -/
abbrev Offers (s : State) (kind : Nat) : Prop :=
  s.exch.sweep = some [0] ∧ s.exch.service ≠ .init ∧ slotState s.mem 0 = Slot.ready ∧ slotKind s.mem 0 = kind

theorem test_offers_is (s : State) (kind : Nat) : Offers s kind = s.offersKind kind 0 [] := rfl

/-- `Allowance.sound`, in words that can be decided. -/
abbrev Sound (a : Allowance) : Prop :=
  50 ≤ a.conserve ∧ a.conserve < a.reserve ∧ a.reserve ≤ 99 ∧ a.overhead ≤ 64
    ∧ a.bc = a.kib * 1024 * a.conserve / 100 ∧ a.br = a.kib * 1024 * a.reserve / 100 ∧ a.bx = a.kib * 1024
    ∧ a.used ≤ max64 ∧ a.stage = a.stageNow ∧ a.live = a.liveNow ∧ a.stage.rank ≤ a.peak.rank
    ∧ (a.live = true → a.sticky = true)

theorem test_sound_is (a : Allowance) : Sound a = a.sound := rfl

abbrev params (s : State) : List Byte := slotParams s.mem 0

/-- Condition bits and IRQ line brought up to date. -/
def fresh (s : State) : State := refreshIrq { s with ev := { s.ev with cond := s.facts } }

/-- In SERVICE, on fibre, with the modem off. -/
def served : State :=
  { State.reset with
    clk := { ms := 1000000, sub := 7 }, exch := { State.reset.exch with service := .service },
    fibre := { State.reset.fibre with state := .up, usableFlag := true },
    fin := { link := true, los := false, available := true, settleDue := none },
    ru := { State.reset.ru with state := .off },
    classes := State.reset.classes.map fun c => { c with cur := .fibre } }

def serving : State := fresh served

/-- The same in CONFIG. -/
def config : State := fresh { served with exch := { served.exch with service := .config } }

def withRadio (f : RadioUnit → RadioUnit) : State := fresh { served with ru := f served.ru }
def withFibre (f : PathRec → PathRec) : State := fresh { served with fibre := f served.fibre }
def withFlow (f : FlowRec) : State := fresh { served with flows := served.flows.set 0 f }
def withHold (h : Hold) : State := fresh { served with hold := h }
def withAllow (a : Allowance) : State := fresh { served with allow := a }

/-- On radio: fibre down, a session open. -/
def onRadio : State :=
  fresh { served with
    fibre := { served.fibre with state := .down, usableFlag := false },
    fin := { link := false, los := false, available := false, settleDue := none },
    radio := { served.radio with state := .up, usableFlag := true },
    ru := { served.ru with state := .session, target := .session, readyHigh := true },
    steer := { served.steer with demand := true },
    classes := State.reset.classes.map fun c => { c with cur := .radio } }

/-- Slot 0 holds an order of this kind with these parameters, and is the next of the sweep. -/
def asking (kind : Nat) (ps : List Byte) (s : State) : State :=
  { s with
    mem := Memory.writeBytes [] 0x100 ([1, byteOf kind, 0x34, 0x12, 0, 0, 0, 0] ++ ps),
    exch := { s.exch with sweep := some [0] } }

def aFlow : FlowRec := { FlowRec.freed 0 with state := .carried .fibre, cls := 1, lastFrame := 0, idle := 1000 }

def aHold (p : Path) : Hold :=
  { active := true, path := some p, start := 0, stop := 1000000, duration := 1, seen := false, reason := .none }

def probing : PathRec := { served.fibre with template := [1], assign := .genA }
def anEntry (seq : Half) : Probe := { seq := seq, sent := 999000, sentSub := 7, expiry := 1000000, res := .unresolved }

def aFrame : List Byte := List.replicate 60 0
def aProbe (p : Path) (seq : Half) : List Byte := probeFrame p [] seq 0

def waits (k : Request) (stale : Bool) : Option Outstanding := some { kind := k, stale := stale, due := 1000000 }

/-- A unit in a state, with a request outstanding. -/
def linked (r : RadioState) (o : Option Outstanding) (target : Target) : State :=
  withRadio fun u => { u with state := r, outstanding := o, target := target }

/-! ## Premises: steps, resets, INIT -/

theorem test_premises_EmptyQueueTicks_service : ∃ s : State, s.pending = [] ∧ s.exch.service ≠ .init
    ∧ ¬(s.ru.state = .resync ∧ s.ru.outstanding = none) := ⟨serving, by decide +kernel⟩

/-- RESYNC as INIT_END leaves it with READY active: the next step sends CLOSE SESSION, and time stands. -/
theorem test_premises_EmptyQueueTicks_resync : ∃ s : State, s.pending = [] ∧ Current s ∧ s.ru.state = .resync
    ∧ s.ru.outstanding = none
    ∧ leads (step s) (fun t => t.ru.outstanding = some { kind := .closeSession, stale := false, due := 1015000 }
        ∧ t.clk = s.clk ∧ t.pending = []) = true :=
  ⟨withRadio fun u => { u with state := .resync, readyHigh := true }, by decide +kernel⟩

theorem test_premises_EmptyQueueTicks_held :
    ∃ s : State, s.pending = [] ∧ s.exch.service = .init ∧ s.exch.resetHeld = true :=
  ⟨{ State.reset with exch := { State.reset.exch with resetHeld := true } }, by decide +kernel⟩

/-- The last step before the bound, and at the bound. -/
theorem test_premises_EmptyQueueTicks_init : ∃ s : State, s.pending = [] ∧ s.exch.service = .init ∧ s.exch.resetHeld = false
    ∧ gives (step { s with exch := { s.exch with initElapsed := 198 } })
        { s with exch := { s.exch with initElapsed := 199 } } = true
    ∧ gives (step { s with exch := { s.exch with initElapsed := 199 } })
        { s with exch := { s.exch with initElapsed := 200 }, pending := [.initEnd] } = true :=
  ⟨State.reset, by decide +kernel⟩

theorem test_premises_ResetsEnterInit : serving.exch.service ≠ .init ∧ State.reset.exch.service = .init := by decide +kernel

theorem test_premises_InitEndEntersConfig_stays :
    (∃ s : State, s.exch.service ≠ .init) ∧ ∃ s : State, s.exch.resetHeld = true :=
  ⟨⟨serving, by decide +kernel⟩, { State.reset with exch := { State.reset.exch with resetHeld := true } }, by decide +kernel⟩

theorem test_premises_InitEndEntersConfig_cold :
    ∃ s : State, s.exch.service = .init ∧ s.exch.resetHeld = false ∧ s.ru.ready = false ∧ s.exch.warm = false :=
  ⟨State.reset, by decide +kernel⟩

theorem test_premises_InitEndEntersConfig_warm :
    ∃ s : State, s.exch.service = .init ∧ s.exch.resetHeld = false ∧ s.ru.ready = true ∧ s.exch.warm = true :=
  ⟨{ State.reset with
      ru := { State.reset.ru with readyHigh := true }, exch := { State.reset.exch with warm := true } }, by decide +kernel⟩

/-- INIT_END with READY active leaves RESYNC with nothing outstanding. -/
theorem test_init_end_leaves_resync_waiting :
    leads (exec .initEnd { State.reset with ru := { State.reset.ru with readyHigh := true } })
      (fun t => t.ru.state = .resync ∧ t.ru.outstanding = none ∧ t.ru.resyncWaits) = true := by decide +kernel

theorem test_premises_InitStandsStill : State.reset.exch.service = .init
    ∧ gives (exec (.nudge 0) State.reset) State.reset = true ∧ gives (exec .startService State.reset) State.reset = true := by decide +kernel

/-! ## Premises: bus accesses and sweeps -/

theorem test_premises_EnablesWritten : Current serving ∧ Current config ∧ (8 : Nat) ≠ 4 := by decide +kernel

theorem test_premises_EventsStayUntilRead_read :
    Current serving ∧ ((2 : Nat) ≠ 4 ∨ serving.exch.service = .init) ∧ ((4 : Nat) ≠ 4 ∨ State.reset.exch.service = .init) := by
  decide +kernel

/-- Bit 31, the highest of the latch, through a nudge. -/
theorem test_premises_EventsStayUntilRead_latch : ∃ s t : State,
    exec (.nudge 0) s = .next t ∧ s.ev.latch.getLsbD 31 = true ∧ t.ev.latch.getLsbD 31 = true :=
  ⟨_, _, rfl, (by decide +kernel :
    ({ serving with ev := { serving.ev with latch := 0x80000000 } } : State).ev.latch.getLsbD 31 = true), by decide +kernel⟩

theorem test_premises_WindowsWrittenAndRead_ignored :
    ((8 : Nat) ≠ 4 ∨ ((0x04 : Nat) ≠ 0x04 ∧ (0x04 : Nat) ≠ 0x08 ∧ (0x04 : Nat) ≠ 0x10))
      ∧ ((4 : Nat) ≠ 4 ∨ ((0x14 : Nat) ≠ 0x04 ∧ (0x14 : Nat) ≠ 0x08 ∧ (0x14 : Nat) ≠ 0x10)) := by decide

/-- The first and the last place of the order slots. -/
theorem test_premises_WindowsWrittenAndRead_stored : Memory.wf serving.mem = true ∧ serving.exch.service ≠ .init
    ∧ (0x100 % 1 = 0 ∧ 0x100 ≤ 0x100 ∧ 0x100 < 0x900) ∧ (0x8F8 % 8 = 0 ∧ 0x100 ≤ 0x8F8 ∧ 0x8F8 < 0x900)
    ∧ gives (exec (.exchangeMemoryWrite 0x8FF 1 0xAB) serving) { serving with mem := [(0x8FF, 0xAB)] } = true := by decide +kernel

/-- Just outside the order slots, misaligned, of width 3, and in INIT. -/
theorem test_premises_WindowsWrittenAndRead_refused : (0xFF < 0x100) ∧ (0x900 ≤ 0x900) ∧ (0x101 % 2 ≠ 0)
    ∧ ¬(3 = 1 ∨ 3 = 2 ∨ 3 = 4 ∨ 3 = 8)
    ∧ gives (exec (.exchangeMemoryWrite 0xFF 1 1) serving) serving = true
    ∧ gives (exec (.exchangeMemoryWrite 0x900 1 1) serving) serving = true
    ∧ gives (exec (.exchangeMemoryWrite 0x101 2 1) serving) serving = true
    ∧ gives (exec (.exchangeMemoryWrite 0x100 1 1) State.reset) State.reset = true := by decide +kernel

/-- Reads: of a register and past the last one, in INIT and outside; at the last byte of the window and past it. -/
theorem test_premises_WindowsWrittenAndRead_reads : ((8 : Nat) ≠ 4) ∧ State.reset.exch.service = .init
    ∧ serving.exch.service ≠ .init ∧ ((0x08 : Nat) ≠ 0x00 ∧ (0x08 : Nat) ≠ 0x04 ∧ (0x08 : Nat) ≠ 0x0C ∧ (0x08 : Nat) ≠ 0x10)
    ∧ ((2 : Nat) = 2 ∧ 0x2FFE % 2 = 0 ∧ 0x2FFE < 0x3000) ∧ (0x3000 ≤ 0x3000)
    ∧ serving.fibre.window.length ≤ 16 ∧ (withFibre fun r => { r with window := List.replicate 16 ⟨0, none⟩ }).fibre.window.length ≤ 16
    ∧ registerRead serving 0x00 4 = 0xC7A41001 ∧ exchangeRead serving 0x0902 1 = 3 ∧ exchangeRead serving 0x0000 4 = 0x20000 := by
  decide +kernel

theorem test_premises_SweepsRun_begin :
    (∃ s : State, Current s ∧ s.exch.sweep = none ∧ reached s.now s.exch.sweepDue = true)
      ∧ (∃ s : State, Current s ∧ s.exch.sweep = some [5] ∧ reached s.now s.exch.sweepDue = true)
      ∧ ∃ s : State, Current s ∧ reached s.now s.exch.sweepDue = false :=
  ⟨⟨serving, by decide +kernel⟩,
   ⟨{ serving with exch := { serving.exch with sweep := some [5], sweepDue := 1000000 } }, by decide +kernel⟩,
   { serving with exch := { serving.exch with sweepDue := 1000001 } }, by decide +kernel⟩

theorem test_premises_SweepsRun_passed :
    ∃ s : State, Current s ∧ s.exch.sweep = some (15 :: [0]) ∧ slotState s.mem 15 ≠ 1 :=
  ⟨{ serving with exch := { serving.exch with sweep := some [15, 0] } }, by decide +kernel⟩

theorem test_premises_SweepsRun_end : ∃ s : State, Current s ∧ s.exch.sweep = some [] ∧ s.exch.sweepDone = true :=
  ⟨{ serving with exch := { serving.exch with sweep := some [], sweepDone := true } }, by decide +kernel⟩

/-- READY slots with tickets across the wrap are collected in ticket order (section 9.10). -/
theorem test_collection_across_the_wrap :
    collectSlots (Memory.writeBytes (Memory.writeBytes (Memory.writeBytes [] 0x100 [1, 0x90, 0x01, 0x00])
      0x180 [1, 0x90, 0xFF, 0xFF]) 0x200 [1, 0x90, 0x00, 0x00]) 0xFFFE = [1, 2, 0] := by decide +kernel

/-! ## Premises: orders -/

theorem test_premises_TakingsAnswerTheirSlot : ∃ s : State, kindOrder 0x92 = some .setExchange ∧ Offers s 0x92 :=
  ⟨asking 0x92 [] serving, by decide +kernel⟩

/-- No sweep in progress, so that no slot is offered. -/
theorem test_premises_OnlyTheNextSlotsOrderRuns : kindOrder 0x92 = some .setExchange
    ∧ ∀ (i : Nat) (rest : List Nat), ¬serving.offersKind 0x92 i rest :=
  ⟨rfl, fun i rest h => by
    have e : serving.exch.sweep = none := by decide +kernel
    rw [State.offersKind, e] at h
    exact absurd h.1 (by simp)⟩

theorem test_premises_UnknownKind : (∃ s : State, Current s ∧ Offers s 0x00) ∧ (∃ s : State, Current s ∧ Offers s 0x13)
    ∧ ∃ s : State, Current s ∧ Offers s 0xFF :=
  ⟨⟨asking 0 [] serving, by decide +kernel⟩, ⟨asking 0x13 [] serving, by decide +kernel⟩,
   asking 0xFF [] serving, by decide +kernel⟩

theorem test_premises_BadValuesRefused_path : ∀ kind ∈ [0x10, 0x11, 0x12, 0x20, 0x21, 0x22, 0x42], ∀ n ∈ [(0 : Byte), 3],
    let s := asking kind [n] serving
    Current s ∧ Offers s kind ∧ param (params s) 0 1 ≠ 1 ∧ param (params s) 0 1 ≠ 2 := by
  intro kind hk n hn s
  revert kind n
  decide +kernel

theorem test_premises_BadValuesRefused_probing :
    ∃ s : State, Current s ∧ Offers s 0x11 ∧ 2 < param (params s) 1 1 :=
  ⟨asking 0x11 [1, 3] serving, by decide +kernel⟩

/-- Ceiling equal to floor, weak equal to fail, up equal to weak, by clamping as well. -/
theorem test_premises_BadValuesRefused_scoring :
    (∃ s : State, Current s ∧ Offers s 0x20 ∧ min (param (params s) 4 2) 60000 ≤ min (param (params s) 2 2) 60000)
      ∧ (∃ s : State, Current s ∧ Offers s 0x20 ∧ min (param (params s) 8 2) 1000 ≤ min (param (params s) 10 2) 1000)
      ∧ (∃ s : State, Current s ∧ Offers s 0x20 ∧ min (param (params s) 6 2) 1000 ≤ min (param (params s) 8 2) 1000)
      ∧ ∃ s : State, Current s ∧ Offers s 0x20 ∧ 1 < param (params s) 1 1 :=
  ⟨⟨asking 0x20 [1, 0, 0xE8, 0xFD, 0x30, 0xF2] serving, by decide +kernel⟩,
   ⟨asking 0x20 [1, 0, 0, 0, 1, 0, 9, 0, 5, 0, 5, 0] serving, by decide +kernel⟩,
   ⟨asking 0x20 [1, 0, 0, 0, 1, 0, 6, 0, 6, 0, 5, 0] serving, by decide +kernel⟩,
   asking 0x20 [1, 2] serving, by decide +kernel⟩

theorem test_premises_BadValuesRefused_damping :
    (∃ s : State, Current s ∧ Offers s 0x21 ∧ param (params s) 4 2 = 0)
      ∧ ∃ s : State, Current s ∧ Offers s 0x21 ∧ min (param (params s) 2 2) 8000 ≤ min (param (params s) 4 2) 8000 :=
  ⟨⟨asking 0x21 [1, 1, 1, 0, 0, 0] serving, by decide +kernel⟩, asking 0x21 [1, 1, 7, 0, 7, 0] serving, by decide +kernel⟩

theorem test_premises_BadValuesRefused_radio : (∃ s : State, Current s ∧ Offers s 0x30 ∧ 2 < param (params s) 0 1)
    ∧ ∃ s : State, Current s ∧ Offers s 0x31 ∧ 1 < param (params s) 3 1 :=
  ⟨⟨asking 0x30 [3] serving, by decide +kernel⟩, asking 0x31 [1, 1, 1, 2] serving, by decide +kernel⟩

theorem test_premises_BadValuesRefused_steering : (∃ s : State, Current s ∧ Offers s 0x40 ∧ 7 < param (params s) 0 1)
    ∧ (∃ s : State, Current s ∧ Offers s 0x40 ∧ 2 < param (params s) 1 1)
    ∧ (∃ s : State, Current s ∧ Offers s 0x41 ∧ 7 < param (params s) 4 1)
    ∧ ∃ s : State, Current s ∧ Offers s 0x50 ∧ 7 < param (params s) 0 1 :=
  ⟨⟨asking 0x40 [8] serving, by decide +kernel⟩, ⟨asking 0x40 [7, 3] serving, by decide +kernel⟩,
   ⟨asking 0x41 [0, 0, 0, 0, 8] serving, by decide +kernel⟩, asking 0x50 [8] serving, by decide +kernel⟩

theorem test_premises_BadValuesRefused_supply : (∃ s : State, Current s ∧ Offers s 0x60 ∧ 1 < param (params s) 6 1)
    ∧ (∃ s : State, Current s ∧ Offers s 0x60 ∧ clamp 51 99 (param (params s) 5 1) ≤ clamp 50 98 (param (params s) 4 1))
    ∧ ∃ s : State, Current s ∧ Offers s 0x70 ∧ 1 < param (params s) 2 1 :=
  ⟨⟨asking 0x60 [1, 0, 0, 0, 80, 95, 2] serving, by decide +kernel⟩,
   ⟨asking 0x60 [1, 0, 0, 0, 51, 51] serving, by decide +kernel⟩, asking 0x70 [0, 0, 2] serving, by decide +kernel⟩

theorem test_premises_StatesRefuseOrders_radio : (∃ s : State, Current s ∧ Offers s 0x32 ∧ s.steer.demand = true)
    ∧ (∃ s : State, Current s ∧ Offers s 0x42 ∧ param (params s) 0 1 = 1 ∧ s.exch.service ≠ .service)
    ∧ (∃ s : State, Current s ∧ Offers s 0x42 ∧ param (params s) 0 1 = 2 ∧ s.exch.service = .service ∧ s.hold.active = true)
    ∧ (∃ s : State, Current s ∧ Offers s 0x42 ∧ param (params s) 0 1 = 1 ∧ s.exch.service = .service
        ∧ s.hold.active = false ∧ s.fibreUsable = false)
    ∧ ∃ s : State, Current s ∧ Offers s 0x42 ∧ param (params s) 0 1 = 2 ∧ s.exch.service = .service
        ∧ s.hold.active = false ∧ s.ru.state = .fault :=
  ⟨⟨asking 0x32 [] onRadio, by decide +kernel⟩, ⟨asking 0x42 [1] config, by decide +kernel⟩,
   ⟨asking 0x42 [2] (withHold (aHold .fibre)), by decide +kernel⟩, ⟨asking 0x42 [1] onRadio, by decide +kernel⟩,
   asking 0x42 [2] (withRadio fun r => { r with state := .fault }), by decide +kernel⟩

theorem test_premises_StatesRefuseOrders_flows :
    (∃ s : State, Current s ∧ Offers s 0x50 ∧ param (params s) 0 1 ≤ 7 ∧ s.exch.service ≠ .service)
    ∧ (∃ s : State, Current s ∧ Offers s 0x50 ∧ param (params s) 0 1 ≤ 7 ∧ s.exch.service = .service
        ∧ ∀ f ∈ s.flows, f.state ≠ .free)
    ∧ (∃ s : State, Current s ∧ Offers s 0x51 ∧ 127 < param (params s) 0 1)
    ∧ ∃ s : State, Current s ∧ Offers s 0x51 ∧ param (params s) 0 1 = 127 ∧ (s.flow (param (params s) 0 1)).state = .free :=
  ⟨⟨asking 0x50 [7] config, by decide +kernel⟩,
   ⟨asking 0x50 [0] (fresh { served with flows := List.replicate 128 aFlow }), by decide +kernel⟩,
   ⟨asking 0x51 [128] serving, by decide +kernel⟩, asking 0x51 [127] serving, by decide +kernel⟩

theorem test_premises_StatesRefuseOrders_drill : (∃ s : State, Current s ∧ Offers s 0x71 ∧ s.exch.service ≠ .service)
    ∧ (∃ s : State, Current s ∧ Offers s 0x71 ∧ s.exch.service = .service ∧ s.drill.running = true)
    ∧ (∃ s : State, Current s ∧ Offers s 0x71 ∧ s.exch.service = .service ∧ s.drill.running = false ∧ s.realUse = true)
    ∧ (∃ s : State, Current s ∧ Offers s 0x71 ∧ s.exch.service = .service ∧ s.drill.running = false ∧ s.realUse = false
        ∧ s.ru.state = .fault)
    ∧ ∃ s : State, Current s ∧ Offers s 0x71 ∧ s.exch.service = .service ∧ s.drill.running = false ∧ s.realUse = false
        ∧ s.ru.state ≠ .fault ∧ s.allow.stage = .reserve :=
  ⟨⟨asking 0x71 [] config, by decide +kernel⟩,
   ⟨asking 0x71 [] (fresh { served with drill := { served.drill with running := true } }), by decide +kernel⟩,
   ⟨asking 0x71 [] onRadio, by decide +kernel⟩,
   ⟨asking 0x71 [] (withRadio fun r => { r with state := .fault }), by decide +kernel⟩,
   asking 0x71 [] (withAllow { served.allow with stage := .reserve }), by decide +kernel⟩

/-! ## Premises: orders of the probe engine and the path monitors -/

/-- An equal period, and the greatest one, given above its range. -/
theorem test_premises_GeneratorSet :
    (∃ s : State, Current s ∧ Offers s 0x10 ∧ param (params s) 0 1 = generatorCode .a
        ∧ (s.gens.get .a).n = min (param (params s) 1 2) 399)
      ∧ ∃ s : State, Current s ∧ Offers s 0x10 ∧ param (params s) 0 1 = generatorCode .b
        ∧ (s.gens.get .b).n ≠ min (param (params s) 1 2) 399 ∧ 399 < param (params s) 1 2 :=
  ⟨⟨asking 0x10 [1, 39, 0] serving, by decide +kernel⟩, asking 0x10 [2, 144, 1] serving, by decide +kernel⟩

/-- A path that stays as it is, and a PROVING path that becomes link-only. -/
theorem test_premises_ProbingSet :
    (∃ s : State, Current s ∧ Offers s 0x11 ∧ param (params s) 0 1 = pathCode .radio
        ∧ param (params s) 1 1 = Assignment.genB.code ∧ s.radio.linkOnly = true)
      ∧ ∃ s : State, Current s ∧ Offers s 0x11 ∧ param (params s) 0 1 = pathCode .fibre
        ∧ param (params s) 1 1 = Assignment.none.code ∧ s.fibre.linkOnly = false ∧ s.exch.service = .service
        ∧ s.fibre.state = .proving :=
  ⟨⟨asking 0x11 [2, 2, 60, 0x64, 0x19, 0, 0] serving, by decide +kernel⟩,
   asking 0x11 [1, 0, 1, 100, 0, 0, 0] (withFibre fun r => { r with state := .proving, template := [1] }), by decide +kernel⟩

/-- A template of 65 bytes, clamped to 64, and one taken away in WEAK. -/
theorem test_premises_TemplateSet :
    (∃ s : State, Current s ∧ Offers s 0x12 ∧ param (params s) 0 1 = pathCode .radio ∧ param (params s) 1 1 = 65)
      ∧ ∃ s : State, Current s ∧ Offers s 0x12 ∧ param (params s) 0 1 = pathCode .fibre ∧ param (params s) 1 1 = 0
        ∧ s.fibre.linkOnly = false ∧ s.exch.service = .service ∧ s.fibre.state = .weak :=
  ⟨⟨asking 0x12 [2, 65, 7] serving, by decide +kernel⟩,
   asking 0x12 [1, 0] (withFibre fun r => { r with state := .weak, template := [1] }), by decide +kernel⟩

/-- Thresholds one apart. -/
theorem test_premises_ScoringSet : ∃ s : State, Current s ∧ Offers s 0x20 ∧ param (params s) 0 1 = pathCode .fibre
    ∧ param (params s) 1 1 = true.toNat ∧ min (param (params s) 2 2) 60000 < min (param (params s) 4 2) 60000
    ∧ min (param (params s) 10 2) 1000 < min (param (params s) 8 2) 1000
    ∧ min (param (params s) 8 2) 1000 < min (param (params s) 6 2) 1000 :=
  ⟨asking 0x20 [1, 1, 0, 0, 1, 0, 2, 0, 1, 0, 0, 0, 0] serving, by decide +kernel⟩

/-- Reuse 1 and suppress 2; damping turned off on a SUPPRESSED path. -/
theorem test_premises_DampingSet :
    (∃ s : State, Current s ∧ Offers s 0x21 ∧ param (params s) 0 1 = pathCode .radio ∧ param (params s) 1 1 = true.toNat
        ∧ 0 < min (param (params s) 4 2) 8000 ∧ min (param (params s) 4 2) 8000 < min (param (params s) 2 2) 8000)
      ∧ ∃ s : State, Current s ∧ Offers s 0x21 ∧ param (params s) 0 1 = pathCode .fibre ∧ param (params s) 1 1 = false.toNat
        ∧ 0 < min (param (params s) 4 2) 8000 ∧ min (param (params s) 4 2) 8000 < min (param (params s) 2 2) 8000
        ∧ s.fibre.state = .suppressed :=
  ⟨⟨asking 0x21 [2, 1, 2, 0, 1, 0, 0, 0] serving, by decide +kernel⟩,
   asking 0x21 [1, 0, 0x40, 0x1F, 0x3F, 0x1F, 255, 0] (withFibre fun r => { r with state := .suppressed }), by decide +kernel⟩

theorem test_premises_CauseCleared : ∃ s : State, Current s ∧ Offers s 0x22 ∧ param (params s) 0 1 = pathCode .radio :=
  ⟨asking 0x22 [2] serving, by decide +kernel⟩

/-! ## Premises: orders of the radio unit -/

theorem test_premises_RadioSet : (∃ s : State, Offers s 0x30 ∧ param (params s) 0 1 = Standby.hot.code)
    ∧ ∃ s : State, Offers s 0x30 ∧ param (params s) 0 1 = Standby.cold.code ∧ s.ru.state = .fault :=
  ⟨⟨asking 0x30 [2, 0, 0, 0, 0, 0, 0] serving, by decide +kernel⟩,
   asking 0x30 [0] (withRadio fun r => { r with state := .fault }), by decide +kernel⟩

/-- A poll timer that runs on with another interval and with its own; the exit from FAULT with READY active, active with
a request outstanding, and inactive. -/
theorem test_radio_set_polls_and_leaves_fault :
    (∀ n ∈ [(7 : Byte), 60],
      let s : State := asking 0x30 [0, 0, 0, 60, 0, n, 0] (withRadio fun u => { u with
        state := .attached, poll := 60, pollDue := some 1000500, target := .off, outstanding := waits .attach false })
      Offers s 0x30 ∧ s.ru.state = .attached ∧ leads (exec .setRadio s) (fun t => t.ru.state = .attached
        ∧ t.ru.pollDue = some (if n = 60 then 1000500 else 1007000)) = true)
    ∧ ∀ x ∈ [(true, (0 : Byte), none, RadioState.stopping), (true, 1, none, .attaching),
             (true, 1, waits .openSession true, .idle), (false, 0, none, .off), (false, 1, none, .powering)],
        let s : State := asking 0x30 [x.2.1, 0, 0, 60, 0, 60, 0]
          (withRadio fun u => { u with state := .fault, readyHigh := x.1, outstanding := x.2.2.1 })
        Offers s 0x30 ∧ s.ru.state = .fault ∧ s.ru.ready = x.1
          ∧ leads (exec .setRadio s) (fun t => t.ru.state = x.2.2.2) = true := by decide +kernel

/-- SET_RADIO that ends a session and a BACKOFF, and one that leaves a BACKOFF and one of target OFF as they are. -/
theorem test_radio_set_ends_session_and_backoff :
    ∀ x ∈ [(RadioState.session, (0 : Byte), Target.session, RadioState.closing), (.backoff, 0, .attached, .stopping),
           (.backoff, 1, .attached, .backoff), (.backoff, 0, .off, .backoff)],
      let s : State := asking 0x30 [x.2.1, 0, 0, 60, 0, 60, 0] (withRadio fun u => { u with
        state := x.1, target := x.2.2.1, readyHigh := true, stateDue := some 5 })
      Offers s 0x30 ∧ s.ru.state = x.1 ∧ leads (exec .setRadio s) (fun t => t.ru.state = x.2.2.2) = true := by
  decide +kernel

/-- READY keeps its normalized level, and changes it. -/
theorem test_premises_ModemLinesSet : (∃ s : State, Current s ∧ Offers s 0x31 ∧ param (params s) 0 1 = true.toNat
      ∧ param (params s) 1 1 = true.toNat ∧ param (params s) 2 1 = false.toNat ∧ param (params s) 3 1 = false.toNat
      ∧ (s.ru.readyHigh != false) = s.ru.ready)
    ∧ ∃ s : State, Current s ∧ Offers s 0x31 ∧ param (params s) 0 1 = false.toNat ∧ param (params s) 1 1 = false.toNat
      ∧ param (params s) 2 1 = false.toNat ∧ param (params s) 3 1 = true.toNat ∧ (s.ru.readyHigh != true) ≠ s.ru.ready :=
  ⟨⟨asking 0x31 [1, 1, 0, 0] serving, by decide +kernel⟩, asking 0x31 [0, 0, 0, 1] serving, by decide +kernel⟩

/-- A READY polarity change that makes READY active in POWERING, inactive in BACKOFF and in a session. -/
theorem test_ready_polarity_moves_the_unit :
    ∀ x ∈ [(withRadio fun u => { u with state := .powering, target := .attached }, RadioState.attaching),
           (withRadio fun u => { u with state := .backoff, readyHigh := true }, .powering), (onRadio, .powering)],
      let s : State := asking 0x31 [0, 0, 0, (!x.1.ru.lines.readyLow).toNat] x.1
      Current s ∧ Offers s 0x31 ∧ s.readyMoves (!s.ru.ready) = true
        ∧ leads (exec .setModemLines s) (fun t => t.ru.state = x.2) = true := by decide +kernel

theorem test_premises_RadioReleased :
    (∃ s : State, Current s ∧ Offers s 0x32 ∧ s.steer.demand = false ∧ s.ru.lingerOn = false)
      ∧ (∃ s : State, Current s ∧ Offers s 0x32 ∧ s.steer.demand = false ∧ s.ru.lingerOn = true ∧ s.ru.state ≠ .session)
      ∧ ∃ s : State, Current s ∧ Offers s 0x32 ∧ s.steer.demand = false ∧ s.ru.lingerOn = true ∧ s.ru.state = .session
        ∧ s.ru.outstanding = none ∧ s.cappedStandby ≠ .session :=
  ⟨⟨asking 0x32 [] serving, by decide +kernel⟩,
   ⟨asking 0x32 [] (withRadio fun r => { r with lingerOn := true, state := .attached }), by decide +kernel⟩,
   asking 0x32 [] (withRadio fun r => { r with lingerOn := true, state := .session }), by decide +kernel⟩

/-- A linger that stops in a session that a request in the link keeps, and in one that a HOT standby keeps; demand is
what the classes and flows give. -/
theorem test_linger_stops_in_a_session_kept : ∀ x ∈ [(waits .signalQuery false, Standby.cold), (none, .hot)],
    let s : State := withRadio fun u => { u with
      lingerOn := true, lingerStart := 700000, state := .session, target := .session, outstanding := x.1, standby := x.2 }
    Current s ∧ Offers (asking 0x32 [] s) 0x32 ∧ s.steer.demand = false ∧ s.steer.demand = s.wantsSession
      ∧ (s.ru.outstanding ≠ none ∨ s.targetWithout = .session)
      ∧ leads (exec .releaseRadio (asking 0x32 [] s)) (fun t => !t.ru.lingerOn ∧ t.ru.state = .session) = true
      ∧ leads (exec .lingerExpiry s) (fun t => !t.ru.lingerOn ∧ t.ru.state = .session) = true := by decide +kernel

/-! ## Premises: orders of the steering unit and the flow table -/

theorem test_premises_ClassSet : ∃ s : State, Offers s 0x40 ∧ param (params s) 0 1 ≤ 7
    ∧ param (params s) 1 1 = RadioUse.failoverWeak.code ∧ param (params s) 3 1 = true.toNat
    ∧ param (params s) 4 1 = false.toNat ∧ (s.classes.length = 8 ∧ s.flows.length = 128)
    ∧ (∀ f ∈ s.flows, f.pinned = true → f.state.live = true) ∧ s.ru.target = s.targetNow :=
  ⟨asking 0x40 [7, 2, 200, 1, 0, 0, 0] serving, by decide +kernel⟩

/-- A class that may never use radio, with no hold active. -/
theorem test_premises_ClassSet_never : ∃ s : State, Offers s 0x40 ∧ param (params s) 0 1 = 7
    ∧ param (params s) 1 1 = RadioUse.never.code ∧ param (params s) 3 1 = false.toNat
    ∧ param (params s) 4 1 = true.toNat ∧ (s.classes.length = 8 ∧ s.flows.length = 128)
    ∧ (∀ f ∈ s.flows, f.pinned = true → f.state.live = true) ∧ s.hold.active = false :=
  ⟨asking 0x40 [7, 0, 3, 0, 1, 0, 0] onRadio, by decide +kernel⟩

/-- The return delay armed and changed, and not armed. -/
theorem test_premises_SteeringSet : (∃ s : State, Offers s 0x41 ∧ param (params s) 4 1 ≤ 7 ∧ s.steer.ret = .armed
      ∧ s.steer.delay ≠ min (param (params s) 0 2) 3600)
    ∧ ∃ s : State, Offers s 0x41 ∧ param (params s) 4 1 ≤ 7 ∧ s.steer.ret = .notArmed :=
  ⟨⟨asking 0x41 [0xFF, 0xFF, 0, 0, 7] (fresh { served with steer := { served.steer with ret := .armed } }), by decide +kernel⟩,
   asking 0x41 [] serving, by decide +kernel⟩

theorem test_premises_HoldsBeginAndEnd_begin :
    (∃ s : State, Offers s 0x42 ∧ param (params s) 0 1 = pathCode .fibre ∧ s.exch.service = .service
        ∧ s.hold.active = false ∧ s.fibreUsable = true)
      ∧ ∃ s : State, Offers s 0x42 ∧ param (params s) 0 1 = pathCode .radio ∧ s.exch.service = .service
        ∧ s.hold.active = false ∧ s.ru.state ≠ .fault :=
  ⟨⟨asking 0x42 [1, 0, 0] serving, by decide +kernel⟩, asking 0x42 [2, 0x11, 0x0E] serving, by decide +kernel⟩

/-- A RADIO hold that finds the radio path UP, and one that finds it DOWN. -/
theorem test_hold_begins_seen :
    leads (exec .holdPath (asking 0x42 [2, 60, 0] onRadio)) (fun t => t.hold.active ∧ t.hold.seen) = true
      ∧ leads (exec .holdPath (asking 0x42 [2, 60, 0] serving)) (fun t => t.hold.active ∧ !t.hold.seen) = true := by
  decide +kernel

/-- A RADIO hold stands after its order, with radio away and with a session that nothing else keeps. -/
theorem test_radio_hold_stands : ∀ s ∈ [serving, linked .session none .attached],
    Offers (asking 0x42 [2, 60, 0] s) 0x42 ∧ s.ru.state ≠ .fault ∧ s.hold.active = false
      ∧ leads (exec .holdPath (asking 0x42 [2, 60, 0] s)) (fun t => t.hold.active ∧ t.hold.stop = 1060000
          ∧ t.steer.demand) = true := by decide +kernel

theorem test_premises_HoldsBeginAndEnd_release : (∃ s : State, Current s ∧ Offers s 0x43 ∧ s.hold.active = true)
    ∧ ∃ s : State, Current s ∧ Offers s 0x43 ∧ s.hold.active = false :=
  ⟨⟨asking 0x43 [] (withHold (aHold .radio)), by decide +kernel⟩, asking 0x43 [] serving, by decide +kernel⟩

/-- The first record, the last one, and a tier-0 opening in FAULT with fibre away. -/
theorem test_premises_FlowsOpenAndClose_open :
    (∃ s : State, Offers s 0x50 ∧ param (params s) 0 1 ≤ 7 ∧ s.exch.service = .service ∧ 0 < s.flows.length
        ∧ (s.flow 0).state = .free ∧ s.ru.state ≠ .fault)
      ∧ (∃ s : State, Offers s 0x50 ∧ param (params s) 0 1 ≤ 7 ∧ s.exch.service = .service ∧ 127 < s.flows.length
        ∧ (s.flow 127).state = .free ∧ ∀ j < 127, (s.flow j).state ≠ .free)
      ∧ ∃ s : State, Offers s 0x50 ∧ param (params s) 0 1 = 0 ∧ s.exch.service = .service ∧ (s.flow 0).state = .free
        ∧ s.ru.state = .fault ∧ (s.cls 0).tier = 0 ∧ s.fibreUsable = false :=
  ⟨⟨asking 0x50 [7, 0, 0, 1, 0] serving, by decide +kernel⟩,
   ⟨asking 0x50 [1] (fresh { served with flows := List.replicate 127 aFlow ++ [FlowRec.freed 0] }), by decide +kernel⟩,
   asking 0x50 [0] (fresh { served with
     fibre := { served.fibre with state := .down }, ru := { served.ru with state := .fault } }), by decide +kernel⟩

/-- The whole record: with no session open, and in a session that demand and linger keep; a drill that real use ends. -/
theorem test_premises_FlowsOpenAndClose_whole :
    (∃ s : State, Offers s 0x50 ∧ param (params s) 0 1 = 7 ∧ s.exch.service = .service ∧ (s.flow 0).state = .free
        ∧ s.drill.running = false ∧ s.ru.state = .off)
      ∧ (∃ s : State, Offers s 0x50 ∧ param (params s) 0 1 = 7 ∧ s.exch.service = .service ∧ (s.flow 0).state = .free
        ∧ s.drill.running = false ∧ s.ru.state = .session ∧ (s.cls 7).cur = .fibre ∧ s.steer.demand = true
        ∧ 0 < s.effectiveLinger)
      ∧ (∃ s : State, Offers s 0x50 ∧ param (params s) 0 1 = 0 ∧ s.exch.service = .service ∧ (s.flow 0).state = .free
        ∧ s.ru.state = .backoff ∧ s.steer.urgent = false ∧ (s.cls 0).tier = 0 ∧ s.fibreUsable = false)
      ∧ ∃ s : State, Offers s 0x50 ∧ param (params s) 0 1 = 7 ∧ s.exch.service = .service ∧ (s.flow 0).state = .free
        ∧ s.drill.running = true ∧ (s.cls 7).cur = .waiting :=
  ⟨⟨asking 0x50 [7] serving, by decide +kernel⟩,
   ⟨asking 0x50 [7] (fresh { served with
      ru := { served.ru with state := .session }, steer := { served.steer with demand := true } }), by decide +kernel⟩,
   ⟨asking 0x50 [0] (fresh { onRadio with ru := { onRadio.ru with state := .backoff } }), by decide +kernel⟩,
   asking 0x50 [7] (fresh { served with
     drill := { served.drill with running := true }, classes := served.classes.map fun c => { c with cur := .waiting } }),
   by decide +kernel⟩

theorem test_premises_FlowsOpenAndClose_close :
    ∃ s : State, Offers s 0x51 ∧ param (params s) 0 1 = 127 ∧ 127 < s.flows.length ∧ (s.flow 127).state ≠ .free :=
  ⟨asking 0x51 [127] (fresh { served with flows := served.flows.set 127 aFlow }), by decide +kernel⟩

/-- A flow on radio whose close lets demand fall, with the linger to run. -/
theorem test_premises_FlowsOpenAndClose_demand : ∃ s : State, Offers s 0x51 ∧ param (params s) 0 1 = 0
    ∧ (s.flow 0).state ≠ .free ∧ s.exch.service = .service ∧ s.steer.demand = true ∧ 0 < s.effectiveLinger
    ∧ ({ s with flows := s.flows.set 0 (FlowRec.freed 0) } : State).wantsSession = false :=
  ⟨asking 0x51 [0] (fresh { served with
    steer := { served.steer with demand := true },
    flows := served.flows.set 0 { aFlow with state := .carried .radio, pinned := true } }), by decide +kernel⟩

/-- A closed and an expired flow that no held frame is bound to leave the count as it is, also one past its range. -/
theorem test_no_held_frame_to_discard : ∀ n ∈ [7, 4294967296],
    let s : State := fresh { served with
      flows := served.flows.set 0 aFlow,
      fwd := { served.fwd with
        held := [⟨aFrame, 1, some 5, 999000⟩], counts := { served.fwd.counts with holdDiscard := n } } }
    Current s ∧ Offers (asking 0x51 [0] s) 0x51 ∧ (s.flow 0).state.live = true
      ∧ leads (exec .closeFlow (asking 0x51 [0] s)) (fun t => t.fwd.counts.holdDiscard = n ∧ !t.ev.latch.getLsbD 13) = true
      ∧ leads (exec (.flowIdleExpiry 0) s) (fun t => t.fwd.counts.holdDiscard = n ∧ !t.ev.latch.getLsbD 13) = true := by
  decide +kernel

/-- Held frames of a closed and of an expired flow are discarded and counted, up to the count's greatest value. -/
theorem test_held_frames_are_discarded : ∀ x ∈ [(0, 2), (4294967294, 4294967295)],
    let s : State := fresh { served with
      flows := served.flows.set 0 { aFlow with state := .waiting },
      fwd := { served.fwd with
        held := [⟨aFrame, 1, some 0, 999000⟩, ⟨aFrame, 1, some 5, 999000⟩, ⟨aFrame, 1, some 0, 999500⟩],
        counts := { served.fwd.counts with holdDiscard := x.1 } } }
    Current s ∧ Offers (asking 0x51 [0] s) 0x51 ∧ (s.flow 0).state.live = true
      ∧ (s.flow 0).idle * 1000 ≤ (s.now - (s.flow 0).lastFrame).toNat
      ∧ leads (exec .closeFlow (asking 0x51 [0] s)) (fun t => t.fwd.counts.holdDiscard = x.2 ∧ t.ev.latch.getLsbD 13) = true
      ∧ leads (exec (.flowIdleExpiry 0) s) (fun t => t.fwd.counts.holdDiscard = x.2 ∧ t.ev.latch.getLsbD 13) = true := by
  decide +kernel

/-! ## Premises: orders of the allowance meter, the supply monitor and the drill unit -/

/-- The stage stays, the stage changes; the largest allowance, percentages one apart. -/
theorem test_premises_AllowanceSet :
    (∃ s : State, Offers s 0x60 ∧ param (params s) 0 4 = 4294967295 ∧ param (params s) 6 1 = true.toNat
        ∧ clamp 50 98 (param (params s) 4 1) < clamp 51 99 (param (params s) 5 1) ∧ s.allow.stage = .normal
        ∧ s.allow.used = 0)
      ∧ ∃ s : State, Offers s 0x60 ∧ param (params s) 0 4 = 1 ∧ param (params s) 6 1 = false.toNat
        ∧ clamp 50 98 (param (params s) 4 1) < clamp 51 99 (param (params s) 5 1) ∧ s.allow.stage = .normal
        ∧ s.allow.used = 1024 :=
  ⟨⟨asking 0x60 [0xFF, 0xFF, 0xFF, 0xFF, 98, 99, 1, 64] serving, by decide +kernel⟩,
   asking 0x60 [1, 0, 0, 0, 0, 0, 0, 65] (withAllow { served.allow with used := 1024 }), by decide +kernel⟩

/-- SET ALLOWANCE that brings live overrun, one that ends it and lets the stage fall, and a hard cap changed in
EXHAUSTED. -/
theorem test_allowance_set_moves_the_stage :
    (let s : State := asking 0x60 [1, 0, 0, 0, 80, 95, 1] (withAllow { served.allow with used := 1024 })
     Offers s 0x60 ∧ s.portReady .radio = false ∧ leads (exec .setAllowance s) (fun t => t.allow.live ∧ t.allow.sticky
       ∧ t.allow.stage = .exhausted ∧ t.allow.peak = .exhausted ∧ t.ev.latch.getLsbD 5 ∧ t.ev.latch.getLsbD 6) = true)
    ∧ ∀ x ∈ [((2 : Byte), (0 : Byte), Stage.normal), (1, 1, .exhausted)],
        let s : State := asking 0x60 [x.1, 0, 0, 0, 80, 95, x.2.1] (withAllow {
          Allowance.bounded { served.allow with kib := 1 } with
          used := 1024, live := true, sticky := true, stage := .exhausted, peak := .exhausted, hardCap := false })
        Offers s 0x60 ∧ leads (exec .setAllowance s) (fun t => t.allow.stage = x.2.2 ∧ t.allow.peak = .exhausted
          ∧ t.allow.sticky ∧ (t.allow.live = decide (x.1 = 1))) = true := by decide +kernel

/-- A meter in EXHAUSTED: 1 KiB used up. -/
def usedUp : Allowance :=
  { Allowance.bounded { served.allow with kib := 1 } with
    used := 1024, live := true, sticky := true, stage := .exhausted, peak := .exhausted }

theorem test_premises_PeriodStarted : (∃ s : State, Offers s 0x61 ∧ Sound s.allow ∧ s.allow.stage = .normal)
    ∧ ∃ s : State, Offers s 0x61 ∧ Sound s.allow ∧ s.allow.stage ≠ .normal :=
  ⟨⟨asking 0x61 [] serving, by decide +kernel⟩, asking 0x61 [] (withAllow usedUp), by decide +kernel⟩

/-- A stage above NORMAL with the radio port closed. -/
theorem test_premises_PeriodStarted_closed : ∃ s : State, Offers s 0x61 ∧ Sound s.allow ∧ s.allow.stage = .exhausted
    ∧ s.portReady .radio = false := ⟨asking 0x61 [] (withAllow usedUp), by decide +kernel⟩

theorem test_premises_BoundariesComputed : (∃ s : State, Offers s 0x60 ∧ param (params s) 6 1 ≤ 1
      ∧ clamp 50 98 (param (params s) 4 1) < clamp 51 99 (param (params s) 5 1))
    ∧ ∃ A c r : Nat, 1 ≤ A ∧ 50 ≤ c ∧ c < r ∧ r ≤ 99 ∧ A ≤ 4294967295 ∧ c = 98 ∧ A = 1 :=
  ⟨⟨asking 0x60 [1, 0, 0, 0, 80, 95, 1] serving, by decide +kernel⟩, 1, 98, 99, by decide⟩

theorem test_premises_SupplyFollowsItsLines :
    (Current serving ∧ State.reset.exch.service = .init)
      ∧ (∃ s : State, Current s ∧ Offers s 0x70 ∧ param (params s) 0 1 = true.toNat ∧ param (params s) 1 1 = false.toNat
        ∧ param (params s) 2 1 = true.toNat)
      ∧ (∃ s : State, Current s ∧ expired s.now (s.sup.line .battLow).due = true ∧ s.sup.state = .mains
        ∧ s.sup.mainsOk.debounced = true)
      ∧ ∃ s : State, Current s ∧ expired s.now (s.sup.line .mainsOk).due = true ∧ s.sup.state = .mains
        ∧ (s.sup.line .mainsOk).high = (s.sup.line .mainsOk).low :=
  ⟨by decide +kernel, ⟨asking 0x70 [1, 0, 1] serving, by decide +kernel⟩,
   ⟨fresh { served with sup := { served.sup with battLow := { served.sup.battLow with due := some 1000000 } } },
    by decide +kernel⟩,
   fresh { served with sup := { served.sup with mainsOk := { served.sup.mainsOk with due := some 999999 } } },
   by decide +kernel⟩

theorem test_premises_DrillsRunAndEnd : (∃ s : State, Offers s 0x71 ∧ s.exch.service = .service ∧ s.drill.running = false
      ∧ s.realUse = false ∧ s.ru.state ≠ .fault ∧ s.allow.stage = .normal ∧ s.radio.state ≠ .up)
    ∧ (∃ s : State, Current s ∧ Offers s 0x72 ∧ s.drill.running = true)
    ∧ (∃ s : State, Current s ∧ Offers s 0x72 ∧ s.drill.running = false)
    ∧ ∃ s : State, Current s ∧ s.drill.running = true ∧ s.drill.limit * 1000 ≤ (s.now - s.drill.start).toNat
      ∧ s.drill.limit = 60 :=
  ⟨⟨asking 0x71 [59, 0] serving, by decide +kernel⟩,
   ⟨asking 0x72 [] (fresh { served with drill := { served.drill with running := true, pass := true } }), by decide +kernel⟩,
   ⟨asking 0x72 [] serving, by decide +kernel⟩,
   fresh { served with drill := { served.drill with running := true, start := 940000, limit := 60 } }, by decide +kernel⟩

/-- A session on standby, radio UP and no demand: the drill ends at once, and the hold record is rewritten for the demand
that rises and falls. -/
theorem test_premises_DrillsRunAndEnd_up : ∃ s : State, Offers s 0x71 ∧ s.exch.service = .service
    ∧ s.drill.running = false ∧ s.realUse = false ∧ s.ru.state ≠ .fault ∧ s.allow.stage = .normal
    ∧ s.radio.state = .up ∧ s.steer.demand = false
    ∧ leads (exec .runDrill s) (fun t => t.drill.last.cause = some .radioUp ∧ t.counts.hold = 2
        ∧ t.steer.demand = false) = true :=
  ⟨asking 0x71 [60, 0] (fresh { served with
    radio := { served.radio with state := .up, usableFlag := true },
    ru := { served.ru with state := .session, target := .session, standby := .hot, readyHigh := true } }),
   by decide +kernel⟩

/-! ## Premises: service orders and the event unit's order -/

/-- Intervals of 0, 250, 251 and 20, the one held. -/
theorem test_premises_ExchangeSet : ∀ n ∈ [(0 : Byte), 20, 250, 251],
    Current (asking 0x92 [n] config) ∧ Offers (asking 0x92 [n] config) 0x92 := by decide +kernel

theorem test_premises_EventEdgesSet : (∃ s : State, Current s ∧ Offers s 0x80) ∧ serving.exch.service ≠ .init :=
  ⟨⟨asking 0x80 [0xFF, 0xFF, 0xFF, 0xFF] config, by decide +kernel⟩, by decide +kernel⟩

theorem test_premises_ServiceStartsAndStops : ∀ kind ∈ [0x90, 0x91],
    (Current (asking kind [] config) ∧ Offers (asking kind [] config) kind ∧ (asking kind [] config).exch.service = .config)
      ∧ Current (asking kind [] serving) ∧ Offers (asking kind [] serving) kind ∧ serving.flows.length = 128
      ∧ (asking kind [] serving).exch.service = .service := by decide +kernel

theorem test_premises_ServiceStops_all : ∃ s : State, Current s ∧ Offers s 0x91 ∧ s.exch.service = .service
    ∧ (s.classes.length = 8 ∧ s.flows.length = 128) ∧ s.drill.running = true ∧ s.hold.active = true
    ∧ (s.flow 127).state ≠ .free :=
  ⟨asking 0x91 [] (fresh { served with
    hold := aHold .fibre, drill := { served.drill with running := true }, flows := served.flows.set 127 aFlow }),
   by decide +kernel⟩

/-- The paths after STOP_SERVICE: fibre that was PROVING, WEAK and DOWN, with the return delay that its rise arms; a
session that closes, and one that a request in the link keeps; a BACKOFF that ends, and one of target OFF. -/
theorem test_stop_service_leaves_the_paths :
    (∀ st ∈ [PathState.proving, .weak, .down],
      let s : State := asking 0x91 [] (withFibre fun r => { r with state := st, usableSince := 5, failCount := 2 })
      Current s ∧ Offers s 0x91 ∧ s.fibre.state = st ∧ leads (exec .stopService s) (fun t => t.fibre.failCount = 0
        ∧ t.fibre.state = (if st = .down then .down else .up)
        ∧ t.fibre.usableSince = (if st = .proving then 1000000 else 5)
        ∧ t.steer.ret = if st = .proving then .armed else .notArmed) = true)
    ∧ (∀ o ∈ [none, waits .signalQuery false],
        let s : State := asking 0x91 [] (fresh { onRadio with
          radio := { onRadio.radio with state := .weak }, ru := { onRadio.ru with outstanding := o } })
        Current s ∧ Offers s 0x91 ∧ s.ru.state = .session ∧ leads (exec .stopService s) (fun t =>
          if o = none then t.ru.state ≠ .session ∧ t.radio.state = .down
          else t.ru.state = .session ∧ t.radio.state = .up) = true)
    ∧ ∀ x ∈ [(Target.session, RadioState.off), (.off, .backoff)],
        let s : State := asking 0x91 [] (linked .backoff none x.1)
        Current s ∧ Offers s 0x91 ∧ leads (exec .stopService s) (fun t => t.ru.state = x.2) = true := by decide +kernel

/-- STOP_SERVICE flushes what waits for radio and leaves no held frame: the frame of a flow is discarded and counted, that
of a class is dropped by the pass. -/
theorem test_stop_service_empties_the_buffers : ∃ s : State, Current s ∧ Offers s 0x91 ∧ s.exch.service = .service
    ∧ (∀ h ∈ s.fwd.held, s.bindingPath h = .waiting) ∧ s.fwd.held.length = 2
    ∧ leads (exec .stopService s) (fun t => t.fwd.held = [] ∧ t.fwd.counts.holdDiscard = 1 ∧ t.ev.latch.getLsbD 13
        ∧ t.fwd.radioQ.urgent = [] ∧ t.fwd.radioQ.normal = [] ∧ t.fwd.counts.radioFlush = 3) = true :=
  ⟨asking 0x91 [] (fresh { served with
    classes := served.classes.map fun c => { c with cur := .waiting },
    flows := served.flows.set 0 { aFlow with state := .waiting },
    fwd := { served.fwd with
      held := [⟨aFrame, 1, some 0, 999000⟩, ⟨aFrame, 7, none, 999000⟩],
      radioQ := { served.fwd.radioQ with
        urgent := [⟨aFrame, none⟩], normal := [⟨aFrame, none⟩, ⟨aFrame, some 0⟩] } } }), by decide +kernel⟩

/-! ## Premises: measurement -/

/-- A tick for another path's generator, one that is counted, and one that sends. -/
theorem test_premises_ProbesSent : (∃ s : State, Current s ∧ reached s.now (s.gens.get .b).due = true ∧ s.fibre.assign = .genA)
    ∧ (∃ s : State, Current s ∧ reached s.now (s.gens.get .a).due = true ∧ s.fibre.assign = .genA
        ∧ s.radio.assign = .genB ∧ s.scoring .fibre = true ∧ s.fibre.ticks + 1 < s.fibre.d)
    ∧ ∃ s : State, Current s ∧ reached s.now (s.gens.get .a).due = true ∧ s.fibre.assign = .genA ∧ s.radio.assign = .genB
        ∧ s.scoring .fibre = true ∧ s.fibre.d ≤ s.fibre.ticks + 1 ∧ s.fibre.probes.length < 4 ∧ s.portReady .fibre = false :=
  ⟨⟨serving, by decide +kernel⟩, ⟨withFibre fun _ => probing, by decide +kernel⟩,
   fresh { served with
     fibre := { probing with ticks := 1, probes := [anEntry 0, anEntry 1, anEntry 2] },
     fwd := { served.fwd with fibreQ := { served.fwd.fibreQ with sending := some [0] } } }, by decide +kernel⟩

/-- A free port; a full pending list; a generator of both paths. -/
theorem test_premises_ProbesSent_more :
    (∃ s : State, Current s ∧ reached s.now (s.gens.get .a).due = true ∧ s.fibre.assign = .genA ∧ s.radio.assign = .genB
        ∧ s.scoring .fibre = true ∧ s.fibre.d ≤ s.fibre.ticks + 1 ∧ s.fibre.probes.length < 4
        ∧ s.portReady .fibre = true ∧ (s.fwd.queue .fibre).probes = [])
      ∧ (∃ s : State, Current s ∧ reached s.now (s.gens.get .b).due = true ∧ s.fibre.assign = .genA
        ∧ s.radio.assign = .genB ∧ s.scoring .radio = true ∧ s.radio.d ≤ s.radio.ticks + 1 ∧ s.radio.probes.length = 0
        ∧ s.portReady .radio = true ∧ (s.fwd.queue .radio).probes = [] ∧ Sound s.allow
        ∧ { s.allow with
            used := min (s.allow.used + (probeFrame .radio s.radio.template s.radio.seq s.now).length + s.allow.overhead)
              18446744073709551615 }.stageNow = s.allow.stage)
      ∧ (∃ s : State, Current s ∧ reached s.now (s.gens.get .a).due = true ∧ s.radio.assign = .genB
        ∧ s.scoring .fibre = true ∧ s.fibre.assign = .genA ∧ s.fibre.d ≤ s.fibre.ticks + 1
        ∧ s.fibre.probes = anEntry 0 :: [anEntry 1, anEntry 2, anEntry 3] ∧ s.fibre.window.length = 6
        ∧ s.portReady .fibre = false)
      ∧ ∃ s : State, Current s ∧ reached s.now (s.gens.get .a).due = true ∧ s.fibre.assign = .genA
        ∧ s.radio.assign = .genA ∧ s.fibre.probes.length < 4 ∧ s.radio.probes.length < 4 ∧ s.portReady .fibre = false
        ∧ s.portReady .radio = false ∧ s.scoring .fibre = true ∧ s.scoring .radio = true :=
  ⟨⟨withFibre fun _ => { probing with ticks := 1 }, by decide +kernel⟩,
   ⟨{ onRadio with radio := { onRadio.radio with template := [1], ticks := 1 } }, by decide +kernel⟩,
   ⟨fresh { served with
      fibre := { probing with
        ticks := 1, probes := [anEntry 0, anEntry 1, anEntry 2, anEntry 3], window := List.replicate 6 ⟨0, none⟩ },
      fwd := { served.fwd with fibreQ := { served.fwd.fibreQ with sending := some [0] } } }, by decide +kernel⟩,
   fresh { served with
     fibre := { probing with ticks := 1 },
     radio := { served.radio with state := .proving, template := [1], assign := .genA, ticks := 1 },
     fwd := { served.fwd with fibreQ := { served.fwd.fibreQ with sending := some [0] } } }, by decide +kernel⟩

/-- An entry behind another, and one at the front with six results in the window. -/
theorem test_premises_ProbesLost :
    (∃ s : State, Current s ∧ s.fibre.probes = [anEntry 5] ++ anEntry 6 :: [] ∧ (anEntry 6).res = .unresolved
        ∧ (∀ x ∈ [anEntry 5], ¬(x.seq = (anEntry 6).seq ∧ x.res = .unresolved))
        ∧ reachedFine s.clk (anEntry 6).expiry (anEntry 6).sentSub = true ∧ (anEntry 5).res = .unresolved)
      ∧ ∃ s : State, Current s ∧ s.fibre.probes = [] ++ anEntry 6 :: [] ∧ (anEntry 6).res = .unresolved
        ∧ reachedFine s.clk (anEntry 6).expiry (anEntry 6).sentSub = true ∧ s.fibre.window.length = 6 :=
  ⟨⟨withFibre fun _ => { probing with probes := [anEntry 5, anEntry 6] }, by decide +kernel⟩,
   withFibre fun _ => { probing with probes := [anEntry 6], window := List.replicate 6 ⟨0, none⟩ }, by decide +kernel⟩

/-- Entries resolved behind the front leave with it (R11, R12), at an expiry, at a reply and at a full list: with few
results, and where the first result makes fibre fall, NOT_ARMED, and the last takes it UP again, ARMED. -/
theorem test_resolved_entries_leave_together :
    ∀ n ∈ [(3 : Nat), 7], ∀ upT ∈ [(500 : Nat), 900],
      let entry := fun (k : Half) (r : Resolution) => { anEntry k with res := r }
      let behind := [entry 7 (.replied 100), entry 8 (.replied 100), anEntry 9]
      let s : State := fresh { served with
        fibre := { probing with
          probes := anEntry 6 :: behind, window := List.replicate n ⟨0, none⟩, failCount := 2, ticks := 1, upT := upT,
          usableSince := 5 },
        steer := { served.steer with ret := .passed },
        fwd := { served.fwd with fibreQ := { served.fwd.fibreQ with sending := some [0] } } }
      let ends := fun (t : State) => (t.fibre.window.length = n + 3
        ∧ (n = 3 → t.fibre.state = .up ∧ t.steer.ret = .passed)
        ∧ (n = 7 → t.fibre.penalty = 500 ∧ t.fibre.cause.cause = some .loss
            ∧ t.fibre.state = (if upT = 500 then .up else .proving)
            ∧ t.fibre.usableSince = (if upT = 500 then 1000000 else 5)
            ∧ t.steer.ret = (if upT = 500 then .armed else .notArmed)) : Bool)
      Current s ∧ s.fibre.probes = anEntry 6 :: behind ∧ (resultsOf behind).length = 2 ∧ unresolvedOn behind = [anEntry 9]
        ∧ s.fibre.window.length = n ∧ s.scoring .fibre = true ∧ s.portReady .fibre = false
        ∧ reached s.now (s.gens.get .a).due = true ∧ s.portReceives .fibre = true
        ∧ probeShaped (aProbe .fibre 6) = true ∧ trailerSeq (aProbe .fibre 6) = 6
        ∧ leads (exec (.probeExpiry .fibre 6) s) (fun t => ends t ∧ t.fibre.probes = [anEntry 9]) = true
        ∧ leads (exec (.inboundFrame .fibre (aProbe .fibre 6)) s) (fun t => t.fibre.probes = [anEntry 9]
            ∧ t.fibre.window.length = n + 3) = true
        ∧ leads (exec (.generatorTick .a) s) (fun t => ends t ∧ t.fibre.probes.length = 2) = true := by
  decide +kernel

/-- A usable path that falls at its limit, and a PROVING radio path that goes UP. -/
theorem test_premises_ResultsScoreThePath :
    (∃ s : State, s.exch.service = .service ∧ s.fibre.linkOnly = false ∧ s.fibre.state ≠ .down
        ∧ s.fibre.probes = anEntry 6 :: [] ∧ (anEntry 6).res = .unresolved
        ∧ reachedFine s.clk (anEntry 6).expiry (anEntry 6).sentSub = true ∧ 7 ≤ s.fibre.window.length
        ∧ s.fibre.cause.valid = false ∧ s.fibre.failLimit ≤ s.fibre.failCount + 1)
      ∧ ∃ s : State, s.exch.service = .service ∧ s.radio.linkOnly = false ∧ s.radio.state = .proving
        ∧ s.radio.probes = anEntry 6 :: [anEntry 7] ∧ (∀ x ∈ [anEntry 7].head?, x.res = .unresolved)
        ∧ reachedFine s.clk (anEntry 6).expiry (anEntry 6).sentSub = true ∧ s.radio.window.length = 16 :=
  ⟨⟨withFibre fun _ => { probing with
      probes := [anEntry 6], window := List.replicate 7 ⟨0, none⟩, failCount := 2 }, by decide +kernel⟩,
   { onRadio with radio := { probing with
      state := .proving, probes := [anEntry 6, anEntry 7], window := List.replicate 16 ⟨0, some 400⟩ } }, by decide +kernel⟩

/-- A fall that breaks a FIBRE hold, and a radio path that goes UP under a RADIO hold. -/
theorem test_premises_ResultsScoreThePath_holds :
    (let s : State := { serving with
       hold := aHold .fibre,
       fibre := { probing with probes := [anEntry 6], window := List.replicate 7 ⟨0, none⟩, failCount := 2 } }
     s.hold.active = true ∧ s.hold.path = some .fibre ∧ leads (exec (.probeExpiry .fibre 6) s)
       (fun t => t.hold = { s.hold with active := false, stop := s.now, reason := .broken } ∧ t.ev.latch.getLsbD 10) = true)
    ∧ (let s : State := { onRadio with
         hold := aHold .radio,
         radio := { probing with
           state := .proving, probes := [anEntry 6], window := List.replicate 16 ⟨0, some 400⟩, replied := true } }
       s.hold.active = true ∧ s.hold.path = some .radio ∧ s.hold.seen = false ∧ leads (exec (.probeExpiry .radio 6) s)
         (fun t => t.radio.state = .up ∧ t.hold.seen) = true) := by decide +kernel

/-- The rows of R47 at a fall on score by LOSS: no record, a less significant one, that one under lock-first, an equal
one, a more significant one; and READY_CHANGE at the eighth result. -/
theorem test_falls_offer_their_cause :
    ∀ x ∈ [(false, none, false, true), (true, some Cause.signal, false, true), (true, some .signal, true, false),
           (true, some .loss, false, false), (true, some .physical, false, false)],
      let s : State := withFibre fun _ => { probing with
        probes := [anEntry 6], window := List.replicate 7 ⟨0, none⟩, failCount := 2, lockFirst := x.2.2.1,
        cause := { probing.cause with valid := x.1, cause := x.2.1, falls := 255 } }
      leads (exec (.probeExpiry .fibre 6) s) (fun t => (t.ev.latch.getLsbD 12 = x.2.2.2 ∧ t.ev.latch.getLsbD 15)
        ∧ t.fibre.cause.cause = (if x.2.2.2 then some .loss else x.2.1)
        ∧ t.fibre.cause.repeated = !x.2.2.2 ∧ t.fibre.cause.falls = (if x.1 then 255 else 1)
        ∧ t.fibre.cause.snap.before = (if x.2.2.2 then some .up else probing.cause.snap.before)) = true := by
  decide +kernel

/-- A frame of 59 bytes and of 1,519, of 60 and of 1,518, and each at a full receive queue. -/
theorem test_premises_InboundFramesTaken_plain : Current serving ∧ serving.portReceives .fibre = true
    ∧ ¬(60 ≤ (List.replicate 59 (0 : Byte)).length ∧ (List.replicate 59 (0 : Byte)).length ≤ 1518)
    ∧ ¬(60 ≤ (List.replicate 1519 (0 : Byte)).length ∧ (List.replicate 1519 (0 : Byte)).length ≤ 1518)
    ∧ (60 ≤ aFrame.length ∧ aFrame.length ≤ 1518 ∧ probeShaped aFrame = false ∧ serving.fwd.receive.length < 64)
    ∧ (List.replicate 1518 (0 : Byte)).length ≤ 1518 ∧ probeShaped (List.replicate 1518 0) = false
    ∧ ∃ s : State, Current s ∧ s.portReceives .fibre = true ∧ 64 ≤ s.fwd.receive.length := by
  refine ⟨by decide +kernel, by decide +kernel, by decide +kernel, by decide +kernel, by decide +kernel, by decide +kernel,
    by decide +kernel, fresh { served with fwd := { served.fwd with receive := List.replicate 64 ⟨[], .fibre⟩ } }, ?_⟩
  decide +kernel

/-- An unmatched probe, the other path's probe, and a reply to the front entry. -/
theorem test_premises_InboundFramesTaken_probe : ∃ s : State, Current s ∧ s.portReceives .fibre = true
    ∧ (60 ≤ (aProbe .fibre 9).length ∧ (aProbe .fibre 9).length ≤ 1518 ∧ probeShaped (aProbe .fibre 9) = true
        ∧ ∀ e ∈ s.fibre.probes, ¬(e.seq = trailerSeq (aProbe .fibre 9) ∧ e.res = .unresolved))
    ∧ (probeShaped (aProbe .radio 6) = true ∧ trailerPath (aProbe .radio 6) ≠ pathCode .fibre)
    ∧ (60 ≤ (aProbe .fibre 6).length ∧ (aProbe .fibre 6).length ≤ 1518 ∧ probeShaped (aProbe .fibre 6) = true
        ∧ trailerPath (aProbe .fibre 6) = pathCode .fibre ∧ s.fibre.probes = anEntry 6 :: []
        ∧ (anEntry 6).seq = trailerSeq (aProbe .fibre 6) ∧ s.fibre.window.length < 7) :=
  ⟨withFibre fun _ => { probing with probes := [anEntry 6] }, by decide +kernel⟩

theorem test_premises_InboundFramesTaken_radio : Current onRadio ∧ onRadio.portReceives .radio = true
    ∧ Sound onRadio.allow
    ∧ { onRadio.allow with used := min (onRadio.allow.used + 60 + onRadio.allow.overhead) max64 }.stageNow
        = onRadio.allow.stage := by decide +kernel

/-- A reply to the entry behind the front one. -/
theorem test_premises_InboundFramesTaken_behind : ∃ s : State, Current s ∧ s.portReceives .fibre = true
    ∧ 60 ≤ (aProbe .fibre 6).length ∧ (aProbe .fibre 6).length ≤ 1518 ∧ probeShaped (aProbe .fibre 6) = true
    ∧ trailerPath (aProbe .fibre 6) = pathCode .fibre ∧ s.fibre.probes = [anEntry 5] ++ anEntry 6 :: [anEntry 7]
    ∧ (anEntry 6).seq = trailerSeq (aProbe .fibre 6) ∧ (anEntry 6).res = .unresolved ∧ (anEntry 5).res = .unresolved
    ∧ ∀ y ∈ [anEntry 5], ¬(y.seq = (anEntry 6).seq ∧ y.res = .unresolved) :=
  ⟨withFibre fun _ => { probing with probes := [anEntry 5, anEntry 6, anEntry 7] }, by decide +kernel⟩

/-- Replies with seven results in the window, on fibre and on radio. -/
theorem test_premises_ResultsScoreThePath_reply :
    (∃ s : State, s.exch.service = .service ∧ s.fibre.linkOnly = false ∧ s.fibre.state ≠ .down
        ∧ s.fibre.probes = anEntry 6 :: [] ∧ s.fibre.window.length = 7 ∧ s.portReceives .fibre = true
        ∧ 60 ≤ (aProbe .fibre 6).length ∧ (aProbe .fibre 6).length ≤ 1518 ∧ probeShaped (aProbe .fibre 6) = true
        ∧ trailerPath (aProbe .fibre 6) = pathCode .fibre ∧ trailerSeq (aProbe .fibre 6) = (anEntry 6).seq)
      ∧ ∃ s : State, s.exch.service = .service ∧ s.radio.linkOnly = false ∧ s.radio.state ≠ .down
        ∧ s.radio.probes = anEntry 6 :: [] ∧ 7 ≤ s.radio.window.length ∧ s.portReceives .radio = true
        ∧ probeShaped (aProbe .radio 6) = true ∧ trailerPath (aProbe .radio 6) = pathCode .radio
        ∧ trailerSeq (aProbe .radio 6) = (anEntry 6).seq ∧ Sound s.allow
        ∧ { s.allow with
            used := min (s.allow.used + (aProbe .radio 6).length + s.allow.overhead) 18446744073709551615 }.stageNow
              = s.allow.stage :=
  ⟨⟨withFibre fun _ => { probing with probes := [anEntry 6], window := List.replicate 7 ⟨0, none⟩ }, by decide +kernel⟩,
   { onRadio with radio := { probing with probes := [anEntry 6], window := List.replicate 16 ⟨0, some 400⟩ } },
   by decide +kernel⟩

/-- A metered radio path with two probes pending, its classes on radio and just below the end of the allowance. -/
def metered (linger : Nat) (probes : List Probe) (receive : List RxFrame) : State :=
  fresh { onRadio with
    radio := { probing with probes := probes, window := List.replicate 16 ⟨0, some 400⟩ },
    ru := { onRadio.ru with linger := linger },
    classes := onRadio.classes.map fun c => { c with tier := 1 },
    fwd := { onRadio.fwd with receive := receive },
    allow := { Allowance.bounded { served.allow with kib := 1, hardCap := true } with
      used := 1000, stage := .reserve, peak := .reserve } }

/-- Radio frames that use up the allowance: malformed, for the receive queue, at a full one, unmatched, a reply to the
front entry and to the one behind it. The classes lose radio; the session stays for a linger, and closes without one,
where a reply finds its path settled. -/
theorem test_inbound_frame_that_changes_the_stage : ∀ linger ∈ [300, 0], ∀ x ∈ [
      (List.replicate 59 (0 : Byte), 0, 0, 1, 0), (aFrame, 0, 1, 0, 0), (aFrame, 64, 64, 0, 1),
      (aProbe .radio 9, 0, 0, 0, 0), (aProbe .fibre 6, 0, 0, 0, 0), (aProbe .radio 6, 0, 0, 0, 0),
      (aProbe .radio 7, 0, 0, 0, 0)],
    let s := metered linger [anEntry 6, anEntry 7] (List.replicate x.2.1 ⟨[], .radio⟩)
    Current s ∧ s.portReceives .radio = true ∧ Sound s.allow ∧ s.radio.probes = [anEntry 6, anEntry 7]
      ∧ { s.allow with used := min (s.allow.used + (x.1.length + s.allow.overhead)) 18446744073709551615 }.stageNow
          ≠ s.allow.stage
      ∧ leads (exec (.inboundFrame .radio x.1) s) (fun t => t.allow.used = 1000 + x.1.length ∧ t.allow.stage = .exhausted
          ∧ t.allow.live ∧ t.ev.latch.getLsbD 5 ∧ t.ev.latch.getLsbD 6 ∧ (t.cls 1).cur = .blocked
          ∧ t.fwd.receive.length = x.2.2.1 ∧ t.fwd.counts.radioIn = x.2.2.2.1 ∧ t.fwd.counts.receiveDrop = x.2.2.2.2
          ∧ (t.ru.state = .session ↔ linger = 300)
          ∧ t.radio.unmatched = (if x.2.1 = 0 ∧ probeShaped x.1 ∧ (linger = 0 ∨ trailerPath x.1 = 1 ∨ trailerSeq x.1 = 9)
              then 1 else 0)
          ∧ (linger = 300 → t.radio.probes.length = if trailerSeq x.1 = 6 ∧ trailerPath x.1 = 2 then 1 else 2)) = true := by
  decide +kernel

theorem test_premises_FibreWatched : State.reset.exch.service = .init ∧ serving.exch.service ≠ .init
    ∧ serving.fin.available = true ∧ onRadio.fin.available = false
    ∧ ∃ s : State, s.exch.service ≠ .init ∧ expired s.now s.fin.settleDue = true :=
  ⟨by decide +kernel, by decide +kernel, by decide +kernel, by decide +kernel,
   { onRadio with fin := { onRadio.fin with settleDue := some 1000000 } }, by decide +kernel⟩

/-- A FIBRE hold, and fibre lost. -/
theorem test_premises_FibreWatched_hold : ∃ s : State, s.exch.service ≠ .init ∧ s.fin.available = true
    ∧ s.fibre.state = .up ∧ s.hold.active = true ∧ s.hold.path = some .fibre
    ∧ leads (exec (.losChange true) s) (fun t => t.hold.reason = .broken ∧ t.ev.latch.getLsbD 10) = true :=
  ⟨withHold (aHold .fibre), by decide +kernel⟩

/-- Fibre lost from UP with eight results and frames in its bands, under cause records that PHYSICAL is written to and
not; and from PROVING, without an offer. -/
theorem test_fibre_lost_flushes_and_offers :
    ∀ x ∈ [(PathState.up, some Cause.loss, false, true), (.weak, some .physical, false, false), (.up, some .loss, true, false),
           (.proving, some .loss, false, false)],
      let s : State := fresh { served with
        fibre := { probing with
          state := x.1, window := List.replicate 8 ⟨0, none⟩, lockFirst := x.2.2.1,
          cause := { probing.cause with valid := true, cause := x.2.1, falls := 1 } },
        fwd := { served.fwd with fibreQ := { served.fwd.fibreQ with
          urgent := [⟨aFrame, none⟩], normal := [⟨aFrame, none⟩], sending := some [] } } }
      s.exch.service ≠ .init ∧ s.fin.available = true ∧ s.hold.active = false
        ∧ leads (exec (.losChange true) s) (fun t => (t.ev.latch.getLsbD 15 ∧ t.ev.latch.getLsbD 12 = x.2.2.2)
          ∧ t.fwd.fibreQ.urgent = [] ∧ t.fwd.fibreQ.normal = [] ∧ t.fwd.counts.fibreFlush = 2
          ∧ t.fibre.cause.cause = (if x.2.2.2 then some .physical else x.2.1)
          ∧ t.fibre.cause.falls = if x.1 = .proving then 1 else 2) = true := by decide +kernel

/-- Fibre that settles with a return delay of 60 s and of 0, and fibre that is lost with the delay passed. -/
theorem test_return_delay_follows_fibre :
    (∀ delay ∈ [60, 0],
      let s : State := { onRadio with
        fin := { onRadio.fin with settleDue := some 1000000 }, steer := { onRadio.steer with delay := delay } }
      s.exch.service ≠ .init ∧ expired s.now s.fin.settleDue = true ∧ s.fibre.state = .down
        ∧ leads (exec .fibreSettleExpiry s) (fun t => t.fibre.state = .up ∧ t.fibre.usableSince = 1000000
          ∧ t.steer.ret = (if delay = 0 then .passed else .armed)
          ∧ t.steer.retDue = if delay = 0 then 0 else 1060000) = true)
    ∧ (let s : State := fresh { served with steer := { served.steer with ret := .passed } }
       s.fin.available = true ∧ s.fibre.state = .up
         ∧ leads (exec (.losChange true) s) (fun t => t.steer.ret = .notArmed) = true) := by decide +kernel

theorem test_premises_PenaltiesDecay : (∃ s : State, Current s ∧ reached s.now (s.path .radio).decayDue = true
      ∧ (s.path .radio).state ≠ .suppressed)
    ∧ ∃ s : State, Current s ∧ reached s.now (s.path .fibre).decayDue = true ∧ (s.path .fibre).state = .suppressed
      ∧ (s.path .fibre).penalty - max 1 ((s.path .fibre).penalty / 16) < (s.path .fibre).reuse :=
  ⟨⟨serving, by decide +kernel⟩, withFibre fun r => { r with state := .suppressed, penalty := 1577 }, by decide +kernel⟩

/-! ## Premises: the modem -/

theorem test_premises_OkAnswersMoveTheUnit_attach : ∃ s : State, Current s ∧ s.ru.rx = []
    ∧ s.ru.outstanding = waits .attach false ∧ s.ru.state = .attaching := ⟨linked .attaching (waits .attach false) .off, by decide +kernel⟩

theorem test_premises_OkAnswersMoveTheUnit_close :
    (∃ s : State, Current s ∧ s.ru.rx = [] ∧ s.ru.outstanding = waits .closeSession false ∧ s.ru.state = .closing)
      ∧ ∃ s : State, Current s ∧ s.ru.rx = [] ∧ s.ru.outstanding = none ∧ s.ru.state = .closing :=
  ⟨⟨linked .closing (waits .closeSession false) .session, by decide +kernel⟩, linked .closing none .attached, by decide +kernel⟩

/-- In ATTACHED with a stale CLOSE SESSION, as SESSION CLOSED in CLOSING leaves it. -/
theorem test_premises_OkAnswersMoveTheUnit_stale : ∃ s t : State, Current s ∧ s.ru.rx = []
    ∧ s.ru.outstanding = waits .closeSession false ∧ s.ru.state = .closing ∧ exec .sessionClosed s = .next t
    ∧ Current t ∧ t.ru.rx = [] ∧ t.ru.outstanding = waits .closeSession true ∧ t.ru.state = .attached :=
  ⟨linked .closing (waits .closeSession false) .session, _, by decide +kernel, by decide +kernel, by decide +kernel,
   by decide +kernel, rfl, by decide +kernel⟩

theorem test_premises_OkAnswersMoveTheUnit_open : ∃ s : State, Current s ∧ s.ru.rx = []
    ∧ s.ru.outstanding = waits .openSession false ∧ s.ru.state = .opening ∧ s.ru.target = .session ∧ s.radio.state ≠ .down :=
  ⟨fresh { served with
    radio := { served.radio with state := .proving },
    ru := { served.ru with state := .opening, target := .session, outstanding := waits .openSession false } }, by decide +kernel⟩

/-- A session entered from OPENING as runs reach it, the radio path DOWN: link-only, with probing, and suppressed. -/
theorem test_premises_OkAnswersMoveTheUnit_enters :
    ∀ x ∈ [(0, [], PathState.up), (0, [1], .proving), (3000, [], .suppressed)],
      let s : State := fresh { served with
        radio := { served.radio with penalty := x.1, template := x.2.1 },
        ru := { served.ru with
          state := .opening, target := .session, outstanding := waits .openSession false, lingerOn := true } }
      Current s ∧ s.ru.rx = [] ∧ s.ru.outstanding = waits .openSession false ∧ s.ru.state = .opening
        ∧ s.ru.target = .session ∧ s.radio.state = .down ∧ s.exch.service = .service ∧ s.drill.running = false
        ∧ 0 < s.effectiveLinger ∧ s.ru.lingerOn = true
        ∧ leads (exec .okAnswer s) (fun t => t.ru.state = .session ∧ t.radio.state = x.2.2) = true := by decide +kernel

/-- A SIGNAL QUERY that waits as OPEN SESSION and ATTACH are answered: it is sent in SESSION and in ATTACHED, and dropped
where the session closes at once or the unit detaches; the grade state starts again with the session. -/
theorem test_a_query_that_waits_is_sent :
    ∀ x ∈ [(RadioState.opening, Request.openSession, Target.session, RadioState.session, some Request.signalQuery),
           (.opening, .openSession, .attached, .closing, some .closeSession),
           (.attaching, .attach, .attached, .attached, some .signalQuery),
           (.attaching, .attach, .session, .opening, some .openSession),
           (.attaching, .attach, .off, .detaching, some .detach)],
      let s : State := fresh { served with
        grade := { last := some 3, unknown := 2, scoring := 3, valid := true },
        ru := { served.ru with
          state := x.1, target := x.2.2.1, queryPending := true, lingerOn := true, outstanding := waits x.2.1 false } }
      Current s ∧ s.ru.rx = [] ∧ s.radio.state = .down ∧ s.ru.queryPending = true
        ∧ leads (exec .okAnswer s) (fun t => t.ru.state = x.2.2.2.1 ∧ t.ru.outstanding.map Outstanding.kind = x.2.2.2.2
          ∧ (t.ru.queryPending = true ↔ x.2.2.2.1 = .opening)
          ∧ t.grade = if x.1 = .opening then GradeState.start else s.grade) = true := by decide +kernel

/-- A session entered with another target: the radio path goes DOWN, UP, DOWN in one event, and its record is rewritten. -/
theorem test_premises_OkAnswersMoveTheUnit_turned : ∃ s t : State, Current s ∧ s.ru.rx = []
    ∧ s.ru.outstanding = waits .openSession false ∧ s.ru.state = .opening ∧ s.ru.target = .off ∧ s.radio.state = .down
    ∧ exec .okAnswer s = .next t ∧ t.radio.state = .down ∧ t.counts.radio = 2 :=
  ⟨linked .opening (waits .openSession false) .off, _, by decide +kernel, by decide +kernel, by decide +kernel,
   by decide +kernel, by decide +kernel, by decide +kernel, rfl, by decide +kernel⟩

/-- A drill that runs as its session opens: a link-only radio path ends it PASS; with probing it goes on, and ends where a
class takes radio. -/
theorem test_session_opens_under_a_drill :
    ∀ x ∈ [([], ClassPath.fibre, false, DrillOutcome.pass), ([1], .fibre, true, .pass), ([1], .waiting, false, .aborted)],
      let s : State := fresh { served with
        fibre := { served.fibre with state := if x.2.1 = .fibre then .up else .down },
        radio := { served.radio with template := x.1 }, drill := { served.drill with running := true, start := 999000 },
        classes := served.classes.map fun c => { c with cur := x.2.1 },
        ru := { served.ru with state := .opening, target := .session, outstanding := waits .openSession false } }
      Current s ∧ s.ru.rx = [] ∧ s.ru.outstanding = waits .openSession false ∧ s.radio.state = .down
        ∧ s.exch.service = .service ∧ leads (exec .okAnswer s) (fun t => t.drill.running = x.2.2.1
          ∧ (t.drill.running = false → t.drill.last.outcome = some x.2.2.2)) = true := by decide +kernel

theorem test_premises_OkAnswersMoveTheUnit_detach :
    (∃ s : State, Current s ∧ s.ru.rx = [] ∧ s.ru.outstanding = waits .detach false ∧ s.ru.state = .detaching
        ∧ s.ru.target ≠ .off)
      ∧ (∃ s : State, Current s ∧ s.ru.outstanding = waits .detach false ∧ s.ru.state = .resync ∧ s.ru.target ≠ .off)
      ∧ ∃ s : State, Current s ∧ s.ru.outstanding = waits .closeSession false ∧ s.ru.state = .resync :=
  ⟨⟨linked .detaching (waits .detach false) .attached, by decide +kernel⟩,
   ⟨linked .resync (waits .detach false) .session, by decide +kernel⟩,
   linked .resync (waits .closeSession false) .off, by decide +kernel⟩

/-- DETACH answered OK or REFUSED with target OFF, in DETACHING and in RESYNC, with READY active and inactive. -/
theorem test_detach_with_target_off : ∀ st ∈ [RadioState.detaching, .resync], ∀ high ∈ [true, false],
    let s : State := withRadio fun u => { u with state := st, outstanding := waits .detach false, readyHigh := high }
    let goesOn := fun t : State => (t.ru.state = if high then RadioState.stopping else .off : Bool)
    Current s ∧ s.ru.rx = [] ∧ s.ru.target = .off ∧ s.ru.ready = high
      ∧ leads (exec .okAnswer s) goesOn = true ∧ leads (exec (.refusedAnswer 3) s) goesOn = true
      ∧ leads (exec .answerTimeout s) (fun t => st = .detaching ∨ goesOn t) = true := by decide +kernel

theorem test_premises_IndicationsMoveTheUnit :
    (∃ s : State, s.exch.service ≠ .init ∧ s.ru.rx = [] ∧ s.ru.state = .session)
      ∧ (∃ s : State, Current s ∧ s.ru.rx = [] ∧ s.ru.state = .attached ∧ s.ru.target ≠ .off ∧ s.ru.outstanding = none)
      ∧ ∃ s : State, Current s ∧ s.ru.rx = [] ∧ s.ru.state = .fault :=
  ⟨⟨onRadio, by decide +kernel⟩, ⟨linked .attached none .attached, by decide +kernel⟩,
   linked .fault none .off, by decide +kernel⟩

/-- A RADIO hold that has seen the radio path usable, and the session lost. -/
theorem test_premises_IndicationsMoveTheUnit_hold : ∃ s : State, s.exch.service ≠ .init ∧ s.ru.rx = []
    ∧ s.ru.state = .session ∧ s.hold.active = true ∧ s.hold.path = some .radio ∧ s.hold.seen = true
    ∧ s.radio.state = .up
    ∧ leads (exec .sessionClosed s) (fun t => t.hold.reason = .broken ∧ t.ev.latch.getLsbD 10) = true :=
  ⟨fresh { onRadio with hold := { aHold .radio with seen := true } }, by decide +kernel⟩

/-- A session left with the radio path UP, measure ready, and frames in its bands, with the link free and held. -/
theorem test_session_lost_with_its_effects : ∀ o ∈ [none, waits .signalQuery false],
    let s : State := fresh { onRadio with
      radio := { onRadio.radio with template := [1], score := 800, penalty := 7500, window := List.replicate 8 ⟨0, some 5⟩ },
      ru := { onRadio.ru with outstanding := o },
      fwd := { served.fwd with radioQ := { served.fwd.radioQ with
        urgent := [⟨aFrame, none⟩], normal := [⟨aFrame, none⟩], sending := some [] } } }
    let left := fun (t : State) => (t.radio.penalty = 8000 ∧ t.radio.window = [] ∧ t.radio.cause.cause = some .physical
      ∧ t.radio.cause.snap.h = 800 ∧ t.radio.cause.snap.n = 8 ∧ t.radio.cause.snap.penalty = 8000
      ∧ t.fwd.radioQ.urgent = [] ∧ t.fwd.radioQ.normal = [] ∧ t.fwd.counts.radioFlush = 2 ∧ t.ev.latch.getLsbD 12
      ∧ t.ev.latch.getLsbD 15 ∧ t.ev.latch.getLsbD 2 : Bool)
    s.exch.service ≠ .init ∧ s.ru.rx = [] ∧ s.ru.state = .session ∧ s.ru.target = .session ∧ s.ru.outstanding = o
      ∧ leads (exec .sessionClosed s) (fun t => left t ∧ t.ru.state = if o = none then .opening else .attached) = true
      ∧ leads (exec .detached s) (fun t => left t ∧ t.ru.state = if o = none then .attaching else .idle) = true := by
  decide +kernel

/-- DETACHED with a request outstanding, and with target OFF, READY inactive and active. -/
theorem test_premises_IndicationsMoveTheUnit_busy :
    (∃ s : State, Current s ∧ s.ru.rx = [] ∧ s.ru.state = .opening ∧ s.ru.target ≠ .off
        ∧ s.ru.outstanding = waits .openSession false)
      ∧ (∃ s : State, Current s ∧ s.ru.rx = [] ∧ s.ru.state = .detaching ∧ s.ru.target = .off ∧ s.ru.ready = false)
      ∧ ∃ s : State, Current s ∧ s.ru.rx = [] ∧ s.ru.state = .closing ∧ s.ru.target = .off ∧ s.ru.ready = true
        ∧ s.ru.outstanding = waits .closeSession false :=
  ⟨⟨linked .opening (waits .openSession false) .session, by decide +kernel⟩,
   ⟨linked .detaching (waits .detach false) .off, by decide +kernel⟩,
   withRadio fun u => { u with
     state := .closing, outstanding := waits .closeSession false, target := .off, readyHigh := true }, by decide +kernel⟩

/-- A receiver with a frame under way, its last byte this many ms ago. -/
def receiving (bytes : List Byte) (ago : Nat) : State :=
  withRadio fun u => { u with rx := bytes, rxTime := served.now - BitVec.ofNat 32 ago }

/-- The silence at 50 ms, and 1 ms past it. -/
theorem test_premises_DiscardsCounted : (∃ s : State, Current s ∧ s.ru.rx = [] ∧ s.ru.outstanding = none)
    ∧ (∃ s : State, Current s ∧ s.ru.rx = [] ∧ s.ru.outstanding = waits .signalQuery true)
    ∧ (∃ s : State, Current s ∧ s.ru.rx = [] ∧ s.ru.outstanding = waits .detach true)
    ∧ (∃ s : State, Current s ∧ s.ru.rx = [0x7E, 0x83, 4] ∧ (s.now - s.ru.rxTime).toNat = 50)
    ∧ ∃ s : State, Current s ∧ s.ru.rx = [0x7E, 0x83] ∧ (s.now - s.ru.rxTime).toNat = 51 :=
  ⟨⟨linked .off none .off, by decide +kernel⟩, ⟨linked .session (waits .signalQuery true) .off, by decide +kernel⟩,
   ⟨linked .detaching (waits .detach true) .off, by decide +kernel⟩,
   ⟨receiving [0x7E, 0x83, 4] 50, by decide +kernel⟩, receiving [0x7E, 0x83] 51, by decide +kernel⟩

/-- Bytes that are no start byte, before a frame and alone; frames with a wrong check byte, without and with a payload, of
an unknown kind, and of a known kind with a length not its own, the checks right; one that hides a start byte, and one
that hides a SIGNAL indication: what is kept of the frame under way, the count, and the grade reported. -/
theorem test_discarded_frames : ∀ x ∈ [
      ([0x81, 0x00, 0x7F], [], 0, none), ([0x01, 0x7E, 0x82, 0x01], [0x7E, 0x82, 0x01], 0, none),
      (0x7E :: linkBytes 0x81 [] 0x80, [], 1, none), (0x7E :: linkBytes 0x82 [5] 0x70, [], 1, none),
      (0x7E :: linkBytes 0x90 [] 0x70, [], 1, none), (0x7E :: linkBytes 0x81 [5] 0x79, [], 1, none),
      (0x7E :: linkBytes 0x01 [] 0x7E, [0x7E], 1, none),
      (0x7E :: linkBytes 0x01 [0x7E, 0xC3, 0x01, 0x05] 0x37, [], 1, some 5)],
    Current serving ∧ serving.ru.rx = [] ∧ serving.radio.state = .down
      ∧ leads (exec (.linkFrameDiscarded x.1) serving) (fun t => t.ru.rx = x.2.1 ∧ t.ru.discards = x.2.2.1
          ∧ t.ru.grade = x.2.2.2) = true := by decide +kernel

/-- The frames above are bad ones: of the first the check, of the third the kind, of the fourth the length, and the bytes
that they hide. -/
theorem test_bad_frames :
    ((0x81, 0) ∈ linkTable ∧ (linkBytes 0x81 [] 0x80).foldl (· + ·) 0 ≠ 0 ∧ 0x7E ∉ linkBytes 0x81 [] 0x80)
      ∧ ((0x90, 0) ∉ linkTable ∧ (linkBytes 0x90 [] 0x70).foldl (· + ·) 0 = 0)
      ∧ ((0x81, 1) ∉ linkTable ∧ (linkBytes 0x81 [5] 0x79).foldl (· + ·) 0 = 0)
      ∧ linkBytes 0x01 [] 0x7E = [0x01, 0x00] ++ 0x7E :: []
      ∧ linkBytes 0x01 [0x7E, 0xC3, 0x01, 0x05] 0x37 = [0x01, 0x04] ++ [0x7E, 0xC3, 0x01, 0x05, 0 - (0xC4 + 0x05)]
      ∧ linkUnfinished [] ∧ linkUnfinished [0x83] := by
  refine ⟨by decide, by decide, by decide, by decide, by decide, ?_, ?_⟩ <;> intro _ _ _ h <;> cases h

/-- An OK frame that arrives under a frame under way (R55): its bytes are payload of a long one; its first byte is a
wrong check byte of a short one, in whose bytes it is then found and taken; after a silence it is taken whole. -/
theorem test_a_frame_under_way_takes_the_bytes :
    leads (exec .okAnswer (receiving [0x7E, 0x01] 0))
        (fun t => t.ru.rx = [0x7E, 0x01, 0x7E, 0x81, 0x00, 0x7F] ∧ t.ru.rxTime = served.now ∧ t.ru.discards = 0) = true
      ∧ leads (exec .okAnswer (receiving [0x7E, 0x01, 0x00] 50)) (fun t => t.ru.rx = [] ∧ t.ru.discards = 2) = true
      ∧ leads (exec .okAnswer (receiving [0x7E, 0x01] 51)) (fun t => t.ru.rx = [] ∧ t.ru.discards = 2) = true
      ∧ leads (exec (.linkInterbyteTimeout [0x7E]) (receiving [0x7E, 0x01] 51))
          (fun t => t.ru.rx = [0x7E] ∧ t.ru.discards = 1) = true := by
  decide +kernel

theorem test_premises_FailuresBackOffOrReset :
    (∃ s : State, Current s ∧ s.ru.rx = [] ∧ s.ru.outstanding = waits .attach false ∧ reached s.now 1000000 = true
        ∧ s.ru.state = .attaching ∧ s.ru.attachTimeouts = 1)
      ∧ (∃ s : State, Current s ∧ s.ru.outstanding = waits .openSession false ∧ reached s.now 1000000 = true
        ∧ s.ru.state = .opening)
      ∧ (∃ s : State, Current s ∧ s.ru.outstanding = waits .attach false ∧ reached s.now 1000000 = true
        ∧ s.ru.state = .attaching ∧ s.ru.attachTimeouts = 2)
      ∧ (∃ s : State, Current s ∧ s.ru.outstanding = waits .closeSession false ∧ s.ru.state = .closing)
      ∧ (∃ s : State, Current s ∧ s.ru.outstanding = waits .detach false ∧ s.ru.state = .detaching)
      ∧ ∃ s : State, Current s ∧ s.ru.rx = [] ∧ s.ru.outstanding = waits .openSession true ∧ s.ru.queryPending = false
        ∧ s.ru.state = .powering :=
  ⟨⟨withRadio fun u => { u with state := .attaching, outstanding := waits .attach false, attachTimeouts := 1 },
    by decide +kernel⟩,
   ⟨linked .opening (waits .openSession false) .off, by decide +kernel⟩,
   ⟨withRadio fun u => { u with state := .attaching, outstanding := waits .attach false, attachTimeouts := 2 },
    by decide +kernel⟩,
   ⟨linked .closing (waits .closeSession false) .off, by decide +kernel⟩,
   ⟨linked .detaching (waits .detach false) .off, by decide +kernel⟩,
   linked .powering (waits .openSession true) .off, by decide +kernel⟩

/-- REFUSED to CLOSE SESSION in RESYNC, and its timeout, ask for DETACH; DETACH refused with another target goes on to
ATTACHING. -/
theorem test_resync_goes_on_after_failures :
    (let s : State := linked .resync (waits .closeSession false) .session
     let asksDetach := fun t : State => (t.ru.state = .resync
       ∧ t.ru.outstanding = some { kind := .detach, stale := false, due := 1015000 } : Bool)
     Current s ∧ s.ru.rx = [] ∧ reached s.now 1000000 = true
       ∧ leads (exec (.refusedAnswer 9) s) (fun t => asksDetach t ∧ t.ru.refusalKind = some .closeSession) = true
       ∧ leads (exec .answerTimeout s) asksDetach = true)
    ∧ ∀ st ∈ [RadioState.detaching, .resync],
        let s : State := linked st (waits .detach false) .session
        Current s ∧ s.ru.rx = []
          ∧ leads (exec (.refusedAnswer 9) s) (fun t => t.ru.state = .attaching ∧ t.ru.refusalReason = 9) = true := by
  decide +kernel

/-- A grade that leaves the scoring grade as it is: any with the radio path DOWN, 10 with it UP, and an UNKNOWN. -/
theorem test_premises_SignalsReported : (∃ s : State, Current s ∧ s.ru.rx = [] ∧ s.radio.state = .down)
    ∧ (∃ s : State, Current s ∧ s.radio.state = .up ∧ s.grade.scoring = 10 ∧ s.grade.unknown = 0)
    ∧ ∃ s : State, Current s ∧ s.ru.outstanding = waits .signalQuery false ∧ s.ru.queryPending = false
      ∧ s.ru.state = .session ∧ s.ru.target = .session ∧ s.radio.state = .down :=
  ⟨⟨serving, by decide +kernel⟩, ⟨onRadio, by decide +kernel⟩,
   linked .session (waits .signalQuery false) .session, by decide +kernel⟩

/-- SIGNAL QUERY refused and timed out, open and stale: each reports UNKNOWN, and only the open refusal is recorded. -/
theorem test_signal_query_without_a_grade : ∀ stale ∈ [false, true],
    let s : State := linked .session (waits .signalQuery stale) .session
    Current s ∧ s.ru.rx = [] ∧ s.ru.queryPending = false ∧ reached s.now 1000000 = true
      ∧ leads (exec (.refusedAnswer 5) s) (fun t => t.ru.grade = none ∧ t.ru.gradeTime = 1000000 ∧ t.ru.outstanding = none
        ∧ t.ru.refusalKind = if stale then none else some .signalQuery) = true
      ∧ leads (exec .answerTimeout s) (fun t => t.ru.grade = none ∧ t.ru.gradeTime = 1000000 ∧ t.ru.outstanding = none
        ∧ t.ru.refusalKind = none) = true := by decide +kernel

/-- A grade of 31 after one of 10, at a scoring path of eight results, PROVING and UP, and of seven results. -/
theorem test_premises_SignalsReported_scored : ∀ n ∈ [7, 8], ∀ st ∈ [PathState.proving, .up],
    let s : State := { onRadio with radio := { probing with state := st, window := List.replicate n ⟨0, some 400⟩ } }
    s.ru.rx = [] ∧ s.exch.service ≠ .init ∧ s.radio.state ≠ .down ∧ (31 : Nat) ≠ s.grade.scoring ∧ s.scoring .radio = true
      ∧ s.radio.window.length = n
      ∧ leads (exec (.signalIndication 31) (fresh s))
          (fun t => t.grade.scoring = 31 ∧ (t.radio.measured = true ↔ n = 8)) = true := by
  decide +kernel

/-- A grade of 0 after one of 10 takes a usable path below its fail threshold: a failure, and at the limit a fall, with its
penalty and cause, that breaks a RADIO hold. -/
theorem test_grade_fails_the_path : ∀ x ∈ [(0, PathState.weak), (2, .proving)],
    let s : State := fresh { onRadio with
      hold := { aHold .radio with seen := true },
      radio := { probing with
        state := .up, window := List.replicate 8 ⟨0, none⟩, failCount := x.1, failLimit := 3, failT := 300,
        damping := false } }
    Current s ∧ s.ru.rx = [] ∧ s.scoring .radio = true ∧ s.radio.window.length = 8 ∧ s.grade.scoring ≠ 0
      ∧ leads (exec (.signalIndication 0) s) (fun t => t.radio.state = x.2 ∧ t.radio.score < 300
        ∧ t.radio.failCount = (if x.1 = 0 then 1 else 0) ∧ t.radio.penalty = (if x.1 = 0 then 0 else 500)
        ∧ (x.1 = 0 → t.hold.active) ∧ (x.1 ≠ 0 → t.hold.reason = .broken ∧ t.ev.latch.getLsbD 10
            ∧ t.radio.cause.cause = some .loss ∧ t.ev.latch.getLsbD 12)) = true := by decide +kernel

/-- The answer, the refusal and the timeout of a SIGNAL QUERY as evaluations, the last two as the fourth UNKNOWN, in a
session that stays and in one that then closes. -/
theorem test_queries_score_the_path : ∀ stale ∈ [false, true], ∀ target ∈ [Target.session, .attached],
    let s : State := fresh { onRadio with
      grade := { last := some 10, unknown := 3, scoring := 10, valid := true },
      radio := { probing with state := .up, window := List.replicate 8 ⟨0, none⟩, failT := 300 },
      ru := { onRadio.ru with target := target, outstanding := waits .signalQuery stale } }
    let scored := fun (t : State) => (t.grade.scoring = 0 ∧ t.radio.measured = true ∧ t.radio.score < 300
      ∧ (if target = .session then t.ru.state = .session ∧ t.radio.state = .weak
         else t.ru.state = .closing ∧ t.radio.state = .down ∧ t.radio.cause.snap.before = some .weak) : Bool)
    Current s ∧ s.ru.rx = [] ∧ s.scoring .radio = true ∧ s.radio.window.length = 8 ∧ s.grade.scoring ≠ 0
      ∧ reached s.now 1000000 = true
      ∧ leads (exec (.signalAnswer 0) s) scored = true ∧ leads (exec (.refusedAnswer 5) s) scored = true
      ∧ leads (exec .answerTimeout s) scored = true := by decide +kernel

/-- The OK, the REFUSED and the timeout of a stale request to units that wait for the link and to one at rest, with a
query that waits and without. -/
theorem test_stale_answers_free_the_link : ∀ waiting ∈ [false, true],
    ∀ x ∈ [(RadioState.idle, Target.attached, RadioState.attaching), (.attached, .session, .opening),
           (.attached, .off, .detaching), (.session, .attached, .closing), (.attached, .attached, .attached),
           (.session, .session, .session)],
      let s : State := withRadio fun u => { u with
        state := x.1, target := x.2.1, outstanding := waits .attach true, queryPending := waiting }
      let freed := fun (t : State) => (t.ru.state = x.2.2 ∧ t.ru.refusalKind = none
        ∧ (x.1 = x.2.2 → t.ru.outstanding.map Outstanding.kind = if waiting then some .signalQuery else none)
        ∧ (t.ru.queryPending = true ↔ waiting = true ∧ x.2.2 = .opening) : Bool)
      Current s ∧ s.ru.rx = [] ∧ reached s.now 1000000 = true ∧ s.ru.sends = (if x.1 = x.2.2 then none else some x.2.2)
        ∧ leads (exec .okAnswer s) freed = true ∧ leads (exec (.refusedAnswer 5) s) freed = true
        ∧ leads (exec .answerTimeout s) freed = true := by decide +kernel

/-- A SIGNAL ANSWER, stale and not, to a unit at rest and to units that wait for the link. -/
theorem test_signal_answer_frees_the_link : ∀ stale ∈ [false, true],
    ∀ x ∈ [(RadioState.session, Target.session, RadioState.session), (.idle, .attached, .attaching),
           (.attached, .session, .opening), (.attached, .off, .detaching), (.session, .attached, .closing)],
      let s : State := linked x.1 (waits .signalQuery stale) x.2.1
      Current s ∧ s.ru.rx = [] ∧ s.ru.sends = (if x.1 = x.2.2 then none else some x.2.2)
        ∧ leads (exec (.signalAnswer 12) s) (fun t => t.ru.state = x.2.2 ∧ t.ru.grade = some 12
          ∧ (t.ru.outstanding.isSome = true ↔ x.1 ≠ x.2.2)) = true := by decide +kernel

theorem test_premises_SignalsAsked :
    (∃ s : State, Current s ∧ s.ru.pollDue = some 1000000 ∧ reached s.now 1000000 = true ∧ s.ru.outstanding = none
        ∧ s.ru.queryPending = false)
      ∧ (∃ s : State, Current s ∧ s.ru.pollDue = some 1000000 ∧ s.ru.outstanding = waits .detach false)
      ∧ (∃ s : State, Current s ∧ s.ru.lingerOn = true ∧ s.ru.state ≠ .session
        ∧ s.effectiveLinger * 1000 ≤ (s.now - s.ru.lingerStart).toNat)
      ∧ ∃ s : State, Current s ∧ s.ru.lingerOn = true ∧ s.ru.state = .session ∧ s.ru.outstanding = none
        ∧ s.steer.demand = false ∧ s.cappedStandby ≠ .session
        ∧ s.effectiveLinger * 1000 ≤ (s.now - s.ru.lingerStart).toNat :=
  ⟨⟨withRadio fun u => { u with pollDue := some 1000000 }, by decide +kernel⟩,
   ⟨withRadio fun u => { u with pollDue := some 1000000, outstanding := waits .detach false }, by decide +kernel⟩,
   ⟨withRadio fun u => { u with lingerOn := true, lingerStart := 700000 }, by decide +kernel⟩,
   withRadio fun u => { u with lingerOn := true, lingerStart := 700000, state := .session }, by decide +kernel⟩

/-- READY levels before and after, with the power-on polarity. -/
theorem test_premises_ReadyMovesTheUnit :
    (Current serving ∧ serving.ru.readyHigh = false ∧ State.reset.exch.service = .init)
      ∧ (∃ s : State, Current s ∧ (s.ru.readyHigh != s.ru.lines.readyLow) = false ∧ (true != s.ru.lines.readyLow) = true
        ∧ s.ru.state = .powering ∧ s.ru.target ≠ .off ∧ s.ru.outstanding = none)
      ∧ (∃ s : State, Current s ∧ (s.ru.readyHigh != s.ru.lines.readyLow) = true ∧ (false != s.ru.lines.readyLow) = false
        ∧ s.ru.state = .backoff)
      ∧ (∃ s : State, Current s ∧ (s.ru.readyHigh != s.ru.lines.readyLow) = true ∧ s.ru.state = .session)
      ∧ ∃ s : State, Current s ∧ (s.ru.readyHigh != s.ru.lines.readyLow) = true ∧ s.ru.state = .resync
        ∧ s.ru.target = .off :=
  ⟨by decide +kernel, ⟨linked .powering none .attached, by decide +kernel⟩,
   ⟨withRadio fun u => { u with state := .backoff, readyHigh := true }, by decide +kernel⟩, ⟨onRadio, by decide +kernel⟩,
   withRadio fun u => { u with state := .resync, readyHigh := true }, by decide +kernel⟩

/-- READY going active in POWERING behind a stale request and with target OFF, and in FAULT. -/
theorem test_premises_ReadyMovesTheUnit_active :
    (∃ s : State, Current s ∧ s.ru.readyHigh = false ∧ s.ru.state = .powering ∧ s.ru.target ≠ .off
        ∧ s.ru.outstanding ≠ none)
      ∧ (∃ s : State, Current s ∧ s.ru.readyHigh = false ∧ s.ru.state = .powering ∧ s.ru.target = .off)
      ∧ ∃ s : State, Current s ∧ s.ru.readyHigh = false ∧ s.ru.state = .fault :=
  ⟨⟨linked .powering (waits .attach true) .session, by decide +kernel⟩, ⟨linked .powering none .off, by decide +kernel⟩,
   linked .fault none .off, by decide +kernel⟩

/-- READY going inactive: a session with a request outstanding and a RADIO hold; STOPPING before and after its 30 s;
RESYNC with each kind of target; and RESETTING. -/
theorem test_premises_ReadyMovesTheUnit_inactive :
    (let s : State := fresh { onRadio with
       hold := { aHold .radio with seen := true },
       ru := { onRadio.ru with outstanding := waits .signalQuery false } }
     Current s ∧ s.ru.ready = true ∧ s.ru.state = .session ∧ s.hold.active = true ∧ s.hold.seen = true
       ∧ s.radio.state = .up ∧ leads (exec (.readyChange false) s) (fun t => t.ru.state = .powering
         ∧ t.ru.stateDue = some 1030000 ∧ t.ru.outstanding = waits .signalQuery true ∧ t.hold.reason = .broken) = true)
    ∧ (∀ x ∈ [(RadioState.stopping, some (5 : Time), Target.off), (.stopping, none, .off), (.resync, none, .off),
              (.resync, none, .session), (.resetting, none, .off)],
        let s : State := withRadio fun u => { u with
          state := x.1, stateDue := x.2.1, target := x.2.2, readyHigh := true }
        Current s ∧ s.ru.ready = true ∧ leads (exec (.readyChange false) s) (fun t => t.ru.state =
          if x.1 = .resetting ∨ (x.1 = .stopping ∧ x.2.1 = none) then x.1
          else if x.2.2 = .off then .off else .powering) = true) := by decide +kernel

theorem test_premises_ModemTimersExpire_states :
    (∃ s : State, Current s ∧ s.ru.state = .powering ∧ expired s.now s.ru.stateDue = true)
      ∧ (∃ s : State, Current s ∧ s.ru.state = .stopping ∧ expired s.now s.ru.stateDue = true ∧ s.ru.mrst.ends = none)
      ∧ ∃ s : State, Current s ∧ s.ru.state = .backoff ∧ expired s.now s.ru.stateDue = true ∧ s.ru.target ≠ .off
        ∧ s.ru.outstanding = none :=
  ⟨⟨withRadio fun u => { u with state := .powering, stateDue := some 1000000 }, by decide +kernel⟩,
   ⟨withRadio fun u => { u with state := .stopping, stateDue := some 1000000 }, by decide +kernel⟩,
   withRadio fun u => { u with state := .backoff, stateDue := some 999999, target := .session }, by decide +kernel⟩

/-- The end of an MRST pulse in STOPPING, after a second reset and after a third. -/
theorem test_premises_ModemTimersExpire_pulses :
    (∃ s : State, Current s ∧ expired s.now s.ru.pwr.ends = true ∧ s.ru.pwr.waiting = true)
      ∧ (∃ s : State, Current s ∧ expired s.now s.ru.mrst.ends = true ∧ s.ru.mrst.waiting = false ∧ s.ru.state = .stopping
        ∧ s.ru.stateDue = none ∧ s.ru.target = .off)
      ∧ (∃ s : State, Current s ∧ expired s.now s.ru.mrst.ends = true ∧ s.ru.mrst.waiting = false ∧ s.ru.state = .resetting
        ∧ s.ru.resets = 2 ∧ s.ru.ready = false)
      ∧ ∃ s : State, Current s ∧ expired s.now s.ru.mrst.ends = true ∧ s.ru.mrst.waiting = false
        ∧ s.ru.state = .resetting ∧ s.ru.resets = 3 :=
  ⟨⟨withRadio fun u => { u with pwr := { ends := some 1000000, waiting := true } }, by decide +kernel⟩,
   ⟨withRadio fun u => { u with state := .stopping, mrst := { ends := some 1000000, waiting := false } }, by decide +kernel⟩,
   ⟨withRadio fun u => { u with state := .resetting, resets := 2, mrst := { ends := some 1000000, waiting := false } },
    by decide +kernel⟩,
   withRadio fun u => { u with state := .resetting, resets := 3, mrst := { ends := some 1000000, waiting := false } },
   by decide +kernel⟩

/-- The end of an MRST pulse with another one waiting and in a state that waits for none; in STOPPING with another
target, and in RESETTING, READY active and inactive. -/
theorem test_reset_pulse_ends : ∀ x ∈ [(RadioState.stopping, Target.off, false, true, RadioState.stopping),
      (.off, .off, false, false, .off), (.stopping, .attached, true, false, .attaching),
      (.stopping, .session, false, false, .powering), (.resetting, .off, true, false, .stopping),
      (.resetting, .attached, true, false, .attaching), (.resetting, .attached, false, false, .powering)],
    let s : State := withRadio fun u => { u with
      state := x.1, target := x.2.1, readyHigh := x.2.2.1, resets := 1, mrst := { ends := some 1000000, waiting := x.2.2.2.1 } }
    Current s ∧ s.ru.ready = x.2.2.1 ∧ expired s.now s.ru.mrst.ends = true
      ∧ leads (exec (.pulseEnd .mrst) s) (fun t => t.ru.state = x.2.2.2.2 ∧ !t.ru.mrst.waiting
        ∧ (t.ru.mrst.ends.isSome = x.2.2.2.1)) = true := by decide +kernel

/-- BACKOFF that ends with target OFF, READY active and inactive, and with a request in the link; STOPPING that times out
during a pulse of MRST. -/
theorem test_backoff_and_stopping_end :
    (∀ x ∈ [(Target.off, true, none, RadioState.stopping), (.off, false, none, .off),
            (.session, true, waits .signalQuery false, .idle)],
      let s : State := withRadio fun u => { u with
        state := .backoff, stateDue := some 1000000, target := x.1, readyHigh := x.2.1, outstanding := x.2.2.1 }
      Current s ∧ s.ru.ready = x.2.1 ∧ leads (exec .backoffExpiry s) (fun t => t.ru.state = x.2.2.2
        ∧ (∀ o ∈ t.ru.outstanding, o.stale = true)) = true)
    ∧ (let s : State := withRadio fun u => { u with
         state := .stopping, stateDue := some 1000000, mrst := { ends := some 1000100, waiting := false } }
       Current s ∧ leads (exec .stoppingTimeout s) (fun t => t.ru.mrst = { ends := some 1000100, waiting := true }
         ∧ t.ru.stateDue = none) = true) := by decide +kernel

/-- FAULT under a RADIO hold and under a FIBRE hold, with a drill that runs. -/
theorem test_fault_breaks_a_radio_hold : ∀ p ∈ [Path.fibre, .radio],
    let s : State := fresh { served with
      hold := aHold p, drill := { served.drill with running := true, start := 999000, limit := 60, pass := true },
      ru := { served.ru with state := .resetting, resets := 3, mrst := { ends := some 1000000, waiting := false } } }
    leads (exec (.pulseEnd .mrst) s)
      (fun t => t.ru.state = .fault ∧ (t.hold.active = true ↔ p = .fibre) ∧ (t.ev.latch.getLsbD 10 = true ↔ p = .radio)
        ∧ t.drill.running = false ∧ t.drill.pass = false ∧ t.drill.last.outcome = some .fail
        ∧ t.drill.last.cause = some .radioFault ∧ t.drill.last.radio = some .fault ∧ t.drill.last.duration = 1000
        ∧ t.ev.latch.getLsbD 11) = true := by decide +kernel

/-! ## Premises: steering timers, flow timers and frames -/

theorem test_premises_SteeringTimersExpire :
    (∃ s : State, s.exch.service ≠ .init ∧ s.steer.ret = .armed ∧ reached s.now s.steer.retDue = true)
      ∧ ∃ s : State, s.exch.service ≠ .init ∧ s.hold.active = true ∧ reached s.now s.hold.stop = true :=
  ⟨⟨fresh { served with steer := { served.steer with ret := .armed, retDue := 1000000 } }, by decide +kernel⟩,
   withHold (aHold .fibre), by decide +kernel⟩

/-- Each flow timer at the very millisecond it is due. -/
theorem test_premises_FlowTimersExpire :
    (∃ s : State, Current s ∧ s.classes.length = 8 ∧ s.flows.length = 128 ∧ (s.flow 0).state.live = true
        ∧ (s.flow 0).idle * 1000 = (s.now - (s.flow 0).lastFrame).toNat ∧ (s.flow 0).idle ≠ 0)
      ∧ (∃ s : State, Current s ∧ s.classes.length = 8 ∧ s.flows.length = 128 ∧ (s.flow 0).state = .carried .radio
        ∧ (s.flow 0).pinned = true ∧ (s.cls (s.flow 0).cls).gap * 1000 = (s.now - (s.flow 0).lastFrame).toNat
        ∧ s.ru.state = .session ∧ s.steer.demand = true ∧ s.exch.service = .service ∧ 0 < s.effectiveLinger)
      ∧ ∃ s : State, Current s ∧ s.classes.length = 8 ∧ s.flows.length = 128 ∧ (s.flow 127).state ≠ .free
        ∧ (s.flow 127).longIdle = false ∧ (s.now - (s.flow 127).lastFrame).toNat = 600000 :=
  ⟨⟨withFlow aFlow, by decide +kernel⟩,
   ⟨fresh { served with
      ru := { served.ru with state := .session }, steer := { served.steer with demand := true },
      flows := served.flows.set 0 { aFlow with state := .carried .radio, pinned := true, lastFrame := 970000 } },
    by decide +kernel⟩,
   fresh { served with flows := served.flows.set 127 { aFlow with state := .expired, lastFrame := 400000 } }, by decide +kernel⟩

/-- A tagged frame of class 7 without a flow, and one of class 8. -/
def tagged (flow cls : Byte) : List Byte := [0xC4, flow, cls, 0] ++ aFrame

theorem test_premises_OutboundFramesPlaced_drops :
    (Current serving ∧ ¬((readTag (tagged 255 8)).cls.getD 0 ≤ 7)
        ∧ ¬(60 ≤ (readTag (List.replicate 59 0)).data.length))
      ∧ (∃ s : State, Current s ∧ (readTag (tagged 255 7)).cls.getD 0 ≤ 7 ∧ (readTag (tagged 255 7)).data.length = 60
        ∧ (readTag (tagged 255 7)).flow = none ∧ (s.cls 7).cur = .blocked)
      ∧ ∃ s : State, Current s ∧ (readTag (tagged 0 1)).flow = some 0 ∧ (s.flow 0).state = .blocked :=
  ⟨by decide +kernel,
   ⟨fresh { served with classes := served.classes.map fun c => { c with cur := .blocked } }, by decide +kernel⟩,
   withFlow { aFlow with state := .blocked }, by decide +kernel⟩

/-- The last free place of the hold buffer, and a full one. -/
theorem test_premises_OutboundFramesPlaced_held :
    (∃ s : State, Current s ∧ (s.cls 7).cur = .waiting ∧ s.fwd.held.length = 31)
      ∧ ∃ s : State, Current s ∧ (s.flow 0).state = .waiting ∧ 32 ≤ s.fwd.held.length :=
  ⟨⟨fresh { served with
      classes := served.classes.map fun c => { c with cur := .waiting },
      fwd := { served.fwd with held := List.replicate 31 ⟨[], 7, none, 0⟩ } }, by decide +kernel⟩,
   fresh { served with
     flows := served.flows.set 0 { aFlow with state := .waiting },
     fwd := { served.fwd with held := List.replicate 32 ⟨[], 7, none, 0⟩ } }, by decide +kernel⟩

/-- The last free place of a band with its port busy, and a full band. -/
theorem test_premises_OutboundFramesPlaced_bands :
    (∃ s : State, Current s ∧ (s.cls 7).cur = .fibre ∧ ¬(s.cls 7).tier ≤ 1 ∧ s.fwd.fibreQ.normal.length = 31
        ∧ s.portReady .fibre = false)
      ∧ (∃ s : State, Current s ∧ (s.cls 1).cur = .radio ∧ (s.cls 1).tier ≤ 1 ∧ s.fwd.radioQ.urgent.length = 0
        ∧ s.portReady .radio = false)
      ∧ ∃ s : State, Current s ∧ (s.cls 7).cur = .fibre ∧ 32 ≤ s.fwd.fibreQ.normal.length :=
  ⟨⟨fresh { served with fwd := { served.fwd with
      fibreQ := { served.fwd.fibreQ with normal := List.replicate 31 ⟨[], none⟩, sending := some [] } } }, by decide +kernel⟩,
   ⟨{ onRadio with fwd := { onRadio.fwd with radioQ := { onRadio.fwd.radioQ with sending := some [] } } }, by decide +kernel⟩,
   fresh { served with fwd := { served.fwd with
     fibreQ := { served.fwd.fibreQ with normal := List.replicate 32 ⟨[], none⟩, sending := some [] } } }, by decide +kernel⟩

/-- A port that is ready takes its first frame in the event of the entry: the frame that enters, or one that waited; at the
modem it is counted, and may change the stage. -/
theorem test_ready_port_takes_the_frame :
    (∀ x ∈ [([], [], tagged 255 7), ([⟨aFrame, none⟩], [⟨aFrame, none⟩], tagged 255 7)],
      let s : State := fresh { served with fwd := { served.fwd with fibreQ := { served.fwd.fibreQ with normal := x.1 } } }
      Current s ∧ (s.cls 7).cur = .fibre ∧ ¬(s.cls 7).tier ≤ 1 ∧ s.portReady .fibre = true
        ∧ leads (exec (.outboundFrame x.2.2) s) (fun t => t.fwd.fibreQ.sending = some aFrame
          ∧ t.fwd.fibreQ.normal = x.2.1) = true)
    ∧ ∀ x ∈ [(0, Stage.normal), (1000, .exhausted)],
        let s : State := fresh { onRadio with
          allow := { Allowance.bounded { served.allow with kib := 1 } with
            used := x.1, stage := if x.1 = 0 then .normal else .reserve, peak := .reserve } }
        Current s ∧ (s.cls 1).cur = .radio ∧ (s.cls 1).tier ≤ 1 ∧ s.portReady .radio = true ∧ Sound s.allow
          ∧ leads (exec (.outboundFrame (tagged 255 1)) s) (fun t => t.fwd.radioQ.sending = some aFrame
            ∧ t.allow.used = x.1 + 60 + s.allow.overhead ∧ t.allow.stage = x.2
            ∧ t.ev.latch.getLsbD 5 = decide (x.1 ≠ 0)) = true := by decide +kernel

/-- A port closed, a port with nothing to send, and one with a probe, an urgent or a normal frame first. -/
theorem test_premises_PortsTakeTheNextFrame :
    (∃ s : State, Current s ∧ ¬s.ru.state = .session)
      ∧ (∃ s : State, Current s ∧ s.fin.link = true ∧ s.fwd.fibreQ.probes = [] ∧ s.fwd.fibreQ.urgent = []
        ∧ s.fwd.fibreQ.normal = [])
      ∧ (∃ s : State, Current s ∧ s.fin.link = true ∧ s.fwd.fibreQ.probes = [⟨aFrame, none⟩])
      ∧ (∃ s : State, Current s ∧ s.fin.link = true ∧ s.fwd.fibreQ.probes = [] ∧ s.fwd.fibreQ.urgent = [⟨aFrame, some 0⟩])
      ∧ ∃ s : State, Current s ∧ s.ru.state = .session ∧ s.fwd.radioQ.probes = [] ∧ s.fwd.radioQ.urgent = []
        ∧ s.fwd.radioQ.normal = [⟨aFrame, some 127⟩] ∧ Sound s.allow
        ∧ { s.allow with used := min (s.allow.used + (aFrame.length + s.allow.overhead)) 18446744073709551615 }.stageNow
            = s.allow.stage :=
  ⟨⟨serving, by decide +kernel⟩, ⟨serving, by decide +kernel⟩,
   ⟨fresh { served with fwd := { served.fwd with fibreQ := { served.fwd.fibreQ with probes := [⟨aFrame, none⟩] } } },
    by decide +kernel⟩,
   ⟨fresh { served with fwd := { served.fwd with fibreQ := { served.fwd.fibreQ with urgent := [⟨aFrame, some 0⟩] } } },
    by decide +kernel⟩,
   { onRadio with fwd := { onRadio.fwd with radioQ := { onRadio.fwd.radioQ with normal := [⟨aFrame, some 127⟩] } } },
   by decide +kernel⟩

/-- A frame that uses up the allowance: the stage changes, live overrun begins, and both latch. -/
theorem test_frame_that_changes_the_stage : ∃ s : State, Current s ∧ s.ru.state = .session ∧ s.fwd.radioQ.probes = []
    ∧ s.fwd.radioQ.urgent = [] ∧ s.fwd.radioQ.normal = [⟨aFrame, some 127⟩] ∧ Sound s.allow
    ∧ { s.allow with used := s.allow.used + (aFrame.length + s.allow.overhead) }.stageNow ≠ s.allow.stage
    ∧ leads (exec (.transmitHandoff .radio) s) (fun t => t.allow.stage = .exhausted ∧ t.allow.live
        ∧ t.ev.latch.getLsbD 5 ∧ t.ev.latch.getLsbD 6) = true :=
  ⟨fresh { onRadio with
      allow := { Allowance.bounded { served.allow with kib := 1 } with used := 1000, stage := .reserve, peak := .reserve },
      fwd := { onRadio.fwd with radioQ := { onRadio.fwd.radioQ with normal := [⟨aFrame, some 127⟩] } } },
   by decide +kernel⟩

/-- A held frame at its age limit; a received frame; nothing received; INIT. -/
theorem test_premises_BuffersGiveTheirOldest :
    (∃ s : State, Current s ∧ s.fwd.held = ⟨aFrame, 7, none, 998000⟩ :: []
        ∧ s.steer.holdAge = (s.now - (998000 : Time)).toNat)
      ∧ (∃ s : State, Current s ∧ s.fwd.receive = ⟨aFrame, .radio⟩ :: [])
      ∧ (Current serving ∧ serving.fwd.receive = []) ∧ State.reset.exch.service = .init :=
  ⟨⟨fresh { served with fwd := { served.fwd with held := [⟨aFrame, 7, none, 998000⟩] } }, by decide +kernel⟩,
   ⟨fresh { served with fwd := { served.fwd with receive := [⟨aFrame, .radio⟩] } }, by decide +kernel⟩,
   by decide +kernel, by decide +kernel⟩

/-! ## Premises: the pass, the records, the invariants -/

/-- The four cases of the class decision, for class 7, the last. -/
theorem test_premises_PassDecidesEveryClass : 7 < (Work.begin serving).st.classes.length
    ∧ config.exch.service ≠ .service ∧ (serving.exch.service = .service ∧ serving.hold.active = false)
    ∧ ((withHold (aHold .radio)).exch.service = .service ∧ (withHold (aHold .radio)).hold.active = true
        ∧ (withHold (aHold .radio)).hold.path = some .radio)
    ∧ (withHold (aHold .fibre)).hold.active = true ∧ (withHold (aHold .fibre)).hold.path = some .fibre := by decide +kernel

/-- A pass that moves a class latches CLASS_MOVE. -/
theorem test_pass_latches_class_move :
    let s : State := { serving with classes := serving.classes.set 7 { serving.cls 7 with cur := .blocked } }
    let t := (steeringPass (Work.begin s)).st
    7 < s.classes.length ∧ (s.cls 7).cur = .blocked ∧ (t.cls 7).cur = .fibre ∧ t.ev.latch.getLsbD 3 = true := by
  decide +kernel

/-- Step 4 of a pass: a drill that runs is ended where a class waits for radio, and goes on where none does. -/
theorem test_pass_ends_a_drill_in_real_use : ∀ st ∈ [PathState.up, .down],
    let s : State := fresh { served with
      fibre := { served.fibre with state := st },
      drill := { served.drill with running := true, start := 999000, limit := 60 } }
    let t := (steeringPass (Work.begin s)).st
    s.drill.running = true ∧ (t.realUse = true ↔ st = .down) ∧ (t.drill.running = true ↔ st = .up)
      ∧ (t.drill.last.outcome = some .aborted ↔ st = .down) ∧ (t.drill.last.cause = some .realUse ↔ st = .down)
      ∧ (t.ev.latch.getLsbD 11 = true ↔ st = .down) := by decide +kernel

/-- A flow lately used that is pinned on radio as its class of AT_IDLE goes back to FIBRE, and one that stays pinned. -/
theorem test_premises_PassDecidesEveryClass_flows : ∀ pinned ∈ [false, true],
    let s : State := { onRadio with
      fibre := { onRadio.fibre with state := .up }, steer := { onRadio.steer with ret := .passed },
      flows := onRadio.flows.set 0 { aFlow with state := .carried .radio, pinned := pinned, lastFrame := 999000 } }
    let t := (steeringPass (Work.begin s)).st
    0 < s.flows.length ∧ (s.flow 0).cls < s.classes.length ∧ (s.cls 1).atIdle = true ∧ s.permits (s.cls 1) = true
      ∧ (s.now - (s.flow 0).lastFrame).toNat < (s.cls 1).gap * 1000 ∧ (t.cls 1).cur = .fibre
      ∧ (t.flow 0).pinned = true ∧ (t.flow 0).state = .carried .radio := by decide +kernel

/-- A held frame that leaves for a band of a port not ready, and one that is dropped as its class becomes BLOCKED. -/
theorem test_premises_PassDecidesEveryClass_held :
    (let s : State := fresh { served with
       classes := served.classes.map fun c => { c with cur := .waiting }, steer := { served.steer with ret := .passed },
       fwd := { served.fwd with
         held := [⟨aFrame, 7, none, 999000⟩], fibreQ := { served.fwd.fibreQ with sending := some [] } } }
     let t := (steeringPass (Work.begin s)).st
     s.portReady .fibre = false ∧ (s.fwd.queue .fibre).normal.length ≤ 32 ∧ (s.cls 7).cur = .waiting
       ∧ (t.cls 7).cur = .fibre ∧ t.fwd.held = [] ∧ t.fwd.fibreQ.normal = [⟨aFrame, none⟩])
    ∧ (let s : State := fresh { served with
         fibre := { served.fibre with state := .down },
         classes := served.classes.map fun c => { c with cur := .waiting, use := .never },
         fwd := { served.fwd with held := [⟨aFrame, 7, none, 999000⟩] } }
       let t := (steeringPass (Work.begin s)).st
       (t.cls 7).cur = .blocked ∧ t.fwd.held = [] ∧ t.ev.latch.getLsbD 13 = true) := by decide +kernel

/-- A held frame that leaves for a band that is full: it is dropped, with HOLD_DROPS. -/
theorem test_pass_drops_at_a_full_band :
    let s : State := fresh { served with
      classes := served.classes.map fun c => { c with cur := .waiting }, steer := { served.steer with ret := .passed },
      fwd := { served.fwd with
        held := [⟨aFrame, 0, none, 999000⟩],
        fibreQ := { served.fwd.fibreQ with urgent := List.replicate 32 ⟨[], none⟩, sending := some [] } } }
    let t := (steeringPass (Work.begin s)).st
    s.portReady .fibre = false ∧ s.fwd.fibreQ.urgent.length ≤ 32 ∧ (t.cls 0).cur = .fibre ∧ t.fwd.held = []
      ∧ t.fwd.fibreQ.urgent.length = 32 ∧ t.ev.latch.getLsbD 13 = true := by decide +kernel

/-- A step that releases a pinned flow's gap, with a frame held for another flow: the flow leaves radio unpinned, and the
frame stays held by a flow that waits. -/
theorem test_premises_StoresStayBounded_held :
    let s : State := fresh { served with
      flows := (served.flows.set 0 { aFlow with state := .carried .radio, pinned := true, lastFrame := 970000 }).set 1
        { aFlow with state := .waiting, lastFrame := 999000 },
      fwd := { served.fwd with held := [⟨aFrame, 1, some 1, 999000⟩] }, pending := [.idleGapReturn 0] }
    (∀ f ∈ s.flows, f.pinned = true → f.state = .carried .radio) ∧ (∀ h ∈ s.fwd.held, s.bindingPath h = .waiting)
      ∧ leads (step s) (fun t => !(t.flow 0).pinned ∧ (t.flow 0).state = .carried .fibre ∧ t.fwd.held.length = 1
        ∧ t.fwd.held.all fun h => t.bindingPath h = .waiting) = true := by decide +kernel

/-- A held frame that leaves for the radio band of an open session whose port is sending. -/
theorem test_premises_PassDecidesEveryClass_radio :
    let s : State := fresh { onRadio with
      classes := onRadio.classes.map fun c => { c with cur := .waiting },
      fwd := { onRadio.fwd with
        held := [⟨aFrame, 0, none, 999000⟩], radioQ := { onRadio.fwd.radioQ with sending := some [] } } }
    let t := (steeringPass (Work.begin s)).st
    s.portReady .radio = false ∧ s.ru.state = .session ∧ t.ru.state = .session ∧ (t.cls 0).cur = .radio
      ∧ t.fwd.held = [] ∧ t.fwd.radioQ.urgent = [⟨aFrame, none⟩] := by decide +kernel

/-- A step outside INIT that changes the header, from a state that every invariant holds of. -/
theorem test_premises_ChangedRecordsRewritten : ∃ t : State,
    exec .setExchange (asking 0x92 [7] serving) = .next t ∧ (asking 0x92 [7] serving).exch.service ≠ .init
      ∧ t.exch.service ≠ .init ∧ t.counts.header = 2 ∧ t.exch.interval = 7 :=
  ⟨_, rfl, by decide +kernel⟩

theorem test_premises_invariants : ∃ t : State, step serving = .next t ∧ Memory.wf serving.mem = true
    ∧ (State.reset.exch.service = .init ∧ State.reset.ev.irq = false)
    ∧ (serving.exch.service ≠ .init → serving.condTrue) ∧ serving.irqTrue ∧ serving.allow.sound
    ∧ serving.withinBounds ∧ serving.onTarget ∧ serving.quietOutsideService ∧ serving.pinsLive
    ∧ serving.pinsOnRadio ∧ serving.fibreHoldCarried ∧ serving.heldFramesWait ∧ serving.tables := by
  refine ⟨_, rfl, by decide +kernel, by decide +kernel, fun _ => ?_, ?_, ?_, ?_, ?_, ?_, ?_, ?_, ?_, ?_, ?_⟩
  · unfold State.condTrue; decide +kernel
  · unfold State.irqTrue; decide +kernel
  · unfold Allowance.sound; decide +kernel
  · unfold State.withinBounds State.tables Forwarding.bounded ForwardCounts.inRange PathRec.sound RadioUnit.inRange
    decide +kernel
  · unfold State.onTarget; decide +kernel
  · unfold State.quietOutsideService; decide +kernel
  · unfold State.pinsLive; decide +kernel
  · unfold State.pinsOnRadio; decide +kernel
  · unfold State.fibreHoldCarried; decide +kernel
  · unfold State.heldFramesWait; decide +kernel
  · unfold State.tables; decide +kernel

/-- LOS under a falling mask of FIBRE_USABLE alone, and back under a rising one: the edge event of the bit that changes
in the selected direction latches, and none of the others. -/
theorem test_edges_latch_where_selected :
    (let s : State := fresh { served with ev := { served.ev with rising := 0, falling := 1 }, pending := [.losChange true] }
     s.exch.service ≠ .init ∧ s.ev.cond.getLsbD 0 = true ∧ leads (step s) (fun t => t.exch.service ≠ .init
       ∧ t.ev.falling = s.ev.falling ∧ t.ev.rising = s.ev.rising ∧ !t.ev.cond.getLsbD 0 ∧ t.ev.latch.toNat / 65536 = 1) = true)
    ∧ (let s : State := fresh { onRadio with
         fin := { link := true, los := false, available := false, settleDue := some 1000000 },
         ev := { served.ev with rising := 1 }, pending := [.fibreSettleExpiry] }
       s.ev.cond.getLsbD 0 = false ∧ leads (step s) (fun t => t.ev.cond.getLsbD 0 ∧ t.ev.latch.toNat / 65536 = 1) = true) := by
  decide +kernel

/-- Demand that a waiting class makes at tier 0, and demand that falls and starts the linger; a BACKOFF that urgent demand
ends, that a target of OFF ends, and that goes on. -/
theorem test_demand_recomputed :
    (let s : State := { serving with classes := serving.classes.map fun c => { c with cur := .waiting } }
     (recomputeDemand (Work.begin s)).st.steer.urgent = true)
    ∧ (let s : State := { serving with steer := { serving.steer with demand := true } }
       let t := (recomputeDemand (Work.begin s)).st
       t.steer.demand = false ∧ t.ru.lingerOn = true ∧ t.ru.lingerStart = serving.now)
    ∧ ∀ x ∈ [(ClassPath.waiting, Target.session, RadioState.attaching), (.fibre, .session, .off), (.fibre, .off, .backoff)],
        let s : State := { serving with
          classes := serving.classes.map fun c => { c with cur := x.1 },
          ru := { serving.ru with state := .backoff, target := x.2.1 } }
        (recomputeDemand (Work.begin s)).st.ru.state = x.2.2 := by decide +kernel

end Sys2Proof.Tests
end

section
/-! The boundaries of the allowance (R139): SET ALLOWANCE forms them from the settings it writes, nothing that
follows in its event touches them, power-on clears them, and a warm reset keeps them. -/

namespace Sys2Proof.Machine

/-! ## Order of the boundaries -/

/-- Of a base of 100 or more, a larger percentage has a larger floor. -/
theorem percent_lt_percent {m c r : Nat} (hm : 100 ≤ m) (h : c < r) : m * c / 100 < m * r / 100 := by
  have hstep : m * c + 100 ≤ m * r :=
    calc m * c + 100 ≤ m * c + m := Nat.add_le_add_left hm _
      _ = m * (c + 1) := (Nat.mul_succ m c).symm
      _ ≤ m * r := Nat.mul_le_mul_left m h
  omega

theorem boundaries_ordered {A c r : Nat} (hA : 1 ≤ A) (hcr : c < r) (hr : r ≤ 99) :
    A * 1024 * c / 100 < A * 1024 * r / 100 ∧ A * 1024 * r / 100 < A * 1024 := by
  have hm : 100 ≤ A * 1024 := by omega
  have htop : A * 1024 * r / 100 < A * 1024 * 100 / 100 := percent_lt_percent hm (Nat.lt_succ_of_le hr)
  exact ⟨percent_lt_percent hm hcr, by rwa [Nat.mul_div_cancel _ (by decide)] at htop⟩

/-! ## SET ALLOWANCE (R145) -/

theorem flagOf_of_le_one {n : Nat} (h : n ≤ 1) : ∃ b, flagOf n = some b := by
  match n, h with
  | 0, _ => exact ⟨false, rfl⟩
  | 1, _ => exact ⟨true, rfl⟩

/-- A recomputed stage leaves settings and boundaries, and all other blocks, as passes leave them. -/
theorem restage_kept (w : Work) : (restage w).st.kept = w.st.kept := (closed_kept w.st.kept).restage w rfl

@[simp] theorem capSees_st (before : Bool) (w : Work) : (capSees before w).st = w.st := by
  unfold capSees
  split <;> rfl

/-- The allowance that SET ALLOWANCE's parameters configure, for a given hard cap (R138, R145). -/
def Allowance.configuredBy (ps : List Byte) (cap : Bool) (a : Allowance) : Allowance :=
  a.configure (param ps 0 4) (clamp 50 98 (param ps 4 1)) (clamp 51 99 (param ps 5 1)) cap (min (param ps 7 1) 64)

/-- Of what passes keep, an accepted SET ALLOWANCE changes the configured settings and boundaries alone. -/
theorem orderSetAllowance_kept {ps : List Byte} {cap : Bool} (hcap : flagOf (param ps 6 1) = some cap)
    (hcr : clamp 50 98 (param ps 4 1) < clamp 51 99 (param ps 5 1)) (w : Work) :
    (orderSetAllowance ps w).work.st.kept = ({ w.st with allow := w.st.allow.configuredBy ps cap } : State).kept := by
  unfold orderSetAllowance
  simp only [hcap, if_neg (Nat.not_le.mpr hcr), touch_st, capSees_st]
  exact restage_kept _

/-- After the whole event of an accepted SET ALLOWANCE, its passes included, settings and boundaries are the configured
ones. -/
theorem execSetAllowance_settings {s : State} {i : Nat} {rest : List Nat} (h : s.offersKind 0x60 i rest) {cap : Bool}
    (hcap : flagOf (param (slotParams s.mem i) 6 1) = some cap)
    (hcr : clamp 50 98 (param (slotParams s.mem i) 4 1) < clamp 51 99 (param (slotParams s.mem i) 5 1)) :
    ∃ t, exec .setAllowance s = .next t
      ∧ t.allow.settings = (s.allow.configuredBy (slotParams s.mem i) cap).settings := by
  have hbody := orderSetAllowance_kept hcap hcr (Work.begin s)
  have hmem : (orderSetAllowance (slotParams s.mem i) (Work.begin s)).work.st.mem = s.mem :=
    (congrArg State.mem hbody :)
  have htaken := takeKind_kept Kind.setAllowance orderSetAllowance s i rest h hmem
  refine ⟨_, rfl, ?_⟩
  calc (takeKind Kind.setAllowance orderSetAllowance s).allow.settings
      = (orderSetAllowance (slotParams s.mem i) (Work.begin s)).work.st.allow.settings :=
        (congrArg State.allow htaken :)
    _ = (s.allow.configuredBy (slotParams s.mem i) cap).settings := (congrArg State.allow hbody :)

/-- `settings` blanks none of A, the percentages and the boundaries. -/
theorem boundaries_of_settings {a b : Allowance} (h : a.settings = b.settings) :
    a.kib = b.kib ∧ a.conserve = b.conserve ∧ a.reserve = b.reserve ∧ a.bc = b.bc ∧ a.br = b.br ∧ a.bx = b.bx :=
  ⟨(congrArg Allowance.kib h :), (congrArg Allowance.conserve h :), (congrArg Allowance.reserve h :),
    (congrArg Allowance.bc h :), (congrArg Allowance.br h :), (congrArg Allowance.bx h :)⟩

/-! ## Resets (R148, R181) -/

/-- A warm reset keeps the whole allowance meter, boundaries included (R148). -/
theorem resetTo_warm_allow (s : State) : (resetTo true s).allow = s.allow := rfl

/-- A soft reset keeps the allowance, in INIT because it does nothing there. -/
theorem softReset_allow (s : State) : (controlWrite 1 s).allow = s.allow := by
  unfold controlWrite
  split
  · rfl
  · exact resetTo_warm_allow s

/-! ## The worked values of R139 -/

theorem worked_boundaries :
    let a := Allowance.bounded { Allowance.initial with kib := 1 }
    a.bc = 819 ∧ a.br = 972 ∧ a.bx = 1024 ∧ { a with used := 818 }.stageNow = .normal
      ∧ { a with used := 819 }.stageNow = .conserve := by decide

/-- Settles O31: what SET ALLOWANCE configures is part of `kept`, which its passes and the end of its event leave, and
the order of the boundaries is `percent_lt_percent` at r and at 100 percent. -/
theorem boundariesComputed : Obligations.BoundariesComputed := by
  unfold Obligations.BoundariesComputed
  refine ⟨?setAllowance, ?ordered, ?fits, ?resets, worked_boundaries⟩
  case setAllowance =>
    intro i rest s h ps c r hflag hcr
    obtain ⟨cap, hcap⟩ := flagOf_of_le_one hflag
    obtain ⟨t, ht, hset⟩ := execSetAllowance_settings h hcap hcr
    obtain ⟨hkib, hc, hr, hbc, hbr, hbx⟩ := boundaries_of_settings hset
    refine ⟨t, ht, hkib, hc, hr, ?_, ?_, ?_⟩
    · rw [hbc, hkib, hc]; rfl
    · rw [hbr, hkib, hr]; rfl
    · rw [hbx, hkib]; rfl
  case ordered =>
    intro A c r hA _ hcr hr
    exact boundaries_ordered hA hcr hr
  case fits =>
    intro A hA
    omega
  case resets =>
    intro s
    have hsoft := softReset_allow s
    exact ⟨resetTo false s, _, controlWrite 1 s, rfl, rfl, rfl, rfl, rfl, rfl, rfl, rfl, rfl, rfl,
      congrArg Allowance.bc hsoft, congrArg Allowance.br hsoft, congrArg Allowance.bx hsoft⟩

end Sys2Proof.Machine
end

section
/-! SET EXCHANGE (R180): the order writes the exchange port alone and owes no pass, so its event is its own changes,
the answer of the taking, and a rewritten header. -/

namespace Sys2Proof.Machine

/-! ## Records rewritten at the end of an event (R169) -/

theorem mem_handConditions_touched {r : Rec} {w : Work} (h : r ∈ w.touched) : r ∈ (handConditions w).touched := by
  unfold handConditions
  dsimp only
  split
  · exact h
  · rw [touch_touched, onEv_touched]
    exact List.mem_cons_of_mem _ h

@[simp] theorem reportFlows_touched (old : List FlowRec) (w : Work) : (reportFlows old w).touched = w.touched := by
  unfold reportFlows
  dsimp only
  split <;> rfl

theorem rewriteRecords_header {s0 : State} {touched : List Rec} (s : State) (h : Rec.header ∈ touched) :
    (rewriteRecords s0 touched s).counts.header = s.counts.header + 2 := by
  simp [rewriteRecords, nextCount, h]

/-- An event that rewrites the header counts it once, whatever conditions and flows the end of the event reports. -/
theorem finish_header {w : Work} (s0 : State) (h : Rec.header ∈ w.touched) :
    (finish s0 w).counts.header = w.st.counts.header + 2 := by
  have hmem : Rec.header ∈ (reportFlows s0.flows (handConditions w)).touched := by
    rw [reportFlows_touched]
    exact mem_handConditions_touched h
  calc (finish s0 w).counts.header
      = (reportFlows s0.flows (handConditions w)).st.counts.header + 2 := rewriteRecords_header _ hmem
    _ = w.st.counts.header + 2 := by simp

/-! ## What every taking does to the header and the sweep (R174) -/

theorem header_mem_writeAnswer_touched (i : Nat) (rest : List Nat) (ticket : Nat) (r : ResultCode) (ans : List Byte)
    (w : Work) : Rec.header ∈ (writeAnswer i rest ticket r ans w).touched := List.mem_cons_self ..

/-- The sweep that takes an order carries on with the slots it collected behind it, whatever the order does. -/
theorem takeKind_sweep {kind i : Nat} {rest : List Nat} {s : State} (body : List Byte → Work → Answered)
    (h : s.offersKind kind i rest) : (takeKind kind body s).exch.sweep = some rest := by
  rw [takeKind_eq kind body s i rest h]
  exact finish_sweep _ _

/-- A taking rewrites the header; where the order owes no pass its count goes up from what the order left. -/
theorem takeKind_header {kind i : Nat} {rest : List Nat} {s : State} {body : List Byte → Work → Answered}
    (h : s.offersKind kind i rest) {a : Answered} (ha : body (slotParams s.mem i) (Work.begin s) = a)
    (hpass : a.work.passDue = false) (hdemand : a.work.demandDue = false) :
    (takeKind kind body s).counts.header = a.work.st.counts.header + 2 := by
  rw [takeKind_eq kind body s i rest h, ha]
  dsimp only
  rw [passes_idle _ hpass hdemand]
  exact finish_header s (header_mem_writeAnswer_touched ..)

/-! ## Clamped values (R176) -/

/-- Below the range the least value, above it the greatest. -/
theorem clamp_eq_ite {lo hi : Nat} (h : lo ≤ hi) (n : Nat) :
    clamp lo hi n = if n < lo then lo else if hi < n then hi else n := by
  unfold clamp
  split
  · omega
  · split <;> omega

theorem okOrClamped_ne (n given : Nat) : okOrClamped (decide (n ≠ given)) = if n = given then .ok else .clamped := by
  unfold okOrClamped
  by_cases h : n = given <;> simp [h]

/-! ## SET EXCHANGE (R180) -/

/-- The exchange port with a sweep interval written at `now`: a different one restarts the sweep timer's phase. -/
def Exchange.paced (now : Time) (n : Nat) (e : Exchange) : Exchange :=
  { e with interval := n, sweepDue := if e.interval = n then e.sweepDue else later now n }

/-- The sweep interval that SET EXCHANGE's parameters give, clamped. -/
def intervalOf (ps : List Byte) : Nat := clamp 1 250 (param ps 0 2)

theorem intervalOf_eq (ps : List Byte) :
    intervalOf ps = if param ps 0 2 = 0 then 1 else if 250 < param ps 0 2 then 250 else param ps 0 2 := by
  unfold intervalOf
  rw [clamp_eq_ite (by decide)]
  simp only [Nat.lt_one_iff]

/-- SET EXCHANGE as a whole: the port paced, the header rewritten, the interval answered. -/
theorem orderSetExchange_eq (ps : List Byte) (w : Work) :
    orderSetExchange ps w =
      { work := (w.onExch (Exchange.paced w.now (intervalOf ps))).touch .header,
        result := if intervalOf ps = param ps 0 2 then .ok else .clamped,
        answer := fun s => pack [(2, s.exch.interval)] } := by
  rw [← okOrClamped_ne]
  rfl

/-- No fact reads the exchange port, and the new pace leaves the service state and the interrupt enable. -/
theorem paced_current {s : State} (n : Nat) (h : s.current) :
    ({ s with exch := s.exch.paced s.now n } : State).current := h

/-- Settles O34: SET EXCHANGE changes no fact and owes no pass, so its taking ends with condition set and IRQ line as
they were (`handed_of_current`), and up to update counts the state is the paced one, answered. -/
theorem exchangeSet : Obligations.ExchangeSet := by
  unfold Obligations.ExchangeSet
  intro i rest s hcur (hoffers : s.offersKind Kind.setExchange i rest) given n
  have hn : intervalOf (slotParams s.mem i) = n := intervalOf_eq _
  have hbody := orderSetExchange_eq (slotParams s.mem i) (Work.begin s)
  rw [hn] at hbody
  refine ⟨takeKind Kind.setExchange orderSetExchange s, rfl, ?plain, ?header, takeKind_sweep _ hoffers⟩
  case plain =>
    rw [takeKind_plain _ _ s i rest hoffers _ hbody rfl rfl rfl (countFlowChanges_self _)]
    exact congrArg State.plain (handed_of_current _ (answered_current _ _ _ _ _ (paced_current n hcur)))
  case header => exact takeKind_header hoffers hbody rfl rfl

end Sys2Proof.Machine
end

section
/-! SET EVENT EDGES (R185): the order writes the two edge masks alone. No fact and no record of the exchange memory
reads a mask, so it owes no pass, and its event is its own change and the answer of the taking. -/

namespace Sys2Proof.Machine

/-! ## Parameters as words (R173) -/

theorem leValue_lt (bs : List Byte) : leValue bs < 256 ^ bs.length := by
  induction bs with
  | nil => decide
  | cons b bs ih =>
    have hb : b.toNat < 256 := b.isLt
    rw [leValue, List.length_cons, Nat.pow_succ]
    omega

/-- A parameter fits its size, also where the slot has fewer bytes behind its offset. -/
theorem param_lt (ps : List Byte) (off size : Nat) : param ps off size < 256 ^ size :=
  calc param ps off size < 256 ^ ((ps.drop off).take size).length := leValue_lt _
    _ ≤ 256 ^ size := Nat.pow_le_pow_right (by decide) (List.length_take_le ..)

/-- A two-byte parameter written to a halfword reads back as given: nothing of it is cut off. -/
theorem toNat_half_param (ps : List Byte) (off : Nat) : (BitVec.ofNat 16 (param ps off 2)).toNat = param ps off 2 := by
  rw [BitVec.toNat_ofNat]
  exact Nat.mod_eq_of_lt (param_lt ps off 2)

/-! ## The masks -/

/-- The event unit with both edge masks written. -/
def EventUnit.edged (rising falling : Half) (e : EventUnit) : EventUnit :=
  { e with rising := rising, falling := falling }

/-- No fact reads the event unit, and the IRQ line's level reads latch and enable word alone. -/
theorem edged_current {s : State} (r f : Half) (h : s.current) : ({ s with ev := s.ev.edged r f } : State).current := h

/-- Of the event unit, the exchange memory shows the condition set alone (section 11.1). -/
theorem exchangeByte_ev (s : State) {e : EventUnit} (h : e.cond = s.ev.cond) (a : Nat) :
    exchangeByte { s with ev := e } a = exchangeByte s a := by
  have hheader : headerFields { s with ev := e } = headerFields s := by
    unfold headerFields
    rw [h]
  have hpath : ∀ p, pathFields { s with ev := e } p = pathFields s p := fun _ => rfl
  have hradio : radioFields { s with ev := e } = radioFields s := rfl
  unfold exchangeByte
  rw [hheader, hpath, hpath, hradio]
  rfl

/-! ## Resets (R181) -/

/-- Cold or warm, a reset gives the masks their power-on status. -/
theorem resetTo_edges (warm : Bool) (s : State) :
    (resetTo warm s).ev.rising = 0xFFFF ∧ (resetTo warm s).ev.falling = 0 :=
  ⟨rfl, rfl⟩

theorem softReset_eq_resetTo {s : State} (h : s.exch.service ≠ .init) : controlWrite 1 s = resetTo true s := by
  unfold controlWrite
  rw [if_neg h]
  rfl

/-! ## The order (R185) -/

/-- The masks that SET EVENT EDGES's parameters give: rising edges first, falling edges behind them. -/
def edgesOf (ps : List Byte) : EventUnit → EventUnit :=
  EventUnit.edged (BitVec.ofNat 16 (param ps 0 2)) (BitVec.ofNat 16 (param ps 2 2))

/-- The answer gives the masks as the parameters spelled them, unclamped, and the condition set. -/
theorem edgesAnswer_edgesOf (ps : List Byte) (s : State) :
    edgesAnswer { s with ev := edgesOf ps s.ev } =
      pack [(2, param ps 0 2), (2, param ps 2 2), (2, s.ev.cond.toNat)] := by
  unfold edgesAnswer edgesOf EventUnit.edged
  simp only [toNat_half_param]

/-- The whole event of SET EVENT EDGES, up to update counts: the masks written, then the slot answered. -/
theorem takeSetEventEdges_plain {i : Nat} {rest : List Nat} {s : State} (hcur : s.current)
    (h : s.offersKind Kind.setEventEdges i rest) :
    let ps := slotParams s.mem i
    (takeKind Kind.setEventEdges orderSetEventEdges s).plain =
      (({ s with ev := edgesOf ps s.ev } : State).answered i rest .ok
        (pack [(2, param ps 0 2), (2, param ps 2 2), (2, s.ev.cond.toNat)])).plain := by
  intro ps
  rw [takeKind_plain _ _ s i rest h (orderSetEventEdges ps (Work.begin s)) rfl rfl rfl rfl (countFlowChanges_self _),
    ← edgesAnswer_edgesOf]
  exact congrArg State.plain (handed_of_current _ (answered_current _ _ _ _ _ (edged_current _ _ hcur)))

/-- Settles O35: the order's event is `takeSetEventEdges_plain`, and `plain` blanks nothing of the event unit; every
reset sets the masks by `resetTo_edges`; the exchange memory reads no mask by `exchangeByte_ev`. -/
theorem eventEdgesSet : Obligations.EventEdgesSet := by
  unfold Obligations.EventEdgesSet
  refine ⟨?order, rfl, rfl, ?resets, ?records⟩
  case order =>
    intro i rest s hcur hoffers ps
    have hplain := takeSetEventEdges_plain hcur hoffers
    have hev : (takeKind Kind.setEventEdges orderSetEventEdges s).ev = edgesOf ps s.ev := (congrArg State.ev hplain :)
    exact ⟨_, rfl, hplain, (congrArg EventUnit.cond hev :), (congrArg EventUnit.latch hev :)⟩
  case resets =>
    intro s
    obtain ⟨hcoldRising, hcoldFalling⟩ := resetTo_edges false s
    obtain ⟨hwarmRising, hwarmFalling⟩ := resetTo_edges true s
    refine ⟨resetTo false s, _, controlWrite 1 s, rfl, rfl, rfl, hcoldRising, hcoldFalling, hwarmRising, hwarmFalling,
      ?_⟩
    intro hinit
    rw [softReset_eq_resetTo hinit]
    exact ⟨hwarmRising, hwarmFalling⟩
  case records =>
    intro s r f a
    exact exchangeByte_ev s rfl a

end Sys2Proof.Machine
end


section
/-! Steps, resets and bus writes: the statements that hold by how `exec` gives each command its meaning, the invariants
right after power-on, and what the resets leave. -/

namespace Sys2Proof.Machine

/-- Settles O1: `step` takes the queue apart by its front. -/
theorem stepTakesFront : Obligations.StepTakesFront := by
  unfold Obligations.StepTakesFront
  intro c rest s
  rfl

/-- Every command's meaning answers a next state: no arm of `exec` raises a fault or a refusal. -/
theorem exec_answers (c : Instr) (s : State) : ∃ t, exec c s = .next t := by
  cases c
  case initEnd => dsimp only [exec, execInitEnd]; split <;> exact ⟨_, rfl⟩
  case slotPassedOver => dsimp only [exec, execSlotPassedOver]; split <;> exact ⟨_, rfl⟩
  case eventsRead => dsimp only [exec, execEventsRead]; split <;> exact ⟨_, rfl⟩
  case pollTimerExpiry => dsimp only [exec, execPollTimerExpiry]; split <;> exact ⟨_, rfl⟩
  all_goals exact ⟨_, rfl⟩

/-- Settles O3: `exec_answers`. -/
theorem everyCommandRuns : Obligations.EveryCommandRuns := by
  unfold Obligations.EveryCommandRuns
  exact exec_answers

/-- Settles O4: `State.reset` is written out field by field. -/
theorem powerOnStatus : Obligations.PowerOnStatus := by
  unfold Obligations.PowerOnStatus
  exact ⟨rfl, rfl, rfl, rfl, rfl, rfl, rfl, rfl, rfl, rfl, rfl, rfl, rfl, rfl, rfl, rfl, rfl, rfl, rfl, rfl, rfl⟩

/-! ## The invariants right after power-on -/

theorem flows_reset_free : ∀ f ∈ State.reset.flows, f = FlowRec.freed 0 := fun _ hf => List.eq_of_mem_replicate hf

theorem reset_sound : State.reset.allow.sound := by
  unfold Allowance.sound
  decide

theorem reset_withinBounds : State.reset.withinBounds := by
  unfold State.withinBounds State.tables Forwarding.bounded ForwardCounts.inRange PathRec.sound RadioUnit.inRange
  refine ⟨⟨rfl, List.length_replicate⟩, ?_, ?_, ?_, ?_⟩ <;> decide

/-- Settles O55: power-on leaves empty stores, no flow in use and no hold. -/
theorem resetIsSound : Obligations.ResetIsSound := by
  unfold Obligations.ResetIsSound
  refine ⟨rfl, rfl, reset_sound, reset_withinBounds, rfl, ?quiet, ?live, ?radio, ?hold, ?held, rfl⟩
  case quiet =>
    intro _
    refine ⟨rfl, rfl, fun f hf => ?_⟩
    rw [flows_reset_free f hf]
    rfl
  case live =>
    intro f hf hp
    rw [flows_reset_free f hf] at hp
    cases hp
  case radio =>
    intro f hf hp
    rw [flows_reset_free f hf] at hp
    cases hp
  case hold =>
    intro h
    cases h
  case held =>
    intro h hh
    cases hh

/-! ## Resets (R181) -/

/-- Settles O5: each reset is one call of `resetTo`, which writes out what it keeps. -/
theorem resetsEnterInit : Obligations.ResetsEnterInit := by
  unfold Obligations.ResetsEnterInit
  refine ⟨fun s => ⟨_, rfl, rfl⟩, ?warm, fun s => ⟨_, rfl, rfl⟩⟩
  intro s
  refine ⟨resetTo false s, _, controlWrite 1 s, rfl, rfl, rfl, rfl, ?outside, ?inside⟩
  case outside =>
    intro h
    rw [softReset_eq_resetTo h]
    rfl
  case inside =>
    intro h
    unfold controlWrite
    rw [if_pos h]

/-! ## The end of INIT (R182) -/

/-- The facts read nothing of the event unit. -/
theorem facts_ev (s : State) (e : EventUnit) : ({ s with ev := e } : State).facts = s.facts := rfl

theorem facts_refreshIrq (s : State) : (refreshIrq s).facts = s.facts := rfl

theorem later_zero (n : Nat) : later 0 n = BitVec.ofNat 32 n := BitVec.zero_add _

theorem execInitEnd_elsewhere {s : State} (h : s.exch.service ≠ .init ∨ s.exch.resetHeld = true) :
    exec .initEnd s = .next s := by
  unfold exec execInitEnd
  rw [if_neg]
  rintro ⟨h1, h2⟩
  rcases h with h | h
  · exact h h1
  · rw [h2] at h
    cases h

/-- The state after the init-end command: `initState`, the events it shows and the IRQ line. -/
def initEnded (s : State) : State :=
  refreshIrq { initState s with ev := { s.ev with cond := (initState s).facts, latch := bitMask Bit.initDone } }

/-- The event unit in front of the line is the only part of `initEnded` that `initState` does not set: the facts stay. -/
theorem initEnded_facts (s : State) : (initEnded s).facts = (initState s).facts := by
  unfold initEnded
  rw [facts_refreshIrq]
  generalize initState s = t
  exact facts_ev t _

theorem initEnded_ev (s : State) :
    (initEnded s).ev = { s.ev with
      cond := (initEnded s).facts, latch := 1,
      irq := s.exch.intEnable && decide (s.ev.enable &&& 1 ≠ 0) } := by
  have hlatch : bitMask Bit.initDone = 1 := by decide
  have henable : (initState s).exch.intEnable = s.exch.intEnable := rfl
  rw [initEnded_facts]
  unfold initEnded
  rw [hlatch, ← henable]
  generalize initState s = t
  simp only [refreshIrq, irqLevel, BitVec.and_comm]

theorem execInitEnd_in_init {s : State} (h1 : s.exch.service = .init) (h2 : s.exch.resetHeld = false) :
    exec .initEnd s = .next (initEnded s) := by
  unfold exec execInitEnd
  rw [if_pos ⟨h1, h2⟩]
  rfl

theorem supplyOf_eq (a b c : Bool) :
    supplyOf a b c = if a = true then Supply.mains else if c = true then .critical
      else if b = true then .batteryLow else .battery := rfl

/-- Settles O6: `initState` field by field, then the condition set, INIT_DONE and the IRQ line. -/
theorem initEndEntersConfig : Obligations.InitEndEntersConfig := by
  unfold Obligations.InitEndEntersConfig
  refine ⟨fun s h => execInitEnd_elsewhere h, ?_⟩
  intro s h1 h2
  have hs : (s.fin.link && !s.fin.los) = true ↔ s.fin.link = true ∧ s.fin.los = false := by simp
  refine ⟨initEnded s, execInitEnd_in_init h1 h2, rfl, rfl, ?exch, rfl, ?genA, ?genB, ?fibre, ?radio, ?fin, ?off, ?resync, rfl, rfl,
    rfl, rfl, supplyOf_eq _ _ _, ?cold, ?warm, ?ev, rfl, rfl, rfl, rfl, rfl, rfl, rfl, rfl, rfl⟩
  case exch => simp only [initEnded, refreshIrq, initState, later_zero]
  case genA => simp only [initEnded, refreshIrq, initState, later_zero, periodMs]
  case genB => simp only [initEnded, refreshIrq, initState, later_zero, periodMs]
  case fibre => simp only [initEnded, refreshIrq, initState, later_zero]
  case radio => simp only [initEnded, refreshIrq, initState, later_zero]
  case fin => simp only [initEnded, refreshIrq, initState, later_zero, hs]; rfl
  case off => intro hr; simp [initEnded, refreshIrq, initState, RadioUnit.started, hr]
  case resync => intro hr; simp [initEnded, refreshIrq, initState, RadioUnit.started, hr]
  case cold => intro hw; simp [initEnded, refreshIrq, initState, Allowance.started, hw]
  case warm => intro hw; simp [initEnded, refreshIrq, initState, Allowance.started, hw, hold8]
  case ev => exact initEnded_ev s

/-! ## INIT (R181) -/

/-- No event happens in INIT. -/
theorem event_in_init (f : Work → Work) {s : State} (h : s.exch.service = .init) : event f s = s := if_pos h

/-- No order is taken in INIT. -/
theorem takeOrder_in_init (accepts : Nat → Bool) (body : List Byte → Work → Answered) {s : State}
    (h : s.exch.service = .init) : takeOrder accepts body s = s :=
  takeOrder_none accepts body s fun _ _ ho => ho.2.1 h

theorem takeKind_in_init (kind : Nat) (body : List Byte → Work → Answered) {s : State} (h : s.exch.service = .init) :
    takeKind kind body s = s := takeOrder_in_init _ body h

theorem controlWrite_in_init (v : Word) {s : State} (h : s.exch.service = .init) : controlWrite v s = s := if_pos h

/-- Settles O7: in INIT a command outside those named is an event, a taking or a write, and each leaves the state. -/
theorem initStandsStill : Obligations.InitStandsStill := by
  unfold Obligations.InitStandsStill
  intro c s h hc
  have hevent : ∀ f, event f s = s := fun f => event_in_init f h
  have hkind : ∀ k b, takeKind k b s = s := fun k b => takeKind_in_init k b h
  have hcontrol : ∀ v, controlWrite v s = s := fun v => controlWrite_in_init v h
  cases c
  case powerOn | resetPinAssert | resetPinRelease | initEnd | eventsRead | fibreLinkChange | losChange | readyChange
    | supplyLineChange | receiveQueueDelivery => exact hc.elim
  case softReset => exact congrArg _ (hcontrol _)
  case interruptEnableWrite => exact congrArg _ (hcontrol _)
  case registerWrite => simp [exec, execRegisterWrite, registerStore, writeEnable, hevent, hcontrol]
  case exchangeMemoryWrite => simp [exec, execExchangeMemoryWrite, h]
  case eventEnableWrite => simp [exec, execEventEnableWrite, writeEnable, hevent]
  case slotPassedOver => simp only [exec, execSlotPassedOver, hevent, ite_self]; split <;> rfl
  case pollTimerExpiry => simp only [exec, execPollTimerExpiry, hevent, ite_self]; split <;> rfl
  case unknownOrderKind => exact congrArg _ (takeOrder_in_init _ _ h)
  case nudge | outboundFrame | transmitHandoff | okAnswer | refusedAnswer | signalAnswer | sessionClosed | detached
    | signalIndication | linkFrameDiscarded => exact congrArg _ (hevent _)
  case sweepTimerExpiry | sweepEnd | generatorTick | probeExpiry | inboundFrame | fibreSettleExpiry | decayTick
    | linkInterbyteTimeout | answerTimeout | poweringTimeout | stoppingTimeout | backoffExpiry | pulseEnd
    | lingerExpiry | returnDelayDue | holdExpiry | flowIdleExpiry | idleGapReturn | longIdleMark | holdAgeExpiry
    | debounceExpiry | drillLimitExpiry => exact congrArg _ ((if_congr Iff.rfl (hevent _) rfl).trans (ite_self s))
  all_goals exact congrArg _ (hkind _ _)

end Sys2Proof.Machine
end


section
/-! What each command changes of its own, said once: beside the shared operations of `Closed`, a command replaces whole
records, writes settings, writes the exchange memory, and opens, frees and returns flows. A property that these changes
keep too (`Kept`) is kept by every command but the resets, the end of INIT and the writes that stand for them; and with
them (`Timeless`) by every step. -/

namespace Sys2Proof.Machine

/-- A path's settings written: the measurement, the penalty and the state stay, the fail limit stays in its range. -/
structure SettingsStep (r r' : PathRec) : Prop where
  probes : r'.probes = r.probes
  window : r'.window = r.window
  failCount : r'.failCount = r.failCount
  failLimit : r.failLimit ≤ 16 → r'.failLimit ≤ 16
  penalty : r'.penalty = r.penalty
  state : r'.state = r.state
  usableFlag : r'.usableFlag = r.usableFlag

/-- The radio unit's failure counts and backoff value stay. -/
structure CountsStay (r r' : RadioUnit) : Prop where
  attachTimeouts : r'.attachTimeouts = r.attachTimeouts
  resets : r'.resets = r.resets
  b : r'.b = r.b

/-- What the radio unit's target is made of stays as well. -/
structure AimStays (r r' : RadioUnit) : Prop extends CountsStay r r' where
  target : r'.target = r.target
  lingerOn : r'.lingerOn = r.lingerOn
  standby : r'.standby = r.standby

/-- The properties that the commands' own changes keep. -/
structure Owned (P : State → Prop) : Prop where
  exch : ∀ s e, P s → P { s with exch := e }
  mem : ∀ s m, (Memory.wf s.mem = true → Memory.wf m = true) → P s → P { s with mem := m }
  gens : ∀ s g, P s → P { s with gens := g }
  path : ∀ s p f, SettingsStep (s.path p) (f (s.path p)) → P s → P (s.onPath p f)
  fin : ∀ s f, P s → P { s with fin := f }
  ru : ∀ s r, CountsStay s.ru r → P s → P { s with ru := r }
  steer : ∀ s t, P s → P { s with steer := t }
  classes : ∀ s cs, cs.length = s.classes.length → P s → P { s with classes := cs }
  hold : ∀ s h, P s → P { s with hold := h }
  flows : ∀ s fs, fs.length = s.flows.length → P s → P { s with flows := fs }
  allow : ∀ s a, (s.allow.sound → a.sound) → P s → P { s with allow := a }
  sup : ∀ s m, P s → P { s with sup := m }
  drill : ∀ s d, P s → P { s with drill := d }
  ev : ∀ s e, e.latch = s.ev.latch → P s → P { s with ev := e }
  tick : ∀ g p w, P w.st → P (offerTick g p w).st
  resolve : ∀ p q r w, P w.st → P (resolveProbe p q r w).st
  shaped : ∀ p d w, P w.st → P (takeProbeShaped p d w).st
  decay : ∀ p w, P w.st → P (decayTick p w).st

/-- The properties that every command keeps: those that the shared operations keep which leave the paths of classes and
the states and pinned flags of flows, and that the commands' own changes and the passes keep. A hold or a drill begins,
and a flow opens, in SERVICE only. -/
structure Kept (B : Prop) (P : State → Prop) : Prop where
  closed : Closed True True B False True False P
  exch : ∀ (s : State) (e : Exchange), e.service = s.exch.service → P s → P { s with exch := e }
  mem : ∀ s m, (Memory.wf s.mem = true → Memory.wf m = true) → P s → P { s with mem := m }
  gens : ∀ s g, P s → P { s with gens := g }
  path : ∀ s p f, SettingsStep (s.path p) (f (s.path p)) → P s → P (s.onPath p f)
  fin : ∀ s f, P s → P { s with fin := f }
  ru : ∀ s r, CountsStay s.ru r → P s → P { s with ru := r }
  steer : ∀ s t, P s → P { s with steer := t }
  classes : ∀ s cs, cs.map ClassRec.cur = s.classes.map ClassRec.cur → P s → P { s with classes := cs }
  hold : ∀ (s : State) (h : Hold), s.exch.service = .service → P s → P { s with hold := h }
  times : ∀ s fs, fs.map FlowRec.course = s.flows.map FlowRec.course → P s → P { s with flows := fs }
  receive : ∀ (s : State) (f : Forwarding), f.held = s.fwd.held → (s.fwd.bounded → f.bounded) → P s → P { s with fwd := f }
  allow : ∀ s a, (s.allow.sound → a.sound) → P s → P { s with allow := a }
  sup : ∀ s m, P s → P { s with sup := m }
  drill : ∀ (s : State) (d : Drill), s.exch.service = .service → P s → P { s with drill := d }
  ev : ∀ s e, e.latch = s.ev.latch → P s → P { s with ev := e }
  tick : ∀ g p w, P w.st → P (offerTick g p w).st
  resolve : ∀ p q r w, P w.st → P (resolveProbe p q r w).st
  shaped : ∀ p d w, P w.st → P (takeProbeShaped p d w).st
  decay : ∀ p w, P w.st → P (decayTick p w).st
  passes : ∀ w, P w.st → P (passes w).st
  started : ∀ w, P w.st → P (setService .service w).st
  stopped : ∀ w, P w.st → P (stopSteps w).st
  opened : ∀ (i cls idle : Nat) (w : Work), w.st.exch.service = .service → (w.st.flow i).state = .free → P w.st →
    P (w.onFlow i (FlowRec.opening cls idle (w.st.cls cls).cur w.now)).st
  freed : ∀ i w, P w.st → P (freeFlow i w).st
  expired : ∀ (i : Nat) (w : Work), (w.st.flow i).state.live = true → P w.st → P (expireFlow i w).st
  returned : ∀ cls w, P w.st → P (returnFlows cls w).st
  cameBack : ∀ (i : Nat) (w : Work), (w.st.flow i).pinned = true → P w.st → P (gapReturn i w).st
  placed : ∀ (path : ClassPath) (cls : Nat) (flow : Option Nat) (d : List Byte) (w : Work),
    (path = .waiting → ∀ t, w.st.bindingPath { data := d, cls := cls, flow := flow, arrival := t } = .waiting) →
    P w.st → P (placeOutbound path cls flow d w).st

/-- The properties that every command keeps, by the operations that a command calls: those that leave the fibre path's
state and the radio unit's target are taken as `Closed` names them, the others one by one. -/
structure Upheld (B : Prop) (P : State → Prop) : Prop where
  closed : Closed False True B False False False P
  exch : ∀ (s : State) (e : Exchange), e.service = s.exch.service → P s → P { s with exch := e }
  mem : ∀ s m, (Memory.wf s.mem = true → Memory.wf m = true) → P s → P { s with mem := m }
  gens : ∀ s g, P s → P { s with gens := g }
  path : ∀ s p f, SettingsStep (s.path p) (f (s.path p)) → P s → P (s.onPath p f)
  fin : ∀ s f, P s → P { s with fin := f }
  ru : ∀ s r, AimStays s.ru r → P s → P { s with ru := r }
  steer : ∀ (s : State) (t : Steering), t.demand = s.steer.demand → P s → P { s with steer := t }
  classes : ∀ s cs, cs.map ClassRec.cur = s.classes.map ClassRec.cur → P s → P { s with classes := cs }
  times : ∀ s fs, fs.map FlowRec.course = s.flows.map FlowRec.course → P s → P { s with flows := fs }
  receive : ∀ (s : State) (f : Forwarding), f.held = s.fwd.held → (s.fwd.bounded → f.bounded) → P s →
    P { s with fwd := f }
  allow : ∀ s a, (s.allow.sound → a.sound) → P s → P { s with allow := a }
  sup : ∀ (s : State) (m : SupplyMonitor), m.state = s.sup.state → P s → P { s with sup := m }
  ev : ∀ s e, e.latch = s.ev.latch → P s → P { s with ev := e }
  tick : ∀ g p w, P w.st → P (offerTick g p w).st
  resolve : ∀ p q r w, P w.st → P (resolveProbe p q r w).st
  shaped : ∀ p d w, P w.st → P (takeProbeShaped p d w).st
  decay : ∀ p w, P w.st → P (decayTick p w).st
  settle : ∀ p w, P w.st → P (settle p w).st
  linkOnly : ∀ p was w, P w.st → P (becameLinkOnly p was w).st
  release : ∀ p w, P w.st → P (releaseSuppressed p w).st
  watch : ∀ w, P w.st → P (watchFibre w).st
  available : ∀ w, P w.st → P (fibreSettled w).st
  hold : ∀ (p : Path) (dur : Nat) (w : Work), w.st.exch.service = .service → holdRefusal w.st p = none → P w.st →
    P (w.onHold (Hold.begin p w.now dur (w.st.holdSeen p))).st
  endHold : ∀ r w, P w.st → P (endHold r w).st
  drill : ∀ (s : State) (d : Drill), s.exch.service = .service → P s → P { s with drill := d }
  passes : ∀ w, P w.st → P (passes w).st
  demand : ∀ w, P w.st → P (recomputeDemand w).st
  configured : ∀ standby linger attach poll (w : Work), P w.st → P (recomputeTarget (Machine.passes (compareLinger
    (leaveFault (w.onRu (RadioUnit.configure standby linger attach poll w.now)))))).st
  released : ∀ w, P w.st → P (recomputeTarget (stopLinger w)).st
  lingered : ∀ w, P w.st → P (recomputeTarget (compareLinger w)).st
  supplied : ∀ n w, P w.st → P (changeSupply n w).st
  started : ∀ w, P w.st → P (startService w).st
  stopped : ∀ (w : Work), w.st.exch.service = .service → P w.st → P (stopService w).st
  opened : ∀ (i cls idle : Nat) (w : Work), w.st.exch.service = .service → (w.st.flow i).state = .free → P w.st →
    P (w.onFlow i (FlowRec.opening cls idle (w.st.cls cls).cur w.now)).st
  freed : ∀ i w, P w.st → P (freeFlow i w).st
  expired : ∀ (i : Nat) (w : Work), (w.st.flow i).state.live = true → P w.st → P (expireFlow i w).st
  returned : ∀ cls w, P w.st → P (returnFlows cls w).st
  cameBack : ∀ (i : Nat) (w : Work), (w.st.flow i).pinned = true → P w.st → P (gapReturn i w).st
  placed : ∀ (path : ClassPath) (cls : Nat) (flow : Option Nat) (d : List Byte) (w : Work),
    (path = .waiting → ∀ t, w.st.bindingPath { data := d, cls := cls, flow := flow, arrival := t } = .waiting) →
    P w.st → P (placeOutbound path cls flow d w).st

/-! ## The allowance meter's own changes (R138, R145, R146) -/

theorem stageNow_of_settings {a b : Allowance} (h : a.kib = b.kib) (hc : a.bc = b.bc) (hr : a.br = b.br)
    (hx : a.bx = b.bx) (hu : a.used = b.used) : a.stageNow = b.stageNow := by
  unfold Allowance.stageNow
  rw [h, hc, hr, hx, hu]

/-- Restaging makes the meter's fields agree where its settings and boundaries do. -/
theorem restaged_sound (a : Allowance) (h1 : 50 ≤ a.conserve) (h2 : a.conserve < a.reserve) (h3 : a.reserve ≤ 99)
    (h4 : a.overhead ≤ 64) (h5 : a.bc = a.kib * 1024 * a.conserve / 100) (h6 : a.br = a.kib * 1024 * a.reserve / 100)
    (h7 : a.bx = a.kib * 1024) (h8 : a.used ≤ max64) (h9 : a.live = true → a.sticky = true) : a.restaged.sound := by
  refine ⟨h1, h2, h3, h4, h5, h6, h7, h8, rfl, rfl, ?peak, ?sticky⟩
  case peak =>
    show a.stageNow.rank ≤ (if a.peak.rank < a.stageNow.rank then a.stageNow else a.peak).rank
    split
    · exact Nat.le_refl _
    · rename_i h
      exact Nat.le_of_not_lt h
  case sticky =>
    intro h
    show (a.sticky || (a.liveNow && !a.live)) = true
    have hnow : a.liveNow = true := h
    cases hl : a.live with
    | true => rw [h9 hl, Bool.true_or]
    | false => rw [hnow, Bool.not_false, Bool.and_true, Bool.or_true]

theorem added_sound (n : Nat) (a : Allowance) (h : a.sound) : (a.added n).sound := by
  obtain ⟨h1, h2, h3, h4, h5, h6, h7, -, -, -, -, h9⟩ := h
  exact restaged_sound _ h1 h2 h3 h4 h5 h6 h7 (Nat.min_le_right _ _) h9

theorem configured_sound (kib c r : Nat) (cap : Bool) (overhead : Nat) (a : Allowance) (hc : 50 ≤ c) (hcr : c < r)
    (hr : r ≤ 99) (ho : overhead ≤ 64) (h : a.sound) : (a.configure kib c r cap overhead).restaged.sound := by
  obtain ⟨-, -, -, -, -, -, -, h8, -, -, -, h9⟩ := h
  exact restaged_sound _ hc hcr hr ho rfl rfl rfl h8 h9

/-- A period that begins with live overrun begins without sticky overrun only where used bytes are 0 against boundaries
that are not, so restaging clears live overrun with it. -/
theorem newPeriod_sound (now : Time) (a : Allowance) (h : a.sound) : (a.newPeriod now).restaged.sound := by
  obtain ⟨h1, h2, h3, h4, h5, h6, h7, -, -, -, -, -⟩ := h
  have hlive : (a.newPeriod now).liveNow = false := by
    unfold Allowance.liveNow Allowance.newPeriod
    dsimp only
    by_cases hk : a.kib = 0
    · simp [hk]
    · have : ¬a.bx ≤ 0 := by omega
      simp [this]
  refine ⟨h1, h2, h3, h4, h5, h6, h7, Nat.zero_le _, rfl, rfl, ?peak, ?sticky⟩
  case peak =>
    show (a.newPeriod now).stageNow.rank
      ≤ (if Stage.normal.rank < (a.newPeriod now).stageNow.rank then (a.newPeriod now).stageNow else Stage.normal).rank
    split
    · exact Nat.le_refl _
    · rename_i h
      exact Nat.le_of_not_lt h
  case sticky =>
    intro h
    have h : (a.newPeriod now).liveNow = true := h
    rw [hlive] at h
    cases h

/-! ## The forwarding unit's own changes -/

theorem malformed_bounded {f : Forwarding} {c : ForwardCounts} (hc : f.counts.inRange → c.inRange) (h : f.bounded) :
    ({ f with counts := c } : Forwarding).bounded := by
  obtain ⟨h1, h2, h3, h4, h5, h6, h7⟩ := h
  exact ⟨h1, h2, h3, h4, h5, h6, hc h7⟩

theorem outMalformed_inRange (n : Nat) (c : ForwardCounts) (h : c.inRange) :
    ({ c with outMalformed := hold32 n } : ForwardCounts).inRange := by
  obtain ⟨-, h2, h3, h4, h5, h6, h7, h8, h9, h10, h11⟩ := h
  exact ⟨Closed.hold32_le _, h2, h3, h4, h5, h6, h7, h8, h9, h10, h11⟩

theorem receiveDrop_inRange (n : Nat) (c : ForwardCounts) (h : c.inRange) :
    ({ c with receiveDrop := hold32 n } : ForwardCounts).inRange := by
  obtain ⟨h1, h2, h3, h4, h5, h6, h7, h8, h9, h10, -⟩ := h
  exact ⟨h1, h2, h3, h4, h5, h6, h7, h8, h9, h10, Closed.hold32_le _⟩

theorem inboundMalformed_inRange (p : Path) (c : ForwardCounts) (h : c.inRange) : (c.inboundMalformed p).inRange := by
  obtain ⟨h1, h2, h3, h4, h5, h6, h7, h8, h9, h10, h11⟩ := h
  cases p
  · exact ⟨h1, h2, h3, h4, h5, h6, h7, h8, Closed.hold32_le _, h10, h11⟩
  · exact ⟨h1, h2, h3, h4, h5, h6, h7, h8, h9, Closed.hold32_le _, h11⟩

/-- A command that is neither a reset, nor the end of INIT, nor a read of EVENTS, nor a write that can stand for a soft
reset. -/
def ordinary : Instr → Prop
  | .powerOn | .resetPinAssert | .softReset | .initEnd | .eventsRead _ | .registerWrite _ _ _ => False
  | _ => True

theorem lowestFree_le {k i : Nat} {fs : List FlowRec} (h : lowestFree k fs = some i) :
    k ≤ i ∧ (fs.getD (i - k) (FlowRec.freed 0)).state = .free := by
  induction fs generalizing k with
  | nil => cases h
  | cons f fs ih =>
    unfold lowestFree at h
    split at h
    · rename_i hf
      cases h
      rw [Nat.sub_self]
      exact ⟨Nat.le_refl _, hf⟩
    · obtain ⟨hk, hfree⟩ := ih h
      refine ⟨Nat.le_of_succ_le hk, ?_⟩
      rwa [show i - k = i - (k + 1) + 1 by omega, List.getD_cons_succ]

/-- OPEN FLOW allocates a FREE record. -/
theorem lowestFree_free {s : State} {i : Nat} (h : lowestFree 0 s.flows = some i) : (s.flow i).state = .free :=
  (lowestFree_le h).2

theorem live_of_idleDue {now : Time} {f : FlowRec} (h : f.idleDue now = true) : f.state.live = true := by
  unfold FlowRec.idleDue at h
  rw [Bool.and_eq_true, Bool.and_eq_true] at h
  exact h.1.1

theorem configure_demand (delay age dc : Nat) (now since : Time) (t : Steering) :
    (t.configure delay age dc now since).demand = t.demand := by
  unfold Steering.configure
  dsimp only
  split <;> rfl

theorem setLine_state (m : SupplyMonitor) (l : SupplyLine) (v : LineRec) : (m.setLine l v).state = m.state := by
  cases l <;> rfl

theorem pinned_of_gapDue {s : State} {i : Nat} (h : s.gapDue i = true) : (s.flow i).pinned = true := by
  unfold State.gapDue FlowRec.gapPassed at h
  rw [Bool.and_eq_true, Bool.and_eq_true] at h
  exact h.1.1

theorem waiting_of_asPath {x : FlowState} (h : x.asPath = .waiting) : x = .waiting := by
  cases x with
  | carried p => cases p <;> cases h
  | waiting => rfl
  | free => cases h
  | blocked => cases h
  | expired => cases h

/-- A frame that a WAITING flow governs is bound to a WAITING flow, also once the flow's time is written. -/
theorem bindingPath_sent (w : Work) (i : Nat) (h : (w.st.flow i).state.asPath = .waiting) (f : HeldFrame)
    (hf : f.flow = some i) : (w.onFlow i (FlowRec.sent w.now)).st.bindingPath f = .waiting := by
  have hcourse : (w.onFlow i (FlowRec.sent w.now)).st.flows.map FlowRec.course = w.st.flows.map FlowRec.course :=
    map_set_getD FlowRec.course (FlowRec.sent w.now) (FlowRec.freed 0) (fun _ => rfl) w.st.flows i
  have hclasses : (w.onFlow i (FlowRec.sent w.now)).st.classes = w.st.classes := rfl
  rw [bindingPath_congr (congrArg (List.map ClassRec.cur) hclasses) hcourse]
  unfold State.bindingPath
  rw [hf]
  dsimp only
  rw [waiting_of_asPath h]

/-- A condition that decides between two states that both have the property. -/
theorem keeps_ite {P : State → Prop} {due : Prop} [Decidable due] {s t : State} (ht : P t) (h : P s) :
    P (if due then t else s) := by
  split
  · exact ht
  · exact h

/-- The properties that the changes outside ordinary commands keep as well: resets, the end of INIT, reads of EVENTS, and
time. -/
structure Timeless (P : State → Prop) : Prop where
  ev : ∀ s e, P s → P { s with ev := e }
  reset : ∀ b s, P s → P (resetTo b s)
  init : ∀ (s : State), s.exch.service = .init → P s → P (initState s)
  clk : ∀ s c, P s → P { s with clk := c }
  queue : ∀ s q n, P s → P { s with pending := q, free := n }

namespace Upheld

variable {B : Prop} {P : State → Prop} (K : Upheld B P)
include K

/-! ## Updates of one block -/

theorem onExch (f : Exchange → Exchange) (w : Work) (hf : (f w.st.exch).service = w.st.exch.service) (h : P w.st) :
    P (w.onExch f).st := K.exch _ _ hf h

theorem onGens (f : Generators → Generators) (w : Work) (h : P w.st) : P (w.onGens f).st := K.gens _ _ h
theorem onFin (f : FibreIn → FibreIn) (w : Work) (h : P w.st) : P (w.onFin f).st := K.fin _ _ h

theorem onSteer (f : Steering → Steering) (w : Work) (hf : (f w.st.steer).demand = w.st.steer.demand) (h : P w.st) :
    P (w.onSteer f).st := K.steer _ _ hf h

theorem onSup (f : SupplyMonitor → SupplyMonitor) (w : Work) (hf : (f w.st.sup).state = w.st.sup.state) (h : P w.st) :
    P (w.onSup f).st := K.sup _ _ hf h

theorem onRu (f : RadioUnit → RadioUnit) (w : Work) (hf : AimStays w.st.ru (f w.st.ru)) (h : P w.st) :
    P (w.onRu f).st := K.ru _ _ hf h

theorem onPath (p : Path) (f : PathRec → PathRec) (w : Work) (hf : SettingsStep (w.st.path p) (f (w.st.path p)))
    (h : P w.st) : P (w.onPath p f).st := K.path _ p f hf h

theorem onAllow (f : Allowance → Allowance) (w : Work) (hf : w.st.allow.sound → (f w.st.allow).sound) (h : P w.st) :
    P (w.onAllow f).st := K.allow _ _ hf h

theorem onEv (f : EventUnit → EventUnit) (w : Work) (hf : (f w.st.ev).latch = w.st.ev.latch) (h : P w.st) :
    P (w.onEv f).st := K.ev _ _ hf h

theorem onTimes (i : Nat) (f : FlowRec → FlowRec) (w : Work) (hf : ∀ r, (f r).course = r.course) (h : P w.st) :
    P (w.onFlow i f).st := K.times _ _ (map_set_getD _ f _ hf _ i) h

theorem onClass (i : Nat) (f : ClassRec → ClassRec) (w : Work) (hf : ∀ c, (f c).cur = c.cur) (h : P w.st) :
    P (w.onClass i f).st := K.classes _ _ (map_set_getD _ f _ hf _ i) h

/-! ## The exchange port -/

theorem beginSweep (w : Work) (h : P w.st) : P (beginSweep w).st := K.onExch _ _ rfl h

theorem takeNudge (w : Work) (h : P w.st) : P (takeNudge w).st := by
  unfold Machine.takeNudge
  split
  · exact K.beginSweep _ h
  · exact K.onExch _ _ rfl h

theorem takeSweepTimer (w : Work) (h : P w.st) : P (takeSweepTimer w).st := by
  have h1 := K.onExch (fun e => { e with sweepDue := later e.sweepDue e.interval }) w rfl h
  unfold Machine.takeSweepTimer
  dsimp only
  split
  · exact K.beginSweep _ h1
  · exact h1

theorem endSweep (w : Work) (h : P w.st) : P (endSweep w).st := by
  have h1 := K.onExch (fun e =>
    { e with sweep := none, sweepDone := false, nudgePending := false, sweepCount := e.sweepCount + 1 }) w rfl h
  have h2 := K.closed.latch Bit.orderDone _ h1
  unfold Machine.endSweep
  dsimp only
  split
  · split
    · exact K.beginSweep _ h2
    · exact K.beginSweep _ h1
  · split
    · exact h2
    · exact h1

/-! ## Orders to the probe engine and the path monitors -/

theorem reclampPath (g : Generator) (p : Path) (w : Work) (h : P w.st) : P (reclampPath g p w).st := by
  unfold Machine.reclampPath
  dsimp only
  split
  · exact K.onPath p _ _ ⟨rfl, rfl, rfl, id, rfl, rfl, rfl⟩ (K.settle p _ h)
  · exact h

theorem setGenerator (ps : List Byte) (w : Work) (h : P w.st) : P (orderSetGenerator ps w).work.st := by
  unfold orderSetGenerator
  dsimp only
  split
  · exact h
  · split
    · exact h
    · exact K.reclampPath _ _ _ (K.reclampPath _ _ _ (K.onGens _ _ h))

/-- A path's settings written, the path settled where that is asked, and the way out of a state that a link-only path
has not. -/
theorem settingsWritten (p : Path) (f : PathRec → PathRec) (settles was : Bool) (w : Work)
    (hf : SettingsStep (w.st.path p) (f (w.st.path p))) (h : P w.st) :
    P (becameLinkOnly p was (if settles = true then Machine.settle p (w.onPath p f) else w.onPath p f)).st := by
  have h1 := K.onPath p f w hf h
  refine K.linkOnly p _ _ ?_
  split
  · exact K.settle p _ h1
  · exact h1

theorem setProbing (ps : List Byte) (w : Work) (h : P w.st) : P (orderSetProbing ps w).work.st := by
  unfold orderSetProbing
  dsimp only
  split
  · rename_i p a _ _
    have h1 := K.settingsWritten p (fun r => { r with
        assign := a, d := clamp 1 60 (param ps 2 1), timeout := clamp 100 (timeoutMax w.st a (clamp 1 60 (param ps 2 1)))
          (param ps 3 4) })
      (decide ((w.st.path p).assign ≠ a ∨ (w.st.path p).d ≠ clamp 1 60 (param ps 2 1))) (w.st.path p).linkOnly w
      ⟨rfl, rfl, rfl, id, rfl, rfl, rfl⟩ h
    simpa only [decide_eq_true_eq] using h1
  · exact h

theorem setTemplate (ps : List Byte) (w : Work) (h : P w.st) : P (orderSetTemplate ps w).work.st := by
  unfold orderSetTemplate
  dsimp only
  split
  · exact h
  · rename_i p _
    have h1 := K.settingsWritten p (fun r => { r with template := (ps.drop 2).take (min (param ps 1 1) 64) })
      (decide ((w.st.path p).template ≠ (ps.drop 2).take (min (param ps 1 1) 64))) (w.st.path p).linkOnly w
      ⟨rfl, rfl, rfl, id, rfl, rfl, rfl⟩ h
    simpa only [decide_eq_true_eq] using h1

theorem setScoring (ps : List Byte) (w : Work) (h : P w.st) : P (orderSetScoring ps w).work.st := by
  have hk : clamp 1 16 (param ps 12 1) ≤ 16 := by
    unfold clamp
    omega
  unfold orderSetScoring
  dsimp only
  split
  · split
    · exact K.onPath _ _ _ ⟨rfl, rfl, rfl, fun _ => hk, rfl, rfl, rfl⟩ h
    · exact h
  · exact h

theorem setDamping (ps : List Byte) (w : Work) (h : P w.st) : P (orderSetDamping ps w).work.st := by
  unfold orderSetDamping
  dsimp only
  split
  · rename_i p on _ _
    split
    · have h1 := K.onPath p (PathRec.damp on (min (param ps 2 2) 8000) (min (param ps 4 2) 8000)
        (clamp 1 255 (param ps 6 2)) w.now) w ⟨rfl, rfl, rfl, id, rfl, rfl, rfl⟩ h
      split
      · exact K.release p _ h1
      · exact h1
    · exact h
  · exact h

theorem clearCause (ps : List Byte) (w : Work) (h : P w.st) : P (orderClearCause ps w).work.st := by
  unfold orderClearCause
  split
  · exact h
  · exact K.onPath _ _ _ ⟨rfl, rfl, rfl, id, rfl, rfl, rfl⟩ h

/-! ## Orders to the radio unit -/

theorem setRadio (ps : List Byte) (w : Work) (h : P w.st) : P (orderSetRadio ps w).work.st := by
  unfold orderSetRadio
  dsimp only
  split
  · exact h
  · exact K.configured _ _ _ _ w h

theorem setReady (f : RadioUnit → RadioUnit) (w : Work) (hf : AimStays w.st.ru (f w.st.ru)) (h : P w.st) :
    P (setReady f w).st := by
  have h1 := K.onRu f w hf h
  unfold Machine.setReady
  dsimp only
  split
  · exact h1
  · exact K.closed.readyChanged _ h1

theorem setModemLines (ps : List Byte) (w : Work) (h : P w.st) : P (orderSetModemLines ps w).work.st := by
  unfold orderSetModemLines
  split
  · exact K.setReady _ _ ⟨⟨rfl, rfl, rfl⟩, rfl, rfl, rfl⟩ h
  · exact h

theorem releaseRadio (ps : List Byte) (w : Work) (h : P w.st) : P (orderReleaseRadio ps w).work.st := by
  unfold orderReleaseRadio
  split
  · exact h
  · split
    · exact K.released w h
    · exact h

/-! ## Orders to the steering unit -/

theorem setClass (ps : List Byte) (w : Work) (h : P w.st) : P (orderSetClass ps w).work.st := by
  unfold orderSetClass
  dsimp only
  split
  · split
    · exact h
    · rename_i use atIdle permit _ _ _ _
      have h1 := K.passes (w.onClass (param ps 0 1) (ClassRec.setPolicy use (min (param ps 2 1) 3) atIdle
        permit (clamp 1 600 (param ps 5 2)))).owePass (K.onClass _ _ _ (fun _ => rfl) h)
      dsimp only
      split
      · exact h1
      · exact K.returned _ _ h1
  · exact h

theorem setSteering (ps : List Byte) (w : Work) (h : P w.st) : P (orderSetSteering ps w).work.st := by
  unfold orderSetSteering
  dsimp only
  split
  · exact h
  · exact K.closed.owePass _ (K.closed.dropHeld _ _ _ Closed.ageHeld_inRange (K.onSteer _ _ (configure_demand _ _ _ _ _ _) h))

theorem beginHold (p : Path) (dur : Nat) (w : Work) (hs : w.st.exch.service = .service)
    (hp : holdRefusal w.st p = none) (h : P w.st) : P (beginHold p dur w).st := by
  have h1 := K.hold p dur w hs hp h
  exact K.closed.owePass _ (K.closed.touch _ _ (K.closed.handConditions _ h1))

theorem holdPath (ps : List Byte) (w : Work) (h : P w.st) : P (orderHoldPath ps w).work.st := by
  unfold orderHoldPath
  split
  · exact h
  · rename_i p _
    split
    · exact h
    · rename_i hservice
      split
      · exact h
      · split
        · exact h
        · rename_i hp
          exact K.beginHold p (clamp 1 3600 (param ps 1 2)) w (not_not.mp hservice) hp h

theorem releaseHold (ps : List Byte) (w : Work) (h : P w.st) : P (orderReleaseHold ps w).work.st := by
  unfold orderReleaseHold
  split
  · exact K.endHold _ _ h
  · exact h

/-! ## Orders to the flow table -/

theorem openFlow (i cls idle : Nat) (w : Work) (hs : w.st.exch.service = .service) (hi : (w.st.flow i).state = .free)
    (h : P w.st) : P (openFlow i cls idle w).st :=
  K.closed.restartSees trivial _ _ (K.demand _ (K.closed.drillSeesFlow _ _
    (K.closed.handConditions _ (K.opened i cls idle w hs hi h))))

theorem orderOpen (ps : List Byte) (w : Work) (h : P w.st) : P (orderOpenFlow ps w).work.st := by
  unfold orderOpenFlow
  dsimp only
  split
  · exact h
  · split
    · exact h
    · rename_i hservice
      split
      · exact h
      · rename_i i hi
        exact K.openFlow i (param ps 0 1) (min (param ps 1 4) 65535) w (not_not.mp hservice) (lowestFree_free hi) h

theorem closeFlow (ps : List Byte) (w : Work) (h : P w.st) : P (orderCloseFlow ps w).work.st := by
  unfold orderCloseFlow
  dsimp only
  split
  · exact h
  · exact K.closed.oweDemand _ (K.closed.handConditions _ (K.freed _ _ h))

/-! ## Orders to the other units -/

theorem setAllowance (ps : List Byte) (w : Work) (h : P w.st) : P (orderSetAllowance ps w).work.st := by
  unfold orderSetAllowance
  dsimp only
  split
  · exact h
  · split
    · exact h
    · rename_i cap _ hcr
      have hsound : w.st.allow.sound → (Allowance.restaged (w.st.allow.configure (param ps 0 4)
          (clamp 50 98 (param ps 4 1)) (clamp 51 99 (param ps 5 1)) cap (min (param ps 7 1) 64))).sound := by
        refine configured_sound _ _ _ _ _ _ ?_ (Nat.lt_of_not_le hcr) ?_ (Nat.min_le_right _ _)
        · exact Nat.le_max_left _ _
        · unfold clamp
          omega
      have h1 := K.closed.restage (w.onAllow (Allowance.configure (param ps 0 4) (clamp 50 98 (param ps 4 1))
        (clamp 51 99 (param ps 5 1)) cap (min (param ps 7 1) 64))) (K.onAllow (fun a => Allowance.restaged (a.configure
          (param ps 0 4) (clamp 50 98 (param ps 4 1)) (clamp 51 99 (param ps 5 1)) cap (min (param ps 7 1) 64))) w hsound h)
      show P (capSees _ _).st
      unfold capSees
      split
      · exact h1
      · exact h1

theorem newPeriod (ps : List Byte) (w : Work) (h : P w.st) : P (orderNewPeriod ps w).work.st :=
  K.closed.touch .allowance _ <| K.closed.restage (w.onAllow (Allowance.newPeriod w.now))
    (K.onAllow (fun a => (a.newPeriod w.now).restaged) w (newPeriod_sound _ _) h)

theorem setSupply (ps : List Byte) (w : Work) (h : P w.st) : P (orderSetSupply ps w).work.st := by
  unfold orderSetSupply
  split
  · exact K.onSup _ _ rfl h
  · exact h

theorem runDrill (limit : Nat) (w : Work) (hs : w.st.exch.service = .service) (h : P w.st) : P (runDrill limit w).st := by
  have h0 : P (w.onDrill (Drill.begin w.now limit w.st.ru.attaches)).st := K.drill _ _ hs h
  have h1 := K.demand _ (K.closed.touch .supply _ (K.closed.handConditions _ h0))
  unfold Machine.runDrill
  dsimp only
  split
  · exact K.closed.endDrill _ _ _ h1
  · exact h1

theorem orderRun (ps : List Byte) (w : Work) (h : P w.st) : P (orderRunDrill ps w).work.st := by
  unfold orderRunDrill
  split
  · exact h
  · rename_i hservice
    iterate 4
      split
      · exact h
    exact K.runDrill (clamp 60 1800 (param ps 0 2)) w (not_not.mp hservice) h

theorem cancelDrill (ps : List Byte) (w : Work) (h : P w.st) : P (orderCancelDrill ps w).work.st := by
  unfold orderCancelDrill
  split
  · exact K.closed.endDrill _ _ _ h
  · exact h

theorem startService (ps : List Byte) (w : Work) (h : P w.st) : P (orderStartService ps w).work.st := by
  unfold orderStartService
  dsimp only
  split
  · exact h
  · exact K.started w h

theorem stopService (ps : List Byte) (w : Work) (h : P w.st) : P (orderStopService ps w).work.st := by
  unfold orderStopService
  split
  · rename_i hservice
    show P (Machine.stopService w).st
    exact K.stopped w hservice h
  · exact h

theorem setExchange (ps : List Byte) (w : Work) (h : P w.st) : P (orderSetExchange ps w).work.st :=
  K.onExch (fun e => { e with
    interval := clamp 1 250 (param ps 0 2),
    sweepDue := if e.interval = clamp 1 250 (param ps 0 2) then e.sweepDue else later w.now (clamp 1 250 (param ps 0 2)) }) _ rfl h

theorem setEventEdges (ps : List Byte) (w : Work) (h : P w.st) : P (orderSetEventEdges ps w).work.st :=
  K.onEv _ _ rfl h

/-! ## Events -/

theorem generatorTick (g : Generator) (w : Work) (h : P w.st) : P (generatorTick g w).st :=
  K.tick _ _ _ (K.tick _ _ _ (K.onGens _ _ h))

theorem inboundChecked (p : Path) (d : List Byte) (w : Work) (h : P w.st) : P (inboundChecked p d w).st := by
  unfold Machine.inboundChecked
  split
  · exact K.closed.onCounts _ _ (inboundMalformed_inRange p) h
  · split
    · exact K.shaped _ _ _ h
    · unfold enterReceive
      split
      · exact K.closed.onCounts _ _ (fun c => receiveDrop_inRange (c.receiveDrop + 1) c) h
      · rename_i hfull
        refine K.receive _ _ rfl ?_ h
        rintro ⟨h1, h2, h3, h4, h5, -, h7⟩
        refine ⟨h1, h2, h3, h4, h5, ?_, h7⟩
        simp only [Config.receiveMax] at hfull
        simp only [List.length_append, List.length_cons, List.length_nil]
        omega

theorem countInbound (p : Path) (d : List Byte) (w : Work) (h : P w.st) : P (countInbound p d w).st := by
  cases p
  · exact h
  · exact K.passes _ (K.closed.addUsed _ _ h)

theorem linkChanged (up : Bool) (w : Work) (h : P w.st) :
    P (Machine.takeNext .fibre (Machine.watchFibre (w.onFin fun f => { f with link := up }))).st :=
  K.closed.takeNext _ _ (K.watch _ (K.onFin _ _ h))

theorem losChanged (active : Bool) (w : Work) (h : P w.st) :
    P (Machine.watchFibre (w.onFin fun f => { f with los := active })).st := K.watch _ (K.onFin _ _ h)

theorem passReturnDelay (w : Work) (h : P w.st) : P (passReturnDelay w).st :=
  K.closed.owePass _ (K.onSteer _ _ rfl h)

theorem takeOutbound (bytes : List Byte) (w : Work) (h : P w.st) : P (takeOutbound bytes w).st := by
  unfold Machine.takeOutbound
  dsimp only
  split
  · unfold acceptFrame
    split
    · rename_i i _
      refine K.placed _ _ _ _ _ (fun hwait _ => ?_) (K.onTimes i _ w (fun _ => rfl) h)
      exact bindingPath_sent w i hwait _ rfl
    · exact K.placed _ _ _ _ _ (fun hwait _ => hwait) (K.closed.onCounts
        (fun c => { c with untracked := c.untracked + 1 }) _ (fun _ hc => hc) h)
  · exact K.closed.onCounts _ _ (fun c => outMalformed_inRange (c.outMalformed + 1) c) h

theorem deliver (linkUp : Bool) (w : Work) (h : P w.st) : P (deliver (w.onFwd fun f => { f with lanLink := linkUp })).st := by
  have h1 : P (w.onFwd fun f => { f with lanLink := linkUp }).st := K.receive _ _ rfl (fun hb => hb) h
  unfold Machine.deliver
  split
  · exact h1
  · rename_i r rest hr
    split
    · refine K.receive _ _ rfl ?_ h1
      rintro ⟨g1, g2, g3, g4, g5, g6, g7⟩
      refine ⟨g1, g2, g3, g4, g5, ?_, g7⟩
      rw [hr] at g6
      exact Nat.le_of_succ_le g6
    · exact h1

theorem debounce (line : SupplyLine) (w : Work) (h : P w.st) : P (debounce line w).st := by
  have h1 := K.onSup (fun m => m.setLine line (m.line line).settled) w (setLine_state _ _ _) h
  unfold Machine.debounce
  dsimp only
  split
  · exact h1
  · exact K.supplied _ _ h1

/-! ## Every command -/

variable (R : Reported P)
include R

theorem eventOf (f : Work → Work) (s : State) (hf : P s → P (f (Work.begin s)).st) (h : P s) : P (event f s) := by
  unfold Machine.event
  split
  · exact h
  · exact R.finish K.closed _ _ (K.passes _ (hf h))

theorem event (f : Work → Work) (s : State) (hf : ∀ w, P w.st → P (f w).st) (h : P s) : P (event f s) :=
  K.eventOf R f s (hf (Work.begin s)) h

theorem takeOrder (accepts : Nat → Bool) (body : List Byte → Work → Answered) (s : State)
    (hf : ∀ ps w, P w.st → P (body ps w).work.st) (h : P s) : P (takeOrder accepts body s) := by
  by_cases ho : ∃ i rest, s.offers accepts i rest
  · obtain ⟨i, rest, ho⟩ := ho
    rw [takeOrder_offers accepts body s i rest ho]
    refine R.finish K.closed _ _ (K.closed.touch _ _ (K.onExch _ _ rfl (K.mem _ _ (wf_slotAnswer _ _ _ _) ?_)))
    exact K.passes _ (hf _ _ h)
  · rw [takeOrder_none accepts body s fun i rest hi => ho ⟨i, rest, hi⟩]
    exact h

theorem takeKind (kind : Nat) (body : List Byte → Work → Answered) (s : State)
    (hf : ∀ ps w, P w.st → P (body ps w).work.st) (h : P s) : P (takeKind kind body s) :=
  K.takeOrder R _ body s hf h

theorem controlWrite (v : Word) (s : State) (hv : v.getLsbD 0 = false) (h : P s) : P (controlWrite v s) := by
  unfold Machine.controlWrite
  rw [hv]
  split
  · exact h
  · exact K.event R _ s (fun w => K.onExch _ w rfl) h

/-- Every ordinary command keeps the property. -/
theorem exec {c : Instr} {s t : State} (hc : ordinary c) (hx : exec c s = .next t) (h : P s) : P t := by
  have hevent : ∀ f : Work → Work, (∀ w, P w.st → P (f w).st) → P (Machine.event f s) :=
    fun f hf => K.event R f s hf h
  have horder : ∀ (k : Nat) body, (∀ ps w, P w.st → P (body ps w).work.st) → P (Machine.takeKind k body s) :=
    fun k body hf => K.takeKind R k body s hf h
  cases c
  case powerOn | resetPinAssert | softReset | initEnd | eventsRead | registerWrite => exact hc.elim
  case slotPassedOver =>
    dsimp only [Machine.exec, execSlotPassedOver] at hx
    split at hx <;> cases hx
    · exact keeps_ite h (hevent _ fun w => K.onExch _ w rfl)
    · exact h
    · exact h
  case pollTimerExpiry =>
    dsimp only [Machine.exec, execPollTimerExpiry] at hx
    split at hx <;> cases hx
    · exact h
    · exact keeps_ite (hevent _ (K.closed.pollDue _)) h
  all_goals cases hx
  case resetPinRelease => exact K.exch _ _ rfl h
  case interruptEnableWrite enable => exact K.controlWrite R _ s (by cases enable <;> rfl) h
  case nudge => exact hevent _ K.takeNudge
  case eventEnableWrite =>
    exact keeps_ite (hevent _ fun w => K.onEv _ w rfl) h
  case exchangeMemoryWrite => exact keeps_ite (K.mem _ _ (Memory.wf_writeBytes _ _ _) h) h
  case sweepTimerExpiry => exact keeps_ite (hevent _ K.takeSweepTimer) h
  case sweepEnd => exact keeps_ite (hevent _ (K.endSweep)) h
  case unknownOrderKind => exact K.takeOrder R _ _ s (fun _ _ h => h) h
  case setGenerator => exact horder _ _ (K.setGenerator)
  case setProbing => exact horder _ _ (K.setProbing)
  case setTemplate => exact horder _ _ (K.setTemplate)
  case setScoring => exact horder _ _ K.setScoring
  case setDamping => exact horder _ _ (K.setDamping)
  case clearCause => exact horder _ _ K.clearCause
  case setRadio => exact horder _ _ (K.setRadio)
  case setModemLines => exact horder _ _ (K.setModemLines)
  case releaseRadio => exact horder _ _ K.releaseRadio
  case setClass => exact horder _ _ (K.setClass)
  case setSteering => exact horder _ _ (K.setSteering)
  case holdPath => exact horder _ _ (K.holdPath)
  case releaseHold => exact horder _ _ K.releaseHold
  case openFlow => exact horder _ _ (K.orderOpen)
  case closeFlow => exact horder _ _ (K.closeFlow)
  case setAllowance => exact horder _ _ (K.setAllowance)
  case newPeriod => exact horder _ _ (K.newPeriod)
  case setSupply => exact horder _ _ K.setSupply
  case runDrill => exact horder _ _ (K.orderRun)
  case cancelDrill => exact horder _ _ K.cancelDrill
  case setEventEdges => exact horder _ _ K.setEventEdges
  case startService => exact horder _ _ (K.startService)
  case stopService => exact horder _ _ (K.stopService)
  case setExchange => exact horder _ _ K.setExchange
  case generatorTick g => exact keeps_ite (hevent _ (K.generatorTick g)) h
  case probeExpiry p seq => exact keeps_ite (hevent _ (K.resolve p seq _)) h
  case inboundFrame p bytes =>
    exact keeps_ite (hevent _ fun w h => K.inboundChecked p bytes _ (K.countInbound p bytes w h)) h
  case fibreLinkChange up => exact keeps_ite (K.fin _ _ h) (hevent _ (K.linkChanged up))
  case losChange active => exact keeps_ite (K.fin _ _ h) (hevent _ (K.losChanged active))
  case fibreSettleExpiry => exact keeps_ite (hevent _ K.available) h
  case decayTick p => exact keeps_ite (hevent _ (K.decay p)) h
  case okAnswer | refusedAnswer | signalAnswer | sessionClosed | detached | signalIndication =>
    exact hevent _ (K.closed.takeFrame trivial _)
  case linkFrameDiscarded bytes => exact hevent _ (K.closed.receiveBytes trivial bytes)
  case linkInterbyteTimeout bytes => exact keeps_ite (hevent _ (K.closed.receiveBytes trivial bytes)) h
  case answerTimeout => exact keeps_ite (hevent _ (K.closed.answerTimedOut trivial)) h
  case readyChange high =>
    exact keeps_ite (K.ru _ _ ⟨⟨rfl, rfl, rfl⟩, rfl, rfl, rfl⟩ h) (hevent _ fun w => K.setReady _ w ⟨⟨rfl, rfl, rfl⟩, rfl, rfl, rfl⟩)
  case poweringTimeout => exact keeps_ite (hevent _ (K.closed.enterResetting trivial)) h
  case stoppingTimeout => exact keeps_ite (hevent _ K.closed.stoppingTimedOut) h
  case backoffExpiry => exact keeps_ite (hevent _ K.closed.enterIdle) h
  case pulseEnd line => exact keeps_ite (hevent _ (K.closed.pulseEnds trivial line)) h
  case lingerExpiry =>
    exact keeps_ite (hevent _ K.lingered) h
  case returnDelayDue => exact keeps_ite (hevent _ (K.passReturnDelay)) h
  case holdExpiry => exact keeps_ite (hevent _ fun w => K.endHold _ w) h
  case flowIdleExpiry flow =>
    split
    · rename_i hdue
      exact K.eventOf R _ s (K.expired flow (Work.begin s) (live_of_idleDue hdue)) h
    · exact h
  case idleGapReturn flow =>
    split
    · rename_i hdue
      exact K.eventOf R _ s (K.cameBack flow (Work.begin s) (pinned_of_gapDue hdue)) h
    · exact h
  case longIdleMark flow => exact keeps_ite (hevent _ fun w => K.onTimes flow _ w fun _ => rfl) h
  case outboundFrame bytes => exact hevent _ (K.takeOutbound bytes)
  case transmitHandoff p => exact hevent _ (K.closed.portFree p)
  case holdAgeExpiry => exact keeps_ite (hevent _ K.closed.dropOldest) h
  case receiveQueueDelivery linkUp =>
    exact keeps_ite (K.receive _ _ rfl (fun hb => hb) h) (hevent _ (K.deliver linkUp))
  case supplyLineChange line high =>
    exact keeps_ite (K.sup _ _ (setLine_state _ _ _) h)
      (hevent _ fun w => K.onSup (setLineLevel line high w.now) w (setLine_state _ _ _))
  case debounceExpiry line => exact keeps_ite (hevent _ (K.debounce line)) h
  case drillLimitExpiry => exact keeps_ite (hevent _ (K.closed.endDrill _ _)) h

/-! ## Every step -/

variable (T : Timeless P)
include T

omit R K in
theorem refreshIrq (s : State) (h : P s) : P (refreshIrq s) := T.ev _ _ h

theorem controlWritten (v : Word) (s : State) (h : P s) : P (Machine.controlWrite v s) := by
  unfold Machine.controlWrite
  split
  · exact h
  · exact keeps_ite (T.reset _ _ h) (K.event R _ s (fun w => K.onExch _ w rfl) h)

theorem registerStore (off width : Nat) (v : Word) (s : State) (h : P s) : P (registerStore off width v s) := by
  unfold Machine.registerStore
  exact keeps_ite h (keeps_ite (K.controlWritten R T v s h) (keeps_ite (K.event R _ s K.takeNudge h)
    (keeps_ite (K.event R _ s (fun w => K.onEv _ w rfl) h) h)))

omit R K in
theorem initEnds (s : State) (hs : s.exch.service = .init) (h : P s) : P (initEnded s) := by
  have h1 := T.ev _ { s.ev with cond := (initState s).facts, latch := bitMask Bit.initDone } (T.init s hs h)
  unfold initEnded
  generalize initState s = u at h1
  exact refreshIrq T _ h1

omit R K in
theorem initEnd (s t : State) (hx : Machine.exec .initEnd s = .next t) (h : P s) : P t := by
  by_cases hc : s.exch.service = .init ∧ s.exch.resetHeld = false
  · rw [execInitEnd_in_init hc.1 hc.2] at hx
    cases hx
    exact initEnds T s hc.1 h
  · rw [execInitEnd_elsewhere (by rwa [not_and_or, Bool.not_eq_false] at hc)] at hx
    cases hx
    exact h

theorem eventsRead (width : Nat) (s t : State) (hx : Machine.exec (.eventsRead width) s = .next t) (h : P s) : P t := by
  dsimp only [Machine.exec, execEventsRead] at hx
  split at hx <;> cases hx
  · exact K.exch _ _ rfl h
  · exact K.event R _ s (fun w hw => T.ev _ _ (K.exch _ _ rfl hw)) h

/-- Every command keeps the property. -/
theorem execAny {c : Instr} {s t : State} (hx : Machine.exec c s = .next t) (h : P s) : P t := by
  by_cases hc : ordinary c
  · exact K.exec R hc hx h
  cases c
  case powerOn => cases hx; exact T.reset _ _ h
  case resetPinAssert => cases hx; exact K.exch _ _ rfl (T.reset _ _ h)
  case softReset => cases hx; exact K.controlWritten R T _ s h
  case initEnd => exact initEnd T s t hx h
  case eventsRead width => exact K.eventsRead R T width s t hx h
  case registerWrite off width v => cases hx; exact K.registerStore R T off width _ s h
  all_goals exact absurd trivial hc

theorem ticks (s : State) (h : P s) : P (Machine.tick s) := by
  have hinit : P (initTick s) := by
    unfold initTick
    refine keeps_ite h ?_
    have h1 := K.exch s { s.exch with initElapsed := s.exch.initElapsed + 1 } rfl h
    exact keeps_ite (T.queue _ _ _ h1) h1
  have hrun : P (runTick s) := T.queue _ _ _ (T.clk s s.clk.tick h)
  unfold Machine.tick
  exact keeps_ite hinit (keeps_ite (K.event R _ s (K.closed.sendRequest _) h) hrun)

/-- Every step keeps the property. -/
theorem step {s t : State} (hx : step s = .next t) (h : P s) : P t := by
  unfold Machine.step at hx
  split at hx
  · cases hx
    exact K.ticks R T s h
  · exact K.execAny R T hx (T.queue s _ s.free h)

end Upheld

/-! ## From whole passes to every operation -/

theorem PathStep.weaken {U V : Prop} {r r' : PathRec} (hUV : U → V) (h : PathStep U r r') : PathStep V r r' :=
  { h with moves := h.moves.imp hUV id }

theorem HoldStep.weaken {F G : Prop} {h h' : Hold} (hFG : F → G) (hs : HoldStep F h h') : HoldStep G h h' :=
  ⟨hs.settings, hs.goesOn.imp id fun ⟨h1, h2, h3⟩ => ⟨h1, h2, h3.imp hFG id⟩⟩

/-- A property that every operation keeps which leaves bindings is kept by those that leave the fibre path's state and
the target too. -/
theorem Closed.weaken {M B S : Prop} {P : State → Prop} (C : Closed True M B False True S P) :
    Closed False M B False False S P where
  path := fun s p f _ hf => C.path s p f (Or.inr trivial) (hf.weaken fun _ => Or.inl trivial)
  probe := fun hB s p f _ => C.probe hB s p f (Or.inr trivial)
  grade := fun _ => C.grade (Or.inl trivial)
  ru := C.ru
  ruEvent := C.ruEvent
  aim := fun h => h.elim
  demand := fun h => h.elim
  ret := fun h => h.elim
  classes := C.classes
  hold := fun s h hh => C.hold s h (hh.weaken False.elim)
  flows := C.flows
  free := C.free
  fwd := C.fwd
  fwdEvent := C.fwdEvent
  allow := C.allow
  drill := C.drill
  ev := C.ev
  fin := fun h => h.elim

namespace Kept

variable {B : Prop} {P : State → Prop} (K : Kept B P)
include K

theorem clearTicks (p : Path) (w : Work) (h : P w.st) : P (clearTicks p w).st :=
  K.path w.st p (fun r => { r with ticks := 0 }) ⟨rfl, rfl, rfl, id, rfl, rfl, rfl⟩ h

theorem startService (w : Work) (h : P w.st) : P (startService w).st := by
  have h1 := K.closed.owePass _ (K.clearTicks .radio _ (K.clearTicks .fibre _ (K.started w h)))
  exact K.closed.recomputeTarget trivial _ (K.passes _ h1)

theorem stopService (w : Work) (h : P w.st) : P (stopService w).st := by
  have h1 := K.closed.owePass _ (K.stopped w h)
  unfold Machine.stopService
  exact K.closed.recomputeTarget trivial _ (K.passes _ h1)

theorem changeSupply (n : Supply) (w : Work) (h : P w.st) : P (changeSupply n w).st := by
  have h0 : P (w.onSup fun m => { m with state := n, since := w.now }).st := K.sup _ _ h
  have h1 := K.closed.latch Bit.supplyChange _ (K.closed.handConditions _ h0)
  have h2 := K.passes _ (K.closed.owePass _ (K.closed.touch .supply _ h1))
  unfold Machine.changeSupply
  exact K.closed.recomputeTarget trivial _ (K.closed.compareLinger trivial _ h2)

theorem setRadio (standby : Standby) (linger attach poll : Nat) (w : Work) (h : P w.st) :
    P (recomputeTarget (Machine.passes (compareLinger (leaveFault
      (w.onRu (RadioUnit.configure standby linger attach poll w.now)))))).st := by
  have h1 : P (w.onRu (RadioUnit.configure standby linger attach poll w.now)).st := K.ru _ _ ⟨rfl, rfl, rfl⟩ h
  exact K.closed.recomputeTarget trivial _ (K.passes _ (K.closed.compareLinger trivial _ (K.closed.leaveFault trivial _ h1)))

/-- A property that passes keep and every operation that leaves bindings is kept by every command. -/
theorem upheld : Upheld B P where
  closed := { K.closed.weaken with classes := K.closed.classes, flows := K.closed.flows }
  exch := K.exch
  mem := K.mem
  gens := K.gens
  path := K.path
  fin := K.fin
  ru := fun s r h => K.ru s r h.toCountsStay
  steer := fun s t _ => K.steer s t
  classes := K.classes
  times := K.times
  receive := K.receive
  allow := K.allow
  sup := fun s m _ => K.sup s m
  ev := K.ev
  tick := K.tick
  resolve := K.resolve
  shaped := K.shaped
  decay := K.decay
  settle := fun p => K.closed.settle p (Or.inr trivial)
  linkOnly := fun p => K.closed.becameLinkOnly p (Or.inr trivial) (Or.inl trivial)
  release := fun p => K.closed.releaseSuppressed p (Or.inr trivial) (Or.inl trivial)
  watch := K.closed.watchFibre trivial
  available := K.closed.fibreSettled trivial
  hold := fun _ _ _ hs _ => K.hold _ _ hs
  endHold := fun r w => K.closed.endHold r w (Or.inl trivial)
  drill := K.drill
  passes := K.passes
  demand := K.closed.recomputeDemand trivial
  configured := K.setRadio
  released := fun w h => K.closed.recomputeTarget trivial _ (K.closed.stopLinger trivial w h)
  lingered := fun w h => K.closed.recomputeTarget trivial _ (K.closed.compareLinger trivial w h)
  supplied := K.changeSupply
  started := K.startService
  stopped := fun w _ => K.stopService w
  opened := K.opened
  freed := K.freed
  expired := K.expired
  returned := K.returned
  cameBack := K.cameBack
  placed := K.placed

end Kept

/-! ## From whole records to every command -/

/-- A property that every shared operation keeps, whole passes too, is kept by those that leave the paths of classes and
the course of flows. -/
theorem Closed.narrow {F M B G D S : Prop} {P : State → Prop} (C : Closed F M B G D S P) : Closed F M B False D False P where
  path := C.path
  probe := C.probe
  grade := C.grade
  ru := C.ru
  ruEvent := C.ruEvent
  aim := C.aim
  demand := C.demand
  ret := C.ret
  classes := fun s cs hp hc => C.classes s cs hp (Or.inr (hc.resolve_left id))
  hold := C.hold
  flows := fun s fs hi hc => C.flows s fs hi (Or.inr (hc.resolve_left id))
  free := fun h => h.elim
  fwd := C.fwd
  fwdEvent := fun h => h.elim
  allow := C.allow
  drill := C.drill
  ev := C.ev
  fin := C.fin

namespace Owned

variable {B : Prop} {P : State → Prop} (O : Owned P) (C : Closed True True B True True True P)
include O

theorem onFlow (i : Nat) (f : FlowRec → FlowRec) (w : Work) (h : P w.st) : P (w.onFlow i f).st :=
  O.flows _ _ List.length_set h

theorem onFlows (f : List FlowRec → List FlowRec) (w : Work) (hf : (f w.st.flows).length = w.st.flows.length)
    (h : P w.st) : P (w.onFlows f).st := O.flows _ _ hf h

theorem setService (n : Service) (w : Work) (h : P w.st) : P (setService n w).st :=
  O.exch w.st { w.st.exch with service := n } h

include C

theorem freeFlow (i : Nat) (w : Work) (h : P w.st) : P (freeFlow i w).st :=
  C.touch _ _ (C.releaseFrames _ _ (O.onFlow _ _ _ h))

theorem freeFlows (l : List Nat) (w : Work) (h : P w.st) : P (freeFlows l w).st := by
  induction l generalizing w with
  | nil => exact h
  | cons i l ih =>
    refine ih _ ?_
    split
    · exact h
    · exact O.freeFlow C _ _ h

theorem stopSteps (w : Work) (h : P w.st) : P (stopSteps w).st := by
  unfold Machine.stopSteps
  generalize List.range 128 = records
  have h1 := C.handConditions _ (O.freeFlows C records _ (C.endDrill .aborted .stopped _ h))
  have h2 := C.stopLinger trivial _ (C.flushQueue .radio _ (C.endHold .stopped _ (Or.inl trivial) h1))
  have h3 := C.settle .radio (Or.inl rfl) _ (C.settle .fibre (Or.inr trivial) _ (O.setService .config _ h2))
  exact C.backToUp .radio (Or.inl rfl) (Or.inl trivial) _ (C.backToUp .fibre (Or.inr trivial) (Or.inl trivial) _ h3)

theorem expireFlow (i : Nat) (w : Work) (h : P w.st) : P (expireFlow i w).st :=
  C.oweDemand _ (C.handConditions _ (C.releaseFrames _ _ (O.onFlow _ _ _ h)))

theorem returnFlows (cls : Nat) (w : Work) (h : P w.st) : P (returnFlows cls w).st :=
  C.oweDemand _ (C.handConditions _ (O.onFlows _ _ (List.length_map _) h))

theorem gapReturn (i : Nat) (w : Work) (h : P w.st) : P (gapReturn i w).st :=
  C.oweDemand _ (C.handConditions _ (O.onFlow _ _ _ h))

/-- A property that no change of the flow table touches but by its length is kept by every command. -/
theorem kept : Kept B P where
  closed := C.narrow
  exch := fun s e _ => O.exch s e
  mem := O.mem
  gens := O.gens
  path := O.path
  fin := O.fin
  ru := O.ru
  steer := O.steer
  classes := fun s cs h => O.classes s cs (length_of_map_eq _ h)
  hold := fun s h _ => O.hold s h
  times := fun s fs h => O.flows s fs (length_of_map_eq _ h)
  receive := fun s f _ => C.fwdEvent trivial s f
  allow := O.allow
  sup := O.sup
  drill := fun s d _ => O.drill s d
  ev := O.ev
  tick := O.tick
  resolve := O.resolve
  shaped := O.shaped
  decay := O.decay
  passes := C.passes trivial trivial
  started := O.setService .service
  stopped := O.stopSteps C
  opened := fun i _ _ w _ _ => O.onFlow i _ w
  freed := O.freeFlow C
  expired := fun i w _ => O.expireFlow C i w
  returned := O.returnFlows C
  cameBack := fun i w _ => O.gapReturn C i w
  placed := fun path cls flow d w _ => C.placeOutbound trivial path cls flow d w

end Owned

end Sys2Proof.Machine
end


section
/-! Invariants that every step keeps: the canonical form of the exchange memory, the agreement of the allowance meter's
fields, the bounds of all stores, and the EVENTS latch between two reads. -/

namespace Sys2Proof.Machine

/-! ## The exchange memory -/

def State.memCanonical (s : State) : Prop := Memory.wf s.mem = true

theorem closed_memCanonical : Closed True True True True True True State.memCanonical where
  path := by intro s p f _ _ h; cases p <;> exact h
  probe := by intro _ s p f _ _ h; cases p <;> exact h
  grade := fun _ _ _ h => h
  ru := fun _ _ _ h => h
  ruEvent := fun _ _ _ _ h => h
  aim := fun _ _ _ _ _ h => h
  demand := fun _ _ _ _ h => h
  ret := fun _ _ _ _ h => h
  classes := fun _ _ _ _ h => h
  hold := fun _ _ _ h => h
  flows := fun _ _ _ _ h => h
  free := fun _ _ _ _ h => h
  fwd := fun _ _ _ h => h
  fwdEvent := fun _ _ _ _ h => h
  allow := fun _ _ h => h
  drill := fun _ _ _ h => h
  ev := fun _ _ _ h => h
  fin := fun _ _ _ _ _ h => h

theorem reported_memCanonical : Reported State.memCanonical where
  counts := fun _ _ h => h
  flowChanges := fun _ _ h => h
  classes := fun _ _ _ h => h
  flows := fun _ _ _ h => h
  irq := fun _ _ h => h

theorem owned_memCanonical : Owned State.memCanonical where
  exch := fun _ _ h => h
  mem := fun _ _ hm h => hm h
  gens := fun _ _ h => h
  path := by intro s p f _ h; cases p <;> exact h
  fin := fun _ _ h => h
  ru := fun _ _ _ h => h
  steer := fun _ _ h => h
  classes := fun _ _ _ h => h
  hold := fun _ _ h => h
  flows := fun _ _ _ h => h
  allow := fun _ _ _ h => h
  sup := fun _ _ h => h
  drill := fun _ _ h => h
  ev := fun _ _ _ h => h
  tick := fun g p => closed_memCanonical.offerTick trivial g p (Or.inr trivial)
  resolve := fun p => closed_memCanonical.resolveProbe trivial p (Or.inr trivial)
  shaped := fun p => closed_memCanonical.takeProbeShaped trivial p (Or.inr trivial)
  decay := fun p => closed_memCanonical.decayTick trivial p (Or.inr trivial)

theorem timeless_memCanonical : Timeless State.memCanonical where
  ev := fun _ _ h => h
  reset := fun _ _ _ => rfl
  init := fun _ _ _ => rfl
  clk := fun _ _ h => h
  queue := fun _ _ _ h => h

/-- Settles O56: only bus writes and the answers of orders change the memory, and both are writes of bytes. -/
theorem memoryStaysCanonical : Obligations.MemoryStaysCanonical := by
  unfold Obligations.MemoryStaysCanonical
  exact fun _ _ => (owned_memCanonical.kept closed_memCanonical).upheld.step reported_memCanonical timeless_memCanonical

/-! ## The allowance meter -/

def State.allowSound (s : State) : Prop := s.allow.sound

theorem closed_allowSound : Closed True True True True True True State.allowSound where
  path := by intro s p f _ _ h; cases p <;> exact h
  probe := by intro _ s p f _ _ h; cases p <;> exact h
  grade := fun _ _ _ h => h
  ru := fun _ _ _ h => h
  ruEvent := fun _ _ _ _ h => h
  aim := fun _ _ _ _ _ h => h
  demand := fun _ _ _ _ h => h
  ret := fun _ _ _ _ h => h
  classes := fun _ _ _ _ h => h
  hold := fun _ _ _ h => h
  flows := fun _ _ _ _ h => h
  free := fun _ _ _ _ h => h
  fwd := fun _ _ _ h => h
  fwdEvent := fun _ _ _ _ h => h
  allow := fun s n h => added_sound n s.allow h
  drill := fun _ _ _ h => h
  ev := fun _ _ _ h => h
  fin := fun _ _ _ _ _ h => h

theorem reported_allowSound : Reported State.allowSound where
  counts := fun _ _ h => h
  flowChanges := fun _ _ h => h
  classes := fun _ _ _ h => h
  flows := fun _ _ _ h => h
  irq := fun _ _ h => h

theorem owned_allowSound : Owned State.allowSound where
  exch := fun _ _ h => h
  mem := fun _ _ _ h => h
  gens := fun _ _ h => h
  path := by intro s p f _ h; cases p <;> exact h
  fin := fun _ _ h => h
  ru := fun _ _ _ h => h
  steer := fun _ _ h => h
  classes := fun _ _ _ h => h
  hold := fun _ _ h => h
  flows := fun _ _ _ h => h
  allow := fun _ _ ha h => ha h
  sup := fun _ _ h => h
  drill := fun _ _ h => h
  ev := fun _ _ _ h => h
  tick := fun g p => closed_allowSound.offerTick trivial g p (Or.inr trivial)
  resolve := fun p => closed_allowSound.resolveProbe trivial p (Or.inr trivial)
  shaped := fun p => closed_allowSound.takeProbeShaped trivial p (Or.inr trivial)
  decay := fun p => closed_allowSound.decayTick trivial p (Or.inr trivial)

theorem started_sound (warm : Bool) (a : Allowance) (h : a.sound) : (a.started warm).sound := by
  obtain ⟨h1, h2, h3, h4, h5, h6, h7, h8, h9, h10, h11, h12⟩ := h
  cases warm
  · exact ⟨h1, h2, h3, h4, h5, h6, h7, h8, h9, h10, h11, h12⟩
  · exact ⟨h1, h2, h3, h4, h5, h6, h7, h8, h9, rfl, h11, fun hl => h12 (h10.trans hl)⟩

theorem timeless_allowSound : Timeless State.allowSound where
  ev := fun _ _ h => h
  reset := by
    intro b s h
    cases b
    · exact reset_sound
    · exact h
  init := fun s _ h => started_sound s.exch.warm s.allow h
  clk := fun _ _ h => h
  queue := fun _ _ _ h => h

/-- Settles O58: additions, the two orders and the end of INIT restage the meter; a warm reset keeps it. -/
theorem allowanceStaysSound : Obligations.AllowanceStaysSound := by
  unfold Obligations.AllowanceStaysSound
  exact fun _ _ => (owned_allowSound.kept closed_allowSound).upheld.step reported_allowSound timeless_allowSound

/-! ## Stores, windows, penalties and counts -/

theorem graded_of_settings {r r' : PathRec} (h : SettingsStep r r') (hr : r.graded) : r'.graded := by
  obtain ⟨h1, h2, h3, h4, h5⟩ := hr
  exact ⟨h.window ▸ h1, h.failCount ▸ h2, h.failLimit h3, h.penalty ▸ h4, by rw [h.usableFlag, h.state, h5]⟩

theorem inRange_of_counts {r r' : RadioUnit} (h : CountsStay r r') (hr : r.inRange) : r'.inRange :=
  ⟨h.attachTimeouts ▸ hr.1, h.resets ▸ hr.2.1, h.b ▸ hr.2.2⟩

theorem owned_blocksInRange : Owned State.blocksInRange where
  exch := fun _ _ h => h
  mem := fun _ _ _ h => h
  gens := fun _ _ h => h
  path := by
    rintro s p f hf ⟨h1, h2, h3, h4, h5⟩
    cases p
    · exact ⟨h1, h2, graded_of_settings hf h3, h4, h5⟩
    · exact ⟨h1, h2, h3, graded_of_settings hf h4, h5⟩
  fin := fun _ _ h => h
  ru := fun _ _ hr ⟨h1, h2, h3, h4, h5⟩ => ⟨h1, h2, h3, h4, inRange_of_counts hr h5⟩
  steer := fun _ _ h => h
  classes := fun _ _ hc ⟨h1, h2⟩ => ⟨⟨hc.trans h1.1, h1.2⟩, h2⟩
  hold := fun _ _ h => h
  flows := fun _ _ hf ⟨h1, h2⟩ => ⟨⟨h1.1, hf.trans h1.2⟩, h2⟩
  allow := fun _ _ _ h => h
  sup := fun _ _ h => h
  drill := fun _ _ h => h
  ev := fun _ _ _ h => h
  tick := fun g p => closed_blocksInRange.offerTick trivial g p (Or.inr trivial)
  resolve := fun p => closed_blocksInRange.resolveProbe trivial p (Or.inr trivial)
  shaped := fun p => closed_blocksInRange.takeProbeShaped trivial p (Or.inr trivial)
  decay := fun p => closed_blocksInRange.decayTick trivial p (Or.inr trivial)

theorem reset_inRange : State.reset.blocksInRange := ((withinBounds_iff State.reset).mp reset_withinBounds).1

theorem resetTo_blocksInRange (b : Bool) (s : State) : (resetTo b s).blocksInRange := by
  obtain ⟨h1, h2, h3, h4, h5⟩ := reset_inRange
  exact ⟨h1, h2, h3, h4, h5⟩

theorem timeless_blocksInRange : Timeless State.blocksInRange where
  ev := fun _ _ h => h
  reset := fun b s _ => resetTo_blocksInRange b s
  init := by
    rintro s _ ⟨⟨h1, h2⟩, h3, h4, h5, h6⟩
    exact ⟨⟨(List.length_map _).trans h1, (List.length_map _).trans h2⟩, h3, h4, h5, h6⟩
  clk := fun _ _ h => h
  queue := fun _ _ _ h => h

theorem owned_pendingFits : Owned State.pendingFits where
  exch := fun _ _ h => h
  mem := fun _ _ _ h => h
  gens := fun _ _ h => h
  path := by
    rintro s p f hf ⟨h1, h2⟩
    cases p
    · exact ⟨(congrArg List.length hf.probes).trans_le h1, h2⟩
    · exact ⟨h1, (congrArg List.length hf.probes).trans_le h2⟩
  fin := fun _ _ h => h
  ru := fun _ _ _ h => h
  steer := fun _ _ h => h
  classes := fun _ _ _ h => h
  hold := fun _ _ h => h
  flows := fun _ _ _ h => h
  allow := fun _ _ _ h => h
  sup := fun _ _ h => h
  drill := fun _ _ h => h
  ev := fun _ _ _ h => h
  tick := offerTick_pendingFits
  resolve := resolveProbe_pendingFits
  shaped := takeProbeShaped_pendingFits
  decay := decayTick_pendingFits

theorem timeless_pendingFits : Timeless State.pendingFits where
  ev := fun _ _ h => h
  reset := fun _ _ _ => ⟨Nat.zero_le 4, Nat.zero_le 4⟩
  init := fun _ _ h => h
  clk := fun _ _ h => h
  queue := fun _ _ _ h => h

theorem step_withinBounds {s t : State} (hx : step s = .next t) (h : s.withinBounds) : t.withinBounds := by
  obtain ⟨hblocks, hpending⟩ := (withinBounds_iff s).mp h
  exact (withinBounds_iff t).mpr
    ⟨(owned_blocksInRange.kept closed_blocksInRange).upheld.step reported_blocksInRange timeless_blocksInRange hx hblocks,
      (owned_pendingFits.kept closed_pendingFits).upheld.step reported_pendingFits timeless_pendingFits hx hpending⟩

/-! ## The EVENTS latch (R187) -/

theorem latched_of_latch {m : Word} {s t : State} (h : t.ev.latch = s.ev.latch) (hs : latched m s) : latched m t := by
  unfold latched at *
  rw [h, hs]

theorem owned_latched (m : Word) : Owned (latched m) where
  exch := fun _ _ h => h
  mem := fun _ _ _ h => h
  gens := fun _ _ h => h
  path := by intro s p f _ h; cases p <;> exact h
  fin := fun _ _ h => h
  ru := fun _ _ _ h => h
  steer := fun _ _ h => h
  classes := fun _ _ _ h => h
  hold := fun _ _ h => h
  flows := fun _ _ _ h => h
  allow := fun _ _ _ h => h
  sup := fun _ _ h => h
  drill := fun _ _ h => h
  ev := fun _ _ he h => latched_of_latch he h
  tick := fun g p => (closed_latched True True True True True m).offerTick trivial g p (Or.inr trivial)
  resolve := fun p => (closed_latched True True True True True m).resolveProbe trivial p (Or.inr trivial)
  shaped := fun p => (closed_latched True True True True True m).takeProbeShaped trivial p (Or.inr trivial)
  decay := fun p => (closed_latched True True True True True m).decayTick trivial p (Or.inr trivial)

/-- Every ordinary command keeps what the latch holds. -/
theorem exec_latched {c : Instr} {s t : State} (hc : ordinary c) (hx : exec c s = .next t) :
    latched s.ev.latch t :=
  ((owned_latched s.ev.latch).kept (closed_latched True True True True True _)).upheld.exec (reported_latched _) hc hx
    (latched_self s)

theorem getLsbD_of_latched {m : Word} {t : State} {k : Nat} (h : latched m t) (hk : m.getLsbD k = true) :
    t.ev.latch.getLsbD k = true := by
  have h1 := congrArg (fun v => v.getLsbD k) h
  simp only [BitVec.getLsbD_and, hk, Bool.true_and] at h1
  exact h1

theorem execEventsRead_ignored {width : Nat} {s : State} (h : width ≠ 4 ∨ s.exch.service = .init) :
    exec (.eventsRead width) s = .next { s with exch := { s.exch with readData := 0 } } :=
  if_pos h.symm

/-- A read of EVENTS by a state whose condition bits stand: the latch on the bus, and nothing left of it. -/
theorem execEventsRead_plain {s : State} (h : s.current) :
    ∃ t, exec (.eventsRead 4) s = .next t ∧
      t.plain = { s with
        exch := { s.exch with readData := s.ev.latch }, ev := { s.ev with latch := 0, irq := false } }.plain := by
  obtain ⟨hinit, hcond, -⟩ := h
  refine ⟨_, if_neg (by simp [hinit]), ?_⟩
  rw [event_plain _ s hinit rfl rfl (countFlowChanges_self _), handed_of_cond _ (by exact hcond)]
  simp [refreshIrq, irqLevel, Work.onExch, Work.onEv, Work.begin]

/-- Settles O9: `execEventsRead_plain`, and `exec_latched` bit by bit. -/
theorem eventsStayUntilRead : Obligations.EventsStayUntilRead := by
  unfold Obligations.EventsStayUntilRead
  refine ⟨fun width s => ⟨execEventsRead_plain, execEventsRead_ignored⟩, ?_⟩
  intro c s t k hx hk hc
  refine getLsbD_of_latched (exec_latched ?_ hx) hk
  cases c <;> exact hc

end Sys2Proof.Machine
end


section
/-! What the shared operations do to the event unit and to the update counts, said once. An event reaches the latch and
the condition set by two operations only, `latch` and `handConditions`; every other change of it is quiet: it leaves the
event unit and all update counts. A property of the work under way that these three kinds of change keep (`Steady`) is
kept by every shared operation. -/

namespace Sys2Proof.Machine

/-- A change that leaves the exchange memory, the event unit, every update count, and INIT apart from the other service
states. -/
structure Quiet (s t : State) : Prop where
  mem : t.mem = s.mem
  ev : t.ev = s.ev
  counts : t.counts = s.counts
  classes : t.classes.map ClassRec.count = s.classes.map ClassRec.count
  flows : t.flows.map FlowRec.count = s.flows.map FlowRec.count
  service : t.exch.service = .init → s.exch.service = .init

/-- The properties of a state under way that every shared operation keeps. -/
structure Steady (Q : State → Prop) : Prop where
  quiet : ∀ s t, Quiet s t → Q s → Q t
  latched : ∀ i w, i < 16 → Q w.st → Q (latch i w).st
  handed : ∀ w, Q w.st → Q (handConditions w).st

theorem become_count (n : FlowState) (f : FlowRec) : (f.become n).count = f.count := by
  unfold FlowRec.become
  split
  · rfl
  · cases n <;> rfl

theorem followClass_count (s : State) (new : ClassPath) (f : FlowRec) : (followClass s new f).count = f.count := by
  unfold followClass
  dsimp only
  split
  · rfl
  · split
    · split
      · rfl
      · exact become_count _ f
    · split
      · rfl
      · exact become_count _ f

theorem takePath_count (now : Time) (n : ClassPath) (c : ClassRec) : (c.takePath now n).count = c.count := by
  unfold ClassRec.takePath
  split <;> rfl

theorem addBytes_count (n : Nat) (f : FlowRec) : (f.addBytes n).count = f.count := by
  unfold FlowRec.addBytes
  split <;> rfl

namespace Steady

variable {Q : State → Prop} (S : Steady Q)
include S

/-! ## Updates of one block -/

theorem onPath (p : Path) (f : PathRec → PathRec) (w : Work) (h : Q w.st) : Q (w.onPath p f).st := by
  refine S.quiet w.st _ ?_ h
  cases p <;> exact ⟨rfl, rfl, rfl, rfl, rfl, id⟩

theorem onGens (f : Generators → Generators) (w : Work) (h : Q w.st) : Q (w.onGens f).st :=
  S.quiet w.st _ ⟨rfl, rfl, rfl, rfl, rfl, id⟩ h

theorem onFin (f : FibreIn → FibreIn) (w : Work) (h : Q w.st) : Q (w.onFin f).st :=
  S.quiet w.st _ ⟨rfl, rfl, rfl, rfl, rfl, id⟩ h

theorem onGrade (f : GradeState → GradeState) (w : Work) (h : Q w.st) : Q (w.onGrade f).st :=
  S.quiet w.st _ ⟨rfl, rfl, rfl, rfl, rfl, id⟩ h

theorem onRu (f : RadioUnit → RadioUnit) (w : Work) (h : Q w.st) : Q (w.onRu f).st :=
  S.quiet w.st _ ⟨rfl, rfl, rfl, rfl, rfl, id⟩ h

theorem onSteer (f : Steering → Steering) (w : Work) (h : Q w.st) : Q (w.onSteer f).st :=
  S.quiet w.st _ ⟨rfl, rfl, rfl, rfl, rfl, id⟩ h

theorem onHold (f : Hold → Hold) (w : Work) (h : Q w.st) : Q (w.onHold f).st :=
  S.quiet w.st _ ⟨rfl, rfl, rfl, rfl, rfl, id⟩ h

theorem onFwd (f : Forwarding → Forwarding) (w : Work) (h : Q w.st) : Q (w.onFwd f).st :=
  S.quiet w.st _ ⟨rfl, rfl, rfl, rfl, rfl, id⟩ h

theorem onAllow (f : Allowance → Allowance) (w : Work) (h : Q w.st) : Q (w.onAllow f).st :=
  S.quiet w.st _ ⟨rfl, rfl, rfl, rfl, rfl, id⟩ h

theorem onSup (f : SupplyMonitor → SupplyMonitor) (w : Work) (h : Q w.st) : Q (w.onSup f).st :=
  S.quiet w.st _ ⟨rfl, rfl, rfl, rfl, rfl, id⟩ h

theorem onDrill (f : Drill → Drill) (w : Work) (h : Q w.st) : Q (w.onDrill f).st :=
  S.quiet w.st _ ⟨rfl, rfl, rfl, rfl, rfl, id⟩ h

theorem onExch (f : Exchange → Exchange) (w : Work)
    (hf : (f w.st.exch).service = .init → w.st.exch.service = .init) (h : Q w.st) : Q (w.onExch f).st :=
  S.quiet w.st _ ⟨rfl, rfl, rfl, rfl, rfl, hf⟩ h

theorem onClasses (f : List ClassRec → List ClassRec) (w : Work)
    (hf : (f w.st.classes).map ClassRec.count = w.st.classes.map ClassRec.count) (h : Q w.st) : Q (w.onClasses f).st :=
  S.quiet w.st _ ⟨rfl, rfl, rfl, hf, rfl, id⟩ h

theorem onFlows (f : List FlowRec → List FlowRec) (w : Work)
    (hf : (f w.st.flows).map FlowRec.count = w.st.flows.map FlowRec.count) (h : Q w.st) : Q (w.onFlows f).st :=
  S.quiet w.st _ ⟨rfl, rfl, rfl, rfl, hf, id⟩ h

theorem onClass (i : Nat) (f : ClassRec → ClassRec) (w : Work) (hf : ∀ c, (f c).count = c.count) (h : Q w.st) :
    Q (w.onClass i f).st := S.onClasses _ w (map_set_getD _ f _ hf _ i) h

theorem onFlow (i : Nat) (f : FlowRec → FlowRec) (w : Work) (hf : ∀ r, (f r).count = r.count) (h : Q w.st) :
    Q (w.onFlow i f).st := S.onFlows _ w (map_set_getD _ f _ hf _ i) h

theorem onQueue (p : Path) (g : TxQueue → TxQueue) (w : Work) (h : Q w.st) : Q (w.onQueue p g).st := S.onFwd _ w h

theorem onCounts (g : ForwardCounts → ForwardCounts) (w : Work) (h : Q w.st) : Q (w.onCounts g).st := S.onFwd _ w h

omit S in
theorem touch (r : Rec) (w : Work) (h : Q w.st) : Q (w.touch r).st := h
omit S in
theorem touchIf (b : Bool) (r : Rec) (w : Work) (h : Q w.st) : Q (w.touchIf b r).st := h
omit S in
theorem touchAll (rs : List Rec) (w : Work) (h : Q w.st) : Q (w.touchAll rs).st := h
omit S in
theorem owePass (w : Work) (h : Q w.st) : Q w.owePass.st := h
omit S in
theorem oweDemand (w : Work) (h : Q w.st) : Q w.oweDemand.st := h

omit S in
/-- A condition chooses between two continuations of the work. -/
theorem choice {c : Prop} [Decidable c] {v w : Work} (hv : Q v.st) (hw : Q w.st) : Q (if c then v else w).st := by
  split
  · exact hv
  · exact hw

/-! ## Allowance meter and ports -/

theorem restage (w : Work) (h : Q w.st) : Q (restage w).st := by
  have h1 := S.onAllow Allowance.restaged w h
  have h2 := S.handed _ (choice (c := (w.st.allow.liveNow && !w.st.allow.live) = true)
    (S.latched Bit.overrun _ (by decide) h1) h1)
  exact choice h2 (owePass _ (S.latched Bit.stageChange _ (by decide) h2))

theorem addUsed (n : Nat) (w : Work) (h : Q w.st) : Q (addUsed n w).st :=
  S.restage (w.onAllow fun a => { a with used := min (a.used + n) max64 }) (S.onAllow _ w h)

theorem countFlow (b : Option Nat) (n : Nat) (w : Work) (h : Q w.st) : Q (countFlow b n w).st := by
  cases b with
  | none => exact h
  | some i => exact S.onFlow i _ w (addBytes_count n) h

theorem handoff (p : Path) (f : TxFrame) (rest : TxQueue) (w : Work) (h : Q w.st) : Q (handoff p f rest w).st := by
  have h1 := S.onQueue p (fun _ => { rest with sending := some f.data }) w h
  cases p
  · exact h1
  · exact S.addUsed _ _ (S.countFlow _ _ _ h1)

theorem takeNext (p : Path) (w : Work) (h : Q w.st) : Q (takeNext p w).st := by
  unfold Machine.takeNext
  split
  · split
    · exact h
    · exact S.handoff p _ _ w h
  · exact h

theorem enterBand (p : Path) (tier : Nat) (f : TxFrame) (w : Work) (h : Q w.st) : Q (enterBand p tier f w).st :=
  choice (S.onCounts _ w h) (S.takeNext p _ (S.onQueue p _ w h))

theorem flushQueue (p : Path) (w : Work) (h : Q w.st) : Q (flushQueue p w).st := S.onCounts _ _ (S.onQueue p _ w h)

theorem dropBlocked (i : Nat) (w : Work) (h : Q w.st) : Q (dropBlocked i w).st :=
  S.onClass i (fun c => { c with dropped := hold32 (c.dropped + 1) }) w (fun _ => rfl) h

theorem dropHeld (gone : HeldFrame → Bool) (tally : Nat → ForwardCounts → ForwardCounts) (w : Work) (h : Q w.st) :
    Q (dropHeld gone tally w).st :=
  choice h (S.latched Bit.holdDrops _ (by decide) (S.onCounts _ _ (S.onFwd _ w h)))

theorem releaseFrames (i : Nat) (w : Work) (h : Q w.st) : Q (releaseFrames i w).st :=
  S.onQueue .radio _ _ (S.onQueue .fibre _ _ (S.dropHeld _ _ w h))

/-! ## Holds, drills and paths -/

theorem endHold (r : HoldEnd) (w : Work) (h : Q w.st) : Q (endHold r w).st := by
  have h1 := S.onHold (fun h => { h with active := false, stop := w.now, reason := r }) w h
  exact choice (owePass _ (touch .hold _ (S.handed _ (choice (S.latched Bit.holdEnd _ (by decide) h1) h1)))) h

theorem endDrill (o : DrillOutcome) (c : DrillCause) (w : Work) (h : Q w.st) : Q (endDrill o c w).st := by
  have h1 := S.onDrill (fun d => { d with
    running := false, pass := decide (o = .pass), last := drillRecordNow w.st o c }) w h
  have h2 := S.handed _ (S.latched Bit.drillEnd _ (by decide) h1)
  unfold Machine.endDrill
  split
  · dsimp only [oweDemand_st, touch_st]
    exact h2
  · exact h

theorem noteReady (p : Path) (was : Bool) (w : Work) (h : Q w.st) : Q (noteReady p was w).st :=
  choice h (S.latched Bit.readyChange _ (by decide) (S.handed _ h))

theorem settle (p : Path) (w : Work) (h : Q w.st) : Q (settle p w).st :=
  S.noteReady p _ _ (S.onQueue p _ _ (S.onPath p _ w h))

theorem holdSees (p : Path) (o n : PathState) (w : Work) (h : Q w.st) : Q (holdSees p o n w).st := by
  refine choice ?_ h
  cases p
  · exact choice (S.endHold _ w h) h
  · exact choice (S.onHold _ w h) (choice (S.endHold _ w h) h)

theorem returnSees (o n : PathState) (w : Work) (h : Q w.st) : Q (returnSees o n w).st :=
  choice (choice (touch _ _ (S.onSteer _ w h)) (touch _ _ (S.onSteer _ w h)))
    (choice (touch _ _ (S.onSteer _ w h)) h)

theorem enterDown (p : Path) (w : Work) (h : Q w.st) : Q (enterDown p w).st := by
  cases p
  · exact S.flushQueue _ _ (S.settle _ _ h)
  · exact S.settle _ _ h

theorem pathSees (p : Path) (o n : PathState) (w : Work) (h : Q w.st) : Q (pathSees p o n w).st := by
  cases p
  · exact S.returnSees _ _ w h
  · have h1 := choice (c := o = .down) (S.onGrade (fun _ => GradeState.start) w h) h
    exact choice (S.endDrill _ _ _ h1) h1

theorem setPathState (p : Path) (n : PathState) (w : Work) (h : Q w.st) : Q (setPathState p n w).st := by
  have hbit : changeBit p < 16 := by cases p <;> decide
  have h1 := S.onPath p (PathRec.enter n w.now) w h
  have h2 := S.holdSees p (w.st.path p).state n _ (choice (c := n = .down) (S.enterDown p _ h1) h1)
  exact choice h (owePass _ (touch _ _ (S.pathSees p _ _ _ (S.handed _ (S.latched _ _ hbit h2)))))

theorem offerCause (p : Path) (k : Cause) (w : Work) (h : Q w.st) : Q (offerCause p k w).st := by
  have h1 := S.onPath p (fun r => { r with cause := r.cause.offered r.lockFirst k (snapshotOf w.st p) }) w h
  exact choice (S.latched Bit.causeLatched _ (by decide) h1) h1

theorem physicalLoss (p : Path) (w : Work) (h : Q w.st) : Q (physicalLoss p w).st :=
  choice h (S.setPathState p _ _ (choice (S.offerCause p _ _ (S.onPath p _ w h)) h))

theorem physicalAvailability (p : Path) (w : Work) (h : Q w.st) : Q (physicalAvailability p w).st :=
  choice h (choice (S.setPathState p _ w h) (choice (S.setPathState p _ w h) (S.setPathState p _ w h)))

theorem releaseSuppressed (p : Path) (w : Work) (h : Q w.st) : Q (releaseSuppressed p w).st := S.setPathState p _ w h

theorem fallOnScore (p : Path) (k : Cause) (w : Work) (h : Q w.st) : Q (fallOnScore p k w).st :=
  S.setPathState p _ _ (S.offerCause p k _ (S.onPath p _ w h))

theorem judgeUsable (p : Path) (n : Nat) (k : Cause) (w : Work) (h : Q w.st) : Q (judgeUsable p n k w).st := by
  have h1 := S.onPath p (fun r => { r with failCount := 0 }) w h
  refine choice (choice (S.fallOnScore p k w h) (S.setPathState p _ _ (S.onPath p _ w h))) ?_
  exact choice (S.setPathState p _ _ h1) (choice (S.setPathState p _ _ h1) h1)

theorem judge (p : Path) (n : Nat) (k : Cause) (w : Work) (h : Q w.st) : Q (judge p n k w).st := by
  unfold Machine.judge
  split
  · exact choice (S.setPathState p _ w h) h
  · exact S.judgeUsable p n k w h
  · exact S.judgeUsable p n k w h
  · exact h
  · exact h

theorem evaluate (p : Path) (w : Work) (h : Q w.st) : Q (evaluate p w).st :=
  choice (S.judge p _ _ _ (S.onPath p _ w h)) h

theorem becameLinkOnly (p : Path) (was : Bool) (w : Work) (h : Q w.st) : Q (becameLinkOnly p was w).st :=
  choice (S.setPathState p _ w h) h

theorem backToUp (p : Path) (w : Work) (h : Q w.st) : Q (backToUp p w).st := by
  unfold Machine.backToUp
  split
  iterate 3 · exact S.setPathState p _ w h
  all_goals exact h

/-! ## Probes -/

theorem enterResult (p : Path) (x : Result) (w : Work) (h : Q w.st) : Q (enterResult p x w).st :=
  S.evaluate p _ (S.noteReady p _ _ (S.onPath p _ w h))

theorem drainList (p : Path) (l : List Probe) (w : Work) (h : Q w.st) : Q (drainList p l w).st := by
  induction l generalizing w with
  | nil => exact S.onPath p _ w h
  | cons e l ih =>
    unfold Machine.drainList
    split
    · exact S.onPath p _ w h
    · exact ih _ (S.enterResult p _ _ (S.onPath p _ w h))
    · exact ih _ (S.enterResult p _ _ (S.onPath p _ w h))

theorem resolveProbe (p : Path) (q : Half) (res : Resolution) (w : Work) (h : Q w.st) : Q (resolveProbe p q res w).st :=
  S.drainList p _ _ (S.onPath p _ w h)

theorem makeRoom (p : Path) (w : Work) (h : Q w.st) : Q (makeRoom p w).st := by
  unfold Machine.makeRoom
  split
  · exact h
  · exact choice (S.drainList p _ _ (S.onPath p _ w h)) h

theorem sendProbe (p : Path) (w : Work) (h : Q w.st) : Q (sendProbe p w).st :=
  S.takeNext p _ (S.onQueue p _ _ (S.onPath p _ _ (S.makeRoom p w h)))

theorem tickPath (p : Path) (w : Work) (h : Q w.st) : Q (tickPath p w).st :=
  choice (choice (S.sendProbe p _ (S.onPath p _ w h)) (S.onPath p _ w h)) h

theorem offerTick (g : Generator) (p : Path) (w : Work) (h : Q w.st) : Q (offerTick g p w).st := by
  unfold Machine.offerTick
  split
  iterate 2 · exact S.tickPath p w h
  all_goals exact h

/-! ## Radio unit -/

theorem drivePower (w : Work) (h : Q w.st) : Q (drivePower w).st := choice h (S.onRu _ w h)

theorem sendRequest (k : Request) (w : Work) (h : Q w.st) : Q (sendRequest k w).st :=
  touch _ _ (S.onRu (RadioUnit.send k w.now) w h)

theorem leaveSession (w : Work) (h : Q w.st) : Q (leaveSession w).st :=
  S.physicalLoss .radio _ (S.latched Bit.radioState _ (by decide) (S.flushQueue .radio w h))

theorem moveTo (n : RadioState) (w : Work) (h : Q w.st) : Q (moveTo n w).st := by
  have h1 := S.onRu (RadioUnit.enter n w.now) w h
  have h2 := touchIf (decide (w.st.ru.state ≠ n)) .radioUnit _ h1
  unfold Machine.moveTo
  exact S.handed _ (choice (S.leaveSession _ h2) h2)

theorem startTimer (ms : Nat) (w : Work) (h : Q w.st) : Q (startTimer ms w).st := S.onRu _ w h

theorem enterStopping (w : Work) (h : Q w.st) : Q (enterStopping w).st := by
  have h1 := S.moveTo .stopping w h
  unfold Machine.enterStopping
  exact choice (S.startTimer _ _ (S.drivePower _ h1)) (S.moveTo .off _ h1)

theorem actIdle (w : Work) (h : Q w.st) : Q (actIdle w).st := by
  have h1 := S.sendRequest .attach _ (S.moveTo .attaching w h)
  unfold Machine.actIdle
  exact choice (S.enterStopping w h) (choice h1 h)

theorem enterIdle (w : Work) (h : Q w.st) : Q (enterIdle w).st := S.actIdle _ (S.moveTo _ w h)

theorem enterPowering (w : Work) (h : Q w.st) : Q (enterPowering w).st := by
  have h1 := S.moveTo .powering w h
  unfold Machine.enterPowering
  exact choice (S.enterIdle _ h1) (S.startTimer _ _ h1)

theorem actOff (w : Work) (h : Q w.st) : Q (actOff w).st := by
  have h1 := S.startTimer Config.readyWaitMs _ (S.drivePower _ (S.moveTo .powering w h))
  unfold Machine.actOff
  exact choice h (choice (S.enterIdle w h) h1)

theorem enterOff (w : Work) (h : Q w.st) : Q (enterOff w).st := S.actOff _ (S.moveTo _ w h)

theorem actAttached (w : Work) (h : Q w.st) : Q (actAttached w).st := by
  unfold Machine.actAttached
  split
  · exact h
  · exact choice (S.sendRequest _ _ (S.moveTo _ w h)) h
  · exact choice (S.sendRequest _ _ (S.moveTo _ w h)) h

theorem enterAttached (w : Work) (h : Q w.st) : Q (enterAttached w).st := S.actAttached _ (S.onRu _ _ (S.moveTo _ w h))

theorem actSession (w : Work) (h : Q w.st) : Q (actSession w).st := choice (S.sendRequest _ _ (S.moveTo _ w h)) h

theorem enterSession (w : Work) (h : Q w.st) : Q (enterSession w).st :=
  S.actSession _ (S.physicalAvailability .radio _ (S.latched Bit.radioState _ (by decide)
    (S.onRu _ _ (S.moveTo .session w h))))

theorem enterBackoff (w : Work) (h : Q w.st) : Q (enterBackoff w).st :=
  S.startTimer _ _ (S.onRu _ _ (S.moveTo .backoff w h))

theorem enterResetting (w : Work) (h : Q w.st) : Q (enterResetting w).st := by
  have h1 := S.moveTo .resetting w h
  unfold Machine.enterResetting
  exact S.onRu _ _ h1

theorem breakRadioHold (w : Work) (h : Q w.st) : Q (breakRadioHold w).st := choice (S.endHold _ w h) h

theorem enterFault (w : Work) (h : Q w.st) : Q (enterFault w).st := by
  have h1 := S.latched Bit.radioFault _ (by decide)
    (S.onRu (fun r => { r with pwr := Pulse.idle, mrst := Pulse.idle }) _ (S.moveTo .fault w h))
  exact owePass _ (S.breakRadioHold _ (S.endDrill _ _ _ h1))

theorem exitFault (w : Work) (h : Q w.st) : Q (exitFault w).st :=
  owePass _ (touch _ _ (S.latched Bit.radioFault _ (by decide)
    (S.onRu (fun r => { r with attachTimeouts := 0, resets := 0, b := 10 }) w h)))

theorem leaveFault (w : Work) (h : Q w.st) : Q (leaveFault w).st := choice (S.moveTo _ _ (S.exitFault w h)) h

theorem tier0Restart (w : Work) (h : Q w.st) : Q (tier0Restart w).st := choice (S.enterResetting _ (S.exitFault w h)) h

theorem act (w : Work) (h : Q w.st) : Q (act w).st := by
  unfold Machine.act
  split
  · exact S.actOff w h
  · exact S.actIdle w h
  · exact S.actAttached w h
  · exact S.actSession w h
  all_goals exact h

theorem serveLink (w : Work) (h : Q w.st) : Q (serveLink w).st := by
  have h1 := S.act w h
  exact choice (choice (S.sendRequest _ _ (S.onRu _ _ h1)) h1) h

theorem gradeSees (v : Option Nat) (w : Work) (h : Q w.st) : Q (gradeSees v w).st := by
  have h1 := touchIf (decide (w.st.grade.take v ≠ w.st.grade)) (.path .radio) _ (S.onGrade (fun g => g.take v) w h)
  exact choice h1 (S.evaluate .radio _ h1)

theorem reportSignal (v : Option Nat) (w : Work) (h : Q w.st) : Q (reportSignal v w).st := by
  have h1 := touchIf (decide (w.st.ru.grade ≠ v)) .radioUnit _
    (S.onRu (fun r => { r with grade := v, gradeTime := w.now }) w h)
  exact choice h1 (S.gradeSees v _ h1)

theorem clearRequest (w : Work) (h : Q w.st) : Q (clearRequest w).st := S.onRu _ w h

theorem countDiscard (w : Work) (h : Q w.st) : Q (countDiscard w).st := S.onRu _ w h

theorem resyncStep (k : Request) (w : Work) (h : Q w.st) : Q (resyncStep k w).st := by
  unfold Machine.resyncStep
  split
  · exact S.sendRequest _ w h
  · exact S.enterIdle w h
  all_goals exact h

theorem okTo (k : Request) (w : Work) (h : Q w.st) : Q (okTo k w).st := by
  unfold Machine.okTo
  split
  · exact S.enterAttached _ (S.onRu _ w h)
  · exact S.enterSession w h
  · exact S.enterAttached w h
  · exact S.enterIdle w h
  · exact S.resyncStep _ w h
  · exact h

theorem refusedTo (k : Request) (w : Work) (h : Q w.st) : Q (refusedTo k w).st := by
  unfold Machine.refusedTo
  split
  · exact S.enterBackoff _ (S.onRu _ w h)
  · exact S.enterBackoff w h
  · exact S.enterAttached w h
  · exact S.enterIdle w h
  · exact S.resyncStep _ w h
  · exact h

theorem attachTimedOut (w : Work) (h : Q w.st) : Q (attachTimedOut w).st := by
  have h1 := S.onRu (fun r => { r with attachTimeouts := min 3 (r.attachTimeouts + 1) }) w h
  exact choice (S.enterResetting _ h1) (S.enterBackoff _ h1)

theorem timeoutOf (k : Request) (w : Work) (h : Q w.st) : Q (timeoutOf k w).st := by
  unfold Machine.timeoutOf
  split
  · exact S.attachTimedOut w h
  · exact S.enterBackoff w h
  · exact S.enterResetting w h
  · exact S.enterResetting w h
  · exact S.resyncStep _ w h
  · exact h

theorem takeOk (w : Work) (h : Q w.st) : Q (takeOk w).st := by
  unfold Machine.takeOk
  split
  · exact S.countDiscard w h
  · have h1 := S.clearRequest w h
    exact choice (S.countDiscard w h) (S.serveLink _ (choice h1 (S.okTo _ _ h1)))

theorem takeRefused (reason : Byte) (w : Work) (h : Q w.st) : Q (takeRefused reason w).st := by
  unfold Machine.takeRefused
  split
  · exact S.countDiscard w h
  · rename_i o _
    have h1 := S.clearRequest w h
    have h2 := choice (c := o.stale = true) h1
      (S.onRu (fun r => { r with refusalReason := reason, refusalKind := some o.kind }) _ h1)
    exact choice (S.serveLink _ (S.reportSignal none _ h2)) (S.serveLink _ (choice h2 (S.refusedTo _ _ h2)))

theorem takeSignal (grade : Byte) (w : Work) (h : Q w.st) : Q (takeSignal grade w).st := by
  unfold Machine.takeSignal
  split
  · exact S.countDiscard w h
  · exact choice (S.serveLink _ (S.reportSignal _ _ (S.clearRequest w h))) (S.countDiscard w h)

theorem takeTimeout (o : Outstanding) (w : Work) (h : Q w.st) : Q (takeTimeout o w).st := by
  have h1 := S.clearRequest w h
  exact choice (S.serveLink _ (S.reportSignal _ _ h1)) (S.serveLink _ (choice h1 (S.timeoutOf _ _ h1)))

theorem takeSessionClosed (w : Work) (h : Q w.st) : Q (takeSessionClosed w).st := by
  unfold Machine.takeSessionClosed
  split
  iterate 2 · exact S.enterAttached w h
  all_goals exact h

theorem takeDetached (w : Work) (h : Q w.st) : Q (takeDetached w).st := by
  unfold Machine.takeDetached
  split
  iterate 5 · exact S.enterIdle w h
  all_goals exact h

theorem takeMessage (m : LinkMessage) (w : Work) (h : Q w.st) : Q (takeMessage m w).st := by
  cases m with
  | ok => exact S.takeOk w h
  | refused reason => exact S.takeRefused reason w h
  | signalAnswer grade => exact S.takeSignal grade w h
  | sessionClosed => exact S.takeSessionClosed w h
  | detached => exact S.takeDetached w h
  | signalIndication grade => exact S.reportSignal _ w h

theorem takeReceived (l : List Received) (w : Work) (h : Q w.st) : Q (takeReceived l w).st := by
  induction l generalizing w with
  | nil => exact h
  | cons r l ih =>
    cases r
    · exact ih _ (S.takeMessage _ w h)
    · exact ih _ (S.countDiscard w h)

theorem endSilence (w : Work) (h : Q w.st) : Q (endSilence w).st := choice (S.takeReceived _ _ (S.onRu _ w h)) h

theorem receiveBytes (bytes : List Byte) (w : Work) (h : Q w.st) : Q (receiveBytes bytes w).st :=
  S.takeReceived _ _ (S.onRu _ _ (S.endSilence w h))

theorem takeFrame (m : LinkMessage) (w : Work) (h : Q w.st) : Q (takeFrame m w).st := S.receiveBytes _ w h

theorem answerTimedOut (w : Work) (h : Q w.st) : Q (answerTimedOut w).st := by
  unfold Machine.answerTimedOut
  split
  · exact h
  · exact S.takeTimeout _ w h

theorem readyChanged (w : Work) (h : Q w.st) : Q (readyChanged w).st := by
  unfold Machine.readyChanged
  split
  · split
    · exact S.enterIdle w h
    all_goals exact h
  · split
    iterate 8 · exact S.enterPowering w h
    · exact choice (S.enterOff w h) h
    · exact S.enterOff w h
    all_goals exact h

theorem setReady (f : RadioUnit → RadioUnit) (w : Work) (h : Q w.st) : Q (setReady f w).st := by
  have h1 := S.onRu f w h
  exact choice h1 (S.readyChanged _ h1)

theorem resetPulseEnded (w : Work) (h : Q w.st) : Q (resetPulseEnded w).st := by
  unfold Machine.resetPulseEnded
  split
  · exact choice (S.enterPowering w h) (S.enterFault w h)
  · exact choice (S.enterOff w h) h
  all_goals exact h

theorem pulseEnds (line : PulseLine) (w : Work) (h : Q w.st) : Q (pulseEnds line w).st := by
  cases line
  · exact touch _ _ (S.onRu (fun r => { r with pwr := r.pwr.finish w.now r.lines.pwrWidth }) w h)
  · have h1 := touch .radioUnit _ (S.onRu (fun r => { r with mrst := r.mrst.finish w.now r.lines.mrstWidth }) w h)
    exact choice h1 (S.resetPulseEnded _ h1)

theorem pollDue (due : Time) (w : Work) (h : Q w.st) : Q (pollDue due w).st := by
  have h1 := S.onRu (fun r => { r with pollDue := some (later due (r.poll * 1000)) }) w h
  unfold Machine.pollDue
  dsimp only
  split
  · exact choice h1 (S.sendRequest _ _ h1)
  · exact choice h1 (S.onRu _ _ h1)

/-! ## Target, demand and the steering pass -/

theorem setTarget (w : Work) (h : Q w.st) : Q (setTarget w).st := 
  touchIf _ _ _ (S.onRu (fun r => { r with target := w.st.targetNow }) w h)

theorem recomputeTarget (w : Work) (h : Q w.st) : Q (recomputeTarget w).st := by
  have h1 := S.setTarget w h
  exact choice (choice (S.enterIdle _ h1) h1) (S.act _ h1)

theorem stopLinger (w : Work) (h : Q w.st) : Q (stopLinger w).st :=
  touchIf _ _ _ (S.onRu (fun r => { r with lingerOn := false }) w h)

theorem compareLinger (w : Work) (h : Q w.st) : Q (compareLinger w).st := choice (S.stopLinger w h) h

theorem lingerSees (o n : Bool) (w : Work) (h : Q w.st) : Q (lingerSees o n w).st :=
  choice (S.stopLinger w h) 
    (choice (touch _ _ (S.onRu (fun r => { r with lingerOn := true, lingerStart := w.now }) w h)) h)

theorem urgencySees (o n : Bool) (w : Work) (h : Q w.st) : Q (urgencySees o n w).st :=
  choice (S.enterIdle _ (S.setTarget w h)) (S.recomputeTarget w h)

theorem recomputeDemand (w : Work) (h : Q w.st) : Q (recomputeDemand w).st := by
  have h1 := S.onSteer (fun t => { t with demand := w.st.wantsSession, urgent := w.st.wantsUrgently }) w h
  exact S.urgencySees _ _ _ (S.lingerSees _ _ _ (touchIf _ _ _ h1))

theorem classStep (w : Work) (h : Q w.st) : Q (classStep w).st := by
  have h1 := S.onClasses (fun cs => cs.map fun c => c.takePath w.st.now (decideClass w.st c)) w
    (map_map_keep _ _ (fun c => takePath_count _ _ c) _) h
  exact choice h1 (S.latched Bit.classMove _ (by decide) (touchAll _ _ h1))

theorem flowStep (s0 : State) (w : Work) (h : Q w.st) : Q (flowStep s0 w).st :=
  touchAll _ _ <| S.onFlows _ _ (map_map_keep _ _ (fun f => followClass_count _ _ f) _) h

theorem releaseHeld (x : HeldFrame) (w : Work) (h : Q w.st) : Q (releaseHeld x w).st := by
  have hband : ∀ p, Q (placeFrame p x.cls x.flow x.data w).st := fun p => S.enterBand p _ _ w h
  have honto : ∀ p, Q (if w.st.bandFull p (w.st.cls x.cls).tier then
      latch Bit.holdDrops (placeFrame p x.cls x.flow x.data w) else placeFrame p x.cls x.flow x.data w).st :=
    fun p => choice (S.latched Bit.holdDrops _ (by decide) (hband p)) (hband p)
  unfold Machine.releaseHeld
  dsimp only
  split
  · exact honto .fibre
  · exact honto .radio
  · exact h
  · exact S.latched Bit.holdDrops _ (by decide) (S.dropBlocked _ w h)

theorem releaseAll (l : List HeldFrame) (w : Work) (h : Q w.st) : Q (releaseAll l w).st := by
  induction l generalizing w with
  | nil => exact h
  | cons x l ih => exact ih _ (S.releaseHeld x w h)

theorem releaseStep (s0 : State) (w : Work) (h : Q w.st) : Q (releaseStep s0 w).st := S.releaseAll _ _ (S.onFwd _ w h)

theorem drillStep (w : Work) (h : Q w.st) : Q (drillStep w).st := choice (S.endDrill _ _ w h) h

theorem steeringPass (w : Work) (h : Q w.st) : Q (steeringPass w).st :=
  S.recomputeDemand _ (S.drillStep _ (S.releaseStep _ _ (S.handed _ (S.flowStep _ _ (S.classStep w h)))))

theorem runPasses (n : Nat) (w : Work) (h : Q w.st) : Q (runPasses n w).st := by
  induction n generalizing w with
  | zero => exact h
  | succ n ih => exact choice (ih _ (S.steeringPass _ h)) (choice (ih _ (S.recomputeDemand _ h)) h)

theorem passes (w : Work) (h : Q w.st) : Q (passes w).st := S.runPasses _ w h

end Steady

end Sys2Proof.Machine
end


section
/-! What the commands do to the event unit and to the update counts: each command is one event whose work is steady
(`Steady`), or it leaves both, or it is a reset or the end of INIT. -/

namespace Sys2Proof.Machine

namespace Steady

variable {Q : State → Prop} (S : Steady Q)
include S

/-! ## The commands' own work -/

theorem beginSweep (w : Work) (h : Q w.st) : Q (beginSweep w).st := S.onExch _ w id h

theorem takeNudge (w : Work) (h : Q w.st) : Q (takeNudge w).st := by
  unfold Machine.takeNudge
  split
  · exact S.beginSweep w h
  · exact S.onExch _ w id h

theorem takeSweepTimer (w : Work) (h : Q w.st) : Q (takeSweepTimer w).st := by
  have h1 := S.onExch (fun e => { e with sweepDue := later e.sweepDue e.interval }) w id h
  unfold Machine.takeSweepTimer
  dsimp only
  split
  · exact S.beginSweep _ h1
  · exact h1

theorem endSweep (w : Work) (h : Q w.st) : Q (endSweep w).st := by
  have h1 := S.onExch (fun e =>
    { e with sweep := none, sweepDone := false, nudgePending := false, sweepCount := e.sweepCount + 1 }) w id h
  have h2 := choice (c := w.st.exch.sweepDone = true) (S.latched Bit.orderDone _ (by decide) h1) h1
  exact choice (S.beginSweep _ h2) h2

theorem reclampPath (g : Generator) (p : Path) (w : Work) (h : Q w.st) : Q (reclampPath g p w).st :=
  choice (S.onPath p _ _ (S.settle p w h)) h

theorem setGenerator (ps : List Byte) (w : Work) (h : Q w.st) : Q (orderSetGenerator ps w).work.st := by
  unfold orderSetGenerator
  dsimp only
  split
  · exact h
  · split
    · exact h
    · exact S.reclampPath _ _ _ (S.reclampPath _ _ _ (S.onGens _ w h))

theorem setProbing (ps : List Byte) (w : Work) (h : Q w.st) : Q (orderSetProbing ps w).work.st := by
  unfold orderSetProbing
  dsimp only
  split
  · rename_i p a _ _
    have h1 := S.onPath p (fun r => { r with
        assign := a, d := clamp 1 60 (param ps 2 1), timeout := clamp 100 (timeoutMax w.st a (clamp 1 60 (param ps 2 1)))
          (param ps 3 4) }) w h
    exact S.becameLinkOnly p _ _ (choice (S.settle p _ h1) h1)
  · exact h

theorem setTemplate (ps : List Byte) (w : Work) (h : Q w.st) : Q (orderSetTemplate ps w).work.st := by
  unfold orderSetTemplate
  dsimp only
  split
  · exact h
  · rename_i p _
    have h1 := S.onPath p (fun r => { r with template := (ps.drop 2).take (min (param ps 1 1) 64) }) w h
    exact S.becameLinkOnly p _ _ (choice (S.settle p _ h1) h1)

theorem setScoring (ps : List Byte) (w : Work) (h : Q w.st) : Q (orderSetScoring ps w).work.st := by
  unfold orderSetScoring
  dsimp only
  split
  · split
    · exact S.onPath _ _ w h
    · exact h
  · exact h

theorem setDamping (ps : List Byte) (w : Work) (h : Q w.st) : Q (orderSetDamping ps w).work.st := by
  unfold orderSetDamping
  dsimp only
  split
  · rename_i p on _ _
    split
    · have h1 := S.onPath p (PathRec.damp on (min (param ps 2 2) 8000) (min (param ps 4 2) 8000)
        (clamp 1 255 (param ps 6 2)) w.now) w h
      exact choice (S.releaseSuppressed p _ h1) h1
    · exact h
  · exact h

theorem clearCause (ps : List Byte) (w : Work) (h : Q w.st) : Q (orderClearCause ps w).work.st := by
  unfold orderClearCause
  split
  · exact h
  · exact S.onPath _ _ w h

theorem setRadio (ps : List Byte) (w : Work) (h : Q w.st) : Q (orderSetRadio ps w).work.st := by
  unfold orderSetRadio
  dsimp only
  split
  · exact h
  · exact S.recomputeTarget _ (S.passes _ (S.compareLinger _ (S.leaveFault _ (S.onRu _ w h))))

theorem setModemLines (ps : List Byte) (w : Work) (h : Q w.st) : Q (orderSetModemLines ps w).work.st := by
  unfold orderSetModemLines
  split
  · exact S.setReady _ w h
  · exact h

theorem releaseRadio (ps : List Byte) (w : Work) (h : Q w.st) : Q (orderReleaseRadio ps w).work.st := by
  unfold orderReleaseRadio
  split
  · exact h
  · split
    · exact S.recomputeTarget _ (S.stopLinger w h)
    · exact h

omit S in
theorem comeBack_count (path : ClassPath) (f : FlowRec) : (f.comeBack path).count = f.count :=
  become_count path.flowState f

theorem returnFlows (cls : Nat) (w : Work) (h : Q w.st) : Q (returnFlows cls w).st := by
  have h1 := S.onFlows (fun fs => fs.map fun f =>
    if f.gapPassed w.now cls (w.st.cls cls).gap then f.comeBack (w.st.cls cls).cur else f) w ?_ h
  · exact oweDemand _ (S.handed _ h1)
  · refine map_map_keep _ _ (fun f => ?_) _
    split
    · exact comeBack_count _ f
    · rfl

theorem setClass (ps : List Byte) (w : Work) (h : Q w.st) : Q (orderSetClass ps w).work.st := by
  unfold orderSetClass
  dsimp only
  split
  · split
    · exact h
    · rename_i use atIdle permit _ _ _ _
      have h1 := S.passes (w.onClass (param ps 0 1) (ClassRec.setPolicy use (min (param ps 2 1) 3) atIdle permit
        (clamp 1 600 (param ps 5 2)))).owePass (S.onClass _ _ w (fun _ => rfl) h)
      exact choice h1 (S.returnFlows _ _ h1)
  · exact h

theorem setSteering (ps : List Byte) (w : Work) (h : Q w.st) : Q (orderSetSteering ps w).work.st := by
  unfold orderSetSteering
  dsimp only
  split
  · exact h
  · exact owePass _ (S.dropHeld _ _ _ (S.onSteer _ w h))

theorem beginHold (p : Path) (dur : Nat) (w : Work) (h : Q w.st) : Q (beginHold p dur w).st :=
  owePass _ (touch _ _ (S.handed _ (S.onHold (Hold.begin p w.now dur (w.st.holdSeen p)) w h)))

theorem holdPath (ps : List Byte) (w : Work) (h : Q w.st) : Q (orderHoldPath ps w).work.st := by
  unfold orderHoldPath
  split
  · exact h
  · rename_i p _
    split
    · exact h
    · split
      · exact h
      · split
        · exact h
        · exact S.beginHold p (clamp 1 3600 (param ps 1 2)) w h

theorem releaseHold (ps : List Byte) (w : Work) (h : Q w.st) : Q (orderReleaseHold ps w).work.st := by
  unfold orderReleaseHold
  split
  · exact S.endHold _ w h
  · exact h

theorem drillSeesFlow (i : Nat) (w : Work) (h : Q w.st) : Q (drillSeesFlow i w).st := choice (S.endDrill _ _ w h) h

theorem restartSees (cls : Nat) (w : Work) (h : Q w.st) : Q (restartSees cls w).st := by
  unfold Machine.restartSees
  exact choice (S.tier0Restart w h) h

theorem openFlow (i cls idle : Nat) (w : Work) (h : Q w.st) : Q (openFlow i cls idle w).st := by
  have h1 := S.onFlow i (FlowRec.opening cls idle (w.st.cls cls).cur w.now) w (fun _ => rfl) h
  exact S.restartSees _ _ (S.recomputeDemand _ (S.drillSeesFlow _ _ (S.handed _ h1)))

theorem orderOpen (ps : List Byte) (w : Work) (h : Q w.st) : Q (orderOpenFlow ps w).work.st := by
  unfold orderOpenFlow
  dsimp only
  split
  · exact h
  · split
    · exact h
    · split
      · exact h
      · rename_i i _
        exact S.openFlow i (param ps 0 1) (min (param ps 1 4) 65535) w h

theorem freeFlow (i : Nat) (w : Work) (h : Q w.st) : Q (freeFlow i w).st :=
  touch _ _ (S.releaseFrames _ _ (S.onFlow _ _ w (fun _ => rfl) h))

theorem closeFlow (ps : List Byte) (w : Work) (h : Q w.st) : Q (orderCloseFlow ps w).work.st := by
  unfold orderCloseFlow
  dsimp only
  split
  · exact h
  · exact oweDemand _ (S.handed _ (S.freeFlow _ w h))

omit S in
theorem capSees (before : Bool) (w : Work) (h : Q w.st) : Q (capSees before w).st := by
  unfold Machine.capSees
  exact choice (owePass w h) h

theorem setAllowance (ps : List Byte) (w : Work) (h : Q w.st) : Q (orderSetAllowance ps w).work.st := by
  unfold orderSetAllowance
  dsimp only
  split
  · exact h
  · split
    · exact h
    · exact capSees _ _ (S.restage _ (S.onAllow _ w h))

theorem newPeriod (ps : List Byte) (w : Work) (h : Q w.st) : Q (orderNewPeriod ps w).work.st :=
  touch .allowance _ <| S.restage _ (S.onAllow _ w h)

theorem setSupply (ps : List Byte) (w : Work) (h : Q w.st) : Q (orderSetSupply ps w).work.st := by
  unfold orderSetSupply
  split
  · exact S.onSup _ w h
  · exact h

theorem runDrill (limit : Nat) (w : Work) (h : Q w.st) : Q (runDrill limit w).st := by
  have h1 := S.recomputeDemand _ (touch .supply _ (S.handed _
    (S.onDrill (Drill.begin w.now limit w.st.ru.attaches) w h)))
  unfold Machine.runDrill
  exact choice (S.endDrill _ _ _ h1) h1

theorem orderRun (ps : List Byte) (w : Work) (h : Q w.st) : Q (orderRunDrill ps w).work.st := by
  unfold orderRunDrill
  iterate 5
    split
    · exact h
  exact S.runDrill (clamp 60 1800 (param ps 0 2)) w h

theorem cancelDrill (ps : List Byte) (w : Work) (h : Q w.st) : Q (orderCancelDrill ps w).work.st := by
  unfold orderCancelDrill
  split
  · exact S.endDrill _ _ w h
  · exact h

theorem clearTicks (p : Path) (w : Work) (h : Q w.st) : Q (clearTicks p w).st := S.onPath p _ w h

theorem setService (n : Service) (hn : n ≠ .init) (w : Work) (h : Q w.st) : Q (setService n w).st :=
  touch _ _ (S.onExch (fun e => { e with service := n }) w (fun hi => absurd hi hn) h)

theorem startService (ps : List Byte) (w : Work) (h : Q w.st) : Q (orderStartService ps w).work.st := by
  have h1 := S.clearTicks .radio _ (S.clearTicks .fibre _ (S.setService .service (by decide) w h))
  unfold orderStartService
  dsimp only
  split
  · exact h
  · exact S.recomputeTarget _ (S.passes _ (owePass _ h1))

theorem freeFlows (l : List Nat) (w : Work) (h : Q w.st) : Q (freeFlows l w).st := by
  induction l generalizing w with
  | nil => exact h
  | cons i l ih => exact ih _ (choice h (S.freeFlow _ w h))

theorem stopSteps (w : Work) (h : Q w.st) : Q (stopSteps w).st := by
  unfold Machine.stopSteps
  generalize List.range 128 = records
  have h1 := S.handed _ (S.freeFlows records _ (S.endDrill .aborted .stopped w h))
  have h2 := S.stopLinger _ (S.flushQueue .radio _ (S.endHold .stopped _ h1))
  have h3 := S.settle .radio _ (S.settle .fibre _ (S.setService .config (by decide) _ h2))
  exact S.backToUp .radio _ (S.backToUp .fibre _ h3)

theorem stopService (w : Work) (h : Q w.st) : Q (stopService w).st := by
  have h1 := owePass _ (S.stopSteps w h)
  unfold Machine.stopService
  exact S.recomputeTarget _ (S.passes _ h1)

theorem orderStop (ps : List Byte) (w : Work) (h : Q w.st) : Q (orderStopService ps w).work.st := by
  unfold orderStopService
  split
  · show Q (Machine.stopService w).st
    exact S.stopService w h
  · exact h

theorem setExchange (ps : List Byte) (w : Work) (h : Q w.st) : Q (orderSetExchange ps w).work.st := by
  unfold orderSetExchange
  exact touch _ _ (S.onExch _ w id h)

theorem generatorTick (g : Generator) (w : Work) (h : Q w.st) : Q (generatorTick g w).st :=
  S.offerTick g .radio _ (S.offerTick g .fibre _ (S.onGens _ w h))

theorem takeProbeShaped (p : Path) (d : List Byte) (w : Work) (h : Q w.st) : Q (takeProbeShaped p d w).st := by
  have h1 : Q (countUnmatched p w).st := S.onPath p _ w h
  unfold Machine.takeProbeShaped
  split
  · split
    · exact S.resolveProbe p _ _ w h
    · exact h1
  · exact h1

theorem inboundChecked (p : Path) (d : List Byte) (w : Work) (h : Q w.st) : Q (inboundChecked p d w).st :=
  choice (S.onCounts _ w h) (choice (S.takeProbeShaped p d w h) (choice (S.onCounts _ w h) (S.onFwd _ w h)))

theorem countInbound (p : Path) (d : List Byte) (w : Work) (h : Q w.st) : Q (countInbound p d w).st := by
  cases p
  · exact h
  · exact S.passes _ (S.addUsed _ w h)

theorem watchFibre (w : Work) (h : Q w.st) : Q (watchFibre w).st :=
  choice (choice h (S.physicalLoss .fibre _ (S.onFin _ w h)))
    (choice (choice h (S.onFin _ w h)) (S.onFin _ w h))

theorem fibreSettled (w : Work) (h : Q w.st) : Q (fibreSettled w).st := S.physicalAvailability .fibre _ (S.onFin _ w h)

theorem decayTick (p : Path) (w : Work) (h : Q w.st) : Q (decayTick p w).st := by
  have h1 := S.onPath p PathRec.decay w h
  unfold Machine.decayTick
  exact choice (S.releaseSuppressed p _ h1) h1

theorem stoppingTimedOut (w : Work) (h : Q w.st) : Q (stoppingTimedOut w).st :=
  S.onRu (fun r => { r.pulseMrst w.now with stateDue := none }) w h

theorem passReturnDelay (w : Work) (h : Q w.st) : Q (passReturnDelay w).st :=
  owePass _ (S.onSteer (fun t => { t with ret := .passed }) w h)

theorem expireFlow (i : Nat) (w : Work) (h : Q w.st) : Q (expireFlow i w).st :=
  oweDemand _ <| S.handed _ (S.releaseFrames i _ (S.onFlow i (fun f => { f with state := .expired, pinned := false }) w (fun _ => rfl) h))

theorem gapReturn (i : Nat) (w : Work) (h : Q w.st) : Q (gapReturn i w).st :=
  oweDemand _ <| S.handed _ (S.onFlow i (FlowRec.comeBack (w.st.cls (w.st.flow i).cls).cur) w (comeBack_count _) h)

theorem placeOutbound (path : ClassPath) (cls : Nat) (flow : Option Nat) (d : List Byte) (w : Work) (h : Q w.st) :
    Q (placeOutbound path cls flow d w).st := by
  cases path
  · exact S.enterBand _ _ _ w h
  · exact S.enterBand _ _ _ w h
  · exact choice (S.latched Bit.holdDrops _ (by decide) (S.onCounts _ w h)) (S.onFwd _ w h)
  · exact S.dropBlocked _ w h

theorem takeOutbound (bytes : List Byte) (w : Work) (h : Q w.st) : Q (takeOutbound bytes w).st := by
  unfold Machine.takeOutbound
  dsimp only
  split
  · unfold acceptFrame
    split
    · exact S.placeOutbound _ _ _ _ _ (S.onFlow _ _ w (fun _ => rfl) h)
    · exact S.placeOutbound _ _ _ _ _ (S.onCounts _ w h)
  · exact S.onCounts _ w h

theorem deliver (w : Work) (h : Q w.st) : Q (deliver w).st := by
  unfold Machine.deliver
  split
  · exact h
  · exact choice (S.onFwd _ w h) h

theorem changeSupply (n : Supply) (w : Work) (h : Q w.st) : Q (changeSupply n w).st := by
  have h1 := S.latched Bit.supplyChange _ (by decide)
    (S.handed _ (S.onSup (fun m => { m with state := n, since := w.now }) w h))
  have h2 := S.passes _ (owePass _ (touch .supply _ h1))
  unfold Machine.changeSupply
  exact S.recomputeTarget _ (S.compareLinger _ h2)

theorem debounce (line : SupplyLine) (w : Work) (h : Q w.st) : Q (debounce line w).st := by
  have h1 := S.onSup (fun m => m.setLine line (m.line line).settled) w h
  exact choice h1 (S.changeSupply _ _ h1)

theorem writeAnswer (hmem : ∀ s m, Q s → Q { s with mem := m }) (i : Nat) (rest : List Nat) (ticket : Nat)
    (r : ResultCode) (ans : List Byte) (w : Work) (h : Q w.st) : Q (writeAnswer i rest ticket r ans w).st :=
  touch .header _ (S.onExch _ _ id (hmem w.st (slotAnswer w.st.mem i r ans) h))

end Steady

/-! ## Every command -/

/-- What a command makes of a state, as far as the event unit and the update counts go. -/
inductive Happens (s t : State) : Prop
  /-- One event. Its own changes of the event unit write masks or clear the latch; all else is steady. -/
  | event (e : EventUnit) (w : Work) (outside : s.exch.service ≠ .init) (cond : e.cond = s.ev.cond)
      (latch : e.latch = s.ev.latch ∨ e.latch = 0) 
      (steady : ∀ Q, Steady Q → (∀ s m, Q s → Q { s with mem := m }) → Q { s with ev := e } → Q w.st)
      (ends : t = finish s w) : Happens s t
  /-- No event: outside INIT only the slots, the bus, the RESET pin's fields, device time and the queue change. -/
  | still (ev : t.ev = s.ev) (intEnable : t.exch.intEnable = s.exch.intEnable)
      (service : t.exch.service = s.exch.service)
      (outside : s.exch.service ≠ .init → ∃ m r h n c q k, t = { s with
        clk := c, mem := m, exch := { s.exch with readData := r, resetHeld := h, initElapsed := n }, pending := q,
        free := k }) : Happens s t
  /-- A reset. -/
  | reset (ev : t.ev = State.reset.ev) (service : t.exch.service = .init) : Happens s t
  /-- The end of INIT. -/
  | initEnd (inside : s.exch.service = .init) (ends : t = initEnded s) : Happens s t

theorem Happens.same (s : State) : Happens s s :=
  .still rfl rfl rfl fun _ => ⟨s.mem, s.exch.readData, s.exch.resetHeld, s.exch.initElapsed, s.clk, s.pending, s.free, rfl⟩

theorem Happens.ofEvent (e : EventUnit) (f : Work → Work) (s : State) (hcond : e.cond = s.ev.cond)
    (hlatch : e.latch = s.ev.latch ∨ e.latch = 0)
    (hf : ∀ Q, Steady Q → Q { s with ev := e } → Q (f (Work.begin s)).st) : Happens s (Machine.event f s) := by
  by_cases h : s.exch.service = .init
  · rw [event_in_init f h]
    exact Happens.same s
  · refine .event e (passes (f (Work.begin s))) h hcond hlatch (fun Q S _ hq => S.passes _ (hf Q S hq)) ?_
    unfold Machine.event
    rw [if_neg h]

theorem Happens.ofSteady (f : Work → Work) (s : State) (hf : ∀ Q, Steady Q → ∀ w, Q w.st → Q (f w).st) :
    Happens s (Machine.event f s) :=
  .ofEvent s.ev f s rfl (Or.inl rfl) fun Q S h => hf Q S (Work.begin s) h

theorem Happens.ofTaking (e : EventUnit) (accepts : Nat → Bool) (body : List Byte → Work → Answered) (s : State)
    (hcond : e.cond = s.ev.cond) (hlatch : e.latch = s.ev.latch)
    (hf : ∀ Q, Steady Q → Q { s with ev := e } → Q (body (slotParams s.mem
      ((s.exch.sweep.getD []).headD 0)) (Work.begin s)).work.st) : Happens s (takeOrder accepts body s) := by
  by_cases ho : ∃ i rest, s.offers accepts i rest
  · obtain ⟨i, rest, hoffers⟩ := ho
    have hsweep := hoffers.1
    have hinit := hoffers.2.1
    rw [hsweep] at hf
    rw [takeOrder_offers accepts body s i rest hoffers]
    exact .event e _ hinit hcond (Or.inl hlatch) (fun Q S hmem h => S.writeAnswer hmem _ _ _ _ _ _ (S.passes _ (hf Q S h))) rfl
  · rw [takeOrder_none accepts body s fun i rest hi => ho ⟨i, rest, hi⟩]
    exact Happens.same s

theorem Happens.ofOrder (kind : Nat) (body : List Byte → Work → Answered) (s : State)
    (hf : ∀ Q, Steady Q → ∀ ps w, Q w.st → Q (body ps w).work.st) : Happens s (takeKind kind body s) :=
  .ofTaking s.ev _ body s rfl rfl fun Q S h => hf Q S _ (Work.begin s) h

theorem Happens.ite {due : Prop} [Decidable due] {s t u : State} (ht : Happens s t) (hu : Happens s u) :
    Happens s (if due then t else u) := by
  split
  · exact ht
  · exact hu

/-- An input held during INIT, and an event elsewhere. -/
theorem Happens.held {s t : State} {f : Work → Work} (hev : t.ev = s.ev) (hexch : t.exch = s.exch)
    (hf : ∀ Q, Steady Q → ∀ w, Q w.st → Q (f w).st) :
    Happens s (if s.exch.service = .init then t else Machine.event f s) := by
  split
  · rename_i h
    exact .still hev (by rw [hexch]) (by rw [hexch]) fun hn => absurd h hn
  · exact .ofSteady f s hf

theorem controlWrite_happens (v : Word) (s : State) : Happens s (controlWrite v s) := by
  unfold controlWrite
  exact .ite (.same s) (.ite (.reset rfl rfl) (.ofSteady (fun w => w.onExch fun e => { e with intEnable := v.getLsbD 1 }) s
    fun Q S w => S.onExch _ w id))

theorem writeEnable_happens (v : Word) (s : State) : Happens s (writeEnable v s) :=
  .ofEvent { s.ev with enable := v } (fun w => w.onEv fun e => { e with enable := v }) s rfl (Or.inl rfl) fun _ _ h => h

theorem nudge_happens (s : State) : Happens s (event takeNudge s) := .ofSteady _ s fun _ S => S.takeNudge

theorem registerStore_happens (off width : Nat) (v : Word) (s : State) : Happens s (registerStore off width v s) := by
  unfold registerStore
  exact .ite (.same s) (.ite (controlWrite_happens v s) (.ite (nudge_happens s)
    (.ite (writeEnable_happens v s) (.same s))))

theorem exec_happens {c : Instr} {s t : State} (hx : exec c s = .next t) : Happens s t := by
  have hdue : ∀ {due : Prop} [Decidable due] {f : Work → Work}, (∀ Q, Steady Q → ∀ w, Q w.st → Q (f w).st) →
      Happens s (if due then event f s else s) := fun hf => .ite (.ofSteady _ s hf) (.same s)
  cases c
  case initEnd =>
    by_cases hc : s.exch.service = .init ∧ s.exch.resetHeld = false
    · rw [execInitEnd_in_init hc.1 hc.2] at hx
      cases hx
      exact .initEnd hc.1 rfl
    · rw [execInitEnd_elsewhere (by rwa [not_and_or, Bool.not_eq_false] at hc)] at hx
      cases hx
      exact .same s
  case eventsRead =>
    dsimp only [exec, execEventsRead] at hx
    split at hx <;> cases hx
    · exact .still rfl rfl rfl fun _ => ⟨s.mem, 0, s.exch.resetHeld, s.exch.initElapsed, s.clk, s.pending, s.free, rfl⟩
    · exact .ofEvent { s.ev with latch := 0 } (fun w =>
        (w.onExch fun e => { e with readData := w.st.ev.latch }).onEv fun v => { v with latch := 0 }) s rfl (Or.inr rfl)
        fun Q S h => S.quiet { s with ev := { s.ev with latch := 0 } } _ ⟨rfl, rfl, rfl, rfl, rfl, id⟩ h
  case slotPassedOver =>
    dsimp only [exec, execSlotPassedOver] at hx
    split at hx <;> cases hx
    · exact .ite (.same s) (.ofSteady (fun w => w.onExch fun e => { e with sweep := some _ }) s
        fun Q S w => S.onExch _ w id)
    · exact .same s
    · exact .same s
  case pollTimerExpiry =>
    dsimp only [exec, execPollTimerExpiry] at hx
    split at hx <;> cases hx
    · exact .same s
    · exact hdue fun Q S => S.pollDue _
  all_goals cases hx
  case powerOn => exact .reset rfl rfl
  case resetPinAssert => exact .reset rfl rfl
  case resetPinRelease => exact .still rfl rfl rfl fun _ => ⟨s.mem, s.exch.readData, false, 0, s.clk, s.pending, s.free, rfl⟩
  case softReset => exact controlWrite_happens _ s
  case interruptEnableWrite => exact controlWrite_happens _ s
  case nudge => exact nudge_happens s
  case eventEnableWrite => exact .ite (writeEnable_happens _ s) (.same s)
  case registerWrite => exact registerStore_happens _ _ _ s
  case exchangeMemoryWrite =>
    exact .ite (.still rfl rfl rfl fun _ => ⟨_, s.exch.readData, s.exch.resetHeld, s.exch.initElapsed, s.clk, s.pending, s.free, rfl⟩) (.same s)
  case sweepTimerExpiry => exact hdue fun Q S => S.takeSweepTimer
  case sweepEnd => exact hdue fun Q S => S.endSweep
  case unknownOrderKind => exact .ofTaking s.ev _ _ s rfl rfl fun Q S h => h
  case setGenerator => exact .ofOrder _ _ s fun Q S => S.setGenerator
  case setProbing => exact .ofOrder _ _ s fun Q S => S.setProbing
  case setTemplate => exact .ofOrder _ _ s fun Q S => S.setTemplate
  case setScoring => exact .ofOrder _ _ s fun Q S => S.setScoring
  case setDamping => exact .ofOrder _ _ s fun Q S => S.setDamping
  case clearCause => exact .ofOrder _ _ s fun Q S => S.clearCause
  case setRadio => exact .ofOrder _ _ s fun Q S => S.setRadio
  case setModemLines => exact .ofOrder _ _ s fun Q S => S.setModemLines
  case releaseRadio => exact .ofOrder _ _ s fun Q S => S.releaseRadio
  case setClass => exact .ofOrder _ _ s fun Q S => S.setClass
  case setSteering => exact .ofOrder _ _ s fun Q S => S.setSteering
  case holdPath => exact .ofOrder _ _ s fun Q S => S.holdPath
  case releaseHold => exact .ofOrder _ _ s fun Q S => S.releaseHold
  case openFlow => exact .ofOrder _ _ s fun Q S => S.orderOpen
  case closeFlow => exact .ofOrder _ _ s fun Q S => S.closeFlow
  case setAllowance => exact .ofOrder _ _ s fun Q S => S.setAllowance
  case newPeriod => exact .ofOrder _ _ s fun Q S => S.newPeriod
  case setSupply => exact .ofOrder _ _ s fun Q S => S.setSupply
  case runDrill => exact .ofOrder _ _ s fun Q S => S.orderRun
  case cancelDrill => exact .ofOrder _ _ s fun Q S => S.cancelDrill
  case setEventEdges =>
    exact .ofTaking (orderSetEventEdges (slotParams s.mem ((s.exch.sweep.getD []).headD 0)) (Work.begin s)).work.st.ev
      _ _ s rfl rfl fun Q S h => h
  case startService => exact .ofOrder _ _ s fun Q S => S.startService
  case stopService => exact .ofOrder _ _ s fun Q S => S.orderStop
  case setExchange => exact .ofOrder _ _ s fun Q S => S.setExchange
  case generatorTick g => exact hdue fun Q S => S.generatorTick g
  case probeExpiry p seq => exact hdue fun Q S => S.resolveProbe p seq _
  case inboundFrame p bytes => exact hdue fun Q S w h => S.inboundChecked p bytes _ (S.countInbound p bytes w h)
  case fibreLinkChange => exact .held rfl rfl fun Q S w h => S.takeNext .fibre _ (S.watchFibre _ (S.onFin _ w h))
  case losChange => exact .held rfl rfl fun Q S w h => S.watchFibre _ (S.onFin _ w h)
  case fibreSettleExpiry => exact hdue fun Q S => S.fibreSettled
  case decayTick p => exact hdue fun Q S => S.decayTick p
  case okAnswer | refusedAnswer | signalAnswer | sessionClosed | detached | signalIndication =>
    exact .ofSteady _ s fun Q S => S.takeFrame _
  case linkFrameDiscarded => exact .ofSteady _ s fun Q S => S.receiveBytes _
  case linkInterbyteTimeout => exact hdue fun Q S => S.receiveBytes _
  case answerTimeout => exact hdue fun Q S => S.answerTimedOut
  case readyChange => exact .held rfl rfl fun Q S => S.setReady _
  case poweringTimeout => exact hdue fun Q S => S.enterResetting
  case stoppingTimeout => exact hdue fun Q S => S.stoppingTimedOut
  case backoffExpiry => exact hdue fun Q S => S.enterIdle
  case pulseEnd line => exact hdue fun Q S => S.pulseEnds line
  case lingerExpiry => exact hdue fun Q S w h => S.recomputeTarget _ (S.compareLinger w h)
  case returnDelayDue => exact hdue fun Q S => S.passReturnDelay
  case holdExpiry => exact hdue fun Q S => S.endHold _
  case flowIdleExpiry flow => exact hdue fun Q S => S.expireFlow flow
  case idleGapReturn flow => exact hdue fun Q S => S.gapReturn flow
  case longIdleMark flow => exact hdue fun Q S w => S.onFlow flow _ w fun _ => rfl
  case outboundFrame bytes => exact .ofSteady _ s fun Q S => S.takeOutbound bytes
  case transmitHandoff p => exact .ofSteady _ s fun Q S w h => S.takeNext p _ (S.onQueue p _ w h)
  case holdAgeExpiry =>
    exact hdue fun Q S w h => S.latched Bit.holdDrops _ (by decide) (S.onCounts _ _ (S.onFwd _ w h))
  case receiveQueueDelivery => exact .held rfl rfl fun Q S w h => S.deliver _ (S.onFwd _ w h)
  case supplyLineChange => exact .held rfl rfl fun Q S w => S.onSup _ w
  case debounceExpiry line => exact hdue fun Q S => S.debounce line
  case drillLimitExpiry => exact hdue fun Q S => S.endDrill _ _

theorem initTick_happens {s : State} (h : s.exch.service = .init) : Happens s (initTick s) := by
  unfold initTick
  refine .ite (.same s) ?_
  dsimp only
  split
  · exact .still rfl rfl rfl fun hn => absurd h hn
  · exact .still rfl rfl rfl fun hn => absurd h hn

theorem tick_happens (s : State) : Happens s (tick s) := by
  unfold tick
  split
  · rename_i h
    exact initTick_happens h
  · exact .ite (.ofSteady _ s fun Q S => S.sendRequest _) (.still rfl rfl rfl fun _ =>
      ⟨s.mem, s.exch.readData, s.exch.resetHeld, s.exch.initElapsed, _, _, _, rfl⟩)

/-- Every step, seen from the state without the command that it takes from the queue. -/
theorem step_happens {s t : State} (hx : step s = .next t) : ∃ q, Happens { s with pending := q } t := by
  unfold step at hx
  split at hx
  · cases hx
    exact ⟨s.pending, tick_happens s⟩
  · exact ⟨_, exec_happens hx⟩

end Sys2Proof.Machine
end


section
/-! The event unit along a step: condition bits and IRQ line, and the edge events of condition bits that change; and the
update counts of the mirror records. -/

namespace Sys2Proof.Machine

/-! ## Edge events (R184) -/

/-- Bit `16 + k` of the edge events: condition bit `k` rises or falls, and the mask of that direction selects it. -/
theorem edgeEvents_getLsbD (rising falling old new : Half) {k : Nat} (hk : k < 16) :
    (edgeEvents rising falling old new).getLsbD (16 + k) =
      ((new.getLsbD k && !old.getLsbD k && rising.getLsbD k) || (old.getLsbD k && !new.getLsbD k && falling.getLsbD k)) := by
  have h32 : 16 + k < 32 := by omega
  simp [edgeEvents, hk, h32]

theorem bitMask_getLsbD (i k : Nat) (hi : i < 16) : (bitMask i).getLsbD (16 + k) = false := by
  unfold bitMask
  rw [BitVec.getLsbD_ofNat, Nat.testBit_two_pow_of_ne (by omega), Bool.and_false]

/-- What an event unit becomes by fixed events and by changed conditions handed to masks that stay: the latch grows; a
condition bit that ends changed in a direction its mask selects has its edge event, and one that no mask selects has
none. -/
structure Traces (e f : EventUnit) : Prop where
  rising : f.rising = e.rising
  falling : f.falling = e.falling
  enable : f.enable = e.enable
  grows : ∀ j, e.latch.getLsbD j = true → f.latch.getLsbD j = true
  rose : ∀ k < 16, e.rising.getLsbD k = true → e.cond.getLsbD k = false → f.cond.getLsbD k = true →
    f.latch.getLsbD (16 + k) = true
  fell : ∀ k < 16, e.falling.getLsbD k = true → e.cond.getLsbD k = true → f.cond.getLsbD k = false →
    f.latch.getLsbD (16 + k) = true
  silent : ∀ k < 16, e.rising.getLsbD k = false → e.falling.getLsbD k = false → e.latch.getLsbD (16 + k) = false →
    f.latch.getLsbD (16 + k) = false

theorem Traces.refl (e : EventUnit) : Traces e e where
  rising := rfl
  falling := rfl
  enable := rfl
  grows := fun _ h => h
  rose := fun k _ _ h0 h1 => by rw [h0] at h1; cases h1
  fell := fun k _ _ h1 h0 => by rw [h0] at h1; cases h1
  silent := fun _ _ _ _ h => h

theorem Traces.fixed {e f : EventUnit} (h : Traces e f) {i : Nat} (hi : i < 16) :
    Traces e { f with latch := f.latch ||| bitMask i } where
  rising := h.rising
  falling := h.falling
  enable := h.enable
  grows := fun j hj => by rw [BitVec.getLsbD_or, h.grows j hj, Bool.true_or]
  rose := fun k hk hm h0 h1 => by rw [BitVec.getLsbD_or, h.rose k hk hm h0 h1, Bool.true_or]
  fell := fun k hk hm h1 h0 => by rw [BitVec.getLsbD_or, h.fell k hk hm h1 h0, Bool.true_or]
  silent := fun k hk hr hf hl => by rw [BitVec.getLsbD_or, h.silent k hk hr hf hl, bitMask_getLsbD i k hi, Bool.or_false]

theorem Traces.conditions {e f : EventUnit} (h : Traces e f) (new : Half) :
    Traces e { f with cond := new, latch := f.latch ||| edgeEvents f.rising f.falling f.cond new } where
  rising := h.rising
  falling := h.falling
  enable := h.enable
  grows := fun j hj => by rw [BitVec.getLsbD_or, h.grows j hj, Bool.true_or]
  rose := by
    intro k hk hm h0 h1
    have h1 : new.getLsbD k = true := h1
    rw [BitVec.getLsbD_or, edgeEvents_getLsbD _ _ _ _ hk, h.rising, hm, h1]
    cases hf : f.cond.getLsbD k with
    | true => rw [h.rose k hk hm h0 hf, Bool.true_or]
    | false => simp
  fell := by
    intro k hk hm h1 h0
    have h0 : new.getLsbD k = false := h0
    rw [BitVec.getLsbD_or, edgeEvents_getLsbD _ _ _ _ hk, h.falling, hm, h0]
    cases hf : f.cond.getLsbD k with
    | false => rw [h.fell k hk hm h1 hf, Bool.true_or]
    | true => simp
  silent := by
    intro k hk hr hf hl
    rw [BitVec.getLsbD_or, edgeEvents_getLsbD _ _ _ _ hk, h.silent k hk hr hf hl, h.rising, h.falling, hr, hf]
    simp

theorem steady_traces (e : EventUnit) : Steady fun s => Traces e s.ev where
  quiet := fun _ _ h hs => h.ev ▸ hs
  latched := fun _ _ hi h => h.fixed hi
  handed := by
    intro w h
    show Traces e (handConditions w).st.ev
    rw [handConditions_st_eq]
    split
    · exact h
    · exact h.conditions _

/-! ## The end of a steady event -/

theorem Steady.reportFlows {Q : State → Prop} (S : Steady Q) (old : List FlowRec) (w : Work) (h : Q w.st) :
    Q (reportFlows old w).st := by
  unfold Machine.reportFlows
  exact Steady.choice h (S.latched Bit.flowChange _ (by decide) (S.onExch _ w id h))

/-- The state of an event at its end, before records are rewritten. -/
def beforeRecords (s0 : State) (w : Work) : State := (reportFlows s0.flows (handConditions w)).st

theorem Steady.beforeRecords {Q : State → Prop} (S : Steady Q) (s0 : State) (w : Work) (h : Q w.st) :
    Q (beforeRecords s0 w) := S.reportFlows _ _ (S.handed w h)

theorem finish_latch (s0 : State) (w : Work) : (finish s0 w).ev.latch = (beforeRecords s0 w).ev.latch := rfl
theorem finish_condBits (s0 : State) (w : Work) : (finish s0 w).ev.cond = (beforeRecords s0 w).ev.cond := rfl

/-! ## O57 -/

theorem steady_outside : Steady fun s => s.exch.service ≠ .init where
  quiet := fun _ _ h hs ht => hs (h.service ht)
  latched := fun _ _ _ h => h
  handed := fun w h => by rwa [handConditions_exch]

theorem finish_outside {s0 : State} {w : Work} (h : w.st.exch.service ≠ .init) : (finish s0 w).exch.service ≠ .init :=
  fun hi => h ((finish_service s0 w).symm.trans hi)

/-- What O57 says of one state. -/
def State.eventTrue (s : State) : Prop :=
  (s.exch.service ≠ .init → s.condTrue) ∧ s.irqTrue ∧ (s.exch.service = .init → s.ev.irq = false)

theorem finish_eventTrue {s0 : State} {w : Work} (h : w.st.exch.service ≠ .init) : (finish s0 w).eventTrue :=
  ⟨fun _ => finish_cond s0 w, finish_irq s0 w, fun hi => absurd hi (finish_outside h)⟩

theorem initEnded_eventTrue (s : State) : (initEnded s).eventTrue := by
  have hconfig : (initEnded s).exch.service = .config := rfl
  have hcond : (initEnded s).ev.cond = (initEnded s).facts := by rw [initEnded_ev]
  refine ⟨fun _ => hcond, ?_, fun hi => absurd (hconfig.symm.trans hi) (by decide)⟩
  unfold initEnded
  generalize initState s = t
  rfl

theorem happens_eventTrue {s t : State} (hx : Happens s t) (h : s.eventTrue) : t.eventTrue := by
  obtain ⟨hcond, hirq, hinit⟩ := h
  cases hx with
  | event e w outside _ _ steady ends =>
    subst ends
    exact finish_eventTrue (steady _ steady_outside (fun _ _ h => h) outside)
  | still ev intEnable service outside =>
    refine ⟨?_, ?_, fun hi => ev ▸ hinit (service ▸ hi)⟩
    · intro ht
      have hs : s.exch.service ≠ .init := service ▸ ht
      obtain ⟨m, r, h, n, c, q, k, rfl⟩ := outside hs
      exact hcond hs
    · unfold State.irqTrue at *
      rw [ev, intEnable, hirq]
  | reset ev service =>
    refine ⟨fun ht => absurd service ht, ?_, fun _ => by rw [ev]; rfl⟩
    unfold State.irqTrue
    rw [ev]
    show false = irqLevel t.exch.intEnable 0 0
    unfold irqLevel
    simp
  | initEnd _ ends =>
    subst ends
    exact initEnded_eventTrue s

/-- The edge events of a step outside INIT whose masks end as they began. -/
theorem happens_edges {s t : State} (hx : Happens s t) (hs : s.exch.service ≠ .init) (ht : t.exch.service ≠ .init)
    (hrising : t.ev.rising = s.ev.rising) (hfalling : t.ev.falling = s.ev.falling) {k : Nat} (hk : k < 16) :
    (s.ev.cond.getLsbD k = false → t.ev.cond.getLsbD k = true → s.ev.rising.getLsbD k = true →
        t.ev.latch.getLsbD (16 + k) = true)
      ∧ (s.ev.cond.getLsbD k = true → t.ev.cond.getLsbD k = false → s.ev.falling.getLsbD k = true →
        t.ev.latch.getLsbD (16 + k) = true)
      ∧ (s.ev.rising.getLsbD k = false → s.ev.falling.getLsbD k = false → s.ev.latch.getLsbD (16 + k) = false →
        t.ev.latch.getLsbD (16 + k) = false) := by
  have hsame : ∀ f : EventUnit, Traces s.ev f →
      (s.ev.cond.getLsbD k = false → f.cond.getLsbD k = true → s.ev.rising.getLsbD k = true →
        f.latch.getLsbD (16 + k) = true)
      ∧ (s.ev.cond.getLsbD k = true → f.cond.getLsbD k = false → s.ev.falling.getLsbD k = true →
        f.latch.getLsbD (16 + k) = true)
      ∧ (s.ev.rising.getLsbD k = false → s.ev.falling.getLsbD k = false → s.ev.latch.getLsbD (16 + k) = false →
        f.latch.getLsbD (16 + k) = false) :=
    fun f h => ⟨fun h0 h1 hm => h.rose k hk hm h0 h1, fun h1 h0 hm => h.fell k hk hm h1 h0, h.silent k hk⟩
  cases hx with
  | event e w outside cond latch steady ends =>
    subst ends
    have htraces : Traces e (beforeRecords s w).ev :=
      (steady_traces e).beforeRecords s w (steady _ (steady_traces e) (fun _ _ h => h) (Traces.refl e))
    have hwork : Traces e w.st.ev := steady _ (steady_traces e) (fun _ _ h => h) (Traces.refl e)
    rw [finish_rising, hwork.rising] at hrising
    rw [finish_falling, hwork.falling] at hfalling
    refine ⟨fun h0 h1 hm => ?_, fun h1 h0 hm => ?_, fun hr hf hl => ?_⟩
    · exact htraces.rose k hk (hrising ▸ hm) (cond ▸ h0) h1
    · exact htraces.fell k hk (hfalling ▸ hm) (cond ▸ h1) h0
    · refine htraces.silent k hk (hrising ▸ hr) (hfalling ▸ hf) ?_
      rcases latch with e1 | e1
      · rw [e1, hl]
      · simp [e1]
  | still ev _ _ _ =>
    rw [ev]
    exact hsame s.ev (Traces.refl s.ev)
  | reset _ service => exact absurd service ht
  | initEnd inside _ => exact absurd inside hs

/-- Settles O57: an event ends by writing both (`finish_cond`, `finish_irq`), and reaches the latch only by fixed events
and by conditions handed on (`steady_traces`). -/
theorem conditionsAndIrqStayTrue : Obligations.ConditionsAndIrqStayTrue := by
  unfold Obligations.ConditionsAndIrqStayTrue
  refine ⟨fun s t hx hcond hirq hinit => ?_, fun s t hx hs ht hrising hfalling k hk => ?_⟩
  · obtain ⟨q, hq⟩ := step_happens hx
    exact happens_eventTrue hq ⟨hcond, hirq, hinit⟩
  · obtain ⟨q, hq⟩ := step_happens hx
    exact happens_edges hq hs ht hrising hfalling hk

/-! ## The update counts (R169) -/

/-- An update count against the fields of its record: raised by 2 where they differ, and by 2 or not at all. -/
def ruled (a b : Half) (f g : List Field) : Prop := (f ≠ g → b = a + 2) ∧ (b = a ∨ b = a + 2)

theorem ruled_refl (a : Half) (f : List Field) : ruled a a f f := ⟨fun h => absurd rfl h, Or.inl rfl⟩

theorem nextCount_ruled {rewritten : Bool} {f g : List Field} (h : f ≠ g → rewritten = true) (a : Half) :
    ruled a (nextCount rewritten a) f g := by
  refine ⟨fun hne => by rw [h hne]; rfl, ?_⟩
  cases rewritten
  · exact Or.inl rfl
  · exact Or.inr rfl

theorem changed_of_ne {touched : Bool} {f g : List Field} (h : f ≠ g) : (touched || decide (f ≠ g)) = true := by
  rw [decide_eq_true h, Bool.or_true]

theorem countClasses_ruled (touched : List Rec) (os ns : List ClassRec) (d : ClassRec)
    (h : ns.map ClassRec.count = os.map ClassRec.count) (k i : Nat) :
    ruled (os.getD i d).count ((countClasses touched k os ns).getD i d).count (classFields (os.getD i d))
      (classFields ((countClasses touched k os ns).getD i d)) := by
  induction os generalizing ns k i with
  | nil =>
    cases ns with
    | nil => exact ruled_refl _ _
    | cons n ns => cases h
  | cons o os ih =>
    cases ns with
    | nil => cases h
    | cons n ns =>
      obtain ⟨hcount, hrest⟩ := List.cons.inj h
      cases i with
      | zero =>
        show ruled o.count (nextCount _ n.count) (classFields o) (classFields n)
        rw [hcount]
        exact nextCount_ruled changed_of_ne _
      | succ i => exact ih ns hrest (k + 1) i

theorem countFlows_ruled (touched : List Rec) (os ns : List FlowRec) (d : FlowRec)
    (h : ns.map FlowRec.count = os.map FlowRec.count) (k i : Nat) :
    ruled (os.getD i d).count ((countFlows touched k os ns).getD i d).count (flowFields (os.getD i d))
      (flowFields ((countFlows touched k os ns).getD i d)) := by
  induction os generalizing ns k i with
  | nil =>
    cases ns with
    | nil => exact ruled_refl _ _
    | cons n ns => cases h
  | cons o os ih =>
    cases ns with
    | nil => cases h
    | cons n ns =>
      obtain ⟨hcount, hrest⟩ := List.cons.inj h
      cases i with
      | zero =>
        show ruled o.count (nextCount _ n.count) (flowFields o) (flowFields n)
        rw [hcount]
        refine nextCount_ruled (fun hne => ?_) _
        have hrec : o ≠ n := fun e => hne (congrArg flowFields e)
        rw [decide_eq_true hrec, Bool.true_and, decide_eq_true hne, Bool.or_true]
      | succ i => exact ih ns hrest (k + 1) i

/-- The update counts are those of this state. -/
def State.countsAs (s t : State) : Prop :=
  t.counts = s.counts ∧ t.classes.map ClassRec.count = s.classes.map ClassRec.count
    ∧ t.flows.map FlowRec.count = s.flows.map FlowRec.count

theorem steady_countsAs (s : State) : Steady s.countsAs where
  quiet := fun _ _ h hs => ⟨h.counts.trans hs.1, h.classes.trans hs.2.1, h.flows.trans hs.2.2⟩
  latched := fun _ _ _ h => h
  handed := by
    intro w h
    unfold State.countsAs at *
    rwa [handConditions_counts, handConditions_classes, handConditions_flows]

/-- What O54 says of an event's begin and end. -/
def State.recordsRuled (s t : State) : Prop :=
  ruled s.counts.header t.counts.header (headerFields s) (headerFields t)
    ∧ ruled s.counts.fibre t.counts.fibre (pathFields s .fibre) (pathFields t .fibre)
    ∧ ruled s.counts.radio t.counts.radio (pathFields s .radio) (pathFields t .radio)
    ∧ ruled s.counts.allowance t.counts.allowance (allowanceFields s.allow) (allowanceFields t.allow)
    ∧ ruled s.counts.radioUnit t.counts.radioUnit (radioFields s) (radioFields t)
    ∧ ruled s.counts.supply t.counts.supply (supplyFields s.sup s.drill) (supplyFields t.sup t.drill)
    ∧ ruled s.counts.hold t.counts.hold (holdFields s.hold s.steer) (holdFields t.hold t.steer)
    ∧ ruled s.counts.forwarding t.counts.forwarding (forwardingFields s.fwd) (forwardingFields t.fwd)
    ∧ (∀ i : Nat, ruled (s.cls i).count (t.cls i).count (classFields (s.cls i)) (classFields (t.cls i)))
    ∧ (∀ i : Nat, ruled (s.flow i).count (t.flow i).count (flowFields (s.flow i)) (flowFields (t.flow i)))

theorem rewriteRecords_ruled {s t : State} (touched : List Rec) (h : s.countsAs t) :
    s.recordsRuled (rewriteRecords s touched t) := by
  obtain ⟨hcounts, hclasses, hflows⟩ := h
  unfold State.recordsRuled rewriteRecords
  dsimp only
  rw [hcounts]
  exact ⟨nextCount_ruled changed_of_ne _, nextCount_ruled changed_of_ne _, nextCount_ruled changed_of_ne _,
    nextCount_ruled changed_of_ne _, nextCount_ruled changed_of_ne _, nextCount_ruled changed_of_ne _,
    nextCount_ruled changed_of_ne _, nextCount_ruled changed_of_ne _,
    fun i => countClasses_ruled touched _ _ _ hclasses 0 i, fun i => countFlows_ruled touched _ _ _ hflows 0 i⟩

theorem recordsRuled_refl (s : State) : s.recordsRuled s :=
  ⟨ruled_refl _ _, ruled_refl _ _, ruled_refl _ _, ruled_refl _ _, ruled_refl _ _, ruled_refl _ _, ruled_refl _ _,
    ruled_refl _ _, fun _ => ruled_refl _ _, fun _ => ruled_refl _ _⟩

theorem happens_recordsRuled {s t : State} (hx : Happens s t) (hs : s.exch.service ≠ .init)
    (ht : t.exch.service ≠ .init) : s.recordsRuled t := by
  cases hx with
  | event e w outside cond latch steady ends =>
    subst ends
    have hcounts : s.countsAs (beforeRecords s w) :=
      (steady_countsAs s).beforeRecords s w (steady _ (steady_countsAs s) (fun _ _ h => h) ⟨rfl, rfl, rfl⟩)
    exact rewriteRecords_ruled (reportFlows s.flows (handConditions w)).touched hcounts
  | still _ _ _ outside =>
    obtain ⟨m, r, h, n, c, q, k, rfl⟩ := outside hs
    exact recordsRuled_refl s
  | reset _ service => exact absurd service ht
  | initEnd inside _ => exact absurd inside hs

/-- Settles O54: an event's own work leaves the counts (`steady_countsAs`), and its end raises them by `nextCount`. -/
theorem changedRecordsRewritten : Obligations.ChangedRecordsRewritten := by
  unfold Obligations.ChangedRecordsRewritten
  intro c s t hx hs ht
  exact happens_recordsRuled (exec_happens hx) hs ht

end Sys2Proof.Machine
end


section
/-! Bindings: which properties of the paths of classes, the course of flows and the frames in the hold buffer every
command keeps; the pinned flows, and the frames that wait. -/

namespace Sys2Proof.Machine

/-- The second state has the class paths and the course of the flows of the first, and holds none but its frames. -/
def State.binds (s t : State) : Prop := t.bound (s.classes.map ClassRec.cur) (s.flows.map FlowRec.course) s.fwd.held

/-- The properties that depend on bindings alone and that the commands which change bindings keep. -/
structure Bindings (P : State → Prop) : Prop where
  respects : ∀ s t, s.binds t → P s → P t
  passes : ∀ w, P w.st → P (passes w).st
  opened : ∀ (i cls idle : Nat) (w : Work), w.st.exch.service = .service → (w.st.flow i).state = .free → P w.st →
    P (w.onFlow i (FlowRec.opening cls idle (w.st.cls cls).cur w.now)).st
  freed : ∀ i w, P w.st → P (freeFlow i w).st
  expired : ∀ (i : Nat) (w : Work), (w.st.flow i).state.live = true → P w.st → P (expireFlow i w).st
  returned : ∀ cls w, P w.st → P (returnFlows cls w).st
  cameBack : ∀ (i : Nat) (w : Work), (w.st.flow i).pinned = true → P w.st → P (gapReturn i w).st
  placed : ∀ (path : ClassPath) (cls : Nat) (flow : Option Nat) (d : List Byte) (w : Work),
    (path = .waiting → ∀ t, w.st.bindingPath { data := d, cls := cls, flow := flow, arrival := t } = .waiting) →
    P w.st → P (placeOutbound path cls flow d w).st

namespace Bindings

variable {P : State → Prop} (H : Bindings P)
include H

/-- An operation that binds as before keeps the property. -/
theorem keeps {v w : Work} (hb : ∀ cs fs hs, State.bound cs fs hs v.st → State.bound cs fs hs w.st) (h : P v.st) :
    P w.st := H.respects v.st w.st (hb _ _ _ (bound_self v.st)) h

theorem closed : Closed True True True False True False P where
  path := fun s p f hp hf => H.respects s _ ((closed_bound _ _ _).path s p f hp hf (bound_self s))
  probe := fun hB s p f hp hf => H.respects s _ ((closed_bound _ _ _).probe hB s p f hp hf (bound_self s))
  grade := fun _ s _ => H.respects s _ (bound_self s)
  ru := fun s _ _ => H.respects s _ (bound_self s)
  ruEvent := fun _ s _ _ => H.respects s _ (bound_self s)
  aim := fun _ s _ _ _ => H.respects s _ (bound_self s)
  demand := fun _ s _ _ => H.respects s _ (bound_self s)
  ret := fun _ s _ _ => H.respects s _ (bound_self s)
  classes := fun s cs hp hc => H.respects s _ ((closed_bound _ _ _).classes s cs hp hc (bound_self s))
  hold := fun s _ _ => H.respects s _ (bound_self s)
  flows := fun s fs hi hc => H.respects s _ ((closed_bound _ _ _).flows s fs hi hc (bound_self s))
  free := fun h => h.elim
  fwd := fun s f hf => H.respects s _ ((closed_bound _ _ _).fwd s f hf (bound_self s))
  fwdEvent := fun h => h.elim
  allow := fun s _ => H.respects s _ (bound_self s)
  drill := fun s _ _ => H.respects s _ (bound_self s)
  ev := fun s _ _ => H.respects s _ (bound_self s)
  fin := fun _ s _ _ _ => H.respects s _ (bound_self s)

theorem reported : Reported P where
  counts := fun s _ => H.respects s _ (bound_self s)
  flowChanges := fun s _ => H.respects s _ (bound_self s)
  classes := fun s cs hc => H.respects s _ ((reported_bound _ _ _).classes s cs hc (bound_self s))
  flows := fun s fs hf => H.respects s _ ((reported_bound _ _ _).flows s fs hf (bound_self s))
  irq := fun s _ => H.respects s _ (bound_self s)

theorem onPath (s : State) (p : Path) (f : PathRec → PathRec) (h : P s) : P (s.onPath p f) := by
  refine H.respects s _ ?_ h
  cases p
  · exact bound_self s
  · exact bound_self s

theorem setService (n : Service) (w : Work) (h : P w.st) : P (setService n w).st :=
  H.respects w.st _ (bound_self w.st) h

theorem freeFlows (l : List Nat) (w : Work) (h : P w.st) : P (freeFlows l w).st := by
  induction l generalizing w with
  | nil => exact h
  | cons i l ih =>
    refine ih _ ?_
    split
    · exact h
    · exact H.freed i w h

theorem stopSteps (w : Work) (h : P w.st) : P (stopSteps w).st := by
  have C := H.closed
  unfold Machine.stopSteps
  generalize List.range 128 = records
  have h1 := C.handConditions _ (H.freeFlows records _ (C.endDrill .aborted .stopped _ h))
  have h2 := C.stopLinger trivial _ (C.flushQueue .radio _ (C.endHold .stopped _ (Or.inl trivial) h1))
  have h3 := C.settle .radio (Or.inl rfl) _ (C.settle .fibre (Or.inr trivial) _ (H.setService .config _ h2))
  exact C.backToUp .radio (Or.inl rfl) (Or.inl trivial) _ (C.backToUp .fibre (Or.inr trivial) (Or.inl trivial) _ h3)

theorem kept : Kept True P where
  closed := H.closed
  exch := fun s _ _ => H.respects s _ (bound_self s)
  mem := fun s _ _ => H.respects s _ (bound_self s)
  gens := fun s _ => H.respects s _ (bound_self s)
  path := fun s p f _ => H.onPath s p f
  fin := fun s _ => H.respects s _ (bound_self s)
  ru := fun s _ _ => H.respects s _ (bound_self s)
  steer := fun s _ => H.respects s _ (bound_self s)
  classes := fun s _ hc => H.respects s _ ⟨hc, rfl, fun _ hx => hx⟩
  hold := fun s _ _ => H.respects s _ (bound_self s)
  times := fun s _ hf => H.respects s _ ⟨rfl, hf, fun _ hx => hx⟩
  receive := fun s _ hf _ => H.respects s _ ⟨rfl, rfl, fun _ hx => hf ▸ hx⟩
  allow := fun s _ _ => H.respects s _ (bound_self s)
  sup := fun s _ => H.respects s _ (bound_self s)
  drill := fun s _ _ => H.respects s _ (bound_self s)
  ev := fun s _ _ => H.respects s _ (bound_self s)
  tick := fun g p => H.closed.offerTick trivial g p (Or.inr trivial)
  resolve := fun p => H.closed.resolveProbe trivial p (Or.inr trivial)
  shaped := fun p => H.closed.takeProbeShaped trivial p (Or.inr trivial)
  decay := fun p => H.closed.decayTick trivial p (Or.inr trivial)
  passes := H.passes
  started := H.setService .service
  stopped := H.stopSteps
  opened := H.opened
  freed := H.freed
  expired := H.expired
  returned := H.returned
  cameBack := H.cameBack
  placed := H.placed

/-- With the flow table empty after a reset and its update counts cleared at the end of INIT, every step keeps it. -/
theorem timeless (hreset : ∀ b s, P (resetTo b s)) : Timeless P where
  ev := fun s _ => H.respects s _ (bound_self s)
  reset := fun b s _ => hreset b s
  init := fun s _ => H.respects s _
    ⟨map_map_keep ClassRec.cur (fun c => { c with count := 0 }) (fun _ => rfl) s.classes,
      map_map_keep FlowRec.course (fun f => { f with count := 0 }) (fun _ => rfl) s.flows, fun _ hx => hx⟩
  clk := fun s _ => H.respects s _ (bound_self s)
  queue := fun s _ _ => H.respects s _ (bound_self s)

end Bindings

/-! ## What the flow commands leave of flows and held frames -/

theorem releaseFrames_binds (i : Nat) (w : Work) : w.st.binds (releaseFrames i w).st :=
  (closed_bound _ _ _).releaseFrames i w (bound_self w.st)

theorem endFlow_binds (i : Nat) (w : Work) : w.st.binds (handConditions (releaseFrames i w)).oweDemand.st :=
  (closed_bound _ _ _).oweDemand _ ((closed_bound _ _ _).handConditions _ (releaseFrames_binds i w))

theorem handConditions_binds (w : Work) : w.st.binds (handConditions w).oweDemand.st :=
  (closed_bound _ _ _).oweDemand _ ((closed_bound _ _ _).handConditions _ (bound_self w.st))

/-- The release of a flow's frames leaves none of them in the hold buffer. -/
theorem releaseFrames_held (i : Nat) (w : Work) {h : HeldFrame} (hh : h ∈ (releaseFrames i w).st.fwd.held) :
    h ∈ w.st.fwd.held ∧ h.flow ≠ some i := by
  have hdrop : ∀ tally, ∀ x ∈ (dropHeld (fun h => decide (h.flow = some i)) tally w).st.fwd.held,
      x ∈ w.st.fwd.held ∧ x.flow ≠ some i := by
    intro tally x hx
    unfold dropHeld at hx
    dsimp only at hx
    split at hx
    · rename_i hnone
      refine ⟨hx, fun hflow => ?_⟩
      have hin : x ∈ w.st.fwd.held.filter fun h => decide (h.flow = some i) := by simp [hx, hflow]
      rw [List.length_eq_zero_iff.mp hnone] at hin
      cases hin
    · have hx : x ∈ w.st.fwd.held.filter fun h => !decide (h.flow = some i) := hx
      simpa using hx
  exact hdrop ForwardCounts.discardHeld h hh

theorem onFlow_flow_other (i j : Nat) (f : FlowRec → FlowRec) (w : Work) (h : j ≠ i) :
    (w.onFlow i f).st.flow j = w.st.flow j := by
  show (w.st.flows.set i _).getD j _ = w.st.flows.getD j _
  rw [List.getD_eq_getElem?_getD, List.getD_eq_getElem?_getD, List.getElem?_set_ne (Ne.symm h)]

/-- A frame that is not bound to a flow record keeps its path when that record changes. -/
theorem bindingPath_onFlow_other (i : Nat) (f : FlowRec → FlowRec) (w : Work) {h : HeldFrame} (hh : h.flow ≠ some i) :
    (w.onFlow i f).st.bindingPath h = w.st.bindingPath h := by
  unfold State.bindingPath
  split
  · rfl
  · rename_i j hj
    rw [onFlow_flow_other i j f w fun e => hh (e ▸ hj)]

theorem bindingPath_flow {s : State} {h : HeldFrame} {i : Nat} (hf : h.flow = some i) (hw : s.bindingPath h = .waiting) :
    (s.flow i).state = .waiting := by
  unfold State.bindingPath at hw
  rw [hf] at hw
  dsimp only at hw
  generalize (s.flow i).state = x at hw ⊢
  cases x with
  | carried p => cases p <;> cases hw
  | waiting => rfl
  | free => cases hw
  | blocked => cases hw
  | expired => cases hw

/-- A flow record that is not the default one is in the table. -/
theorem flow_mem {s : State} {i : Nat} (h : s.flow i ≠ FlowRec.freed 0) : s.flow i ∈ s.flows := by
  unfold State.flow at *
  by_cases hi : i < s.flows.length
  · rw [List.getD_eq_getElem _ _ hi]
    exact List.getElem_mem hi
  · rw [List.getD_eq_default _ _ (Nat.le_of_not_lt hi)] at h
    exact absurd rfl h

theorem pinned_state {s : State} (h : s.pinsOnRadio) {i : Nat} (hp : (s.flow i).pinned = true) :
    (s.flow i).state = .carried .radio := by
  refine h _ (flow_mem fun e => ?_) hp
  rw [e] at hp
  cases hp

/-! ## Pinned flows stay on radio (R107, R108) -/

/-- A record written without a pin. -/
theorem pinsOnRadio_onFlow {w : Work} (i : Nat) (f : FlowRec → FlowRec) (hf : ∀ r, (f r).pinned = false)
    (h : w.st.pinsOnRadio) : (w.onFlow i f).st.pinsOnRadio := by
  intro x hx hp
  rcases List.mem_or_eq_of_mem_set hx with hold | hnew
  · exact h x hold hp
  · rw [hnew, hf] at hp
    cases hp

theorem pinsOnRadio_respects (s t : State) (h : s.binds t) (hs : s.pinsOnRadio) : t.pinsOnRadio :=
  pinsOnRadio_of_course h.2.1 hs

theorem returnFlows_pins (cls : Nat) (w : Work) (h : w.st.pinsOnRadio) : (returnFlows cls w).st.pinsOnRadio := by
  refine pinsOnRadio_respects _ _ (handConditions_binds _) ?_
  intro x hx hp
  obtain ⟨f, hf, rfl⟩ := List.mem_map.mp hx
  split at hp
  · cases hp
  · rename_i hgap
    rw [if_neg hgap]
    exact h f hf hp

theorem placeOutbound_flows (path : ClassPath) (cls : Nat) (flow : Option Nat) (d : List Byte) (w : Work) :
    (placeOutbound path cls flow d w).st.flows.map FlowRec.course = w.st.flows.map FlowRec.course := by
  cases path with
  | fibre => exact ((closed_bound _ _ _).enterBand _ _ _ w (bound_self w.st)).2.1
  | radio => exact ((closed_bound _ _ _).enterBand _ _ _ w (bound_self w.st)).2.1
  | waiting =>
    unfold placeOutbound holdFrame
    dsimp only
    split <;> rfl
  | blocked => exact ((closed_bound _ _ _).dropBlocked _ w (bound_self w.st)).2.1

theorem bindings_pinsOnRadio : Bindings State.pinsOnRadio where
  respects := pinsOnRadio_respects
  passes := passes_pinsOnRadio
  opened := fun i cls idle w _ _ h => pinsOnRadio_onFlow i (FlowRec.opening cls idle (w.st.cls cls).cur w.now) (fun _ => rfl) h
  freed := fun i _ h => pinsOnRadio_respects _ _ (releaseFrames_binds i _)
    (pinsOnRadio_onFlow i (fun f => FlowRec.freed f.count) (fun _ => rfl) h)
  expired := fun i _ _ h => pinsOnRadio_respects _ _ (endFlow_binds i _)
    (pinsOnRadio_onFlow i (fun f => { f with state := .expired, pinned := false }) (fun _ => rfl) h)
  returned := returnFlows_pins
  cameBack := fun i w _ h => pinsOnRadio_respects _ _ (handConditions_binds _)
    (pinsOnRadio_onFlow i (FlowRec.comeBack (w.st.cls (w.st.flow i).cls).cur) (fun _ => rfl) h)
  placed := fun path cls flow d w _ => pinsOnRadio_of_course (placeOutbound_flows path cls flow d w)

theorem resetTo_pinsOnRadio (b : Bool) (s : State) : (resetTo b s).pinsOnRadio := by
  intro f hf hp
  rw [flows_reset_free f hf] at hp
  cases hp

/-! ## Held frames wait (R121, R129, R130) -/

/-- Pinned flows are on radio, and held frames wait. -/
def State.heldWell (s : State) : Prop := s.pinsOnRadio ∧ s.heldFramesWait

theorem heldWell_respects (s t : State) (h : s.binds t) (hs : s.heldWell) : t.heldWell :=
  ⟨pinsOnRadio_respects s t h hs.1, heldFramesWait_of_bound h hs.2⟩

/-- A flow record that is not WAITING binds no held frame, so that it may change. -/
theorem heldFramesWait_onFlow {w : Work} (i : Nat) (f : FlowRec → FlowRec) (hi : (w.st.flow i).state ≠ .waiting)
    (h : w.st.heldFramesWait) : (w.onFlow i f).st.heldFramesWait := by
  intro x hx
  have hx : x ∈ w.st.fwd.held := hx
  have hother : x.flow ≠ some i := fun e => hi (bindingPath_flow e (h x hx))
  exact (bindingPath_onFlow_other i f w hother).trans (h x hx)

/-- A flow record whose frames are released may change. -/
theorem heldFramesWait_release {w : Work} (i : Nat) (f : FlowRec → FlowRec) (h : w.st.heldFramesWait) :
    (releaseFrames i (w.onFlow i f)).st.heldFramesWait := by
  intro x hx
  obtain ⟨hin, hother⟩ := releaseFrames_held i _ hx
  have hbinds := releaseFrames_binds i (w.onFlow i f)
  rw [bindingPath_congr hbinds.1 hbinds.2.1, bindingPath_onFlow_other i f w hother]
  exact h x hin

theorem freeFlow_heldWell (i : Nat) (w : Work) (h : w.st.heldWell) : (freeFlow i w).st.heldWell :=
  ⟨bindings_pinsOnRadio.freed i w h.1, heldFramesWait_release i (fun f => FlowRec.freed f.count) h.2⟩

theorem expireFlow_heldWell (i : Nat) (w : Work) (hl : (w.st.flow i).state.live = true) (h : w.st.heldWell) : (expireFlow i w).st.heldWell :=
  ⟨bindings_pinsOnRadio.expired i w hl h.1, heldFramesWait_of_bound (handConditions_binds _)
    (heldFramesWait_release i (fun f => { f with state := .expired, pinned := false }) h.2)⟩

theorem returnFlows_heldWell (cls : Nat) (w : Work) (h : w.st.heldWell) : (returnFlows cls w).st.heldWell := by
  refine ⟨returnFlows_pins cls w h.1, heldFramesWait_of_bound (handConditions_binds _) ?_⟩
  intro x hx
  have hx : x ∈ w.st.fwd.held := hx
  have hwait := h.2 x hx
  rw [← hwait]
  unfold State.bindingPath
  split
  · rfl
  · rename_i j hj
    have hstate := bindingPath_flow hj hwait
    have hpin : (w.st.flow j).pinned = false := by
      by_contra hp
      rw [pinned_state h.1 (Bool.eq_true_of_not_eq_false hp)] at hstate
      cases hstate
    have hsame : ∀ s : State, s.flows = (w.st.flows.map fun f =>
        if f.gapPassed w.now cls (w.st.cls cls).gap then f.comeBack (w.st.cls cls).cur else f) →
        s.flow j = w.st.flow j := by
      intro s hs
      have hmem := flow_mem (s := w.st) (i := j) fun e => by rw [e] at hstate; cases hstate
      unfold State.flow at *
      have hj : j < w.st.flows.length := by
        by_contra hlen
        rw [List.getD_eq_default _ _ (Nat.le_of_not_lt hlen)] at hstate
        cases hstate
      rw [hs, List.getD_eq_getElem _ _ (by rwa [List.length_map]), List.getElem_map, List.getD_eq_getElem _ _ hj]
      rw [List.getD_eq_getElem _ _ hj] at hpin
      rw [if_neg]
      unfold FlowRec.gapPassed
      simp [hpin]
    rw [hsame _ rfl]

theorem gapReturn_heldWell (i : Nat) (w : Work) (hp : (w.st.flow i).pinned = true) (h : w.st.heldWell) :
    (gapReturn i w).st.heldWell := by
  refine ⟨bindings_pinsOnRadio.cameBack i w hp h.1, heldFramesWait_of_bound (handConditions_binds _) ?_⟩
  refine heldFramesWait_onFlow i _ (fun hw => ?_) h.2
  rw [pinned_state h.1 hp] at hw
  cases hw

theorem placeOutbound_held (path : ClassPath) (cls : Nat) (flow : Option Nat) (d : List Byte) (w : Work)
    (hwait : path = .waiting → ∀ t, w.st.bindingPath { data := d, cls := cls, flow := flow, arrival := t } = .waiting)
    (h : w.st.heldFramesWait) : (placeOutbound path cls flow d w).st.heldFramesWait := by
  cases path with
  | fibre => exact heldFramesWait_of_bound ((closed_bound _ _ _).enterBand _ _ _ w (bound_self w.st)) h
  | radio => exact heldFramesWait_of_bound ((closed_bound _ _ _).enterBand _ _ _ w (bound_self w.st)) h
  | blocked => exact heldFramesWait_of_bound ((closed_bound _ _ _).dropBlocked _ w (bound_self w.st)) h
  | waiting =>
    unfold placeOutbound holdFrame
    dsimp only
    split
    · exact heldFramesWait_of_bound (bound_self w.st) h
    · intro x hx
      rcases List.mem_append.mp hx with hold | hnew
      · exact h x hold
      · rw [List.mem_singleton.mp hnew]
        exact hwait rfl _

theorem bindings_heldWell : Bindings State.heldWell where
  respects := heldWell_respects
  passes := fun w h => ⟨passes_pinsOnRadio w h.1, passes_heldFramesWait w h.2⟩
  opened := fun i cls idle w hs hi h => ⟨bindings_pinsOnRadio.opened i cls idle w hs hi h.1,
    heldFramesWait_onFlow i _ (fun e => by rw [hi] at e; cases e) h.2⟩
  freed := freeFlow_heldWell
  expired := expireFlow_heldWell
  returned := returnFlows_heldWell
  cameBack := gapReturn_heldWell
  placed := fun path cls flow d w hwait h =>
    ⟨bindings_pinsOnRadio.placed path cls flow d w hwait h.1, placeOutbound_held path cls flow d w hwait h.2⟩

theorem resetTo_heldWell (b : Bool) (s : State) : (resetTo b s).heldWell :=
  ⟨resetTo_pinsOnRadio b s, fun _ hx => nomatch hx⟩

/-- Settles O59: `step_withinBounds`, and the two properties of bindings. -/
theorem storesStayBounded : Obligations.StoresStayBounded := by
  unfold Obligations.StoresStayBounded
  intro s t hx
  refine ⟨step_withinBounds hx, fun h => ?_, fun hp hh => ?_⟩
  · exact bindings_pinsOnRadio.kept.upheld.step bindings_pinsOnRadio.reported
      (bindings_pinsOnRadio.timeless resetTo_pinsOnRadio) hx h
  · exact (bindings_heldWell.kept.upheld.step bindings_heldWell.reported (bindings_heldWell.timeless resetTo_heldWell) hx
      ⟨hp, hh⟩).2

end Sys2Proof.Machine
end


section
/-! The radio unit's target, and what stands only in SERVICE: what every step keeps of the target, of the drill, the hold
and the flows, and of the FIBRE hold. -/

namespace Sys2Proof.Machine

/-! ## The target (R73) -/

/-- An operation that leaves the target and its inputs, whatever these are, keeps the target right. -/
theorem onTarget_keeps {v w : Work} (h : ∀ A, v.st.aim = A → w.st.aim = A) (hv : v.st.onTarget) : w.st.onTarget :=
  onTarget_of_aim (h _ rfl) hv

theorem closed_onTarget : Closed False True True False False False State.onTarget where
  path := fun s p f hp hf => onTarget_of_aim ((closed_aim False True True False _).path s p f hp hf rfl)
  probe := fun hB s p f hp hf => onTarget_of_aim ((closed_aim False True True False _).probe hB s p f hp hf rfl)
  grade := fun _ _ _ h => h
  ru := fun s r hr => onTarget_of_aim ((closed_aim False True True False _).ru s r hr rfl)
  ruEvent := fun hM s r hr => onTarget_of_aim ((closed_aim False True True False _).ruEvent hM s r hr rfl)
  aim := fun h => h.elim
  demand := fun h => h.elim
  ret := fun h => h.elim
  classes := fun _ _ _ _ h => h
  hold := fun _ _ _ h => h
  flows := fun _ _ _ _ h => h
  free := fun h => h.elim
  fwd := fun _ _ _ h => h
  fwdEvent := fun h => h.elim
  allow := fun _ _ h => h
  drill := fun _ _ _ h => h
  ev := fun _ _ _ h => h
  fin := fun h => h.elim

theorem changeSupply_onTarget (n : Supply) (w : Work) : (changeSupply n w).st.onTarget := by
  unfold changeSupply
  exact recomputeTarget_onTarget _

theorem returnFlows_onTarget (cls : Nat) (w : Work) (h : w.st.onTarget) : (returnFlows cls w).st.onTarget := by
  refine onTarget_keeps (v := w) (fun A hA => ?_) h
  unfold returnFlows
  exact (closed_aim True True True True A).oweDemand _ ((closed_aim True True True True A).handConditions _ hA)

theorem gapReturn_onTarget (i : Nat) (w : Work) (h : w.st.onTarget) : (gapReturn i w).st.onTarget := by
  refine onTarget_keeps (v := w) (fun A hA => ?_) h
  unfold gapReturn
  exact (closed_aim True True True True A).oweDemand _ ((closed_aim True True True True A).handConditions _ hA)

theorem upheld_onTarget : Upheld True State.onTarget where
  closed := closed_onTarget
  exch := fun s e he => onTarget_of_aim (by unfold State.aim; rw [he])
  mem := fun _ _ _ h => h
  gens := fun _ _ h => h
  path := fun s p f _ => by cases p <;> exact id
  fin := fun _ _ h => h
  ru := fun s r hr => onTarget_of_aim (by unfold State.aim; rw [hr.target, hr.lingerOn, hr.standby])
  steer := fun s t ht => onTarget_of_aim (by unfold State.aim; rw [ht])
  classes := fun _ _ _ h => h
  times := fun _ _ _ h => h
  receive := fun _ _ _ _ h => h
  allow := fun _ _ _ h => h
  sup := fun s m hm => onTarget_of_aim (by unfold State.aim; rw [hm])
  ev := fun _ _ _ h => h
  tick := fun g p w => onTarget_keeps fun A => (closed_aim True True True True A).offerTick trivial g p (Or.inr trivial) w
  resolve := fun p q r w =>
    onTarget_keeps fun A => (closed_aim True True True True A).resolveProbe trivial p (Or.inr trivial) q r w
  shaped := fun p d w =>
    onTarget_keeps fun A => (closed_aim True True True True A).takeProbeShaped trivial p (Or.inr trivial) d w
  decay := fun p w => onTarget_keeps fun A => (closed_aim True True True True A).decayTick trivial p (Or.inr trivial) w
  settle := fun p w => onTarget_keeps fun A => (closed_aim True True True True A).settle p (Or.inr trivial) w
  linkOnly := fun p was w =>
    onTarget_keeps fun A => (closed_aim True True True True A).becameLinkOnly p (Or.inr trivial) (Or.inl trivial) was w
  release := fun p w =>
    onTarget_keeps fun A => (closed_aim True True True True A).releaseSuppressed p (Or.inr trivial) (Or.inl trivial) w
  watch := fun w => onTarget_keeps fun A => (closed_aim True True True True A).watchFibre trivial w
  available := fun w => onTarget_keeps fun A => (closed_aim True True True True A).fibreSettled trivial w
  hold := fun _ _ _ _ _ h => h
  endHold := fun r w => onTarget_keeps fun A => (closed_aim True True True True A).endHold r w (Or.inl trivial)
  drill := fun _ _ _ h => h
  passes := passes_onTarget
  demand := fun w _ => recomputeDemand_onTarget w
  configured := fun _ _ _ _ _ _ => recomputeTarget_onTarget _
  released := fun _ _ => recomputeTarget_onTarget _
  lingered := fun _ _ => recomputeTarget_onTarget _
  supplied := fun n w _ => changeSupply_onTarget n w
  started := fun _ _ => recomputeTarget_onTarget _
  stopped := fun _ _ _ => recomputeTarget_onTarget _
  opened := fun _ _ _ _ _ _ h => h
  freed := fun i w => onTarget_keeps fun A => (closed_aim True True True True A).releaseFrames i
    (w.onFlow i fun f => FlowRec.freed f.count)
  expired := fun i w _ => onTarget_keeps fun A h =>
    (closed_aim True True True True A).oweDemand _ ((closed_aim True True True True A).handConditions _
      ((closed_aim True True True True A).releaseFrames i (w.onFlow i fun f => { f with state := .expired, pinned := false }) h))
  returned := returnFlows_onTarget
  cameBack := fun i w _ => gapReturn_onTarget i w
  placed := fun path cls flow d w _ =>
    onTarget_keeps fun A => (closed_aim True True True True A).placeOutbound trivial path cls flow d w

theorem timeless_onTarget : Timeless State.onTarget where
  ev := fun _ _ h => h
  reset := fun _ _ _ => rfl
  init := fun s hs h => by
    have hoff : s.ru.target = .off := h.trans (if_pos (by rw [hs]; decide))
    exact hoff.trans (if_pos (by decide : ¬Service.config = Service.service)).symm
  clk := fun _ _ h => h
  queue := fun _ _ _ h => h

theorem reported_onTarget : Reported State.onTarget where
  counts := fun _ _ h => h
  flowChanges := fun _ _ h => h
  classes := fun _ _ _ h => h
  flows := fun _ _ _ h => h
  irq := fun _ _ h => h

end Sys2Proof.Machine
end


section
/-! What stands only in SERVICE: the drill, the hold and the flow records in use. -/

namespace Sys2Proof.Machine

/-- From the first state to the second the service state stays, no drill and no hold begins, and every flow record keeps
its state and its pin. -/
structure State.GoesOn (s t : State) : Prop where
  service : t.exch.service = s.exch.service
  drill : t.drill.running = true → s.drill.running = true
  hold : t.hold.active = true → s.hold.active = true
  classes : t.classes.length = s.classes.length
  flows : t.flows.map FlowRec.course = s.flows.map FlowRec.course

theorem State.GoesOn.refl (s : State) : s.GoesOn s := ⟨rfl, id, id, rfl, rfl⟩

theorem active_of_holdStep {F : Prop} {h h' : Hold} (hs : HoldStep F h h') (ha : h'.active = true) : h.active = true := by
  rcases hs.goesOn with ⟨hsame, -, -⟩ | ⟨hwas, -, -⟩
  · exact hsame ▸ ha
  · exact hwas

theorem running_of_drillStep {d d' : Drill} (hs : DrillStep d d') (hr : d'.running = true) : d.running = true := by
  rcases hs.ends with hsame | ⟨hwas, -, -⟩
  · exact hsame ▸ hr
  · exact hwas

theorem closed_goesOn (s0 : State) : Closed True True True False True False fun t => s0.GoesOn t where
  path := fun s p _ _ _ h => by cases p <;> exact ⟨h.service, h.drill, h.hold, h.classes, h.flows⟩
  probe := fun _ s p _ _ _ h => by cases p <;> exact ⟨h.service, h.drill, h.hold, h.classes, h.flows⟩
  grade := fun _ _ _ h => ⟨h.service, h.drill, h.hold, h.classes, h.flows⟩
  ru := fun _ _ _ h => ⟨h.service, h.drill, h.hold, h.classes, h.flows⟩
  ruEvent := fun _ _ _ _ h => ⟨h.service, h.drill, h.hold, h.classes, h.flows⟩
  aim := fun _ _ _ _ _ h => ⟨h.service, h.drill, h.hold, h.classes, h.flows⟩
  demand := fun _ _ _ _ h => ⟨h.service, h.drill, h.hold, h.classes, h.flows⟩
  ret := fun _ _ _ _ h => ⟨h.service, h.drill, h.hold, h.classes, h.flows⟩
  classes := fun _ _ hp _ h => ⟨h.service, h.drill, h.hold, (length_of_map_eq _ hp).trans h.classes, h.flows⟩
  hold := fun _ _ hs h => ⟨h.service, h.drill, h.hold ∘ active_of_holdStep hs, h.classes, h.flows⟩
  flows := fun _ _ _ hc h => ⟨h.service, h.drill, h.hold, h.classes, (hc.resolve_left id).trans h.flows⟩
  free := fun h => h.elim
  fwd := fun _ _ _ h => ⟨h.service, h.drill, h.hold, h.classes, h.flows⟩
  fwdEvent := fun h => h.elim
  allow := fun _ _ h => ⟨h.service, h.drill, h.hold, h.classes, h.flows⟩
  drill := fun _ _ hs h => ⟨h.service, h.drill ∘ running_of_drillStep hs, h.hold, h.classes, h.flows⟩
  ev := fun _ _ _ h => ⟨h.service, h.drill, h.hold, h.classes, h.flows⟩
  fin := fun _ _ _ _ _ h => ⟨h.service, h.drill, h.hold, h.classes, h.flows⟩

/-- Eight classes and 128 flow records, pins on live records alone, and outside SERVICE no drill, hold or flow. -/
def State.inUse (s : State) : Prop := s.tables ∧ s.pinsLive ∧ s.quietOutsideService

theorem pinsLive_of_course {s t : State} (h : t.flows.map FlowRec.course = s.flows.map FlowRec.course)
    (hs : s.pinsLive) : t.pinsLive := by
  intro f hf hp
  obtain ⟨g, hg, e⟩ := List.mem_map.mp (h ▸ List.mem_map_of_mem hf : f.course ∈ s.flows.map FlowRec.course)
  have hstate : g.state = f.state := congrArg Prod.fst e
  have hpin : g.pinned = f.pinned := congrArg Prod.snd e
  exact hstate ▸ hs g hg (hpin.trans hp)

theorem allFree_of_course {s t : State} (h : t.flows.map FlowRec.course = s.flows.map FlowRec.course)
    (hs : ∀ f ∈ s.flows, f.state = .free) : ∀ f ∈ t.flows, f.state = .free := by
  intro f hf
  obtain ⟨g, hg, e⟩ := List.mem_map.mp (h ▸ List.mem_map_of_mem hf : f.course ∈ s.flows.map FlowRec.course)
  exact (congrArg Prod.fst e : g.state = f.state).symm.trans (hs g hg)

theorem inUse_goesOn {s t : State} (h : s.GoesOn t) (hs : s.inUse) : t.inUse := by
  obtain ⟨⟨hclasses, hflows⟩, hpins, hquiet⟩ := hs
  refine ⟨⟨h.classes.trans hclasses, (length_of_map_eq _ h.flows).trans hflows⟩, pinsLive_of_course h.flows hpins,
    fun hout => ?_⟩
  obtain ⟨hdrill, hhold, hfree⟩ := hquiet (h.service ▸ hout)
  refine ⟨?_, ?_, allFree_of_course h.flows hfree⟩
  · exact Bool.eq_false_of_not_eq_true fun hr => by rw [h.drill hr] at hdrill; cases hdrill
  · exact Bool.eq_false_of_not_eq_true fun ha => by rw [h.hold ha] at hhold; cases hhold

theorem inUse_keeps {v w : Work} (h : ∀ s, State.GoesOn s v.st → State.GoesOn s w.st) (hv : v.st.inUse) : w.st.inUse :=
  inUse_goesOn (h _ (.refl v.st)) hv

/-! ## A pass (R87, R106 to R108) -/

/-- A record that follows its class is FREE, EXPIRED or live as before, and pinned only while live. -/
theorem followClass_kept (s : State) (n : ClassPath) (f : FlowRec) (hp : f.pinned = true → f.state.live = true) :
    (f.state = .free → (followClass s n f).state = .free) ∧
      ((followClass s n f).pinned = true → (followClass s n f).state.live = true) := by
  unfold followClass
  dsimp only
  cases hlive : f.state.live with
  | false => exact ⟨id, fun h => by rw [hp h] at hlive; cases hlive⟩
  | true =>
    have hnew : n.flowState.live = true := Closed.flowState_live n
    have hbecome : (f.become n.flowState).state.live = true := by
      unfold FlowRec.become
      split
      · exact hlive
      · split <;> assumption
    have hfree : f.state ≠ .free := fun e => by rw [e] at hlive; cases hlive
    refine ⟨fun e => absurd e hfree, fun _ => ?_⟩
    split
    · assumption
    · split
      · split
        · exact hlive
        · exact hbecome
      · split
        · exact hlive
        · exact hbecome

theorem classStep_goesOn (w : Work) : w.st.GoesOn (classStep w).st := by
  unfold classStep
  dsimp only
  split <;> exact ⟨rfl, id, id, List.length_map _, rfl⟩

theorem flowStep_inUse (s0 : State) (w : Work) (h : w.st.inUse) : (flowStep s0 w).st.inUse := by
  obtain ⟨⟨hclasses, hflows⟩, hpins, hquiet⟩ := h
  unfold flowStep
  refine ⟨⟨hclasses, (List.length_map _).trans hflows⟩, fun f hf hp => ?_, fun hout => ?_⟩
  · obtain ⟨g, hg, rfl⟩ := List.mem_map.mp hf
    exact (followClass_kept s0 _ g (hpins g hg)).2 hp
  · obtain ⟨hdrill, hhold, hfree⟩ := hquiet hout
    refine ⟨hdrill, hhold, fun f hf => ?_⟩
    obtain ⟨g, hg, rfl⟩ := List.mem_map.mp hf
    exact (followClass_kept s0 _ g (hpins g hg)).1 (hfree g hg)

theorem steeringPass_inUse (w : Work) (h : w.st.inUse) : (steeringPass w).st.inUse := by
  have hflow := flowStep_inUse w.st (classStep w) (inUse_goesOn (classStep_goesOn w) h)
  unfold steeringPass
  dsimp only
  generalize flowStep w.st (classStep w) = u at hflow
  refine inUse_keeps (v := u) (fun s hu => ?_) hflow
  have C := closed_goesOn s
  exact C.recomputeDemand trivial _ (C.drillStep _ (C.releaseStep _ _ (C.handConditions _ hu)))

theorem runPasses_inUse (n : Nat) (w : Work) (h : w.st.inUse) : (runPasses n w).st.inUse := by
  induction n generalizing w with
  | zero => exact h
  | succ n ih =>
    unfold runPasses
    split
    · exact ih _ (steeringPass_inUse _ h)
    · split
      · exact ih _ (inUse_keeps (v := { w with demandDue := false })
          (fun s => (closed_goesOn s).recomputeDemand trivial _) h)
      · exact h

theorem passes_inUse (w : Work) (h : w.st.inUse) : (passes w).st.inUse := runPasses_inUse _ _ h

/-! ## The flow commands -/

theorem releaseFrames_goesOn (i : Nat) (w : Work) : w.st.GoesOn (releaseFrames i w).st :=
  (closed_goesOn _).releaseFrames i w (.refl w.st)

/-- A record written without a pin, FREE where it was FREE. -/
theorem inUse_onFlow (i : Nat) (f : FlowRec → FlowRec) (w : Work) (hp : (f (w.st.flow i)).pinned = false)
    (hf : w.st.exch.service ≠ .service → (w.st.flow i).state = .free → (f (w.st.flow i)).state = .free)
    (h : w.st.inUse) : (w.onFlow i f).st.inUse := by
  obtain ⟨⟨hclasses, hflows⟩, hpins, hquiet⟩ := h
  refine ⟨⟨hclasses, (List.length_set ..).trans hflows⟩, fun x hx hpin => ?_, fun hout => ?_⟩
  · rcases List.mem_or_eq_of_mem_set hx with hold | rfl
    · exact hpins x hold hpin
    · exact absurd hpin (by rw [hp]; decide)
  · obtain ⟨hdrill, hhold, hfree⟩ := hquiet hout
    refine ⟨hdrill, hhold, fun x hx => ?_⟩
    rcases List.mem_or_eq_of_mem_set hx with hold | rfl
    · exact hfree x hold
    · refine hf hout ?_
      by_cases hd : w.st.flow i = FlowRec.freed 0
      · exact congrArg FlowRec.state hd
      · exact hfree _ (flow_mem hd)

/-- Where a record is live, the block is in SERVICE. -/
theorem service_of_live {s : State} (h : s.inUse) {i : Nat} (hl : (s.flow i).state.live = true) :
    s.exch.service = .service := by
  by_contra hout
  obtain ⟨-, -, hfree⟩ := h.2.2 hout
  have hmem : s.flow i ∈ s.flows := flow_mem fun e => by rw [e] at hl; cases hl
  rw [hfree _ hmem] at hl
  cases hl

theorem pinned_live {s : State} (h : s.pinsLive) {i : Nat} (hp : (s.flow i).pinned = true) :
    (s.flow i).state.live = true := h _ (flow_mem fun e => by rw [e] at hp; cases hp) hp

theorem freeFlow_inUse (i : Nat) (w : Work) (h : w.st.inUse) : (freeFlow i w).st.inUse :=
  inUse_goesOn (releaseFrames_goesOn i _) (inUse_onFlow i (fun f => FlowRec.freed f.count) w rfl (fun _ _ => rfl) h)

theorem expireFlow_inUse (i : Nat) (w : Work) (hl : (w.st.flow i).state.live = true) (h : w.st.inUse) :
    (expireFlow i w).st.inUse := by
  have hset := inUse_onFlow i (fun f => { f with state := .expired, pinned := false }) w rfl
    (fun hout => absurd (service_of_live h hl) hout) h
  exact inUse_keeps (fun s hs => (closed_goesOn s).oweDemand _ ((closed_goesOn s).handConditions _
    ((closed_goesOn s).releaseFrames i _ hs))) hset

theorem gapReturn_inUse (i : Nat) (w : Work) (hp : (w.st.flow i).pinned = true) (h : w.st.inUse) :
    (gapReturn i w).st.inUse := by
  have hset := inUse_onFlow i (FlowRec.comeBack (w.st.cls (w.st.flow i).cls).cur) w rfl
    (fun hout => absurd (service_of_live h (pinned_live h.2.1 hp)) hout) h
  unfold gapReturn
  exact inUse_keeps (fun s hs => (closed_goesOn s).oweDemand _ ((closed_goesOn s).handConditions _ hs)) hset

theorem returnFlows_inUse (cls : Nat) (w : Work) (h : w.st.inUse) : (returnFlows cls w).st.inUse := by
  have hset : (w.onFlows fun fs => fs.map fun f =>
      if f.gapPassed w.now cls (w.st.cls cls).gap then f.comeBack (w.st.cls cls).cur else f).st.inUse := by
    obtain ⟨⟨hclasses, hflows⟩, hpins, hquiet⟩ := h
    refine ⟨⟨hclasses, (List.length_map _).trans hflows⟩, fun x hx hpin => ?_, fun hout => ?_⟩
    · obtain ⟨g, hg, rfl⟩ := List.mem_map.mp hx
      split at hpin
      · cases hpin
      · rename_i hgap
        rw [if_neg hgap]
        exact hpins g hg hpin
    · obtain ⟨hdrill, hhold, hfree⟩ := hquiet hout
      refine ⟨hdrill, hhold, fun x hx => ?_⟩
      obtain ⟨g, hg, rfl⟩ := List.mem_map.mp hx
      rw [if_neg]
      · exact hfree g hg
      · intro hgap
        have hpin : g.pinned = true := by
          unfold FlowRec.gapPassed at hgap
          simp only [Bool.and_eq_true] at hgap
          exact hgap.1.1
        have hlive := hpins g hg hpin
        rw [hfree g hg] at hlive
        cases hlive
  unfold returnFlows
  exact inUse_keeps (fun s hs => (closed_goesOn s).oweDemand _ ((closed_goesOn s).handConditions _ hs)) hset

theorem placeOutbound_goesOn (path : ClassPath) (cls : Nat) (flow : Option Nat) (d : List Byte) (w : Work) :
    w.st.GoesOn (placeOutbound path cls flow d w).st := by
  cases path with
  | fibre => exact (closed_goesOn _).enterBand _ _ _ w (.refl w.st)
  | radio => exact (closed_goesOn _).enterBand _ _ _ w (.refl w.st)
  | blocked => exact (closed_goesOn _).dropBlocked _ w (.refl w.st)
  | waiting =>
    unfold placeOutbound holdFrame
    dsimp only
    split <;> exact ⟨rfl, id, id, rfl, rfl⟩

/-! ## STOP SERVICE (R179) -/

theorem endDrill_ends (o : DrillOutcome) (c : DrillCause) (w : Work) : (endDrill o c w).st.drill.running = false := by
  unfold endDrill
  split
  · simp [Work.oweDemand, latch]
  · exact Bool.eq_false_of_not_eq_true ‹_›

theorem endHold_ends (r : HoldEnd) (w : Work) : (endHold r w).st.hold.active = false := by
  unfold endHold
  split
  · dsimp only
    split <;> simp [latch]
  · exact Bool.eq_false_of_not_eq_true ‹_›

/-- What the freeing of records leaves: no drill or hold begins, and the tables keep their lengths. -/
structure State.Frees (s t : State) : Prop where
  service : t.exch.service = s.exch.service
  drill : t.drill.running = true → s.drill.running = true
  hold : t.hold.active = true → s.hold.active = true
  classes : t.classes.length = s.classes.length
  pins : s.pinsLive → t.pinsLive
  flows : KeepsFree s.flows t.flows

theorem State.Frees.refl (s : State) : s.Frees s := ⟨rfl, id, id, rfl, id, rfl, fun _ => id⟩

theorem frees_of_goesOn {s t u : State} (h : s.Frees t) (hu : t.GoesOn u) : s.Frees u := by
  refine ⟨hu.service.trans h.service, h.drill ∘ hu.drill, h.hold ∘ hu.hold, hu.classes.trans h.classes,
    pinsLive_of_course hu.flows ∘ h.pins, (length_of_map_eq _ hu.flows).trans h.flows.1, fun i hi => ?_⟩
  have e := congrArg (fun l => l.getD i (FlowRec.freed 0).course) hu.flows
  simp only [List.getD_map] at e
  exact (congrArg Prod.fst e).trans (h.flows.2 i hi)

/-- A freed record reads FREE, in the table or beyond it. -/
theorem onFlow_freed (i : Nat) (w : Work) : ((w.onFlow i fun f => FlowRec.freed f.count).st.flow i).state = .free := by
  show ((w.st.flows.set i _).getD i _).state = _
  by_cases hi : i < w.st.flows.length
  · rw [List.getD_eq_getElem _ _ (by rwa [List.length_set]), List.getElem_set_self]
    rfl
  · rw [List.getD_eq_default _ _ (by rw [List.length_set]; omega)]
    rfl

theorem freeFlow_frees (i : Nat) (w : Work) : w.st.Frees (freeFlow i w).st := by
  refine frees_of_goesOn (t := (w.onFlow i fun f => FlowRec.freed f.count).st) ⟨rfl, id, id, rfl, fun hpins => ?_, List.length_set .., ?_⟩
    (releaseFrames_goesOn i _)
  · intro x hx hp
    rcases List.mem_or_eq_of_mem_set hx with hold | rfl
    · exact hpins x hold hp
    · cases hp
  · intro j hj
    by_cases hij : i = j
    · subst hij
      exact onFlow_freed i w
    · exact (congrArg FlowRec.state (onFlow_flow_other i j _ w (Ne.symm hij))).trans hj

theorem freeFlow_free (i : Nat) (w : Work) : ((freeFlow i w).st.flow i).state = .free :=
  (frees_of_goesOn (.refl _) (releaseFrames_goesOn i _)).flows.2 i (onFlow_freed i w)

theorem State.Frees.trans {s t u : State} (h : s.Frees t) (hu : t.Frees u) : s.Frees u :=
  ⟨hu.service.trans h.service, h.drill ∘ hu.drill, h.hold ∘ hu.hold, hu.classes.trans h.classes,
    hu.pins ∘ h.pins, hu.flows.1.trans h.flows.1, fun i => hu.flows.2 i ∘ h.flows.2 i⟩

/-- The records named are FREE afterwards. -/
theorem freeFlows_frees (l : List Nat) (w : Work) :
    w.st.Frees (freeFlows l w).st ∧ ∀ i ∈ l, ((freeFlows l w).st.flow i).state = .free := by
  induction l generalizing w with
  | nil => exact ⟨.refl w.st, fun _ h => nomatch h⟩
  | cons i l ih =>
    unfold freeFlows
    have hstep : w.st.Frees (if (w.st.flow i).state = .free then w else freeFlow i w).st ∧
        ((if (w.st.flow i).state = .free then w else freeFlow i w).st.flow i).state = .free := by
      split
      · exact ⟨.refl w.st, ‹_›⟩
      · exact ⟨freeFlow_frees i w, freeFlow_free i w⟩
    generalize (if (w.st.flow i).state = .free then w else freeFlow i w) = v at hstep
    obtain ⟨hrest, hall⟩ := ih v
    refine ⟨hstep.1.trans hrest, fun j hj => ?_⟩
    rcases List.mem_cons.mp hj with rfl | hj
    · exact hrest.flows.2 j hstep.2
    · exact hall j hj

/-- After the six steps no drill runs, no hold is active, every record is FREE, and the block is in CONFIG (R179). -/
theorem stopSteps_rests (w : Work) (ht : w.st.tables) :
    (stopSteps w).st.exch.service = .config ∧ (stopSteps w).st.tables ∧ (stopSteps w).st.drill.running = false ∧
      (stopSteps w).st.hold.active = false ∧ (∀ f ∈ (stopSteps w).st.flows, f.state = .free) ∧
      (w.st.pinsLive → (stopSteps w).st.pinsLive) := by
  obtain ⟨hclasses, hflows⟩ := ht
  have hlt : ∀ i < 128, i ∈ List.range 128 := fun i hi => List.mem_range.mpr hi
  unfold stopSteps
  dsimp only
  generalize List.range 128 = records at hlt
  have h1 : w.st.GoesOn (endDrill .aborted .stopped w).st := (closed_goesOn _).endDrill _ _ _ (.refl w.st)
  have hdrill := endDrill_ends .aborted .stopped w
  generalize endDrill .aborted .stopped w = w1 at h1 hdrill
  obtain ⟨h2, hfree⟩ := freeFlows_frees records w1
  generalize freeFlows records w1 = w2 at h2 hfree
  have h3 : w2.st.GoesOn (endHold .stopped (handConditions w2)).st :=
    (closed_goesOn _).endHold _ _ (Or.inl trivial) ((closed_goesOn _).handConditions _ (.refl w2.st))
  have hhold := endHold_ends .stopped (handConditions w2)
  generalize endHold .stopped (handConditions w2) = w3 at h3 hhold
  have h4 : w3.st.GoesOn (stopLinger (flushQueue .radio w3)).st :=
    (closed_goesOn _).stopLinger trivial _ ((closed_goesOn _).flushQueue .radio _ (.refl w3.st))
  generalize stopLinger (flushQueue .radio w3) = w4 at h4
  have h5 : (setService .config w4).st.GoesOn (backToUp .radio (backToUp .fibre
      (settle .radio (settle .fibre (setService .config w4))))).st := by
    have C := closed_goesOn (setService .config w4).st
    have hs := C.settle .radio (Or.inl rfl) _ (C.settle .fibre (Or.inr trivial) _ (.refl _))
    exact C.backToUp .radio (Or.inl rfl) (Or.inl trivial) _ (C.backToUp .fibre (Or.inr trivial) (Or.inl trivial) _ hs)
  generalize backToUp .radio (backToUp .fibre (settle .radio (settle .fibre (setService .config w4)))) = w5 at h5
  have hflows4 : w4.st.flows.map FlowRec.course = w2.st.flows.map FlowRec.course := h4.flows.trans h3.flows
  have hlength : w2.st.flows.length = 128 := h2.flows.1.trans ((length_of_map_eq _ h1.flows).trans hflows)
  have hfree2 : ∀ f ∈ w2.st.flows, f.state = .free := by
    intro f hf
    obtain ⟨i, hi, rfl⟩ := List.getElem_of_mem hf
    have h := hfree i (hlt i (hlength ▸ hi))
    unfold State.flow at h
    rwa [List.getD_eq_getElem _ _ hi] at h
  refine ⟨h5.service, ⟨?_, ?_⟩, ?_, ?_, ?_, fun hpins => ?_⟩
  · exact h5.classes.trans (h4.classes.trans (h3.classes.trans (h2.classes.trans (h1.classes.trans hclasses))))
  · exact (length_of_map_eq _ h5.flows).trans ((length_of_map_eq _ hflows4).trans hlength)
  · exact Bool.eq_false_of_not_eq_true fun hr => by
      rw [h2.drill (h3.drill (h4.drill (h5.drill hr)))] at hdrill
      cases hdrill
  · exact Bool.eq_false_of_not_eq_true fun ha => by
      rw [h4.hold (h5.hold ha)] at hhold
      cases hhold
  · exact allFree_of_course h5.flows (allFree_of_course hflows4 hfree2)
  · exact pinsLive_of_course h5.flows (pinsLive_of_course hflows4 (h2.pins (pinsLive_of_course h1.flows hpins)))

theorem stopSteps_inUse (w : Work) (h : w.st.inUse) : (stopSteps w).st.inUse := by
  obtain ⟨-, htables, hdrill, hhold, hfree, hpins⟩ := stopSteps_rests w h.1
  exact ⟨htables, hpins h.2.1, fun _ => ⟨hdrill, hhold, hfree⟩⟩

/-! ## Every command -/

theorem closed_inUse : Closed True True True False True False State.inUse where
  path := fun s p f hp hf h => inUse_goesOn ((closed_goesOn s).path s p f hp hf (.refl s)) h
  probe := fun hB s p f hp hf h => inUse_goesOn ((closed_goesOn s).probe hB s p f hp hf (.refl s)) h
  grade := fun _ _ _ h => h
  ru := fun _ _ _ h => h
  ruEvent := fun _ _ _ _ h => h
  aim := fun _ _ _ _ _ h => h
  demand := fun _ _ _ _ h => h
  ret := fun _ _ _ _ h => h
  classes := fun s cs hp hc => inUse_goesOn ((closed_goesOn s).classes s cs hp hc (.refl s))
  hold := fun s x hs => inUse_goesOn ((closed_goesOn s).hold s x hs (.refl s))
  flows := fun s fs hi hc => inUse_goesOn ((closed_goesOn s).flows s fs hi hc (.refl s))
  free := fun h => h.elim
  fwd := fun _ _ _ h => h
  fwdEvent := fun h => h.elim
  allow := fun _ _ h => h
  drill := fun s d hs => inUse_goesOn ((closed_goesOn s).drill s d hs (.refl s))
  ev := fun _ _ _ h => h
  fin := fun _ _ _ _ _ h => h

/-- In SERVICE nothing is asked of the drill, the hold and the states of flows. -/
theorem inUse_serving {s t : State} (ht : t.exch.service = .service) (hflows : t.flows = s.flows)
    (hclasses : t.classes = s.classes) (h : s.inUse) : t.inUse := by
  obtain ⟨⟨h1, h2⟩, hpins, -⟩ := h
  refine ⟨⟨hclasses ▸ h1, hflows ▸ h2⟩, ?_, fun hout => absurd ht hout⟩
  unfold State.pinsLive
  rwa [hflows]

theorem kept_inUse : Kept True State.inUse where
  closed := closed_inUse
  exch := fun s e he => inUse_goesOn ⟨he, id, id, rfl, rfl⟩
  mem := fun _ _ _ h => h
  gens := fun _ _ h => h
  path := fun s p f _ => inUse_goesOn (by cases p <;> exact ⟨rfl, id, id, rfl, rfl⟩)
  fin := fun _ _ h => h
  ru := fun _ _ _ h => h
  steer := fun _ _ h => h
  classes := fun s cs hc => inUse_goesOn ⟨rfl, id, id, length_of_map_eq _ hc, rfl⟩
  hold := fun s _ hs => inUse_serving hs rfl rfl
  times := fun s fs hc => inUse_goesOn ⟨rfl, id, id, rfl, hc⟩
  receive := fun _ _ _ _ h => h
  allow := fun _ _ _ h => h
  sup := fun _ _ h => h
  drill := fun s _ hs => inUse_serving hs rfl rfl
  ev := fun _ _ _ h => h
  tick := fun g p => closed_inUse.offerTick trivial g p (Or.inr trivial)
  resolve := fun p => closed_inUse.resolveProbe trivial p (Or.inr trivial)
  shaped := fun p => closed_inUse.takeProbeShaped trivial p (Or.inr trivial)
  decay := fun p => closed_inUse.decayTick trivial p (Or.inr trivial)
  passes := passes_inUse
  started := fun w => inUse_serving (s := w.st) rfl rfl rfl
  stopped := stopSteps_inUse
  opened := fun i cls idle w hs _ h =>
    inUse_onFlow i (FlowRec.opening cls idle (w.st.cls cls).cur w.now) w rfl (fun hout => absurd hs hout) h
  freed := freeFlow_inUse
  expired := expireFlow_inUse
  returned := returnFlows_inUse
  cameBack := gapReturn_inUse
  placed := fun path cls flow d w _ => inUse_goesOn (placeOutbound_goesOn path cls flow d w)

theorem reported_inUse : Reported State.inUse where
  counts := fun _ _ h => h
  flowChanges := fun _ _ h => h
  classes := fun _ _ hc => inUse_goesOn ⟨rfl, id, id, length_of_map_eq _ hc, rfl⟩
  flows := fun s fs hf => inUse_goesOn ⟨rfl, id, id, rfl, ((reported_bound _ _ _).flows s fs hf (bound_self s)).2.1⟩
  irq := fun _ _ h => h

theorem resetTo_inUse (b : Bool) (s : State) : (resetTo b s).inUse := by
  refine ⟨⟨rfl, rfl⟩, fun f hf hp => ?_, fun _ => ⟨rfl, rfl, fun f hf => ?_⟩⟩
  · rw [flows_reset_free f hf] at hp
    cases hp
  · rw [flows_reset_free f hf]
    rfl

theorem timeless_inUse : Timeless State.inUse where
  ev := fun _ _ h => h
  reset := fun b s _ => resetTo_inUse b s
  init := fun s hs h => by
    obtain ⟨hdrill, hhold, hfree⟩ := h.2.2 (by rw [hs]; decide)
    have hcourse : (initState s).flows.map FlowRec.course = s.flows.map FlowRec.course :=
      map_map_keep FlowRec.course (fun f => { f with count := 0 }) (fun _ => rfl) s.flows
    exact ⟨⟨(List.length_map _).trans h.1.1, (List.length_map _).trans h.1.2⟩, pinsLive_of_course hcourse h.2.1,
      fun _ => ⟨hdrill, hhold, allFree_of_course hcourse hfree⟩⟩
  clk := fun _ _ h => h
  queue := fun _ _ _ h => h

end Sys2Proof.Machine
end


section
/-! Work on a path by steps that leave its state and by changes of its state: what keeps a property of states under both,
every operation on the path keeps. With it the FIBRE hold, which is active only while fibre is usable. -/

namespace Sys2Proof.Machine

/-- The properties that an update of a path which leaves its state keeps, and that a change of its state keeps with all
it hands on. -/
structure PathWork (P : State → Prop) : Prop where
  closed : Closed False True True False False False P
  stay : ∀ s p f, (f (s.path p)).state = (s.path p).state → P s → P (s.onPath p f)
  change : ∀ p n w, P w.st → P (setPathState p n w).st
  fin : ∀ s f, P s → P { s with fin := f }

theorem keeps_if {P : State → Prop} {c : Prop} [Decidable c] {v w : Work} (hv : P v.st) (hw : P w.st) :
    P (if c then v else w).st := by
  split
  · exact hv
  · exact hw

theorem penalize_state (n : Nat) (r : PathRec) : (r.penalize n).state = r.state := rfl

theorem fall_state (n : Nat) (r : PathRec) : ({ r.penalize n with failCount := 0 } : PathRec).state = r.state := rfl

namespace PathWork

variable {P : State → Prop} (C : PathWork P)
include C

theorem onPath (p : Path) (f : PathRec → PathRec) (w : Work) (hf : (f (w.st.path p)).state = (w.st.path p).state)
    (h : P w.st) : P (w.onPath p f).st := C.stay _ _ _ hf h

theorem onFin (f : FibreIn → FibreIn) (w : Work) (h : P w.st) : P (w.onFin f).st := C.fin _ _ h

theorem settle (p : Path) (w : Work) (h : P w.st) : P (settle p w).st := by
  unfold Machine.settle
  exact C.closed.noteReady _ _ _ (C.closed.onQueue _ _ _ (fun _ _ => by simp) (fun _ _ => by simp)
    (C.onPath p _ w rfl h))

theorem offerCause (p : Path) (k : Cause) (w : Work) (h : P w.st) : P (offerCause p k w).st := by
  unfold Machine.offerCause
  dsimp only
  have h1 := C.onPath p (fun r => { r with cause := r.cause.offered r.lockFirst k (snapshotOf w.st p) }) w rfl h
  split
  · exact C.closed.latch _ _ h1
  · exact h1

theorem physicalLoss (p : Path) (w : Work) (h : P w.st) : P (physicalLoss p w).st := by
  unfold Machine.physicalLoss
  dsimp only
  split
  · exact h
  · refine C.change p .down _ ?_
    split
    · exact C.offerCause p .physical _ (C.onPath p (PathRec.penalize 1000) w (penalize_state _ _) h)
    · exact h

theorem physicalAvailability (p : Path) (w : Work) (h : P w.st) : P (physicalAvailability p w).st := by
  unfold Machine.physicalAvailability
  dsimp only
  exact keeps_if h (keeps_if (C.change _ _ _ h) (keeps_if (C.change _ _ _ h) (C.change _ _ _ h)))

theorem fallOnScore (p : Path) (k : Cause) (w : Work) (h : P w.st) : P (fallOnScore p k w).st := by
  have h1 := C.onPath p (fun r => { r.penalize 500 with failCount := 0 }) w (fall_state 500 _) h
  unfold Machine.fallOnScore
  exact C.change _ _ _ (C.offerCause p k _ h1)

theorem judgeUsable (p : Path) (n : Nat) (k : Cause) (w : Work) (h : P w.st) : P (judgeUsable p n k w).st := by
  unfold Machine.judgeUsable
  dsimp only
  have hcleared := C.onPath p (fun r => { r with failCount := 0 }) w rfl h
  split
  · split
    · exact C.fallOnScore p k w h
    · exact C.change p .weak _ (C.onPath p (fun r => { r with failCount := r.failCount + 1 }) w rfl h)
  · split
    · exact C.change p .up _ hcleared
    · split
      · exact C.change p .weak _ hcleared
      · exact hcleared

theorem judge (p : Path) (n : Nat) (k : Cause) (w : Work) (h : P w.st) : P (judge p n k w).st := by
  unfold Machine.judge
  split
  case h_1 => exact keeps_if (C.change p .up w h) h
  case h_2 => exact C.judgeUsable p n k w h
  case h_3 => exact C.judgeUsable p n k w h
  case h_4 => exact h
  case h_5 => exact h

theorem evaluate (p : Path) (w : Work) (h : P w.st) : P (evaluate p w).st := by
  unfold Machine.evaluate
  dsimp only
  split
  · exact C.judge p _ _ _ (C.onPath p _ w rfl h)
  · exact h

theorem becameLinkOnly (p : Path) (was : Bool) (w : Work) (h : P w.st) : P (becameLinkOnly p was w).st := by
  unfold Machine.becameLinkOnly
  dsimp only
  exact keeps_if (C.change p .up w h) h

theorem backToUp (p : Path) (w : Work) (h : P w.st) : P (backToUp p w).st := by
  unfold Machine.backToUp
  split
  case h_4 => exact h
  case h_5 => exact h
  all_goals exact C.change p .up w h

theorem enterResult (p : Path) (x : Result) (w : Work) (h : P w.st) : P (enterResult p x w).st := by
  have hrecord : ((w.st.path p).record x).state = (w.st.path p).state := by
    unfold PathRec.record PathRec.smooth
    dsimp only
    split
    · rfl
    · split <;> rfl
  exact C.evaluate p _ (C.closed.noteReady _ _ _ (C.onPath p (PathRec.record x) w hrecord h))

theorem drainList (p : Path) (l : List Probe) (w : Work) (h : P w.st) : P (drainList p l w).st := by
  induction l generalizing w with
  | nil => exact C.onPath p (fun r => { r with probes := [] }) w rfl h
  | cons e l ih =>
    unfold Machine.drainList
    split
    · exact C.onPath p (fun r => { r with probes := e :: l }) w rfl h
    · exact ih _ (C.enterResult p _ _ (C.onPath p (fun r => { r with probes := l }) w rfl h))
    · exact ih _ (C.enterResult p _ _ (C.onPath p (fun r => { r with probes := l }) w rfl h))

theorem resolveProbe (p : Path) (q : Half) (res : Resolution) (w : Work) (h : P w.st) :
    P (resolveProbe p q res w).st :=
  C.drainList p _ _ (C.onPath p (fun r => { r with probes := resolveSeq q res r.probes }) w rfl h)

theorem makeRoom (p : Path) (w : Work) (h : P w.st) : P (makeRoom p w).st := by
  unfold Machine.makeRoom
  split
  · exact h
  · rename_i e es _
    exact keeps_if (C.drainList p _ _ (C.onPath p (fun r => { r with probes := { e with res := .lost } :: es }) w rfl h)) h

theorem sendProbe (p : Path) (w : Work) (h : P w.st) : P (sendProbe p w).st := by
  unfold Machine.sendProbe
  exact C.closed.takeNext _ _ (C.closed.onQueue _ _ _ (fun _ _ => by simp) (fun _ _ => by simp)
    (C.onPath p _ _ rfl (C.makeRoom p w h)))

theorem offerTick (g : Generator) (p : Path) (w : Work) (h : P w.st) : P (offerTick g p w).st := by
  have htick : P (tickPath p w).st := by
    unfold tickPath
    dsimp only
    split
    · split
      · exact C.sendProbe p _ (C.onPath p (fun r => { r with ticks := 0 }) w rfl h)
      · exact C.onPath p (fun r => { r with ticks := r.ticks + 1 }) w rfl h
    · exact h
  unfold Machine.offerTick
  split
  case h_1 => exact htick
  case h_2 => exact htick
  all_goals exact h

theorem releaseSuppressed (p : Path) (w : Work) (h : P w.st) : P (releaseSuppressed p w).st := C.change _ _ _ h

theorem decayTick (p : Path) (w : Work) (h : P w.st) : P (decayTick p w).st := by
  have h1 := C.onPath p PathRec.decay w rfl h
  unfold Machine.decayTick
  exact keeps_if (C.releaseSuppressed p _ h1) h1

theorem takeProbeShaped (p : Path) (d : List Byte) (w : Work) (h : P w.st) : P (takeProbeShaped p d w).st := by
  have hcount : P (countUnmatched p w).st := C.onPath p _ w rfl h
  unfold Machine.takeProbeShaped
  split
  · split
    · exact C.resolveProbe p _ _ w h
    · exact hcount
  · exact hcount

theorem watchFibre (w : Work) (h : P w.st) : P (watchFibre w).st := by
  unfold Machine.watchFibre
  dsimp only
  split
  · split
    · exact h
    · exact C.physicalLoss .fibre _ (C.onFin _ w h)
  · split
    · split
      · exact h
      · exact C.onFin _ w h
    · exact C.onFin _ w h

theorem fibreSettled (w : Work) (h : P w.st) : P (fibreSettled w).st := C.physicalAvailability .fibre _ (C.onFin _ w h)

end PathWork

end Sys2Proof.Machine
end


section
/-! The FIBRE hold, which is active only while fibre is usable. -/

namespace Sys2Proof.Machine

/-! ## What a change of the fibre path's state leaves -/

theorem handConditions_only (w : Work) : ∃ e, (handConditions w).st = { w.st with ev := e } := by
  rw [handConditions_st_eq]
  split <;> exact ⟨_, rfl⟩

theorem noteReady_only (p : Path) (was : Bool) (w : Work) : ∃ e, (noteReady p was w).st = { w.st with ev := e } := by
  unfold noteReady
  split
  · exact ⟨_, rfl⟩
  · obtain ⟨e, he⟩ := handConditions_only w
    exact ⟨_, congrArg (fun s : State => { s with ev := { s.ev with latch := s.ev.latch ||| bitMask Bit.readyChange } }) he⟩

/-- What the entry of fibre into DOWN leaves: hold, clock and the path's state. -/
theorem enterDown_keeps (w : Work) : (enterDown .fibre w).st.hold = w.st.hold ∧
    (enterDown .fibre w).st.clk = w.st.clk ∧ (enterDown .fibre w).st.fibre.state = w.st.fibre.state := by
  show (settle .fibre w).st.hold = w.st.hold ∧ (settle .fibre w).st.clk = w.st.clk ∧
    (settle .fibre w).st.fibre.state = w.st.fibre.state
  unfold settle
  dsimp only
  generalize hu : Work.onQueue .fibre _ _ = u
  obtain ⟨e, he⟩ := noteReady_only .fibre (w.st.path .fibre).ready u
  rw [he, ← hu]
  exact ⟨rfl, rfl, rfl⟩

theorem endHold_fibre (r : HoldEnd) (w : Work) : (endHold r w).st.fibre = w.st.fibre := by
  unfold endHold
  dsimp only
  split
  · split <;> simp [latch]
  · rfl

theorem holdSees_fibre (p : Path) (was is : PathState) (w : Work) : (holdSees p was is w).st.fibre = w.st.fibre := by
  unfold holdSees
  split
  · cases p
    · dsimp only
      split <;> simp [endHold_fibre]
    · dsimp only
      split
      · rfl
      · split <;> simp [endHold_fibre]
  · rfl

theorem returnSees_keeps (was is : PathState) (w : Work) :
    (returnSees was is w).st.hold = w.st.hold ∧ (returnSees was is w).st.fibre = w.st.fibre := by
  unfold returnSees
  split
  · split <;> exact ⟨rfl, rfl⟩
  · split <;> exact ⟨rfl, rfl⟩

/-- A FIBRE hold that sees fibre leave usable breaks. -/
theorem usable_of_sees {h : Hold} {now : Time} {was is : PathState} (hne : was ≠ is)
    (hc : h.active = true → h.path = some .fibre → was = .up ∨ was = .weak)
    (ha : (h.sees now .fibre was is).active = true) (hp : (h.sees now .fibre was is).path = some .fibre) :
    is = .up ∨ is = .weak := by
  unfold Hold.sees at ha hp
  dsimp only at ha hp
  by_cases h1 : h.active = false ∨ h.path ≠ some .fibre ∨ was = is
  · rw [if_pos h1] at ha hp
    rcases h1 with h1 | h1 | h1
    · rw [h1] at ha
      cases ha
    · exact absurd hp h1
    · exact absurd h1 hne
  · rw [if_neg h1, if_neg (by rintro ⟨hpath, -⟩; cases hpath)] at ha hp
    by_contra hbad
    push Not at h1
    obtain ⟨hactive, hfibre, -⟩ := h1
    rw [if_pos ⟨hc (Bool.eq_true_of_not_eq_false hactive) hfibre, hbad, Or.inl rfl⟩] at ha
    cases ha

/-- A change of the fibre path's state, seen from the hold. -/
theorem setPathState_fibre_keeps (n : PathState) (w : Work) (hne : w.st.fibre.state ≠ n) :
    (setPathState .fibre n w).st.fibre.state = n ∧
      (setPathState .fibre n w).st.hold = w.st.hold.sees w.now .fibre w.st.fibre.state n := by
  have hentered : ∀ v : Work, v.st.fibre.state = n → v.st.hold = w.st.hold → v.now = w.now →
      ((pathSees .fibre w.st.fibre.state n (handConditions (latch (changeBit .fibre)
        (holdSees .fibre w.st.fibre.state n v)))).touch (.path .fibre)).owePass.st.fibre.state = n ∧
      ((pathSees .fibre w.st.fibre.state n (handConditions (latch (changeBit .fibre)
        (holdSees .fibre w.st.fibre.state n v)))).touch (.path .fibre)).owePass.st.hold
          = w.st.hold.sees w.now .fibre w.st.fibre.state n := by
    intro v hstate hhold hnow
    obtain ⟨h1, h2⟩ := returnSees_keeps w.st.fibre.state n
      (handConditions (latch (changeBit .fibre) (holdSees .fibre w.st.fibre.state n v)))
    constructor
    · refine (congrArg PathRec.state h2).trans ?_
      simpa [latch, holdSees_fibre] using hstate
    · refine h1.trans ?_
      rw [← hhold, ← hnow, ← holdSees_hold _ _ _ _ hne]
      simp [latch]
  unfold setPathState
  dsimp only
  rw [if_neg (show ¬(w.st.path .fibre).state = n from hne)]
  by_cases hdown : n = .down
  · rw [if_pos hdown]
    obtain ⟨hhold, hclk, hstate⟩ := enterDown_keeps (w.onPath .fibre (PathRec.enter n w.now))
    exact hentered _ hstate hhold (congrArg Clock.ms hclk)
  · rw [if_neg hdown]
    exact hentered _ rfl rfl rfl

/-! ## The FIBRE hold (R85, R92, R95) -/

theorem fibreHold_of_eq {s t : State} (hh : t.hold = s.hold) (hf : t.fibre.state = s.fibre.state)
    (h : s.fibreHoldCarried) : t.fibreHoldCarried := by
  unfold State.fibreHoldCarried at *
  rwa [hh, hf]

/-- No FIBRE hold is active where none was. -/
theorem fibreHold_of_hold {F : Prop} {s t : State} (hh : HoldStep F s.hold t.hold) (hf : t.fibre.state = s.fibre.state)
    (h : s.fibreHoldCarried) : t.fibreHoldCarried := by
  intro ha hp
  have hpath : t.hold.path = s.hold.path := (congrArg Hold.path hh.settings :)
  exact hf ▸ h (active_of_holdStep hh ha) (hpath ▸ hp)

theorem closed_fibreHold (D S : Prop) : Closed False True True False D S State.fibreHoldCarried where
  path := fun s p f hp _ h => by
    obtain rfl : p = .radio := by simpa using hp
    exact h
  probe := fun _ s p f hp _ h => by
    obtain rfl : p = .radio := by simpa using hp
    exact h
  grade := fun _ _ _ h => h
  ru := fun _ _ _ h => h
  ruEvent := fun _ _ _ _ h => h
  aim := fun _ _ _ _ _ h => h
  demand := fun _ _ _ _ h => h
  ret := fun h => h.elim
  classes := fun _ _ _ _ h => h
  hold := fun _ _ hs h => fibreHold_of_hold hs rfl h
  flows := fun _ _ _ _ h => h
  free := fun h => h.elim
  fwd := fun _ _ _ h => h
  fwdEvent := fun h => h.elim
  allow := fun _ _ h => h
  drill := fun _ _ _ h => h
  ev := fun _ _ _ h => h
  fin := fun h => h.elim

theorem setPathState_fibreHold (p : Path) (n : PathState) (w : Work) (h : w.st.fibreHoldCarried) :
    (setPathState p n w).st.fibreHoldCarried := by
  cases p with
  | radio => exact (closed_fibreHold False False).setPathState .radio (Or.inl rfl) n w (Or.inl (Or.inr (Or.inl trivial))) h
  | fibre =>
    by_cases hsame : w.st.fibre.state = n
    · unfold setPathState
      rw [if_pos (show (w.st.path .fibre).state = n from hsame)]
      exact h
    · obtain ⟨hstate, hhold⟩ := setPathState_fibre_keeps n w hsame
      intro ha hp
      rw [hhold] at ha hp
      rw [hstate]
      exact usable_of_sees hsame h ha hp

theorem endHold_fibreHold (r : HoldEnd) (w : Work) : (endHold r w).st.fibreHoldCarried := by
  intro ha
  rw [endHold_ends] at ha
  cases ha

theorem pathWork_fibreHold : PathWork State.fibreHoldCarried where
  closed := closed_fibreHold False False
  stay := fun s p f hf => by
    cases p with
    | radio => exact id
    | fibre => exact fibreHold_of_eq rfl hf
  change := setPathState_fibreHold
  fin := fun _ _ h => h

theorem recomputeTarget_fibreHold (w : Work) (h : w.st.fibreHoldCarried) : (recomputeTarget w).st.fibreHoldCarried :=
  (closed_fibreHold True True).recomputeTarget trivial w h

theorem passes_fibreHold (w : Work) (h : w.st.fibreHoldCarried) : (passes w).st.fibreHoldCarried :=
  (closed_fibreHold True True).passes trivial trivial w h

theorem beginHold_fibreHold (p : Path) (dur : Nat) (w : Work) (hp : holdRefusal w.st p = none) :
    (w.onHold (Hold.begin p w.now dur (w.st.holdSeen p))).st.fibreHoldCarried := by
  intro _ hfibre
  obtain rfl : p = .fibre := Option.some.inj hfibre
  unfold holdRefusal State.fibreUsable at hp
  dsimp only at hp
  split at hp
  · rename_i husable
    show w.st.fibre.state = .up ∨ w.st.fibre.state = .weak
    generalize w.st.fibre.state = x at husable ⊢
    cases x <;> simp_all [PathState.usable]
  · cases hp

theorem freeFlow_fibreHold (i : Nat) (w : Work) (h : w.st.fibreHoldCarried) : (freeFlow i w).st.fibreHoldCarried :=
  (closed_fibreHold True True).releaseFrames i (w.onFlow i fun f => FlowRec.freed f.count) h

theorem expireFlow_fibreHold (i : Nat) (w : Work) (h : w.st.fibreHoldCarried) :
    (expireFlow i w).st.fibreHoldCarried := by
  have C := closed_fibreHold True True
  have h1 : (w.onFlow i fun f => { f with state := .expired, pinned := false }).st.fibreHoldCarried := h
  unfold expireFlow
  exact C.oweDemand _ (C.handConditions _ (C.releaseFrames i _ h1))

theorem returnFlows_fibreHold (cls : Nat) (w : Work) (h : w.st.fibreHoldCarried) :
    (returnFlows cls w).st.fibreHoldCarried := by
  have C := closed_fibreHold True True
  unfold returnFlows
  exact C.oweDemand _ (C.handConditions _ h)

theorem gapReturn_fibreHold (i : Nat) (w : Work) (h : w.st.fibreHoldCarried) : (gapReturn i w).st.fibreHoldCarried := by
  have C := closed_fibreHold True True
  unfold gapReturn
  exact C.oweDemand _ (C.handConditions _ h)

theorem placeOutbound_fibreHold (path : ClassPath) (cls : Nat) (flow : Option Nat) (d : List Byte) (w : Work)
    (h : w.st.fibreHoldCarried) : (placeOutbound path cls flow d w).st.fibreHoldCarried := by
  have C := closed_fibreHold True True
  cases path with
  | fibre => exact C.enterBand _ _ _ w h
  | radio => exact C.enterBand _ _ _ w h
  | blocked => exact C.dropBlocked _ w h
  | waiting =>
    unfold placeOutbound holdFrame
    dsimp only
    split <;> exact h

theorem startService_fibreHold (w : Work) (h : w.st.fibreHoldCarried) : (startService w).st.fibreHoldCarried := by
  have h1 : (setService .service w).st.fibreHoldCarried := h
  have h2 : (clearTicks .radio (clearTicks .fibre (setService .service w))).st.fibreHoldCarried :=
    pathWork_fibreHold.onPath .radio (fun r => { r with ticks := 0 }) _ rfl
      (pathWork_fibreHold.onPath .fibre (fun r => { r with ticks := 0 }) _ rfl h1)
  unfold startService
  exact recomputeTarget_fibreHold _ (passes_fibreHold _ h2)

theorem stopSteps_fibreHold (w : Work) : (stopSteps w).st.fibreHoldCarried := by
  have C := closed_fibreHold True True
  have W := pathWork_fibreHold
  unfold stopSteps
  dsimp only
  generalize handConditions (freeFlows (List.range 128) (endDrill .aborted .stopped w)) = v
  have h1 := C.stopLinger trivial _ (C.flushQueue .radio _ (endHold_fibreHold .stopped v))
  generalize stopLinger (flushQueue .radio (endHold .stopped v)) = u at h1
  have h2 : (setService .config u).st.fibreHoldCarried := h1
  exact W.backToUp .radio _ (W.backToUp .fibre _ (W.settle .radio _ (W.settle .fibre _ h2)))

theorem stopService_fibreHold (w : Work) : (stopService w).st.fibreHoldCarried := by
  have h1 := (closed_fibreHold True True).owePass _ (stopSteps_fibreHold w)
  unfold stopService
  exact recomputeTarget_fibreHold _ (passes_fibreHold _ h1)

theorem changeSupply_fibreHold (n : Supply) (w : Work) (h : w.st.fibreHoldCarried) :
    (changeSupply n w).st.fibreHoldCarried := by
  have C := closed_fibreHold True True
  have h0 : (w.onSup fun m => { m with state := n, since := w.now }).st.fibreHoldCarried := h
  have h1 := C.latch Bit.supplyChange _ (C.handConditions _ h0)
  unfold changeSupply
  have h2 := passes_fibreHold _ (C.owePass _ (C.touch .supply _ h1))
  exact recomputeTarget_fibreHold _ (C.compareLinger trivial _ h2)

theorem configure_fibreHold (standby : Standby) (linger attach poll : Nat) (w : Work) (h : w.st.fibreHoldCarried) :
    (recomputeTarget (Machine.passes (compareLinger (leaveFault
      (w.onRu (RadioUnit.configure standby linger attach poll w.now)))))).st.fibreHoldCarried := by
  have C := closed_fibreHold True True
  have h1 : (w.onRu (RadioUnit.configure standby linger attach poll w.now)).st.fibreHoldCarried := h
  exact recomputeTarget_fibreHold _ (passes_fibreHold _ (C.compareLinger trivial _ (C.leaveFault trivial _ h1)))

theorem upheld_fibreHold : Upheld True State.fibreHoldCarried where
  closed := closed_fibreHold False False
  exch := fun _ _ _ h => h
  mem := fun _ _ _ h => h
  gens := fun _ _ h => h
  path := fun s p f hf => pathWork_fibreHold.stay s p f hf.state
  fin := fun _ _ h => h
  ru := fun _ _ _ h => h
  steer := fun _ _ _ h => h
  classes := fun _ _ _ h => h
  times := fun _ _ _ h => h
  receive := fun _ _ _ _ h => h
  allow := fun _ _ _ h => h
  sup := fun _ _ _ h => h
  ev := fun _ _ _ h => h
  tick := pathWork_fibreHold.offerTick
  resolve := pathWork_fibreHold.resolveProbe
  shaped := pathWork_fibreHold.takeProbeShaped
  decay := pathWork_fibreHold.decayTick
  settle := pathWork_fibreHold.settle
  linkOnly := pathWork_fibreHold.becameLinkOnly
  release := pathWork_fibreHold.releaseSuppressed
  watch := pathWork_fibreHold.watchFibre
  available := pathWork_fibreHold.fibreSettled
  hold := fun p dur w _ hp _ => beginHold_fibreHold p dur w hp
  endHold := fun r w _ => endHold_fibreHold r w
  drill := fun _ _ _ h => h
  passes := passes_fibreHold
  demand := (closed_fibreHold True True).recomputeDemand trivial
  configured := configure_fibreHold
  released := fun w h => recomputeTarget_fibreHold _ ((closed_fibreHold True True).stopLinger trivial w h)
  lingered := fun w h => recomputeTarget_fibreHold _ ((closed_fibreHold True True).compareLinger trivial w h)
  supplied := changeSupply_fibreHold
  started := startService_fibreHold
  stopped := fun w _ _ => stopService_fibreHold w
  opened := fun _ _ _ _ _ _ h => h
  freed := freeFlow_fibreHold
  expired := fun i w _ => expireFlow_fibreHold i w
  returned := returnFlows_fibreHold
  cameBack := fun i w _ => gapReturn_fibreHold i w
  placed := fun path cls flow d w _ => placeOutbound_fibreHold path cls flow d w

theorem timeless_fibreHold : Timeless State.fibreHoldCarried where
  ev := fun _ _ h => h
  reset := fun _ _ _ ha => nomatch ha
  init := fun _ _ h => h
  clk := fun _ _ h => h
  queue := fun _ _ _ h => h

theorem reported_fibreHold : Reported State.fibreHoldCarried where
  counts := fun _ _ h => h
  flowChanges := fun _ _ h => h
  classes := fun _ _ _ h => h
  flows := fun _ _ _ h => h
  irq := fun _ _ h => h

theorem step_targetAndService {s t : State} (hx : step s = .next t) (ht : s.tables) (ha : s.onTarget)
    (hq : s.quietOutsideService) (hp : s.pinsLive) (hf : s.fibreHoldCarried) :
    t.onTarget ∧ t.quietOutsideService ∧ t.pinsLive ∧ t.fibreHoldCarried := by
  obtain ⟨-, hpins, hquiet⟩ := kept_inUse.upheld.step reported_inUse timeless_inUse hx ⟨ht, hp, hq⟩
  exact ⟨upheld_onTarget.step reported_onTarget timeless_onTarget hx ha, hquiet, hpins,
    upheld_fibreHold.step reported_fibreHold timeless_fibreHold hx hf⟩

end Sys2Proof.Machine
end


section
/-! The radio unit's own record under the operations that the radio states share: what each makes of it, and that none
but these touches it. -/

namespace Sys2Proof.Machine

/-! ## Operations that leave the radio unit -/

@[simp] theorem onPath_ru (p : Path) (f : PathRec → PathRec) (w : Work) : (w.onPath p f).st.ru = w.st.ru := by
  cases p <;> rfl

theorem endHold_ru (r : HoldEnd) (w : Work) : (endHold r w).st.ru = w.st.ru := by
  unfold endHold
  dsimp only
  split
  · split <;> simp [latch]
  · rfl

theorem endDrill_ru (o : DrillOutcome) (c : DrillCause) (w : Work) : (endDrill o c w).st.ru = w.st.ru := by
  unfold endDrill
  split <;> simp [latch, Work.oweDemand]

theorem holdSees_ru (p : Path) (was is : PathState) (w : Work) : (holdSees p was is w).st.ru = w.st.ru := by
  unfold holdSees
  split
  · cases p
    · dsimp only
      split <;> simp [endHold_ru]
    · dsimp only
      split
      · rfl
      · split <;> simp [endHold_ru]
  · rfl

theorem returnSees_ru (was is : PathState) (w : Work) : (returnSees was is w).st.ru = w.st.ru := by
  unfold returnSees
  split
  · split <;> rfl
  · split <;> rfl

theorem settle_ru (p : Path) (w : Work) : (settle p w).st.ru = w.st.ru := by
  unfold settle
  dsimp only
  generalize hu : Work.onQueue p _ _ = u
  obtain ⟨e, he⟩ := noteReady_only p (w.st.path p).ready u
  rw [he, ← hu]
  cases p <;> rfl

theorem enterDown_ru (p : Path) (w : Work) : (enterDown p w).st.ru = w.st.ru := by
  cases p with
  | fibre => exact settle_ru .fibre w
  | radio => exact settle_ru .radio w

theorem pathSees_ru (p : Path) (was is : PathState) (w : Work) : (pathSees p was is w).st.ru = w.st.ru := by
  cases p with
  | fibre => exact returnSees_ru was is w
  | radio =>
    unfold pathSees
    dsimp only
    split <;> split <;> simp [endDrill_ru]

theorem setPathState_ru (p : Path) (n : PathState) (w : Work) : (setPathState p n w).st.ru = w.st.ru := by
  have hpath : ∀ v : Work, v.st.ru = w.st.ru →
      ((pathSees p (w.st.path p).state n (handConditions (latch (changeBit p)
        (holdSees p (w.st.path p).state n v)))).touch (.path p)).owePass.st.ru = w.st.ru := by
    intro v hv
    rw [← hv]
    exact (pathSees_ru p _ n _).trans (by simp [latch, holdSees_ru])
  unfold setPathState
  dsimp only
  split
  · rfl
  · refine hpath _ ?_
    split
    · rw [enterDown_ru]
      cases p <;> rfl
    · cases p <;> rfl

theorem offerCause_ru (p : Path) (k : Cause) (w : Work) : (offerCause p k w).st.ru = w.st.ru := by
  unfold offerCause
  dsimp only
  cases p <;> split <;> rfl

theorem physicalLoss_ru (p : Path) (w : Work) : (physicalLoss p w).st.ru = w.st.ru := by
  unfold physicalLoss
  dsimp only
  split
  · rfl
  · rw [setPathState_ru]
    split
    · rw [offerCause_ru, onPath_ru]
    · rfl

theorem physicalAvailability_ru (p : Path) (w : Work) : (physicalAvailability p w).st.ru = w.st.ru := by
  unfold physicalAvailability
  dsimp only
  split
  · rfl
  · split
    · exact setPathState_ru p _ w
    · split <;> exact setPathState_ru p _ w

theorem leaveSession_ru (w : Work) : (leaveSession w).st.ru = w.st.ru := by
  unfold leaveSession
  rw [physicalLoss_ru]
  rfl

/-! ## State changes of the unit -/

/-- A state change makes of the unit what `RadioUnit.enter` says, whatever else it hands on. -/
@[simp] theorem moveTo_ru (n : RadioState) (w : Work) : (moveTo n w).st.ru = w.st.ru.enter n w.now := by
  unfold moveTo
  dsimp only
  rw [handConditions_ru]
  split
  · rw [leaveSession_ru]
    rfl
  · rfl

@[simp] theorem sendRequest_ru (k : Request) (w : Work) : (sendRequest k w).st.ru = w.st.ru.send k w.now := rfl

@[simp] theorem startTimer_ru (ms : Nat) (w : Work) :
    (startTimer ms w).st.ru = { w.st.ru with stateDue := some (later w.now ms) } := rfl

@[simp] theorem drivePower_ru (w : Work) :
    (drivePower w).st.ru = if w.st.ru.lines.level then w.st.ru else w.st.ru.pulsePwr w.now := by
  unfold drivePower
  split <;> rfl

/-- What the entries and requests of the radio states keep of the unit, the target's recomputation and its acts keep. -/
structure RuWalk (P : RadioUnit → Prop) : Prop where
  enter : ∀ (n : RadioState) (now : Time) (r : RadioUnit), P r → P (r.enter n now)
  send : ∀ (k : Request) (now : Time) (r : RadioUnit), P r → P (r.send k now)
  timer : ∀ (r : RadioUnit) (due : Time), P r → P { r with stateDue := some due }
  pulse : ∀ (now : Time) (r : RadioUnit), P r → P (r.pulsePwr now)

namespace RuWalk

variable {P : RadioUnit → Prop} (W : RuWalk P)
include W

theorem moveTo (n : RadioState) (w : Work) (h : P w.st.ru) : P (moveTo n w).st.ru := by
  rw [moveTo_ru]
  exact W.enter _ _ _ h

theorem sendRequest (k : Request) (w : Work) (h : P w.st.ru) : P (sendRequest k w).st.ru := W.send _ _ _ h

theorem startTimer (ms : Nat) (w : Work) (h : P w.st.ru) : P (startTimer ms w).st.ru := W.timer _ _ h

theorem drivePower (w : Work) (h : P w.st.ru) : P (drivePower w).st.ru := by
  rw [drivePower_ru]
  split
  · exact h
  · exact W.pulse _ _ h

theorem enterStopping (w : Work) (h : P w.st.ru) : P (enterStopping w).st.ru := by
  unfold Machine.enterStopping
  dsimp only
  have h1 := W.moveTo .stopping w h
  split
  · exact W.startTimer _ _ (W.drivePower _ h1)
  · exact W.moveTo _ _ h1

theorem actIdle (w : Work) (h : P w.st.ru) : P (actIdle w).st.ru := by
  unfold Machine.actIdle
  split
  · exact W.enterStopping w h
  · split
    · exact W.sendRequest .attach (Machine.moveTo .attaching w) (W.moveTo .attaching w h)
    · exact h

theorem enterIdle (w : Work) (h : P w.st.ru) : P (enterIdle w).st.ru := by
  unfold Machine.enterIdle
  exact W.actIdle _ (W.moveTo .idle w h)

theorem actOff (w : Work) (h : P w.st.ru) : P (actOff w).st.ru := by
  unfold Machine.actOff
  split
  · exact h
  · split
    · exact W.enterIdle w h
    · exact W.startTimer _ _ (W.drivePower _ (W.moveTo .powering w h))

theorem actAttached (w : Work) (h : P w.st.ru) : P (actAttached w).st.ru := by
  unfold Machine.actAttached
  split
  · exact h
  · split
    · exact W.sendRequest _ _ (W.moveTo _ _ h)
    · exact h
  · split
    · exact W.sendRequest _ _ (W.moveTo _ _ h)
    · exact h

theorem actSession (w : Work) (h : P w.st.ru) : P (actSession w).st.ru := by
  unfold Machine.actSession
  split
  · exact W.sendRequest _ _ (W.moveTo _ _ h)
  · exact h

theorem act (w : Work) (h : P w.st.ru) : P (act w).st.ru := by
  unfold Machine.act
  split
  case h_1 => exact W.actOff w h
  case h_2 => exact W.actIdle w h
  case h_3 => exact W.actAttached w h
  case h_4 => exact W.actSession w h
  all_goals exact h

/-- The recomputation of the target, but for the target itself. -/
theorem recomputeTarget (haim : ∀ r a, P r → P { r with target := a }) (w : Work) (h : P w.st.ru) :
    P (recomputeTarget w).st.ru := by
  unfold Machine.recomputeTarget
  dsimp only
  have h1 : P (setTarget w).st.ru := haim _ _ h
  split
  · split
    · exact W.enterIdle _ h1
    · exact h1
  · exact W.act _ h1

theorem urgencySees (haim : ∀ r a, P r → P { r with target := a }) (o n : Bool) (w : Work) (h : P w.st.ru) :
    P (urgencySees o n w).st.ru := by
  have h1 : P (setTarget w).st.ru := haim _ _ h
  unfold Machine.urgencySees
  split
  · exact W.enterIdle _ h1
  · exact W.recomputeTarget haim w h

end RuWalk

end Sys2Proof.Machine
end


section
/-! The entries into the radio states and the acts of a state on its target, as functions of the radio unit's record; and
that those that do not leave SESSION change nothing but that record and the event unit. -/

namespace Sys2Proof.Machine

/-! ## The unit's own part -/

def RadioUnit.drive (now : Time) (r : RadioUnit) : RadioUnit := if r.lines.level then r else r.pulsePwr now

def RadioUnit.timed (now : Time) (ms : Nat) (r : RadioUnit) : RadioUnit := { r with stateDue := some (later now ms) }

/-- Entry into STOPPING, or OFF where READY is inactive (R63). -/
def RadioUnit.toStopping (now : Time) (r : RadioUnit) : RadioUnit :=
  if r.ready then ((r.enter .stopping now).drive now).timed now Config.readyWaitMs
  else (r.enter .stopping now).enter .off now

/-- IDLE acts on the target (R59). -/
def RadioUnit.actsIdle (now : Time) (r : RadioUnit) : RadioUnit :=
  if r.target = .off then r.toStopping now
  else if r.linkFree then (r.enter .attaching now).send .attach now
  else r

def RadioUnit.toIdle (now : Time) (r : RadioUnit) : RadioUnit := (r.enter .idle now).actsIdle now

def RadioUnit.toPowering (now : Time) (r : RadioUnit) : RadioUnit :=
  if r.ready then (r.enter .powering now).toIdle now else (r.enter .powering now).timed now Config.readyWaitMs

/-- OFF acts on the target (R58). -/
def RadioUnit.actsOff (now : Time) (r : RadioUnit) : RadioUnit :=
  if r.target = .off then r
  else if r.ready then r.toIdle now
  else ((r.enter .powering now).drive now).timed now Config.readyWaitMs

def RadioUnit.toOff (now : Time) (r : RadioUnit) : RadioUnit := (r.enter .off now).actsOff now

/-- ATTACHED acts on the target (R60). -/
def RadioUnit.actsAttached (now : Time) (r : RadioUnit) : RadioUnit :=
  match r.target with
  | .attached => r
  | .session => if r.linkFree then (r.enter .opening now).send .openSession now else r
  | .off => if r.linkFree then (r.enter .detaching now).send .detach now else r

def RadioUnit.toAttached (now : Time) (r : RadioUnit) : RadioUnit :=
  ({ r.enter .attached now with resets := 0 }).actsAttached now

/-- SESSION acts on the target (R61). -/
def RadioUnit.actsSession (now : Time) (r : RadioUnit) : RadioUnit :=
  if r.target ≠ .session ∧ r.linkFree then (r.enter .closing now).send .closeSession now else r

def RadioUnit.acts (now : Time) (r : RadioUnit) : RadioUnit :=
  match r.state with
  | .off => r.actsOff now
  | .idle => r.actsIdle now
  | .attached => r.actsAttached now
  | .session => r.actsSession now
  | .powering | .attaching | .opening | .closing | .detaching | .stopping | .backoff | .resetting | .fault
  | .resync => r

def RadioUnit.toBackoff (now : Time) (r : RadioUnit) : RadioUnit :=
  { r.enter .backoff now with b := min 640 (2 * r.b), stateDue := some (later now (r.b * 1000)) }

def RadioUnit.toResetting (now : Time) (r : RadioUnit) : RadioUnit :=
  { (r.enter .resetting now).pulseMrst now with resets := min 3 (r.resets + 1), attachTimeouts := 0 }

/-! ## The operations make that of the unit -/

theorem closed_clk (F M B G D : Prop) (c : Clock) : Closed F M B G D True fun s => s.clk = c where
  path := fun _ p _ _ _ h => by cases p <;> exact h
  probe := fun _ _ p _ _ _ h => by cases p <;> exact h
  grade := fun _ _ _ h => h
  ru := fun _ _ _ h => h
  ruEvent := fun _ _ _ _ h => h
  aim := fun _ _ _ _ _ h => h
  demand := fun _ _ _ _ h => h
  ret := fun _ _ _ _ h => h
  classes := fun _ _ _ _ h => h
  hold := fun _ _ _ h => h
  flows := fun _ _ _ _ h => h
  free := fun _ _ _ _ h => h
  fwd := fun _ _ _ h => h
  fwdEvent := fun _ _ _ _ h => h
  allow := fun _ _ h => h
  drill := fun _ _ _ h => h
  ev := fun _ _ _ h => h
  fin := fun _ _ _ _ _ h => h

theorem moveTo_clk (n : RadioState) (w : Work) : (moveTo n w).st.clk = w.st.clk := by
  have h := (closed_clk True True True True True w.st.clk).moveTo n (Or.inr trivial) w rfl
  exact h

theorem moveTo_now (n : RadioState) (w : Work) : (moveTo n w).now = w.now := by
  unfold Work.now
  rw [moveTo_clk]

theorem onRu_now (f : RadioUnit → RadioUnit) (w : Work) : (w.onRu f).now = w.now := rfl

theorem moveTo_ready (n : RadioState) (w : Work) : (moveTo n w).st.ru.ready = w.st.ru.ready := by
  rw [moveTo_ru]
  rfl

theorem moveTo_target (n : RadioState) (w : Work) : (moveTo n w).st.ru.target = w.st.ru.target := by
  rw [moveTo_ru]
  rfl

theorem startTimer_drivePower_ru (ms : Nat) (v : Work) (now : Time) (hn : v.now = now) :
    (startTimer ms (drivePower v)).st.ru = (v.st.ru.drive now).timed now ms := by
  subst hn
  have hnow : (drivePower v).now = v.now := by
    unfold drivePower
    split <;> rfl
  have hru : (drivePower v).st.ru = v.st.ru.drive v.now := drivePower_ru v
  rw [startTimer_ru, hnow, hru]
  rfl

theorem enterStopping_ru (w : Work) : (enterStopping w).st.ru = w.st.ru.toStopping w.now := by
  unfold enterStopping RadioUnit.toStopping
  dsimp only
  rw [moveTo_ready]
  split
  · rw [startTimer_drivePower_ru _ _ _ (moveTo_now _ w), moveTo_ru]
  · rw [moveTo_ru, moveTo_ru, moveTo_now]

theorem actIdle_ru (w : Work) : (actIdle w).st.ru = w.st.ru.actsIdle w.now := by
  unfold actIdle RadioUnit.actsIdle
  split
  · exact enterStopping_ru w
  · split
    · rw [sendRequest_ru, moveTo_ru, moveTo_now]
    · rfl

theorem enterIdle_ru (w : Work) : (enterIdle w).st.ru = w.st.ru.toIdle w.now := by
  unfold enterIdle RadioUnit.toIdle
  rw [actIdle_ru, moveTo_ru, moveTo_now]

theorem enterPowering_ru (w : Work) : (enterPowering w).st.ru = w.st.ru.toPowering w.now := by
  unfold enterPowering RadioUnit.toPowering
  dsimp only
  rw [moveTo_ready]
  split
  · rw [enterIdle_ru, moveTo_ru, moveTo_now]
  · rw [startTimer_ru, moveTo_ru, moveTo_now]
    rfl

theorem actOff_ru (w : Work) : (actOff w).st.ru = w.st.ru.actsOff w.now := by
  unfold actOff RadioUnit.actsOff
  split
  · rfl
  · split
    · exact enterIdle_ru w
    · rw [startTimer_drivePower_ru _ _ _ (moveTo_now _ w), moveTo_ru]

theorem enterOff_ru (w : Work) : (enterOff w).st.ru = w.st.ru.toOff w.now := by
  unfold enterOff RadioUnit.toOff
  rw [actOff_ru, moveTo_ru, moveTo_now]

theorem actAttached_ru (w : Work) : (actAttached w).st.ru = w.st.ru.actsAttached w.now := by
  unfold actAttached RadioUnit.actsAttached
  cases w.st.ru.target with
  | attached => rfl
  | session =>
    dsimp only
    split
    · rw [sendRequest_ru, moveTo_ru, moveTo_now]
    · rfl
  | off =>
    dsimp only
    split
    · rw [sendRequest_ru, moveTo_ru, moveTo_now]
    · rfl

theorem enterAttached_ru (w : Work) : (enterAttached w).st.ru = w.st.ru.toAttached w.now := by
  unfold enterAttached RadioUnit.toAttached
  rw [actAttached_ru, onRu_ru, onRu_now, moveTo_ru, moveTo_now]

theorem actSession_ru (w : Work) : (actSession w).st.ru = w.st.ru.actsSession w.now := by
  unfold actSession RadioUnit.actsSession
  by_cases h : w.st.ru.target ≠ .session ∧ w.st.ru.linkFree = true
  · rw [if_pos h, if_pos h, sendRequest_ru, moveTo_ru, moveTo_now]
  · rw [if_neg h, if_neg h]

theorem act_ru (w : Work) : (act w).st.ru = w.st.ru.acts w.now := by
  have hoff := actOff_ru w
  have hidle := actIdle_ru w
  have hattached := actAttached_ru w
  have hsession := actSession_ru w
  unfold act RadioUnit.acts
  cases w.st.ru.state with
  | off => exact hoff
  | idle => exact hidle
  | attached => exact hattached
  | session => exact hsession
  | _ => rfl

theorem enterBackoff_ru (w : Work) : (enterBackoff w).st.ru = w.st.ru.toBackoff w.now := by
  unfold enterBackoff RadioUnit.toBackoff
  dsimp only
  rw [startTimer_ru, onRu_ru, onRu_now, moveTo_ru, moveTo_now]
  rfl

theorem enterResetting_ru (w : Work) : (enterResetting w).st.ru = w.st.ru.toResetting w.now := by
  unfold enterResetting RadioUnit.toResetting
  dsimp only
  rw [onRu_ru, moveTo_ru, moveTo_now]
  rfl

/-! ## Outside SESSION nothing else changes -/

theorem edgeEvents_low (rising falling old new : Half) {k : Nat} (hk : k < 16) :
    (edgeEvents rising falling old new).getLsbD k = false := by
  simp [edgeEvents, hk]

/-- The second event unit has latched neither the end of a hold nor a cause beyond the first (R38, R93). -/
def EventUnit.sameLoss (e e' : EventUnit) : Prop :=
  e'.latch.getLsbD 10 = e.latch.getLsbD 10 ∧ e'.latch.getLsbD 12 = e.latch.getLsbD 12

theorem EventUnit.sameLoss.refl (e : EventUnit) : e.sameLoss e := ⟨rfl, rfl⟩

theorem EventUnit.sameLoss.trans {e f g : EventUnit} (h : e.sameLoss f) (h' : f.sameLoss g) : e.sameLoss g :=
  ⟨h'.1.trans h.1, h'.2.trans h.2⟩

theorem latch_bit {i k : Nat} (hk : i ≠ k) (e : EventUnit) :
    (e.latch ||| bitMask i).getLsbD k = e.latch.getLsbD k := by
  unfold bitMask
  rw [BitVec.getLsbD_or, BitVec.getLsbD_ofNat, Nat.testBit_two_pow_of_ne hk, Bool.and_false, Bool.or_false]

theorem latch_sameLoss {i : Nat} (h10 : i ≠ 10) (h12 : i ≠ 12) (w : Work) :
    w.st.ev.sameLoss (latch i w).st.ev := ⟨latch_bit h10 _, latch_bit h12 _⟩

theorem handConditions_bit {k : Nat} (hk : k < 16) (w : Work) :
    (handConditions w).st.ev.latch.getLsbD k = w.st.ev.latch.getLsbD k := by
  rw [handConditions_st_eq]
  split
  · rfl
  · dsimp only
    rw [BitVec.getLsbD_or, edgeEvents_low _ _ _ _ hk, Bool.or_false]

theorem handConditions_sameLoss (w : Work) : w.st.ev.sameLoss (handConditions w).st.ev :=
  ⟨handConditions_bit (by decide) w, handConditions_bit (by decide) w⟩

/-- Only the radio unit and the event unit change, and no end of a hold nor cause is latched. -/
def State.RuOnly (s t : State) : Prop := ∃ r e, s.ev.sameLoss e ∧ t = { s with ru := r, ev := e }

theorem State.RuOnly.refl (s : State) : s.RuOnly s := ⟨s.ru, s.ev, .refl _, rfl⟩

theorem State.RuOnly.trans {s t u : State} (h : s.RuOnly t) (hu : t.RuOnly u) : s.RuOnly u := by
  obtain ⟨r, e, he, rfl⟩ := h
  obtain ⟨r', e', he', rfl⟩ := hu
  exact ⟨r', e', he.trans he', rfl⟩

theorem onRu_ruOnly (f : RadioUnit → RadioUnit) (w : Work) : w.st.RuOnly (w.onRu f).st := ⟨_, _, .refl _, rfl⟩

theorem moveTo_ruOnly (n : RadioState) (w : Work) (h : w.st.ru.state ≠ .session ∨ n = .session) :
    w.st.RuOnly (moveTo n w).st := by
  have hmove : moveTo n w =
      handConditions ((w.onRu (RadioUnit.enter n w.now)).touchIf (decide (w.st.ru.state ≠ n)) .radioUnit) := by
    unfold moveTo
    dsimp only
    rw [if_neg (by rintro ⟨h1, h2⟩; exact h.elim (absurd h1) h2)]
  rw [hmove]
  generalize hu : (w.onRu (RadioUnit.enter n w.now)).touchIf (decide (w.st.ru.state ≠ n)) .radioUnit = u
  have hsame := handConditions_sameLoss u
  obtain ⟨e, he⟩ := handConditions_only u
  rw [he] at hsame ⊢
  rw [← hu] at hsame ⊢
  exact ⟨_, e, hsame, rfl⟩

theorem moveTo_state (n : RadioState) (w : Work) : (moveTo n w).st.ru.state = n := by
  rw [moveTo_ru]
  rfl

theorem drivePower_ruOnly (w : Work) : w.st.RuOnly (drivePower w).st := by
  unfold drivePower
  split
  · exact .refl _
  · exact ⟨_, _, .refl _, rfl⟩

theorem sendRequest_ruOnly (k : Request) (w : Work) : w.st.RuOnly (sendRequest k w).st :=
  ⟨_, _, .refl _, rfl⟩

theorem startTimer_ruOnly (ms : Nat) (w : Work) : w.st.RuOnly (startTimer ms w).st :=
  ⟨_, _, .refl _, rfl⟩

theorem enterStopping_ruOnly (w : Work) (h : w.st.ru.state ≠ .session) : w.st.RuOnly (enterStopping w).st := by
  have h1 := moveTo_ruOnly .stopping w (Or.inl h)
  have hs : (moveTo .stopping w).st.ru.state ≠ .session := by rw [moveTo_state]; decide
  unfold enterStopping
  dsimp only
  split
  · exact h1.trans ((drivePower_ruOnly _).trans (startTimer_ruOnly _ _))
  · exact h1.trans (moveTo_ruOnly .off _ (Or.inl hs))

theorem actIdle_ruOnly (w : Work) (h : w.st.ru.state ≠ .session) : w.st.RuOnly (actIdle w).st := by
  unfold actIdle
  split
  · exact enterStopping_ruOnly w h
  · split
    · exact (moveTo_ruOnly .attaching w (Or.inl h)).trans (sendRequest_ruOnly _ _)
    · exact .refl _

theorem enterIdle_ruOnly (w : Work) (h : w.st.ru.state ≠ .session) : w.st.RuOnly (enterIdle w).st := by
  have hs : (moveTo .idle w).st.ru.state ≠ .session := by rw [moveTo_state]; decide
  unfold enterIdle
  exact (moveTo_ruOnly .idle w (Or.inl h)).trans (actIdle_ruOnly _ hs)

theorem enterPowering_ruOnly (w : Work) (h : w.st.ru.state ≠ .session) : w.st.RuOnly (enterPowering w).st := by
  have h1 := moveTo_ruOnly .powering w (Or.inl h)
  have hs : (moveTo .powering w).st.ru.state ≠ .session := by rw [moveTo_state]; decide
  unfold enterPowering
  dsimp only
  split
  · exact h1.trans (enterIdle_ruOnly _ hs)
  · exact h1.trans (startTimer_ruOnly _ _)

theorem actOff_ruOnly (w : Work) (h : w.st.ru.state ≠ .session) : w.st.RuOnly (actOff w).st := by
  unfold actOff
  split
  · exact .refl _
  · split
    · exact enterIdle_ruOnly w h
    · exact (moveTo_ruOnly .powering w (Or.inl h)).trans ((drivePower_ruOnly _).trans (startTimer_ruOnly _ _))

theorem enterOff_ruOnly (w : Work) (h : w.st.ru.state ≠ .session) : w.st.RuOnly (enterOff w).st := by
  have hs : (moveTo .off w).st.ru.state ≠ .session := by rw [moveTo_state]; decide
  unfold enterOff
  exact (moveTo_ruOnly .off w (Or.inl h)).trans (actOff_ruOnly _ hs)

theorem actAttached_ruOnly (w : Work) (h : w.st.ru.state ≠ .session) : w.st.RuOnly (actAttached w).st := by
  unfold actAttached
  split
  · exact .refl _
  · split
    · exact (moveTo_ruOnly .opening w (Or.inl h)).trans (sendRequest_ruOnly _ _)
    · exact .refl _
  · split
    · exact (moveTo_ruOnly .detaching w (Or.inl h)).trans (sendRequest_ruOnly _ _)
    · exact .refl _

theorem enterAttached_ruOnly (w : Work) (h : w.st.ru.state ≠ .session) : w.st.RuOnly (enterAttached w).st := by
  have h1 := (moveTo_ruOnly .attached w (Or.inl h)).trans (onRu_ruOnly (fun r => { r with resets := 0 }) _)
  have hs : ((moveTo .attached w).onRu fun r => { r with resets := 0 }).st.ru.state ≠ .session := by
    rw [onRu_ru, moveTo_ru]
    exact nofun
  unfold enterAttached
  exact h1.trans (actAttached_ruOnly _ hs)

theorem act_ruOnly (w : Work) (h : w.st.ru.state ≠ .session) : w.st.RuOnly (act w).st := by
  unfold act
  split
  case h_1 => exact actOff_ruOnly w h
  case h_2 => exact actIdle_ruOnly w h
  case h_3 => exact actAttached_ruOnly w h
  case h_4 hs => exact absurd hs h
  all_goals exact .refl _

theorem enterBackoff_ruOnly (w : Work) (h : w.st.ru.state ≠ .session) : w.st.RuOnly (enterBackoff w).st := by
  unfold enterBackoff
  exact (moveTo_ruOnly .backoff w (Or.inl h)).trans ((onRu_ruOnly _ _).trans (startTimer_ruOnly _ _))

theorem enterResetting_ruOnly (w : Work) (h : w.st.ru.state ≠ .session) : w.st.RuOnly (enterResetting w).st := by
  unfold enterResetting
  exact (moveTo_ruOnly .resetting w (Or.inl h)).trans (onRu_ruOnly _ _)

/-! ## Entry into IDLE (R57, R59, R63) -/

theorem RuOnly.radio {s t : State} (h : s.RuOnly t) : t.radio = s.radio := by
  obtain ⟨r, e, -, rfl⟩ := h
  rfl

/-- An outstanding request that a state change makes stale (R57). -/
def staleOf (o : Option Outstanding) : Option Outstanding := o.map fun o => { o with stale := true }

theorem staleOf_staleOf (o : Option Outstanding) : staleOf (staleOf o) = staleOf o := by
  cases o <;> rfl

theorem enter_outstanding (n : RadioState) (now : Time) (r : RadioUnit) :
    (r.enter n now).outstanding = staleOf r.outstanding := rfl

theorem drive_keeps (now : Time) (r : RadioUnit) : (r.drive now).state = r.state
    ∧ (r.drive now).outstanding = r.outstanding ∧ (r.drive now).attaches = r.attaches := by
  unfold RadioUnit.drive
  split <;> exact ⟨rfl, rfl, rfl⟩

/-- A unit that enters STOPPING waits for READY to fall, or is OFF where it has fallen (R63). -/
theorem toStopping_fields (now : Time) (r : RadioUnit) :
    (r.toStopping now).state = (if r.ready then RadioState.stopping else .off)
      ∧ (r.toStopping now).stateDue = (if r.ready then some (now + 30000) else none)
      ∧ (r.toStopping now).outstanding = staleOf r.outstanding ∧ (r.toStopping now).attaches = r.attaches := by
  unfold RadioUnit.toStopping
  cases r.ready with
  | true =>
    obtain ⟨hstate, hout, hattaches⟩ := drive_keeps now (r.enter .stopping now)
    exact ⟨hstate, rfl, hout, hattaches⟩
  | false => exact ⟨rfl, rfl, staleOf_staleOf _, rfl⟩

/-- A unit that enters IDLE (R57, R59, R63). -/
theorem toIdle_fields (now : Time) (r : RadioUnit) :
    (r.target = .off → (r.toIdle now).state = (if r.ready then RadioState.stopping else .off)
      ∧ (r.toIdle now).stateDue = (if r.ready then some (now + 30000) else none)
      ∧ (r.toIdle now).outstanding = staleOf r.outstanding ∧ (r.toIdle now).attaches = r.attaches)
    ∧ (r.target ≠ .off → r.outstanding ≠ none → (r.toIdle now).state = .idle ∧ (r.toIdle now).stateDue = none
      ∧ (r.toIdle now).outstanding = staleOf r.outstanding ∧ (r.toIdle now).attaches = r.attaches)
    ∧ (r.target ≠ .off → r.outstanding = none → (r.toIdle now).state = .attaching ∧ (r.toIdle now).stateDue = none
      ∧ (r.toIdle now).attaches = r.attaches + 1
      ∧ (r.toIdle now).outstanding = some { kind := .attach, stale := false,
                                            due := now + BitVec.ofNat 32 (r.attachTimeout * 1000) }) := by
  unfold RadioUnit.toIdle RadioUnit.actsIdle
  refine ⟨fun htarget => ?_, fun htarget hlink => ?_, fun htarget hlink => ?_⟩
  · rw [if_pos (show (r.enter .idle now).target = .off from htarget)]
    obtain ⟨hstate, hdue, hout, hattaches⟩ := toStopping_fields now (r.enter .idle now)
    exact ⟨hstate, hdue, hout.trans (staleOf_staleOf _), hattaches⟩
  · obtain ⟨o, ho⟩ := Option.ne_none_iff_exists'.mp hlink
    have hheld : ¬(r.enter .idle now).linkFree = true := by
      unfold RadioUnit.linkFree
      rw [enter_outstanding, ho]
      exact nofun
    rw [if_neg (show ¬(r.enter .idle now).target = .off from htarget), if_neg hheld]
    exact ⟨rfl, rfl, rfl, rfl⟩
  · have hfree : (r.enter .idle now).linkFree = true := by
      unfold RadioUnit.linkFree
      rw [enter_outstanding, hlink]
      rfl
    rw [if_neg (show ¬(r.enter .idle now).target = .off from htarget), if_pos hfree]
    exact ⟨rfl, rfl, rfl, rfl⟩

/-- A unit that enters IDLE from any state but SESSION goes where R57, R59 and R63 say. -/
theorem enterIdle_entersIdle (w : Work) (h : w.st.ru.state ≠ .session) : w.st.entersIdle (enterIdle w).st := by
  have hradio := RuOnly.radio (enterIdle_ruOnly w h)
  obtain ⟨hoff, hheld, hfree⟩ := toIdle_fields w.now w.st.ru
  rw [← enterIdle_ru] at hoff hheld hfree
  exact ⟨hradio, hoff, hheld, hfree⟩

end Sys2Proof.Machine
end


section
/-! The recomputation of demand: demand, urgent demand, the linger, the target, and the BACKOFF that they end. -/

namespace Sys2Proof.Machine

/-! ## Demand (R90) -/

theorem classWants_iff (c : ClassPath) : c.wantsRadio = true ↔ c = .radio ∨ c = .waiting := by cases c <;> decide

theorem flowWants_iff (f : FlowState) : f.wantsRadio = true ↔ f = .carried .radio ∨ f = .waiting := by
  rcases f with _ | p | _ | _ | _
  case carried => cases p <;> decide
  all_goals decide

theorem live_iff (f : FlowState) : f.live = true ↔ f ≠ .free ∧ f ≠ .expired := by
  rcases f with _ | p | _ | _ | _
  case carried => cases p <;> decide
  all_goals decide

theorem fibreUsable_iff (s : State) : s.fibreUsable = true ↔ s.fibre.state = .up ∨ s.fibre.state = .weak :=
  usable_iff _

theorem tier0Flow_iff (s : State) : s.tier0Flow = true ↔ ¬(s.fibre.state = .up ∨ s.fibre.state = .weak) ∧
    ∃ f ∈ s.flows, (f.state ≠ .free ∧ f.state ≠ .expired) ∧ (s.cls f.cls).tier = 0 := by
  unfold State.tier0Flow
  rw [Bool.and_eq_true, Bool.not_eq_true', ← Bool.not_eq_true, fibreUsable_iff, List.any_eq_true]
  simp only [Bool.and_eq_true, live_iff, decide_eq_true_eq]

theorem wantsSession_iff (s : State) : s.wantsSession = true ↔
    (∃ c ∈ s.classes, c.cur = .radio ∨ c.cur = .waiting)
      ∨ (∃ f ∈ s.flows, f.state = .carried .radio ∨ f.state = .waiting)
      ∨ (¬(s.fibre.state = .up ∨ s.fibre.state = .weak) ∧
          ∃ f ∈ s.flows, (f.state ≠ .free ∧ f.state ≠ .expired) ∧ (s.cls f.cls).tier = 0)
      ∨ s.drill.running = true ∨ (s.hold.active = true ∧ s.hold.path = some .radio) := by
  unfold State.wantsSession State.realUse
  simp only [Bool.or_eq_true, Bool.and_eq_true, decide_eq_true_eq, tier0Flow_iff, List.any_eq_true, classWants_iff,
    flowWants_iff, or_assoc]

theorem wantsUrgently_iff (s : State) : s.wantsUrgently = true ↔
    (¬(s.fibre.state = .up ∨ s.fibre.state = .weak) ∧
        ∃ f ∈ s.flows, (f.state ≠ .free ∧ f.state ≠ .expired) ∧ (s.cls f.cls).tier = 0)
      ∨ ∃ c ∈ s.classes, c.tier = 0 ∧ (c.cur = .radio ∨ c.cur = .waiting) := by
  unfold State.wantsUrgently
  simp only [Bool.or_eq_true, Bool.and_eq_true, decide_eq_true_eq, tier0Flow_iff, List.any_eq_true, classWants_iff]

/-! ## The steps of a recomputation -/

theorem closed_steer (M B G S : Prop) (t : Steering) : Closed False M B G False S fun s => s.steer = t where
  path := fun _ p _ _ _ h => by cases p <;> exact h
  probe := fun _ _ p _ _ _ h => by cases p <;> exact h
  grade := fun _ _ _ h => h
  ru := fun _ _ _ h => h
  ruEvent := fun _ _ _ _ h => h
  aim := fun h => h.elim
  demand := fun h => h.elim
  ret := fun h => h.elim
  classes := fun _ _ _ _ h => h
  hold := fun _ _ _ h => h
  flows := fun _ _ _ _ h => h
  free := fun _ _ _ _ h => h
  fwd := fun _ _ _ h => h
  fwdEvent := fun _ _ _ _ h => h
  allow := fun _ _ h => h
  drill := fun _ _ _ h => h
  ev := fun _ _ _ h => h
  fin := fun h => h.elim

theorem enterIdle_steer (w : Work) : (enterIdle w).st.steer = w.st.steer :=
  (closed_steer False False False False w.st.steer).enterIdle w rfl

theorem act_steer (w : Work) : (act w).st.steer = w.st.steer :=
  (closed_steer False False False False w.st.steer).act w rfl

theorem urgencySees_steer (o n : Bool) (w : Work) : (urgencySees o n w).st.steer = w.st.steer := by
  have hset : (setTarget w).st.steer = w.st.steer := rfl
  unfold urgencySees recomputeTarget
  dsimp only
  split
  · rw [enterIdle_steer, hset]
  · split
    · split
      · rw [enterIdle_steer, hset]
      · exact hset
    · rw [act_steer, hset]

/-- Demand and urgent demand take the values that the state gives (R90). -/
theorem recomputeDemand_steer (w : Work) : (recomputeDemand w).st.steer =
    { w.st.steer with demand := w.st.wantsSession, urgent := w.st.wantsUrgently } := by
  unfold recomputeDemand
  rw [urgencySees_steer]
  unfold lingerSees stopLinger
  dsimp only
  split
  · rfl
  · split <;> rfl

theorem walk_linger (a : Bool) (b : Time) : RuWalk fun r => r.lingerOn = a ∧ r.lingerStart = b where
  enter := fun _ _ _ h => h
  send := fun _ _ _ h => h
  timer := fun _ _ h => h
  pulse := fun _ _ h => h

theorem walk_b (b : Nat) : RuWalk fun r => r.b = b where
  enter := fun _ _ _ h => h
  send := fun _ _ _ h => h
  timer := fun _ _ h => h
  pulse := fun _ _ h => h

theorem walk_target (a : Target) : RuWalk fun r => r.target = a where
  enter := fun _ _ _ h => h
  send := fun _ _ _ h => h
  timer := fun _ _ h => h
  pulse := fun _ _ h => h

/-- The linger's view of demand, as a change of the unit's record (R74). -/
theorem lingerSees_ru (old new : Bool) (w : Work) : (lingerSees old new w).st.ru =
    if new then { w.st.ru with lingerOn := false }
    else if old && decide (w.st.exch.service = .service) && !w.drillEnded && decide (0 < w.st.effectiveLinger) then
      { w.st.ru with lingerOn := true, lingerStart := w.now }
    else w.st.ru := by
  unfold lingerSees stopLinger
  split
  · rfl
  · split <;> rfl

/-- A BACKOFF in which the target is recomputed: it ends where urgent demand becomes true or the target becomes OFF, and
otherwise goes on (R64). -/
theorem urgencySees_backoff (o n : Bool) (w : Work) (h : w.st.ru.state = .backoff) :
    urgencySees o n w = if (o = false ∧ n = true) ∨ (w.st.ru.target ≠ .off ∧ w.st.targetNow = .off) then enterIdle (setTarget w)
      else setTarget w := by
  have hset : (setTarget w).st.ru.state = .backoff := h
  unfold urgencySees recomputeTarget
  dsimp only
  rw [if_pos hset, show (setTarget w).st.ru.target = w.st.targetNow from rfl, h]
  cases o <;> cases n <;> simp

/-- Where a unit goes that enters IDLE does not depend on demand and the linger. -/
theorem entersIdle_congr {s v t : State} (hclk : v.clk = s.clk) (hradio : v.radio = s.radio) (a : Bool) (b : Time)
    (hru : v.ru = { s.ru with target := t.ru.target, lingerOn := a, lingerStart := b }) (h : v.entersIdle t) :
    { s with ru := { s.ru with target := t.ru.target } }.entersIdle t := by
  unfold State.entersIdle State.now at *
  rw [hclk, hradio, hru] at h
  exact h

/-- The work after demand is written and the linger has seen it, before the target is recomputed. -/
def demandSeen (w : Work) : Work :=
  lingerSees w.st.steer.demand w.st.wantsSession
    ((w.onSteer fun t => { t with demand := w.st.wantsSession, urgent := w.st.wantsUrgently }).touchIf
      (decide (w.st.steer.demand ≠ w.st.wantsSession) || decide (w.st.steer.urgent ≠ w.st.wantsUrgently)) .hold)

theorem recomputeDemand_eq (w : Work) :
    recomputeDemand w = urgencySees w.st.steer.urgent w.st.wantsUrgently (demandSeen w) := rfl

theorem demandSeen_ru (w : Work) : (demandSeen w).st.ru =
    if w.st.wantsSession then { w.st.ru with lingerOn := false }
    else if w.st.steer.demand && decide (w.st.exch.service = .service) && !w.drillEnded
        && decide (0 < w.st.effectiveLinger) then
      { w.st.ru with lingerOn := true, lingerStart := w.now }
    else w.st.ru := lingerSees_ru _ _ _

theorem demandSeen_unit (w : Work) : ∃ a b, (demandSeen w).st.ru = { w.st.ru with lingerOn := a, lingerStart := b } := by
  rw [demandSeen_ru]
  split
  · exact ⟨_, _, rfl⟩
  · split <;> exact ⟨_, _, rfl⟩

theorem demandSeen_keeps (w : Work) : (demandSeen w).st.clk = w.st.clk ∧ (demandSeen w).st.radio = w.st.radio := by
  unfold demandSeen lingerSees
  split
  · exact ⟨rfl, rfl⟩
  · split <;> exact ⟨rfl, rfl⟩

/-- The linger stops where demand is true and starts where demand falls (R74, R90, R161). -/
theorem recomputeDemand_linger (w : Work) :
    (recomputeDemand w).st.ru.lingerOn = (demandSeen w).st.ru.lingerOn ∧
      (recomputeDemand w).st.ru.lingerStart = (demandSeen w).st.ru.lingerStart := by
  rw [recomputeDemand_eq]
  exact (walk_linger _ _).urgencySees (fun _ _ h => h) _ _ _ ⟨rfl, rfl⟩

/-- A BACKOFF ends early where urgent demand becomes true or the target becomes OFF, and otherwise goes on with its timer;
the backoff value stays (R64, R73). -/
theorem recomputeDemand_backoff (w : Work) (h : w.st.ru.state = .backoff) :
    (recomputeDemand w).st.ru.b = w.st.ru.b
      ∧ (((w.st.steer.urgent = false ∧ (recomputeDemand w).st.steer.urgent = true) ∨
            (w.st.ru.target ≠ .off ∧ (recomputeDemand w).st.ru.target = .off)) →
          { w.st with ru := { w.st.ru with target := (recomputeDemand w).st.ru.target } }.entersIdle (recomputeDemand w).st)
      ∧ (¬((w.st.steer.urgent = false ∧ (recomputeDemand w).st.steer.urgent = true) ∨
            (w.st.ru.target ≠ .off ∧ (recomputeDemand w).st.ru.target = .off)) →
          (recomputeDemand w).st.ru.state = .backoff ∧ (recomputeDemand w).st.ru.stateDue = w.st.ru.stateDue) := by
  obtain ⟨a, b, hunit⟩ := demandSeen_unit w
  obtain ⟨hclk, hradio⟩ := demandSeen_keeps w
  have hstate : (demandSeen w).st.ru.state = .backoff := by rw [hunit]; exact h
  have htarget : (demandSeen w).st.ru.target = w.st.ru.target := by rw [hunit]
  have hset : (setTarget (demandSeen w)).st.ru =
      { w.st.ru with target := (demandSeen w).st.targetNow, lingerOn := a, lingerStart := b } := by
    show ({ (demandSeen w).st.ru with target := (demandSeen w).st.targetNow } : RadioUnit) = _
    rw [hunit]
  have hurgent : (recomputeDemand w).st.steer.urgent = w.st.wantsUrgently := by rw [recomputeDemand_steer]
  rw [hurgent, recomputeDemand_eq, urgencySees_backoff _ _ _ hstate, htarget]
  have hnew : ∀ v : Work, v.st.ru.target = (demandSeen w).st.targetNow →
      ((w.st.ru.target ≠ .off ∧ v.st.ru.target = .off) ↔
        (w.st.ru.target ≠ .off ∧ (demandSeen w).st.targetNow = .off)) := fun v hv => by rw [hv]
  split
  · rename_i hearly
    have haim : (enterIdle (setTarget (demandSeen w))).st.ru.target = (demandSeen w).st.targetNow :=
      (walk_target _).enterIdle _ rfl
    have hidle := enterIdle_entersIdle (setTarget (demandSeen w)) (by rw [hset]; exact h ▸ nofun)
    refine ⟨(walk_b w.st.ru.b).enterIdle _ (by rw [hset]), fun _ => ?_, fun hnot => ?_⟩
    · refine entersIdle_congr (v := (setTarget (demandSeen w)).st) hclk hradio a b ?_ hidle
      rw [hset, haim]
    · rw [haim] at hnot
      exact absurd hearly hnot
  · rename_i hnot
    refine ⟨by rw [hset], fun hearly => absurd hearly hnot, fun _ => by rw [hset]; exact ⟨h, rfl⟩⟩

/-- Demand falls in SERVICE, with no drill ended in the event and a linger to run (R74). -/
def Work.demandFalls (w : Work) : Prop :=
  w.st.steer.demand = true ∧ ¬w.st.wantsSession = true ∧ w.st.exch.service = .service ∧ w.drillEnded = false
    ∧ 0 < w.st.effectiveLinger

/-- The linger once demand has been seen (R74). -/
theorem demandSeen_linger (w : Work) :
    ((demandSeen w).st.ru.lingerOn = true ↔
        ¬w.st.wantsSession = true ∧ (w.st.ru.lingerOn = true ∨ w.demandFalls))
      ∧ (w.demandFalls → (demandSeen w).st.ru.lingerStart = w.now)
      ∧ (¬w.demandFalls → (demandSeen w).st.ru.lingerStart = w.st.ru.lingerStart) := by
  have hfalls : w.demandFalls ↔ ¬w.st.wantsSession = true ∧ (w.st.steer.demand && decide (w.st.exch.service = .service)
      && !w.drillEnded && decide (0 < w.st.effectiveLinger)) = true := by
    unfold Work.demandFalls
    simp only [Bool.and_eq_true, decide_eq_true_eq, Bool.not_eq_true']
    tauto
  rw [demandSeen_ru]
  by_cases hdemand : w.st.wantsSession = true
  · rw [if_pos hdemand]
    refine ⟨⟨(fun h => nomatch h), fun h => absurd hdemand h.1⟩, fun h => absurd hdemand (hfalls.mp h).1, fun _ => rfl⟩
  · rw [if_neg hdemand]
    split
    · rename_i hstart
      have h := hfalls.mpr ⟨hdemand, hstart⟩
      exact ⟨⟨fun _ => ⟨hdemand, Or.inr h⟩, fun _ => rfl⟩, fun _ => rfl, fun hnot => absurd h hnot⟩
    · rename_i hstays
      have h : ¬w.demandFalls := fun h => hstays (hfalls.mp h).2
      exact ⟨⟨fun hon => ⟨hdemand, Or.inl hon⟩, fun hon => hon.2.resolve_right h⟩, fun h' => absurd h' h, fun _ => rfl⟩

/-- Settles O60: `step_targetAndService`, and the recomputation of demand part by part. -/
theorem targetAndServiceAgree : Obligations.TargetAndServiceAgree := by
  unfold Obligations.TargetAndServiceAgree
  refine ⟨fun s t hx ht ha hq hp hf => step_targetAndService hx ht ha hq hp hf, fun w => ?_⟩
  obtain ⟨hon, hstart⟩ := recomputeDemand_linger w
  obtain ⟨hlinger, hfalls, hstays⟩ := demandSeen_linger w
  have hbackoff := recomputeDemand_backoff w
  rw [← hon] at hlinger
  rw [← hstart] at hfalls hstays
  unfold Work.demandFalls State.effectiveLinger at hlinger hfalls hstays
  rw [wantsSession_iff] at hlinger hfalls hstays
  refine ⟨?_, ?_, ?_, ?_, ?_, recomputeDemand_onTarget w, hbackoff⟩
  · rw [recomputeDemand_steer]
    exact wantsSession_iff w.st
  · rw [recomputeDemand_steer]
    exact wantsUrgently_iff w.st
  · cases hs : w.st.sup.state <;> rw [hs] at hlinger <;> exact hlinger
  · cases hs : w.st.sup.state <;> rw [hs] at hfalls <;> exact hfalls
  · cases hs : w.st.sup.state <;> rw [hs] at hstays <;> exact hstays

end Sys2Proof.Machine
end


section
/-! Events that owe no pass and change no condition; with them the writes of the two enables and the sweeps. -/

namespace Sys2Proof.Machine

/-! ## Events that change no condition -/

/-- An event that owes no pass, changes no flow and leaves the condition bits at their facts. -/
theorem event_calm (f : Work → Work) (s : State) {v : Work} (hs : s.exch.service ≠ .init) (hv : f (Work.begin s) = v)
    (hpass : v.passDue = false) (hdemand : v.demandDue = false) (hflows : v.st.flows = s.flows)
    (hcond : v.st.condTrue) : (event f s).plain = (refreshIrq v.st).plain := by
  subst hv
  rw [event_plain f s hs hpass hdemand (by rw [hflows]; exact countFlowChanges_self _), handed_of_cond _ hcond]

/-- Where the IRQ line is at its level too, the event leaves what its own changes made. -/
theorem event_still (f : Work → Work) (s : State) {v : Work} (hs : s.exch.service ≠ .init) (hv : f (Work.begin s) = v)
    (hpass : v.passDue = false) (hdemand : v.demandDue = false) (hflows : v.st.flows = s.flows)
    (hcond : v.st.condTrue) (hirq : v.st.irqTrue) : (event f s).plain = v.st.plain := by
  rw [event_calm f s hs hv hpass hdemand hflows hcond, refreshIrq_of_true _ hirq]

/-! ## The two enables (R167, R188, R189) -/

theorem interruptEnable_plain (b : Bool) {s : State} (h : s.current) :
    ∃ t, exec (.interruptEnableWrite b) s = .next t ∧
      t.plain = { s with
        exch := { s.exch with intEnable := b },
        ev := { s.ev with irq := b && decide (s.ev.latch &&& s.ev.enable ≠ 0) } }.plain := by
  obtain ⟨hinit, hcond, -⟩ := h
  refine ⟨controlWrite (if b then 2 else 0) s, rfl, ?_⟩
  have hreset : (if b then 2 else 0 : Word).getLsbD 0 = false := by cases b <;> rfl
  have hbit : (if b then 2 else 0 : Word).getLsbD 1 = b := by cases b <;> rfl
  unfold controlWrite
  rw [if_neg hinit, hreset, if_neg Bool.false_ne_true, hbit]
  exact event_calm _ s hinit rfl rfl rfl rfl hcond

theorem writeEnable_plain (v : Word) {s : State} (h : s.current) :
    (writeEnable v s).plain = { s with
      ev := { s.ev with enable := v, irq := s.exch.intEnable && decide (s.ev.latch &&& v ≠ 0) } }.plain := by
  obtain ⟨hinit, hcond, -⟩ := h
  exact event_calm _ s hinit rfl rfl rfl rfl hcond

/-- Settles O8. -/
theorem enablesWritten : Obligations.EnablesWritten := by
  unfold Obligations.EnablesWritten
  refine ⟨fun b s => interruptEnable_plain b, fun width v s => ⟨fun hw => ?_, fun h => ?_⟩⟩
  · exact congrArg Host.Outcome.next (if_neg hw)
  · have hplain := writeEnable_plain v h
    have hexch : (writeEnable v s).exch = s.exch := (congrArg State.exch hplain :)
    have henable : (writeEnable v s).ev.enable = v := (congrArg (fun t : State => t.ev.enable) hplain :)
    refine ⟨writeEnable v s, rfl, ?_, hplain⟩
    unfold registerRead
    rw [hexch, henable]
    simp [h.1]

/-! ## Sweeps (R172 to R175) -/

theorem takeNudge_plain {s : State} (h : s.current) : (event takeNudge s).plain = { s with exch :=
    match s.exch.sweep with
    | none => { s.exch with sweep := some (collectSlots s.mem s.exch.lastTicket), sweepDone := false }
    | some _ => { s.exch with nudgePending := true } }.plain := by
  obtain ⟨hinit, hcond, hirq⟩ := h
  cases hsweep : s.exch.sweep with
  | none => exact event_still takeNudge s hinit (v := beginSweep (Work.begin s)) (by simp [takeNudge, hsweep]) rfl rfl rfl hcond hirq
  | some l =>
    exact event_still takeNudge s hinit (v := (Work.begin s).onExch fun e => { e with nudgePending := true })
      (by simp [takeNudge, hsweep]) rfl rfl rfl hcond hirq

theorem takeSweepTimer_plain {s : State} (h : s.current) : (event takeSweepTimer s).plain = { s with exch :=
    match s.exch.sweep with
    | none => { s.exch with
        sweep := some (collectSlots s.mem s.exch.lastTicket), sweepDone := false,
        sweepDue := s.exch.sweepDue + BitVec.ofNat 32 s.exch.interval }
    | some _ => { s.exch with sweepDue := s.exch.sweepDue + BitVec.ofNat 32 s.exch.interval } }.plain := by
  obtain ⟨hinit, hcond, hirq⟩ := h
  have hphase : takeSweepTimer (Work.begin s) =
      let w := (Work.begin s).onExch fun e => { e with sweepDue := later e.sweepDue e.interval }
      match s.exch.sweep with
      | none => beginSweep w
      | some _ => w := rfl
  cases hsweep : s.exch.sweep with
  | none =>
    rw [hsweep] at hphase
    exact event_still takeSweepTimer s hinit hphase rfl rfl rfl hcond hirq
  | some l =>
    rw [hsweep] at hphase
    exact event_still takeSweepTimer s hinit hphase rfl rfl rfl hcond hirq

theorem slotPassedOver_plain {s : State} {i : Nat} {rest : List Nat} (h : s.current)
    (hsweep : s.exch.sweep = some (i :: rest)) (hslot : slotState s.mem i ≠ 1) :
    ∃ t, exec .slotPassedOver s = .next t ∧ t.plain = { s with exch := { s.exch with sweep := some rest } }.plain := by
  obtain ⟨hinit, hcond, hirq⟩ := h
  refine ⟨event (fun w => w.onExch fun e => { e with sweep := some rest }) s, ?_, ?_⟩
  · show execSlotPassedOver s = _
    unfold execSlotPassedOver
    rw [hsweep]
    exact congrArg Host.Outcome.next (if_neg hslot)
  · exact event_still _ s hinit rfl rfl rfl rfl hcond hirq

/-- The end of a sweep, as the exchange port and the latch see it (R172, R175). -/
theorem endSweep_st (s : State) : (endSweep (Work.begin s)).st = { s with
    exch := { s.exch with
      sweep := if s.exch.nudgePending then some (collectSlots s.mem s.exch.lastTicket) else none,
      sweepDone := false, nudgePending := false, sweepCount := s.exch.sweepCount + 1 },
    ev := { s.ev with latch := if s.exch.sweepDone then s.ev.latch ||| 0x4000 else s.ev.latch } } := by
  unfold endSweep
  dsimp only
  cases hnudge : s.exch.nudgePending <;> cases hdone : s.exch.sweepDone <;>
    simp [hnudge, hdone, beginSweep, latch, Work.begin, Work.onExch, Work.onEv, bitMask, Bit.orderDone]

theorem headerFields_sweepCount {s t : State} (h : t.exch.sweepCount = s.exch.sweepCount + 1) :
    headerFields s ≠ headerFields t := by
  intro e
  have hcount : some s.exch.sweepCount.toNat = some t.exch.sweepCount.toNat :=
    congrArg (fun l => (l.map Field.val)[2]?) e
  rw [h] at hcount
  have hsame := BitVec.eq_of_toNat_eq (Option.some.inj hcount)
  bv_omega

theorem sweepEnd_plain {s : State} (h : s.current) (hsweep : s.exch.sweep = some []) :
    ∃ t, exec .sweepEnd s = .next t ∧
      t.plain = (refreshIrq { s with
        exch := { s.exch with
          sweep := if s.exch.nudgePending then some (collectSlots s.mem s.exch.lastTicket) else none,
          sweepDone := false, nudgePending := false, sweepCount := s.exch.sweepCount + 1 },
        ev := { s.ev with latch := if s.exch.sweepDone then s.ev.latch ||| 0x4000 else s.ev.latch } }).plain
      ∧ t.counts.header = s.counts.header + 2 := by
  obtain ⟨hinit, hcond, -⟩ := h
  have hx : exec .sweepEnd s = .next (event endSweep s) := congrArg Host.Outcome.next (if_pos hsweep)
  have hidle : (endSweep (Work.begin s)).passDue = false ∧ (endSweep (Work.begin s)).demandDue = false := by
    unfold endSweep
    dsimp only
    split <;> split <;> exact ⟨rfl, rfl⟩
  have hst := endSweep_st s
  have hplain := event_calm endSweep s hinit rfl hidle.1 hidle.2 (by rw [hst]) (by rw [hst]; exact hcond)
  rw [hst] at hplain
  have hcount : (event endSweep s).exch.sweepCount = s.exch.sweepCount + 1 :=
    (congrArg (fun t : State => t.exch.sweepCount) hplain :)
  have hservice : (event endSweep s).exch.service = s.exch.service :=
    (congrArg (fun t : State => t.exch.service) hplain :)
  have hruled := happens_recordsRuled (exec_happens hx) hinit (by rw [hservice]; exact hinit)
  exact ⟨_, hx, hplain, hruled.1.1 (headerFields_sweepCount hcount)⟩

/-- Settles O12. -/
theorem sweepsRun : Obligations.SweepsRun := by
  unfold Obligations.SweepsRun
  refine ⟨fun v s h => ⟨⟨_, rfl, takeNudge_plain h⟩, fun hdue => ⟨_, ?_, takeSweepTimer_plain h⟩, fun hdue => ?_⟩,
    fun i rest s h => slotPassedOver_plain h, fun s h => sweepEnd_plain h⟩
  · exact congrArg Host.Outcome.next (if_pos hdue)
  · exact congrArg Host.Outcome.next (if_neg (by rw [hdue]; exact Bool.false_ne_true))

end Sys2Proof.Machine
end


section
/-! The collection of a sweep: the READY slots in the order of their ticket distance and index (R173). -/

namespace Sys2Proof.Machine

/-- Order by key, then by index. -/
def KeyOrder (key : Nat → Nat) (i j : Nat) : Prop := key i < key j ∨ (key i = key j ∧ i < j)

theorem KeyOrder.trans {key : Nat → Nat} {i j k : Nat} (hij : KeyOrder key i j) (hjk : KeyOrder key j k) :
    KeyOrder key i k := by
  unfold KeyOrder at *
  omega

theorem mem_insertSlot (key : Nat → Nat) (i x : Nat) (l : List Nat) : x ∈ insertSlot key i l ↔ x = i ∨ x ∈ l := by
  induction l with
  | nil => simp [insertSlot]
  | cons j l ih =>
    unfold insertSlot
    split
    · simp
    · rw [List.mem_cons, ih, List.mem_cons]
      tauto

/-- A slot of a higher index than all others goes behind those of its own key. -/
theorem pairwise_insertSlot {key : Nat → Nat} {i : Nat} {l : List Nat} (hlt : ∀ j ∈ l, j < i)
    (h : l.Pairwise (KeyOrder key)) : (insertSlot key i l).Pairwise (KeyOrder key) := by
  induction l with
  | nil => exact List.pairwise_singleton _ _
  | cons j l ih =>
    obtain ⟨hj, hl⟩ := List.pairwise_cons.mp h
    unfold insertSlot
    split
    · rename_i hkey
      refine List.pairwise_cons.mpr ⟨fun x hx => ?_, h⟩
      rcases List.mem_cons.mp hx with rfl | hx
      · exact Or.inl hkey
      · exact KeyOrder.trans (Or.inl hkey) (hj x hx)
    · rename_i hkey
      refine List.pairwise_cons.mpr ⟨fun x hx => ?_, ih (fun x hx => hlt x (List.mem_cons_of_mem _ hx)) hl⟩
      rcases (mem_insertSlot key i x l).mp hx with rfl | hx
      · have hji := hlt j (List.mem_cons_self ..)
        unfold KeyOrder
        omega
      · exact hj x hx

theorem foldl_insertSlot (key : Nat → Nat) (l acc : List Nat) (hl : l.Pairwise (· < ·))
    (hlt : ∀ j ∈ acc, ∀ i ∈ l, j < i) (h : acc.Pairwise (KeyOrder key)) :
    (l.foldl (fun acc i => insertSlot key i acc) acc).Pairwise (KeyOrder key) ∧
      ∀ x, x ∈ l.foldl (fun acc i => insertSlot key i acc) acc ↔ x ∈ l ∨ x ∈ acc := by
  induction l generalizing acc with
  | nil => exact ⟨h, fun x => by simp⟩
  | cons i l ih =>
    obtain ⟨hi, hl⟩ := List.pairwise_cons.mp hl
    have hacc : ∀ j ∈ acc, j < i := fun j hj => hlt j hj i (List.mem_cons_self ..)
    obtain ⟨hp, hmem⟩ := ih (insertSlot key i acc) hl (fun j hj k hk => by
      rcases (mem_insertSlot key i j acc).mp hj with rfl | hj
      · exact hi k hk
      · exact hlt j hj k (List.mem_cons_of_mem _ hk)) (pairwise_insertSlot hacc h)
    refine ⟨hp, fun x => ?_⟩
    rw [List.foldl_cons, hmem, mem_insertSlot, List.mem_cons]
    tauto

theorem ticketDistance_eq (ticket : Nat) (last : Half) :
    ticketDistance ticket last.toNat = (BitVec.ofNat 16 ticket - last - 1).toNat := by
  unfold ticketDistance
  bv_omega

/-- Settles O11: the collection is an insertion sort of the READY slots. -/
theorem collectionOrder : Obligations.CollectionOrder := by
  unfold Obligations.CollectionOrder
  intro m last
  have hready : ((List.range 16).filter fun i => decide (slotState m i = Slot.ready)).Pairwise (· < ·) :=
    List.pairwise_lt_range.filter _
  obtain ⟨hp, hmem⟩ := foldl_insertSlot (fun j => ticketDistance (slotTicket m j) last.toNat) _ [] hready
    (fun _ h => nomatch h) List.Pairwise.nil
  refine ⟨fun i => (hmem i).trans ?_, hp.imp fun {i j} h => ?_⟩
  · simp only [List.mem_filter, List.mem_range, decide_eq_true_eq, List.not_mem_nil, or_false]
    rfl
  · unfold KeyOrder at h
    dsimp only at h
    rwa [ticketDistance_eq, ticketDistance_eq] at h

end Sys2Proof.Machine
end


section
/-! How orders are taken: which command takes which kind, what a taking leaves of the exchange memory, and the orders that
are refused. -/

namespace Sys2Proof.Machine

/-! ## Takings (R174) -/

theorem steady_mem (m : Memory) : Steady fun s => s.mem = m where
  quiet := fun _ _ h hs => h.mem.trans hs
  latched := fun _ _ _ h => h
  handed := fun w h => by rwa [handConditions_mem]

/-- The command of an order kind is the taking of that kind, and its rule leaves the exchange memory. -/
theorem kindOrder_taking {kind : Nat} {c : Instr} (h : kindOrder kind = some c) :
    ∃ body : List Byte → Work → Answered, (∀ s, exec c s = .next (takeKind kind body s)) ∧
      ∀ ps w, (body ps w).work.st.mem = w.st.mem := by
  have hmem : ∀ body : List Byte → Work → Answered,
      (∀ Q, Steady Q → ∀ ps w, Q w.st → Q (body ps w).work.st) → ∀ ps w, (body ps w).work.st.mem = w.st.mem :=
    fun body hbody ps w => hbody _ (steady_mem w.st.mem) ps w rfl
  unfold kindOrder at h
  split at h
  case h_1 => cases h; exact ⟨_, fun _ => rfl, hmem _ fun Q S => S.setGenerator⟩
  case h_2 => cases h; exact ⟨_, fun _ => rfl, hmem _ fun Q S => S.setProbing⟩
  case h_3 => cases h; exact ⟨_, fun _ => rfl, hmem _ fun Q S => S.setTemplate⟩
  case h_4 => cases h; exact ⟨_, fun _ => rfl, hmem _ fun Q S => S.setScoring⟩
  case h_5 => cases h; exact ⟨_, fun _ => rfl, hmem _ fun Q S => S.setDamping⟩
  case h_6 => cases h; exact ⟨_, fun _ => rfl, hmem _ fun Q S => S.clearCause⟩
  case h_7 => cases h; exact ⟨_, fun _ => rfl, hmem _ fun Q S => S.setRadio⟩
  case h_8 => cases h; exact ⟨_, fun _ => rfl, hmem _ fun Q S => S.setModemLines⟩
  case h_9 => cases h; exact ⟨_, fun _ => rfl, hmem _ fun Q S => S.releaseRadio⟩
  case h_10 => cases h; exact ⟨_, fun _ => rfl, hmem _ fun Q S => S.setClass⟩
  case h_11 => cases h; exact ⟨_, fun _ => rfl, hmem _ fun Q S => S.setSteering⟩
  case h_12 => cases h; exact ⟨_, fun _ => rfl, hmem _ fun Q S => S.holdPath⟩
  case h_13 => cases h; exact ⟨_, fun _ => rfl, hmem _ fun Q S => S.releaseHold⟩
  case h_14 => cases h; exact ⟨_, fun _ => rfl, hmem _ fun Q S => S.orderOpen⟩
  case h_15 => cases h; exact ⟨_, fun _ => rfl, hmem _ fun Q S => S.closeFlow⟩
  case h_16 => cases h; exact ⟨_, fun _ => rfl, hmem _ fun Q S => S.setAllowance⟩
  case h_17 => cases h; exact ⟨_, fun _ => rfl, hmem _ fun Q S => S.newPeriod⟩
  case h_18 => cases h; exact ⟨_, fun _ => rfl, hmem _ fun Q S => S.setSupply⟩
  case h_19 => cases h; exact ⟨_, fun _ => rfl, hmem _ fun Q S => S.orderRun⟩
  case h_20 => cases h; exact ⟨_, fun _ => rfl, hmem _ fun Q S => S.cancelDrill⟩
  case h_21 => cases h; exact ⟨orderSetEventEdges, fun _ => rfl, fun _ _ => rfl⟩
  case h_22 => cases h; exact ⟨_, fun _ => rfl, hmem _ fun Q S => S.startService⟩
  case h_23 => cases h; exact ⟨_, fun _ => rfl, hmem _ fun Q S => S.orderStop⟩
  case h_24 => cases h; exact ⟨_, fun _ => rfl, hmem _ fun Q S => S.setExchange⟩
  case h_25 => cases h

theorem takeKind_idle {kind : Nat} (body : List Byte → Work → Answered) {s : State}
    (h : ∀ i rest, ¬s.offersKind kind i rest) : takeKind kind body s = s :=
  takeOrder_none _ body s fun i rest ho =>
    h i rest ⟨ho.1, ho.2.1, ho.2.2.1, of_decide_eq_true ho.2.2.2⟩

/-- A byte other than 0 is read back where it was written, in whatever order the cells stand. -/
theorem read_write_nonzero (m : Memory) (a : Nat) {b : Byte} (hb : b ≠ 0) : (m.write a b).read a = b := by
  induction m with
  | nil =>
    unfold Memory.write
    rw [if_neg hb]
    simp [Memory.read]
  | cons c m ih =>
    obtain ⟨x, v⟩ := c
    unfold Memory.write
    rw [if_neg hb, if_neg hb]
    split
    · simp [Memory.read]
    · split
      · simp [Memory.read]
      · rename_i hx
        simp [Memory.read, Ne.symm hx, ih]

theorem slotState_answered (m : Memory) (i : Nat) (r : ResultCode) (ans : List Byte) :
    slotState (slotAnswer m i r ans) i = 3 := read_write_nonzero _ _ (by decide)

/-- Settles O13: `kindOrder_taking`, and what `writeAnswer` writes. -/
theorem takingsAnswerTheirSlot : Obligations.TakingsAnswerTheirSlot := by
  unfold Obligations.TakingsAnswerTheirSlot
  intro c kind i rest s hkind hoffers
  obtain ⟨body, hexec, hbody⟩ := kindOrder_taking hkind
  have hmem : (body (slotParams s.mem i) (Work.begin s)).work.st.mem = s.mem := hbody _ _
  have htake := takeKind_eq kind body s i rest hoffers
  dsimp only at htake
  generalize body (slotParams s.mem i) (Work.begin s) = a at hmem htake
  have hpasses : (passes a.work).st.mem = s.mem := (passes_mem a.work).trans hmem
  have hm : (takeKind kind body s).mem = slotAnswer s.mem i a.result (a.answer (passes a.work).st) := by
    rw [htake, finish_mem, writeAnswer_st s i rest _ _ _ hpasses]
    show slotAnswer (passes a.work).st.mem _ _ _ = _
    rw [hpasses]
  refine ⟨_, a.result, a.answer (passes a.work).st, hexec s, hm, ?_, fun x h1 h2 h3 => ?_, ?_, ?_, ?_⟩
  · rw [hm]
    exact slotState_answered _ _ _ _
  · rw [hm]
    exact read_slotAnswer_other _ _ _ _ x h1 (by omega) (by omega)
  · rw [htake, finish_sweep]
    rfl
  · rw [htake, finish_sweepDone]
    rfl
  · rw [htake, finish_lastTicket]
    rfl

/-! ## Refusals (R176) -/

/-- A taking whose order owes no pass and changes no flow. -/
theorem takeOrder_plain {accepts : Nat → Bool} {body : List Byte → Work → Answered} {s : State} {i : Nat}
    {rest : List Nat} (h : s.offers accepts i rest) {a : Answered}
    (ha : body (slotParams s.mem i) (Work.begin s) = a) (hpass : a.work.passDue = false)
    (hdemand : a.work.demandDue = false) (hm : a.work.st.mem = s.mem)
    (hflows : countFlowChanges s.flows a.work.st.flows = 0) :
    (takeOrder accepts body s).plain = (a.work.st.answered i rest a.result (a.answer a.work.st)).handed.plain := by
  rw [takeOrder_offers accepts body s i rest h, ha]
  dsimp only
  rw [passes_idle _ hpass hdemand]
  have hflows' : countFlowChanges s.flows
      (writeAnswer i rest (slotTicket s.mem i) a.result (a.answer a.work.st) a.work).st.flows = 0 := hflows
  rw [finish_plain _ _ hflows', writeAnswer_st s i rest _ _ _ hm]

/-- An order that its rule refuses is answered so, and nothing else changes. -/
theorem takeOrder_refuse {accepts : Nat → Bool} {body : List Byte → Work → Answered} {s : State} {i : Nat}
    {rest : List Nat} (h : s.offers accepts i rest) (hc : s.current) (r : ResultCode)
    (ha : body (slotParams s.mem i) (Work.begin s) = refuse r (Work.begin s)) :
    (takeOrder accepts body s).plain = (s.answered i rest r []).plain := by
  rw [takeOrder_plain h ha rfl rfl rfl (countFlowChanges_self _)]
  exact congrArg State.plain (handed_of_current _ hc)

theorem kindOrder_none {kind : Nat}
    (h : kind ∉ [0x10, 0x11, 0x12, 0x20, 0x21, 0x22, 0x30, 0x31, 0x32, 0x40, 0x41, 0x42, 0x43, 0x50, 0x51, 0x60, 0x61,
      0x70, 0x71, 0x72, 0x80, 0x90, 0x91, 0x92]) : kindOrder kind = none := by
  unfold kindOrder
  split
  case h_25 => rfl
  all_goals exact absurd (by decide) h

/-- Settles O14. -/
theorem onlyTheNextSlotsOrderRuns : Obligations.OnlyTheNextSlotsOrderRuns := by
  unfold Obligations.OnlyTheNextSlotsOrderRuns
  refine ⟨fun c kind s hkind hnone => ?_, fun kind i rest s hc ho hkind => ?_⟩
  · obtain ⟨body, hexec, -⟩ := kindOrder_taking hkind
    rw [hexec, takeKind_idle body hnone]
  · obtain ⟨hsweep, hinit, hslot, rfl⟩ := ho
    have hoffers : s.offers (fun k => (kindOrder k).isNone) i rest :=
      ⟨hsweep, hinit, hslot, by dsimp only; rw [kindOrder_none hkind]; rfl⟩
    exact ⟨_, rfl, takeOrder_refuse hoffers hc .badKind rfl⟩

end Sys2Proof.Machine
end


section
/-! The orders that are refused: values that their rules do not take, and states that their rules name (R176). -/

namespace Sys2Proof.Machine

/-! ## Codes -/

theorem pathOf_range {n : Nat} {p : Path} (h : pathOf n = some p) : n = 1 ∨ n = 2 := by
  unfold pathOf at h
  split at h
  · exact Or.inl rfl
  · exact Or.inr rfl
  · cases h

theorem generatorOf_range {n : Nat} {g : Generator} (h : generatorOf n = some g) : n = 1 ∨ n = 2 := by
  unfold generatorOf at h
  split at h
  · exact Or.inl rfl
  · exact Or.inr rfl
  · cases h

theorem flagOf_range {n : Nat} {b : Bool} (h : flagOf n = some b) : n ≤ 1 := by
  unfold flagOf at h
  split at h
  · exact Nat.zero_le _
  · exact le_refl _
  · cases h

theorem assignmentOf_range {n : Nat} {a : Assignment} (h : assignmentOf n = some a) : n ≤ 2 := by
  unfold assignmentOf at h
  split at h
  case h_4 => cases h
  all_goals omega

theorem standbyOf_range {n : Nat} {b : Standby} (h : standbyOf n = some b) : n ≤ 2 := by
  unfold standbyOf at h
  split at h
  case h_4 => cases h
  all_goals omega

theorem radioUseOf_range {n : Nat} {u : RadioUse} (h : radioUseOf n = some u) : n ≤ 2 := by
  unfold radioUseOf at h
  split at h
  case h_4 => cases h
  all_goals omega

/-! ## Values refused -/

theorem setGenerator_badValue {ps : List Byte} (w : Work) (h : param ps 0 1 ≠ 1 ∧ param ps 0 1 ≠ 2) :
    orderSetGenerator ps w = refuse .badValue w := by
  unfold orderSetGenerator
  split
  · rfl
  · rename_i g hg
    have := generatorOf_range hg
    omega

theorem setProbing_badValue {ps : List Byte} (w : Work)
    (h : (param ps 0 1 ≠ 1 ∧ param ps 0 1 ≠ 2) ∨ 2 < param ps 1 1) : orderSetProbing ps w = refuse .badValue w := by
  unfold orderSetProbing
  split
  · rename_i p a hp ha
    have := pathOf_range hp
    have := assignmentOf_range ha
    omega
  · rfl

theorem setTemplate_badValue {ps : List Byte} (w : Work) (h : param ps 0 1 ≠ 1 ∧ param ps 0 1 ≠ 2) :
    orderSetTemplate ps w = refuse .badValue w := by
  unfold orderSetTemplate
  split
  · rfl
  · rename_i p hp
    have := pathOf_range hp
    omega

theorem setScoring_badValue {ps : List Byte} (w : Work)
    (h : (param ps 0 1 ≠ 1 ∧ param ps 0 1 ≠ 2) ∨ 1 < param ps 1 1
      ∨ min (param ps 4 2) 60000 ≤ min (param ps 2 2) 60000 ∨ min (param ps 8 2) 1000 ≤ min (param ps 10 2) 1000
      ∨ min (param ps 6 2) 1000 ≤ min (param ps 8 2) 1000) : orderSetScoring ps w = refuse .badValue w := by
  unfold orderSetScoring
  split
  · rename_i p lock hp hl
    have := pathOf_range hp
    have := flagOf_range hl
    dsimp only
    rw [if_neg (by omega)]
  · rfl

theorem setDamping_badValue {ps : List Byte} (w : Work)
    (h : (param ps 0 1 ≠ 1 ∧ param ps 0 1 ≠ 2) ∨ 1 < param ps 1 1 ∨ param ps 4 2 = 0
      ∨ min (param ps 2 2) 8000 ≤ min (param ps 4 2) 8000) : orderSetDamping ps w = refuse .badValue w := by
  unfold orderSetDamping
  split
  · rename_i p on hp ho
    have := pathOf_range hp
    have := flagOf_range ho
    dsimp only
    rw [if_neg (by omega)]
  · rfl

theorem clearCause_badValue {ps : List Byte} (w : Work) (h : param ps 0 1 ≠ 1 ∧ param ps 0 1 ≠ 2) :
    orderClearCause ps w = refuse .badValue w := by
  unfold orderClearCause
  split
  · rfl
  · rename_i p hp
    have := pathOf_range hp
    omega

theorem setRadio_badValue {ps : List Byte} (w : Work) (h : 2 < param ps 0 1) :
    orderSetRadio ps w = refuse .badValue w := by
  unfold orderSetRadio
  split
  · rfl
  · rename_i b hb
    have := standbyOf_range hb
    omega

theorem setModemLines_badValue {ps : List Byte} (w : Work)
    (h : 1 < param ps 0 1 ∨ 1 < param ps 1 1 ∨ 1 < param ps 2 1 ∨ 1 < param ps 3 1) :
    orderSetModemLines ps w = refuse .badValue w := by
  unfold orderSetModemLines
  split
  · rename_i a b c d ha hb hc hd
    have := flagOf_range ha
    have := flagOf_range hb
    have := flagOf_range hc
    have := flagOf_range hd
    omega
  · rfl

theorem setClass_badValue {ps : List Byte} (w : Work)
    (h : 7 < param ps 0 1 ∨ 2 < param ps 1 1 ∨ 1 < param ps 3 1 ∨ 1 < param ps 4 1) :
    orderSetClass ps w = refuse .badValue w := by
  unfold orderSetClass
  dsimp only
  split
  · rename_i use idle permit hu hi hp
    have := radioUseOf_range hu
    have := flagOf_range hi
    have := flagOf_range hp
    rw [if_pos (by omega)]
  · rfl

theorem setSteering_badValue {ps : List Byte} (w : Work) (h : 7 < param ps 4 1) :
    orderSetSteering ps w = refuse .badValue w := if_pos h

theorem holdPath_badValue {ps : List Byte} (w : Work) (h : param ps 0 1 ≠ 1 ∧ param ps 0 1 ≠ 2) :
    orderHoldPath ps w = refuse .badValue w := by
  unfold orderHoldPath
  split
  · rfl
  · rename_i p hp
    have := pathOf_range hp
    omega

theorem openFlow_badValue {ps : List Byte} (w : Work) (h : 7 < param ps 0 1) :
    orderOpenFlow ps w = refuse .badValue w := if_pos h

theorem setAllowance_badValue {ps : List Byte} (w : Work)
    (h : 1 < param ps 6 1 ∨ clamp 51 99 (param ps 5 1) ≤ clamp 50 98 (param ps 4 1)) :
    orderSetAllowance ps w = refuse .badValue w := by
  unfold orderSetAllowance
  split
  · rfl
  · rename_i cap hcap
    have := flagOf_range hcap
    dsimp only
    rw [if_pos (by omega)]

theorem setSupply_badValue {ps : List Byte} (w : Work)
    (h : 1 < param ps 0 1 ∨ 1 < param ps 1 1 ∨ 1 < param ps 2 1) : orderSetSupply ps w = refuse .badValue w := by
  unfold orderSetSupply
  split
  · rename_i a b c ha hb hc
    have := flagOf_range ha
    have := flagOf_range hb
    have := flagOf_range hc
    omega
  · rfl

/-- Settles O15: each order's values that it refuses. -/
theorem badValuesRefused : Obligations.BadValuesRefused := by
  unfold Obligations.BadValuesRefused
  intro i s hc
  dsimp only
  refine ⟨fun h rest ho => ⟨_, rfl, takeKind_refuse _ _ s i rest ho hc _ (setGenerator_badValue _ h)⟩,
    fun h rest ho => ⟨_, rfl, takeKind_refuse _ _ s i rest ho hc _ (setProbing_badValue _ h)⟩,
    fun h rest ho => ⟨_, rfl, takeKind_refuse _ _ s i rest ho hc _ (setTemplate_badValue _ h)⟩,
    fun h rest ho => ⟨_, rfl, takeKind_refuse _ _ s i rest ho hc _ (setScoring_badValue _ h)⟩,
    fun h rest ho => ⟨_, rfl, takeKind_refuse _ _ s i rest ho hc _ (setDamping_badValue _ h)⟩,
    fun h rest ho => ⟨_, rfl, takeKind_refuse _ _ s i rest ho hc _ (clearCause_badValue _ h)⟩,
    fun h rest ho => ⟨_, rfl, takeKind_refuse _ _ s i rest ho hc _ (setRadio_badValue _ h)⟩,
    fun h rest ho => ⟨_, rfl, takeKind_refuse _ _ s i rest ho hc _ (setModemLines_badValue _ h)⟩,
    fun h rest ho => ⟨_, rfl, takeKind_refuse _ _ s i rest ho hc _ (setClass_badValue _ h)⟩,
    fun h rest ho => ⟨_, rfl, takeKind_refuse _ _ s i rest ho hc _ (setSteering_badValue _ h)⟩,
    fun h rest ho => ⟨_, rfl, takeKind_refuse _ _ s i rest ho hc _ (holdPath_badValue _ h)⟩,
    fun h rest ho => ⟨_, rfl, takeKind_refuse _ _ s i rest ho hc _ (openFlow_badValue _ h)⟩,
    fun h rest ho => ⟨_, rfl, takeKind_refuse _ _ s i rest ho hc _ (setAllowance_badValue _ h)⟩,
    fun h rest ho => ⟨_, rfl, takeKind_refuse _ _ s i rest ho hc _ (setSupply_badValue _ h)⟩⟩

/-! ## States that refuse -/

theorem releaseRadio_inUse (ps : List Byte) {w : Work} (h : w.st.steer.demand = true) :
    orderReleaseRadio ps w = refuse .inUse w := if_pos h

/-- HOLD PATH up to the path's own refusal, for a value that names a path (R92). -/
theorem orderHoldPath_named {ps : List Byte} {p : Path} (hp : pathOf (param ps 0 1) = some p) (w : Work) :
    orderHoldPath ps w =
      if w.st.exch.service ≠ .service then refuse .wrongState w
      else if w.st.hold.active then refuse .busy w
      else
        match holdRefusal w.st p with
        | some r => refuse r w
        | none =>
          { work := beginHold p (clamp 1 3600 (param ps 1 2)) w,
            result := okOrClamped (decide (clamp 1 3600 (param ps 1 2) ≠ param ps 1 2)), answer := holdAnswer } := by
  unfold orderHoldPath
  rw [hp] <;> rfl

theorem pathOf_some {n : Nat} (h : n = 1 ∨ n = 2) : ∃ p, pathOf n = some p := by
  rcases h with rfl | rfl
  · exact ⟨_, rfl⟩
  · exact ⟨_, rfl⟩

theorem holdPath_wrongState {ps : List Byte} {w : Work} (hp : param ps 0 1 = 1 ∨ param ps 0 1 = 2)
    (hs : w.st.exch.service ≠ .service) : orderHoldPath ps w = refuse .wrongState w := by
  obtain ⟨p, hp⟩ := pathOf_some hp
  rw [orderHoldPath_named hp, if_pos hs]

theorem holdPath_busy {ps : List Byte} {w : Work} (hp : param ps 0 1 = 1 ∨ param ps 0 1 = 2)
    (hs : w.st.exch.service = .service) (ha : w.st.hold.active = true) : orderHoldPath ps w = refuse .busy w := by
  obtain ⟨p, hp⟩ := pathOf_some hp
  rw [orderHoldPath_named hp, if_neg (not_not.mpr hs), if_pos ha]

theorem holdPath_refused {ps : List Byte} {w : Work} {p : Path} {r : ResultCode} (hp : pathOf (param ps 0 1) = some p)
    (hs : w.st.exch.service = .service) (ha : w.st.hold.active = false) (hr : holdRefusal w.st p = some r) :
    orderHoldPath ps w = refuse r w := by
  rw [orderHoldPath_named hp, if_neg (not_not.mpr hs), if_neg (by rw [ha]; exact Bool.false_ne_true), hr]

theorem openFlow_wrongState {ps : List Byte} {w : Work} (hc : param ps 0 1 ≤ 7) (hs : w.st.exch.service ≠ .service) :
    orderOpenFlow ps w = refuse .wrongState w := by
  unfold orderOpenFlow
  dsimp only
  rw [if_neg (by omega), if_pos hs]

theorem lowestFree_none (i : Nat) (fs : List FlowRec) (h : ∀ f ∈ fs, f.state ≠ .free) : lowestFree i fs = none := by
  induction fs generalizing i with
  | nil => rfl
  | cons f fs ih =>
    unfold lowestFree
    rw [if_neg (h f (List.mem_cons_self ..))]
    exact ih _ fun g hg => h g (List.mem_cons_of_mem _ hg)

theorem openFlow_full {ps : List Byte} {w : Work} (hc : param ps 0 1 ≤ 7) (hs : w.st.exch.service = .service)
    (hf : ∀ f ∈ w.st.flows, f.state ≠ .free) : orderOpenFlow ps w = refuse .full w := by
  unfold orderOpenFlow
  dsimp only
  rw [if_neg (by omega), if_neg (not_not.mpr hs), lowestFree_none 0 _ hf]

theorem closeFlow_noSuch {ps : List Byte} {w : Work}
    (h : 127 < param ps 0 1 ∨ (w.st.flow (param ps 0 1)).state = .free) : orderCloseFlow ps w = refuse .noSuch w :=
  if_pos h

/-- RUN DRILL's refusals, in their order (R156). -/
theorem orderRunDrill_refuses (ps : List Byte) (w : Work) :
    (w.st.exch.service ≠ .service → orderRunDrill ps w = refuse .wrongState w)
      ∧ (w.st.exch.service = .service → w.st.drill.running = true → orderRunDrill ps w = refuse .busy w)
      ∧ (w.st.exch.service = .service → w.st.drill.running = false → w.st.realUse = true →
          orderRunDrill ps w = refuse .inUse w)
      ∧ (w.st.exch.service = .service → w.st.drill.running = false → w.st.realUse = false → w.st.ru.state = .fault →
          orderRunDrill ps w = refuse .radioFault w)
      ∧ (w.st.exch.service = .service → w.st.drill.running = false → w.st.realUse = false → w.st.ru.state ≠ .fault →
          (w.st.allow.stage = .reserve ∨ w.st.allow.stage = .exhausted) → orderRunDrill ps w = refuse .stage w) := by
  unfold orderRunDrill
  refine ⟨fun hs => if_pos hs, fun hs hr => ?_, fun hs hr hu => ?_, fun hs hr hu hf => ?_, fun hs hr hu hf hstage => ?_⟩
  all_goals rw [if_neg (not_not.mpr hs), hr]
  · rfl
  · rw [hu]
    rfl
  · rw [hu, hf]
    rfl
  · have hat : w.st.allow.stage.atReserve = true := by
      rcases hstage with h | h <;> rw [h] <;> rfl
    rw [hu, if_neg Bool.false_ne_true, if_neg Bool.false_ne_true, if_neg hf, if_pos hat]

/-- Settles O16: each order's refusals by the state. -/
theorem statesRefuseOrders : Obligations.StatesRefuseOrders := by
  unfold Obligations.StatesRefuseOrders
  intro i s hc
  dsimp only
  obtain ⟨hwrong, hbusy, huse, hfault, hstage⟩ := orderRunDrill_refuses (slotParams s.mem i) (Work.begin s)
  refine ⟨fun h rest ho => ⟨_, rfl, takeKind_refuse _ _ s i rest ho hc _ (releaseRadio_inUse _ h)⟩,
    fun hp h rest ho => ⟨_, rfl, takeKind_refuse _ _ s i rest ho hc _ (holdPath_wrongState hp h)⟩,
    fun hp h ha rest ho => ⟨_, rfl, takeKind_refuse _ _ s i rest ho hc _ (holdPath_busy hp h ha)⟩,
    fun hp h ha hu rest ho => ⟨_, rfl, takeKind_refuse _ _ s i rest ho hc _
      (holdPath_refused (p := .fibre) (by rw [hp]; rfl) h ha (if_neg (by rw [show (Work.begin s).st = s from rfl, hu]; exact Bool.false_ne_true)))⟩,
    fun hp h ha hf rest ho => ⟨_, rfl, takeKind_refuse _ _ s i rest ho hc _
      (holdPath_refused (p := .radio) (by rw [hp]; rfl) h ha (if_pos hf))⟩,
    fun hcls h rest ho => ⟨_, rfl, takeKind_refuse _ _ s i rest ho hc _ (openFlow_wrongState hcls h)⟩,
    fun hcls h hf rest ho => ⟨_, rfl, takeKind_refuse _ _ s i rest ho hc _ (openFlow_full hcls h hf)⟩,
    fun h rest ho => ⟨_, rfl, takeKind_refuse _ _ s i rest ho hc _ (closeFlow_noSuch h)⟩,
    fun h rest ho => ⟨_, rfl, takeKind_refuse _ _ s i rest ho hc _ (hwrong h)⟩,
    fun h hr rest ho => ⟨_, rfl, takeKind_refuse _ _ s i rest ho hc _ (hbusy h hr)⟩,
    fun h hr hu rest ho => ⟨_, rfl, takeKind_refuse _ _ s i rest ho hc _ (huse h hr hu)⟩,
    fun h hr hu hf rest ho => ⟨_, rfl, takeKind_refuse _ _ s i rest ho hc _ (hfault h hr hu hf)⟩,
    fun h hr hu hf hst rest ho => ⟨_, rfl, takeKind_refuse _ _ s i rest ho hc _ (hstage h hr hu hf hst)⟩⟩

end Sys2Proof.Machine
end


section
/-! What a step does when no command waits: time passes, and what falls due is queued (log 1, log 2). -/

namespace Sys2Proof.Machine

/-! ## The free order -/

theorem insertFreely_perm (k : Nat) (c : Instr) (ds : List Instr) : (insertFreely k c ds).Perm (c :: ds) := by
  cases ds with
  | nil => exact List.Perm.refl _
  | cons d ds =>
    unfold insertFreely
    exact List.perm_insertIdx _ _ (by
      have := Nat.mod_lt (Config.freeOrder k) (by omega : 0 < ds.length + 2)
      simp only [List.length_cons]
      omega)

theorem freelyOrdered_perm (k : Nat) (cs : List Instr) : (freelyOrdered k cs).Perm cs := by
  induction cs generalizing k with
  | nil => exact List.Perm.refl _
  | cons c cs ih => exact (insertFreely_perm k c _).trans ((ih (k + 1)).cons c)

/-! ## Steps with no command waiting -/

theorem step_empty {s : State} (h : s.pending = []) : step s = .next (tick s) := by
  unfold step
  rw [h]

theorem step_runs {s : State} (h : s.pending = []) (hs : s.exch.service ≠ .init)
    (hr : ¬(s.ru.state = .resync ∧ s.ru.outstanding = none)) :
    ∃ q, step s = .next { s with clk := s.clk.tick, pending := q, free := s.free + q.length }
      ∧ q.Perm (dueCommands { s with clk := s.clk.tick }) := by
  have hperm := freelyOrdered_perm s.free (dueCommands { s with clk := s.clk.tick })
  refine ⟨freelyOrdered s.free (dueCommands { s with clk := s.clk.tick }), ?_, hperm⟩
  have hwaits : ¬s.ru.resyncWaits = true := by
    unfold RadioUnit.resyncWaits
    simpa using hr
  rw [step_empty h, tick, if_neg hs, if_neg hwaits, runTick, hperm.length_eq]
  dsimp only
  rw [h, List.nil_append]

theorem send_closeSession (now : Time) (r : RadioUnit) :
    r.send .closeSession now = { r with
      tx := [0x7E, 0x04, 0x00, 0xFC],
      outstanding := some { kind := .closeSession, stale := false, due := now + 15000 } } := by
  have hdue : later now (15 * 1000) = now + 15000 := by simp [later]
  have hframe : requestFrame .closeSession = [0x7E, 0x04, 0x00, 0xFC] := by decide
  unfold RadioUnit.send
  simp [RadioUnit.answerSeconds, hdue, hframe]

theorem step_resync {s : State} (h : s.pending = []) (hc : s.current) (hr : s.ru.state = .resync)
    (ho : s.ru.outstanding = none) :
    ∃ t, step s = .next t ∧ t.plain = { s with ru := s.ru.send .closeSession s.now }.plain := by
  obtain ⟨hinit, hcond, hirq⟩ := hc
  have hwaits : s.ru.resyncWaits = true := by
    unfold RadioUnit.resyncWaits
    simp [hr, ho]
  refine ⟨_, by rw [step_empty h, tick, if_neg hinit, if_pos hwaits], ?_⟩
  exact event_still (sendRequest .closeSession) s hinit rfl rfl rfl rfl hcond hirq

theorem step_held {s : State} (h : s.pending = []) (hs : s.exch.service = .init) (hh : s.exch.resetHeld = true) :
    step s = .next s := by
  rw [step_empty h, tick, if_pos hs, initTick, if_pos hh]

theorem step_init {s : State} (h : s.pending = []) (hs : s.exch.service = .init) (hh : s.exch.resetHeld = false) :
    step s = .next { s with
      exch := { s.exch with initElapsed := s.exch.initElapsed + 1 },
      pending := if 200 ≤ s.exch.initElapsed + 1 then [.initEnd] else [] } := by
  rw [step_empty h, tick, if_pos hs, initTick, hh, if_neg Bool.false_ne_true]
  dsimp only
  rw [h]
  by_cases hbound : 200 ≤ s.exch.initElapsed + 1
  · rw [if_pos hbound, if_pos (show Config.initTicks ≤ _ from hbound)]
    rfl
  · rw [if_neg hbound, if_neg (show ¬Config.initTicks ≤ _ from hbound)]

/-! ## The commands that fall due -/

/-- The expiries of timers: what `measureCommands`, `radioCommands` and `steeringCommands` give. -/
def isTimer : Instr → Bool
  | .sweepTimerExpiry | .generatorTick _ | .probeExpiry _ _ | .fibreSettleExpiry | .decayTick _ | .answerTimeout
  | .poweringTimeout | .stoppingTimeout | .backoffExpiry | .pulseEnd _ | .pollTimerExpiry | .lingerExpiry
  | .linkInterbyteTimeout _ | .returnDelayDue | .holdExpiry | .flowIdleExpiry _ | .idleGapReturn _ | .longIdleMark _
  | .holdAgeExpiry | .debounceExpiry _ | .drillLimitExpiry => true
  | _ => false

/-- What a sweep gives besides the orders. -/
def isSweeps : Instr → Bool
  | .sweepEnd | .slotPassedOver | .unknownOrderKind => true
  | _ => false

theorem kindOrder_isOrder {kind : Nat} {c : Instr} (h : kindOrder kind = some c) :
    isTimer c = false ∧ isSweeps c = false := by
  unfold kindOrder at h
  split at h <;> cases h <;> exact ⟨rfl, rfl⟩

theorem mem_whenDue {due : Bool} {c d : Instr} : c ∈ whenDue due d ↔ c = d ∧ due = true := by
  unfold whenDue
  split <;> simp_all

/-- The next slot of the sweep under way is one of which this holds. -/
def State.sweepsTo (s : State) (P : Nat → Prop) : Prop := ∃ i rest, s.exch.sweep = some (i :: rest) ∧ P i

theorem mem_sweepCommands {s : State} {c : Instr} : c ∈ sweepCommands s ↔
    (c = .sweepEnd ∧ s.exch.sweep = some [])
      ∨ s.sweepsTo (fun i => slotState s.mem i ≠ 1 ∧ c = .slotPassedOver)
      ∨ s.sweepsTo (fun i => slotState s.mem i = 1 ∧ c = (kindOrder (slotKind s.mem i)).getD .unknownOrderKind) := by
  unfold sweepCommands State.sweepsTo
  rcases s.exch.sweep with - | (- | ⟨i, rest⟩)
  · simp
  · simp
  · by_cases h : slotState s.mem i = 1
    · simp_all [Slot.ready]
    · simp_all [Slot.ready]

theorem mem_probeCommands {s : State} {p : Path} {c : Instr} : c ∈ probeCommands s p ↔
    ∃ e ∈ (s.path p).probes, c = .probeExpiry p e.seq ∧ e.res = .unresolved
      ∧ reachedFine s.clk e.expiry e.sentSub = true := by
  unfold probeCommands
  simp [mem_whenDue]

theorem mem_flowCommands {s : State} {i : Fin 128} {c : Instr} : c ∈ flowCommands s i ↔ (s.flow i).state ≠ .free ∧
    ((c = .flowIdleExpiry i ∧ (s.flow i).idleDue s.now = true) ∨ (c = .idleGapReturn i ∧ s.gapDue i = true)
      ∨ (c = .longIdleMark i ∧ (s.flow i).markDue s.now = true)) := by
  unfold flowCommands
  by_cases h : (s.flow i).state = .free
  · simp [h]
  · simp [h, mem_whenDue]

theorem mem_measureCommands {s : State} {c : Instr} : c ∈ measureCommands s ↔
    (c = .sweepTimerExpiry ∧ reached s.now s.exch.sweepDue = true)
      ∨ (c = .generatorTick .a ∧ reached s.now s.gens.a.due = true)
      ∨ (c = .generatorTick .b ∧ reached s.now s.gens.b.due = true)
      ∨ c ∈ probeCommands s .fibre ∨ c ∈ probeCommands s .radio
      ∨ (c = .fibreSettleExpiry ∧ expired s.now s.fin.settleDue = true)
      ∨ (c = .decayTick .fibre ∧ reached s.now s.fibre.decayDue = true)
      ∨ (c = .decayTick .radio ∧ reached s.now s.radio.decayDue = true) := by
  unfold measureCommands
  simp only [List.mem_append, mem_whenDue, or_assoc]

theorem mem_radioCommands {s : State} {c : Instr} : c ∈ radioCommands s ↔
    (c = .answerTimeout ∧ s.ru.answerDue s.now = true)
      ∨ (c = .poweringTimeout ∧ s.ru.timerDue .powering s.now = true)
      ∨ (c = .stoppingTimeout ∧ s.ru.timerDue .stopping s.now = true)
      ∨ (c = .backoffExpiry ∧ s.ru.timerDue .backoff s.now = true)
      ∨ (c = .pulseEnd .pwr ∧ expired s.now s.ru.pwr.ends = true)
      ∨ (c = .pulseEnd .mrst ∧ expired s.now s.ru.mrst.ends = true)
      ∨ (c = .pollTimerExpiry ∧ expired s.now s.ru.pollDue = true)
      ∨ (c = .lingerExpiry ∧ s.lingerDue = true)
      ∨ (c = .linkInterbyteTimeout [] ∧ s.ru.silent s.now = true) := by
  unfold radioCommands
  simp only [List.mem_append, mem_whenDue, or_assoc]

theorem mem_steeringCommands {s : State} {c : Instr} : c ∈ steeringCommands s ↔
    (c = .returnDelayDue ∧ s.steer.ret = .armed ∧ reached s.now s.steer.retDue = true)
      ∨ (c = .holdExpiry ∧ s.hold.active = true ∧ reached s.now s.hold.stop = true)
      ∨ (∃ i, c ∈ flowCommands s i)
      ∨ (c = .holdAgeExpiry ∧ ∃ h ∈ s.fwd.held, s.aged h = true)
      ∨ (c = .debounceExpiry .mainsOk ∧ expired s.now s.sup.mainsOk.due = true)
      ∨ (c = .debounceExpiry .battLow ∧ expired s.now s.sup.battLow.due = true)
      ∨ (c = .debounceExpiry .battCrit ∧ expired s.now s.sup.battCrit.due = true)
      ∨ (c = .drillLimitExpiry ∧ s.drill.limitReached s.now = true) := by
  unfold steeringCommands
  simp only [List.mem_append, mem_whenDue, or_assoc, List.mem_flatMap, List.mem_finRange, true_and, Bool.and_eq_true,
    decide_eq_true_eq]
  have hheld : (∃ h ∈ s.fwd.held, c = .holdAgeExpiry ∧ s.aged h = true)
      ↔ (c = .holdAgeExpiry ∧ ∃ h ∈ s.fwd.held, s.aged h = true) := by
    constructor
    · rintro ⟨h, hmem, hc, ha⟩
      exact ⟨hc, h, hmem, ha⟩
    · rintro ⟨hc, h, hmem, ha⟩
      exact ⟨h, hmem, hc, ha⟩
  rw [hheld]

theorem mem_dueCommands {s : State} {c : Instr} : c ∈ dueCommands s ↔
    c ∈ sweepCommands s ∨ c ∈ measureCommands s ∨ c ∈ radioCommands s ∨ c ∈ steeringCommands s := by
  unfold dueCommands
  simp only [List.mem_append, or_assoc]

/-- A timer's expiry is no command of a sweep. -/
theorem not_mem_sweepCommands {s : State} {c : Instr} (h : isTimer c = true) : c ∉ sweepCommands s := by
  rw [mem_sweepCommands]
  rintro (⟨rfl, -⟩ | ⟨i, rest, -, -, rfl⟩ | ⟨i, rest, -, -, hc⟩)
  · exact Bool.false_ne_true h
  · exact Bool.false_ne_true h
  · cases hk : kindOrder (slotKind s.mem i) with
    | none =>
      rw [hk] at hc
      subst hc
      exact Bool.false_ne_true h
    | some d =>
      rw [hk] at hc
      subst hc
      exact Bool.false_ne_true ((kindOrder_isOrder hk).1.symm.trans h)

/-- What no timer gives comes from the sweep alone. -/
theorem mem_dueCommands_sweep {s : State} {c : Instr} (h : isTimer c = false) :
    c ∈ dueCommands s ↔ c ∈ sweepCommands s := by
  rw [mem_dueCommands, mem_measureCommands, mem_radioCommands, mem_steeringCommands]
  simp only [mem_probeCommands, mem_flowCommands]
  constructor
  · intro hc
    cases c <;> simp_all [isTimer]
  · exact Or.inl

/-- An order is due where the next slot of the sweep is READY with the order's kind. -/
theorem mem_dueCommands_order {s : State} {c : Instr} (ht : isTimer c = false) (hs : isSweeps c = false) :
    c ∈ dueCommands s ↔ s.sweepsTo (fun i => slotState s.mem i = 1 ∧ kindOrder (slotKind s.mem i) = some c) := by
  rw [mem_dueCommands_sweep ht, mem_sweepCommands]
  constructor
  · rintro (⟨rfl, -⟩ | ⟨i, rest, -, -, rfl⟩ | ⟨i, rest, hsweep, hslot, hc⟩)
    · exact absurd hs (by decide)
    · exact absurd hs (by decide)
    · refine ⟨i, rest, hsweep, hslot, ?_⟩
      cases hk : kindOrder (slotKind s.mem i) with
      | none =>
        rw [hk] at hc
        subst hc
        exact absurd hs (by decide)
      | some d =>
        rw [hk] at hc
        rw [hc]
        rfl
  · rintro ⟨i, rest, hsweep, hslot, hk⟩
    exact Or.inr (Or.inr ⟨i, rest, hsweep, hslot, by rw [hk]; rfl⟩)

theorem mem_dueCommands_unknown {s : State} : .unknownOrderKind ∈ dueCommands s ↔
    s.sweepsTo (fun i => slotState s.mem i = 1 ∧ kindOrder (slotKind s.mem i) = none) := by
  rw [mem_dueCommands_sweep rfl, mem_sweepCommands]
  constructor
  · rintro (⟨hc, -⟩ | ⟨i, rest, -, -, hc⟩ | ⟨i, rest, hsweep, hslot, hc⟩)
    · exact nomatch hc
    · exact nomatch hc
    · refine ⟨i, rest, hsweep, hslot, ?_⟩
      cases hk : kindOrder (slotKind s.mem i) with
      | none => rfl
      | some d =>
        rw [hk] at hc
        subst hc
        exact nomatch (kindOrder_isOrder hk).2
  · rintro ⟨i, rest, hsweep, hslot, hk⟩
    exact Or.inr (Or.inr ⟨i, rest, hsweep, hslot, by rw [hk]; rfl⟩)

theorem mem_dueCommands_passedOver {s : State} : .slotPassedOver ∈ dueCommands s ↔
    s.sweepsTo (fun i => slotState s.mem i ≠ 1) := by
  rw [mem_dueCommands_sweep rfl, mem_sweepCommands]
  constructor
  · rintro (⟨hc, -⟩ | ⟨i, rest, hsweep, hslot, -⟩ | ⟨i, rest, -, -, hc⟩)
    · exact nomatch hc
    · exact ⟨i, rest, hsweep, hslot⟩
    · cases hk : kindOrder (slotKind s.mem i) with
      | none =>
        rw [hk] at hc
        exact nomatch hc
      | some d =>
        rw [hk] at hc
        subst hc
        exact nomatch (kindOrder_isOrder hk).2
  · rintro ⟨i, rest, hsweep, hslot⟩
    exact Or.inr (Or.inl ⟨i, rest, hsweep, hslot, rfl⟩)

theorem mem_dueCommands_sweepEnd {s : State} : .sweepEnd ∈ dueCommands s ↔ s.exch.sweep = some [] := by
  rw [mem_dueCommands_sweep rfl, mem_sweepCommands]
  constructor
  · rintro (⟨-, hsweep⟩ | ⟨i, rest, -, -, hc⟩ | ⟨i, rest, -, -, hc⟩)
    · exact hsweep
    · exact nomatch hc
    · cases hk : kindOrder (slotKind s.mem i) with
      | none =>
        rw [hk] at hc
        exact nomatch hc
      | some d =>
        rw [hk] at hc
        subst hc
        exact nomatch (kindOrder_isOrder hk).2
  · exact fun h => Or.inl ⟨rfl, h⟩

/-- A timer's expiry comes from the timers alone. -/
theorem mem_dueCommands_timer {s : State} {c : Instr} (h : isTimer c = true) :
    c ∈ dueCommands s ↔ c ∈ measureCommands s ∨ c ∈ radioCommands s ∨ c ∈ steeringCommands s := by
  rw [mem_dueCommands]
  exact or_iff_right (not_mem_sweepCommands h)

/-! ## When each timer is due -/

theorem answerDue_iff {now : Time} {r : RadioUnit} :
    r.answerDue now = true ↔ ∃ o, r.outstanding = some o ∧ reached now o.due = true := by
  unfold RadioUnit.answerDue
  cases r.outstanding <;> simp [expired]

theorem timerDue_iff {n : RadioState} {now : Time} {r : RadioUnit} :
    r.timerDue n now = true ↔ r.state = n ∧ expired now r.stateDue = true := by
  simp [RadioUnit.timerDue]

theorem lingerDue_iff {s : State} :
    s.lingerDue = true ↔ s.ru.lingerOn = true ∧ s.effectiveLinger * 1000 ≤ elapsed s.now s.ru.lingerStart := by
  simp [State.lingerDue]

theorem silent_iff {now : Time} {r : RadioUnit} : r.silent now = true ↔ r.rx ≠ [] ∧ 50 < elapsed now r.rxTime := by
  unfold RadioUnit.silent
  rw [Bool.and_eq_true, decide_eq_true_iff]
  exact and_congr_left fun _ => by simp

theorem idleDue_iff {now : Time} {f : FlowRec} :
    f.idleDue now = true ↔ f.state.live = true ∧ f.idle ≠ 0 ∧ f.idle * 1000 ≤ elapsed now f.lastFrame := by
  simp [FlowRec.idleDue, and_assoc]

theorem gapDue_iff {s : State} {i : Nat} : s.gapDue i = true ↔
    (s.flow i).pinned = true ∧ (s.cls (s.flow i).cls).gap * 1000 ≤ elapsed s.now (s.flow i).lastFrame := by
  simp [State.gapDue, FlowRec.gapPassed]

theorem markDue_iff {now : Time} {f : FlowRec} :
    f.markDue now = true ↔ f.state ≠ .free ∧ f.longIdle = false ∧ 600000 ≤ elapsed now f.lastFrame := by
  unfold FlowRec.markDue
  rw [Bool.and_eq_true, Bool.and_eq_true, decide_eq_true_iff, decide_eq_true_iff, and_assoc, Bool.not_eq_true']
  exact Iff.rfl

theorem aged_iff {s : State} {h : HeldFrame} : s.aged h = true ↔ s.steer.holdAge ≤ elapsed s.now h.arrival := by
  simp [State.aged]

theorem limitReached_iff {now : Time} {d : Drill} :
    d.limitReached now = true ↔ d.running = true ∧ d.limit * 1000 ≤ elapsed now d.start := by
  simp [Drill.limitReached]

/-- A live flow's record is in use. -/
theorem ne_free_of_live {f : FlowState} (h : f.live = true) : f ≠ .free := by
  rintro rfl
  exact nomatch h

/-! ## The two halves of the statement -/

/-- Settles O2: the steps above, and for each command the list that gives it. -/
theorem emptyQueueTicks : Obligations.EmptyQueueTicks := by
  unfold Obligations.EmptyQueueTicks
  refine ⟨fun s h => ⟨step_runs h, fun hc hr ho => ?_, step_held h, step_init h⟩, ?_⟩
  · rw [← send_closeSession]
    exact step_resync h hc hr ho
  intro s c came since next
  have hcame : ∀ t, expired s.now t = true ↔ came t := by
    rintro (- | d)
    · simp [expired, came]
    · simp [expired, came]
  have hsince : ∀ t, elapsed s.now t = since t := fun _ => rfl
  cases c
  case sweepEnd => exact mem_dueCommands_sweepEnd
  case slotPassedOver =>
    refine mem_dueCommands_passedOver.trans ?_
    simp only [next, State.sweepsTo, and_true]
  case unknownOrderKind => exact mem_dueCommands_unknown
  case sweepTimerExpiry =>
    rw [mem_dueCommands_timer rfl, mem_measureCommands, mem_radioCommands, mem_steeringCommands]
    simp [mem_probeCommands, mem_flowCommands]
  case fibreSettleExpiry =>
    rw [mem_dueCommands_timer rfl, mem_measureCommands, mem_radioCommands, mem_steeringCommands]
    simp [mem_probeCommands, mem_flowCommands, hcame]
  case answerTimeout =>
    rw [mem_dueCommands_timer rfl, mem_measureCommands, mem_radioCommands, mem_steeringCommands]
    simp [mem_probeCommands, mem_flowCommands, answerDue_iff]
  case poweringTimeout =>
    rw [mem_dueCommands_timer rfl, mem_measureCommands, mem_radioCommands, mem_steeringCommands]
    simp [mem_probeCommands, mem_flowCommands, timerDue_iff, hcame]
  case stoppingTimeout =>
    rw [mem_dueCommands_timer rfl, mem_measureCommands, mem_radioCommands, mem_steeringCommands]
    simp [mem_probeCommands, mem_flowCommands, timerDue_iff, hcame]
  case backoffExpiry =>
    rw [mem_dueCommands_timer rfl, mem_measureCommands, mem_radioCommands, mem_steeringCommands]
    simp [mem_probeCommands, mem_flowCommands, timerDue_iff, hcame]
  case pollTimerExpiry =>
    rw [mem_dueCommands_timer rfl, mem_measureCommands, mem_radioCommands, mem_steeringCommands]
    simp [mem_probeCommands, mem_flowCommands, hcame]
  case lingerExpiry =>
    rw [mem_dueCommands_timer rfl, mem_measureCommands, mem_radioCommands, mem_steeringCommands]
    simp [mem_probeCommands, mem_flowCommands, lingerDue_iff, hsince]
  case linkInterbyteTimeout bytes =>
    rw [mem_dueCommands_timer rfl, mem_measureCommands, mem_radioCommands, mem_steeringCommands]
    simp [mem_probeCommands, mem_flowCommands, silent_iff, hsince]
  case returnDelayDue =>
    rw [mem_dueCommands_timer rfl, mem_measureCommands, mem_radioCommands, mem_steeringCommands]
    simp [mem_probeCommands, mem_flowCommands]
  case holdExpiry =>
    rw [mem_dueCommands_timer rfl, mem_measureCommands, mem_radioCommands, mem_steeringCommands]
    simp [mem_probeCommands, mem_flowCommands]
  case flowIdleExpiry i =>
    rw [mem_dueCommands_timer rfl, mem_measureCommands, mem_radioCommands, mem_steeringCommands]
    simp [mem_probeCommands, mem_flowCommands, idleDue_iff, hsince]
    exact fun hlive _ _ => ne_free_of_live hlive
  case idleGapReturn i =>
    rw [mem_dueCommands_timer rfl, mem_measureCommands, mem_radioCommands, mem_steeringCommands]
    simp [mem_probeCommands, mem_flowCommands, gapDue_iff, hsince]
  case longIdleMark i =>
    rw [mem_dueCommands_timer rfl, mem_measureCommands, mem_radioCommands, mem_steeringCommands]
    simp [mem_probeCommands, mem_flowCommands, markDue_iff, hsince]
  case holdAgeExpiry =>
    rw [mem_dueCommands_timer rfl, mem_measureCommands, mem_radioCommands, mem_steeringCommands]
    simp [mem_probeCommands, mem_flowCommands, aged_iff, hsince]
  case drillLimitExpiry =>
    rw [mem_dueCommands_timer rfl, mem_measureCommands, mem_radioCommands, mem_steeringCommands]
    simp [mem_probeCommands, mem_flowCommands, limitReached_iff, hsince]
  case generatorTick g =>
    rw [mem_dueCommands_timer rfl, mem_measureCommands, mem_radioCommands, mem_steeringCommands]
    cases g <;> simp [mem_probeCommands, mem_flowCommands, Generators.get]
  case decayTick p =>
    rw [mem_dueCommands_timer rfl, mem_measureCommands, mem_radioCommands, mem_steeringCommands]
    cases p <;> simp [mem_probeCommands, mem_flowCommands, State.path]
  case probeExpiry p seq =>
    rw [mem_dueCommands_timer rfl, mem_measureCommands, mem_radioCommands, mem_steeringCommands]
    cases p <;> simp [mem_probeCommands, mem_flowCommands, @eq_comm Half seq]
  case pulseEnd line =>
    rw [mem_dueCommands_timer rfl, mem_measureCommands, mem_radioCommands, mem_steeringCommands]
    cases line <;> simp [mem_probeCommands, mem_flowCommands, hcame]
  case debounceExpiry line =>
    rw [mem_dueCommands_timer rfl, mem_measureCommands, mem_radioCommands, mem_steeringCommands]
    cases line <;> simp [mem_probeCommands, mem_flowCommands, SupplyMonitor.line, hcame]
  all_goals exact mem_dueCommands_order (Eq.refl false) (Eq.refl false)

end Sys2Proof.Machine
end


section
/-! The two windows: what a write does, what a read gives (R165 to R171). -/

namespace Sys2Proof.Machine

/-! ## Writes of the registers -/

theorem getLsbD_setWidth_32 (v : BitVec 64) {i : Nat} (h : i < 32) : (v.setWidth 32).getLsbD i = v.getLsbD i := by
  simp [h]

/-- Two CONTROL writes with bit 0 set are the same reset. -/
theorem controlWrite_reset {v w : Word} (hv : v.getLsbD 0 = true) (hw : w.getLsbD 0 = true) (s : State) :
    controlWrite v s = controlWrite w s := by
  unfold controlWrite
  rw [if_pos hv, if_pos hw]

/-- CONTROL has no more than its two bits. -/
theorem controlWrite_congr {v w : Word} (h0 : v.getLsbD 0 = w.getLsbD 0) (h1 : v.getLsbD 1 = w.getLsbD 1) (s : State) :
    controlWrite v s = controlWrite w s := by
  unfold controlWrite
  rw [h0, h1]

theorem registerWrite_control (v : BitVec 64) (s : State) : ∃ t, exec (.registerWrite 0x04 4 v) s = .next t ∧
    exec (if v.getLsbD 0 then .softReset else .interruptEnableWrite (v.getLsbD 1)) s = .next t := by
  refine ⟨controlWrite (v.setWidth 32) s, rfl, ?_⟩
  have hbit0 := getLsbD_setWidth_32 v (by omega : 0 < 32)
  have hbit1 := getLsbD_setWidth_32 v (by omega : 1 < 32)
  by_cases hreset : v.getLsbD 0 = true
  · rw [if_pos hreset]
    show Host.Outcome.next (controlWrite 1 s) = _
    rw [controlWrite_reset (by decide) (hbit0.trans hreset)]
  · rw [if_neg hreset]
    rw [Bool.not_eq_true] at hreset
    show Host.Outcome.next (controlWrite (if v.getLsbD 1 then 2 else 0) s) = _
    have h0 : ∀ b : Bool, (if b then 2 else 0 : Word).getLsbD 0 = false := by decide
    have h1 : ∀ b : Bool, (if b then 2 else 0 : Word).getLsbD 1 = b := by decide
    rw [controlWrite_congr ((h0 _).trans (hbit0.trans hreset).symm) ((h1 _).trans hbit1.symm)]

theorem registerWrite_ignored {off width : Nat} (h : width ≠ 4 ∨ (off ≠ 0x04 ∧ off ≠ 0x08 ∧ off ≠ 0x10)) (v : BitVec 64)
    (s : State) : exec (.registerWrite off width v) s = .next s := by
  show Host.Outcome.next (registerStore off width _ s) = _
  unfold registerStore
  by_cases hw : width = 4
  · obtain ⟨hcontrol, hnudge, henable⟩ := h.resolve_left (fun hne => hne hw)
    rw [if_neg (fun hne => hne hw), if_neg hcontrol, if_neg hnudge, if_neg henable]
  · rw [if_pos hw]

/-! ## Writes of the exchange memory -/

theorem byteOf_ext {m n : Nat} (h : m % 256 = n % 256) : byteOf m = byteOf n :=
  BitVec.eq_of_toNat_eq (by simpa [byteOf] using h)

theorem getElem_leBytes (size n k : Nat) (h : k < (leBytes size n).length) : (leBytes size n)[k] = byteOf (n / 256 ^ k) := by
  induction size generalizing n k with
  | zero => exact absurd h (Nat.not_lt_zero k)
  | succ size ih =>
    cases k with
    | zero => simp [leBytes]
    | succ k =>
      rw [pow_succ', ← Nat.div_div_eq_div_mul]
      exact ih (n / 256) k (by simpa [leBytes] using h)

theorem read_writeBytes (m : Memory) (off width n a : Nat) (h : m.wf = true) :
    (m.writeBytes off (leBytes width n)).read a
      = if off ≤ a ∧ a < off + width then byteOf (n / 256 ^ (a - off)) else m.read a := by
  split
  · rename_i hin
    have hk : a - off < (leBytes width n).length := by
      rw [length_leBytes]
      omega
    have hread := Memory.read_writeBytes_same m off (a - off) (leBytes width n) h hk
    rw [getElem_leBytes, show off + (a - off) = a by omega] at hread
    exact hread
  · rename_i hout
    exact Memory.read_writeBytes_other m off a _ (by rw [length_leBytes]; omega)

/-- An access of a width the exchange memory takes, aligned. -/
theorem exchangeAccess_iff {off width : Nat} : exchangeAccess off width = true ↔
    (width = 1 ∨ width = 2 ∨ width = 4 ∨ width = 8) ∧ off % width = 0 ∧ off < 0x3000 := by
  unfold exchangeAccess
  simp only [Bool.and_eq_true, Bool.or_eq_true, decide_eq_true_iff, and_assoc, or_assoc]

theorem inSlots_iff {off : Nat} : inSlots off = true ↔ 0x100 ≤ off ∧ off < 0x900 := by
  unfold inSlots
  rw [Bool.and_eq_true, decide_eq_true_iff, decide_eq_true_iff]

theorem exchangeWrite_stored {off width : Nat} (v : BitVec 64) {s : State} (hwf : Memory.wf s.mem = true)
    (hinit : s.exch.service ≠ .init) (hwidth : width = 1 ∨ width = 2 ∨ width = 4 ∨ width = 8)
    (halign : off % width = 0) (hlo : 0x100 ≤ off) (hhi : off < 0x900) :
    ∃ t, exec (.exchangeMemoryWrite off width v) s = .next t ∧ t = { s with mem := t.mem } ∧
      ∀ a : Nat, Memory.read t.mem a
        = (if off ≤ a ∧ a < off + width then BitVec.ofNat 8 (v.toNat / 256 ^ (a - off)) else Memory.read s.mem a) := by
  have htaken : s.exch.service ≠ .init ∧ exchangeAccess off width = true ∧ inSlots off = true :=
    ⟨hinit, exchangeAccess_iff.mpr ⟨hwidth, halign, by omega⟩, inSlots_iff.mpr ⟨hlo, hhi⟩⟩
  refine ⟨{ s with mem := Memory.writeBytes s.mem off (leBytes width v.toNat) }, ?_, rfl, fun a => ?_⟩
  · exact congrArg Host.Outcome.next (if_pos htaken)
  · exact read_writeBytes s.mem off width v.toNat a hwf

theorem exchangeWrite_ignored {off width : Nat} (v : BitVec 64) {s : State}
    (h : s.exch.service = .init ∨ ¬(width = 1 ∨ width = 2 ∨ width = 4 ∨ width = 8) ∨ off % width ≠ 0 ∨ off < 0x100
      ∨ 0x900 ≤ off) : exec (.exchangeMemoryWrite off width v) s = .next s := by
  refine congrArg Host.Outcome.next (if_neg ?_)
  rintro ⟨hinit, haccess, hslots⟩
  obtain ⟨hwidth, halign, -⟩ := exchangeAccess_iff.mp haccess
  obtain ⟨hlo, hhi⟩ := inSlots_iff.mp hslots
  rcases h with h | h | h | h | h
  · exact hinit h
  · exact h hwidth
  · exact h halign
  · omega
  · omega

/-! ## Reads -/

theorem registerRead_other_width {off width : Nat} (h : width ≠ 4) (s : State) : registerRead s off width = 0 := if_pos h

theorem registerRead_word (s : State) (off : Nat) : registerRead s off 4 =
    if off = 0x00 then BitVec.ofNat 32 Config.ident
    else if s.exch.service = .init then 0
    else if off = 0x04 then (if s.exch.intEnable then 2 else 0)
    else if off = 0x0C then s.ev.latch
    else if off = 0x10 then s.ev.enable
    else 0 := if_neg (fun h => h rfl)

theorem leValue_byte (bs : List Byte) (k : Nat) (h : k < bs.length) : leValue bs / 256 ^ k % 256 = bs[k].toNat := by
  induction bs generalizing k with
  | nil => exact absurd h (Nat.not_lt_zero k)
  | cons b bs ih =>
    have hb : b.toNat < 256 := b.isLt
    cases k with
    | zero =>
      rw [leValue, pow_zero, Nat.div_one, List.getElem_cons_zero]
      omega
    | succ k =>
      rw [leValue, pow_succ', ← Nat.div_div_eq_div_mul, show (b.toNat + 256 * leValue bs) / 256 = leValue bs by omega]
      exact ih k (by simpa using h)

theorem exchangeRead_zero {off width : Nat} {s : State}
    (h : s.exch.service = .init ∨ ¬(width = 1 ∨ width = 2 ∨ width = 4 ∨ width = 8) ∨ off % width ≠ 0 ∨ 0x3000 ≤ off) :
    exchangeRead s off width = 0 := by
  unfold exchangeRead
  rw [if_pos]
  rw [Bool.or_eq_true, decide_eq_true_iff, Bool.not_eq_true', ← Bool.not_eq_true, exchangeAccess_iff]
  rcases h with h | h | h | h
  · exact Or.inl h
  · exact Or.inr fun hacc => h hacc.1
  · exact Or.inr fun hacc => h hacc.2.1
  · exact Or.inr fun hacc => by omega

theorem exchangeRead_bytes {off width : Nat} {s : State} (hinit : s.exch.service ≠ .init)
    (hwidth : width = 1 ∨ width = 2 ∨ width = 4 ∨ width = 8) (halign : off % width = 0) (hoff : off < 0x3000) :
    exchangeRead s off width < 256 ^ width ∧
      ∀ k < width, exchangeRead s off width / 256 ^ k % 256 = (exchangeByte s (off + k)).toNat := by
  have hread : exchangeRead s off width = leValue ((List.range width).map fun k => exchangeByte s (off + k)) := by
    unfold exchangeRead
    rw [if_neg]
    rw [Bool.or_eq_true, decide_eq_true_iff, Bool.not_eq_true', ← Bool.not_eq_true, exchangeAccess_iff]
    rintro (h | h)
    · exact hinit h
    · exact h ⟨hwidth, halign, hoff⟩
  rw [hread]
  refine ⟨?_, fun k hk => ?_⟩
  · have hlt := leValue_lt ((List.range width).map fun k => exchangeByte s (off + k))
    rwa [List.length_map, List.length_range] at hlt
  · rw [leValue_byte _ k (by simpa using hk), List.getElem_map, List.getElem_range]

end Sys2Proof.Machine
end


section
/-! The mirror records as the bus reads them: each byte belongs to at most one field, and the fields stand where chapter
11 puts them. -/

namespace Sys2Proof.Machine

/-! ## Fields in order -/

/-- The fields stand one behind the other from `lo` on and end by `hi`. -/
def Fits (lo hi : Nat) : List Field → Prop
  | [] => lo ≤ hi
  | f :: fs => lo ≤ f.off ∧ Fits (f.off + f.size) hi fs

theorem Fits.le {lo hi : Nat} {fs : List Field} (h : Fits lo hi fs) : lo ≤ hi := by
  induction fs generalizing lo with
  | nil => exact h
  | cons f fs ih =>
    have hrest := ih h.2
    have hfirst := h.1
    omega

theorem Fits.from {lo lo' hi : Nat} {fs : List Field} (h : Fits lo hi fs) (hle : lo' ≤ lo) : Fits lo' hi fs := by
  cases fs with
  | nil => exact Nat.le_trans hle h
  | cons f fs => exact ⟨Nat.le_trans hle h.1, h.2⟩

theorem Fits.append {lo mid hi : Nat} {fs gs : List Field} (h : Fits lo mid fs) (h' : Fits mid hi gs) :
    Fits lo hi (fs ++ gs) := by
  induction fs generalizing lo with
  | nil => exact h'.from h
  | cons f fs ih => exact ⟨h.1, ih h.2⟩

theorem fits_place {lo off hi : Nat} {xs : List (Nat × Nat)} (hlo : lo ≤ off) (h : off + (xs.map Prod.fst).sum ≤ hi) :
    Fits lo hi (place off xs) := by
  induction xs generalizing lo off with
  | nil => exact Nat.le_trans hlo h
  | cons x xs ih =>
    rw [List.map_cons, List.sum_cons] at h
    exact ⟨hlo, ih (Nat.le_refl _) (by omega)⟩

theorem Fits.mem {lo hi : Nat} {fs : List Field} (h : Fits lo hi fs) {f : Field} (hf : f ∈ fs) :
    lo ≤ f.off ∧ f.off + f.size ≤ hi := by
  induction fs generalizing lo with
  | nil => exact absurd hf List.not_mem_nil
  | cons g gs ih =>
    have hend := h.2.le
    have hstart := h.1
    rcases List.mem_cons.mp hf with rfl | hf
    · exact ⟨hstart, hend⟩
    · have hrest := ih h.2 hf
      omega

theorem fieldByte_mem {lo hi : Nat} {fs : List Field} (h : Fits lo hi fs) {f : Field} (hf : f ∈ fs) {a : Nat}
    (ha : f.off ≤ a ∧ a < f.off + f.size) : fieldByte fs a = byteOf (f.val / 256 ^ (a - f.off)) := by
  induction fs generalizing lo with
  | nil => exact absurd hf List.not_mem_nil
  | cons g gs ih =>
    rcases List.mem_cons.mp hf with rfl | hf
    · exact if_pos ha
    · have hbehind := (h.2.mem hf).1
      rw [fieldByte, if_neg (by omega), ih h.2 hf]

/-! ## A record shown -/

/-- A field as the statements write it. -/
def Field.entry (f : Field) : Nat × Nat × Nat := (f.off, f.size, f.val)

/-- A record whose bytes come from its update count and its fields shows them. -/
theorem showsRecord_of_fields {s : State} {base len : Nat} {count : Half} {fs : List Field}
    (hbytes : ∀ a < len, exchangeByte s (base + a) = recordByte count fs a) (hfits : Fits 2 len fs) :
    s.showsRecord base len ((0, 2, count.toNat) :: fs.map Field.entry) := by
  have hlen := hfits.le
  refine ⟨fun f hf k hk => ?_, fun a ha hnone => ?_⟩
  · rcases List.mem_cons.mp hf with rfl | hf
    · have hk2 : k < 2 := hk
      rw [Nat.add_assoc, hbytes _ (by omega), recordByte, if_pos (by omega), Nat.zero_add]
      rfl
    · obtain ⟨g, hg, rfl⟩ := List.mem_map.mp hf
      have hk' : k < g.size := hk
      have hin := hfits.mem hg
      show exchangeByte s (base + g.off + k) = BitVec.ofNat 8 (g.val / 256 ^ k)
      rw [Nat.add_assoc, hbytes _ (by omega), recordByte, if_neg (by omega), fieldByte_mem hfits hg (by omega),
        Nat.add_sub_cancel_left]
      rfl
  · have hcount : ¬a < 2 := fun h => hnone _ List.mem_cons_self ⟨Nat.zero_le a, by simpa using h⟩
    rw [hbytes a ha, recordByte, if_neg hcount]
    exact fieldByte_outside fun f hf => hnone f.entry (List.mem_cons_of_mem _ (List.mem_map_of_mem hf))

/-! ## Where the areas lie (R168) -/

section
variable (s : State) {a : Nat}

theorem exchangeByte_header (h : a < 256) :
    exchangeByte s (0x0000 + a) = recordByte s.counts.header (headerFields s) a := by
  unfold exchangeByte
  rw [if_pos (by omega), Nat.zero_add]

theorem exchangeByte_slots (hlo : 0x100 ≤ a) (hhi : a < 0x900) : exchangeByte s a = Memory.read s.mem a := by
  unfold exchangeByte
  rw [if_neg (by omega), if_pos hhi]

theorem exchangeByte_fibre (h : a < 256) :
    exchangeByte s (0x0900 + a) = recordByte s.counts.fibre (pathFields s .fibre) a := by
  unfold exchangeByte
  rw [if_neg (by omega), if_neg (by omega), if_pos (by omega), Nat.add_sub_cancel_left]

theorem exchangeByte_radio (h : a < 256) :
    exchangeByte s (0x0A00 + a) = recordByte s.counts.radio (pathFields s .radio) a := by
  unfold exchangeByte
  rw [if_neg (by omega), if_neg (by omega), if_neg (by omega), if_pos (by omega), Nat.add_sub_cancel_left]

theorem exchangeByte_class {i : Nat} (hi : i < 8) (h : a < 32) :
    exchangeByte s (0x0B00 + 32 * i + a) = recordByte (s.cls i).count (classFields (s.cls i)) a := by
  have hnumber : (0x0B00 + 32 * i + a - 0x0B00) / 32 = i := by omega
  have hoffset : (0x0B00 + 32 * i + a - 0x0B00) % 32 = a := by omega
  unfold exchangeByte
  rw [if_neg (by omega), if_neg (by omega), if_neg (by omega), if_neg (by omega), if_pos (by omega)]
  dsimp only
  rw [hnumber, hoffset]

theorem exchangeByte_allowance (h : a < 128) :
    exchangeByte s (0x0C00 + a) = recordByte s.counts.allowance (allowanceFields s.allow) a := by
  unfold exchangeByte
  rw [if_neg (by omega), if_neg (by omega), if_neg (by omega), if_neg (by omega), if_neg (by omega),
    if_pos (by omega), Nat.add_sub_cancel_left]

theorem exchangeByte_radioUnit (h : a < 128) :
    exchangeByte s (0x0C80 + a) = recordByte s.counts.radioUnit (radioFields s) a := by
  unfold exchangeByte
  rw [if_neg (by omega), if_neg (by omega), if_neg (by omega), if_neg (by omega), if_neg (by omega),
    if_neg (by omega), if_pos (by omega), Nat.add_sub_cancel_left]

theorem exchangeByte_supply (h : a < 128) :
    exchangeByte s (0x0D00 + a) = recordByte s.counts.supply (supplyFields s.sup s.drill) a := by
  unfold exchangeByte
  rw [if_neg (by omega), if_neg (by omega), if_neg (by omega), if_neg (by omega), if_neg (by omega),
    if_neg (by omega), if_neg (by omega), if_pos (by omega), Nat.add_sub_cancel_left]

theorem exchangeByte_hold (h : a < 64) :
    exchangeByte s (0x0D80 + a) = recordByte s.counts.hold (holdFields s.hold s.steer) a := by
  unfold exchangeByte
  rw [if_neg (by omega), if_neg (by omega), if_neg (by omega), if_neg (by omega), if_neg (by omega),
    if_neg (by omega), if_neg (by omega), if_neg (by omega), if_pos (by omega), Nat.add_sub_cancel_left]

theorem exchangeByte_forwarding (h : a < 64) :
    exchangeByte s (0x0DC0 + a) = recordByte s.counts.forwarding (forwardingFields s.fwd) a := by
  unfold exchangeByte
  rw [if_neg (by omega), if_neg (by omega), if_neg (by omega), if_neg (by omega), if_neg (by omega),
    if_neg (by omega), if_neg (by omega), if_neg (by omega), if_neg (by omega), if_pos (by omega),
    Nat.add_sub_cancel_left]

theorem exchangeByte_flow {i : Nat} (hi : i < 128) (h : a < 64) :
    exchangeByte s (0x1000 + 64 * i + a) = recordByte (s.flow i).count (flowFields (s.flow i)) a := by
  have hnumber : (0x1000 + 64 * i + a - 0x1000) / 64 = i := by omega
  have hoffset : (0x1000 + 64 * i + a - 0x1000) % 64 = a := by omega
  unfold exchangeByte
  rw [if_neg (by omega), if_neg (by omega), if_neg (by omega), if_neg (by omega), if_neg (by omega),
    if_neg (by omega), if_neg (by omega), if_neg (by omega), if_neg (by omega), if_neg (by omega),
    if_neg (by omega), if_pos (by omega)]
  dsimp only
  rw [hnumber, hoffset]

theorem exchangeByte_unused (h : (0xE00 ≤ a ∧ a < 0x1000) ∨ 0x3000 ≤ a) : exchangeByte s a = 0 := by
  unfold exchangeByte
  rw [if_neg (by omega), if_neg (by omega), if_neg (by omega), if_neg (by omega), if_neg (by omega),
    if_neg (by omega), if_neg (by omega), if_neg (by omega), if_neg (by omega), if_neg (by omega)]
  split
  · rfl
  · rw [if_neg (by omega)]

end

/-! ## The fields fit their records -/

theorem headerFields_fits (s : State) : Fits 2 256 (headerFields s) :=
  ((fits_place (hi := 4) (by decide) (by simp)).append (fits_place (hi := 8) (by decide) (by simp))).append
    (fits_place (by decide) (by simp))

theorem windowEntries_size (w : List Result) : ((w.flatMap windowEntry).map Prod.fst).sum = 4 * w.length := by
  induction w with
  | nil => rfl
  | cons r w ih =>
    rw [List.flatMap_cons, List.map_append, List.sum_append, ih, List.length_cons]
    show 4 + _ = _
    omega

theorem pathFields_fits (s : State) (p : Path) (h : (s.path p).window.length ≤ 16) : Fits 2 256 (pathFields s p) :=
  (((fits_place (hi := 56) (by decide) (by simp)).append (fits_place (hi := 70) (by decide) (by simp))).append
    (fits_place (hi := 128) (by decide) (by simp))).append
      (fits_place (by decide) (by rw [windowEntries_size]; omega))

theorem classFields_fits (c : ClassRec) : Fits 2 32 (classFields c) :=
  (fits_place (hi := 12) (by decide) (by simp)).append (fits_place (by decide) (by simp))

theorem flowFields_fits (f : FlowRec) : Fits 2 64 (flowFields f) := fits_place (by decide) (by simp)

theorem allowanceFields_fits (a : Allowance) : Fits 2 128 (allowanceFields a) :=
  (((fits_place (hi := 16) (by decide) (by simp)).append (fits_place (hi := 64) (by decide) (by simp))).append
    (fits_place (hi := 80) (by decide) (by simp))).append (fits_place (by decide) (by simp))

theorem radioFields_fits (s : State) : Fits 2 128 (radioFields s) :=
  (fits_place (hi := 40) (by decide) (by simp)).append (fits_place (by decide) (by simp))

theorem supplyFields_fits (m : SupplyMonitor) (d : Drill) : Fits 2 128 (supplyFields m d) :=
  ((fits_place (hi := 24) (by decide) (by simp)).append (fits_place (hi := 32) (by decide) (by simp))).append
    (fits_place (by decide) (by simp [drillRecordParts]))

theorem holdFields_fits (h : Hold) (t : Steering) : Fits 2 64 (holdFields h t) := fits_place (by decide) (by simp)

theorem forwardingFields_fits (f : Forwarding) : Fits 2 64 (forwardingFields f) :=
  (fits_place (hi := 4) (by decide) (by simp)).append (fits_place (by decide) (by simp))

/-! ## The window in a path record -/

/-- The two fields of a window entry, if there is one, at its place. -/
def windowShown (off : Nat) : Option Result → List (Nat × Nat × Nat)
  | some x => [(off, 2, x.seq.toNat), (off + 2, 2, x.rtt.getD 0xFFFF)]
  | none => []

theorem place_windowEntries (w : List Result) (off n : Nat) (h : w.length ≤ n) :
    (place off (w.flatMap windowEntry)).map Field.entry
      = (List.range n).flatMap fun j => windowShown (off + 4 * j) w[j]? := by
  induction w generalizing off n with
  | nil => simp [place, windowShown]
  | cons x w ih =>
    obtain ⟨n, rfl⟩ : ∃ m, n = m + 1 := ⟨n - 1, by simp only [List.length_cons] at h; omega⟩
    have hrest := ih (off + 4) n (by simpa using h)
    have hshift : ∀ j, off + 4 + 4 * j = off + 4 * (j + 1) := fun j => by omega
    simp only [hshift] at hrest
    rw [List.range_succ_eq_map]
    simp only [List.flatMap_cons, List.flatMap_map, Nat.succ_eq_add_one, List.getElem?_cons_succ, ← hrest]
    rfl

/-! ## The records -/

theorem headerRecord (s : State) : s.showsRecord 0x0000 256 [(0, 2, s.counts.header.toNat), (2, 1, s.exch.service.code),
    (4, 2, s.ev.cond.toNat), (8, 4, s.exch.sweepCount.toNat), (12, 4, s.exch.flowChanges.toNat),
    (16, 2, s.exch.lastTicket.toNat), (18, 2, s.exch.interval)] :=
  showsRecord_of_fields (fun _ ha => exchangeByte_header s ha) (headerFields_fits s)

theorem reported_if (s : State) (p : Path) : s.reported p
    = if (s.path p).linkOnly = true ∨ s.exch.service ≠ .service then 1000 else (s.path p).score := by
  unfold State.reported
  simp only [Bool.or_eq_true, decide_eq_true_iff]

theorem effectiveLinger_min (s : State) : s.effectiveLinger
    = match s.sup.state with | .critical => 0 | .batteryLow => min s.ru.linger 60 | _ => s.ru.linger := by
  unfold State.effectiveLinger
  cases s.sup.state <;> rfl

theorem gradeCode_getD (g : Option Nat) : gradeCode g = g.getD 99 := by
  cases g <;> rfl

/-- Settles O10. -/
theorem windowsWrittenAndRead : Obligations.WindowsWrittenAndRead := by
  unfold Obligations.WindowsWrittenAndRead
  refine ⟨fun off width v s => ⟨fun h => registerWrite_ignored h v s, registerWrite_control v s, ⟨_, rfl, rfl⟩,
      ⟨_, rfl, rfl⟩⟩,
    fun off width v s => ⟨exchangeWrite_stored v, exchangeWrite_ignored v⟩,
    fun off width s => ⟨fun h => registerRead_other_width h s, rfl, ?during, ?outside, exchangeRead_zero,
      exchangeRead_bytes⟩,
    fun s => ⟨fun a => exchangeByte_slots s, fun a => exchangeByte_unused s, headerRecord s, ?paths, ?classes, ?flows,
      ?allowance, ?radio, ?supply, ?hold, ?forwarding⟩, rfl, rfl, fun _ => rfl, rfl, ?codes⟩
  case during =>
    intro hinit hoff
    rw [registerRead_word, if_neg hoff, if_pos hinit]
  case outside =>
    intro hinit
    refine ⟨?_, ?_, ?_, fun h0 h4 hc h10 => ?_⟩
    · rw [registerRead_word, if_neg (by decide), if_neg hinit, if_pos rfl]
    · rw [registerRead_word, if_neg (by decide), if_neg hinit, if_neg (by decide), if_pos rfl]
    · rw [registerRead_word, if_neg (by decide), if_neg hinit, if_neg (by decide), if_neg (by decide), if_pos rfl]
    · rw [registerRead_word, if_neg h0, if_neg hinit, if_neg h4, if_neg hc, if_neg h10]
  case paths =>
    intro p hlen
    have hwindow := place_windowEntries (s.path p).window 128 16 hlen
    have hentries : ∀ j, windowShown (128 + 4 * j) (s.path p).window[j]?
        = match (s.path p).window[j]? with
          | some x => [(128 + 4 * j, 2, x.seq.toNat), (130 + 4 * j, 2, x.rtt.getD 0xFFFF)]
          | none => [] := fun j => by
      cases (s.path p).window[j]? with
      | none => rfl
      | some x => simp only [windowShown, show 128 + 4 * j + 2 = 130 + 4 * j by omega]
    cases p with
    | fibre =>
      have hrecord := showsRecord_of_fields (fun _ ha => exchangeByte_fibre s ha) (pathFields_fits s .fibre hlen)
      unfold pathFields at hrecord
      rw [List.map_append, hwindow, reported_if] at hrecord
      simp only [hentries] at hrecord
      exact hrecord
    | radio =>
      have hrecord := showsRecord_of_fields (fun _ ha => exchangeByte_radio s ha) (pathFields_fits s .radio hlen)
      unfold pathFields at hrecord
      rw [List.map_append, hwindow, reported_if] at hrecord
      simp only [hentries] at hrecord
      exact hrecord
  case codes => decide
  case classes =>
    exact fun i hi => showsRecord_of_fields (fun _ ha => exchangeByte_class s hi ha) (classFields_fits _)
  case flows =>
    exact fun i hi => showsRecord_of_fields (fun _ ha => exchangeByte_flow s hi ha) (flowFields_fits _)
  case allowance =>
    exact showsRecord_of_fields (fun _ ha => exchangeByte_allowance s ha) (allowanceFields_fits _)
  case radio =>
    have hrecord := showsRecord_of_fields (fun _ ha => exchangeByte_radioUnit s ha) (radioFields_fits s)
    unfold radioFields at hrecord
    dsimp only at hrecord
    rw [effectiveLinger_min, gradeCode_getD] at hrecord
    exact hrecord
  case supply =>
    exact showsRecord_of_fields (fun _ ha => exchangeByte_supply s ha) (supplyFields_fits _ _)
  case hold =>
    exact showsRecord_of_fields (fun _ ha => exchangeByte_hold s ha) (holdFields_fits _ _)
  case forwarding =>
    exact showsRecord_of_fields (fun _ ha => exchangeByte_forwarding s ha) (forwardingFields_fits _)

end Sys2Proof.Machine
end


section
/-! Orders that owe no pass: SET SCORING, CLEAR CAUSE, and what SET DAMPING writes (R48, R49, R50). -/

namespace Sys2Proof.Machine

/-! ## Codes read back, and results -/

theorem pathOf_code (p : Path) : pathOf (pathCode p) = some p := by
  cases p <;> rfl

theorem flagOf_toNat (b : Bool) : flagOf b.toNat = some b := by
  cases b <;> rfl

theorem assignmentOf_code (a : Assignment) : assignmentOf a.code = some a := by
  cases a <;> rfl

theorem generatorOf_code (g : Generator) : generatorOf (generatorCode g) = some g := by
  cases g <;> rfl

theorem standbyOf_code (b : Standby) : standbyOf b.code = some b := by
  cases b <;> rfl

theorem radioUseOf_code (u : RadioUse) : radioUseOf u.code = some u := by
  cases u <;> rfl

theorem okOrClamped_eq {b : Bool} {p : Prop} [Decidable p] (h : b = true ↔ ¬p) :
    okOrClamped b = if p then .ok else .clamped := by
  unfold okOrClamped
  by_cases hp : p
  · rw [if_pos hp, if_neg (fun hb => h.mp hb hp)]
  · rw [if_neg hp, if_pos (h.mpr hp)]

/-! ## Takings without a pass -/

/-- An order that owes no pass and leaves flows, condition set and IRQ line true. -/
theorem takeKind_still {kind i : Nat} {rest : List Nat} {s : State} {body : List Byte → Work → Answered}
    (h : s.offersKind kind i rest) {a : Answered} (ha : body (slotParams s.mem i) (Work.begin s) = a)
    (hpass : a.work.passDue = false) (hdemand : a.work.demandDue = false) (hmem : a.work.st.mem = s.mem)
    (hflows : a.work.st.flows = s.flows) (hcur : a.work.st.current) :
    (takeKind kind body s).plain = (a.work.st.answered i rest a.result (a.answer a.work.st)).plain := by
  rw [takeKind_plain kind body s i rest h a ha hpass hdemand hmem (by rw [hflows]; exact countFlowChanges_self _)]
  exact congrArg State.plain (handed_of_current _ (answered_current _ _ _ _ _ hcur))

theorem quiet_of_settings (s : State) {e : EventUnit} (h : e.settings = s.ev.settings) :
    ({ s with ev := e } : State).quiet = s.quiet := by
  unfold State.quiet
  exact congrArg (fun x => { s.plain with ev := x }) h

theorem refreshIrq_quiet (s : State) : (refreshIrq s).quiet = s.quiet := quiet_of_settings s rfl

theorem handed_quiet (s : State) : s.handed.quiet = s.quiet := by
  unfold State.handed
  rw [refreshIrq_quiet, handConditions_st_eq, show (Work.begin s).st = s from rfl]
  by_cases h : s.facts = s.ev.cond
  · rw [if_pos h]
  · rw [if_neg h]
    refine quiet_of_settings s ?_
    unfold EventUnit.settings
    rfl

theorem quiet_of_plain {s t : State} (h : s.plain = t.plain) : s.quiet = t.quiet := by
  have hev : s.ev = t.ev := (congrArg State.ev h :)
  unfold State.quiet
  rw [h, hev]

/-- An order that owes no pass and leaves the flows. -/
theorem takeKind_quiet {kind i : Nat} {rest : List Nat} {s : State} {body : List Byte → Work → Answered}
    (h : s.offersKind kind i rest) {a : Answered} (ha : body (slotParams s.mem i) (Work.begin s) = a)
    (hpass : a.work.passDue = false) (hdemand : a.work.demandDue = false) (hmem : a.work.st.mem = s.mem)
    (hflows : a.work.st.flows = s.flows) :
    (takeKind kind body s).quiet = (a.work.st.answered i rest a.result (a.answer a.work.st)).quiet := by
  rw [quiet_of_plain (takeKind_plain kind body s i rest h a ha hpass hdemand hmem
    (by rw [hflows]; exact countFlowChanges_self _)), handed_quiet]

/-! ## SET SCORING (R48) -/

/-- Settles O20. -/
theorem scoringSet : Obligations.ScoringSet := by
  unfold Obligations.ScoringSet
  intro p lock i rest s hcur hoffers ps f c u w d k asGiven hp hlock hfc hdw hwu
  have hresult : okOrClamped (decide (f ≠ param ps 2 2) || decide (c ≠ param ps 4 2) || decide (u ≠ param ps 6 2)
      || decide (w ≠ param ps 8 2) || decide (d ≠ param ps 10 2) || decide (k ≠ param ps 12 1))
      = if asGiven then .ok else .clamped := okOrClamped_eq (by
    simp only [asGiven, Bool.or_eq_true, decide_eq_true_iff, not_and_or, or_assoc, ne_eq])
  have hbody : orderSetScoring ps (Work.begin s) =
      { work := (Work.begin s).onPath p fun r =>
          { r with floor := f, ceiling := c, upT := u, weakT := w, failT := d, failLimit := k, lockFirst := lock },
        result := if asGiven then .ok else .clamped, answer := scoringAnswer p } := by
    unfold orderSetScoring
    rw [hp, hlock, pathOf_code, flagOf_toNat, ← hresult]
    exact if_pos ⟨hfc, hdw, hwu⟩
  refine ⟨_, rfl, ?_⟩
  have hplain := takeKind_still hoffers hbody rfl rfl (by cases p <;> rfl) (by cases p <;> rfl)
    (by cases p <;> exact hcur)
  refine hplain.trans ?_
  cases p <;> rfl

/-! ## CLEAR CAUSE (R50) -/

/-- Settles O22. -/
theorem causeCleared : Obligations.CauseCleared := by
  unfold Obligations.CauseCleared
  intro p i rest s hcur hoffers hp c
  have hbody : orderClearCause (slotParams s.mem i) (Work.begin s) =
      { work := (Work.begin s).onPath p fun r => { r with cause := r.cause.cleared },
        result := .ok,
        answer := fun _ => pack [(1, pathCode p), (1, optCode Cause.code c.cause), (1, c.repeated.toNat), (1, c.falls)] } := by
    unfold orderClearCause
    rw [hp, pathOf_code]
    rfl
  refine ⟨_, rfl, ?_⟩
  have hplain := takeKind_still hoffers hbody rfl rfl (by cases p <;> rfl) (by cases p <;> rfl)
    (by cases p <;> exact hcur)
  refine hplain.trans ?_
  cases p <;> rfl

end Sys2Proof.Machine
end


section
/-! Events that hand on conditions but owe no pass: SET GENERATOR, and the oldest frames of the two buffers (R19, R128,
R133). -/

namespace Sys2Proof.Machine

/-! ## A state that differs in the event unit's outputs alone -/

/-- The second state is the first but for condition bits, latch and IRQ line. -/
def State.OnlyEv (s t : State) : Prop := ∃ e, e.settings = s.ev.settings ∧ t = { s with ev := e }

theorem State.OnlyEv.refl (s : State) : s.OnlyEv s := ⟨s.ev, rfl, rfl⟩

theorem State.OnlyEv.trans {s t u : State} (h : s.OnlyEv t) (h' : t.OnlyEv u) : s.OnlyEv u := by
  obtain ⟨e, he, rfl⟩ := h
  obtain ⟨e', he', rfl⟩ := h'
  exact ⟨e', he'.trans he, rfl⟩

theorem State.OnlyEv.quiet {s t : State} (h : s.OnlyEv t) : t.quiet = s.quiet := by
  obtain ⟨e, he, rfl⟩ := h
  exact quiet_of_settings s he

/-- What reads and writes other blocks alone keeps two states so. -/
theorem State.OnlyEv.map {s t : State} (h : s.OnlyEv t) {f : State → State}
    (hf : ∀ s e, f { s with ev := e } = { f s with ev := e }) (hev : ∀ s, (f s).ev = s.ev) : (f s).OnlyEv (f t) := by
  obtain ⟨e, he, rfl⟩ := h
  exact ⟨e, by rw [hev]; exact he, hf s e⟩

theorem handConditions_onlyEv (w : Work) : w.st.OnlyEv (handConditions w).st := by
  rw [handConditions_st_eq]
  by_cases h : w.st.facts = w.st.ev.cond
  · rw [if_pos h]
    exact State.OnlyEv.refl _
  · rw [if_neg h]
    refine ⟨_, ?_, rfl⟩
    unfold EventUnit.settings
    rfl

theorem latch_onlyEv (i : Nat) (w : Work) : w.st.OnlyEv (latch i w).st :=
  ⟨{ w.st.ev with latch := w.st.ev.latch ||| bitMask i }, rfl, rfl⟩

theorem noteReady_onlyEv (p : Path) (was : Bool) (w : Work) : w.st.OnlyEv (noteReady p was w).st := by
  unfold noteReady
  split
  · exact State.OnlyEv.refl _
  · exact (handConditions_onlyEv w).trans (latch_onlyEv _ _)

theorem settle_eq (p : Path) (w : Work) : settle p w = noteReady p (w.st.path p).ready
    ((w.onPath p PathRec.settled).onQueue p fun q => { q with probes := [] }) := rfl

theorem settled_st (p : Path) (w : Work) : ((w.onPath p PathRec.settled).onQueue p fun q => { q with probes := [] }).st
    = w.st.withPath p (w.st.path p).settled true := by
  cases p <;> rfl

theorem settle_onlyEv (p : Path) (w : Work) :
    (w.st.withPath p (w.st.path p).settled true).OnlyEv (settle p w).st := by
  rw [settle_eq, ← settled_st]
  exact noteReady_onlyEv _ _ _

/-! ## What hands on conditions owes nothing -/

theorem handConditions_passDue (w : Work) : (handConditions w).passDue = w.passDue := by
  unfold handConditions
  by_cases h : w.st.facts = w.st.ev.cond
  · rw [if_pos h]
  · rw [if_neg h, touch_passDue, onEv_passDue]

theorem handConditions_demandDue (w : Work) : (handConditions w).demandDue = w.demandDue := by
  unfold handConditions
  by_cases h : w.st.facts = w.st.ev.cond
  · rw [if_pos h]
  · rw [if_neg h, touch_demandDue, onEv_demandDue]

theorem latch_passDue (i : Nat) (w : Work) : (latch i w).passDue = w.passDue := rfl

theorem noteReady_passDue (p : Path) (was : Bool) (w : Work) : (noteReady p was w).passDue = w.passDue := by
  unfold noteReady
  split
  · rfl
  · exact (latch_passDue _ _).trans (handConditions_passDue w)

theorem latch_demandDue (i : Nat) (w : Work) : (latch i w).demandDue = w.demandDue := rfl

theorem noteReady_demandDue (p : Path) (was : Bool) (w : Work) : (noteReady p was w).demandDue = w.demandDue := by
  unfold noteReady
  split
  · rfl
  · exact (latch_demandDue _ _).trans (handConditions_demandDue w)

theorem settle_passDue (p : Path) (w : Work) : (settle p w).passDue = w.passDue := noteReady_passDue _ _ _

theorem settle_demandDue (p : Path) (w : Work) : (settle p w).demandDue = w.demandDue := noteReady_demandDue _ _ _

/-- An event that owes no pass and leaves the flows. -/
theorem event_quiet (f : Work → Work) (s : State) {v : Work} (hs : s.exch.service ≠ .init) (hv : f (Work.begin s) = v)
    (hpass : v.passDue = false) (hdemand : v.demandDue = false) (hflows : v.st.flows = s.flows) :
    (event f s).quiet = v.st.quiet := by
  subst hv
  rw [quiet_of_plain (event_plain f s hs hpass hdemand (by rw [hflows]; exact countFlowChanges_self _)), handed_quiet]

/-! ## SET GENERATOR (R19) -/

/-- The record of a path of the generator: settled, its timeout within the new range. -/
def PathRec.reclamped (g : Generator) (n : Nat) (r : PathRec) : PathRec :=
  if r.assign = assignmentTo g then
    { r.settled with timeout := clamp 100 (min (4 * (25 * (n + 1) * r.d)) 6500) r.timeout }
  else r

theorem withPath_ev (s : State) (e : EventUnit) (p : Path) (r : PathRec) (b : Bool) :
    ({ s with ev := e } : State).withPath p r b = { s.withPath p r b with ev := e } := by
  cases p <;> cases b <;> rfl

theorem withPath_unit (s : State) (p : Path) (r : PathRec) (b : Bool) : (s.withPath p r b).ev = s.ev := by
  cases p <;> cases b <;> rfl

theorem withPath_self (s : State) (p : Path) : s.withPath p (s.path p) false = s := by
  cases p <;> rfl

/-- The probe timeout within the range it has in this state. -/
def PathRec.retimed (s : State) (r : PathRec) : PathRec :=
  { r with timeout := clamp 100 (timeoutMax s r.assign r.d) r.timeout }

theorem reclampPath_mine {g : Generator} {p : Path} {w : Work} (h : (w.st.path p).assign = assignmentTo g) :
    reclampPath g p w = (settle p w).onPath p (PathRec.retimed (settle p w).st) := if_pos h

theorem timeoutMax_mine (g : Generator) (s : State) (d : Nat) :
    timeoutMax s (assignmentTo g) d = min (4 * (25 * ((s.gens.get g).n + 1) * d)) 6500 := by
  cases g <;> rfl

theorem retimed_reclamped {g : Generator} {s t : State} {r : PathRec} (h : r.assign = assignmentTo g)
    (hgens : t.gens = s.gens) : r.settled.retimed t = r.reclamped g (s.gens.get g).n := by
  have hmax : timeoutMax t r.assign r.d = min (4 * (25 * ((s.gens.get g).n + 1) * r.d)) 6500 := by
    rw [h, timeoutMax_mine, hgens]
  unfold PathRec.reclamped
  rw [if_pos h, ← hmax]
  rfl

theorem onPath_withPath (s : State) (p : Path) (r : PathRec) (b : Bool) (e : EventUnit) (f : PathRec → PathRec) :
    ({ s.withPath p r b with ev := e } : State).onPath p f = { s.withPath p (f r) b with ev := e } := by
  cases p <;> cases b <;> rfl

theorem reclampPath_onlyEv (g : Generator) (p : Path) (w : Work) :
    (w.st.withPath p ((w.st.path p).reclamped g (w.st.gens.get g).n)
      (decide ((w.st.path p).assign = assignmentTo g))).OnlyEv (reclampPath g p w).st := by
  by_cases h : (w.st.path p).assign = assignmentTo g
  · obtain ⟨e, he, hset⟩ := settle_onlyEv p w
    have hgens : (settle p w).st.gens = w.st.gens := by
      rw [hset]
      cases p <;> rfl
    have hst : (reclampPath g p w).st
        = { w.st.withPath p ((w.st.path p).reclamped g (w.st.gens.get g).n) true with ev := e } := by
      rw [reclampPath_mine h, ← retimed_reclamped h hgens]
      show (settle p w).st.onPath p _ = _
      generalize PathRec.retimed (settle p w).st = f
      rw [hset, onPath_withPath]
    rw [decide_eq_true h]
    refine ⟨e, he.trans ?_, hst⟩
    cases p <;> rfl
  · unfold reclampPath PathRec.reclamped
    rw [if_neg h, if_neg h, decide_eq_false h, withPath_self]
    exact State.OnlyEv.refl _

theorem reclampPath_passDue (g : Generator) (p : Path) (w : Work) : (reclampPath g p w).passDue = w.passDue := by
  unfold reclampPath
  split
  · exact settle_passDue p w
  · rfl

theorem reclampPath_demandDue (g : Generator) (p : Path) (w : Work) : (reclampPath g p w).demandDue = w.demandDue := by
  unfold reclampPath
  split
  · exact settle_demandDue p w
  · rfl

/-- SET GENERATOR's own changes where the period is another one. -/
def regenerate (g : Generator) (n : Nat) (w : Work) : Work :=
  reclampPath g .radio (reclampPath g .fibre
    (w.onGens fun gs => gs.set g { n := n, due := later w.now (periodMs n) }))

theorem gens_set_get (gs : Generators) (g : Generator) (v : GeneratorState) : (gs.set g v).get g = v := by
  cases g <;> rfl

/-- The state that SET GENERATOR writes. -/
def State.regenerated (s : State) (g : Generator) (n : Nat) : State :=
  { (s.withPath .fibre (s.fibre.reclamped g n) (decide (s.fibre.assign = assignmentTo g))).withPath .radio
      (s.radio.reclamped g n) (decide (s.radio.assign = assignmentTo g)) with
    gens := s.gens.set g { n := n, due := later s.now (periodMs n) } }

theorem regenerated_eq (s : State) (g : Generator) (n : Nat) :
    (({ s with gens := s.gens.set g { n := n, due := later s.now (periodMs n) } } : State).withPath .fibre
      (s.fibre.reclamped g n) (decide (s.fibre.assign = assignmentTo g))).withPath .radio (s.radio.reclamped g n)
        (decide (s.radio.assign = assignmentTo g)) = s.regenerated g n := by
  unfold State.regenerated
  cases decide (s.fibre.assign = assignmentTo g) <;> cases decide (s.radio.assign = assignmentTo g) <;> rfl

theorem regenerate_onlyEv (g : Generator) (n : Nat) (w : Work) :
    (w.st.regenerated g n).OnlyEv (regenerate g n w).st := by
  unfold regenerate
  generalize hu : (w.onGens fun gs => gs.set g { n := n, due := later w.now (periodMs n) }) = u
  have hgens : u.st.gens.get g = { n := n, due := later w.now (periodMs n) } := by
    rw [← hu]
    exact gens_set_get _ g _
  have hfibre := reclampPath_onlyEv g .fibre u
  have hradio := reclampPath_onlyEv g .radio (reclampPath g .fibre u)
  have hkeeps : (reclampPath g .fibre u).st.gens = u.st.gens ∧ (reclampPath g .fibre u).st.radio = u.st.radio := by
    obtain ⟨e, -, hst⟩ := hfibre
    rw [hst]
    cases decide ((u.st.path .fibre).assign = assignmentTo g) <;> exact ⟨rfl, rfl⟩
  have hpath : (reclampPath g .fibre u).st.path .radio = w.st.radio := hkeeps.2.trans (by rw [← hu]; rfl)
  rw [hgens] at hfibre
  rw [hpath, hkeeps.1, hgens] at hradio
  have hboth := (hfibre.map (f := fun s => s.withPath .radio (w.st.radio.reclamped g n)
    (decide (w.st.radio.assign = assignmentTo g))) (fun s e => withPath_ev s e _ _ _)
    fun s => withPath_unit s _ _ _).trans hradio
  have heq : w.st.regenerated g n = (u.st.withPath .fibre ((u.st.path .fibre).reclamped g n)
      (decide ((u.st.path .fibre).assign = assignmentTo g))).withPath .radio (w.st.radio.reclamped g n)
      (decide (w.st.radio.assign = assignmentTo g)) := by
    rw [← hu]
    exact (regenerated_eq w.st g n).symm
  rw [heq]
  exact hboth

theorem regenerate_passDue (g : Generator) (n : Nat) (w : Work) : (regenerate g n w).passDue = w.passDue :=
  (reclampPath_passDue g .radio _).trans (reclampPath_passDue g .fibre _)

theorem regenerate_demandDue (g : Generator) (n : Nat) (w : Work) : (regenerate g n w).demandDue = w.demandDue :=
  (reclampPath_demandDue g .radio _).trans (reclampPath_demandDue g .fibre _)

theorem orderSetGenerator_same {ps : List Byte} {g : Generator} (w : Work) (hg : param ps 0 1 = generatorCode g)
    (hn : (w.st.gens.get g).n = min (param ps 1 2) 399) : orderSetGenerator ps w =
      { work := w, result := okOrClamped (decide (399 < param ps 1 2)), answer := generatorAnswer g } := by
  unfold orderSetGenerator
  rw [hg, generatorOf_code]
  exact if_pos hn

theorem orderSetGenerator_other {ps : List Byte} {g : Generator} (w : Work) (hg : param ps 0 1 = generatorCode g)
    (hn : (w.st.gens.get g).n ≠ min (param ps 1 2) 399) : orderSetGenerator ps w =
      { work := regenerate g (min (param ps 1 2) 399) w,
        result := okOrClamped (decide (399 < param ps 1 2)
          || (decide ((regenerate g (min (param ps 1 2) 399) w).st.fibre.timeout ≠ w.st.fibre.timeout)
            || decide ((regenerate g (min (param ps 1 2) 399) w).st.radio.timeout ≠ w.st.radio.timeout))),
        answer := generatorAnswer g } := by
  unfold orderSetGenerator
  rw [hg, generatorOf_code]
  exact if_neg hn

theorem regenerated_fields (s : State) (g : Generator) (n : Nat) :
    (s.regenerated g n).fibre = s.fibre.reclamped g n ∧ (s.regenerated g n).radio = s.radio.reclamped g n ∧
      (s.regenerated g n).mem = s.mem ∧ (s.regenerated g n).flows = s.flows ∧
      (s.regenerated g n).gens = s.gens.set g { n := n, due := later s.now (periodMs n) } := by
  unfold State.regenerated
  cases decide (s.fibre.assign = assignmentTo g) <;> cases decide (s.radio.assign = assignmentTo g) <;>
    exact ⟨rfl, rfl, rfl, rfl, rfl⟩

theorem generatorAnswer_eq {g : Generator} {n : Nat} {s : State} (h : (s.gens.get g).n = n) : generatorAnswer g s =
    pack [(1, generatorCode g), (2, n), (2, 25 * (n + 1)), (2, s.fibre.timeout), (2, s.radio.timeout)] := by
  subst h
  rfl

theorem State.OnlyEv.answered {s t : State} (h : s.OnlyEv t) (i : Nat) (rest : List Nat) (r : ResultCode)
    (ans : List Byte) : (s.answered i rest r ans).OnlyEv (t.answered i rest r ans) :=
  h.map (f := fun s => s.answered i rest r ans) (fun _ _ => rfl) fun _ => rfl

/-- Settles O17. -/
theorem generatorSet : Obligations.GeneratorSet := by
  unfold Obligations.GeneratorSet
  intro g i rest s hcur hoffers ps n above mine after moved answer hg
  refine ⟨fun hn => ⟨_, rfl, ?_⟩, fun hn => ⟨_, rfl, ?_⟩⟩
  · refine (takeKind_still hoffers (orderSetGenerator_same _ hg hn) rfl rfl rfl rfl hcur).trans ?_
    rw [show answer s = generatorAnswer g s from (generatorAnswer_eq hn).symm]
    rfl
  · have hmine : mine = assignmentTo g := by cases g <;> rfl
    have hafter : ∀ r, after r = r.reclamped g n := fun r => by
      unfold PathRec.reclamped
      rw [← hmine]
    obtain ⟨hfibre, hradio, hmem, hflows, hgens⟩ := regenerated_fields s g n
    have honly := regenerate_onlyEv g n (Work.begin s)
    have hkeeps : (regenerate g n (Work.begin s)).st.fibre = after s.fibre ∧
        (regenerate g n (Work.begin s)).st.radio = after s.radio ∧
        (regenerate g n (Work.begin s)).st.mem = s.mem ∧ (regenerate g n (Work.begin s)).st.flows = s.flows ∧
        ((regenerate g n (Work.begin s)).st.gens.get g).n = n := by
      obtain ⟨e, -, hst⟩ := honly
      rw [hst, hafter, hafter]
      exact ⟨hfibre, hradio, hmem, hflows,
        (congrArg (fun gs : Generators => (gs.get g).n) hgens).trans (congrArg _ (gens_set_get _ g _))⟩
    obtain ⟨hfibre', hradio', hmem', hflows', hn'⟩ := hkeeps
    have hquiet := takeKind_quiet hoffers (orderSetGenerator_other _ hg hn)
      (regenerate_passDue g n _) (regenerate_demandDue g n _) hmem' hflows'
    dsimp only at hquiet
    rw [generatorAnswer_eq hn', hfibre', hradio'] at hquiet
    have htaken := hquiet.trans (honly.answered i rest _ _).quiet
    have htimes : (takeKind Kind.setGenerator orderSetGenerator s).fibre = after s.fibre ∧
        (takeKind Kind.setGenerator orderSetGenerator s).radio = after s.radio :=
      ⟨(congrArg State.fibre hquiet).trans hfibre', (congrArg State.radio hquiet).trans hradio'⟩
    have hanswer : answer (takeKind Kind.setGenerator orderSetGenerator s)
        = pack [(1, generatorCode g), (2, n), (2, 25 * (n + 1)), (2, (after s.fibre).timeout),
            (2, (after s.radio).timeout)] := by
      unfold answer
      rw [htimes.1, htimes.2]
    rw [hanswer]
    refine htaken.trans ?_
    unfold State.regenerated
    rw [← hafter, ← hafter, ← hmine]
    rfl

end Sys2Proof.Machine
end


section
/-! Fixed events that stay latched to the end of their event (R186), and the oldest frames of the two buffers (R128,
R133). -/

namespace Sys2Proof.Machine

/-! ## A latched bit stays to the end of the event -/

theorem latch_latched (i : Nat) (w : Work) : latched (bitMask i) (latch i w).st := by
  show bitMask i &&& (w.st.ev.latch ||| bitMask i) = bitMask i
  rw [BitVec.and_comm, BitVec.or_comm]
  ext k hk
  simpa using Or.inl

theorem finish_latched {m : Word} (s0 : State) {w : Work} (h : latched m w.st) : latched m (finish s0 w) :=
  (reported_latched m).finish (closed_latched False False False False False m) s0 w h

theorem passes_latched {m : Word} {w : Work} (h : latched m w.st) : latched m (passes w).st :=
  (closed_latched False False False False True m).passes trivial trivial w h

theorem handConditions_latched {m : Word} {w : Work} (h : latched m w.st) : latched m (handConditions w).st :=
  (closed_latched False False False False False m).handConditions w h

/-- What an event's own changes latch. -/
theorem event_latched {m : Word} {f : Work → Work} {s : State} (hs : s.exch.service ≠ .init)
    (h : latched m (f (Work.begin s)).st) : latched m (event f s) := by
  unfold event
  rw [if_neg hs]
  exact finish_latched s (passes_latched h)

/-- What an order's own changes latch. -/
theorem takeKind_latched {m : Word} {kind i : Nat} {rest : List Nat} {s : State} {body : List Byte → Work → Answered}
    (hoffers : s.offersKind kind i rest) (h : latched m (body (slotParams s.mem i) (Work.begin s)).work.st) :
    latched m (takeKind kind body s) := by
  rw [takeKind_eq kind body s i rest hoffers]
  exact finish_latched s (passes_latched h)

/-! ## The oldest held frame (R128) -/

theorem dropOldest_onlyEv {w : Work} {h : HeldFrame} {rest : List HeldFrame} (hheld : w.st.fwd.held = h :: rest) :
    ({ w.st with fwd := { w.st.fwd with
        held := rest, counts := { w.st.fwd.counts with holdAge := hold32 (w.st.fwd.counts.holdAge + 1) } } } : State).OnlyEv
      (dropOldest w).st := by
  unfold dropOldest
  refine State.OnlyEv.trans ?_ (latch_onlyEv _ _)
  have hst : ((w.onFwd fun f => { f with held := f.held.drop 1 }).onCounts (ForwardCounts.ageHeld 1)).st
      = { w.st with fwd := { w.st.fwd with
        held := w.st.fwd.held.drop 1,
        counts := { w.st.fwd.counts with holdAge := hold32 (w.st.fwd.counts.holdAge + 1) } } } := rfl
  rw [hst, hheld]
  exact State.OnlyEv.refl _

/-- Settles O52. -/
theorem buffersGiveTheirOldest : Obligations.BuffersGiveTheirOldest := by
  unfold Obligations.BuffersGiveTheirOldest
  refine ⟨fun h rest s hcur hheld haged => ?oldest, fun f rest s hcur hreceive => ?deliver,
    fun up s hcur hnone => ?nothing, fun up s hinit => ?init⟩
  case oldest =>
    obtain ⟨hinit, -, -⟩ := hcur
    have hdue : s.oldestAged = true := by
      unfold State.oldestAged
      rw [hheld]
      exact aged_iff.mpr haged
    have honly := dropOldest_onlyEv (w := Work.begin s) hheld
    have hflows : (dropOldest (Work.begin s)).st.flows = s.flows := rfl
    refine ⟨event dropOldest s, congrArg Host.Outcome.next (if_pos hdue), ?_, ?_⟩
    · rw [event_quiet dropOldest s hinit rfl rfl rfl hflows, honly.quiet]
      rfl
    · exact getLsbD_of_latched (event_latched hinit (latch_latched 13 _)) (by decide)
  case deliver =>
    obtain ⟨hinit, hcond, hirq⟩ := hcur
    have hdeliver : deliver ((Work.begin s).onFwd fun x => { x with lanLink := true })
        = ((Work.begin s).onFwd fun x => { x with lanLink := true }).onFwd fun x =>
            { x with receive := rest, lanOut := some (arrivalTag f.path ++ f.data) } := by
      unfold deliver
      rw [onFwd_fwd, show (Work.begin s).st.fwd.receive = f :: rest from hreceive]
      rfl
    refine ⟨_, congrArg Host.Outcome.next (if_neg hinit), ?_⟩
    refine (event_still _ s hinit hdeliver rfl rfl rfl hcond hirq).trans ?_
    cases hpath : f.path <;> rfl
  case nothing =>
    obtain ⟨hinit, hcond, hirq⟩ := hcur
    have hdeliver : deliver ((Work.begin s).onFwd fun x => { x with lanLink := up })
        = (Work.begin s).onFwd fun x => { x with lanLink := up } := by
      unfold deliver
      rw [onFwd_fwd]
      dsimp only
      rcases hnone with rfl | hnone
      · cases (Work.begin s).st.fwd.receive <;> rfl
      · rw [show (Work.begin s).st.fwd.receive = [] from hnone]
    refine ⟨_, congrArg Host.Outcome.next (if_neg hinit), ?_⟩
    exact event_still (fun w => deliver (w.onFwd fun x => { x with lanLink := up })) s hinit hdeliver rfl rfl rfl hcond
      hirq
  case init => exact congrArg Host.Outcome.next (if_pos hinit)

end Sys2Proof.Machine
end


section
/-! A change of a path's state, as a function of states: the record that `movesTo` gives, the hold and the return delay
that see it, the grade state, the drill, and the queues (R15, R38, R83, R91, R124, R158). -/

namespace Sys2Proof.Machine

/-! ## The parts of a change -/

/-- The hold after its end for this reason. -/
def Hold.ended (reason : HoldEnd) (now : Time) (h : Hold) : Hold :=
  if h.active then { h with active := false, stop := now, reason := reason } else h

theorem endHold_onlyEv (reason : HoldEnd) (w : Work) :
    ({ w.st with hold := w.st.hold.ended reason w.now } : State).OnlyEv (endHold reason w).st := by
  unfold endHold Hold.ended
  by_cases h : w.st.hold.active = true
  · rw [if_pos h, if_pos h]
    dsimp only
    rw [owePass_st, touch_st]
    refine State.OnlyEv.trans ?_ (handConditions_onlyEv _)
    by_cases hl : reason.latches = true
    · rw [if_pos hl]
      exact latch_onlyEv Bit.holdEnd (w.onHold _)
    · rw [if_neg hl]
      exact State.OnlyEv.refl _
  · rw [if_neg h, if_neg h]
    exact State.OnlyEv.refl _

theorem holdSees_some (p : Path) (was is : PathState) (w : Work) :
    ∃ h, ({ w.st with hold := h } : State).OnlyEv (holdSees p was is w).st := by
  have hself : ∃ h, ({ w.st with hold := h } : State).OnlyEv w.st := ⟨w.st.hold, State.OnlyEv.refl _⟩
  have hbreak : ∃ h, ({ w.st with hold := h } : State).OnlyEv (endHold .broken w).st := ⟨_, endHold_onlyEv .broken w⟩
  unfold holdSees
  split
  · cases p
    · dsimp only
      split
      · exact hbreak
      · exact hself
    · dsimp only
      split
      · exact ⟨_, State.OnlyEv.refl _⟩
      · split
        · exact hbreak
        · exact hself
  · exact hself

theorem State.OnlyEv.hold {s t : State} (h : s.OnlyEv t) : t.hold = s.hold := by
  obtain ⟨e, -, rfl⟩ := h
  rfl

theorem holdSees_onlyEv (p : Path) {was is : PathState} (w : Work) (hne : was ≠ is) :
    ({ w.st with hold := w.st.hold.sees w.now p was is } : State).OnlyEv (holdSees p was is w).st := by
  obtain ⟨h, honly⟩ := holdSees_some p was is w
  have heq : h = w.st.hold.sees w.now p was is := honly.hold.symm.trans (holdSees_hold p was is w hne)
  exact heq ▸ honly

/-- The drill unit with its drill ended in this state. -/
def Drill.closed (s : State) (o : DrillOutcome) (c : DrillCause) (d : Drill) : Drill :=
  { d with running := false, pass := decide (o = .pass), last := drillRecordNow s o c }

theorem endDrill_eq (o : DrillOutcome) (c : DrillCause) (w : Work) (h : w.st.drill.running = true) : endDrill o c w =
    { ((handConditions (latch Bit.drillEnd (w.onDrill (Drill.closed w.st o c)))).touch .supply).oweDemand with
      drillEnded := true } := if_pos h

theorem endedWork_st (v : Work) : ({ (v.touch .supply).oweDemand with drillEnded := true } : Work).st = v.st := rfl

theorem endDrill_some (o : DrillOutcome) (c : DrillCause) (w : Work) (h : w.st.drill.running = true) :
    ∃ d, ({ w.st with drill := d } : State).OnlyEv (endDrill o c w).st := by
  rw [endDrill_eq o c w h, endedWork_st]
  exact ⟨Drill.closed w.st o c w.st.drill,
    (latch_onlyEv Bit.drillEnd (w.onDrill (Drill.closed w.st o c))).trans (handConditions_onlyEv _)⟩

theorem State.OnlyEv.drill {s t : State} (h : s.OnlyEv t) : t.drill = s.drill := by
  obtain ⟨e, -, rfl⟩ := h
  rfl

theorem endDrill_onlyEv (o : DrillOutcome) (c : DrillCause) (w : Work) (h : w.st.drill.running = true) :
    ({ w.st with drill := w.st.drillEnded o c } : State).OnlyEv (endDrill o c w).st := by
  obtain ⟨d, honly⟩ := endDrill_some o c w h
  have heq : d = w.st.drillEnded o c := honly.drill.symm.trans (endDrill_drill o c w h)
  exact heq ▸ honly

theorem endDrill_idle (o : DrillOutcome) (c : DrillCause) (w : Work) (h : w.st.drill.running = false) :
    endDrill o c w = w := by
  unfold endDrill
  rw [h]
  exact if_neg Bool.false_ne_true

theorem returnSees_onlySteer (was is : PathState) (w : Work) :
    (returnSees was is w).st = { w.st with steer := w.st.steer.sees w.now was is } := by
  have hst : ∃ t, (returnSees was is w).st = { w.st with steer := t } := by
    unfold returnSees
    split
    · split <;> exact ⟨_, rfl⟩
    · split
      · exact ⟨_, rfl⟩
      · exact ⟨w.st.steer, rfl⟩
  obtain ⟨t, ht⟩ := hst
  have hsteer := returnSees_steer was is w
  rw [ht] at hsteer ⊢
  rw [← hsteer]

/-! ## The record -/

theorem settled_enter_down (now : Time) (r : PathRec) (h : r.state ≠ .down) :
    (r.enter .down now).settled = r.settled.movesTo now .down := by
  rw [← enter_eq_movesTo _ _ _ (show r.settled.state ≠ .down from h)]
  unfold PathRec.enter PathRec.settled
  simp [PathState.usable]

/-- The record of a path that changes to this state: settled on its way into DOWN. -/
def PathRec.changed (now : Time) (n : PathState) (r : PathRec) : PathRec :=
  if n = .down then r.settled.movesTo now .down else r.movesTo now n

/-- The queues after a path has changed to this state: DOWN clears the probes at its port, and on fibre both bands. -/
def Forwarding.changed (p : Path) (n : PathState) (f : Forwarding) : Forwarding :=
  if n = .down then
    match p with
    | .fibre => { f with
        fibreQ := { f.fibreQ with probes := [], urgent := [], normal := [] },
        counts := { f.counts with fibreFlush := hold32 (f.counts.fibreFlush + (f.fibreQ.urgent.length + f.fibreQ.normal.length)) } }
    | .radio => { f with radioQ := { f.radioQ with probes := [] } }
  else f

/-- What a path's own part of a change makes of a state. -/
def State.moved (s : State) (p : Path) (n : PathState) : State :=
  { s.onPath p (PathRec.changed s.now n) with fwd := s.fwd.changed p n }

theorem enterDown_onlyEv (p : Path) (w : Work) (h : (w.st.path p).state ≠ .down) :
    (w.st.moved p .down).OnlyEv (enterDown p (w.onPath p (PathRec.enter .down w.now))).st := by
  have hrecord := settled_enter_down w.now (w.st.path p) h
  obtain ⟨e, he, hst⟩ := settle_onlyEv p (w.onPath p (PathRec.enter .down w.now))
  rw [onPath_path, hrecord] at hst
  refine ⟨e, ?_, ?_⟩
  · rw [he]
    cases p <;> rfl
  · cases p with
    | fibre =>
      show (flushQueue .fibre (settle .fibre _)).st = _
      have hflush : ∀ v : Work, (flushQueue .fibre v).st = { v.st with fwd := { v.st.fwd with
          fibreQ := { v.st.fwd.fibreQ with urgent := [], normal := [] },
          counts := { v.st.fwd.counts with fibreFlush := hold32 (v.st.fwd.counts.fibreFlush
            + (v.st.fwd.fibreQ.urgent.length + v.st.fwd.fibreQ.normal.length)) } } } := fun _ => rfl
      rw [hflush, hst]
      rfl
    | radio =>
      show (settle .radio _).st = _
      rw [hst]
      rfl

theorem moved_of_ne_down (s : State) (p : Path) {n : PathState} (hn : n ≠ .down) (h : (s.path p).state ≠ n) :
    s.onPath p (PathRec.enter n s.now) = s.moved p n := by
  have hrecord := enter_eq_movesTo n s.now (s.path p) h
  unfold State.moved PathRec.changed Forwarding.changed
  rw [if_neg hn]
  simp only [if_neg hn]
  cases p with
  | fibre => exact congrArg (fun r => { s with fibre := r }) hrecord
  | radio => exact congrArg (fun r => { s with radio := r }) hrecord

/-! ## What only one path has -/

/-- The return delay, the grade state and the drill after a change, by the path. -/
def State.sighted (s : State) (p : Path) (was is : PathState) : State :=
  match p with
  | .fibre => { s with steer := s.steer.sees s.now was is }
  | .radio => { s with
      grade := if was = .down then GradeState.start else s.grade,
      drill := if is = .up ∧ s.drill.running = true then s.drillEnded .pass .radioUp else s.drill }

theorem pathSees_onlyEv (p : Path) (was is : PathState) (w : Work) :
    (w.st.sighted p was is).OnlyEv (pathSees p was is w).st := by
  cases p with
  | fibre =>
    show State.OnlyEv _ (returnSees was is w).st
    rw [returnSees_onlySteer]
    exact State.OnlyEv.refl _
  | radio =>
    have hdrill : ∀ v : Work, ({ v.st with
        drill := if is = .up ∧ v.st.drill.running = true then v.st.drillEnded .pass .radioUp else v.st.drill }
          : State).OnlyEv (if is = .up then endDrill .pass .radioUp v else v).st := by
      intro v
      by_cases hup : is = .up
      · by_cases hrun : v.st.drill.running = true
        · rw [if_pos ⟨hup, hrun⟩, if_pos hup]
          exact endDrill_onlyEv _ _ v hrun
        · rw [if_neg (fun h => hrun h.2), if_pos hup, endDrill_idle _ _ v (by simpa using hrun)]
          exact State.OnlyEv.refl _
      · rw [if_neg (fun h => hup h.1), if_neg hup]
        exact State.OnlyEv.refl _
    unfold pathSees State.sighted
    dsimp only
    by_cases hdown : was = .down
    · rw [if_pos hdown, if_pos hdown]
      exact hdrill (w.onGrade fun _ => GradeState.start)
    · rw [if_neg hdown, if_neg hdown]
      exact hdrill w

/-! ## The whole change -/

/-- What a path's change to this state makes of a state. -/
def State.changed (s : State) (p : Path) (n : PathState) : State :=
  ({ s.moved p n with hold := s.hold.sees s.now p (s.path p).state n } : State).sighted p (s.path p).state n

theorem sighted_ev (s : State) (e : EventUnit) (p : Path) (was is : PathState) :
    ({ s with ev := e } : State).sighted p was is = { s.sighted p was is with ev := e } := by
  cases p <;> rfl

theorem sighted_unit (s : State) (p : Path) (was is : PathState) : (s.sighted p was is).ev = s.ev := by
  cases p <;> rfl

theorem setPathState_same {p : Path} {n : PathState} {w : Work} (h : (w.st.path p).state = n) :
    setPathState p n w = w := if_pos h

theorem State.OnlyEv.clk {s t : State} (h : s.OnlyEv t) : t.clk = s.clk := by
  obtain ⟨e, -, rfl⟩ := h
  rfl

theorem moved_keeps (s : State) (p : Path) (n : PathState) :
    (s.moved p n).hold = s.hold ∧ (s.moved p n).clk = s.clk := by
  cases p <;> exact ⟨rfl, rfl⟩

/-- The path's own part of a change, with what the entry into DOWN brings. -/
def movePath (p : Path) (n : PathState) (w : Work) : Work :=
  let w := w.onPath p (PathRec.enter n w.now)
  if n = .down then enterDown p w else w

theorem movePath_onlyEv (p : Path) {n : PathState} (w : Work) (h : (w.st.path p).state ≠ n) :
    (w.st.moved p n).OnlyEv (movePath p n w).st := by
  unfold movePath
  dsimp only
  by_cases hn : n = .down
  · subst hn
    rw [if_pos rfl]
    exact enterDown_onlyEv p w h
  · rw [if_neg hn, ← moved_of_ne_down w.st p hn h]
    exact State.OnlyEv.refl _

theorem setPathState_eq (p : Path) {n : PathState} (w : Work) (h : (w.st.path p).state ≠ n) : setPathState p n w =
    ((pathSees p (w.st.path p).state n (handConditions (latch (changeBit p)
      (holdSees p (w.st.path p).state n (movePath p n w))))).touch (.path p)).owePass := if_neg h

theorem setPathState_onlyEv (p : Path) {n : PathState} (w : Work) (h : (w.st.path p).state ≠ n) :
    (w.st.changed p n).OnlyEv (setPathState p n w).st := by
  rw [setPathState_eq p w h, owePass_st, touch_st]
  have hmoved := movePath_onlyEv p w h
  obtain ⟨hhold, hclk⟩ := moved_keeps w.st p n
  generalize movePath p n w = v at hmoved
  have hsees := holdSees_onlyEv p v h
  have hnow : v.now = w.now := congrArg Clock.ms (hmoved.clk.trans hclk)
  rw [hmoved.hold, hhold, hnow] at hsees
  have hheld : ({ w.st.moved p n with hold := w.st.hold.sees w.now p (w.st.path p).state n } : State).OnlyEv
      (handConditions (latch (changeBit p) (holdSees p (w.st.path p).state n v))).st :=
    ((hmoved.map (f := fun s => { s with hold := w.st.hold.sees w.now p (w.st.path p).state n }) (fun _ _ => rfl)
      fun _ => rfl).trans hsees).trans ((latch_onlyEv _ _).trans (handConditions_onlyEv _))
  exact (hheld.map (f := fun s => s.sighted p (w.st.path p).state n) (fun s e => sighted_ev s e p _ n)
    fun s => sighted_unit s p _ n).trans (pathSees_onlyEv p _ n _)

end Sys2Proof.Machine
end


section
/-! What a change of a path's state latches; a physical loss, and the leaving of SESSION, as functions of states (R31,
R38, R47, R61, R125). -/

namespace Sys2Proof.Machine

/-! ## What a change latches (R38) -/

theorem closedLatched (m : Word) : Closed True True True True True True (latched m) :=
  closed_latched True True True True True m

theorem endHold_latched {reason : HoldEnd} {w : Work} (h : w.st.hold.active = true) (hl : reason.latches = true) :
    latched (bitMask 10) (endHold reason w).st := by
  unfold endHold
  rw [if_pos h]
  dsimp only
  rw [if_pos hl, owePass_st, touch_st]
  exact handConditions_latched (latch_latched 10 _)

/-- A hold that a change ends has broken. -/
theorem holdSees_latched {p : Path} {was is : PathState} {w : Work} (h : w.st.hold.active = true)
    (hends : (holdSees p was is w).st.hold.active = false) : latched (bitMask 10) (holdSees p was is w).st := by
  have hbreak : latched (bitMask 10) (endHold .broken w).st := endHold_latched h rfl
  have hself : w.st.hold.active = false → latched (bitMask 10) w.st := fun hno => absurd (h.symm.trans hno) (by decide)
  unfold holdSees at hends ⊢
  split at hends
  · rename_i hactive
    rw [if_pos hactive]
    cases p
    · dsimp only at hends ⊢
      split at hends
      · rename_i hc
        rw [if_pos hc]
        exact hbreak
      · exact absurd (h.symm.trans hends) (by decide)
    · dsimp only at hends ⊢
      split at hends
      · exact absurd (h.symm.trans hends) (by decide)
      · split at hends
        · rename_i hu hc
          rw [if_neg hu, if_pos hc]
          exact hbreak
        · exact absurd (h.symm.trans hends) (by decide)
  · exact absurd (h.symm.trans hends) (by decide)

/-- What is latched before the path's own sights stays latched. -/
theorem seen_latched {m : Word} {p : Path} {was n : PathState} {v : Work} (h : latched m v.st) :
    latched m ((pathSees p was n (handConditions (latch (changeBit p) v))).touch (.path p)).owePass.st := by
  have C := closedLatched m
  exact C.owePass _ (C.touch _ _ (C.pathSees p (Or.inr trivial) _ _ _ (Or.inl (Or.inl trivial))
    (C.handConditions _ (C.latch _ _ h))))

theorem setPathState_latched_change {p : Path} {n : PathState} {w : Work} (h : (w.st.path p).state ≠ n) :
    latched (bitMask (changeBit p)) (setPathState p n w).st := by
  have C := closedLatched (bitMask (changeBit p))
  rw [setPathState_eq p w h]
  exact C.owePass _ (C.touch _ _ (C.pathSees p (Or.inr trivial) _ _ _ (Or.inl (Or.inl trivial))
    (C.handConditions _ (latch_latched _ _))))

theorem settle_latched {p : Path} {w : Work} (h : (w.st.path p).ready = true) : latched (bitMask 15) (settle p w).st := by
  rw [settle_eq]
  unfold noteReady
  rw [if_neg]
  · exact latch_latched 15 _
  · rw [h]
    cases p <;> exact nofun

theorem enterDown_latched {p : Path} {w : Work} (h : (w.st.path p).ready = true) :
    latched (bitMask 15) (enterDown p w).st := by
  cases p with
  | fibre => exact (closedLatched _).flushQueue .fibre _ (settle_latched h)
  | radio => exact settle_latched h

/-- DOWN leaves no measure-ready window. -/
theorem setPathState_latched_ready {p : Path} {w : Work} (h : (w.st.path p).state ≠ .down)
    (hready : (w.st.path p).ready = true) : latched (bitMask 15) (setPathState p .down w).st := by
  have hentered : ((w.onPath p (PathRec.enter .down w.now)).st.path p).ready = true := by
    rw [onPath_path]
    exact hready
  rw [setPathState_eq p w h]
  refine seen_latched ((closedLatched _).holdSees p (Or.inr trivial) _ _ _ ?_)
  exact enterDown_latched hentered

theorem sighted_hold (s : State) (p : Path) (was is : PathState) : (s.sighted p was is).hold = s.hold := by
  cases p <;> rfl

theorem changed_hold (s : State) (p : Path) (n : PathState) :
    (s.changed p n).hold = s.hold.sees s.now p (s.path p).state n := sighted_hold _ _ _ _

theorem setPathState_hold (p : Path) {n : PathState} (w : Work) (h : (w.st.path p).state ≠ n) :
    (setPathState p n w).st.hold = w.st.hold.sees w.now p (w.st.path p).state n :=
  (setPathState_onlyEv p w h).hold.trans (changed_hold _ _ _)

theorem setPathState_latched_hold {p : Path} {n : PathState} {w : Work} (h : w.st.hold.active = true)
    (hends : (setPathState p n w).st.hold.active = false) : latched (bitMask 10) (setPathState p n w).st := by
  by_cases hne : (w.st.path p).state = n
  · rw [setPathState_same hne] at hends
    exact absurd (h.symm.trans hends) (by decide)
  · obtain ⟨hhold, hclk⟩ := moved_keeps w.st p n
    have hmoved := movePath_onlyEv p w hne
    have hnow : (movePath p n w).now = w.now := congrArg Clock.ms (hmoved.clk.trans hclk)
    have hsame : (movePath p n w).st.hold = w.st.hold := hmoved.hold.trans hhold
    rw [setPathState_hold p w hne, ← hsame, ← hnow, ← holdSees_hold p _ _ _ hne] at hends
    rw [setPathState_eq p w hne]
    exact seen_latched (holdSees_latched (hsame ▸ h) hends)

theorem endDrill_latched {o : DrillOutcome} {k : DrillCause} {w : Work} (h : w.st.drill.running = true) :
    latched (bitMask 11) (endDrill o k w).st := by
  rw [endDrill_eq _ _ w h, endedWork_st]
  exact handConditions_latched (latch_latched 11 _)

theorem pathSees_latched_drill {was : PathState} {w : Work} (h : w.st.drill.running = true) :
    latched (bitMask 11) (pathSees .radio was .up w).st := by
  unfold pathSees
  dsimp only
  rw [if_pos rfl]
  split
  · exact endDrill_latched h
  · exact endDrill_latched h

theorem movePath_drill (n : PathState) {w : Work} (h : (w.st.path .radio).state ≠ n) :
    (movePath .radio n w).st.drill = w.st.drill :=
  (movePath_onlyEv .radio w h).drill

theorem beforeSees_drill {n : PathState} {w : Work} (h : (w.st.path .radio).state ≠ n) :
    (handConditions (latch (changeBit .radio)
      (holdSees .radio (w.st.path .radio).state n (movePath .radio n w)))).st.drill = w.st.drill :=
  ((((holdSees_onlyEv .radio (movePath .radio n w) h).trans (latch_onlyEv (changeBit .radio) _)).trans
    (handConditions_onlyEv _)).drill).trans (movePath_drill n h)

/-- A drill that runs when the radio path becomes UP ends. -/
theorem setPathState_latched_drill {w : Work} (h : (w.st.path .radio).state ≠ .up) (hrun : w.st.drill.running = true) :
    latched (bitMask 11) (setPathState .radio .up w).st := by
  have hdrill := beforeSees_drill h
  rw [setPathState_eq .radio w h, owePass_st, touch_st]
  exact pathSees_latched_drill (by rw [hdrill]; exact hrun)

/-! ## Causes and losses (R31, R47) -/

/-- A cause offered to a path's record, with the snapshot of the state as it stands. -/
def State.offered (s : State) (p : Path) (k : Cause) : State :=
  s.onPath p fun r => { r with cause := r.cause.afterOffer r.lockFirst k (snapshotOf s p) }

theorem offerCause_onlyEv (p : Path) (k : Cause) (w : Work) : (w.st.offered p k).OnlyEv (offerCause p k w).st := by
  have hst : (w.onPath p fun r => { r with cause := r.cause.offered r.lockFirst k (snapshotOf w.st p) }).st
      = w.st.offered p k := by
    simp only [offered_eq_afterOffer]
    rfl
  unfold offerCause
  dsimp only
  split
  · rw [← hst]
    exact latch_onlyEv _ _
  · rw [hst]
    exact State.OnlyEv.refl _

theorem writes_iff (c : CauseRecord) (lock : Bool) (k : Cause) : c.writes lock k = true ↔ c.offerWrites lock k := by
  unfold CauseRecord.writes CauseRecord.offerWrites moreSignificant
  cases c.valid <;> cases lock <;> cases c.cause <;> simp [rank_eq_code]

theorem offerCause_latched {p : Path} {k : Cause} {w : Work}
    (h : (w.st.path p).cause.offerWrites (w.st.path p).lockFirst k) : latched (bitMask 12) (offerCause p k w).st := by
  unfold offerCause
  dsimp only
  rw [if_pos ((writes_iff _ _ _).mpr h)]
  exact latch_latched 12 _

/-- The return delay after a path has gone to this state. -/
def State.steerAfter (s : State) (p : Path) (n : PathState) : Steering :=
  match p with
  | .fibre => s.steer.sees s.now s.fibre.state n
  | .radio => s.steer

/-- What a physical loss makes of a state whose path is not DOWN. -/
def State.goneDown (s : State) (p : Path) : State :=
  { s.onPath p (PathRec.lostIn s p) with
    fwd := s.fwd.changed p .down, hold := s.hold.sees s.now p (s.path p).state .down, steer := s.steerAfter p .down }

/-- What a physical loss makes of a state. -/
def State.lost (s : State) (p : Path) : State := if (s.path p).state = .down then s else s.goneDown p

theorem lost_of_down {s : State} {p : Path} (h : (s.path p).state = .down) : s.lost p = s := if_pos h

theorem lost_of_ne {s : State} {p : Path} (h : (s.path p).state ≠ .down) : s.lost p = s.goneDown p := if_neg h

/-- The penalty and the cause of a loss of a usable path. -/
def State.blamed (s : State) (p : Path) : State :=
  if (s.path p).state.usable then (s.onPath p (PathRec.penalize 1000)).offered p .physical else s

def blame (p : Path) (w : Work) : Work :=
  if (w.st.path p).state.usable then offerCause p .physical (w.onPath p (PathRec.penalize 1000)) else w

theorem blame_onlyEv (p : Path) (w : Work) : (w.st.blamed p).OnlyEv (blame p w).st := by
  unfold State.blamed blame
  by_cases h : (w.st.path p).state.usable = true
  · rw [if_pos h, if_pos h]
    exact offerCause_onlyEv p .physical (w.onPath p (PathRec.penalize 1000))
  · rw [if_neg h, if_neg h]
    exact State.OnlyEv.refl _

theorem physicalLoss_down {p : Path} {w : Work} (h : (w.st.path p).state = .down) : physicalLoss p w = w := if_pos h

theorem physicalLoss_eq {p : Path} {w : Work} (h : (w.st.path p).state ≠ .down) :
    physicalLoss p w = setPathState p .down (blame p w) := if_neg h

theorem path_onPath (s : State) (p : Path) (f : PathRec → PathRec) : (s.onPath p f).path p = f (s.path p) := by
  cases p <;> rfl

theorem snapshotOf_penalize (s : State) (p : Path) (n : Nat) : snapshotOf (s.onPath p (PathRec.penalize n)) p =
    { snapshotOf s p with penalty := min Config.penaltyMax ((s.path p).penalty + n) } := by
  cases p <;> rfl

theorem blamed_path (s : State) (p : Path) : (s.blamed p).path p =
    if (s.path p).state.usable then { s.path p with
      penalty := min Config.penaltyMax ((s.path p).penalty + 1000),
      cause := (s.path p).cause.afterOffer (s.path p).lockFirst .physical
        { snapshotOf s p with penalty := min Config.penaltyMax ((s.path p).penalty + 1000) } }
    else s.path p := by
  have hoffered : ∀ n, ((s.onPath p (PathRec.penalize n)).offered p .physical).path p = { s.path p with
      penalty := min Config.penaltyMax ((s.path p).penalty + n),
      cause := (s.path p).cause.afterOffer (s.path p).lockFirst .physical
        { snapshotOf s p with penalty := min Config.penaltyMax ((s.path p).penalty + n) } } := by
    intro n
    unfold State.offered
    rw [path_onPath, path_onPath, snapshotOf_penalize]
    rfl
  unfold State.blamed
  split
  · exact hoffered 1000
  · rfl

theorem snapshotOf_eq (s : State) (p : Path) : snapshotOf s p =
    { time := s.now, before := some (s.path p).state,
      h := if (s.path p).linkOnly = true ∨ s.exch.service ≠ .service then 1000 else (s.path p).score,
      n := (s.path p).window.length, l := ((s.path p).window.filter fun x => x.rtt.isNone).length, s := (s.path p).s,
      grade := (match p with | .fibre => 0 | .radio => s.grade.scoring),
      gradeValid := (match p with | .fibre => false | .radio => s.grade.valid), penalty := (s.path p).penalty } := by
  rw [← reported_if]
  cases p <;> rfl

theorem movesTo_of_ne {n : PathState} {now : Time} {r : PathRec} (h : r.state ≠ n) : r.movesTo now n = { r with
    state := n, failCount := if (r.state = .up ∨ r.state = .weak) ∧ (n = .up ∨ n = .weak) then r.failCount else 0,
    usableSince := if ¬(r.state = .up ∨ r.state = .weak) ∧ (n = .up ∨ n = .weak) then now else r.usableSince,
    usableFlag := decide (n = .up ∨ n = .weak) } := if_neg h

theorem changed_blamed (now : Time) (r : PathRec) (n : Nat) (c : CauseRecord) (h : r.state ≠ .down) :
    PathRec.changed now .down { r with penalty := n, cause := c } =
      { r.settled.movesTo now .down with penalty := n, cause := c } := by
  have hsettled : ({ r with penalty := n, cause := c } : PathRec).settled.state ≠ .down := h
  show PathRec.movesTo now .down ({ r with penalty := n, cause := c } : PathRec).settled = _
  rw [movesTo_of_ne hsettled, movesTo_of_ne (show r.settled.state ≠ .down from h)]
  rfl

/-- The record of a path that a physical loss takes DOWN. -/
theorem blamed_changed (s : State) (p : Path) (h : (s.path p).state ≠ .down) :
    PathRec.changed s.now .down ((s.blamed p).path p) = (s.path p).lostIn s p := by
  unfold PathRec.lostIn
  dsimp only
  rw [if_neg h, blamed_path]
  by_cases hu : (s.path p).state.usable = true
  · rw [if_pos hu, if_pos ((usable_iff _).mp hu), changed_blamed _ _ _ _ h, snapshotOf_eq]
    rfl
  · rw [if_neg hu, if_neg (fun h => hu ((usable_iff _).mpr h))]
    rfl

theorem blamed_state (s : State) (p : Path) : ((s.blamed p).path p).state = (s.path p).state := by
  rw [blamed_path]
  split <;> rfl

theorem changed_ev (s : State) (e : EventUnit) (p : Path) (n : PathState) :
    ({ s with ev := e } : State).changed p n = { s.changed p n with ev := e } := by
  cases p <;> rfl

theorem changed_unit (s : State) (p : Path) (n : PathState) : (s.changed p n).ev = s.ev := by
  cases p <;> rfl

theorem onPath_onPath (s : State) (p : Path) (f g : PathRec → PathRec) :
    (s.onPath p f).onPath p g = s.onPath p fun r => g (f r) := by
  cases p <;> rfl

theorem onPath_const (s : State) (p : Path) (f : PathRec → PathRec) :
    s.onPath p f = s.onPath p fun _ => (s.onPath p f).path p := by
  cases p <;> rfl

/-- A loss changes its path's record alone before the path goes DOWN. -/
theorem blamed_eq (s : State) (p : Path) : s.blamed p = s.onPath p fun _ => (s.blamed p).path p := by
  have hoffered : ∀ n, (s.onPath p (PathRec.penalize n)).offered p .physical = s.onPath p fun _ =>
      ((s.onPath p (PathRec.penalize n)).offered p .physical).path p := by
    intro n
    unfold State.offered
    rw [onPath_onPath]
    exact onPath_const _ _ _
  unfold State.blamed
  split
  · exact hoffered 1000
  · cases p <;> rfl

theorem changed_onPath (s : State) (p : Path) (r : PathRec) (hdown : (s.path p).state ≠ .down)
    (h : r.state = (s.path p).state) : (s.onPath p fun _ => r).changed p .down =
      { s.onPath p (fun _ => PathRec.changed s.now .down r) with
        fwd := s.fwd.changed p .down, hold := s.hold.sees s.now p (s.path p).state .down,
        steer := s.steerAfter p .down } := by
  cases p with
  | fibre =>
    show _ = { s with
      fibre := PathRec.changed s.now .down r, fwd := s.fwd.changed .fibre .down,
      hold := s.hold.sees s.now .fibre s.fibre.state .down, steer := s.steer.sees s.now s.fibre.state .down }
    rw [← show r.state = s.fibre.state from h]
    rfl
  | radio =>
    have hgrade : (if r.state = PathState.down then GradeState.start else s.grade) = s.grade := if_neg (h ▸ hdown)
    have hdrill : ∀ d : Drill, (if PathState.down = PathState.up ∧ s.drill.running = true then d else s.drill) = s.drill :=
      fun d => if_neg nofun
    show { s with
      radio := PathRec.changed s.now .down r, fwd := s.fwd.changed .radio .down,
      hold := s.hold.sees s.now .radio r.state .down,
      grade := if r.state = PathState.down then GradeState.start else s.grade,
      drill := if PathState.down = PathState.up ∧ s.drill.running = true then
        ({ (s.onPath .radio fun _ => r).moved .radio .down with
          hold := s.hold.sees s.now .radio r.state .down } : State).drillEnded .pass .radioUp else s.drill } = _
    rw [hgrade, hdrill, show r.state = s.radio.state from h]
    rfl

theorem blamed_goesDown (s : State) (p : Path) (h : (s.path p).state ≠ .down) :
    (s.blamed p).changed p .down = s.lost p := by
  rw [lost_of_ne h, blamed_eq, changed_onPath _ _ _ h (blamed_state _ _), blamed_changed _ _ h]
  cases p <;> rfl

theorem physicalLoss_onlyEv (p : Path) (w : Work) : (w.st.lost p).OnlyEv (physicalLoss p w).st := by
  by_cases h : (w.st.path p).state = .down
  · rw [lost_of_down h, physicalLoss_down h]
    exact State.OnlyEv.refl _
  · have hblame := blame_onlyEv p w
    have hstate : ((blame p w).st.path p).state ≠ .down := by
      obtain ⟨e, -, hst⟩ := hblame
      rw [hst, show ({ w.st.blamed p with ev := e } : State).path p = (w.st.blamed p).path p by cases p <;> rfl,
        blamed_state]
      exact h
    rw [← blamed_goesDown _ _ h, physicalLoss_eq h]
    exact (hblame.map (f := fun s => s.changed p .down) (fun s e => changed_ev s e p _) fun s => changed_unit s p _).trans
      (setPathState_onlyEv p (blame p w) hstate)

end Sys2Proof.Machine
end


section
/-! Where a steering pass leaves classes and flows, which everything that the event does after the pass leaves there
(R81, R82, R84 to R88, R106). -/

namespace Sys2Proof.Machine

/-! ## The class step and the flow step as functions of states -/

theorem takePath_cur (now : Time) (n : ClassPath) (c : ClassRec) : (c.takePath now n).cur = n := by
  unfold ClassRec.takePath
  split
  · assumption
  · rfl

/-- The classes after the class step. -/
def State.decided (s : State) : List ClassRec := s.classes.map fun c => c.takePath s.now (decideClass s c)

theorem classStep_st (w : Work) :
    ∃ e, w.st.ev.sameLoss e ∧ (classStep w).st = { w.st with classes := w.st.decided, ev := e } := by
  unfold classStep
  dsimp only
  split
  · exact ⟨w.st.ev, EventUnit.sameLoss.refl _, rfl⟩
  · exact ⟨_, latch_sameLoss (i := Bit.classMove) (by decide) (by decide) w, rfl⟩

theorem decided_policy (s : State) : s.decided.map ClassRec.policy = s.classes.map ClassRec.policy :=
  map_map_keep _ _ (fun c => Closed.takePath_policy _ _ c) _

theorem getD_of_map {α β : Type} {g : α → β} {l l' : List α} (h : l'.map g = l.map g) (i : Nat) (d : α) :
    g (l'.getD i d) = g (l.getD i d) := by
  calc g (l'.getD i d) = (l'.map g).getD i (g d) := (List.getD_map _ _ g).symm
    _ = (l.map g).getD i (g d) := by rw [h]
    _ = g (l.getD i d) := List.getD_map _ _ g

/-- The class record with this number after the class step. -/
def State.decidedCls (s : State) (i : Nat) : ClassRec := s.decided.getD i (ClassRec.initial 3 false)

/-- The flows after the flow step. -/
def State.followed (s : State) : List FlowRec := s.flows.map fun f => followClass s (s.decidedCls f.cls).cur f

theorem flowStep_st (w : Work) : ∃ e, w.st.ev.sameLoss e ∧
    (flowStep w.st (classStep w)).st = { w.st with classes := w.st.decided, flows := w.st.followed, ev := e } := by
  obtain ⟨e, hsame, he⟩ := classStep_st w
  refine ⟨e, hsame, ?_⟩
  show { (classStep w).st with
    flows := (classStep w).st.flows.map fun f : FlowRec => followClass w.st ((classStep w).st.cls f.cls).cur f } = _
  rw [he]
  rfl

/-! ## What is settled for one class and for one flow -/

/-- The path of a class that the pass leaves on fibre or nowhere. -/
def State.lastPath (s : State) : ClassPath := if s.fibre.state = .up ∨ s.fibre.state = .weak then .fibre else .blocked

theorem fibreOrBlock_eq (s : State) : s.fibreOrBlock = s.lastPath := by
  unfold State.fibreOrBlock State.lastPath
  by_cases h : s.fibre.state = .up ∨ s.fibre.state = .weak
  · rw [if_pos h, if_pos ((fibreUsable_iff s).mpr h)]
  · rw [if_neg h, if_neg (fun hu => h ((fibreUsable_iff s).mp hu))]

/-- What a pass has settled for a class. -/
def State.settlesClass (s : State) (free : Prop) (c : ClassRec) : Prop :=
  let fibreHold := s.hold.active = true ∧ s.hold.path = some .fibre
  (s.exch.service ≠ .service → c.cur = s.lastPath)
    ∧ (s.exch.service = .service → fibreHold → c.cur = .fibre)
    ∧ (s.exch.service = .service → ¬fibreHold → s.keepsFromRadio c → c.cur = s.lastPath)
    ∧ (s.exch.service = .service → free → s.steer.ret = .passed →
        (s.fibre.state = .up ∨ (s.fibre.state = .weak ∧ c.use ≠ .failoverWeak)) → c.cur = .fibre)

/-- What a pass has settled for a flow. -/
def State.settlesFlow (s : State) (f : FlowRec) : Prop :=
  f.state.live = true → f.cls < s.classes.length → (s.cls f.cls).atIdle = false →
    f.pinned = false ∧ f.state = (s.cls f.cls).cur.flowState

theorem steered_iff (s : State) (free : Prop) :
    s.steered free ↔ (∀ c ∈ s.classes, s.settlesClass free c) ∧ ∀ f ∈ s.flows, s.settlesFlow f := by
  have hpath : ∀ p : ClassPath, p.flowState = (match p with
      | .fibre => FlowState.carried .fibre | .radio => .carried .radio | .waiting => .waiting | .blocked => .blocked) := by
    intro p
    cases p <;> rfl
  unfold State.steered State.settlesFlow
  simp only [hpath]
  exact Iff.rfl

theorem not_permits {s : State} {c : ClassRec} (h : s.keepsFromRadio c) : s.permits c = false := by
  unfold State.keepsFromRadio at h
  unfold State.permits supplyBlocks
  rcases h with huse | ⟨htier, hkeeps⟩
  · simp [huse]
  · have hblocks : (!stageBlocks s.allow.stage s.allow.hardCap c.tier && !supplyBlocks s.sup.state c.tier
        && (decide (s.sup.state = .mains) || c.permit)) = false := by
      unfold supplyBlocks
      rcases hkeeps with ⟨hmains, hpermit⟩ | hcritical | ⟨hlow, h2⟩ | ⟨hbattery, h3⟩
      · simp [hmains, hpermit]
      · simp [hcritical, Nat.one_le_iff_ne_zero.mpr htier]
      · simp [hlow, h2]
      · simp [hbattery, h3]
    unfold supplyBlocks at hblocks
    rw [hblocks]
    simp [htier]

/-- The class decision where no hold is active and fibre fits, with the return delay passed. -/
theorem decideFree_fits {s : State} {c : ClassRec} (hret : s.steer.ret = .passed) (hfits : s.fits c = true) :
    decideFree s c = .fibre := by
  unfold decideFree
  rw [hfits, hret]
  cases c.cur.wantsRadio <;> rfl

theorem fits_lastPath {s : State} {c : ClassRec} (h : s.fits c = true) : s.lastPath = .fibre := by
  unfold State.fits at h
  unfold State.lastPath
  cases hs : s.fibre.state <;> simp_all

theorem decideFree_kept {s : State} {c : ClassRec} (h : s.permits c = false) : decideFree s c = s.lastPath := by
  unfold decideFree
  rw [h, fibreOrBlock_eq]
  by_cases hfits : s.fits c = true
  · rw [fits_lastPath hfits]
    split
    · rfl
    · split <;> rfl
  · rw [if_neg (fun h => hfits (Bool.and_eq_true_iff.mp h).2), if_neg, if_neg (by decide)]
    intro h
    exact hfits (Bool.and_eq_true_iff.mp (Bool.and_eq_true_iff.mp h).1).2

theorem fits_of {s : State} {c : ClassRec} (h : s.fibre.state = .up ∨ (s.fibre.state = .weak ∧ c.use ≠ .failoverWeak)) :
    s.fits c = true := by
  unfold State.fits
  rcases h with h | ⟨h, huse⟩
  · rw [h]
  · rw [h]
    exact decide_eq_true huse

/-- A class on the path that the decision gave it is settled. -/
theorem decideClass_settles {s : State} {c c' : ClassRec} (hpolicy : c'.policy = c.policy)
    (hcur : c'.cur = decideClass s c) : s.settlesClass (s.hold.active = false) c' := by
  have huse : c'.use = c.use := (congrArg ClassRec.use hpolicy :)
  have hkeeps : s.keepsFromRadio c' → s.keepsFromRadio c := by
    have htier : c'.tier = c.tier := (congrArg ClassRec.tier hpolicy :)
    have hpermit : c'.permit = c.permit := (congrArg ClassRec.permit hpolicy :)
    unfold State.keepsFromRadio
    rw [huse, htier, hpermit]
    exact id
  unfold State.settlesClass
  dsimp only
  rw [hcur, huse]
  unfold decideClass
  refine ⟨fun hs => ?outside, fun hs hhold => ?fibre, fun hs hhold hk => ?kept, fun hs hfree hret hfits => ?free⟩
  case outside => rw [if_pos hs, fibreOrBlock_eq]
  case fibre => rw [if_neg (not_not.mpr hs), if_pos hhold.1, hhold.2]
  case kept =>
    have hno := not_permits (hkeeps hk)
    rw [if_neg (not_not.mpr hs)]
    by_cases hactive : s.hold.active = true
    · rw [if_pos hactive]
      cases hpath : s.hold.path with
      | none => exact decideFree_kept hno
      | some p =>
        cases p with
        | fibre => exact absurd ⟨hactive, hpath⟩ hhold
        | radio =>
          dsimp only
          rw [hno, if_neg (by decide), fibreOrBlock_eq]
    · rw [if_neg hactive]
      exact decideFree_kept hno
  case free =>
    rw [if_neg (not_not.mpr hs), if_neg (by rw [hfree]; decide)]
    exact decideFree_fits hret (fits_of hfits)

/-- A flow that has followed its class is settled. -/
theorem followClass_settles {s : State} {new : ClassPath} {f : FlowRec} (hlive : (followClass s new f).state.live = true)
    (hidle : (s.cls f.cls).atIdle = false) :
    (followClass s new f).pinned = false ∧ (followClass s new f).state = new.flowState := by
  have hbecome : (f.become new.flowState).state = new.flowState := by
    unfold FlowRec.become
    split
    · assumption
    · cases new <;> rfl
  have hpinned : (f.become new.flowState).pinned = f.pinned := by
    unfold FlowRec.become
    split
    · rfl
    · cases new <;> rfl
  have hstays : staysPinned s (s.cls f.cls) new = false := by
    unfold staysPinned
    rw [hidle]
    rfl
  have hpins : mayPin s (s.cls f.cls) new f = false := by
    unfold mayPin
    rw [hidle]
    rfl
  unfold followClass at hlive ⊢
  dsimp only at hlive ⊢
  rw [hstays, hpins] at hlive ⊢
  cases hl : f.state.live with
  | false =>
    rw [hl] at hlive
    exact absurd (hl.symm.trans hlive) (by decide)
  | true =>
    cases hp : f.pinned with
    | true => exact ⟨rfl, hbecome⟩
    | false => exact ⟨hpinned.trans hp, hbecome⟩

theorem followClass_cls (s : State) (new : ClassPath) (f : FlowRec) : (followClass s new f).cls = f.cls :=
  (congrArg FlowRec.cls (Closed.followClass_identity s new f) :)

/-- Class step and flow step settle every class and flow. -/
theorem decided_steered (s : State) (e : EventUnit) :
    ({ s with classes := s.decided, flows := s.followed, ev := e } : State).steered (s.hold.active = false) := by
  rw [steered_iff]
  refine ⟨fun c' hc' => ?_, fun f' hf' hlive hcls hidle => ?_⟩
  · obtain ⟨c, -, rfl⟩ := List.mem_map.mp hc'
    exact decideClass_settles (Closed.takePath_policy _ _ c) (takePath_cur _ _ c)
  · obtain ⟨f, -, rfl⟩ := List.mem_map.mp hf'
    have hsame := followClass_cls s (s.decidedCls f.cls).cur f
    rw [hsame] at hidle ⊢
    have hpolicy : (s.decidedCls f.cls).policy = (s.cls f.cls).policy := getD_of_map (decided_policy s) f.cls _
    have hatIdle : (s.decidedCls f.cls).atIdle = (s.cls f.cls).atIdle := (congrArg ClassRec.atIdle hpolicy :)
    exact followClass_settles hlive (hatIdle.symm.trans hidle)

/-! ## What the event does after the pass -/

/-- The property that a pass establishes and that the rest of the event keeps. -/
def State.steeredOn (free : Prop) (s : State) : Prop := s.steered free ∧ (free → s.hold.active = false)

/-- What a class is settled by: state and record may change in all else. -/
theorem settlesClass_congr {s t : State} {free : Prop} {c c' : ClassRec} (hservice : t.exch.service = s.exch.service)
    (hfibre : t.fibre.state = s.fibre.state) (hret : t.steer.ret = s.steer.ret) (hsup : t.sup.state = s.sup.state)
    (hhold : (t.hold.active = true ∧ t.hold.path = some .fibre) ↔ (s.hold.active = true ∧ s.hold.path = some .fibre))
    (hpolicy : c'.policy = c.policy) (hcur : c'.cur = c.cur) (h : s.settlesClass free c) : t.settlesClass free c' := by
  have huse : c'.use = c.use := (congrArg ClassRec.use hpolicy :)
  have htier : c'.tier = c.tier := (congrArg ClassRec.tier hpolicy :)
  have hpermit : c'.permit = c.permit := (congrArg ClassRec.permit hpolicy :)
  have hlast : t.lastPath = s.lastPath := by
    unfold State.lastPath
    rw [hfibre]
  unfold State.settlesClass State.keepsFromRadio at h ⊢
  dsimp only at h ⊢
  rw [hservice, hcur, huse, htier, hpermit, hsup, hret, hfibre, hlast, hhold]
  exact h

theorem map_pair {α β γ : Type} {f : α → β} {g : α → γ} {l l' : List α} (hf : l'.map f = l.map f)
    (hg : l'.map g = l.map g) : l'.map (fun a => (f a, g a)) = l.map fun a => (f a, g a) := by
  rw [← List.zip_map', ← List.zip_map', hf, hg]

theorem mem_of_map {α β γ : Type} {f : α → β} {g : α → γ} {l l' : List α} (hf : l'.map f = l.map f)
    (hg : l'.map g = l.map g) {a' : α} (h : a' ∈ l') : ∃ a ∈ l, f a' = f a ∧ g a' = g a := by
  have hmem : (f a', g a') ∈ l.map fun a => (f a, g a) := map_pair hf hg ▸ List.mem_map_of_mem h
  obtain ⟨a, ha, heq⟩ := List.mem_map.mp hmem
  exact ⟨a, ha, ((Prod.mk.injEq _ _ _ _).mp heq).1.symm, ((Prod.mk.injEq _ _ _ _).mp heq).2.symm⟩

theorem closed_steeredOn (free : Prop) : Closed False True False False True False (State.steeredOn free) where
  path := by
    intro s p f hp _ h
    obtain rfl : p = .radio := by simpa using hp
    exact h
  probe := fun h => h.elim
  grade := fun _ _ _ h => h
  ru := fun _ _ _ h => h
  ruEvent := fun _ _ _ _ h => h
  aim := fun _ _ _ _ _ h => h
  demand := fun _ _ _ _ h => h
  ret := fun h => h.elim
  classes := by
    intro s cs hpolicy hcur ⟨h, hfree⟩
    have hcur : cs.map ClassRec.cur = s.classes.map ClassRec.cur := hcur.resolve_left id
    have hlength : cs.length = s.classes.length := by simpa using congrArg List.length hpolicy
    obtain ⟨hclasses, hflows⟩ := (steered_iff _ _).mp h
    refine ⟨(steered_iff _ _).mpr ⟨fun c' hc' => ?_, fun f hf hlive hcls hidle => ?_⟩, hfree⟩
    · obtain ⟨c, hc, hp, hq⟩ := mem_of_map hpolicy hcur hc'
      exact settlesClass_congr rfl rfl rfl rfl Iff.rfl hp hq (hclasses c hc)
    · have hp : (({ s with classes := cs } : State).cls f.cls).policy = (s.cls f.cls).policy := getD_of_map hpolicy _ _
      have hq : (({ s with classes := cs } : State).cls f.cls).cur = (s.cls f.cls).cur := getD_of_map hcur _ _
      rw [hq]
      exact hflows f hf hlive (hlength ▸ hcls) ((congrArg ClassRec.atIdle hp :).symm.trans hidle)
  hold := by
    intro s x hs ⟨h, hfree⟩
    have hpath : x.path = s.hold.path := (congrArg Hold.path hs.settings :)
    obtain ⟨hclasses, hflows⟩ := (steered_iff _ _).mp h
    have hsame : (x.active = true ∧ x.path = some .fibre) ↔ (s.hold.active = true ∧ s.hold.path = some .fibre) := by
      rcases hs.goesOn with ⟨ha, -, -⟩ | ⟨-, ha, hF | ⟨-, hradio⟩⟩
      · rw [ha, hpath]
      · exact hF.elim
      · rw [hpath, hradio]
        simp
    refine ⟨(steered_iff _ _).mpr ⟨fun c hc => ?_, hflows⟩, fun hf => ?_⟩
    · exact settlesClass_congr (s := s) (c := c) rfl rfl rfl rfl hsame rfl rfl (hclasses c hc)
    · rcases hs.goesOn with ⟨ha, -, -⟩ | ⟨-, ha, -⟩
      · exact ha.trans (hfree hf)
      · exact ha
  flows := by
    intro s fs hidentity hcourse ⟨h, hfree⟩
    have hcourse : fs.map FlowRec.course = s.flows.map FlowRec.course := hcourse.resolve_left id
    obtain ⟨hclasses, hflows⟩ := (steered_iff _ _).mp h
    refine ⟨(steered_iff _ _).mpr ⟨hclasses, fun f' hf' => ?_⟩, hfree⟩
    obtain ⟨f, hf, hi, hc⟩ := mem_of_map hidentity hcourse hf'
    have hcls : f'.cls = f.cls := (congrArg FlowRec.cls hi :)
    have hstate : f'.state = f.state := (congrArg Prod.fst hc :)
    have hpinned : f'.pinned = f.pinned := (congrArg Prod.snd hc :)
    unfold State.settlesFlow
    rw [hcls, hstate, hpinned]
    exact hflows f hf
  free := fun h => h.elim
  fwd := fun _ _ _ h => h
  fwdEvent := fun h => h.elim
  allow := fun _ _ h => h
  drill := fun _ _ _ h => h
  ev := fun _ _ _ h => h
  fin := fun h => h.elim

theorem steered_mono {s : State} {p q : Prop} (hpq : q → p) (h : s.steered p) : s.steered q := by
  obtain ⟨hclasses, hflows⟩ := (steered_iff _ _).mp h
  refine (steered_iff _ _).mpr ⟨fun c hc => ?_, hflows⟩
  obtain ⟨houtside, hfibre, hkept, hfree⟩ := hclasses c hc
  exact ⟨houtside, hfibre, hkept, fun hs hq => hfree hs (hpq hq)⟩

theorem steeringPass_steeredOn {free : Prop} {w : Work} (hfree : free → w.st.hold.active = false) :
    (steeringPass w).st.steeredOn free := by
  have C := closed_steeredOn free
  obtain ⟨e, -, he⟩ := flowStep_st w
  have hflow : (flowStep w.st (classStep w)).st.steeredOn free := by
    rw [he]
    exact ⟨steered_mono hfree (decided_steered w.st e), hfree⟩
  exact C.recomputeDemand trivial _ (C.drillStep _ (C.releaseStep _ _ (C.handConditions _ hflow)))

theorem runPasses_steeredOn {free : Prop} (n : Nat) {w : Work} (h : w.st.steeredOn free) :
    (runPasses n w).st.steeredOn free := by
  induction n generalizing w with
  | zero => exact h
  | succ n ih =>
    unfold runPasses
    split
    · exact ih (steeringPass_steeredOn (w := { w with passDue := false, demandDue := false }) h.2)
    · split
      · exact ih ((closed_steeredOn free).recomputeDemand trivial
          { w with demandDue := false } h)
      · exact h

/-- Passes that are owed settle classes and flows. -/
theorem passes_steeredOn {free : Prop} {w : Work} (hdue : w.passDue = true) (hfree : free → w.st.hold.active = false) :
    (passes w).st.steeredOn free := by
  show (runPasses (7 + 1) w).st.steeredOn free
  unfold runPasses
  rw [if_pos hdue]
  exact runPasses_steeredOn 7 (steeringPass_steeredOn (w := { w with passDue := false, demandDue := false }) hfree)

theorem content_maps {cs ds : List ClassRec} (h : cs.map ClassRec.content = ds.map ClassRec.content) :
    cs.map ClassRec.cur = ds.map ClassRec.cur := by
  have hcur := congrArg (List.map ClassRec.cur) h
  simp only [List.map_map] at hcur
  exact hcur

theorem content_course {fs gs : List FlowRec} (h : fs.map FlowRec.content = gs.map FlowRec.content) :
    fs.map FlowRec.course = gs.map FlowRec.course := by
  have hcourse := congrArg (List.map FlowRec.course) h
  simp only [List.map_map] at hcourse
  exact hcourse

theorem reported_steeredOn (free : Prop) : Reported (State.steeredOn free) where
  counts := fun _ _ h => h
  flowChanges := fun _ _ h => h
  classes := fun s cs hc h => (closed_steeredOn free).classes s cs (policy_of_content hc)
    (Or.inr (content_maps hc)) h
  flows := fun s fs hf h => (closed_steeredOn free).flows s fs (identity_of_content hf)
    (Or.inr (content_course hf)) h
  irq := fun _ _ h => h

theorem finish_steered {free : Prop} (s0 : State) {w : Work} (h : w.st.steeredOn free) : (finish s0 w).steered free :=
  ((reported_steeredOn free).finish (closed_steeredOn free) s0 w h).1

/-- An event whose own changes owe the pass settles classes and flows. -/
theorem event_steered {f : Work → Work} {s : State} {free : Prop} (hs : s.exch.service ≠ .init)
    (hdue : (f (Work.begin s)).passDue = true) (hfree : free → (f (Work.begin s)).st.hold.active = false) :
    (event f s).steered free := by
  unfold event
  rw [if_neg hs]
  exact finish_steered s (passes_steeredOn hdue hfree)

/-- An order whose own changes owe the pass settles classes and flows. -/
theorem takeKind_steered {kind i : Nat} {rest : List Nat} {s : State} {body : List Byte → Work → Answered} {free : Prop}
    (hoffers : s.offersKind kind i rest) (hdue : (body (slotParams s.mem i) (Work.begin s)).work.passDue = true)
    (hfree : free → (body (slotParams s.mem i) (Work.begin s)).work.st.hold.active = false) :
    (takeKind kind body s).steered free := by
  rw [takeKind_eq kind body s i rest hoffers]
  exact finish_steered s (passes_steeredOn hdue hfree)

end Sys2Proof.Machine
end


section
/-! The link side of a state: the radio unit, the radio path, the hold and the grade state. A steering pass touches it
only where demand moves the radio unit, and then leaves SESSION at most once (R31, R61, R87, R95). -/

namespace Sys2Proof.Machine

/-! ## What a pass does before demand is recomputed -/

/-- The count of a path's flushed frames. -/
def Forwarding.flushed (f : Forwarding) : Path → Nat
  | .fibre => f.counts.fibreFlush
  | .radio => f.counts.radioFlush

/-- The binding to a path. -/
def boundTo : Path → ClassPath
  | .fibre => .fibre
  | .radio => .radio

/-- The properties that classes, flows, the allowance meter and the drill unit do not enter, nor the event unit but for
the end of a hold and a cause latched, nor the counts of flushed frames, nor, but where `R` holds, a path's queue. -/
structure Linkless (R : Path → Prop) (P : State → Prop) : Prop where
  classes : ∀ s x, P s → P { s with classes := x }
  flows : ∀ s x, P s → P { s with flows := x }
  allow : ∀ s x, P s → P { s with allow := x }
  drill : ∀ s x, P s → P { s with drill := x }
  ev : ∀ s e, s.ev.sameLoss e → P s → P { s with ev := e }
  counts : ∀ s x, P s → P { s with counts := x }
  flowChanges : ∀ s n, P s → P { s with exch := { s.exch with flowChanges := n } }
  fwd : ∀ s f, (∀ p, f.flushed p = s.fwd.flushed p ∧ (R p ∨ f.queue p = s.fwd.queue p)) → P s → P { s with fwd := f }

namespace Linkless

variable {R : Path → Prop} {P : State → Prop} (H : Linkless R P)
include H

theorem latch {i : Nat} (h10 : i ≠ 10) (h12 : i ≠ 12) (w : Work) (h : P w.st) : P (latch i w).st :=
  H.ev w.st _ (latch_sameLoss h10 h12 w) h

theorem handConditions (w : Work) (h : P w.st) : P (handConditions w).st := by
  have hsame := handConditions_sameLoss w
  obtain ⟨e, he⟩ := handConditions_only w
  rw [he] at hsame ⊢
  exact H.ev w.st e hsame h

theorem restage (w : Work) (h : P w.st) : P (restage w).st := by
  have h1 : P (w.onAllow Allowance.restaged).st := H.allow _ _ h
  have hlatch : ∀ v : Work, P v.st → P (Machine.latch Bit.stageChange v).owePass.st := fun v hv =>
    H.latch (i := Bit.stageChange) (by decide) (by decide) v hv
  have hover : ∀ v : Work, P v.st → P (Machine.latch Bit.overrun v).st := fun v hv =>
    H.latch (i := Bit.overrun) (by decide) (by decide) v hv
  have h2 : P (if w.st.allow.liveNow && !w.st.allow.live then Machine.latch Bit.overrun (w.onAllow Allowance.restaged)
      else w.onAllow Allowance.restaged).st := by
    split
    · exact hover _ h1
    · exact h1
  have h3 := H.handConditions _ h2
  unfold Machine.restage
  dsimp only
  split
  · exact h3
  · exact hlatch _ h3

theorem addUsed (n : Nat) (w : Work) (h : P w.st) : P (addUsed n w).st := H.restage _ (H.allow _ _ h)

theorem countFlow (flow : Option Nat) (n : Nat) (w : Work) (h : P w.st) : P (countFlow flow n w).st := by
  unfold Machine.countFlow
  split
  · exact h
  · exact H.flows _ _ h

theorem onQueue (p : Path) (g : TxQueue → TxQueue) (w : Work) (hp : R p) (h : P w.st) :
    P (w.onQueue p g).st := by
  refine H.fwd _ _ (fun q => ⟨by cases p <;> cases q <;> rfl, ?_⟩) h
  by_cases hq : q = p
  · exact Or.inl (hq ▸ hp)
  · refine Or.inr ?_
    cases p with
    | fibre => cases q with
      | fibre => exact absurd rfl hq
      | radio => rfl
    | radio => cases q with
      | fibre => rfl
      | radio => exact absurd rfl hq

theorem takeNext (p : Path) (w : Work) (hp : R p) (h : P w.st) : P (takeNext p w).st := by
  unfold Machine.takeNext
  split
  · split
    · exact h
    · rename_i f rest _
      have h1 := H.onQueue p (fun _ => { rest with sending := some f.data }) w hp h
      cases p with
      | fibre => exact h1
      | radio => exact H.addUsed _ _ (H.countFlow _ _ _ h1)
  · exact h

theorem enterBand (p : Path) (tier : Nat) (f : TxFrame) (w : Work) (hp : R p) (h : P w.st) :
    P (enterBand p tier f w).st := by
  unfold Machine.enterBand
  split
  · refine H.fwd _ _ (fun q => ?_) h
    cases p <;> cases q <;> exact ⟨rfl, Or.inr rfl⟩
  · exact H.takeNext p _ hp (H.onQueue p _ w hp h)

theorem releaseHeld (x : HeldFrame) (w : Work) (hx : ∀ p : Path, w.st.bindingPath x = boundTo p → R p) (h : P w.st) :
    P (releaseHeld x w).st := by
  have hdrops : ∀ v : Work, P v.st → P (Machine.latch Bit.holdDrops v).st := fun v hv =>
    H.latch (i := Bit.holdDrops) (by decide) (by decide) v hv
  have honto : ∀ p, R p → P (if w.st.bandFull p (w.st.cls x.cls).tier then
      Machine.latch Bit.holdDrops (placeFrame p x.cls x.flow x.data w) else placeFrame p x.cls x.flow x.data w).st := by
    intro p hp
    split
    · exact hdrops _ (H.enterBand _ _ _ _ hp h)
    · exact H.enterBand _ _ _ _ hp h
  unfold Machine.releaseHeld
  dsimp only
  split
  · exact honto .fibre (hx .fibre (by assumption))
  · exact honto .radio (hx .radio (by assumption))
  · exact h
  · exact hdrops _ (H.classes _ _ h)

theorem releaseAll (l : List HeldFrame) (w : Work) (hl : ∀ x ∈ l, ∀ p : Path, w.st.bindingPath x = boundTo p → R p) (h : P w.st) :
    P (releaseAll l w).st := by
  induction l generalizing w with
  | nil => exact h
  | cons x l ih =>
    have hbinds : w.st.binds (Machine.releaseHeld x w).st := (closed_bound _ _ _).releaseHeld x w (bound_self w.st)
    refine ih _ (fun y hy => ?_) (H.releaseHeld x w (hl x List.mem_cons_self) h)
    rw [bindingPath_congr hbinds.1 hbinds.2.1]
    exact hl y (List.mem_cons_of_mem _ hy)

theorem releaseStep (s0 : State) (w : Work)
    (hl : ∀ x, leftWaiting s0 w.st x = true → ∀ p : Path, w.st.bindingPath x = boundTo p → R p) (h : P w.st) :
    P (releaseStep s0 w).st := by
  refine H.releaseAll _ _ (fun x hx => hl x (List.mem_filter.mp hx).2) ?_
  exact H.fwd _ _ (fun q => by cases q <;> exact ⟨rfl, Or.inr rfl⟩) h

theorem endDrill (o : DrillOutcome) (c : DrillCause) (w : Work) (h : P w.st) : P (endDrill o c w).st := by
  cases hrun : w.st.drill.running with
  | false =>
    rw [endDrill_idle _ _ _ hrun]
    exact h
  | true =>
    rw [endDrill_eq _ _ _ hrun, endedWork_st]
    exact H.handConditions _ (H.latch (i := Bit.drillEnd) (by decide) (by decide)
      (w.onDrill (Drill.closed w.st o c)) (H.drill _ _ h))

theorem drillStep (w : Work) (h : P w.st) : P (drillStep w).st := by
  unfold Machine.drillStep
  split
  · exact H.endDrill _ _ _ h
  · exact h

/-- Class step and flow step. -/
theorem flowStep (w : Work) (h : P w.st) : P (flowStep w.st (classStep w)).st := by
  obtain ⟨e, hsame, he⟩ := flowStep_st w
  rw [he]
  exact H.ev { w.st with classes := w.st.decided, flows := w.st.followed } e hsame
    (H.flows { w.st with classes := w.st.decided } _ (H.classes w.st _ h))

theorem finish (s0 : State) (w : Work) (h : P w.st) : P (finish s0 w) := by
  have hflow : ∀ v : Work, P v.st → P (Machine.latch Bit.flowChange v).st := fun v hv =>
    H.latch (i := Bit.flowChange) (by decide) (by decide) v hv
  have hreport : P (reportFlows s0.flows (Machine.handConditions w)).st := by
    unfold reportFlows
    dsimp only
    split
    · exact H.handConditions w h
    · exact hflow _ (H.flowChanges _ _ (H.handConditions w h))
  have hrecords : ∀ (rs : List Rec) (s : State), P s → P (rewriteRecords s0 rs s) := fun rs s hs =>
    H.flows { rewriteRecords s0 rs s with flows := s.flows } _
      (H.classes { rewriteRecords s0 rs s with classes := s.classes, flows := s.flows } _ (H.counts s _ hs))
  exact H.ev _ _ ⟨rfl, rfl⟩ (hrecords _ _ hreport)

end Linkless

/-- A pass before its last step. -/
def passBody (w : Work) : Work :=
  drillStep (releaseStep w.st (handConditions (flowStep w.st (classStep w))))

theorem steeringPass_eq (w : Work) : steeringPass w = recomputeDemand (passBody w) := rfl

theorem Linkless.passBody {R : Path → Prop} {P : State → Prop} (H : Linkless R P) (w : Work)
    (hl : ∀ x, leftWaiting w.st (Machine.handConditions (Machine.flowStep w.st (classStep w))).st x = true → ∀ p : Path,
      (Machine.handConditions (Machine.flowStep w.st (classStep w))).st.bindingPath x = boundTo p → R p)
    (h : P w.st) : P (passBody w).st :=
  H.drillStep _ (H.releaseStep _ _ hl (H.handConditions _ (H.flowStep w h)))

/-! ## SESSION left (R61) -/

/-- The forwarding unit with its radio bands flushed. -/
def Forwarding.radioFlushed (f : Forwarding) : Forwarding :=
  { f with
    radioQ := { f.radioQ with urgent := [], normal := [] },
    counts := { f.counts with
      radioFlush := hold32 (f.counts.radioFlush + (f.radioQ.urgent.length + f.radioQ.normal.length)) } }

/-- What leaving SESSION makes of a state. -/
def State.sessionLeft (s : State) : State := ({ s with fwd := s.fwd.radioFlushed } : State).lost .radio

theorem path_ev (s : State) (e : EventUnit) (p : Path) : ({ s with ev := e } : State).path p = s.path p := by
  cases p <;> rfl

theorem lost_ev (s : State) (e : EventUnit) (p : Path) : ({ s with ev := e } : State).lost p = { s.lost p with ev := e } := by
  have hpath := path_ev s e p
  by_cases h : (s.path p).state = .down
  · rw [lost_of_down h, lost_of_down (hpath.symm ▸ h)]
  · rw [lost_of_ne h, lost_of_ne (hpath.symm ▸ h)]
    cases p <;> rfl

theorem lost_unit (s : State) (p : Path) : (s.lost p).ev = s.ev := by
  by_cases h : (s.path p).state = .down
  · rw [lost_of_down h]
  · rw [lost_of_ne h]
    cases p <;> rfl

theorem leaveSession_onlyEv (w : Work) : w.st.sessionLeft.OnlyEv (leaveSession w).st := by
  unfold leaveSession State.sessionLeft
  have hflush : (flushQueue .radio w).st = { w.st with fwd := w.st.fwd.radioFlushed } := rfl
  rw [← hflush]
  exact ((latch_onlyEv Bit.radioState (flushQueue .radio w)).map (f := fun s => s.lost .radio)
    (fun s e => lost_ev s e _) fun s => lost_unit s _).trans (physicalLoss_onlyEv .radio _)

theorem sessionLeft_of_down {s : State} (h : s.radio.state = .down) :
    s.sessionLeft = { s with fwd := s.fwd.radioFlushed } :=
  lost_of_down (s := { s with fwd := s.fwd.radioFlushed }) (p := .radio) h

theorem sessionLeft_of_ne {s : State} (h : s.radio.state ≠ .down) :
    s.sessionLeft = ({ s with fwd := s.fwd.radioFlushed } : State).goneDown .radio :=
  lost_of_ne (s := { s with fwd := s.fwd.radioFlushed }) (p := .radio) h

theorem sessionLeft_ru (s : State) (r : RadioUnit) :
    ({ s with ru := r } : State).sessionLeft = { s.sessionLeft with ru := r } := by
  by_cases h : s.radio.state = .down
  · rw [sessionLeft_of_down h, sessionLeft_of_down (s := { s with ru := r }) h]
  · rw [sessionLeft_of_ne h, sessionLeft_of_ne (s := { s with ru := r }) h]
    rfl

theorem moveTo_leaving (n : RadioState) {w : Work} (h : w.st.ru.state = .session) (hn : n ≠ .session) : moveTo n w =
    handConditions (leaveSession ((w.onRu (RadioUnit.enter n w.now)).touchIf (decide (w.st.ru.state ≠ n)) .radioUnit)) := by
  unfold moveTo
  dsimp only
  rw [if_pos ⟨h, hn⟩]

theorem moveTo_leaves (n : RadioState) {w : Work} (h : w.st.ru.state = .session) (hn : n ≠ .session) :
    ({ w.st.sessionLeft with ru := w.st.ru.enter n w.now } : State).OnlyEv (moveTo n w).st := by
  rw [moveTo_leaving n h hn, ← sessionLeft_ru]
  exact (leaveSession_onlyEv ((w.onRu (RadioUnit.enter n w.now)).touchIf (decide (w.st.ru.state ≠ n)) .radioUnit)).trans
    (handConditions_onlyEv _)

theorem sessionLeft_fields (s : State) : s.sessionLeft.radio = s.radio.lostIn s .radio
    ∧ s.sessionLeft.hold = s.hold.sees s.now .radio s.radio.state .down ∧ s.sessionLeft.clk = s.clk
    ∧ s.sessionLeft.exch = s.exch ∧ s.sessionLeft.grade = s.grade := by
  by_cases h : s.radio.state = .down
  · rw [sessionLeft_of_down h]
    refine ⟨?_, ?_, rfl, rfl, rfl⟩
    · exact (if_pos h : s.radio.lostIn s .radio = s.radio).symm
    · rw [h]
      exact (if_pos (Or.inr (Or.inr rfl)) : s.hold.sees s.now .radio .down .down = s.hold).symm
  · rw [sessionLeft_of_ne h]
    exact ⟨rfl, rfl, rfl, rfl, rfl⟩

/-! ## Without an active hold no end of a hold latches (R93) -/

theorem noteReady_bit {k : Nat} (hk : k < 15) (p : Path) (was : Bool) (w : Work) :
    (noteReady p was w).st.ev.latch.getLsbD k = w.st.ev.latch.getLsbD k := by
  unfold noteReady
  split
  · rfl
  · exact (latch_bit (i := Bit.readyChange) (Nat.ne_of_gt hk) _).trans (handConditions_bit (by omega) w)

theorem movePath_bit {k : Nat} (hk : k < 15) (p : Path) (n : PathState) (w : Work) :
    (movePath p n w).st.ev.latch.getLsbD k = w.st.ev.latch.getLsbD k := by
  have hsettle : ∀ v : Work, (settle p v).st.ev.latch.getLsbD k = v.st.ev.latch.getLsbD k := by
    intro v
    rw [settle_eq]
    refine (noteReady_bit hk _ _ _).trans ?_
    cases p <;> rfl
  have hdown : ∀ v : Work, (enterDown p v).st.ev.latch.getLsbD k = v.st.ev.latch.getLsbD k := by
    intro v
    cases p
    · exact hsettle v
    · exact hsettle v
  have henter : (w.onPath p (PathRec.enter n w.now)).st.ev = w.st.ev := by cases p <;> rfl
  unfold movePath
  dsimp only
  split
  · rw [hdown, henter]
  · rw [henter]

theorem holdSees_inactive {w : Work} (h : w.st.hold.active = false) (p : Path) (was is : PathState) :
    holdSees p was is w = w := by
  unfold holdSees
  rw [h]
  rfl

theorem pathSees_bit {k : Nat} (hk : k < 11) (p : Path) (was is : PathState) (w : Work) :
    (pathSees p was is w).st.ev.latch.getLsbD k = w.st.ev.latch.getLsbD k := by
  have hdrill : ∀ v : Work, (endDrill .pass .radioUp v).st.ev.latch.getLsbD k = v.st.ev.latch.getLsbD k := by
    intro v
    cases hrun : v.st.drill.running with
    | false => rw [endDrill_idle _ _ _ hrun]
    | true =>
      rw [endDrill_eq _ _ _ hrun, endedWork_st]
      exact (handConditions_bit (by omega) _).trans (latch_bit (i := Bit.drillEnd) (Nat.ne_of_gt hk) _)
  cases p with
  | fibre =>
    show (returnSees was is w).st.ev.latch.getLsbD k = _
    rw [returnSees_onlySteer]
  | radio =>
    unfold pathSees
    dsimp only
    split
    · split
      · exact hdrill _
      · exact hdrill _
    · split <;> rfl

theorem setPathState_bit {k : Nat} (h2 : 2 < k) (h11 : k < 11) (p : Path) (n : PathState) {w : Work}
    (h : w.st.hold.active = false) :
    (setPathState p n w).st.ev.latch.getLsbD k = w.st.ev.latch.getLsbD k := by
  by_cases hne : (w.st.path p).state = n
  · rw [setPathState_same hne]
  · have hinactive : (movePath p n w).st.hold.active = false := by
      rw [(movePath_onlyEv p w hne).hold, (moved_keeps w.st p n).1]
      exact h
    have hle : changeBit p ≤ 2 := by cases p <;> decide
    have hchange : changeBit p ≠ k := by omega
    rw [setPathState_eq p w hne, owePass_st, touch_st, holdSees_inactive hinactive]
    exact (pathSees_bit h11 _ _ _ _).trans ((handConditions_bit (by omega) _).trans
      ((latch_bit hchange _).trans (movePath_bit (by omega) p n w)))

theorem blame_bit {k : Nat} (hk : k < 12) (p : Path) (w : Work) :
    (blame p w).st.ev.latch.getLsbD k = w.st.ev.latch.getLsbD k := by
  have hev : ∀ f : PathRec → PathRec, (w.onPath p f).st.ev = w.st.ev := fun f => by cases p <;> rfl
  have hoffer : ∀ v : Work, (offerCause p .physical v).st.ev.latch.getLsbD k = v.st.ev.latch.getLsbD k := by
    intro v
    unfold offerCause
    dsimp only
    split
    · refine (latch_bit (i := Bit.causeLatched) (Nat.ne_of_gt hk) _).trans ?_
      cases p <;> rfl
    · cases p <;> rfl
  unfold blame
  split
  · rw [hoffer, hev]
  · rfl

theorem onPath_hold (s : State) (p : Path) (f : PathRec → PathRec) : (s.onPath p f).hold = s.hold := by
  cases p <;> rfl

theorem blame_hold (p : Path) (w : Work) : (blame p w).st.hold = w.st.hold := by
  rw [(blame_onlyEv p w).hold, blamed_eq, onPath_hold]

theorem leaveSession_bit {w : Work} (h : w.st.hold.active = false) :
    (leaveSession w).st.ev.latch.getLsbD 10 = w.st.ev.latch.getLsbD 10 := by
  have hloss : ∀ v : Work, v.st.hold.active = false →
      (physicalLoss .radio v).st.ev.latch.getLsbD 10 = v.st.ev.latch.getLsbD 10 := by
    intro v hv
    by_cases hdown : (v.st.path .radio).state = .down
    · rw [physicalLoss_down hdown]
    · have hhold : (blame .radio v).st.hold.active = false := by
        rw [blame_hold]
        exact hv
      rw [physicalLoss_eq hdown, setPathState_bit (by decide) (by decide) .radio .down hhold, blame_bit (by decide)]
  unfold leaveSession
  exact (hloss (latch Bit.radioState (flushQueue .radio w)) h).trans
    (latch_bit (i := Bit.radioState) (by decide) w.st.ev)

theorem moveTo_bit {n : RadioState} {w : Work} (h : w.st.hold.active = false) :
    (moveTo n w).st.ev.latch.getLsbD 10 = w.st.ev.latch.getLsbD 10 := by
  have hleave := leaveSession_bit
    (w := (w.onRu (RadioUnit.enter n w.now)).touchIf (decide (w.st.ru.state ≠ n)) .radioUnit) h
  unfold moveTo
  dsimp only
  refine (handConditions_bit (by decide) _).trans ?_
  split
  · exact hleave
  · rfl

/-- A hold that the session left breaks latches its end (R95). -/
theorem leaveSession_latched {w : Work} (h : w.st.hold.active = true) (hends : (leaveSession w).st.hold.active = false) :
    latched (bitMask 10) (leaveSession w).st := by
  have hloss : ∀ v : Work, v.st.hold.active = true → (physicalLoss .radio v).st.hold.active = false →
      latched (bitMask 10) (physicalLoss .radio v).st := by
    intro v hv hends
    by_cases hdown : (v.st.path .radio).state = .down
    · rw [physicalLoss_down hdown, hv] at hends
      cases hends
    · rw [physicalLoss_eq hdown] at hends ⊢
      exact setPathState_latched_hold ((congrArg Hold.active (blame_hold .radio v)).trans hv) hends
  exact hloss (latch Bit.radioState (flushQueue .radio w)) h hends

theorem moveTo_latched_hold {n : RadioState} {w : Work} (h : w.st.hold.active = true)
    (hends : (moveTo n w).st.hold.active = false) : latched (bitMask 10) (moveTo n w).st := by
  unfold moveTo at hends ⊢
  dsimp only at hends ⊢
  refine handConditions_latched ?_
  rw [(handConditions_onlyEv _).hold] at hends
  split at hends
  · next hc =>
    rw [if_pos hc]
    exact leaveSession_latched h hends
  · exact absurd (h.symm.trans hends) (by decide)

end Sys2Proof.Machine
end


section
/-! Passes leave SESSION at most once: then the radio path takes the physical loss and a RADIO hold that has seen it
usable breaks; otherwise both stay (R31, R61, R87, R95). -/

namespace Sys2Proof.Machine

/-- A course of steps that may close the session, and touches radio path and hold only with it. -/
structure State.LinkGoes (s t : State) : Prop where
  lost : s.closes t → t.radio = s.radio.lostIn s .radio ∧ t.hold = s.hold.sees s.now .radio s.radio.state .down
  stays : ¬s.closes t → t.radio = s.radio ∧ t.hold = s.hold
  session : t.ru.state = .session → s.ru.state = .session
  clk : t.clk = s.clk
  service : t.exch.service = s.exch.service
  grade : t.grade = s.grade
  loss : ¬s.closes t → s.ev.sameLoss t.ev
  ends : s.hold.active = false → t.ev.latch.getLsbD 10 = s.ev.latch.getLsbD 10
  breaks : s.hold.active = true → t.hold.active = false → t.ev.latch.getLsbD 10 = true

theorem lostIn_congr {s t : State} (hclk : t.clk = s.clk) (hservice : t.exch.service = s.exch.service)
    (hgrade : t.grade = s.grade) (p : Path) (r : PathRec) : r.lostIn t p = r.lostIn s p := by
  have hnow : t.now = s.now := congrArg Clock.ms hclk
  unfold PathRec.lostIn
  dsimp only
  rw [hnow, hservice, hgrade]

theorem State.LinkGoes.refl (s : State) : s.LinkGoes s :=
  ⟨fun h => absurd h.1 h.2, fun _ => ⟨rfl, rfl⟩, id, rfl, rfl, rfl, fun _ => .refl _, fun _ => rfl,
    fun ha hi => absurd (ha.symm.trans hi) (by decide)⟩

/-- A hold that is not active stays as it is. -/
theorem sees_inactive {h : Hold} (hi : h.active = false) (now : Time) (p : Path) (was is : PathState) :
    h.sees now p was is = h := if_pos (Or.inl hi)

theorem State.LinkGoes.hold_inactive {s t : State} (h : s.LinkGoes t) (hi : s.hold.active = false) : t.hold = s.hold := by
  by_cases hc : s.closes t
  · rw [(h.lost hc).2, sees_inactive hi]
  · exact (h.stays hc).2

theorem State.LinkGoes.trans {s t u : State} (h : s.LinkGoes t) (h' : t.LinkGoes u) : s.LinkGoes u := by
  have hnow : t.now = s.now := congrArg Clock.ms h.clk
  have hopen : ¬s.closes u → ¬s.closes t ∧ ¬t.closes u := fun hopen =>
    ⟨fun hc => hopen ⟨hc.1, fun hu => hc.2 (h'.session hu)⟩, fun hc => hopen ⟨h.session hc.1, hc.2⟩⟩
  refine {
    lost := fun hcloses => ?lost
    stays := fun ho => ?stays
    session := fun hu => h.session (h'.session hu)
    clk := h'.clk.trans h.clk
    service := h'.service.trans h.service
    grade := h'.grade.trans h.grade
    loss := fun ho => (h.loss (hopen ho).1).trans (h'.loss (hopen ho).2)
    ends := fun hi => (h'.ends ((congrArg Hold.active (h.hold_inactive hi)).trans hi)).trans (h.ends hi)
    breaks := fun ha hi => ?breaks }
  case breaks =>
    by_cases ht : t.hold.active = true
    · exact h'.breaks ht hi
    · exact (h'.ends (Bool.eq_false_iff.mpr ht)).trans (h.breaks ha (Bool.eq_false_iff.mpr ht))
  case lost =>
    by_cases ht : t.ru.state = .session
    · obtain ⟨hradio, hhold⟩ := h.stays fun hc => hc.2 ht
      obtain ⟨hradio', hhold'⟩ := h'.lost ⟨ht, hcloses.2⟩
      rw [hradio', hhold', hradio, hhold, hnow, lostIn_congr h.clk h.service h.grade]
      exact ⟨rfl, rfl⟩
    · obtain ⟨hradio', hhold'⟩ := h'.stays fun hc => ht hc.1
      rw [hradio', hhold']
      exact h.lost ⟨hcloses.1, ht⟩
  case stays =>
    obtain ⟨hst, htu⟩ := hopen ho
    obtain ⟨hradio, hhold⟩ := h.stays hst
    obtain ⟨hradio', hhold'⟩ := h'.stays htu
    exact ⟨hradio'.trans hradio, hhold'.trans hhold⟩

/-- Steps that leave radio path, hold, clock, service state and grade state, and the radio unit in or out of SESSION. -/
theorem linkGoes_of_eq {s t : State} (hradio : t.radio = s.radio) (hhold : t.hold = s.hold)
    (hsession : t.ru.state = .session ↔ s.ru.state = .session) (hclk : t.clk = s.clk)
    (hservice : t.exch.service = s.exch.service) (hgrade : t.grade = s.grade) (hloss : s.ev.sameLoss t.ev) :
    s.LinkGoes t :=
  ⟨fun hc => absurd (hsession.mpr hc.1) hc.2, fun _ => ⟨hradio, hhold⟩, hsession.mp, hclk, hservice, hgrade,
    fun _ => hloss, fun _ => hloss.1, fun ha hi => absurd ((congrArg Hold.active hhold).symm.trans hi) (by rw [ha]; decide)⟩

theorem linkGoes_ruOnly {s t : State} (h : s.RuOnly t) (hsession : t.ru.state = .session ↔ s.ru.state = .session) :
    s.LinkGoes t := by
  obtain ⟨r, e, he, rfl⟩ := h
  exact linkGoes_of_eq rfl rfl hsession rfl rfl rfl he

/-- A course that goes on with what touches neither the link side nor the inputs. -/
theorem linkless_linkGoes (s : State) : Linkless (fun _ => True) fun t => s.LinkGoes t where
  classes := fun _ _ h => h.trans (linkGoes_of_eq rfl rfl Iff.rfl rfl rfl rfl (.refl _))
  flows := fun _ _ h => h.trans (linkGoes_of_eq rfl rfl Iff.rfl rfl rfl rfl (.refl _))
  allow := fun _ _ h => h.trans (linkGoes_of_eq rfl rfl Iff.rfl rfl rfl rfl (.refl _))
  drill := fun _ _ h => h.trans (linkGoes_of_eq rfl rfl Iff.rfl rfl rfl rfl (.refl _))
  ev := fun _ _ he h => h.trans (linkGoes_of_eq rfl rfl Iff.rfl rfl rfl rfl he)
  counts := fun _ _ h => h.trans (linkGoes_of_eq rfl rfl Iff.rfl rfl rfl rfl (.refl _))
  flowChanges := fun _ _ h => h.trans (linkGoes_of_eq rfl rfl Iff.rfl rfl rfl rfl (.refl _))
  fwd := fun _ _ _ h => h.trans (linkGoes_of_eq rfl rfl Iff.rfl rfl rfl rfl (.refl _))

/-! ## Demand -/

/-- Outside SESSION the machinery of passes stays outside. -/
theorem closed_noSession (M B G : Prop) (hM : ¬M) : Closed False M B G True True fun s => s.ru.state ≠ .session where
  path := by
    intro s p f _ _ h
    cases p <;> exact h
  probe := by
    intro _ s p f _ _ h
    cases p <;> exact h
  grade := fun _ _ _ h => h
  ru := fun _ _ hs h => fun e => h (hs.session e)
  ruEvent := fun h => absurd h hM
  aim := fun _ _ _ _ _ h => h
  demand := fun _ _ _ _ h => h
  ret := fun h => h.elim
  classes := fun _ _ _ _ h => h
  hold := fun _ _ _ h => h
  flows := fun _ _ _ _ h => h
  free := fun _ _ _ _ h => h
  fwd := fun _ _ _ h => h
  fwdEvent := fun _ _ _ _ h => h
  allow := fun _ _ h => h
  drill := fun _ _ _ h => h
  ev := fun _ _ _ h => h
  fin := fun h => h.elim

theorem noSession_closed : Closed False False False False True True fun s => s.ru.state ≠ .session :=
  closed_noSession False False False id

theorem moveTo_linkGoes {n : RadioState} (hn : n ≠ .session) (w : Work) : w.st.LinkGoes (moveTo n w).st := by
  have hne : (moveTo n w).st.ru.state ≠ .session := by
    rw [moveTo_state]
    exact hn
  by_cases h : w.st.ru.state = .session
  · obtain ⟨e, -, hst⟩ := moveTo_leaves n h hn
    obtain ⟨hradio, hhold, hclk, hexch, hgrade⟩ := sessionLeft_fields w.st
    have hfields : (moveTo n w).st.radio = w.st.sessionLeft.radio ∧ (moveTo n w).st.hold = w.st.sessionLeft.hold
        ∧ (moveTo n w).st.clk = w.st.sessionLeft.clk ∧ (moveTo n w).st.exch = w.st.sessionLeft.exch
        ∧ (moveTo n w).st.grade = w.st.sessionLeft.grade := by
      rw [hst]
      exact ⟨rfl, rfl, rfl, rfl, rfl⟩
    obtain ⟨hradio', hhold', hclk', hexch', hgrade'⟩ := hfields
    exact ⟨fun _ => ⟨hradio'.trans hradio, hhold'.trans hhold⟩, fun hc => absurd ⟨h, hne⟩ hc, fun hs => absurd hs hne,
      hclk'.trans hclk, congrArg Exchange.service (hexch'.trans hexch), hgrade'.trans hgrade,
      fun hc => absurd ⟨h, hne⟩ hc, fun hi => moveTo_bit hi,
      fun ha hi => getLsbD_of_latched (moveTo_latched_hold ha hi) (by decide)⟩
  · exact linkGoes_ruOnly (moveTo_ruOnly n w (Or.inl h)) ⟨fun hs => absurd hs hne, fun hs => absurd hs h⟩

/-- What demand, recomputed, keeps between two states: what the radio unit's steps and a change of the steering record
keep. -/
structure Demanding (Q : State → State → Prop) : Prop where
  refl : ∀ s, Q s s
  trans : ∀ {s t u}, Q s t → Q t u → Q s u
  moveTo : ∀ {n : RadioState}, n ≠ .session → ∀ w : Work, Q w.st (moveTo n w).st
  only : ∀ {s t : State}, s.RuOnly t → (t.ru.state = .session ↔ s.ru.state = .session) → Q s t
  steer : ∀ s x, Q s { s with steer := x }

namespace Demanding

variable {Q : State → State → Prop} (H : Demanding Q)
include H

theorem sendRequest (k : Request) (w : Work) : Q w.st (sendRequest k w).st := H.only (sendRequest_ruOnly k w) Iff.rfl

/-- The radio unit alone, out of SESSION before and after. -/
theorem outside {s t : State} (h : s.RuOnly t) (hs : s.ru.state ≠ .session) (ht : t.ru.state ≠ .session) : Q s t :=
  H.only h ⟨fun e => absurd e ht, fun e => absurd e hs⟩

theorem actSession (w : Work) : Q w.st (actSession w).st := by
  unfold Machine.actSession
  split
  · exact H.trans (H.moveTo (n := .closing) (by decide) w) (H.sendRequest .closeSession (Machine.moveTo .closing w))
  · exact H.refl _

theorem act (w : Work) : Q w.st (act w).st := by
  by_cases h : w.st.ru.state = .session
  · have hact : Machine.act w = Machine.actSession w := by
      unfold Machine.act
      rw [h]
    rw [hact]
    exact H.actSession w
  · exact H.outside (act_ruOnly w h) h (noSession_closed.act w h)

theorem enterIdle (w : Work) : Q w.st (enterIdle w).st := by
  have hact : ∀ v : Work, v.st.ru.state ≠ .session → Q v.st (actIdle v).st := fun v hv =>
    H.outside (actIdle_ruOnly v hv) hv (noSession_closed.actIdle v hv)
  unfold Machine.enterIdle
  refine H.trans (H.moveTo (n := .idle) (by decide) w) (hact _ ?_)
  rw [moveTo_state]
  decide

theorem setTarget (w : Work) : Q w.st (setTarget w).st := H.only ⟨_, w.st.ev, .refl _, rfl⟩ Iff.rfl

theorem recomputeTarget (w : Work) : Q w.st (recomputeTarget w).st := by
  unfold Machine.recomputeTarget
  dsimp only
  split
  · split
    · exact H.trans (H.setTarget w) (H.enterIdle _)
    · exact H.setTarget w
  · exact H.trans (H.setTarget w) (H.act _)

theorem urgencySees (o n : Bool) (w : Work) : Q w.st (urgencySees o n w).st := by
  unfold Machine.urgencySees
  split
  · exact H.trans (H.setTarget w) (H.enterIdle _)
  · exact H.recomputeTarget w

theorem lingerSees (o n : Bool) (w : Work) : Q w.st (lingerSees o n w).st := by
  unfold Machine.lingerSees
  split
  · exact H.only ⟨_, w.st.ev, .refl _, rfl⟩ Iff.rfl
  · split
    · exact H.only ⟨_, w.st.ev, .refl _, rfl⟩ Iff.rfl
    · exact H.refl _

theorem recomputeDemand (w : Work) : Q w.st (recomputeDemand w).st := by
  have hsteer : ∀ (f : Steering → Steering) (b : Bool), Q w.st ((w.onSteer f).touchIf b .hold).st := fun f _ =>
    H.steer _ (f w.st.steer)
  unfold Machine.recomputeDemand
  exact H.trans (H.trans (hsteer _ _) (H.lingerSees _ _ _)) (H.urgencySees _ _ _)

end Demanding

theorem demanding_linkGoes : Demanding State.LinkGoes where
  refl := State.LinkGoes.refl
  trans := State.LinkGoes.trans
  moveTo := moveTo_linkGoes
  only := linkGoes_ruOnly
  steer := fun _ _ => linkGoes_of_eq rfl rfl Iff.rfl rfl rfl rfl (.refl _)

theorem recomputeDemand_linkGoes (w : Work) : w.st.LinkGoes (recomputeDemand w).st :=
  demanding_linkGoes.recomputeDemand w

/-! ## Passes -/

theorem steeringPass_linkGoes (w : Work) : w.st.LinkGoes (steeringPass w).st := by
  rw [steeringPass_eq]
  exact ((linkless_linkGoes w.st).passBody w (fun _ _ _ _ => trivial) (State.LinkGoes.refl _)).trans (recomputeDemand_linkGoes _)

theorem runPasses_linkGoes (n : Nat) (w : Work) : w.st.LinkGoes (runPasses n w).st := by
  induction n generalizing w with
  | zero => exact State.LinkGoes.refl _
  | succ n ih =>
    unfold runPasses
    split
    · exact (steeringPass_linkGoes { w with passDue := false, demandDue := false }).trans (ih _)
    · split
      · exact (recomputeDemand_linkGoes { w with demandDue := false }).trans (ih _)
      · exact State.LinkGoes.refl _

theorem passes_linkGoes (w : Work) : w.st.LinkGoes (passes w).st := runPasses_linkGoes _ w

theorem finish_linkGoes (s0 : State) (w : Work) : w.st.LinkGoes (finish s0 w) :=
  (linkless_linkGoes w.st).finish s0 w (State.LinkGoes.refl _)

theorem event_linkGoes {f : Work → Work} {s : State} (hs : s.exch.service ≠ .init) :
    (f (Work.begin s)).st.LinkGoes (event f s) := by
  unfold event
  rw [if_neg hs]
  exact (passes_linkGoes _).trans (finish_linkGoes s _)

theorem takeKind_linkGoes {kind i : Nat} {rest : List Nat} {s : State} {body : List Byte → Work → Answered}
    (hoffers : s.offersKind kind i rest) :
    (body (slotParams s.mem i) (Work.begin s)).work.st.LinkGoes (takeKind kind body s) := by
  have hanswer : ∀ (a : Answered) (ans : List Byte) (k : Nat), a.work.st.LinkGoes
      (writeAnswer i rest k a.result ans (passes a.work)).st := fun a ans k =>
    (passes_linkGoes a.work).trans (linkGoes_of_eq rfl rfl Iff.rfl rfl rfl rfl (.refl _))
  rw [takeKind_eq kind body s i rest hoffers]
  exact (hanswer _ _ _).trans (finish_linkGoes s _)

end Sys2Proof.Machine
end


section
/-! The steering timers: HOLD_EXPIRY and RETURN_DELAY_DUE (R83, R94); SET STEERING (R97). -/

namespace Sys2Proof.Machine

theorem State.OnlyEv.kept {s t : State} (h : s.OnlyEv t) : t.kept = s.kept := by
  obtain ⟨e, he, rfl⟩ := h
  unfold State.kept
  dsimp only
  rw [he]

theorem ended_settings (reason : HoldEnd) (now : Time) (h : Hold) : (h.ended reason now).settings = h.settings := by
  unfold Hold.ended
  split <;> rfl

theorem endHold_kept (reason : HoldEnd) (w : Work) : (endHold reason w).st.kept = w.st.kept := by
  rw [(endHold_onlyEv reason w).kept]
  unfold State.kept
  dsimp only
  rw [ended_settings]

theorem endHold_hold (reason : HoldEnd) (w : Work) : (endHold reason w).st.hold = w.st.hold.ended reason w.now :=
  (endHold_onlyEv reason w).hold

theorem ended_of_active {h : Hold} (ha : h.active = true) (reason : HoldEnd) (now : Time) :
    h.ended reason now = { h with active := false, stop := now, reason := reason } := if_pos ha

theorem endHold_passDue {reason : HoldEnd} {w : Work} (h : w.st.hold.active = true) :
    (endHold reason w).passDue = true := by
  unfold endHold
  rw [if_pos h]
  rfl

theorem endHold_inactive (reason : HoldEnd) (w : Work) : (endHold reason w).st.hold.active = false := by
  rw [endHold_hold]
  unfold Hold.ended
  split
  · rfl
  · rename_i h
    exact Bool.eq_false_iff.mpr h

/-- A hold ended in an event stays as it ended. -/
theorem event_hold {f : Work → Work} {s : State} (hs : s.exch.service ≠ .init)
    (hi : (f (Work.begin s)).st.hold.active = false) : (event f s).hold = (f (Work.begin s)).st.hold :=
  (event_linkGoes hs).hold_inactive hi

theorem ret_of_kept {s t : State} (h : s.kept = t.kept) : s.steer.ret = t.steer.ret :=
  (congrArg (fun u : State => u.steer.ret) h :)

/-- Settles O48. -/
theorem steeringTimersExpire : Obligations.SteeringTimersExpire := by
  unfold Obligations.SteeringTimersExpire
  intro s hs
  refine ⟨fun harmed hdue => ⟨event passReturnDelay s, ?_, ?_⟩, fun hactive hdue => ⟨event (endHold .expired) s, ?_, ?_⟩⟩
  · exact congrArg Host.Outcome.next (if_pos ⟨harmed, hdue⟩)
  · have hkept := event_kept passReturnDelay s hs
    exact ⟨hkept, ret_of_kept hkept, event_steered (f := passReturnDelay) hs rfl id⟩
  · exact congrArg Host.Outcome.next (if_pos ⟨hactive, hdue⟩)
  · have hended : (endHold .expired (Work.begin s)).st.hold =
        { s.hold with active := false, stop := s.now, reason := .expired } :=
      (endHold_hold _ _).trans (ended_of_active hactive _ _)
    have hinactive := endHold_inactive .expired (Work.begin s)
    refine ⟨(event_hold hs hinactive).trans hended, ?_, ?_, ?_⟩
    · exact getLsbD_of_latched (event_latched hs (endHold_latched hactive rfl)) (by decide)
    · exact (event_kept _ s hs).trans (endHold_kept _ _)
    · exact event_steered hs (endHold_passDue hactive) fun _ => hinactive

/-! ## SET STEERING (R97) -/

/-- No frame joins the hold buffer. -/
theorem closed_heldIn (F M B D S : Prop) (l : List HeldFrame) : Closed F M B False D S fun s => ∀ h ∈ s.fwd.held, h ∈ l where
  path := fun _ p _ _ _ h => by cases p <;> exact h
  probe := fun _ _ p _ _ _ h => by cases p <;> exact h
  grade := fun _ _ _ h => h
  ru := fun _ _ _ h => h
  ruEvent := fun _ _ _ _ h => h
  aim := fun _ _ _ _ _ h => h
  demand := fun _ _ _ _ h => h
  ret := fun _ _ _ _ h => h
  classes := fun _ _ _ _ h => h
  hold := fun _ _ _ h => h
  flows := fun _ _ _ _ h => h
  free := fun h => h.elim
  fwd := fun _ _ hf h x hx => h x (hf.held x hx)
  fwdEvent := fun h => h.elim
  allow := fun _ _ h => h
  drill := fun _ _ _ h => h
  ev := fun _ _ _ h => h
  fin := fun _ _ _ _ _ h => h

theorem reported_heldIn (l : List HeldFrame) : Reported fun s => ∀ h ∈ s.fwd.held, h ∈ l where
  counts := fun _ _ h => h
  flowChanges := fun _ _ h => h
  classes := fun _ _ _ h => h
  flows := fun _ _ _ h => h
  irq := fun _ _ h => h

/-- What the machinery of passes and the answering of a slot keep, an order keeps whose own changes do. -/
theorem takeKind_closed {F M B G D S : Prop} {P : State → Prop} (R : Reported P) (C : Closed F M B G D S P) (hD : D) (hS : S)
    (hexch : ∀ s m e, P s → P { s with mem := m, exch := e }) {kind i : Nat} {rest : List Nat} {s : State}
    {body : List Byte → Work → Answered} (hoffers : s.offersKind kind i rest)
    (h : P (body (slotParams s.mem i) (Work.begin s)).work.st) : P (takeKind kind body s) := by
  have hanswer : ∀ (w : Work) (k : Nat) (r : ResultCode) (ans : List Byte), P w.st → P (writeAnswer i rest k r ans w).st :=
    fun w _ _ _ hw => hexch w.st _ _ hw
  rw [takeKind_eq kind body s i rest hoffers]
  exact R.finish C s _ (hanswer _ _ _ _ (C.passes hD hS _ h))

/-- What the hold buffer holds after an order was in it after the order's own changes. -/
theorem takeKind_heldIn {kind i : Nat} {rest : List Nat} {s : State} {body : List Byte → Work → Answered}
    (hoffers : s.offersKind kind i rest) {l : List HeldFrame}
    (hl : (body (slotParams s.mem i) (Work.begin s)).work.st.fwd.held = l) {h : HeldFrame}
    (hh : h ∈ (takeKind kind body s).fwd.held) : h ∈ l :=
  takeKind_closed (P := fun s => ∀ h ∈ s.fwd.held, h ∈ l) (reported_heldIn l) (closed_heldIn False False False True True l)
    trivial trivial (fun _ _ _ h => h) hoffers (fun _ hx => hl ▸ hx) h hh

theorem dropHeld_held (gone : HeldFrame → Bool) (tally : Nat → ForwardCounts → ForwardCounts) (w : Work) :
    (dropHeld gone tally w).st.fwd.held = w.st.fwd.held.filter fun h => !gone h := by
  unfold dropHeld
  dsimp only
  split
  · rename_i hnone
    refine (List.filter_eq_self.mpr fun h hh => ?_).symm
    have hgone : h ∉ w.st.fwd.held.filter gone := by
      rw [List.eq_nil_of_length_eq_zero hnone]
      exact List.not_mem_nil
    simpa [hh] using hgone
  · rfl

theorem configure_eq (delay age dc : Nat) (now since : Time) (t : Steering) : t.configure delay age dc now since =
    { t with
      delay := delay, holdAge := age, defaultClass := dc,
      retDue := if t.ret = .armed ∧ t.delay ≠ delay then later since (delay * 1000) else t.retDue,
      ret := if t.ret = .armed ∧ t.delay ≠ delay then
          (if delay * 1000 ≤ elapsed now since then .passed else .armed) else t.ret } := by
  unfold Steering.configure
  by_cases h : t.ret = .armed ∧ t.delay ≠ delay
  · simp only [if_pos h]
  · simp only [if_neg h]

theorem orderSetSteering_eq {ps : List Byte} (h : param ps 4 1 ≤ 7) (w : Work) : orderSetSteering ps w =
    let w' := w.onSteer (Steering.configure (min (param ps 0 2) 3600) (clamp 100 10000 (param ps 2 2)) (param ps 4 1) w.now
      w.st.fibre.usableSince)
    { work := (dropHeld w'.st.aged ForwardCounts.ageHeld w').owePass,
      result := okOrClamped (decide (min (param ps 0 2) 3600 ≠ param ps 0 2)
        || decide (clamp 100 10000 (param ps 2 2) ≠ param ps 2 2)),
      answer := steeringAnswer } := if_neg (Nat.not_lt.mpr h)

theorem dropHeld_kept (gone : HeldFrame → Bool) (w : Work) :
    (dropHeld gone ForwardCounts.ageHeld w).st.kept = w.st.kept :=
  (closed_kept w.st.kept).dropHeld gone _ w (fun n c h => Closed.ageHeld_inRange n c h) rfl

theorem steeringAnswer_of_kept {s t : State} (h : s.kept = t.kept) : steeringAnswer s = steeringAnswer t :=
  (congrArg (fun u : State => steeringAnswer u) h :)

theorem answered_kept {s t : State} (h : s.kept = t.kept) (i : Nat) (rest : List Nat) (r : ResultCode) (ans : List Byte) :
    (s.answered i rest r ans).kept = (t.answered i rest r ans).kept :=
  congrArg (fun u : State => u.answered i rest r ans) h

/-- The work after SET STEERING's own changes. -/
def steeringWork (t : Steering) (s : State) : Work :=
  (dropHeld ({ s with steer := t } : State).aged ForwardCounts.ageHeld (Work.begin { s with steer := t })).owePass

theorem orderSetSteering_work {ps : List Byte} {s : State} (h : param ps 4 1 ≤ 7) {t : Steering}
    (ht : s.steer.configure (min (param ps 0 2) 3600) (clamp 100 10000 (param ps 2 2)) (param ps 4 1) s.now
      s.fibre.usableSince = t) : orderSetSteering ps (Work.begin s) =
    { work := steeringWork t s,
      result := okOrClamped (decide (min (param ps 0 2) 3600 ≠ param ps 0 2)
        || decide (clamp 100 10000 (param ps 2 2) ≠ param ps 2 2)),
      answer := steeringAnswer } := by
  subst ht
  exact orderSetSteering_eq h (Work.begin s)

theorem steeringWork_kept (t : Steering) (s : State) : (steeringWork t s).st.kept = ({ s with steer := t } : State).kept :=
  dropHeld_kept _ _

theorem okOrClamped_or {p q : Prop} [Decidable p] [Decidable q] :
    okOrClamped (decide (¬p) || decide (¬q)) = if p ∧ q then .ok else .clamped := by
  refine okOrClamped_eq ?_
  rw [Bool.or_eq_true, decide_eq_true_iff, decide_eq_true_iff, not_and_or]

/-- Settles O27. -/
theorem steeringSet : Obligations.SteeringSet := by
  unfold Obligations.SteeringSet
  intro i rest s hoffers ps delay age dc result since armed after hdc
  have hafter : s.steer.configure delay age dc s.now s.fibre.usableSince = after := configure_eq _ _ _ _ _ _
  have hbody := orderSetSteering_work hdc hafter
  have hkept := steeringWork_kept after s
  have hmem : (steeringWork after s).st.mem = s.mem := (congrArg State.mem hkept :)
  have hheld : (steeringWork after s).st.fwd.held = s.fwd.held.filter fun h => !({ s with steer := after } : State).aged h :=
    dropHeld_held _ _ _
  have hhold : (steeringWork after s).st.hold.active = s.hold.active := by
    unfold steeringWork dropHeld
    dsimp only
    split <;> rfl
  refine ⟨takeKind Kind.setSteering orderSetSteering s, rfl, ?_, fun h hh => ?_, ?_⟩
  · have htaken := takeKind_kept Kind.setSteering orderSetSteering s i rest hoffers (by rw [hbody]; exact hmem)
    rw [hbody] at htaken
    refine htaken.trans ?_
    dsimp only
    rw [steeringAnswer_of_kept ((passes_kept _).trans hkept), okOrClamped_or]
    exact answered_kept hkept i rest result _
  · have hin := takeKind_heldIn hoffers ((congrArg (fun a : Answered => a.work.st.fwd.held) hbody).trans hheld) hh
    obtain ⟨hmem, hnot⟩ := List.mem_filter.mp hin
    refine ⟨hmem, Nat.not_le.mp fun hle => ?_⟩
    rw [aged_iff.mpr hle] at hnot
    cases hnot
  · refine takeKind_steered hoffers (by rw [hbody]; rfl) fun hfree => ?_
    rw [hbody]
    exact hhold.trans hfree

end Sys2Proof.Machine
end


section
/-! The supply monitor: SUPPLY_LINE_CHANGE, SET SUPPLY and DEBOUNCE_EXPIRY (R150 to R154). -/

namespace Sys2Proof.Machine

/-! ## Lines (R150, R151) -/

/-- A line that takes a level or a polarity. -/
def LineRec.retaken (now : Time) (l n : LineRec) : LineRec :=
  if (n.high != n.low) = (l.high != l.low) then n
  else { n with due := if (n.high != n.low) = l.debounced then none else some (now + 2000) }

theorem changed_retaken (now : Time) (f : LineRec → LineRec) (l : LineRec) (hf : (f l).debounced = l.debounced) :
    l.changed now f = l.retaken now (f l) := by
  unfold LineRec.changed LineRec.retaken LineRec.levelChanged
  rw [hf]
  rfl

theorem setSupply_eq {ps : List Byte} {a b c : Bool} (ha : param ps 0 1 = a.toNat) (hb : param ps 1 1 = b.toNat)
    (hc : param ps 2 1 = c.toNat) (w : Work) : orderSetSupply ps w =
      { work := w.onSup (SupplyMonitor.configure a b c w.now), result := .ok, answer := supplyAnswer } := by
  unfold orderSetSupply
  rw [ha, hb, hc, flagOf_toNat, flagOf_toNat, flagOf_toNat]

/-! ## Debounced changes (R152) -/

/-- The work of a new supply state before its pass. -/
def supplyWork (n : Supply) (w : Work) : Work :=
  ((latch Bit.supplyChange (handConditions (w.onSup fun m => { m with state := n, since := w.now }))).touch .supply).owePass

theorem changeSupply_eq (n : Supply) (w : Work) :
    changeSupply n w = recomputeTarget (compareLinger (passes (supplyWork n w))) := rfl

theorem supplyWork_st (n : Supply) (w : Work) : (supplyWork n w).st =
    (latch Bit.supplyChange (handConditions (w.onSup fun m => { m with state := n, since := w.now }))).st := rfl

theorem supplyWork_hold (n : Supply) (w : Work) : (supplyWork n w).st.hold = w.st.hold := by
  rw [supplyWork_st, latch, onEv_hold, handConditions_hold, onSup_hold]

theorem supplyWork_latched (n : Supply) (w : Work) : latched (bitMask 7) (supplyWork n w).st := by
  rw [supplyWork_st]
  exact latch_latched 7 _

theorem supplyWork_kept (n : Supply) (w : Work) :
    (supplyWork n w).st.kept = ({ w.st with sup := { w.st.sup with state := n, since := w.now } } : State).kept := by
  have C := closed_kept ({ w.st with sup := { w.st.sup with state := n, since := w.now } } : State).kept
  rw [supplyWork_st]
  exact C.latch _ _ (C.handConditions (w.onSup fun m => { m with state := n, since := w.now }) rfl)

/-- What the machinery of passes keeps, a new supply state keeps that does so before its pass. -/
theorem changeSupply_closed {F M B G : Prop} {P : State → Prop} (C : Closed F M B G True True P) (n : Supply) (w : Work)
    (h : P (supplyWork n w).st) : P (changeSupply n w).st := by
  rw [changeSupply_eq]
  exact C.recomputeTarget trivial _ (C.compareLinger trivial _ (C.passes trivial trivial _ h))

theorem changeSupply_latched (n : Supply) (w : Work) : latched (bitMask 7) (changeSupply n w).st :=
  changeSupply_closed (closed_latched False False False False True _) n w (supplyWork_latched n w)

theorem changeSupply_kept (n : Supply) (w : Work) :
    (changeSupply n w).st.kept = ({ w.st with sup := { w.st.sup with state := n, since := w.now } } : State).kept :=
  changeSupply_closed (closed_kept _) n w (supplyWork_kept n w)

theorem changeSupply_steeredOn {free : Prop} (n : Supply) {w : Work} (h : free → w.st.hold.active = false) :
    (changeSupply n w).st.steeredOn free := by
  have C := closed_steeredOn free
  rw [changeSupply_eq]
  refine C.recomputeTarget trivial _ (C.compareLinger trivial _ (passes_steeredOn rfl fun hf => ?_))
  rw [supplyWork_hold]
  exact h hf

/-- An event whose own changes leave classes and flows settled. -/
theorem event_keeps_steered {f : Work → Work} {s : State} {free : Prop} (hs : s.exch.service ≠ .init)
    (h : (f (Work.begin s)).st.steeredOn free) : (event f s).steered free := by
  unfold event
  rw [if_neg hs]
  exact finish_steered s (runPasses_steeredOn _ h)

theorem debounce_same {line : SupplyLine} {w : Work}
    (h : (w.st.sup.setLine line (w.st.sup.line line).settled).stateNow = w.st.sup.state) :
    debounce line w = w.onSup fun m => m.setLine line (m.line line).settled := by
  have hstate : ∀ l, (w.st.sup.setLine line l).state = w.st.sup.state := fun l => by cases line <;> rfl
  exact if_pos (h.trans (hstate _).symm)

theorem debounce_other {line : SupplyLine} {w : Work} {m : SupplyMonitor}
    (hm : w.st.sup.setLine line (w.st.sup.line line).settled = m) (h : m.stateNow ≠ w.st.sup.state) :
    debounce line w = changeSupply m.stateNow (w.onSup fun _ => m) := by
  subst hm
  have hstate : ∀ l, (w.st.sup.setLine line l).state = w.st.sup.state := fun l => by cases line <;> rfl
  exact if_neg fun he => h (he.trans (hstate _))

/-- An event whose own changes leave the target right. -/
theorem event_aims {f : Work → Work} {s : State} (hs : s.exch.service ≠ .init) (h : (f (Work.begin s)).st.onTarget) :
    (event f s).onTarget := by
  unfold event
  rw [if_neg hs]
  exact finish_onTarget _ _ (passes_onTarget _ h)

/-- A supply monitor in the same supply state leaves the condition bits at their facts. -/
theorem condTrue_sup {s : State} {m : SupplyMonitor} (h : s.condTrue) (hm : m.state = s.sup.state) :
    ({ s with sup := m } : State).condTrue := by
  have hfacts : ({ s with sup := m } : State).facts = s.facts := by
    unfold State.facts State.factList
    dsimp only
    rw [hm]
    rfl
  exact h.trans hfacts.symm

theorem supplyLineChange_plain (line : SupplyLine) (high : Bool) {s : State} (hcur : s.current) :
    ∃ t, exec (.supplyLineChange line high) s = .next t ∧ t.plain = ({ s with
      sup := s.sup.setLine line ((s.sup.line line).retaken s.now { (s.sup.line line) with high := high })
        } : State).plain := by
  obtain ⟨hinit, hcond, hirq⟩ := hcur
  have hline : setLineLevel line high s.now s.sup =
      s.sup.setLine line ((s.sup.line line).retaken s.now { (s.sup.line line) with high := high }) :=
    congrArg (s.sup.setLine line) (changed_retaken s.now (fun l => { l with high := high }) _ rfl)
  refine ⟨_, congrArg Host.Outcome.next (if_neg hinit), ?_⟩
  have hstill := event_still (fun w => w.onSup (setLineLevel line high w.now)) s hinit rfl rfl rfl rfl
    (condTrue_sup hcond (setLine_state _ _ _)) hirq
  rw [hstill, ← hline]
  rfl

theorem setSupply_plain (a b c : Bool) {i : Nat} {rest : List Nat} {s : State} (hcur : s.current)
    (hoffers : s.offersKind Kind.setSupply i rest) (ha : param (slotParams s.mem i) 0 1 = a.toNat)
    (hb : param (slotParams s.mem i) 1 1 = b.toNat) (hc : param (slotParams s.mem i) 2 1 = c.toNat) {m : SupplyMonitor}
    (hm : m = { s.sup with
      mainsOk := s.sup.mainsOk.retaken s.now { s.sup.mainsOk with low := a },
      battLow := s.sup.battLow.retaken s.now { s.sup.battLow with low := b },
      battCrit := s.sup.battCrit.retaken s.now { s.sup.battCrit with low := c } }) :
    (takeKind Kind.setSupply orderSetSupply s).plain = (({ s with sup := m } : State).answered i rest .ok
      (supplyAnswer { s with sup := m })).plain ∧
      m.mainsOk.low = a ∧ m.battLow.low = b ∧ m.battCrit.low = c ∧ m.state = s.sup.state := by
  obtain ⟨hinit, hcond, hirq⟩ := hcur
  have hconf : s.sup.configure a b c s.now = m := by
    subst hm
    unfold SupplyMonitor.configure LineRec.setPolarity
    rw [changed_retaken, changed_retaken, changed_retaken] <;> rfl
  have hlow : ∀ (l : LineRec) (x : Bool), (l.retaken s.now { l with low := x }).low = x := by
    intro l x
    unfold LineRec.retaken
    split <;> rfl
  refine ⟨?_, ?_⟩
  · subst hconf
    exact takeKind_still hoffers (setSupply_eq ha hb hc _) rfl rfl rfl rfl ⟨hinit, condTrue_sup hcond rfl, hirq⟩
  · subst hm
    exact ⟨hlow _ _, hlow _ _, hlow _ _, rfl⟩

/-- Settles O32. -/
theorem supplyFollowsItsLines : Obligations.SupplyFollowsItsLines := by
  unfold Obligations.SupplyFollowsItsLines
  refine ⟨fun s => ?_, fun line s hcur hdue => ?_⟩
  · intro change
    refine ⟨fun line high hcur => supplyLineChange_plain line high hcur,
      fun line high hinit => ⟨_, congrArg Host.Outcome.next (if_pos hinit), rfl⟩, fun a b c i rest hcur hoffers => ?_⟩
    intro ps m ha hb hc
    obtain ⟨hplain, hlowA, hlowB, hlowC, hstate⟩ := setSupply_plain a b c hcur hoffers ha hb hc (m := m) rfl
    refine ⟨_, rfl, hplain.trans ?_⟩
    have hanswer : supplyAnswer { s with sup := m } = pack [(1, a.toNat), (1, b.toNat), (1, c.toNat),
        (1, flagBits [m.mainsOk.normal, m.battLow.normal, m.battCrit.normal]),
        (1, flagBits [m.mainsOk.debounced, m.battLow.debounced, m.battCrit.debounced]), (1, s.sup.state.code)] := by
      unfold supplyAnswer
      dsimp only
      rw [hlowA, hlowB, hlowC, hstate]
    rw [hanswer]
  · obtain ⟨hinit, hcond, hirq⟩ := hcur
    have hexec : exec (.debounceExpiry line) s = .next (event (debounce line) s) :=
      congrArg Host.Outcome.next (if_pos hdue)
    intro m n
    have hnow : m.stateNow = n := supplyOf_eq _ _ _
    refine ⟨fun hsame => ⟨_, hexec, ?_⟩, fun hother => ⟨_, hexec, ?_⟩⟩
    · exact event_still _ s hinit (debounce_same (hnow.trans hsame)) rfl rfl rfl
        (condTrue_sup hcond (setLine_state _ _ _)) hirq
    · have hchange : debounce line (Work.begin s) = changeSupply n ((Work.begin s).onSup fun _ => m) := by
        rw [← hnow]
        exact debounce_other rfl (hnow.symm ▸ hother)
      have honTarget : (event (debounce line) s).onTarget := event_aims hinit (by
        rw [hchange]
        exact changeSupply_onTarget n _)
      refine ⟨?_, ?_, honTarget, ?_⟩
      · rw [event_kept _ s hinit, hchange, changeSupply_kept]
        rfl
      · refine getLsbD_of_latched (m := bitMask 7) (event_latched hinit ?_) (by decide)
        rw [hchange]
        exact changeSupply_latched n _
      · refine event_keeps_steered hinit ?_
        rw [hchange]
        exact changeSupply_steeredOn n id

end Sys2Proof.Machine
end


section
/-! A path goes through records: what one change of a path, and one after another, hand on, before and with the passes of
the event (R31, R38, R83, R95, R158). -/

namespace Sys2Proof.Machine

/-! ## Courses of a path within an event's own changes -/

/-- The hold after a path has gone through these records. -/
def Hold.through (now : Time) (p : Path) (was : PathState) (xs : List PathRec) (h : Hold) : Hold :=
  (xs.foldl (fun a x => (a.1.sees now p a.2 x.state, x.state)) (h, was)).1

/-- The return delay after fibre has gone through these records. -/
def Steering.through (now : Time) (was : PathState) (xs : List PathRec) (t : Steering) : Steering :=
  (xs.foldl (fun a x => (a.1.sees now a.2 x.state, x.state)) (t, was)).1

/-- What a course of a path, and a revision of its record, leave of the state, and what they only add to. -/
structure State.PathKeeps (s t : State) (p : Path) : Prop where
  other : t.path (otherPath p) = s.path (otherPath p)
  grade : t.grade = s.grade
  clk : t.clk = s.clk
  service : t.exch.service = s.exch.service
  ru : t.ru = s.ru
  ready : ((s.path p).ready ≠ (t.path p).ready) → latched (bitMask 15) t
  cause : (t.path p).cause.valid ≠ (s.path p).cause.valid ∨ (t.path p).cause.cause ≠ (s.path p).cause.cause →
    latched (bitMask 12) t
  latches : ∀ m, latched m s → latched m t

/-- The path's record revised, its state kept. -/
structure State.PathRevised (s t : State) (p : Path) : Prop where
  keeps : s.PathKeeps t p
  state : (t.path p).state = (s.path p).state
  hold : t.hold = s.hold
  steer : t.steer = s.steer
  drill : t.drill = s.drill

/-- The path gone through these records. -/
structure State.PathWent (s t : State) (p : Path) (xs : List PathRec) : Prop where
  keeps : s.PathKeeps t p
  path : t.path p = xs.getLastD (s.path p)
  hold : t.hold = s.hold.through s.now p (s.path p).state xs
  fibre : p = .fibre → t.steer = s.steer.through s.now (s.path p).state xs
  radio : p = .radio → t.steer = s.steer
  change : (∃ x ∈ xs, x.state ≠ (s.path p).state) → latched (bitMask (changeBit p)) t
  ends : s.hold.active = true → t.hold.active = false → latched (bitMask 10) t
  drill : (s.drill.running = false ∨ p = .fibre ∨ ∀ x ∈ xs, x.state ≠ .up) → t.drill = s.drill
  passes : p = .radio → s.drill.running = true → (s.path p).state ≠ .up → ∀ before x after, xs = before ++ x :: after →
    (∀ y ∈ before, y.state ≠ .up) → x.state = .up →
    t.drill = ({ s with radio := x } : State).drillEnded .pass .radioUp ∧ latched (bitMask 11) t

theorem State.PathKeeps.trans {s t u : State} {p : Path} (h : s.PathKeeps t p) (h' : t.PathKeeps u p) : s.PathKeeps u p where
  other := h'.other.trans h.other
  grade := h'.grade.trans h.grade
  clk := h'.clk.trans h.clk
  service := h'.service.trans h.service
  ru := h'.ru.trans h.ru
  ready := by
    intro hne
    by_cases hst : (s.path p).ready = (t.path p).ready
    · exact h'.ready (hst ▸ hne)
    · exact h'.latches _ (h.ready hst)
  cause := by
    intro hne
    by_cases hst : (t.path p).cause.valid ≠ (s.path p).cause.valid ∨ (t.path p).cause.cause ≠ (s.path p).cause.cause
    · exact h'.latches _ (h.cause hst)
    · obtain ⟨hvalid, hcause⟩ := not_or.mp hst
      refine h'.cause ?_
      rw [not_not.mp hvalid, not_not.mp hcause]
      exact hne
  latches := fun m hm => h'.latches m (h.latches m hm)

theorem hold_sees_same (h : Hold) (now : Time) (p : Path) (n : PathState) : h.sees now p n n = h :=
  if_pos (Or.inr (Or.inr rfl))

theorem steer_sees_same (t : Steering) (now : Time) (n : PathState) : t.sees now n n = t := by
  unfold Steering.sees
  dsimp only
  rw [if_neg (fun h => h.1 h.2), if_neg (fun h => h.2 h.1)]

theorem Hold.through_append (now : Time) (p : Path) (xs ys : List PathRec) (r : PathRec) (h : Hold) :
    h.through now p r.state (xs ++ ys) = (h.through now p r.state xs).through now p (xs.getLastD r).state ys := by
  induction xs generalizing h r with
  | nil => rfl
  | cons x xs ih =>
    rw [List.getLastD_cons]
    exact ih x (h.sees now p r.state x.state)

theorem Steering.through_append (now : Time) (xs ys : List PathRec) (r : PathRec) (t : Steering) :
    t.through now r.state (xs ++ ys) = (t.through now r.state xs).through now (xs.getLastD r).state ys := by
  induction xs generalizing t r with
  | nil => rfl
  | cons x xs ih =>
    rw [List.getLastD_cons]
    exact ih x (t.sees now r.state x.state)

theorem getLastD_append (xs ys : List PathRec) (r : PathRec) : (xs ++ ys).getLastD r = ys.getLastD (xs.getLastD r) := by
  induction xs generalizing r with
  | nil => rfl
  | cons x xs ih =>
    rw [List.cons_append, List.getLastD_cons, List.getLastD_cons]
    exact ih x

/-- A hold that is not active goes through every course unchanged. -/
theorem Hold.through_inactive {h : Hold} (hi : h.active = false) (now : Time) (p : Path) (was : PathState)
    (xs : List PathRec) : h.through now p was xs = h := by
  induction xs generalizing was with
  | nil => rfl
  | cons x xs ih =>
    show (h.sees now p was x.state).through now p x.state xs = h
    rw [sees_inactive hi]
    exact ih _

theorem last_state_mem (xs : List PathRec) (r : PathRec) : xs.getLastD r = r ∨ xs.getLastD r ∈ xs := by
  induction xs generalizing r with
  | nil => exact Or.inl rfl
  | cons x xs ih =>
    rw [List.getLastD_cons]
    rcases ih x with h | h
    · exact Or.inr (by rw [h]; exact List.mem_cons_self)
    · exact Or.inr (List.mem_cons_of_mem _ h)

theorem drillEnded_congr {s t : State} (hclk : t.clk = s.clk) (hservice : t.exch.service = s.exch.service)
    (hru : t.ru = s.ru) (hdrill : t.drill = s.drill) (hradio : t.radio = s.radio) (o : DrillOutcome) (c : DrillCause) :
    t.drillEnded o c = s.drillEnded o c := by
  have hnow : t.now = s.now := congrArg Clock.ms hclk
  unfold State.drillEnded
  rw [hnow, hservice, hru, hdrill, hradio]

theorem State.PathWent.trans {s t u : State} {p : Path} {xs ys : List PathRec} (h : s.PathWent t p xs)
    (h' : t.PathWent u p ys) : s.PathWent u p (xs ++ ys) := by
  have hnow : t.now = s.now := congrArg Clock.ms h.keeps.clk
  refine {
    keeps := h.keeps.trans h'.keeps
    path := by rw [h'.path, h.path, getLastD_append]
    hold := by rw [h'.hold, h.hold, hnow, h.path, Hold.through_append]
    fibre := fun hp => by rw [h'.fibre hp, h.fibre hp, hnow, h.path, Steering.through_append]
    radio := fun hp => (h'.radio hp).trans (h.radio hp)
    change := ?change, ends := ?ends, drill := ?drill, passes := ?passes }
  case change =>
    rintro ⟨x, hx, hne⟩
    by_cases hbefore : ∃ x ∈ xs, x.state ≠ (s.path p).state
    · exact h'.keeps.latches _ (h.change hbefore)
    · have hsame : ∀ x ∈ xs, x.state = (s.path p).state := fun x hx => by
        by_contra hne
        exact hbefore ⟨x, hx, hne⟩
      have hlast : (t.path p).state = (s.path p).state := by
        rw [h.path]
        rcases last_state_mem xs (s.path p) with he | hm
        · rw [he]
        · exact hsame _ hm
      rcases List.mem_append.mp hx with hin | hin
      · exact absurd (hsame x hin) hne
      · exact h'.change ⟨x, hin, hlast.symm ▸ hne⟩
  case ends =>
    intro hactive hends
    by_cases ht : t.hold.active = true
    · exact h'.ends ht hends
    · exact h'.keeps.latches _ (h.ends hactive (Bool.eq_false_iff.mpr ht))
  case drill =>
    intro hidle
    have ht : t.drill = s.drill := h.drill (hidle.imp_right fun h => h.imp_right fun h x hx => h x (List.mem_append_left _ hx))
    refine (h'.drill ?_).trans ht
    rw [ht]
    exact hidle.imp_right fun h => h.imp_right fun h x hx => h x (List.mem_append_right _ hx)
  case passes =>
    intro hp hrun hup before x after heq hbefore hx
    have hlater : ∀ l, before = xs ++ l → ys = l ++ x :: after →
        u.drill = ({ s with radio := x } : State).drillEnded .pass .radioUp ∧ latched (bitMask 11) u := by
      intro l hbl hyl
      have hxs : ∀ y ∈ xs, y.state ≠ .up := fun y hy => hbefore y (hbl ▸ List.mem_append_left _ hy)
      have ht : t.drill = s.drill := h.drill (Or.inr (Or.inr hxs))
      have hlast : (t.path p).state ≠ .up := by
        rw [h.path]
        rcases last_state_mem xs (s.path p) with he | hm
        · rw [he]
          exact hup
        · exact hxs _ hm
      obtain ⟨hdrill, hlatch⟩ := h'.passes hp (ht ▸ hrun) hlast l x after hyl
        (fun y hy => hbefore y (hbl ▸ List.mem_append_right _ hy)) hx
      refine ⟨hdrill.trans ?_, hlatch⟩
      exact drillEnded_congr (s := { s with radio := x }) (t := { t with radio := x }) h.keeps.clk h.keeps.service
        h.keeps.ru ht rfl _ _
    rcases List.append_eq_append_iff.mp heq with ⟨l, hbl, hyl⟩ | ⟨l, hxl, hal⟩
    · exact hlater l hbl hyl
    · cases l with
      | nil => exact hlater [] (by simpa using hxl.symm) hal.symm
      | cons z l =>
        obtain ⟨rfl, hz⟩ : x = z ∧ after = l ++ ys := by simpa using hal
        obtain ⟨hdrill, hlatch⟩ := h.passes hp hrun hup before x l hxl hbefore hx
        have hended : t.drill.running = false := by rw [hdrill]; rfl
        exact ⟨(h'.drill (Or.inl hended)).trans hdrill, h'.keeps.latches _ hlatch⟩

theorem State.PathRevised.trans {s t u : State} {p : Path} (h : s.PathRevised t p) (h' : t.PathRevised u p) :
    s.PathRevised u p where
  keeps := h.keeps.trans h'.keeps
  state := h'.state.trans h.state
  hold := h'.hold.trans h.hold
  steer := h'.steer.trans h.steer
  drill := h'.drill.trans h.drill

/-- A record revised, as a course of its own. -/
theorem State.PathRevised.went {s t : State} {p : Path} (h : s.PathRevised t p) : s.PathWent t p [t.path p] where
  keeps := h.keeps
  path := rfl
  hold := by
    rw [h.hold]
    show s.hold = s.hold.sees s.now p (s.path p).state (t.path p).state
    rw [h.state, hold_sees_same]
  fibre := fun _ => by
    rw [h.steer]
    show s.steer = s.steer.sees s.now (s.path p).state (t.path p).state
    rw [h.state, steer_sees_same]
  radio := fun _ => h.steer
  change := by
    rintro ⟨x, hx, hne⟩
    rw [List.mem_singleton.mp hx] at hne
    exact absurd h.state hne
  ends := fun ha he => absurd ((congrArg Hold.active h.hold).symm.trans he) (by rw [ha]; decide)
  drill := fun _ => h.drill
  passes := by
    intro _ _ hup before x after heq _ hx
    have hmem : x ∈ [t.path p] := heq ▸ List.mem_append_right _ List.mem_cons_self
    rw [List.mem_singleton.mp hmem, h.state] at hx
    exact absurd hx hup

/-- A revision of the record before the first step of a course belongs to that step. -/
theorem State.PathRevised.then {s t u : State} {p : Path} {x : PathRec} {xs : List PathRec} (h : s.PathRevised t p)
    (h' : t.PathWent u p (x :: xs)) : s.PathWent u p (x :: xs) := by
  have hnow : t.now = s.now := congrArg Clock.ms h.keeps.clk
  refine {
    keeps := h.keeps.trans h'.keeps
    path := h'.path
    hold := by rw [h'.hold, h.hold, hnow, h.state]
    fibre := fun hp => by rw [h'.fibre hp, h.steer, hnow, h.state]
    radio := fun hp => (h'.radio hp).trans h.steer
    change := fun hc => h'.change (h.state.symm ▸ hc)
    ends := fun ha => h'.ends ((congrArg Hold.active h.hold).trans ha)
    drill := fun hc => (h'.drill (h.drill.symm ▸ hc)).trans h.drill
    passes := ?passes }
  intro hp hrun hup before y after heq hbefore hy
  obtain ⟨hdrill, hlatch⟩ := h'.passes hp (h.drill.symm ▸ hrun) (h.state.symm ▸ hup) before y after heq hbefore hy
  exact ⟨hdrill.trans (drillEnded_congr (s := { s with radio := y }) (t := { t with radio := y }) h.keeps.clk h.keeps.service
    h.keeps.ru h.drill rfl _ _), hlatch⟩

/-! ## The passes of the event (R87) -/

/-- A drill that does not run stays as it is. -/
theorem closed_drillRests (F M B G D : Prop) (d : Drill) (hd : d.running = false) :
    Closed F M B G D True fun s => s.drill = d where
  path := fun _ p _ _ _ h => by cases p <;> exact h
  probe := fun _ _ p _ _ _ h => by cases p <;> exact h
  grade := fun _ _ _ h => h
  ru := fun _ _ _ h => h
  ruEvent := fun _ _ _ _ h => h
  aim := fun _ _ _ _ _ h => h
  demand := fun _ _ _ _ h => h
  ret := fun _ _ _ _ h => h
  classes := fun _ _ _ _ h => h
  hold := fun _ _ _ h => h
  flows := fun _ _ _ _ h => h
  free := fun _ _ _ _ h => h
  fwd := fun _ _ _ h => h
  fwdEvent := fun _ _ _ _ h => h
  allow := fun _ _ h => h
  drill := by
    intro s d' hs h
    rcases hs.ends with he | ⟨hrun, -⟩
    · exact he.trans h
    · rw [h, hd] at hrun
      cases hrun
  ev := fun _ _ _ h => h
  fin := fun _ _ _ _ _ h => h

/-- What the passes and the end of an event leave of its own changes. -/
structure State.EventEnds (v t : State) : Prop where
  link : v.LinkGoes t
  fibre : t.fibre = v.fibre
  ret : t.steer.ret = v.steer.ret ∧ t.steer.retDue = v.steer.retDue
  drill : v.drill.running = false → t.drill = v.drill
  latches : ∀ m, latched m v → latched m t

theorem reported_drill (d : Drill) : Reported fun s => s.drill = d where
  counts := fun _ _ h => h
  flowChanges := fun _ _ h => h
  classes := fun _ _ _ h => h
  flows := fun _ _ _ h => h
  irq := fun _ _ h => h

theorem event_drill {f : Work → Work} {s : State} (hs : s.exch.service ≠ .init)
    (hd : (f (Work.begin s)).st.drill.running = false) : (event f s).drill = (f (Work.begin s)).st.drill := by
  have C := closed_drillRests False False False False True _ hd
  unfold event
  rw [if_neg hs]
  exact (reported_drill _).finish C s _ (C.passes trivial trivial _ rfl)

theorem event_ends {f : Work → Work} {s : State} (hs : s.exch.service ≠ .init) :
    (f (Work.begin s)).st.EventEnds (event f s) := by
  have hkept := event_kept f s hs
  exact ⟨event_linkGoes hs, (congrArg State.fibre hkept :),
    ⟨ret_of_kept hkept, (congrArg (fun u : State => u.steer.retDue) hkept :)⟩, event_drill hs,
    fun m hm => event_latched hs hm⟩

theorem takeKind_ends {kind i : Nat} {rest : List Nat} {s : State} {body : List Byte → Work → Answered} {v : Work}
    (hoffers : s.offersKind kind i rest) (hv : (body (slotParams s.mem i) (Work.begin s)).work = v)
    (hmem : v.st.mem = s.mem) : v.st.EventEnds (takeKind kind body s) := by
  subst hv
  have hkept := takeKind_kept kind body s i rest hoffers hmem
  have hdrill : (body (slotParams s.mem i) (Work.begin s)).work.st.drill.running = false →
      (takeKind kind body s).drill = (body (slotParams s.mem i) (Work.begin s)).work.st.drill := fun hd =>
    takeKind_closed (reported_drill _) (closed_drillRests False False False False True _ hd) trivial trivial
      (fun _ _ _ h => h) hoffers rfl
  exact ⟨takeKind_linkGoes hoffers, (congrArg State.fibre hkept :),
    ⟨(congrArg (fun u : State => u.steer.ret) hkept :), (congrArg (fun u : State => u.steer.retDue) hkept :)⟩, hdrill, fun m hm => takeKind_latched hoffers hm⟩

theorem changeBit_latched (t : State) (p : Path) : latched (bitMask (changeBit p)) t →
    t.ev.latch.getLsbD (match p with | .fibre => 1 | .radio => 2) = true := by
  intro h
  cases p with
  | fibre => exact getLsbD_of_latched h (by decide)
  | radio => exact getLsbD_of_latched h (by decide)

/-- The radio path's record after the course of a path. -/
def State.radioThrough (s : State) (p : Path) (xs : List PathRec) : PathRec :=
  match p with | .fibre => s.radio | .radio => xs.getLastD (s.path p)

theorem State.PathWent.radio_eq {s v : State} {p : Path} {xs : List PathRec} (h : s.PathWent v p xs) :
    s.radioThrough p xs = v.radio := by
  cases p with
  | fibre => exact h.keeps.other.symm
  | radio => exact h.path.symm

theorem ready_ne_iff {r r' : PathRec} : r.ready ≠ r'.ready ↔ ¬(8 ≤ r.window.length ↔ 8 ≤ r'.window.length) := by
  unfold PathRec.ready
  rw [ne_eq, decide_eq_decide]
  exact Iff.rfl

/-- The course of a path in an event's own changes is its course in the event. -/
theorem pathGoes_of_went {s v t : State} {p : Path} {xs : List PathRec} (h : s.PathWent v p xs) (ht : v.EventEnds t) :
    s.pathGoes t p xs := by
  have hclk := h.keeps.clk
  have hnow : v.now = s.now := congrArg Clock.ms hclk
  have hcloses : s.closes t ↔ v.closes t := by
    unfold State.closes
    rw [h.keeps.ru]
  have hlost : ∀ r : PathRec, r.lostIn v .radio = r.lostIn s .radio := lostIn_congr hclk h.keeps.service h.keeps.grade _
  unfold State.pathGoes
  dsimp only
  refine ⟨?fibre, fun hc => ?closes, fun hc => ?stays, fun hp => ?delay, fun hp => ?ret, ?grade, fun hc => ?change,
    fun hr => ?ready, fun hc => ?cause, fun ha he => ?ends, fun hp hrun hup before x after heq hbefore hx => ?drill⟩
  case fibre =>
    rw [ht.fibre]
    cases p with
    | fibre => exact h.path
    | radio => exact h.keeps.other
  case closes =>
    have hends : t.radio = (s.radioThrough p xs).lostIn s .radio
        ∧ t.hold = (s.hold.through s.now p (s.path p).state xs).sees s.now .radio (s.radioThrough p xs).state .down := by
      obtain ⟨hr, hh⟩ := ht.link.lost (hcloses.mp hc)
      rw [hr, hh, hlost, hnow, h.hold, h.radio_eq]
      exact ⟨rfl, rfl⟩
    cases p with
    | fibre => exact hends
    | radio => exact hends
  case stays =>
    have hends : t.radio = s.radioThrough p xs ∧ t.hold = s.hold.through s.now p (s.path p).state xs := by
      obtain ⟨hr, hh⟩ := ht.link.stays (mt hcloses.mpr hc)
      exact ⟨hr.trans h.radio_eq.symm, hh.trans h.hold⟩
    cases p with
    | fibre => exact hends
    | radio => exact hends
  case delay =>
    rw [ht.ret.1, ht.ret.2, h.fibre hp]
    exact ⟨rfl, rfl⟩
  case ret =>
    rw [ht.ret.1, ht.ret.2, h.radio hp]
    exact ⟨rfl, rfl⟩
  case grade => exact ht.link.grade.trans h.keeps.grade
  case change => exact changeBit_latched t p (ht.latches _ (h.change hc))
  case ready =>
    have hpath := h.path
    exact getLsbD_of_latched (ht.latches _ (h.keeps.ready (ready_ne_iff.mpr (by rw [hpath]; exact hr)))) (by decide)
  case cause => exact getLsbD_of_latched (ht.latches _ (h.keeps.cause (by rw [h.path]; exact hc))) (by decide)
  case ends =>
    by_cases hv : v.hold.active = true
    · exact ht.link.breaks hv he
    · exact (ht.link.ends (Bool.eq_false_iff.mpr hv)).trans
        (getLsbD_of_latched (h.ends ha (Bool.eq_false_iff.mpr hv)) (by decide))
  case drill =>
    obtain ⟨hdrill, hlatch⟩ := h.passes hp hrun hup before x after heq hbefore hx
    have hrests : v.drill.running = false := by rw [hdrill]; rfl
    exact ⟨(ht.drill hrests).trans hdrill, getLsbD_of_latched (ht.latches _ hlatch) (by decide)⟩

end Sys2Proof.Machine
end


section
/-! What a path's state change, and a rewrite of its settings, are as steps of its course; SET PROBING, SET TEMPLATE and
SET DAMPING (R20, R21, R37, R38, R49). -/

namespace Sys2Proof.Machine

/-! ## A state change as a course of one record -/

theorem State.PathRevised.refl (s : State) (p : Path) : s.PathRevised s p where
  keeps := {
    other := rfl, grade := rfl, clk := rfl, service := rfl, ru := rfl, ready := fun h => absurd rfl h,
    cause := fun h => (h.elim (fun h => h rfl) fun h => h rfl).elim, latches := fun _ h => h }
  state := rfl
  hold := rfl
  steer := rfl
  drill := rfl

theorem movesTo_same {now : Time} {n : PathState} {r : PathRec} (h : r.state = n) : r.movesTo now n = r := if_pos h

/-- A move of the state leaves everything but state, fail count and usable bit with its time. -/
theorem movesTo_fields (now : Time) (n : PathState) (r : PathRec) :
    (r.movesTo now n).state = n ∧ (r.movesTo now n).window = r.window ∧ (r.movesTo now n).probes = r.probes
      ∧ (r.movesTo now n).cause = r.cause ∧ (r.movesTo now n).settings = r.settings := by
  by_cases h : r.state = n
  · rw [movesTo_same h]
    exact ⟨h, rfl, rfl, rfl, rfl⟩
  · rw [movesTo_of_ne h]
    exact ⟨rfl, rfl, rfl, rfl, rfl⟩

theorem ready_of_window {r r' : PathRec} (h : r'.window = r.window) : r'.ready = r.ready := by
  unfold PathRec.ready
  rw [h]

/-- What a state change to another state than DOWN makes of the path, by fields. -/
theorem changed_fields (s : State) (p : Path) {n : PathState} (hn : n ≠ .down) :
    (s.changed p n).path p = (s.path p).movesTo s.now n ∧ (s.changed p n).path (otherPath p) = s.path (otherPath p)
      ∧ (s.changed p n).clk = s.clk ∧ (s.changed p n).exch = s.exch ∧ (s.changed p n).ru = s.ru := by
  unfold State.changed State.moved PathRec.changed
  simp only [if_neg hn]
  cases p <;> exact ⟨rfl, rfl, rfl, rfl, rfl⟩

theorem State.OnlyEv.path {s t : State} (h : s.OnlyEv t) (p : Path) : t.path p = s.path p := by
  obtain ⟨e, -, rfl⟩ := h
  exact path_ev s e p

theorem setPathState_path (p : Path) {n : PathState} (hn : n ≠ .down) (w : Work) :
    (setPathState p n w).st.path p = (w.st.path p).movesTo w.st.now n := by
  by_cases h : (w.st.path p).state = n
  · rw [setPathState_same h, movesTo_same h]
  · rw [(setPathState_onlyEv p w h).path]
    exact (changed_fields w.st p hn).1

theorem setPathState_keeps (p : Path) {n : PathState} (hn : n ≠ .down) (w : Work)
    (hp : p = .fibre ∨ (w.st.path p).state ≠ .down) : w.st.PathKeeps (setPathState p n w).st p := by
  by_cases h : (w.st.path p).state = n
  · rw [setPathState_same h]
    exact (State.PathRevised.refl _ _).keeps
  · obtain ⟨-, hwindow, -, hcause, -⟩ := movesTo_fields w.st.now n (w.st.path p)
    have hpath := setPathState_path p hn w
    have honly := setPathState_onlyEv p w h
    obtain ⟨-, hother, hclk, hexch, hru⟩ := changed_fields w.st p hn
    refine {
      other := (honly.path _).trans hother
      grade := ?grade
      clk := honly.clk.trans hclk
      service := ?service
      ru := ?ru
      ready := fun hne => absurd (ready_of_window (by rw [hpath, hwindow])).symm hne
      cause := fun hne => ?cause
      latches := fun m hm => (closedLatched m).setPathState p (Or.inr trivial) n w (Or.inl (Or.inl trivial)) hm }
    case grade =>
      obtain ⟨e, -, hst⟩ := honly
      rw [hst]
      cases p with
      | fibre => rfl
      | radio => exact if_neg (hp.resolve_left nofun)
    case service =>
      obtain ⟨e, -, hst⟩ := honly
      rw [hst]
      exact congrArg Exchange.service hexch
    case ru =>
      obtain ⟨e, -, hst⟩ := honly
      rw [hst]
      exact hru
    case cause =>
      rw [hpath, hcause] at hne
      exact (hne.elim (fun h => h rfl) fun h => h rfl).elim

/-- What a state change shows return delay and drill. -/
theorem changed_sighted (s : State) (p : Path) (n : PathState) :
    (p = .fibre → (s.changed p n).steer = s.steer.sees s.now (s.path p).state n) ∧ (p = .radio → (s.changed p n).steer = s.steer)
      ∧ (s.drill.running = false ∨ p = .fibre ∨ n ≠ .up → (s.changed p n).drill = s.drill) := by
  cases p with
  | fibre => exact ⟨fun _ => rfl, nofun, fun _ => rfl⟩
  | radio =>
    refine ⟨nofun, fun _ => rfl, fun h => if_neg fun hc => ?_⟩
    rcases h with hrun | hp | hn
    · exact absurd (hrun.symm.trans hc.2) (by decide)
    · cases hp
    · exact hn hc.1

/-- A state change to another state than DOWN, from DOWN only on fibre, is a course of one record. -/
theorem setPathState_went (p : Path) {n : PathState} (hn : n ≠ .down) (w : Work)
    (hp : p = .fibre ∨ (w.st.path p).state ≠ .down) :
    w.st.PathWent (setPathState p n w).st p [(w.st.path p).movesTo w.st.now n] := by
  have hpath := setPathState_path p hn w
  by_cases h : (w.st.path p).state = n
  · rw [← hpath, setPathState_same h]
    exact (State.PathRevised.refl w.st p).went
  · have honly := setPathState_onlyEv p w h
    obtain ⟨hsteer, hrest, hdrill⟩ := changed_sighted w.st p n
    have hfields : (setPathState p n w).st.steer = (w.st.changed p n).steer
        ∧ (setPathState p n w).st.drill = (w.st.changed p n).drill := by
      obtain ⟨e, -, hst⟩ := honly
      rw [hst]
      exact ⟨rfl, rfl⟩
    have hstate := (movesTo_fields w.st.now n (w.st.path p)).1
    refine {
      keeps := setPathState_keeps p hn w hp
      path := hpath
      hold := ?hold
      fibre := fun hp => ?fibre
      radio := fun hp => hfields.1.trans (hrest hp)
      change := fun _ => setPathState_latched_change h
      ends := setPathState_latched_hold
      drill := fun hc => hfields.2.trans (hdrill ?drill)
      passes := fun hp hrun hup before x after heq hbefore hx => ?passes }
    case hold =>
      rw [setPathState_hold p w h]
      show _ = w.st.hold.sees w.st.now p (w.st.path p).state ((w.st.path p).movesTo w.st.now n).state
      rw [hstate]
      rfl
    case fibre =>
      rw [hfields.1, hsteer hp]
      show _ = w.st.steer.sees w.st.now (w.st.path p).state ((w.st.path p).movesTo w.st.now n).state
      rw [hstate]
    case drill => exact hc.imp_right fun hc => hc.imp_right fun hc => hstate ▸ hc _ List.mem_cons_self
    case passes =>
      subst hp
      have hmem : x ∈ [(w.st.path .radio).movesTo w.st.now n] := heq ▸ List.mem_append_right _ List.mem_cons_self
      obtain rfl : x = (w.st.path .radio).movesTo w.st.now n := List.mem_singleton.mp hmem
      obtain rfl : n = .up := hstate.symm.trans hx
      refine ⟨hfields.2.trans ?_, setPathState_latched_drill hup hrun⟩
      refine (if_pos ⟨rfl, hrun⟩).trans ?_
      exact drillEnded_congr rfl rfl rfl rfl rfl _ _

/-! ## Settings rewritten -/

/-- The path's record rewritten, and the path settled where the test says so. -/
def rewrite (p : Path) (f : PathRec → PathRec) (c : Prop) [Decidable c] (w : Work) : Work :=
  if c then settle p (w.onPath p f) else w.onPath p f

/-- The rewritten record. -/
def PathRec.rewritten (f : PathRec → PathRec) (c : Prop) [Decidable c] (r : PathRec) : PathRec :=
  if c then (f r).settled else f r

section
variable (p : Path) (f : PathRec → PathRec) (c : Prop) [Decidable c] (w : Work)

theorem rewrite_onlyEv :
    (w.st.withPath p ((w.st.path p).rewritten f c) (decide c)).OnlyEv (rewrite p f c w).st := by
  unfold rewrite PathRec.rewritten
  by_cases h : c
  · rw [if_pos h, if_pos h, decide_eq_true h]
    have hsettle := settle_onlyEv p (w.onPath p f)
    rw [onPath_path] at hsettle
    have heq : (w.onPath p f).st.withPath p (f (w.st.path p)).settled true
        = w.st.withPath p (f (w.st.path p)).settled true := by cases p <;> rfl
    exact heq ▸ hsettle
  · rw [if_neg h, if_neg h, decide_eq_false h]
    have heq : w.st.withPath p (f (w.st.path p)) false = (w.onPath p f).st := by cases p <;> rfl
    rw [heq]
    exact State.OnlyEv.refl _

theorem rewrite_owes : (rewrite p f c w).passDue = w.passDue ∧ (rewrite p f c w).demandDue = w.demandDue := by
  unfold rewrite
  split
  · exact ⟨settle_passDue p _, settle_demandDue p _⟩
  · exact ⟨rfl, rfl⟩

theorem withPath_fields (s : State) (r : PathRec) (b : Bool) :
    (s.withPath p r b).path p = r ∧ (s.withPath p r b).path (otherPath p) = s.path (otherPath p)
      ∧ (s.withPath p r b).mem = s.mem ∧ (s.withPath p r b).flows = s.flows ∧ (s.withPath p r b).gens = s.gens
      ∧ (s.withPath p r b).exch = s.exch := by
  cases p <;> cases b <;> exact ⟨rfl, rfl, rfl, rfl, rfl, rfl⟩

end

/-- The rewrite of settings, with what settling brings, revises the path's record. -/
theorem rewrite_revised {p : Path} {f : PathRec → PathRec} {c : Prop} [Decidable c] {w : Work}
    (hstate : (f (w.st.path p)).state = (w.st.path p).state) (hwindow : (f (w.st.path p)).window = (w.st.path p).window)
    (hcause : (f (w.st.path p)).cause = (w.st.path p).cause) : w.st.PathRevised (rewrite p f c w).st p := by
  have honly := rewrite_onlyEv p f c w
  obtain ⟨hpath, -⟩ := withPath_fields p w.st ((w.st.path p).rewritten f c) (decide c)
  have hrecord := (honly.path p).trans hpath
  have hsettled : ((w.st.path p).rewritten f c).state = (w.st.path p).state
      ∧ ((w.st.path p).rewritten f c).cause = (w.st.path p).cause := by
    unfold PathRec.rewritten
    split
    · exact ⟨hstate, hcause⟩
    · exact ⟨hstate, hcause⟩
  obtain ⟨hstate', hcause'⟩ := hsettled
  have hothers : (rewrite p f c w).st.path (otherPath p) = w.st.path (otherPath p) ∧ (rewrite p f c w).st.grade = w.st.grade
      ∧ (rewrite p f c w).st.clk = w.st.clk ∧ (rewrite p f c w).st.exch = w.st.exch ∧ (rewrite p f c w).st.ru = w.st.ru
      ∧ (rewrite p f c w).st.hold = w.st.hold ∧ (rewrite p f c w).st.steer = w.st.steer
      ∧ (rewrite p f c w).st.drill = w.st.drill := by
    obtain ⟨e, -, hst⟩ := honly
    rw [hst]
    cases p <;> cases decide c <;> exact ⟨rfl, rfl, rfl, rfl, rfl, rfl, rfl, rfl⟩
  obtain ⟨hother, hgrade, hclk, hexch, hru, hhold, hsteer, hdrill⟩ := hothers
  refine {
    keeps := {
      other := hother, grade := hgrade, clk := hclk, service := congrArg Exchange.service hexch, ru := hru,
      ready := fun hne => ?ready
      cause := fun hne => ?cause
      latches := fun m hm => ?latches }
    state := (congrArg PathRec.state hrecord).trans hstate', hold := hhold, steer := hsteer, drill := hdrill }
  case ready =>
    have hsame : (f (w.st.path p)).ready = (w.st.path p).ready := ready_of_window hwindow
    unfold rewrite at hne ⊢
    by_cases h : c
    · rw [if_pos h] at hne ⊢
      by_cases hready : (w.st.path p).ready = true
      · exact settle_latched (((congrArg PathRec.ready (onPath_path p f w)).trans hsame).trans hready)
      · have hsettles := (settle_onlyEv p (w.onPath p f)).path p
        obtain ⟨hp, -⟩ := withPath_fields p (w.onPath p f).st ((w.onPath p f).st.path p).settled true
        rw [hsettles, hp, Bool.eq_false_iff.mpr hready] at hne
        exact absurd rfl hne
    · rw [if_neg h, onPath_path] at hne
      exact absurd hsame.symm hne
  case cause =>
    rw [hrecord, hcause'] at hne
    exact (hne.elim (fun h => h rfl) fun h => h rfl).elim
  case latches =>
    have hset : latched m (w.onPath p f).st := by cases p <;> exact hm
    unfold rewrite
    split
    · exact (closedLatched m).settle p (Or.inr trivial) _ hset
    · exact hset

end Sys2Proof.Machine
end


section
/-! SET PROBING and SET TEMPLATE: settings rewritten, and the rise of a path that becomes link-only (R20, R21, R37). -/

namespace Sys2Proof.Machine

/-- In SERVICE, a path in PROVING or WEAK becomes link-only. -/
def State.risesBy (s : State) (p : Path) (r : PathRec) : Prop :=
  (s.path p).linkOnly = false ∧ r.linkOnly = true ∧ s.exch.service = .service
    ∧ ((s.path p).state = .proving ∨ (s.path p).state = .weak)

section
variable {s : State} {p : Path} {v : Work} (hexch : v.st.exch = s.exch) (hstate : (v.st.path p).state = (s.path p).state)
include hexch hstate

theorem becameLinkOnly_stays (h : ¬s.risesBy p (v.st.path p)) : becameLinkOnly p (s.path p).linkOnly v = v := by
  refine if_neg fun hc => h ?_
  simp only [Bool.and_eq_true, Bool.or_eq_true, Bool.not_eq_true', decide_eq_true_iff] at hc
  obtain ⟨⟨⟨hwas, his⟩, hservice⟩, hfrom⟩ := hc
  exact ⟨hwas, his, hexch ▸ hservice, hstate ▸ hfrom⟩

theorem becameLinkOnly_rises (h : s.risesBy p (v.st.path p)) :
    becameLinkOnly p (s.path p).linkOnly v = setPathState p .up v := by
  obtain ⟨hwas, his, hservice, hfrom⟩ := h
  refine if_pos ?_
  simp only [Bool.and_eq_true, Bool.or_eq_true, Bool.not_eq_true', decide_eq_true_iff]
  exact ⟨⟨⟨hwas, his⟩, hexch ▸ hservice⟩, hstate ▸ hfrom⟩

end

/-- The path holds neither results nor probes. -/
def State.emptied (p : Path) (s : State) : Prop := (s.path p).window = [] ∧ (s.path p).probes = []

theorem closed_emptied (p : Path) : Closed True True False False True True (State.emptied p) where
  path := by
    rintro s q f - hs ⟨hwindow, hprobes⟩
    by_cases hq : q = p
    · subst hq
      unfold State.emptied
      rw [path_onPath]
      exact ⟨hs.window.elim (fun h => h.trans hwindow) id, hs.probes.elim (fun h => h.trans hprobes) id⟩
    · have hother : (s.onPath q f).path p = s.path p := by
        cases q with
        | fibre => cases p with
          | fibre => exact absurd rfl hq
          | radio => rfl
        | radio => cases p with
          | fibre => rfl
          | radio => exact absurd rfl hq
      unfold State.emptied
      rw [hother]
      exact ⟨hwindow, hprobes⟩
  probe := fun h => h.elim
  grade := fun _ _ _ h => by cases p <;> exact h
  ru := fun _ _ _ h => by cases p <;> exact h
  ruEvent := fun _ _ _ _ h => by cases p <;> exact h
  aim := fun _ _ _ _ _ h => by cases p <;> exact h
  demand := fun _ _ _ _ h => by cases p <;> exact h
  ret := fun _ _ _ _ h => by cases p <;> exact h
  classes := fun _ _ _ _ h => by cases p <;> exact h
  hold := fun _ _ _ h => by cases p <;> exact h
  flows := fun _ _ _ _ h => by cases p <;> exact h
  free := fun h => h.elim
  fwd := fun _ _ _ h => by cases p <;> exact h
  fwdEvent := fun h => h.elim
  allow := fun _ _ h => by cases p <;> exact h
  drill := fun _ _ _ h => by cases p <;> exact h
  ev := fun _ _ _ h => by cases p <;> exact h
  fin := fun _ _ _ _ _ h => by cases p <;> exact h

theorem reported_emptied (p : Path) : Reported (State.emptied p) where
  counts := fun _ _ h => by cases p <;> exact h
  flowChanges := fun _ _ h => by cases p <;> exact h
  classes := fun _ _ _ h => by cases p <;> exact h
  flows := fun _ _ _ h => by cases p <;> exact h
  irq := fun _ _ h => by cases p <;> exact h

/-- What an event leaves of a path's settings. -/
theorem settings_of_keptByPaths {s t : State} (h : s.keptByPaths = t.keptByPaths) (p : Path) :
    (s.path p).settings = (t.path p).settings := by
  cases p with
  | fibre => exact (congrArg (fun u : State => u.fibre.settings) h :)
  | radio => exact (congrArg (fun u : State => u.radio.settings) h :)

theorem keptByPaths_answered {s t : State} (h : s.keptByPaths = t.keptByPaths) (i : Nat) (rest : List Nat) (r : ResultCode)
    (ans : List Byte) : (s.answered i rest r ans).keptByPaths = (t.answered i rest r ans).keptByPaths :=
  (congrArg (fun u : State => u.answered i rest r ans) h :)

/-- A rewrite of settings leaves the path's course. -/
def RewritesSettings (f : PathRec → PathRec) : Prop :=
  ∀ r, (f r).state = r.state ∧ (f r).window = r.window ∧ (f r).cause = r.cause

section
variable {kind i : Nat} {rest : List Nat} {s : State} {body : List Byte → Work → Answered} {p : Path}
  {f : PathRec → PathRec} {c : Prop} [Decidable c] {result : ResultCode} {answer : State → List Byte} {ans : List Byte}

/-- An order that rewrites a path's settings, and what it makes where the path becomes link-only. -/
theorem takeKind_rewrites (hoffers : s.offersKind kind i rest) (hf : RewritesSettings f) {after : PathRec}
    (hafter : (s.path p).rewritten f c = after)
    (hbody : body (slotParams s.mem i) (Work.begin s) = {
      work := becameLinkOnly p (s.path p).linkOnly (rewrite p f c (Work.begin s)), result := result, answer := answer })
    (hanswer : ∀ t : State, (t.path p).settings = after.settings → t.gens = s.gens → answer t = ans)
    (hc : s.risesBy p after → c) :
    (¬s.risesBy p after → (takeKind kind body s).quiet
      = ((s.withPath p after (decide c)).answered i rest result ans).quiet) ∧
    (s.risesBy p after → (takeKind kind body s).keptByPaths
        = ((s.withPath p after (decide c)).answered i rest result ans).keptByPaths
      ∧ ((takeKind kind body s).path p).window = [] ∧ ((takeKind kind body s).path p).probes = []
      ∧ s.pathGoes (takeKind kind body s) p [after.movesTo s.now .up]) := by
  subst hafter
  have honly : (s.withPath p ((s.path p).rewritten f c) (decide c)).OnlyEv (rewrite p f c (Work.begin s)).st :=
    rewrite_onlyEv p f c (Work.begin s)
  obtain ⟨hstate, hwindow, hcause⟩ := hf (s.path p)
  have hrevised : s.PathRevised (rewrite p f c (Work.begin s)).st p :=
    rewrite_revised (w := Work.begin s) hstate hwindow hcause
  obtain ⟨hpassDue, hdemandDue⟩ := rewrite_owes p f c (Work.begin s)
  have hfields := withPath_fields p s ((s.path p).rewritten f c) (decide c)
  have hempty : c → ((s.path p).rewritten f c).window = [] ∧ ((s.path p).rewritten f c).probes = [] := by
    intro h
    unfold PathRec.rewritten
    rw [if_pos h]
    exact ⟨rfl, rfl⟩
  generalize (s.path p).rewritten f c = after at *
  generalize rewrite p f c (Work.begin s) = v at *
  obtain ⟨hp, -, hmem, hflows, hgens, hexch⟩ := hfields
  have hv : v.st.path p = after ∧ v.st.mem = s.mem ∧ v.st.flows = s.flows ∧ v.st.gens = s.gens ∧ v.st.exch = s.exch := by
    refine ⟨(honly.path p).trans hp, ?_⟩
    obtain ⟨e, -, hst⟩ := honly
    rw [hst]
    exact ⟨hmem, hflows, hgens, hexch⟩
  obtain ⟨hpath, hmem', hflows', hgens', hexch'⟩ := hv
  refine ⟨fun hstays => ?stays, fun hrises => ?rises⟩
  case stays =>
    rw [becameLinkOnly_stays hexch' hrevised.state (hpath ▸ hstays)] at hbody
    have hquiet := takeKind_quiet hoffers hbody hpassDue hdemandDue hmem' hflows'
    dsimp only at hquiet
    rw [hanswer v.st (by rw [hpath]) hgens'] at hquiet
    exact hquiet.trans (honly.answered i rest _ _).quiet
  case rises =>
    rw [becameLinkOnly_rises hexch' hrevised.state (hpath ▸ hrises)] at hbody
    have hfrom : after.state = .proving ∨ after.state = .weak := by
      obtain ⟨-, -, -, hfrom⟩ := hrises
      rw [← hpath, hrevised.state]
      exact hfrom
    have hnot : (v.st.path p).state ≠ .down := by
      rw [hpath]
      rcases hfrom with h | h <;> rw [h] <;> decide
    have hkeptUp : (setPathState p .up v).st.keptByPaths = (s.withPath p after (decide c)).keptByPaths :=
      (closed_keptByPaths _).setPathState p (Or.inr trivial) .up v (Or.inl (Or.inl trivial))
        (keptByPaths_of_kept honly.kept)
    have hmemUp : (setPathState p .up v).st.mem = s.mem := (congrArg State.mem hkeptUp :).trans hmem
    have hkept := takeKind_kept kind body s i rest hoffers (by rw [hbody]; exact hmemUp)
    have hends := takeKind_ends (body := body) (v := setPathState p .up v) hoffers (by rw [hbody]) hmemUp
    rw [hbody] at hkept
    have hpasses := keptByPaths_of_kept (passes_kept (setPathState p .up v))
    have hans : answer (passes (setPathState p .up v)).st = ans := hanswer _ (by
      rw [settings_of_keptByPaths (hpasses.trans hkeptUp) p, hp]) (by
      exact (congrArg State.gens (hpasses.trans hkeptUp) :).trans hgens)
    dsimp only at hkept
    rw [hans] at hkept
    refine ⟨(keptByPaths_of_kept hkept).trans (keptByPaths_answered hkeptUp i rest _ _), ?_⟩
    have hwent := hrevised.then (setPathState_went p (n := .up) (by decide) v (Or.inr hnot))
    rw [hpath, show v.st.now = s.now from congrArg Clock.ms hrevised.keeps.clk] at hwent
    have hemptied : (setPathState p .up v).st.emptied p := by
      obtain ⟨hw, hpr⟩ := hempty (hc hrises)
      exact (closed_emptied p).setPathState p (Or.inr trivial) .up v (Or.inl (Or.inl trivial)) (by
        unfold State.emptied
        rw [hpath]
        exact ⟨hw, hpr⟩)
    have htaken : (takeKind kind body s).emptied p :=
      takeKind_closed (reported_emptied p) (closed_emptied p) trivial trivial (fun _ _ _ h => by cases p <;> exact h) hoffers
        (by rw [hbody]; exact hemptied)
    exact ⟨htaken.1, htaken.2, pathGoes_of_went hwent hends⟩

end

/-! ## SET PROBING (R20) -/

/-- The record that SET PROBING writes. -/
def PathRec.probed (a : Assignment) (d timeout : Nat) (r : PathRec) : PathRec :=
  { r with assign := a, d := d, timeout := timeout }

/-- SET PROBING's answer. -/
def probingAnswer (p : Path) (s : State) : List Byte :=
  pack [(1, pathCode p), (1, (s.path p).assign.code), (1, (s.path p).d), (2, (s.path p).timeout),
    (4, s.interval (s.path p))]

theorem timeoutMax_eq (s : State) (a : Assignment) (d : Nat) :
    timeoutMax s a d = if a = .none then 6500 else min (4 * (s.assignedPeriod a * d)) 6500 := by
  cases a <;> rfl

theorem orderSetProbing_eq {ps : List Byte} {p : Path} {a : Assignment} (w : Work) (hp : param ps 0 1 = pathCode p)
    (ha : param ps 1 1 = a.code) : orderSetProbing ps w =
      { work := becameLinkOnly p (w.st.path p).linkOnly (rewrite p
          (PathRec.probed a (clamp 1 60 (param ps 2 1))
            (clamp 100 (timeoutMax w.st a (clamp 1 60 (param ps 2 1))) (param ps 3 4)))
          ((w.st.path p).assign ≠ a ∨ (w.st.path p).d ≠ clamp 1 60 (param ps 2 1)) w),
        result := okOrClamped (decide (clamp 1 60 (param ps 2 1) ≠ param ps 2 1)
          || decide (clamp 100 (timeoutMax w.st a (clamp 1 60 (param ps 2 1))) (param ps 3 4) ≠ param ps 3 4)),
        answer := probingAnswer p } := by
  unfold orderSetProbing
  rw [hp, ha, pathOf_code, assignmentOf_code]
  rfl

theorem linkOnly_changes {r : PathRec} {a : Assignment} {d : Nat} (h : ¬(r.assign ≠ a ∨ r.d ≠ d)) (timeout : Nat) :
    (r.probed a d timeout).linkOnly = r.linkOnly := by
  obtain ⟨ha, -⟩ := not_or.mp h
  unfold PathRec.linkOnly PathRec.probed
  rw [not_not.mp ha]

/-- Settles O18. -/
theorem probingSet : Obligations.ProbingSet := by
  unfold Obligations.ProbingSet
  intro p a i rest s hcur hoffers ps d most timeout result answer r changes after goesUp hp ha
  have hmost : most = timeoutMax s a d := (timeoutMax_eq s a d).symm
  have hresult : okOrClamped (decide (d ≠ param ps 2 1) || decide (timeout ≠ param ps 3 4)) = result := okOrClamped_eq (by
    simp only [Bool.or_eq_true, decide_eq_true_iff, not_and_or, ne_eq])
  have hbody : orderSetProbing ps (Work.begin s) = {
      work := becameLinkOnly p (s.path p).linkOnly (rewrite p (PathRec.probed a d timeout) (r.assign ≠ a ∨ r.d ≠ d)
        (Work.begin s)), result := result, answer := probingAnswer p } := by
    rw [orderSetProbing_eq (Work.begin s) hp ha, ← hresult]
    unfold timeout
    rw [hmost]
    rfl
  have hafter : (s.path p).rewritten (PathRec.probed a d timeout) (r.assign ≠ a ∨ r.d ≠ d) = after := by
    unfold PathRec.rewritten after changes
    by_cases h : r.assign ≠ a ∨ r.d ≠ d
    · rw [if_pos h, if_pos (decide_eq_true h)]
      rfl
    · rw [if_neg h, if_neg (by simpa using h)]
      rfl
  have hanswer : ∀ t : State, (t.path p).settings = after.settings → t.gens = s.gens → probingAnswer p t = answer := by
    intro t hset hgens
    have hassign : (t.path p).assign = a := (congrArg PathRec.assign hset :)
    have hd : (t.path p).d = d := (congrArg PathRec.d hset :)
    have htime : (t.path p).timeout = timeout := (congrArg PathRec.timeout hset :)
    have hperiod : t.assignedPeriod a = s.assignedPeriod a := by
      unfold State.assignedPeriod
      rw [hgens]
    unfold probingAnswer State.interval
    rw [hassign, hd, htime, hperiod]
  have hlink : s.risesBy p after → r.assign ≠ a ∨ r.d ≠ d := by
    rintro ⟨hwas, his, -⟩
    by_contra h
    have hsame : after.linkOnly = r.linkOnly := by
      rw [← hafter]
      unfold PathRec.rewritten
      rw [if_neg h, linkOnly_changes h]
    exact absurd (hwas.symm.trans (hsame.symm.trans his)) (by decide)
  obtain ⟨hstays, hrises⟩ := takeKind_rewrites (ans := answer) hoffers (fun r => ⟨rfl, rfl, rfl⟩ : RewritesSettings (PathRec.probed a d timeout)) hafter hbody hanswer hlink
  exact ⟨fun h => ⟨_, rfl, hstays h⟩, fun h => ⟨_, rfl, hrises h⟩⟩

/-! ## SET TEMPLATE (R21) -/

/-- The record that SET TEMPLATE writes. -/
def PathRec.templated (template : List Byte) (r : PathRec) : PathRec := { r with template := template }

/-- SET TEMPLATE's answer. -/
def templateAnswer (p : Path) (s : State) : List Byte :=
  pack [(1, pathCode p), (1, (s.path p).template.length), (1, (s.path p).linkOnly.toNat)]

theorem orderSetTemplate_eq {ps : List Byte} {p : Path} (w : Work) (hp : param ps 0 1 = pathCode p) :
    orderSetTemplate ps w =
      { work := becameLinkOnly p (w.st.path p).linkOnly (rewrite p
          (PathRec.templated ((ps.drop 2).take (min (param ps 1 1) 64)))
          ((w.st.path p).template ≠ (ps.drop 2).take (min (param ps 1 1) 64)) w),
        result := okOrClamped (decide (64 < param ps 1 1)), answer := templateAnswer p } := by
  unfold orderSetTemplate
  rw [hp, pathOf_code]
  rfl

theorem linkOnly_of_settings {r r' : PathRec} (h : r.settings = r'.settings) : r.linkOnly = r'.linkOnly :=
  (congrArg PathRec.linkOnly h :)

/-- Settles O19. -/
theorem templateSet : Obligations.TemplateSet := by
  unfold Obligations.TemplateSet
  intro p i rest s hcur hoffers ps template result r changes after answer goesUp hp
  have hresult : okOrClamped (decide (64 < param ps 1 1)) = result := okOrClamped_eq (by
    rw [decide_eq_true_iff, Nat.not_le])
  have hbody : orderSetTemplate ps (Work.begin s) = {
      work := becameLinkOnly p (s.path p).linkOnly (rewrite p (PathRec.templated template) (r.template ≠ template)
        (Work.begin s)), result := result, answer := templateAnswer p } := by
    rw [orderSetTemplate_eq (Work.begin s) hp, ← hresult]
    rfl
  have hafter : (s.path p).rewritten (PathRec.templated template) (r.template ≠ template) = after := by
    unfold PathRec.rewritten after changes
    by_cases h : r.template ≠ template
    · rw [if_pos h, if_pos (decide_eq_true h)]
      rfl
    · rw [if_neg h, if_neg (by simpa using h)]
      rfl
  have hanswer : ∀ t : State, (t.path p).settings = after.settings → t.gens = s.gens → templateAnswer p t = answer := by
    intro t hset _
    have htemplate : (t.path p).template = template := (congrArg PathRec.template hset :)
    unfold templateAnswer
    rw [htemplate, linkOnly_of_settings hset]
  have hlink : s.risesBy p after → r.template ≠ template := by
    rintro ⟨hwas, his, -⟩ h
    have hsame : after.linkOnly = r.linkOnly := by
      rw [← hafter]
      unfold PathRec.rewritten PathRec.templated
      rw [if_neg (not_not.mpr h), ← h]
    exact absurd (hwas.symm.trans (hsame.symm.trans his)) (by decide)
  obtain ⟨hstays, hrises⟩ := takeKind_rewrites (ans := answer) hoffers (fun r => ⟨rfl, rfl, rfl⟩ : RewritesSettings (PathRec.templated template)) hafter hbody hanswer hlink
  exact ⟨fun h => ⟨_, rfl, hstays h⟩, fun h => ⟨_, rfl, hrises h⟩⟩

end Sys2Proof.Machine
end


section
/-! SET DAMPING (R40, R41, R49), and the decay of the flap penalty (R40). -/

namespace Sys2Proof.Machine

/-- The release of a SUPPRESSED path. -/
def released (r : PathRec) : PathState := if r.linkOnly then .up else .proving

theorem released_ne_down (r : PathRec) : released r ≠ .down := by
  unfold released
  split <;> decide

/-- A rewrite of a SUPPRESSED path's settings with its release is a course of one record. -/
theorem release_went {p : Path} {f : PathRec → PathRec} {w : Work} (hstate : (f (w.st.path p)).state = (w.st.path p).state)
    (hwindow : (f (w.st.path p)).window = (w.st.path p).window) (hcause : (f (w.st.path p)).cause = (w.st.path p).cause)
    (hfrom : (w.st.path p).state = .suppressed) :
    w.st.PathWent (releaseSuppressed p (w.onPath p f)).st p
      [(f (w.st.path p)).movesTo w.st.now (released (f (w.st.path p)))] := by
  have hpath : (w.onPath p f).st.path p = f (w.st.path p) := onPath_path p f w
  have hrevised : w.st.PathRevised (w.onPath p f).st p := by
    have h := rewrite_revised (c := False) hstate hwindow hcause
    unfold rewrite at h
    rw [if_neg id] at h
    exact h
  have hnot : ((w.onPath p f).st.path p).state ≠ .down := by
    rw [hpath, hstate, hfrom]
    decide
  have hwent := hrevised.then (setPathState_went p (released_ne_down ((w.onPath p f).st.path p)) _ (Or.inr hnot))
  rw [hpath, show (w.onPath p f).st.now = w.st.now from congrArg Clock.ms hrevised.keeps.clk] at hwent
  have hst : releaseSuppressed p (w.onPath p f) = setPathState p (released (f (w.st.path p))) (w.onPath p f) := by
    unfold releaseSuppressed
    rw [hpath]
    rfl
  rw [hst]
  exact hwent

theorem release_keptByPaths (p : Path) (v : Work) : (releaseSuppressed p v).st.keptByPaths = v.st.keptByPaths :=
  (closed_keptByPaths _).releaseSuppressed p (Or.inr trivial) (Or.inl trivial) v rfl

/-! ## SET DAMPING (R49) -/

theorem orderSetDamping_eq {ps : List Byte} {p : Path} {on : Bool} (w : Work) (hp : param ps 0 1 = pathCode p)
    (hon : param ps 1 1 = on.toNat) (h0 : 0 < min (param ps 4 2) 8000)
    (h1 : min (param ps 4 2) 8000 < min (param ps 2 2) 8000) : orderSetDamping ps w =
      { work :=
          if !on && decide (((w.onPath p (PathRec.damp on (min (param ps 2 2) 8000) (min (param ps 4 2) 8000)
              (clamp 1 255 (param ps 6 2)) w.now)).st.path p).state = .suppressed) then
            releaseSuppressed p (w.onPath p (PathRec.damp on (min (param ps 2 2) 8000) (min (param ps 4 2) 8000)
              (clamp 1 255 (param ps 6 2)) w.now))
          else w.onPath p (PathRec.damp on (min (param ps 2 2) 8000) (min (param ps 4 2) 8000)
            (clamp 1 255 (param ps 6 2)) w.now),
        result := okOrClamped (decide (min (param ps 2 2) 8000 ≠ param ps 2 2)
          || decide (min (param ps 4 2) 8000 ≠ param ps 4 2) || decide (clamp 1 255 (param ps 6 2) ≠ param ps 6 2)),
        answer := dampingAnswer p } := by
  unfold orderSetDamping
  rw [hp, hon, pathOf_code, flagOf_toNat]
  exact if_pos ⟨h0, h1⟩

/-- Where an order's answer reads the paths alone, it shows what the event leaves of them. -/
theorem takeKind_path {kind i : Nat} {rest : List Nat} {s : State} {body : List Byte → Work → Answered}
    (hoffers : s.offersKind kind i rest) {v : Work} (hv : (body (slotParams s.mem i) (Work.begin s)).work = v) (p : Path) :
    (takeKind kind body s).path p = (passes v).st.path p := by
  subst hv
  rw [takeKind_eq kind body s i rest hoffers]
  cases p with
  | fibre => exact finish_fibre _ _
  | radio => exact finish_radio _ _

/-- What SET DAMPING answers of a path with these settings. -/
theorem dampingAnswer_of_settings {s : State} {p : Path} {r : PathRec} (h : (s.path p).settings = r.settings) :
    dampingAnswer p s = pack [(1, pathCode p), (1, r.damping.toNat), (2, r.suppress), (2, r.reuse), (2, r.td),
      (2, (s.path p).penalty), (1, (s.path p).state.code)] := by
  have hdamping : (s.path p).damping = r.damping := (congrArg PathRec.damping h :)
  have hsuppress : (s.path p).suppress = r.suppress := (congrArg PathRec.suppress h :)
  have hreuse : (s.path p).reuse = r.reuse := (congrArg PathRec.reuse h :)
  have htd : (s.path p).td = r.td := (congrArg PathRec.td h :)
  unfold dampingAnswer
  dsimp only
  rw [hdamping, hsuppress, hreuse, htd]

/-- SET DAMPING that releases its path. -/
theorem dampingSet_goes {i : Nat} {rest : List Nat} {s : State} {p : Path} {v : Work} {result : ResultCode}
    {after x : PathRec} (hoffers : s.offersKind Kind.setDamping i rest)
    (hbody : orderSetDamping (slotParams s.mem i) (Work.begin s)
      = { work := v, result := result, answer := dampingAnswer p })
    (hv : v.st.keptByPaths = (s.onPath p fun _ => after).keptByPaths) (hwent : s.PathWent v.st p [x])
    {answer : PathRec → List Byte} (hanswer : answer = fun y => pack [(1, pathCode p), (1, after.damping.toNat),
      (2, after.suppress), (2, after.reuse), (2, after.td), (2, y.penalty), (1, y.state.code)]) :
    (takeKind Kind.setDamping orderSetDamping s).keptByPaths = ((s.onPath p fun _ => after).answered i rest result
      (answer ((takeKind Kind.setDamping orderSetDamping s).path p))).keptByPaths
    ∧ s.pathGoes (takeKind Kind.setDamping orderSetDamping s) p [x] := by
  have hmem : v.st.mem = s.mem := (congrArg State.mem hv :).trans (by cases p <;> rfl)
  have hkept := takeKind_kept Kind.setDamping orderSetDamping s i rest hoffers (by rw [hbody]; exact hmem)
  have hends := takeKind_ends (body := orderSetDamping) (v := v) hoffers (by rw [hbody]) hmem
  have hpath := takeKind_path (body := orderSetDamping) (v := v) hoffers (by rw [hbody]) p
  have hset : ((passes v).st.path p).settings = after.settings := by
    rw [settings_of_keptByPaths ((keptByPaths_of_kept (passes_kept v)).trans hv) p, path_onPath]
  rw [hbody] at hkept
  dsimp only at hkept
  rw [dampingAnswer_of_settings hset] at hkept
  refine ⟨?_, pathGoes_of_went hwent hends⟩
  rw [hpath, hanswer]
  exact (keptByPaths_of_kept hkept).trans (keptByPaths_answered hv i rest _ _)

/-- Settles O21. -/
theorem dampingSet : Obligations.DampingSet := by
  unfold Obligations.DampingSet
  intro p on i rest s hcur hoffers ps suppress reuse td result r after answer hp hon h0 h1
  have hresult : okOrClamped (decide (suppress ≠ param ps 2 2) || decide (reuse ≠ param ps 4 2)
      || decide (td ≠ param ps 6 2)) = result := okOrClamped_eq (by
    simp only [Bool.or_eq_true, decide_eq_true_iff, not_and_or, or_assoc, ne_eq])
  have heq := orderSetDamping_eq (Work.begin s) hp hon h0 h1
  rw [hresult] at heq
  have hafter : r.damp on suppress reuse td s.now = after := rfl
  have hpath : ((Work.begin s).onPath p (PathRec.damp on suppress reuse td s.now)).st.path p = after :=
    (onPath_path p _ _).trans hafter
  have hstate : after.state = r.state := rfl
  refine ⟨fun hstays => ?stays, fun hoff hfrom => ?goes⟩
  case stays =>
    have hno : ¬(!on && decide ((((Work.begin s).onPath p (PathRec.damp on suppress reuse td s.now)).st.path p).state
        = .suppressed)) = true := by
      rw [hpath, hstate]
      rcases hstays with h | h
      · rw [h]
        exact nofun
      · rw [decide_eq_false h, Bool.and_false]
        exact nofun
    have hbody := heq.trans (congrArg (fun v : Work => ({ work := v, result := result, answer := dampingAnswer p }
      : Answered)) (if_neg hno))
    refine ⟨_, rfl, ?_⟩
    refine (takeKind_still hoffers hbody rfl rfl (by cases p <;> rfl) (by cases p <;> rfl)
      (by cases p <;> exact hcur)).trans ?_
    cases p <;> rfl
  case goes =>
    have hyes : (!on && decide ((((Work.begin s).onPath p (PathRec.damp on suppress reuse td s.now)).st.path p).state
        = .suppressed)) = true := by
      rw [hpath, hstate, hoff, hfrom]
      rfl
    have hbody := heq.trans (congrArg (fun v : Work => ({ work := v, result := result, answer := dampingAnswer p }
      : Answered)) (if_pos hyes))
    have hset : ((Work.begin s).onPath p (PathRec.damp on suppress reuse td s.now)).st = s.onPath p fun _ => after := by
      cases p <;> rfl
    have hwent := release_went (f := PathRec.damp on suppress reuse td s.now) (p := p) (w := Work.begin s) rfl rfl rfl hfrom
    have hkept := (release_keptByPaths p ((Work.begin s).onPath p (PathRec.damp on suppress reuse td s.now))).trans
      (congrArg State.keptByPaths hset)
    exact ⟨_, rfl, dampingSet_goes hoffers hbody hkept hwent rfl⟩

/-! ## DECAY_TICK (R40) -/

/-- A decay of a path that it does not release. -/
theorem decay_stays {p : Path} {s : State} (hcur : s.current) (hdue : reached s.now (s.path p).decayDue = true)
    (h : (s.path p).state ≠ .suppressed ∨ (s.path p).reuse ≤ (s.path p).decay.penalty) :
    ∃ t, exec (.decayTick p) s = .next t ∧ t.plain = (s.onPath p fun _ => (s.path p).decay).plain := by
  have hno : decayTick p (Work.begin s) = (Work.begin s).onPath p PathRec.decay := by
    refine if_neg fun hc => ?_
    rw [onPath_path] at hc
    rcases h with h | h
    · exact h hc.1
    · exact absurd hc.2 (Nat.not_lt.mpr h)
  refine ⟨event (decayTick p) s, congrArg Host.Outcome.next (if_pos hdue), ?_⟩
  refine (event_still _ s hcur.1 hno rfl rfl (by cases p <;> rfl) (by cases p <;> exact hcur.2.1)
    (by cases p <;> exact hcur.2.2)).trans ?_
  cases p <;> rfl

/-- A decay that releases its path. -/
theorem decay_releases {p : Path} {s : State} (hcur : s.current) (hdue : reached s.now (s.path p).decayDue = true)
    (hfrom : (s.path p).state = .suppressed) (h : (s.path p).decay.penalty < (s.path p).reuse) :
    ∃ t, exec (.decayTick p) s = .next t ∧ t.keptByPaths = (s.onPath p fun _ => (s.path p).decay).keptByPaths
      ∧ s.pathGoes t p [(s.path p).decay.movesTo s.now (released (s.path p))] := by
  have hyes : decayTick p (Work.begin s) = releaseSuppressed p ((Work.begin s).onPath p PathRec.decay) := by
    refine if_pos ?_
    rw [onPath_path]
    exact ⟨hfrom, h⟩
  have hwent : s.PathWent (decayTick p (Work.begin s)).st p [(s.path p).decay.movesTo s.now (released (s.path p))] := by
    rw [hyes]
    exact release_went (w := Work.begin s) rfl rfl rfl hfrom
  have hset : ((Work.begin s).onPath p PathRec.decay).st = s.onPath p fun _ => (s.path p).decay := by
    cases p <;> rfl
  refine ⟨event (decayTick p) s, congrArg Host.Outcome.next (if_pos hdue), ?_, pathGoes_of_went hwent (event_ends hcur.1)⟩
  rw [keptByPaths_of_kept (event_kept _ s hcur.1), hyes, release_keptByPaths, hset]

end Sys2Proof.Machine
end


section
/-! A path that no class can be sent to keeps its transmit bands through the passes: nothing enters them and nothing is
flushed (R84 to R86, R124, R125, R129). -/

namespace Sys2Proof.Machine

/-- No pass sends a class or flow to this path, and none flushes its bands. -/
def State.refuses (s : State) : Path → Prop
  | .fibre => s.fibreUsable = false ∧ ¬(s.hold.active = true ∧ s.hold.path = some .fibre)
  | .radio => s.radioUsable = false ∧ s.ru.state ≠ .session

theorem radioOrWait_ne {s : State} (h : s.radioUsable = false) : s.radioOrWait = .waiting := by
  unfold State.radioOrWait
  rw [h]
  rfl

theorem fibreOrBlock_ne {s : State} (h : s.fibreUsable = false) : s.fibreOrBlock = .blocked := by
  unfold State.fibreOrBlock
  rw [h]
  rfl

theorem fits_unusable {s : State} (h : s.fibreUsable = false) (c : ClassRec) : s.fits c = false := by
  unfold State.fibreUsable PathState.usable at h
  unfold State.fits
  cases hs : s.fibre.state <;> simp_all

theorem fibreOrBlock_ne_radio (s : State) : s.fibreOrBlock ≠ .radio := by
  unfold State.fibreOrBlock
  split <;> decide

theorem radioOrWait_ne_fibre (s : State) : s.radioOrWait ≠ .fibre := by
  unfold State.radioOrWait
  split <;> decide

/-- Without a usable radio path no class goes to radio. -/
theorem decideClass_ne_radio {s : State} (h : s.radioUsable = false) (c : ClassRec) : decideClass s c ≠ .radio := by
  have hwait : s.radioOrWait ≠ .radio := by
    rw [radioOrWait_ne h]
    decide
  have hfree : decideFree s c ≠ .radio := by
    unfold decideFree
    split
    · decide
    · split
      · decide
      · split
        · exact hwait
        · exact fibreOrBlock_ne_radio s
  unfold decideClass
  split
  · exact fibreOrBlock_ne_radio s
  · split
    · split
      · split
        · exact hwait
        · exact fibreOrBlock_ne_radio s
      · decide
      · exact hfree
    · exact hfree

/-- Without usable fibre, and with no FIBRE hold, no class goes to fibre. -/
theorem decideClass_ne_fibre {s : State} (h : s.fibreUsable = false)
    (hhold : ¬(s.hold.active = true ∧ s.hold.path = some .fibre)) (c : ClassRec) : decideClass s c ≠ .fibre := by
  have hblock : s.fibreOrBlock ≠ .fibre := by
    rw [fibreOrBlock_ne h]
    decide
  have hfree : decideFree s c ≠ .fibre := by
    unfold decideFree
    rw [fits_unusable h, Bool.and_false, Bool.and_false]
    rw [if_neg Bool.false_ne_true, Bool.false_and, if_neg Bool.false_ne_true]
    split
    · exact radioOrWait_ne_fibre s
    · exact hblock
  unfold decideClass
  split
  · exact hblock
  · split
    · next hactive =>
      split
      · split
        · exact radioOrWait_ne_fibre s
        · exact hblock
      · next hpath => exact absurd ⟨hactive, hpath⟩ hhold
      · exact hfree
    · exact hfree

theorem decideClass_refused {s : State} {p : Path} (h : s.refuses p) (c : ClassRec) : decideClass s c ≠ boundTo p := by
  cases p with
  | fibre => exact decideClass_ne_fibre h.1 h.2 c
  | radio => exact decideClass_ne_radio h.1 c

theorem decidedCls_refused {s : State} {p : Path} (h : s.refuses p) (i : Nat) : (s.decidedCls i).cur ≠ boundTo p := by
  unfold State.decidedCls State.decided
  by_cases hi : i < s.classes.length
  · rw [List.getD_eq_getElem _ _ (by simpa using hi), List.getElem_map, takePath_cur]
    exact decideClass_refused h _
  · rw [List.getD_eq_default _ _ (by simpa using hi)]
    cases p <;> decide

/-- A flow that follows its class from WAITING goes no further than its class. -/
theorem followClass_waiting {s : State} {new : ClassPath} {f : FlowRec} (h : f.state = .waiting) :
    (followClass s new f).state = .waiting ∨ (followClass s new f).state = new.flowState := by
  have hbecome : (f.become new.flowState).state = new.flowState := by
    unfold FlowRec.become
    split
    · assumption
    · cases new <;> rfl
  unfold followClass
  dsimp only
  split
  · exact Or.inl h
  · split
    · split
      · exact Or.inl h
      · exact Or.inr hbecome
    · split
      · exact Or.inl h
      · exact Or.inr hbecome

theorem bindingPath_of_flow (s : State) {x : HeldFrame} {i : Nat} (h : x.flow = some i) :
    s.bindingPath x = (s.flow i).state.asPath := by
  unfold State.bindingPath
  rw [h]
  dsimp only
  generalize (s.flow i).state = n
  cases n with
  | carried p => cases p <;> rfl
  | _ => rfl

theorem bindingPath_class (s : State) {x : HeldFrame} (h : x.flow = none) : s.bindingPath x = (s.cls x.cls).cur := by
  unfold State.bindingPath
  rw [h]

theorem asPath_flowState (p : ClassPath) : p.flowState.asPath = p := by cases p <;> rfl

/-- No frame that a pass releases is bound to a path that it refuses. -/
theorem leftWaiting_refused {s : State} {p : Path} (h : s.refuses p) {e : EventUnit} {x : HeldFrame}
    (hleft : leftWaiting s { s with classes := s.decided, flows := s.followed, ev := e } x = true) :
    ({ s with classes := s.decided, flows := s.followed, ev := e } : State).bindingPath x ≠ boundTo p := by
  cases hflow : x.flow with
  | none =>
    rw [bindingPath_class _ hflow]
    exact decidedCls_refused h x.cls
  | some i =>
    have hwas := of_decide_eq_true (Bool.and_eq_true_iff.mp hleft).1
    rw [bindingPath_of_flow _ hflow] at hwas ⊢
    have hwaiting := waiting_of_asPath hwas
    have hin : i < s.flows.length := by
      by_contra hout
      have hfree : (s.flow i).state = .free := by
        unfold State.flow
        rw [List.getD_eq_default _ _ (Nat.not_lt.mp hout)]
        rfl
      rw [hwaiting] at hfree
      cases hfree
    have hnow : ({ s with classes := s.decided, flows := s.followed, ev := e } : State).flow i
        = followClass s (s.decidedCls (s.flow i).cls).cur (s.flow i) := by
      show s.followed.getD i _ = _
      unfold State.followed State.flow
      rw [List.getD_eq_getElem _ _ (by simpa using hin), List.getElem_map, List.getD_eq_getElem _ _ hin]
    rw [hnow]
    rcases followClass_waiting (s := s) (new := (s.decidedCls (s.flow i).cls).cur) hwaiting with hs | hs
    · rw [hs]
      cases p <;> decide
    · rw [hs, asPath_flowState]
      exact decidedCls_refused h _

/-! ## The passes of an event -/

/-- What belongs to a path in the forwarding unit: its queue and the count of its flushed frames. -/
def Forwarding.side (f : Forwarding) (p : Path) : TxQueue × Nat := (f.queue p, f.flushed p)

/-- A course of steps that keeps a refused path refused, and its bands and the count of its flushed frames. -/
def QueueRests (p : Path) (s t : State) : Prop := s.refuses p → t.refuses p ∧ t.fwd.side p = s.fwd.side p

theorem QueueRests.refl (p : Path) (s : State) : QueueRests p s s := fun h => ⟨h, rfl⟩

theorem QueueRests.trans {p : Path} {s t u : State} (h : QueueRests p s t) (h' : QueueRests p t u) : QueueRests p s u := by
  intro hs
  obtain ⟨ht, hside⟩ := h hs
  obtain ⟨hu, hside'⟩ := h' ht
  exact ⟨hu, hside'.trans hside⟩

theorem linkless_rests (p : Path) (k : TxQueue × Nat) :
    Linkless (fun q => q ≠ p) fun t => t.refuses p ∧ t.fwd.side p = k where
  classes := fun _ _ h => by cases p <;> exact h
  flows := fun _ _ h => by cases p <;> exact h
  allow := fun _ _ h => by cases p <;> exact h
  drill := fun _ _ h => by cases p <;> exact h
  ev := fun _ _ _ h => by cases p <;> exact h
  counts := fun _ _ h => by cases p <;> exact h
  flowChanges := fun _ _ h => by cases p <;> exact h
  fwd := fun s f hf h => by
    obtain ⟨hflushed, hqueue⟩ := hf p
    have hside : f.side p = s.fwd.side p := Prod.ext (hqueue.resolve_left fun hne => hne rfl) hflushed
    exact ⟨by cases p <;> exact h.1, hside.trans h.2⟩

theorem passBody_rests (p : Path) (w : Work) : QueueRests p w.st (passBody w).st := by
  intro h
  refine (linkless_rests p (w.st.fwd.side p)).passBody w (fun x hx q hq hqp => ?_) ⟨h, rfl⟩
  subst hqp
  obtain ⟨e, -, he⟩ := flowStep_st w
  obtain ⟨e', he'⟩ := handConditions_only (flowStep w.st (classStep w))
  rw [he', he] at hx hq
  exact leftWaiting_refused h hx hq

/-- The radio unit alone. -/
theorem ruOnly_rests (p : Path) {s t : State} (h : s.RuOnly t) (hsession : t.ru.state = .session → s.ru.state = .session) :
    QueueRests p s t := by
  obtain ⟨r, e, -, rfl⟩ := h
  intro h
  cases p with
  | fibre => exact ⟨h, rfl⟩
  | radio => exact ⟨⟨h.1, fun hs => h.2 (hsession hs)⟩, rfl⟩

theorem State.OnlyEv.rests {s t : State} (h : s.OnlyEv t) (p : Path) : QueueRests p s t := by
  obtain ⟨e, -, rfl⟩ := h
  intro h
  cases p <;> exact ⟨h, rfl⟩

theorem sees_keeps (now : Time) (p : Path) (was is : PathState) (h : Hold) :
    (h.sees now p was is).path = h.path ∧ ((h.sees now p was is).active = true → h.active = true) := by
  unfold Hold.sees
  dsimp only
  split
  · exact ⟨rfl, id⟩
  · split
    · exact ⟨rfl, id⟩
    · split
      · exact ⟨rfl, nofun⟩
      · exact ⟨rfl, id⟩

theorem sessionLeft_fibre (s : State) :
    s.sessionLeft.fibre = s.fibre ∧ s.sessionLeft.fwd.side .fibre = s.fwd.side .fibre := by
  by_cases h : s.radio.state = .down
  · rw [sessionLeft_of_down h]
    exact ⟨rfl, rfl⟩
  · rw [sessionLeft_of_ne h]
    exact ⟨rfl, rfl⟩

theorem moveTo_rests (p : Path) {n : RadioState} (hn : n ≠ .session) (w : Work) : QueueRests p w.st (moveTo n w).st := by
  by_cases h : w.st.ru.state = .session
  · cases p with
    | radio => exact fun hrefuses => absurd h hrefuses.2
    | fibre =>
      refine QueueRests.trans ?_ ((moveTo_leaves n h hn).rests .fibre)
      rintro ⟨husable, hhold⟩
      obtain ⟨hfibre, hside⟩ := sessionLeft_fibre w.st
      obtain ⟨-, hsees, -⟩ := sessionLeft_fields w.st
      obtain ⟨hpath, hactive⟩ := sees_keeps w.st.now .radio w.st.radio.state .down w.st.hold
      refine ⟨⟨?_, ?_⟩, hside⟩
      · exact (congrArg (fun r : PathRec => r.state.usable) hfibre).trans husable
      · rintro ⟨ha, hp⟩
        exact hhold ⟨hactive (hsees ▸ ha), hpath.symm.trans ((congrArg Hold.path hsees).symm.trans hp)⟩
  · refine ruOnly_rests p (moveTo_ruOnly n w (Or.inl h)) fun hs => absurd ?_ hn
    rw [moveTo_state] at hs
    exact hs

theorem demanding_rests (p : Path) : Demanding (QueueRests p) where
  refl := QueueRests.refl p
  trans := QueueRests.trans
  moveTo := moveTo_rests p
  only := fun h hsession => ruOnly_rests p h hsession.mp
  steer := fun _ _ h => by cases p <;> exact ⟨h, rfl⟩

theorem steeringPass_rests (p : Path) (w : Work) : QueueRests p w.st (steeringPass w).st := by
  rw [steeringPass_eq]
  exact (passBody_rests p w).trans ((demanding_rests p).recomputeDemand _)

theorem runPasses_rests (p : Path) (n : Nat) (w : Work) : QueueRests p w.st (runPasses n w).st := by
  induction n generalizing w with
  | zero => exact QueueRests.refl p _
  | succ n ih =>
    unfold runPasses
    split
    · exact (steeringPass_rests p { w with passDue := false, demandDue := false }).trans (ih _)
    · split
      · exact ((demanding_rests p).recomputeDemand { w with demandDue := false }).trans (ih _)
      · exact QueueRests.refl p _

theorem finish_rests (p : Path) (s0 : State) (w : Work) : QueueRests p w.st (finish s0 w) := fun h =>
  (linkless_rests p _).finish s0 w ⟨h, rfl⟩

theorem event_rests (p : Path) {f : Work → Work} {s : State} (hs : s.exch.service ≠ .init) :
    QueueRests p (f (Work.begin s)).st (event f s) := by
  unfold event
  rw [if_neg hs]
  exact (runPasses_rests p _ _).trans (finish_rests p s _)

/-! ## The count of fibre's flushed frames -/

/-- A course of steps that flushes no frame of fibre. -/
def FibreUnflushed (s t : State) : Prop := t.fwd.flushed .fibre = s.fwd.flushed .fibre

theorem linkless_unflushed (s : State) : Linkless (fun _ => True) (FibreUnflushed s) where
  classes := fun _ _ h => h
  flows := fun _ _ h => h
  allow := fun _ _ h => h
  drill := fun _ _ h => h
  ev := fun _ _ _ h => h
  counts := fun _ _ h => h
  flowChanges := fun _ _ h => h
  fwd := fun _ _ hf h => (hf .fibre).1.trans h

theorem demanding_unflushed : Demanding FibreUnflushed where
  refl := fun _ => rfl
  trans := fun h h' => h'.trans h
  moveTo := by
    intro n hn w
    by_cases h : w.st.ru.state = .session
    · obtain ⟨e, -, hst⟩ := moveTo_leaves n h hn
      unfold FibreUnflushed
      rw [hst]
      exact congrArg Prod.snd (sessionLeft_fibre w.st).2
    · obtain ⟨r, e, -, hst⟩ := moveTo_ruOnly n w (Or.inl h)
      unfold FibreUnflushed
      rw [hst]
  only := by
    rintro s t ⟨r, e, -, rfl⟩ -
    rfl
  steer := fun _ _ => rfl

theorem runPasses_unflushed (n : Nat) (w : Work) : FibreUnflushed w.st (runPasses n w).st := by
  have D := demanding_unflushed
  induction n generalizing w with
  | zero => exact D.refl _
  | succ n ih =>
    unfold runPasses
    split
    · refine D.trans ?_ (ih _)
      rw [steeringPass_eq]
      exact D.trans ((linkless_unflushed w.st).passBody { w with passDue := false, demandDue := false }
        (fun _ _ _ _ => trivial) (D.refl _)) (D.recomputeDemand _)
    · split
      · exact D.trans (D.recomputeDemand { w with demandDue := false }) (ih _)
      · exact D.refl _

theorem event_unflushed {f : Work → Work} {s : State} (hs : s.exch.service ≠ .init) :
    FibreUnflushed (f (Work.begin s)).st (event f s) := by
  unfold event
  rw [if_neg hs]
  exact demanding_unflushed.trans (runPasses_unflushed _ _) ((linkless_unflushed _).finish s _ rfl)

end Sys2Proof.Machine
end


section
/-! A physical loss as a course of its path: the record, and what latches (R14, R31, R38, R47, R93). -/

namespace Sys2Proof.Machine

theorem lostIn_unusable {s : State} {p : Path} {r : PathRec} (h : r.state ≠ .down) (hu : ¬(r.state = .up ∨ r.state = .weak)) :
    r.lostIn s p = r.settled.movesTo s.now .down :=
  (if_neg h).trans (if_neg hu)

/-- What is offered to the cause record by a loss of a usable path. -/
def State.lossSnapshot (s : State) (p : Path) : Snapshot :=
  { snapshotOf s p with penalty := min 8000 ((s.path p).penalty + 1000) }

theorem lostIn_usable {s : State} {p : Path} (hu : (s.path p).state = .up ∨ (s.path p).state = .weak) :
    (s.path p).lostIn s p = { (s.path p).settled.movesTo s.now .down with
      penalty := min 8000 ((s.path p).penalty + 1000),
      cause := (s.path p).cause.afterOffer (s.path p).lockFirst .physical (s.lossSnapshot p) } := by
  have h : (s.path p).state ≠ .down := fun hd => by
    rw [hd] at hu
    rcases hu with hu | hu <;> cases hu
  refine (if_neg h).trans ((if_pos hu).trans ?_)
  unfold State.lossSnapshot
  rw [snapshotOf_eq] <;> rfl

theorem lostIn_state (s : State) (p : Path) (r : PathRec) : (r.lostIn s p).state = .down := by
  unfold PathRec.lostIn
  dsimp only
  split
  · assumption
  · have hdown := (movesTo_fields s.now .down r.settled).1
    split
    · exact hdown
    · exact hdown

theorem lostIn_empty {s : State} {p : Path} {r : PathRec} (h : r.state ≠ .down) :
    (r.lostIn s p).window = [] ∧ (r.lostIn s p).probes = [] := by
  obtain ⟨-, hwindow, hprobes, -⟩ := movesTo_fields s.now .down r.settled
  unfold PathRec.lostIn
  dsimp only
  rw [if_neg h]
  split
  · exact ⟨hwindow, hprobes⟩
  · exact ⟨hwindow, hprobes⟩

/-- An offer that does not write leaves cause and valid. -/
theorem afterOffer_kept {c : CauseRecord} {lock : Bool} {k : Cause} (h : ¬c.offerWrites lock k) (snap : Snapshot) :
    (c.afterOffer lock k snap).valid = c.valid ∧ (c.afterOffer lock k snap).cause = c.cause := by
  rw [← writes_iff] at h
  have hvalid : c.valid = true := by
    by_contra hv
    exact h (by unfold CauseRecord.writes; rw [Bool.eq_false_iff.mpr hv]; rfl)
  rw [← offered_eq_afterOffer]
  unfold CauseRecord.offered
  rw [if_neg (by rw [hvalid]; decide), if_neg h]
  exact ⟨rfl, rfl⟩

theorem blame_latched {p : Path} {w : Work} (husable : (w.st.path p).state = .up ∨ (w.st.path p).state = .weak)
    (hwrites : (w.st.path p).cause.offerWrites (w.st.path p).lockFirst .physical) :
    latched (bitMask 12) (blame p w).st := by
  have hoffer : ∀ n, latched (bitMask 12) (offerCause p .physical (w.onPath p (PathRec.penalize n))).st := fun n =>
    offerCause_latched (by
      rw [onPath_path]
      exact hwrites)
  unfold blame
  rw [if_pos ((usable_iff _).mpr husable)]
  exact hoffer 1000

/-- What a physical loss latches, of a path that was not DOWN (R14, R38, R47, R93). -/
structure State.LossLatches (s : State) (p : Path) (t : State) : Prop where
  change : latched (bitMask (changeBit p)) t
  ready : (s.path p).ready = true → latched (bitMask 15) t
  cause : ((s.path p).state = .up ∨ (s.path p).state = .weak) →
    (s.path p).cause.offerWrites (s.path p).lockFirst .physical → latched (bitMask 12) t

theorem State.LossLatches.mono {s t u : State} {p : Path} (h : s.LossLatches p t)
    (hmono : ∀ m, latched m t → latched m u) : s.LossLatches p u :=
  ⟨hmono _ h.change, fun hr => hmono _ (h.ready hr), fun hu hw => hmono _ (h.cause hu hw)⟩

theorem physicalLoss_latches {p : Path} {w : Work} (h : (w.st.path p).state ≠ .down) :
    w.st.LossLatches p (physicalLoss p w).st := by
  have hblamed := (blame_onlyEv p w).path p
  have hstate : ((blame p w).st.path p).state ≠ .down := by
    rw [hblamed, blamed_state]
    exact h
  have hwindow : ((blame p w).st.path p).ready = (w.st.path p).ready := by
    rw [hblamed, blamed_path]
    generalize 1000 = n
    split <;> rfl
  rw [physicalLoss_eq h]
  exact ⟨setPathState_latched_change hstate, fun hr => setPathState_latched_ready hstate (hwindow.trans hr),
    fun hu hw => (closedLatched _).setPathState p (Or.inr trivial) .down _ (Or.inr rfl) (blame_latched hu hw)⟩

/-- What a physical loss leaves of the state, and of the drill. -/
theorem goneDown_fields (s : State) (p : Path) : (s.goneDown p).path p = (s.path p).lostIn s p
    ∧ (s.goneDown p).path (otherPath p) = s.path (otherPath p) ∧ (s.goneDown p).grade = s.grade
    ∧ (s.goneDown p).clk = s.clk ∧ (s.goneDown p).exch = s.exch ∧ (s.goneDown p).ru = s.ru
    ∧ (s.goneDown p).hold = s.hold.sees s.now p (s.path p).state .down
    ∧ (s.goneDown p).steer = s.steerAfter p .down ∧ (s.goneDown p).drill = s.drill := by
  cases p <;> exact ⟨rfl, rfl, rfl, rfl, rfl, rfl, rfl, rfl, rfl⟩

theorem physicalLoss_keeps {p : Path} {w : Work} (h : (w.st.path p).state ≠ .down) :
    w.st.PathKeeps (physicalLoss p w).st p := by
  have honly := physicalLoss_onlyEv p w
  rw [lost_of_ne h] at honly
  obtain ⟨hpath, hother, hgrade, hclk, hexch, hru, -⟩ := goneDown_fields w.st p
  have hlatches := physicalLoss_latches h
  have hrecord := (honly.path p).trans hpath
  have hfields : (physicalLoss p w).st.grade = w.st.grade ∧ (physicalLoss p w).st.exch = w.st.exch
      ∧ (physicalLoss p w).st.ru = w.st.ru := by
    obtain ⟨e, -, hst⟩ := honly
    rw [hst]
    exact ⟨hgrade, hexch, hru⟩
  refine {
    other := (honly.path _).trans hother
    grade := hfields.1
    clk := honly.clk.trans hclk
    service := congrArg Exchange.service hfields.2.1
    ru := hfields.2.2
    ready := fun hne => hlatches.ready ?ready
    cause := fun hne => ?cause
    latches := fun m hm => (closedLatched m).physicalLoss p (Or.inr trivial) w hm }
  case ready =>
    by_contra hr
    have hgone : ((w.st.path p).lostIn w.st p).ready = false := by
      unfold PathRec.ready
      rw [(lostIn_empty h).1]
      rfl
    rw [hrecord, hgone, Bool.eq_false_iff.mpr hr] at hne
    exact hne rfl
  case cause =>
    rw [hrecord] at hne
    by_cases husable : (w.st.path p).state = .up ∨ (w.st.path p).state = .weak
    · rw [lostIn_usable husable] at hne
      refine hlatches.cause husable ?_
      by_contra hno
      obtain ⟨hvalid, hcause⟩ := afterOffer_kept hno (w.st.lossSnapshot p)
      exact hne.elim (fun hv => hv hvalid) fun hc => hc hcause
    · rw [lostIn_unusable h husable, (movesTo_fields _ _ _).2.2.2.1] at hne
      exact (hne.elim (fun h => h rfl) fun h => h rfl).elim

/-- A physical loss is a course of one record. -/
theorem physicalLoss_went (p : Path) (w : Work) :
    w.st.PathWent (physicalLoss p w).st p [(w.st.path p).lostIn w.st p] := by
  by_cases h : (w.st.path p).state = .down
  · rw [physicalLoss_down h, lostIn_down _ _ _ h]
    exact (State.PathRevised.refl w.st p).went
  · have honly := physicalLoss_onlyEv p w
    rw [lost_of_ne h] at honly
    obtain ⟨hpath, -, -, -, -, -, hhold, hsteer, hdrill⟩ := goneDown_fields w.st p
    have hdown := lostIn_state w.st p (w.st.path p)
    have hfields : (physicalLoss p w).st.hold = w.st.hold.sees w.st.now p (w.st.path p).state .down
        ∧ (physicalLoss p w).st.steer = w.st.steerAfter p .down ∧ (physicalLoss p w).st.drill = w.st.drill := by
      obtain ⟨e, -, hst⟩ := honly
      rw [hst]
      exact ⟨hhold, hsteer, hdrill⟩
    obtain ⟨hhold', hsteer', hdrill'⟩ := hfields
    refine {
      keeps := physicalLoss_keeps h
      path := (honly.path p).trans hpath
      hold := ?hold
      fibre := fun hp => ?fibre
      radio := fun hp => hsteer'.trans (by subst hp; rfl)
      change := fun _ => (physicalLoss_latches h).change
      ends := fun ha he => ?ends
      drill := fun _ => hdrill'
      passes := fun _ _ _ before x after heq _ hx => ?passes }
    case hold =>
      show _ = w.st.hold.sees w.st.now p (w.st.path p).state ((w.st.path p).lostIn w.st p).state
      rw [hhold', hdown]
    case fibre =>
      subst hp
      show _ = w.st.steer.sees w.st.now w.st.fibre.state (w.st.fibre.lostIn w.st .fibre).state
      rw [hsteer', show (w.st.fibre.lostIn w.st .fibre).state = .down from hdown]
      rfl
    case ends =>
      rw [physicalLoss_eq h] at he ⊢
      exact setPathState_latched_hold ((congrArg Hold.active (blame_hold p w)).trans ha) he
    case passes =>
      have hmem : x ∈ [(w.st.path p).lostIn w.st p] := heq ▸ List.mem_append_right _ List.mem_cons_self
      rw [List.mem_singleton.mp hmem, hdown] at hx
      cases hx

end Sys2Proof.Machine
end


section
/-! FIBRE_LINK_CHANGE, LOS_CHANGE, FIBRE_SETTLE_EXPIRY and DECAY_TICK (R29, R31, R32, R40, R124). -/

namespace Sys2Proof.Machine

/-- Fibre's inputs and the forwarding unit are no part of a path's course. -/
theorem revised_ports (s : State) (f : FibreIn) (g : Forwarding) : s.PathRevised { s with fin := f, fwd := g } .fibre where
  keeps := {
    other := rfl, grade := rfl, clk := rfl, service := rfl, ru := rfl, ready := fun h => absurd rfl h,
    cause := fun h => (h.elim (fun h => h rfl) fun h => h rfl).elim, latches := fun _ h => h }
  state := rfl
  hold := rfl
  steer := rfl
  drill := rfl

/-- A revision that leaves the record is a course of no record. -/
theorem State.PathRevised.still {s t : State} {p : Path} (h : s.PathRevised t p) (hpath : t.path p = s.path p) :
    s.PathWent t p [] where
  keeps := h.keeps
  path := hpath
  hold := h.hold
  fibre := fun _ => h.steer
  radio := fun _ => h.steer
  change := fun hc => by
    obtain ⟨x, hx, -⟩ := hc
    cases hx
  ends := fun ha he => absurd ((congrArg Hold.active h.hold).symm.trans he) (by rw [ha]; decide)
  drill := fun _ => h.drill
  passes := by
    intro _ _ _ before x after heq
    cases before <;> cases heq

/-! ## The settle timer (R29, R32) -/

theorem availableIn_leaves {s : State} {r : PathRec} (h : r.state ≠ .down) : r.availableIn s = r := if_pos h

/-- The state in which a DOWN path becomes available. -/
def State.availableAs (s : State) (r : PathRec) : PathState :=
  if s.exch.service ≠ .service then .up
  else if r.damping = true ∧ r.suppress ≤ r.penalty then .suppressed
  else if r.linkOnly = true then .up else .proving

theorem availableIn_goes {s : State} {r : PathRec} (h : r.state = .down) :
    r.availableIn s = r.movesTo s.now (s.availableAs r) := if_neg (not_not.mpr h)

theorem availableAs_ne_down (s : State) (r : PathRec) : s.availableAs r ≠ .down := by
  unfold State.availableAs
  split
  · decide
  · split
    · decide
    · split <;> decide

theorem physicalAvailability_leaves {p : Path} {w : Work} (h : (w.st.path p).state ≠ .down) :
    physicalAvailability p w = w := if_pos h

theorem physicalAvailability_goes {p : Path} {w : Work} (h : (w.st.path p).state = .down) :
    physicalAvailability p w = setPathState p (w.st.availableAs (w.st.path p)) w := by
  have hsuppressible : (w.st.path p).suppressible = true
      ↔ (w.st.path p).damping = true ∧ (w.st.path p).suppress ≤ (w.st.path p).penalty := by
    unfold PathRec.suppressible
    rw [Bool.and_eq_true, decide_eq_true_iff]
  unfold physicalAvailability State.availableAs
  dsimp only
  rw [if_neg (not_not.mpr h)]
  by_cases hs : w.st.exch.service ≠ .service
  · rw [if_pos hs, if_pos hs]
  · rw [if_neg hs, if_neg hs]
    by_cases hd : (w.st.path p).suppressible = true
    · rw [if_pos hd, if_pos (hsuppressible.mp hd)]
    · rw [if_neg hd, if_neg (mt hsuppressible.mpr hd)]
      rfl

theorem physicalAvailability_went (w : Work) :
    w.st.PathWent (physicalAvailability .fibre w).st .fibre [w.st.fibre.availableIn w.st] := by
  by_cases h : w.st.fibre.state = .down
  · rw [physicalAvailability_goes (p := .fibre) h, availableIn_goes h]
    exact setPathState_went .fibre (availableAs_ne_down _ _) w (Or.inl rfl)
  · rw [physicalAvailability_leaves (p := .fibre) h, availableIn_leaves h]
    exact (State.PathRevised.refl w.st .fibre).went

theorem availability_fin (w : Work) : (physicalAvailability .fibre w).st.fin = w.st.fin := by
  by_cases h : (w.st.path .fibre).state = .down
  · rw [physicalAvailability_goes h]
    obtain ⟨e, -, hst⟩ := setPathState_onlyEv .fibre (n := w.st.availableAs (w.st.path .fibre)) w
      (h.symm ▸ (availableAs_ne_down _ _).symm)
    rw [hst]
    rfl
  · rw [physicalAvailability_leaves h]

theorem availableIn_state (s : State) (r : PathRec) :
    (r.availableIn s).state = if r.state ≠ .down then r.state else s.availableAs r := by
  by_cases h : r.state = .down
  · rw [availableIn_goes h, (movesTo_fields _ _ _).1, if_neg (not_not.mpr h)]
  · rw [availableIn_leaves h, if_pos h]

/-- Fibre that becomes usable arms the return delay, or passes it (R83). -/
theorem steer_rises (now : Time) (t : Steering) : t.sees now .down .up =
    if t.delay = 0 then { t with ret := .passed }
    else { t with ret := .armed, retDue := now + BitVec.ofNat 32 (t.delay * 1000) } := by
  unfold Steering.sees
  exact if_pos ⟨by decide, Or.inl rfl⟩

/-! ## Link and LOS (R29, R31, R124) -/

theorem good_iff (f : FibreIn) : f.good = true ↔ f.link = true ∧ f.los = false := by
  unfold FibreIn.good
  rw [Bool.and_eq_true, Bool.not_eq_true']

/-- The own changes of an event in which the fibre monitor watches link and LOS. -/
def watch (f : FibreIn) (s : State) : Work := watchFibre ((Work.begin s).onFin fun _ => f)

theorem watch_waits {f : FibreIn} (s : State) (h : f.available = false) : (watch f s).st = { s with fin := { f with
    settleDue := if f.link = true ∧ f.los = false then
        (if f.settleDue = none then some (s.now + 1000) else f.settleDue) else none } } := by
  have hno : ¬f.available = true := by rw [h]; decide
  by_cases hg : f.link = true ∧ f.los = false
  · rw [if_pos hg]
    cases hdue : f.settleDue with
    | none =>
      have hwatch : watch f s = ((Work.begin s).onFin fun _ => f).onFin fun f =>
          { f with settleDue := some (later s.now Config.settleMs) } :=
        (if_neg hno).trans ((if_pos ((good_iff f).mpr hg)).trans (if_neg (by
          show ¬f.settleDue.isSome = true
          rw [hdue]
          decide)))
      rw [hwatch]
      rfl
    | some d =>
      have hwatch : watch f s = (Work.begin s).onFin fun _ => f :=
        (if_neg hno).trans ((if_pos ((good_iff f).mpr hg)).trans (if_pos (by
          show f.settleDue.isSome = true
          rw [hdue]
          rfl)))
      rw [hwatch, if_neg (Option.some_ne_none d), ← hdue]
      rfl
  · have hwatch : watch f s = ((Work.begin s).onFin fun _ => f).onFin fun f => { f with settleDue := none } :=
      (if_neg hno).trans (if_neg (mt (good_iff f).mp hg))
    rw [hwatch, if_neg hg]
    rfl

theorem watch_stays {f : FibreIn} (s : State) (h : f.available = true) (hg : f.link = true ∧ f.los = false) :
    (watch f s).st = { s with fin := f } := by
  have hwatch : watch f s = (Work.begin s).onFin fun _ => f := (if_pos h).trans (if_pos ((good_iff f).mpr hg))
  rw [hwatch]
  rfl

theorem watch_loses {f : FibreIn} (s : State) (h : f.available = true) (hg : ¬(f.link = true ∧ f.los = false)) :
    watch f s = physicalLoss .fibre ((Work.begin s).onFin fun _ => { f with available := false }) :=
  (if_pos h).trans (if_neg (mt (good_iff f).mp hg))

/-- Fibre lost in an event's own changes. -/
structure State.FibreLost (s v : State) (f : FibreIn) : Prop where
  went : s.PathWent v .fibre [s.fibre.lostIn s .fibre]
  fin : v.fin = f
  kept : v.keptByPaths = ({ s with fin := f } : State).keptByPaths
  bands : s.fibre.state ≠ .down → v.fwd.fibreQ.urgent = [] ∧ v.fwd.fibreQ.normal = []
    ∧ v.fwd.counts.fibreFlush = hold32 (s.fwd.counts.fibreFlush + (s.fwd.fibreQ.urgent.length + s.fwd.fibreQ.normal.length))
  latches : s.fibre.state ≠ .down → s.LossLatches .fibre v

/-- An event's own changes but for the fibre queue, which may hand on a frame where it is not empty. -/
def Hands (v u : State) : Prop := ∃ q : TxQueue, u = { v with fwd := { v.fwd with fibreQ := q } }
  ∧ (v.fwd.fibreQ.probes = [] → v.fwd.fibreQ.urgent = [] → v.fwd.fibreQ.normal = [] → q = v.fwd.fibreQ)

theorem hands_self (v : State) : Hands v v := ⟨v.fwd.fibreQ, rfl, fun _ _ _ => rfl⟩

theorem takeNext_hands (w : Work) : Hands w.st (takeNext .fibre w).st := by
  unfold takeNext
  split
  · split
    · exact hands_self _
    · next f rest hnext =>
      refine ⟨{ rest with sending := some f.data }, rfl, fun hp hu hn => ?_⟩
      unfold TxQueue.next at hnext
      rw [show w.st.fwd.queue .fibre = w.st.fwd.fibreQ from rfl, hp, hu, hn] at hnext
      cases hnext
  · exact hands_self _

theorem loss_fields (w : Work) : (physicalLoss .fibre w).st.fin = w.st.fin ∧ (w.st.fibre.state ≠ .down →
    (physicalLoss .fibre w).st.fwd = w.st.fwd.changed .fibre .down) := by
  obtain ⟨e, -, hst⟩ := physicalLoss_onlyEv .fibre w
  rw [hst]
  by_cases h : w.st.fibre.state = .down
  · rw [lost_of_down (p := .fibre) h]
    exact ⟨rfl, fun hne => absurd h hne⟩
  · rw [lost_of_ne (p := .fibre) h]
    exact ⟨rfl, fun _ => rfl⟩

theorem watch_lost {f : FibreIn} {s v : State} (h : f.available = true) (hg : ¬(f.link = true ∧ f.los = false))
    (hv : Hands (watch f s).st v) : s.FibreLost v { f with available := false } := by
  have hset : ∀ g, ((Work.begin s).onFin fun _ => g).st = { s with fin := g } := fun _ => rfl
  rw [watch_loses s h hg] at hv
  generalize ({ f with available := false } : FibreIn) = g at hv ⊢
  have hst := hset g
  generalize (Work.begin s).onFin (fun _ => g) = w at hv hst
  obtain ⟨q, rfl, hq⟩ := hv
  obtain ⟨hfin, hfwd⟩ := loss_fields w
  have hwent := physicalLoss_went .fibre w
  have hkept : (physicalLoss .fibre w).st.keptByPaths = ({ s with fin := g } : State).keptByPaths :=
    (closed_keptByPaths _).physicalLoss .fibre (Or.inr trivial) w (congrArg State.keptByPaths hst)
  rw [hst] at hwent hfin hfwd
  have hafter : (physicalLoss .fibre w).st.PathWent _ .fibre [] :=
    (revised_ports (physicalLoss .fibre w).st (physicalLoss .fibre w).st.fin
      { (physicalLoss .fibre w).st.fwd with fibreQ := q }).still rfl
  refine {
    went := ((revised_ports s g s.fwd).then hwent).trans hafter
    fin := hfin
    kept := (show _ = (physicalLoss .fibre w).st.keptByPaths from rfl).trans hkept
    bands := fun hne => ?bands
    latches := fun hne => ?latches }
  case bands =>
    rw [hfwd hne] at hq
    rw [hq rfl rfl rfl, hfwd hne]
    exact ⟨rfl, rfl, rfl⟩
  case latches =>
    have hl := physicalLoss_latches (p := .fibre) (w := w) (by rw [hst]; exact hne)
    rw [hst] at hl
    exact ⟨hl.change, hl.ready, hl.cause⟩

theorem State.FibreLost.broken {s v : State} {f : FibreIn} (h : s.FibreLost v f)
    (hu : s.fibre.state = .up ∨ s.fibre.state = .weak) (ha : s.hold.active = true) (hp : s.hold.path = some .fibre) :
    v.hold = { s.hold with active := false, stop := s.now, reason := .broken } := by
  have hhold : v.hold = s.hold.sees s.now .fibre s.fibre.state (s.fibre.lostIn s .fibre).state := h.went.hold
  have hne : s.fibre.state ≠ .down := fun hd => by
    rw [hd] at hu
    rcases hu with hu | hu <;> cases hu
  rw [hhold, lostIn_state]
  unfold Hold.sees
  dsimp only
  rw [if_neg, if_neg (fun hc => nomatch hc.1), if_pos ⟨hu, nofun, Or.inl rfl⟩]
  rintro (hc | hc | hc)
  · rw [ha] at hc
    cases hc
  · exact hc hp
  · exact hne hc

/-- Once fibre is lost, no frame enters its bands: a FIBRE hold that was carried has broken. -/
theorem State.FibreLost.bandsLeft {s v t : State} {f : FibreIn} (h : s.FibreLost v f) (hne : s.fibre.state ≠ .down)
    (hcarried : s.fibreHoldCarried) (hrests : QueueRests .fibre v t) :
    t.fwd.fibreQ.urgent = [] ∧ t.fwd.fibreQ.normal = [] := by
  have hstate : v.fibre.state = .down := (congrArg PathRec.state h.went.path).trans (lostIn_state s .fibre s.fibre)
  have hhold : v.hold = s.hold.sees s.now .fibre s.fibre.state (s.fibre.lostIn s .fibre).state := h.went.hold
  obtain ⟨hpath, hactive⟩ := sees_keeps s.now .fibre s.fibre.state (s.fibre.lostIn s .fibre).state s.hold
  have hrefuses : v.refuses .fibre := by
    refine ⟨?_, ?_⟩
    · show v.fibre.state.usable = false
      rw [hstate]
      rfl
    · rintro ⟨ha, hp⟩
      have hwas := hactive (hhold ▸ ha)
      have hon := hpath.symm.trans (hhold ▸ hp)
      rw [h.broken (hcarried hwas hon) hwas hon] at ha
      cases ha
  have hqueue : t.fwd.fibreQ = v.fwd.fibreQ := congrArg Prod.fst (hrests hrefuses).2
  obtain ⟨hu, hn, -⟩ := h.bands hne
  rw [hqueue]
  exact ⟨hu, hn⟩

section
variable {s v t : State} {f : FibreIn} (h : s.FibreLost v f) (ht : v.EventEnds t)
include h ht

theorem State.FibreLost.record : t.fibre = s.fibre.lostIn s .fibre := ht.fibre.trans h.went.path

theorem State.FibreLost.usable (hu : s.fibre.state = .up ∨ s.fibre.state = .weak) : t.steer.ret = .notArmed
    ∧ t.fibre.usableSince = s.fibre.usableSince ∧ t.fibre.usableFlag = false := by
  have hne : s.fibre.settled.state ≠ .down := fun hd => by
    rw [show s.fibre.state = .down from hd] at hu
    rcases hu with hu | hu <;> cases hu
  have hrecord := h.record ht
  have hlost := lostIn_usable (s := s) (p := .fibre) hu
  rw [show s.path .fibre = s.fibre from rfl] at hlost
  rw [hlost, movesTo_of_ne hne] at hrecord
  have hsteer : v.steer = s.steer.sees s.now s.fibre.state (s.fibre.lostIn s .fibre).state := h.went.fibre rfl
  have hdown := lostIn_state s .fibre s.fibre
  refine ⟨?_, ?_, ?_⟩
  · rw [ht.ret.1, hsteer, hdown]
    unfold Steering.sees
    dsimp only
    rw [if_neg (fun hc => hc.1 hu), if_pos ⟨hu, nofun⟩]
  · rw [hrecord]
    exact if_neg fun hc => hc.1 hu
  · rw [hrecord]
    rfl

theorem State.FibreLost.penalty : t.fibre.penalty = (if s.fibre.state = .up ∨ s.fibre.state = .weak then
    min 8000 (s.fibre.penalty + 1000) else s.fibre.penalty) := by
  rw [h.record ht]
  by_cases hu : s.fibre.state = .up ∨ s.fibre.state = .weak
  · rw [if_pos hu]
    have hlost := lostIn_usable (s := s) (p := .fibre) hu
    rw [show s.path .fibre = s.fibre from rfl] at hlost
    rw [hlost]
  · rw [if_neg hu]
    by_cases hd : s.fibre.state = .down
    · rw [lostIn_down _ _ _ hd]
    · rw [lostIn_unusable hd hu, movesTo_of_ne (show s.fibre.settled.state ≠ .down from hd)]
      rfl

theorem State.FibreLost.cause (hu : ¬(s.fibre.state = .up ∨ s.fibre.state = .weak)) : t.fibre.cause = s.fibre.cause := by
  rw [h.record ht]
  by_cases hd : s.fibre.state = .down
  · rw [lostIn_down _ _ _ hd]
  · rw [lostIn_unusable hd hu]
    exact (movesTo_fields _ _ _).2.2.2.1

theorem State.FibreLost.breaks (hu : s.fibre.state = .up ∨ s.fibre.state = .weak) (ha : s.hold.active = true)
    (hp : s.hold.path = some .fibre) : t.hold = { s.hold with active := false, stop := s.now, reason := .broken }
      ∧ t.ev.latch.getLsbD 10 = true := by
  have hbroken := h.broken hu ha hp
  have hinactive : v.hold.active = false := by rw [hbroken]
  exact ⟨(ht.link.hold_inactive hinactive).trans hbroken,
    getLsbD_of_latched (ht.latches _ (h.went.ends ha hinactive)) (by decide)⟩

end

/-- What the watching events make of a state: `FibreLost`, or link, LOS and the settle timer. -/
theorem watched_event {g : Work → Work} {s : State} {f : FibreIn} (hs : s.exch.service ≠ .init)
    (hg : Hands (watch f s).st (g (Work.begin s)).st) (havail : f.available = s.fin.available)
    (hdue : f.settleDue = s.fin.settleDue) :
    let t := event g s
    let good := f.link = true ∧ f.los = false
    (s.fin.available = false → t.fibre = s.fibre ∧ s.pathGoes t .fibre []
      ∧ t.fin = { f with settleDue := if good then (if s.fin.settleDue = none then some (s.now + 1000) else s.fin.settleDue)
                                      else none })
    ∧ (s.fin.available = true → good → t.fibre = s.fibre ∧ s.pathGoes t .fibre [] ∧ t.fin = f)
    ∧ (s.fin.available = true → ¬good → ∃ v, s.FibreLost v { f with available := false } ∧ v.EventEnds t
        ∧ t.fin = { f with available := false } ∧ QueueRests .fibre v t ∧ FibreUnflushed v t)
    ∧ t.keptByPaths = ({ s with fin := f } : State).keptByPaths := by
  intro t good
  have hkept : t.kept = (g (Work.begin s)).st.kept := event_kept g s hs
  have hends : (g (Work.begin s)).st.EventEnds t := event_ends hs
  have hrests : QueueRests .fibre (g (Work.begin s)).st t := event_rests .fibre hs
  have hflushed : FibreUnflushed (g (Work.begin s)).st t := event_unflushed hs
  have hfin : t.fin = (g (Work.begin s)).st.fin := (congrArg State.fin hkept :)
  generalize (g (Work.begin s)).st = v at hg hkept hends hrests hflushed hfin
  -- Where fibre is not lost, the own changes are to link, LOS, the settle timer and the fibre queue.
  have hquiet : ∀ x : FibreIn, (watch f s).st = { s with fin := x } →
      t.fibre = s.fibre ∧ s.pathGoes t .fibre [] ∧ t.fin = x ∧ t.keptByPaths = ({ s with fin := x } : State).keptByPaths := by
    intro x hx
    obtain ⟨q, rfl, -⟩ := hg
    rw [hx] at hkept hends hfin
    exact ⟨hends.fibre, pathGoes_of_went ((revised_ports s x { s.fwd with fibreQ := q }).still rfl) hends, hfin,
      keptByPaths_of_kept hkept⟩
  have hwaits := fun ha : s.fin.available = false => hquiet _ (watch_waits s (havail.trans ha))
  have hstays := fun (ha : s.fin.available = true) (hgood : good) => hquiet _ (watch_stays s (havail.trans ha) hgood)
  have hloses := fun (ha : s.fin.available = true) (hgood : ¬good) => watch_lost (havail.trans ha) hgood hg
  rw [hdue] at hwaits
  refine ⟨fun ha => ?_, fun ha hgood => ?_, fun ha hgood => ?_, ?_⟩
  · obtain ⟨hfibre, hgoes, hfin', -⟩ := hwaits ha
    exact ⟨hfibre, hgoes, hfin'⟩
  · obtain ⟨hfibre, hgoes, hfin', -⟩ := hstays ha hgood
    exact ⟨hfibre, hgoes, hfin'⟩
  · exact ⟨v, hloses ha hgood, hends, hfin.trans (hloses ha hgood).fin, hrests, hflushed⟩
  · cases ha : s.fin.available with
    | false => exact (hwaits ha).2.2.2
    | true =>
      by_cases hgood : good
      · exact (hstays ha hgood).2.2.2
      · exact (keptByPaths_of_kept hkept).trans (hloses ha hgood).kept

/-- Settles O40. -/
theorem fibreWatchedAndPenaltiesDecay : Obligations.FibreWatchedAndPenaltiesDecay := by
  unfold Obligations.FibreWatchedAndPenaltiesDecay
  refine ⟨fun up los s => ⟨fun hinit => ⟨?_, ?_⟩, fun hs => ?_⟩, fun p s hcur hdue => ⟨decay_stays hcur hdue,
    decay_releases hcur hdue⟩⟩
  · exact congrArg Host.Outcome.next (if_pos hinit)
  · exact congrArg Host.Outcome.next (if_pos hinit)
  · intro watched
    have hwatched : ∀ (g : Work → Work) (f : FibreIn), Hands (watch f s).st (g (Work.begin s)).st →
        f.available = s.fin.available → f.settleDue = s.fin.settleDue → watched f (event g s) := by
      intro g f hg havail hd
      obtain ⟨hwaits, hstays, hloses, hkept⟩ := watched_event hs hg havail hd
      refine ⟨hwaits, hstays, fun ha hgood => ?_, hkept⟩
      obtain ⟨v, hlost, hends, hfin, hrests, hflushed⟩ := hloses ha hgood
      have hrecord := hlost.record hends
      refine ⟨hfin, ?state, pathGoes_of_went hlost.went hends, hlost.usable hends, fun hne => ?settled, fun hne => ?flushed,
        ?cause, hlost.breaks hends⟩
      case state =>
        rw [hrecord]
        exact lostIn_state s .fibre s.fibre
      case settled =>
        obtain ⟨hwindow, hprobes⟩ := lostIn_empty (s := s) (p := .fibre) hne
        refine ⟨?_, ?_, ?_, hlost.penalty hends⟩
        · rw [hrecord, hprobes]
        · rw [hrecord, hwindow]
        · exact getLsbD_of_latched (hends.latches _ (hlost.latches hne).change) (by decide)
      case flushed =>
        obtain ⟨-, -, hflush⟩ := hlost.bands hne
        refine ⟨fun h8 => ?_, fun hcarried => hlost.bandsLeft hne hcarried hrests, ?_⟩
        · exact getLsbD_of_latched (hends.latches _ ((hlost.latches hne).ready (decide_eq_true h8))) (by decide)
        · refine hflushed.trans (hflush.trans ?_)
          rw [Nat.add_assoc]
          rfl
      case cause =>
        split
        · next hu =>
          have hne : s.fibre.state ≠ .down := fun hd => by
            rw [hd] at hu
            rcases hu with hu | hu <;> cases hu
          refine ⟨?_, fun hw => getLsbD_of_latched (hends.latches _ ((hlost.latches hne).cause hu hw)) (by decide)⟩
          rw [hrecord]
          have hrec := lostIn_usable (s := s) (p := .fibre) hu
          unfold State.lossSnapshot at hrec
          rw [snapshotOf_eq, show s.path .fibre = s.fibre from rfl] at hrec
          rw [hrec]
        · next hu => exact hlost.cause hends hu
    refine ⟨⟨_, congrArg Host.Outcome.next (if_neg hs), ?_⟩, ⟨_, congrArg Host.Outcome.next (if_neg hs), ?_⟩, ?_⟩
    · exact hwatched _ _ (takeNext_hands _) rfl rfl
    · exact hwatched _ _ (hands_self _) rfl rfl
    · intro hexp
      have hwent := (revised_ports s { s.fin with available := true, settleDue := none } s.fwd).then
        (physicalAvailability_went ((Work.begin s).onFin fun f => { f with available := true, settleDue := none }))
      have hends : (fibreSettled (Work.begin s)).st.EventEnds (event fibreSettled s) := event_ends hs
      refine ⟨event fibreSettled s, congrArg Host.Outcome.next (if_pos hexp), ?fin, ?kept, ?state,
        pathGoes_of_went hwent hends, fun hdown hup => ?rises⟩
      case fin => exact (congrArg State.fin (event_kept fibreSettled s hs) :).trans (availability_fin _)
      case kept =>
        exact event_keptByPaths fibreSettled s
          ((closed_keptByPaths s.keptByPaths).fibreSettled trivial (Work.begin s) rfl)
      case state => rw [hends.fibre.trans hwent.path]; exact availableIn_state s s.fibre
      case rises =>
        have hrecord : (event fibreSettled s).fibre = s.fibre.movesTo s.now (s.availableAs s.fibre) :=
          (hends.fibre.trans hwent.path).trans (availableIn_goes hdown)
        rw [hrecord, (movesTo_fields _ _ _).1] at hup
        rw [hup, movesTo_of_ne (by rw [hdown]; decide)] at hrecord
        have hsteer : (fibreSettled (Work.begin s)).st.steer
            = s.steer.sees s.now s.fibre.state (s.fibre.availableIn s).state := hwent.fibre rfl
        rw [availableIn_goes hdown, (movesTo_fields _ _ _).1, hdown, hup, steer_rises] at hsteer
        obtain ⟨hret, hretDue⟩ := hends.ret
        refine ⟨?_, ?_, fun h0 => ?_, fun h0 => ⟨?_, ?_⟩⟩
        · rw [hrecord, hdown]
          rfl
        · rw [hrecord]
          rfl
        · rw [hret, hsteer, if_pos h0]
        · rw [hret, hsteer, if_neg h0]
        · rw [hretDue, hsteer, if_neg h0]

end Sys2Proof.Machine
end


section
/-! SET CLASS, and where its pass leaves the classes (R81 to R88, R96, R109). -/

namespace Sys2Proof.Machine

/-! ## Pins through the passes (R106 to R108) -/

theorem closed_pinsLive : Closed False True False False True False State.pinsLive where
  path := fun _ p _ _ _ h => by cases p <;> exact h
  probe := fun h => h.elim
  grade := fun _ _ _ h => h
  ru := fun _ _ _ h => h
  ruEvent := fun _ _ _ _ h => h
  aim := fun _ _ _ _ _ h => h
  demand := fun _ _ _ _ h => h
  ret := fun h => h.elim
  classes := fun _ _ _ _ h => h
  hold := fun _ _ _ h => h
  flows := fun _ _ _ hc h => pinsLive_of_course (hc.resolve_left id) h
  free := fun h => h.elim
  fwd := fun _ _ _ h => h
  fwdEvent := fun h => h.elim
  allow := fun _ _ h => h
  drill := fun _ _ _ h => h
  ev := fun _ _ _ h => h
  fin := fun h => h.elim

theorem runPasses_pinsLive (n : Nat) {w : Work} (h : w.st.pinsLive) : (runPasses n w).st.pinsLive := by
  have C := closed_pinsLive
  have hpass : ∀ v : Work, v.st.pinsLive → (steeringPass v).st.pinsLive := by
    intro v hv
    have hflow : (flowStep v.st (classStep v)).st.pinsLive := by
      obtain ⟨e, -, he⟩ := flowStep_st v
      rw [he]
      intro f hf hp
      obtain ⟨g, hg, rfl⟩ := List.mem_map.mp hf
      exact (followClass_kept v.st _ g (hv g hg)).2 hp
    exact C.recomputeDemand trivial _ (C.drillStep _ (C.releaseStep _ _ (C.handConditions _ hflow)))
  induction n generalizing w with
  | zero => exact h
  | succ n ih =>
    unfold runPasses
    split
    · exact ih (hpass { w with passDue := false, demandDue := false } h)
    · split
      · exact ih (C.recomputeDemand trivial { w with demandDue := false } h)
      · exact h

/-! ## Pinned flows that have been idle for the new gap (R109) -/

/-- The flow after the returns that follow a change of its class's gap. -/
def FlowRec.returned (s : State) (k : Nat) (f : FlowRec) : FlowRec :=
  if f.gapPassed s.now k (s.cls k).gap then f.comeBack (s.cls k).cur else f

theorem mapFlows_onlyEv (g : FlowRec → FlowRec) (w : Work) : ({ w.st with flows := w.st.flows.map g } : State).OnlyEv
    (handConditions (w.onFlows fun fs => fs.map g)).oweDemand.st := by
  rw [oweDemand_st]
  exact handConditions_onlyEv (w.onFlows fun fs => fs.map g)

theorem returnFlows_onlyEv (k : Nat) (w : Work) :
    ({ w.st with flows := w.st.flows.map (FlowRec.returned w.st k) } : State).OnlyEv (returnFlows k w).st :=
  mapFlows_onlyEv (FlowRec.returned w.st k) w

theorem gapPassed_iff {now : Time} {k gap : Nat} {f : FlowRec} : f.gapPassed now k gap = true ↔
    f.pinned = true ∧ f.cls = k ∧ gap * 1000 ≤ elapsed now f.lastFrame := by
  unfold FlowRec.gapPassed
  rw [Bool.and_eq_true, Bool.and_eq_true, decide_eq_true_iff, decide_eq_true_iff, and_assoc]

theorem become_fields (n : FlowState) (f : FlowRec) : (f.become n).state = n ∧ (f.become n).cls = f.cls
    ∧ (f.state.live = true → n.live = true → (f.become n).identity = f.identity) := by
  unfold FlowRec.become
  split
  · next h => exact ⟨h, rfl, fun _ _ => rfl⟩
  · cases n with
    | carried p =>
      refine ⟨rfl, rfl, fun hf _ => ?_⟩
      unfold FlowRec.identity
      rw [if_pos hf]
      rfl
    | waiting =>
      refine ⟨rfl, rfl, fun hf _ => ?_⟩
      unfold FlowRec.identity
      rw [if_pos hf]
      rfl
    | blocked =>
      refine ⟨rfl, rfl, fun hf _ => ?_⟩
      unfold FlowRec.identity
      rw [if_pos hf]
      rfl
    | free => exact ⟨rfl, rfl, fun _ hn => nomatch hn⟩
    | expired => exact ⟨rfl, rfl, fun _ hn => nomatch hn⟩

theorem returned_identity {s : State} (h : s.pinsLive) (k : Nat) {f : FlowRec} (hf : f ∈ s.flows) :
    (f.returned s k).identity = f.identity := by
  unfold FlowRec.returned
  split
  · next hgap =>
    have hlive := h f hf (gapPassed_iff.mp hgap).1
    exact (become_fields (s.cls k).cur.flowState f).2.2 hlive (Closed.flowState_live _)
  · rfl

theorem returnFlows_kept (k : Nat) {w : Work} (h : w.st.pinsLive) : (returnFlows k w).st.kept = w.st.kept := by
  have hflows : (w.st.flows.map (FlowRec.returned w.st k)).map FlowRec.identity = w.st.flows.map FlowRec.identity := by
    rw [List.map_map]
    exact List.map_congr_left fun f hf => returned_identity h k hf
  rw [(returnFlows_onlyEv k w).kept]
  unfold State.kept
  dsimp only
  rw [hflows]

theorem returnFlows_steeredOn {free : Prop} (k : Nat) {w : Work} (h : w.st.steeredOn free) :
    (returnFlows k w).st.steeredOn free := by
  obtain ⟨e, -, hst⟩ := returnFlows_onlyEv k w
  obtain ⟨hsteered, hfree⟩ := h
  obtain ⟨hclasses, hflows⟩ := (steered_iff _ _).mp hsteered
  rw [hst]
  refine ⟨(steered_iff _ _).mpr ⟨hclasses, fun f' hf' => ?_⟩, hfree⟩
  obtain ⟨f, hf, rfl⟩ := List.mem_map.mp hf'
  unfold FlowRec.returned
  split
  · next hgap =>
    obtain ⟨-, hcls, -⟩ := gapPassed_iff.mp hgap
    obtain ⟨hstate, hsame, -⟩ := become_fields (w.st.cls k).cur.flowState f
    intro _ _ _
    refine ⟨rfl, hstate.trans ?_⟩
    show _ = (w.st.cls (f.become (w.st.cls k).cur.flowState).cls).cur.flowState
    rw [hsame, hcls]
  · exact hflows f hf

/-! ## SET CLASS (R96) -/

/-- The work after SET CLASS's own changes: the settings, the pass, and the flows that return. -/
def classWork (k gap : Nat) (c : ClassRec) (s : State) : Work :=
  let v := passes (Work.begin { s with classes := s.classes.set k c }).owePass
  if (s.cls k).gap = gap then v else returnFlows k v

theorem orderSetClass_eq {ps : List Byte} {s : State} {use : RadioUse} {atIdle permit : Bool} (hk : param ps 0 1 ≤ 7)
    (huse : param ps 1 1 = use.code) (hidle : param ps 3 1 = atIdle.toNat) (hpermit : param ps 4 1 = permit.toNat) :
    orderSetClass ps (Work.begin s) =
      { work := classWork (param ps 0 1) (clamp 1 600 (param ps 5 2)) ((s.cls (param ps 0 1)).setPolicy use
          (min (param ps 2 1) 3) atIdle permit (clamp 1 600 (param ps 5 2))) s,
        result := okOrClamped (decide (min (param ps 2 1) 3 ≠ param ps 2 1)
          || decide (clamp 1 600 (param ps 5 2) ≠ param ps 5 2)),
        answer := classAnswer (param ps 0 1) } := by
  unfold orderSetClass
  rw [huse, hidle, hpermit, radioUseOf_code, flagOf_toNat, flagOf_toNat]
  exact if_neg (Nat.not_lt.mpr hk)

/-- A hold that is not active stays so. -/
theorem closed_holdRests : Closed True True True True True True fun s => s.hold.active = false where
  path := fun _ p _ _ _ h => by cases p <;> exact h
  probe := fun _ _ p _ _ _ h => by cases p <;> exact h
  grade := fun _ _ _ h => h
  ru := fun _ _ _ h => h
  ruEvent := fun _ _ _ _ h => h
  aim := fun _ _ _ _ _ h => h
  demand := fun _ _ _ _ h => h
  ret := fun _ _ _ _ h => h
  classes := fun _ _ _ _ h => h
  hold := fun _ x hs h => Bool.eq_false_of_not_eq_true fun ha => by
    rw [active_of_holdStep hs ha] at h
    cases h
  flows := fun _ _ _ _ h => h
  free := fun _ _ _ _ h => h
  fwd := fun _ _ _ h => h
  fwdEvent := fun _ _ _ _ h => h
  allow := fun _ _ h => h
  drill := fun _ _ _ h => h
  ev := fun _ _ _ h => h
  fin := fun _ _ _ _ _ h => h

theorem reported_holdRests : Reported fun s => s.hold.active = false where
  counts := fun _ _ h => h
  flowChanges := fun _ _ h => h
  classes := fun _ _ _ h => h
  flows := fun _ _ _ h => h
  irq := fun _ _ h => h

section
variable {k gap : Nat} {c : ClassRec} {s : State}

theorem classWork_kept (h : s.pinsLive) :
    (classWork k gap c s).st.kept = ({ s with classes := s.classes.set k c } : State).kept := by
  have hpasses := passes_kept (Work.begin { s with classes := s.classes.set k c }).owePass
  have hpins : (passes (Work.begin { s with classes := s.classes.set k c }).owePass).st.pinsLive :=
    runPasses_pinsLive _ h
  unfold classWork
  dsimp only
  split
  · exact hpasses
  · exact (returnFlows_kept k hpins).trans hpasses

theorem classWork_steeredOn : (classWork k gap c s).st.steeredOn (s.hold.active = false) := by
  have hpasses : (passes (Work.begin { s with classes := s.classes.set k c }).owePass).st.steeredOn
      (s.hold.active = false) := passes_steeredOn rfl id
  unfold classWork
  dsimp only
  split
  · exact hpasses
  · exact returnFlows_steeredOn k hpasses

end

theorem classAnswer_of {s t : State} {k : Nat} {c : ClassRec} (hpolicy : (s.cls k).policy = c.policy)
    (hcontent : (t.cls k).content = (s.cls k).content) : classAnswer k s =
      pack [(1, k), (1, c.use.code), (1, c.tier), (1, c.atIdle.toNat), (1, c.permit.toNat), (2, c.gap),
        (1, (t.cls k).cur.code), (4, (t.cls k).since.toNat)] := by
  have huse : (s.cls k).use = c.use := (congrArg ClassRec.use hpolicy :)
  have htier : (s.cls k).tier = c.tier := (congrArg ClassRec.tier hpolicy :)
  have hidle : (s.cls k).atIdle = c.atIdle := (congrArg ClassRec.atIdle hpolicy :)
  have hpermit : (s.cls k).permit = c.permit := (congrArg ClassRec.permit hpolicy :)
  have hgap : (s.cls k).gap = c.gap := (congrArg ClassRec.gap hpolicy :)
  have hcur : (t.cls k).cur = (s.cls k).cur := (congrArg ClassRec.cur hcontent :)
  have hsince : (t.cls k).since = (s.cls k).since := (congrArg ClassRec.since hcontent :)
  unfold classAnswer
  dsimp only
  rw [huse, htier, hidle, hpermit, hgap, hcur, hsince]

/-- What an order's answer reads of the classes, the event's end leaves. -/
theorem takeKind_cls {kind i : Nat} {rest : List Nat} {s : State} {body : List Byte → Work → Answered}
    (hoffers : s.offersKind kind i rest) {v : Work} (hv : (body (slotParams s.mem i) (Work.begin s)).work = v) (k : Nat) :
    ((takeKind kind body s).cls k).content = ((passes v).st.cls k).content := by
  subst hv
  rw [takeKind_eq kind body s i rest hoffers]
  exact getD_of_map (finish_classes s (writeAnswer i rest (slotTicket s.mem i)
    (body (slotParams s.mem i) (Work.begin s)).result _ (passes (body (slotParams s.mem i) (Work.begin s)).work))) k _

/-- An order whose own changes settle classes and flows leaves them settled. -/
theorem takeKind_settled {kind i : Nat} {rest : List Nat} {s : State} {body : List Byte → Work → Answered} {free : Prop}
    (hoffers : s.offersKind kind i rest)
    (h : (body (slotParams s.mem i) (Work.begin s)).work.st.steeredOn free) : (takeKind kind body s).steered free := by
  have hpasses : ∀ v : Work, v.st.steeredOn free → (passes v).st.steeredOn free := fun v hv => runPasses_steeredOn _ hv
  rw [takeKind_eq kind body s i rest hoffers]
  exact finish_steered s (hpasses _ h)

theorem classes_length_of_kept {s t : State} (h : s.kept = t.kept) : s.classes.length = t.classes.length := by
  have hclasses : s.classes.map ClassRec.policy = t.classes.map ClassRec.policy := (congrArg State.classes h :)
  exact length_of_map_eq _ hclasses

theorem lastPath_of_kept {s t : State} (h : s.kept = t.kept) : s.lastPath = t.lastPath := by
  have hfibre : s.fibre = t.fibre := (congrArg State.fibre h :)
  unfold State.lastPath
  rw [hfibre]

/-- A class that may never use radio is settled on fibre or nowhere, but under a FIBRE hold. -/
theorem never_settled {t : State} {free : Prop} {k : Nat} (h : t.steered free) (hinactive : t.hold.active = false)
    (hin : k < t.classes.length) (hnever : (t.cls k).use = .never) : (t.cls k).cur = t.lastPath := by
  have hmem : t.cls k ∈ t.classes := by
    unfold State.cls
    rw [List.getD_eq_getElem _ _ hin]
    exact List.getElem_mem hin
  obtain ⟨houtside, -, hkeeps, -⟩ := ((steered_iff _ _).mp h).1 _ hmem
  by_cases hservice : t.exch.service = .service
  · exact hkeeps hservice (fun hc => absurd (hinactive.symm.trans hc.1) (by decide)) (Or.inl hnever)
  · exact houtside hservice

/-- Settles O26. -/
theorem classSet : Obligations.ClassSet := by
  unfold Obligations.ClassSet
  intro use atIdle permit i rest s hoffers ps k tier gap result after hk huse hidle hpermit htables hpins
  have hresult : okOrClamped (decide (tier ≠ param ps 2 1) || decide (gap ≠ param ps 5 2)) = result := okOrClamped_eq (by
    simp only [Bool.or_eq_true, decide_eq_true_iff, not_and_or, ne_eq])
  have hbody : orderSetClass ps (Work.begin s) =
      { work := classWork k gap after s, result := result, answer := classAnswer k } := by
    rw [orderSetClass_eq hk huse hidle hpermit, ← hresult]
    rfl
  have hkept := classWork_kept (k := k) (gap := gap) (c := after) hpins
  have hmem : (classWork k gap after s).st.mem = s.mem := (congrArg State.mem hkept :)
  have hin : k < s.classes.length := by
    rw [htables.1]
    omega
  have htaken := takeKind_kept Kind.setClass orderSetClass s i rest hoffers (by rw [hbody]; exact hmem)
  have hcls := takeKind_cls (body := orderSetClass) (v := classWork k gap after s) hoffers (by rw [hbody]) k
  have hpolicy : ((passes (classWork k gap after s)).st.cls k).policy = after.policy := by
    have hclasses : (passes (classWork k gap after s)).st.classes.map ClassRec.policy
        = (s.classes.set k after).map ClassRec.policy := (congrArg State.classes ((passes_kept _).trans hkept) :)
    refine (getD_of_map hclasses k (ClassRec.initial 3 false)).trans ?_
    rw [List.getD_eq_getElem _ _ (by simpa using hin), List.getElem_set_self]
  rw [hbody] at htaken
  dsimp only at htaken
  rw [classAnswer_of hpolicy hcls] at htaken
  have hfinal : (takeKind Kind.setClass orderSetClass s).steered (s.hold.active = false) := by
    refine takeKind_settled hoffers ?_
    rw [hbody]
    exact classWork_steeredOn
  refine ⟨takeKind Kind.setClass orderSetClass s, rfl, htaken.trans (answered_kept hkept i rest result _), fun haim => ?_,
    hfinal, fun hnever hhold => ?_⟩
  · exact upheld_onTarget.exec reported_onTarget (c := .setClass) trivial rfl haim
  · have hinactive : (takeKind Kind.setClass orderSetClass s).hold.active = false :=
      takeKind_closed (P := fun s => s.hold.active = false) reported_holdRests closed_holdRests trivial trivial (fun _ _ _ h => h) hoffers (by
        rw [hbody]
        exact classWork_steeredOn.2 hhold)
    have hall := htaken.trans (answered_kept hkept i rest result _)
    show _ = s.lastPath
    refine (never_settled hfinal hinactive ?_ ?_).trans (lastPath_of_kept (t := ({ s with
      classes := s.classes.set k after } : State).answered i rest result _) hall)
    · rw [classes_length_of_kept hall]
      exact (List.length_set ..).symm ▸ hin
    · exact ((congrArg ClassRec.use hcls :).trans (congrArg ClassRec.use hpolicy :)).trans hnever

end Sys2Proof.Machine
end


section
/-! A session that is wanted stands through the passes (R73, R87, R90); HOLD PATH and RELEASE HOLD (R91 to R95). -/

namespace Sys2Proof.Machine

/-! ## The target SESSION holds a session (R61, R73) -/

theorem setTarget_unit (w : Work) : (setTarget w).st = { w.st with ru := { w.st.ru with target := w.st.targetNow } } := rfl

theorem recomputeTarget_session {w : Work} (h : w.st.ru.state = .session) (ht : w.st.targetNow = .session) :
    recomputeTarget w = setTarget w := by
  have hact : act (setTarget w) = actSession (setTarget w) := by
    unfold act
    rw [show (setTarget w).st.ru.state = .session from h]
  unfold recomputeTarget
  dsimp only
  rw [if_neg (by rw [show (setTarget w).st.ru.state = .session from h]; decide), hact]
  exact if_neg fun hc => hc.1 ht

theorem urgencySees_session (o n : Bool) {w : Work} (h : w.st.ru.state = .session) (ht : w.st.targetNow = .session) :
    urgencySees o n w = setTarget w := by
  unfold urgencySees
  rw [if_neg]
  · exact recomputeTarget_session h ht
  · rw [h]
    simp

/-- Demand seen changes steering and the linger alone. -/
theorem demandSeen_only (w : Work) : ∃ r, (demandSeen w).st = { w.st with
    steer := { w.st.steer with demand := w.st.wantsSession, urgent := w.st.wantsUrgently }, ru := r } := by
  unfold demandSeen lingerSees
  split
  · exact ⟨_, rfl⟩
  · split <;> exact ⟨_, rfl⟩

/-- A session that demand wants, or the linger or the standby keeps, stays open when demand is recomputed. -/
theorem recomputeDemand_session {w : Work} (h : w.st.ru.state = .session) (ht : (demandSeen w).st.targetNow = .session) :
    ∃ t r, (recomputeDemand w).st = { w.st with steer := t, ru := r } ∧ r.state = .session := by
  obtain ⟨a, b, hunit⟩ := demandSeen_unit w
  have hstate : (demandSeen w).st.ru.state = .session := by
    rw [hunit]
    exact h
  obtain ⟨r, hst⟩ := demandSeen_only w
  rw [recomputeDemand_eq, urgencySees_session _ _ hstate ht, setTarget_unit, hst]
  rw [hst] at hstate
  exact ⟨_, _, rfl, hstate⟩

theorem demandSeen_target {w : Work} (hservice : w.st.exch.service = .service) (hwants : w.st.wantsSession = true) :
    (demandSeen w).st.targetNow = .session := by
  obtain ⟨r, hst⟩ := demandSeen_only w
  rw [hst]
  unfold State.targetNow
  rw [if_neg (not_not.mpr hservice)]
  refine if_pos ?_
  rw [hwants]
  rfl

/-! ## A RADIO hold stands -/

/-- In SERVICE with this hold and this radio path. -/
def State.standing (h : Hold) (r : PathRec) (s : State) : Prop :=
  s.exch.service = .service ∧ s.hold = h ∧ s.radio = r

theorem linkless_standing (h : Hold) (r : PathRec) : Linkless (fun _ => True) (State.standing h r) where
  classes := fun _ _ h => h
  flows := fun _ _ h => h
  allow := fun _ _ h => h
  drill := fun _ _ h => h
  ev := fun _ _ _ h => h
  counts := fun _ _ h => h
  flowChanges := fun _ _ h => h
  fwd := fun _ _ _ h => h

section
variable {h : Hold} {r : PathRec} (ha : h.active = true) (hp : h.path = some .radio)
include ha hp

theorem recomputeDemand_standing {w : Work} (hw : w.st.standing h r) : (recomputeDemand w).st.standing h r := by
  obtain ⟨hservice, hhold, hradio⟩ := hw
  have hwants : w.st.wantsSession = true := by
    rw [wantsSession_iff, hhold]
    exact Or.inr (Or.inr (Or.inr (Or.inr ⟨ha, hp⟩)))
  have hlink := recomputeDemand_linkGoes w
  by_cases hs : w.st.ru.state = .session
  · obtain ⟨t, u, hst, -⟩ := recomputeDemand_session hs (demandSeen_target hservice hwants)
    rw [hst]
    exact ⟨hservice, hhold, hradio⟩
  · obtain ⟨hradio', hhold'⟩ := hlink.stays fun hc => hs hc.1
    exact ⟨hlink.service.trans hservice, hhold'.trans hhold, hradio'.trans hradio⟩

theorem steeringPass_standing {w : Work} (hw : w.st.standing h r) : (steeringPass w).st.standing h r := by
  rw [steeringPass_eq]
  exact recomputeDemand_standing ha hp ((linkless_standing h r).passBody w (fun _ _ _ _ => trivial) hw)

end

/-- The radio unit is not in FAULT. -/
theorem closed_noFault : Closed False False False False True True fun s => s.ru.state ≠ .fault where
  path := fun _ p _ _ _ h => by cases p <;> exact h
  probe := fun h => h.elim
  grade := fun _ _ _ h => h
  ru := fun _ _ hs h => fun hf => h (hs.fault hf)
  ruEvent := fun h => h.elim
  aim := fun _ _ _ _ _ h => h
  demand := fun _ _ _ _ h => h
  ret := fun h => h.elim
  classes := fun _ _ _ _ h => h
  hold := fun _ _ _ h => h
  flows := fun _ _ _ _ h => h
  free := fun h => h.elim
  fwd := fun _ _ _ h => h
  fwdEvent := fun h => h.elim
  allow := fun _ _ h => h
  drill := fun _ _ _ h => h
  ev := fun _ _ _ h => h
  fin := fun h => h.elim

/-- Every class of tier 0 that may use radio is RADIO or WAITING. -/
def State.tier0OnRadio (s : State) : Prop :=
  ∀ c ∈ s.classes, c.tier = 0 → c.use ≠ .never → c.cur = .radio ∨ c.cur = .waiting

theorem closed_tier0OnRadio : Closed False True False False True False State.tier0OnRadio where
  path := fun _ p _ _ _ h => by cases p <;> exact h
  probe := fun h => h.elim
  grade := fun _ _ _ h => h
  ru := fun _ _ _ h => h
  ruEvent := fun _ _ _ _ h => h
  aim := fun _ _ _ _ _ h => h
  demand := fun _ _ _ _ h => h
  ret := fun h => h.elim
  classes := by
    intro s cs hpolicy hcur h c' hc'
    obtain ⟨c, hc, hp, hq⟩ := mem_of_map hpolicy (hcur.resolve_left id) hc'
    have huse : c'.use = c.use := (congrArg ClassRec.use hp :)
    have htier : c'.tier = c.tier := (congrArg ClassRec.tier hp :)
    rw [huse, htier, hq]
    exact h c hc
  hold := fun _ _ _ h => h
  flows := fun _ _ _ _ h => h
  free := fun h => h.elim
  fwd := fun _ _ _ h => h
  fwdEvent := fun h => h.elim
  allow := fun _ _ h => h
  drill := fun _ _ _ h => h
  ev := fun _ _ _ h => h
  fin := fun h => h.elim

theorem reported_tier0OnRadio : Reported State.tier0OnRadio where
  counts := fun _ _ h => h
  flowChanges := fun _ _ h => h
  classes := fun s cs hc h => closed_tier0OnRadio.classes s cs (policy_of_content hc) (Or.inr (content_maps hc)) h
  flows := fun _ _ _ h => h
  irq := fun _ _ h => h

section
variable {h : Hold} {r : PathRec} (ha : h.active = true) (hp : h.path = some .radio)
include ha hp

/-- A pass under a RADIO hold sends tier 0 over radio (R81, R82, R85). -/
theorem steeringPass_tier0OnRadio {w : Work} (hw : w.st.standing h r) (hfault : w.st.ru.state ≠ .fault) :
    (steeringPass w).st.tier0OnRadio := by
  obtain ⟨hservice, hhold, -⟩ := hw
  have C := closed_tier0OnRadio
  obtain ⟨e, -, he⟩ := flowStep_st w
  have hflow : (flowStep w.st (classStep w)).st.tier0OnRadio := by
    rw [he]
    intro c' hc' htier huse
    obtain ⟨c, -, rfl⟩ := List.mem_map.mp hc'
    have hpolicy := Closed.takePath_policy w.st.now (decideClass w.st c) c
    have htier' : c.tier = 0 := (congrArg ClassRec.tier hpolicy :).symm.trans htier
    have huse' : c.use ≠ .never := fun hn => huse ((congrArg ClassRec.use hpolicy :).trans hn)
    have hpermits : w.st.permits c = true := by
      unfold State.permits
      rw [decide_eq_true hservice, decide_eq_true huse', decide_eq_true hfault, decide_eq_true htier']
      rfl
    have hdecides : decideClass w.st c = w.st.radioOrWait := by
      unfold decideClass
      rw [if_neg (not_not.mpr hservice), if_pos (hhold.symm ▸ ha), hhold, hp]
      exact if_pos hpermits
    rw [takePath_cur, hdecides]
    unfold State.radioOrWait
    split
    · exact Or.inl rfl
    · exact Or.inr rfl
  exact C.recomputeDemand trivial _ (C.drillStep _ (C.releaseStep _ _ (C.handConditions _ hflow)))

theorem runPasses_standing (n : Nat) {w : Work} (hw : w.st.standing h r) : (runPasses n w).st.standing h r := by
  induction n generalizing w with
  | zero => exact hw
  | succ n ih =>
    unfold runPasses
    split
    · exact ih (steeringPass_standing ha hp (w := { w with passDue := false, demandDue := false }) hw)
    · split
      · exact ih (recomputeDemand_standing ha hp (w := { w with demandDue := false }) hw)
      · exact hw

theorem runPasses_tier0OnRadio (n : Nat) {w : Work} (hw : w.st.standing h r) (hfault : w.st.ru.state ≠ .fault)
    (ht : w.st.tier0OnRadio) : (runPasses n w).st.tier0OnRadio := by
  induction n generalizing w with
  | zero => exact ht
  | succ n ih =>
    unfold runPasses
    split
    · exact ih (steeringPass_standing ha hp (w := { w with passDue := false, demandDue := false }) hw)
        (closed_noFault.steeringPass trivial trivial { w with passDue := false, demandDue := false } hfault)
        (steeringPass_tier0OnRadio ha hp (w := { w with passDue := false, demandDue := false }) hw hfault)
    · split
      · exact ih (recomputeDemand_standing ha hp (w := { w with demandDue := false }) hw)
          (closed_noFault.recomputeDemand trivial { w with demandDue := false } hfault)
          (closed_tier0OnRadio.recomputeDemand trivial { w with demandDue := false } ht)
      · exact ht

theorem passes_tier0OnRadio {w : Work} (hdue : w.passDue = true) (hw : w.st.standing h r)
    (hfault : w.st.ru.state ≠ .fault) : (passes w).st.tier0OnRadio := by
  show (runPasses (7 + 1) w).st.tier0OnRadio
  unfold runPasses
  rw [if_pos hdue]
  exact runPasses_tier0OnRadio ha hp 7
    (steeringPass_standing ha hp (w := { w with passDue := false, demandDue := false }) hw)
    (closed_noFault.steeringPass trivial trivial { w with passDue := false, demandDue := false } hfault)
    (steeringPass_tier0OnRadio ha hp (w := { w with passDue := false, demandDue := false }) hw hfault)

end

/-! ## HOLD PATH (R91, R92) -/

theorem onHold_onlyEv (f : Hold → Hold) (w : Work) : ({ w.st with hold := f w.st.hold } : State).OnlyEv
    (((handConditions (w.onHold f)).touch .hold).owePass).st := by
  rw [owePass_st, touch_st]
  exact handConditions_onlyEv (w.onHold f)

theorem beginHold_onlyEv (p : Path) (n : Nat) (w : Work) :
    ({ w.st with hold := w.st.hold.begin p w.now n (w.st.holdSeen p) } : State).OnlyEv (beginHold p n w).st :=
  onHold_onlyEv (Hold.begin p w.now n (w.st.holdSeen p)) w

theorem orderHoldPath_begins {ps : List Byte} {p : Path} {w : Work} (hp : param ps 0 1 = pathCode p)
    (hservice : w.st.exch.service = .service) (hidle : w.st.hold.active = false) (hcan : holdRefusal w.st p = none) :
    orderHoldPath ps w =
      { work := beginHold p (clamp 1 3600 (param ps 1 2)) w,
        result := okOrClamped (decide (clamp 1 3600 (param ps 1 2) ≠ param ps 1 2)), answer := holdAnswer } := by
  rw [orderHoldPath_named (p := p) (by rw [hp, pathOf_code]), if_neg (not_not.mpr hservice),
    if_neg (by rw [hidle]; decide), hcan]

theorem holdRefusal_none {s : State} {p : Path}
    (h : match p with | .fibre => s.fibreUsable = true | .radio => s.ru.state ≠ .fault) : holdRefusal s p = none := by
  cases p with
  | fibre => exact if_pos h
  | radio => exact if_neg h

/-- A hold that has begun stands through the event: a FIBRE hold breaks in no pass, and a RADIO hold keeps the session. -/
theorem passes_hold_begun {p : Path} {v : Work} (hservice : v.st.exch.service = .service) (ha : v.st.hold.active = true)
    (hp : v.st.hold.path = some p) : (passes v).st.hold = v.st.hold := by
  cases p with
  | radio => exact (runPasses_standing ha hp _ (w := v) ⟨hservice, rfl, rfl⟩).2.1
  | fibre =>
    have hlink := passes_linkGoes v
    by_cases hc : v.st.closes (passes v).st
    · refine (hlink.lost hc).2.trans ?_
      exact if_pos (Or.inr (Or.inl (by rw [hp]; decide)))
    · exact (hlink.stays hc).2

/-- What the passes of an order have established, its answer and the end of its event keep. -/
theorem takeKind_finished {F M B G D S : Prop} {P : State → Prop} (R : Reported P) (C : Closed F M B G D S P)
    (hexch : ∀ s m e, P s → P { s with mem := m, exch := e }) {kind i : Nat} {rest : List Nat} {s : State}
    {body : List Byte → Work → Answered} (hoffers : s.offersKind kind i rest)
    (h : P (passes (body (slotParams s.mem i) (Work.begin s)).work).st) : P (takeKind kind body s) := by
  have hanswer : ∀ (w : Work) (k : Nat) (r : ResultCode) (ans : List Byte), P w.st → P (writeAnswer i rest k r ans w).st :=
    fun w _ _ _ hw => hexch w.st _ _ hw
  rw [takeKind_eq kind body s i rest hoffers]
  exact R.finish C s _ (hanswer _ _ _ _ h)

theorem takeKind_hold {kind i : Nat} {rest : List Nat} {s : State} {body : List Byte → Work → Answered}
    (hoffers : s.offersKind kind i rest) {v : Work} (hv : (body (slotParams s.mem i) (Work.begin s)).work = v) :
    (takeKind kind body s).hold = (passes v).st.hold := by
  subst hv
  rw [takeKind_eq kind body s i rest hoffers]
  exact finish_hold _ _

/-- The hold that HOLD PATH begins. -/
theorem holdPath_begins {s : State} {p : Path} {i : Nat} {rest : List Nat} (hoffers : s.offersKind Kind.holdPath i rest)
    {n : Nat} {result : ResultCode} (hservice : s.exch.service = .service)
    (hbody : orderHoldPath (slotParams s.mem i) (Work.begin s)
      = { work := beginHold p n (Work.begin s), result := result, answer := holdAnswer }) :
    (takeKind Kind.holdPath orderHoldPath s).hold = s.hold.begin p s.now n (s.holdSeen p)
    ∧ (takeKind Kind.holdPath orderHoldPath s).kept = (({ s with hold := { s.hold with
        path := some p, start := s.now, duration := n } } : State).answered i rest result
      (holdAnswer { s with hold := s.hold.begin p s.now n (s.holdSeen p) })).kept
    ∧ (takeKind Kind.holdPath orderHoldPath s).steered False
    ∧ (p = .radio → s.ru.state ≠ .fault → (takeKind Kind.holdPath orderHoldPath s).tier0OnRadio) := by
  have honly := beginHold_onlyEv p n (Work.begin s)
  have hdue : (beginHold p n (Work.begin s)).passDue = true := rfl
  generalize beginHold p n (Work.begin s) = v at honly hdue hbody
  have hstate : v.st.hold = s.hold.begin p s.now n (s.holdSeen p) ∧ v.st.exch.service = .service
      ∧ v.st.ru = s.ru := by
    obtain ⟨e, -, hst⟩ := honly
    rw [hst]
    exact ⟨rfl, hservice, rfl⟩
  obtain ⟨hhold, hservice', hru⟩ := hstate
  have hactive : v.st.hold.active = true := by rw [hhold]; rfl
  have hpath : v.st.hold.path = some p := by rw [hhold]; rfl
  have hstands := passes_hold_begun hservice' hactive hpath
  have hkept : v.st.kept = ({ s with hold := { s.hold with path := some p, start := s.now, duration := n } } : State).kept :=
    honly.kept
  have hmem : v.st.mem = s.mem := (congrArg State.mem hkept :)
  have htaken := takeKind_kept Kind.holdPath orderHoldPath s i rest hoffers (by rw [hbody]; exact hmem)
  have hsteered : (takeKind Kind.holdPath orderHoldPath s).steered False :=
    takeKind_steered hoffers (by rw [hbody]; exact hdue) False.elim
  refine ⟨?hold, ?kept, hsteered, fun hradio hfault => ?served⟩
  case hold =>
    exact (takeKind_hold (body := orderHoldPath) (v := v) hoffers (by rw [hbody])).trans (hstands.trans hhold)
  case kept =>
    rw [hbody] at htaken
    have hans : holdAnswer (passes v).st = holdAnswer { s with hold := s.hold.begin p s.now n (s.holdSeen p) } := by
      unfold holdAnswer
      rw [hstands, hhold]
    dsimp only at htaken
    rw [hans] at htaken
    exact htaken.trans (answered_kept hkept i rest _ _)
  case served =>
    subst hradio
    have hpasses : (passes v).st.tier0OnRadio := passes_tier0OnRadio hactive hpath hdue ⟨hservice', rfl, rfl⟩
      (hru.symm ▸ hfault)
    refine takeKind_finished reported_tier0OnRadio closed_tier0OnRadio (fun _ _ _ h => h) hoffers ?_
    rw [hbody]
    exact hpasses

/-! ## RELEASE HOLD (R93) -/

/-- A hold that is released latches nothing (R93). -/
theorem released_sameLoss {s : State} (h : s.hold.active = true) :
    s.ev.sameLoss (endHold .released (Work.begin s)).st.ev := by
  have hstill : ∀ f : Hold → Hold, s.ev.sameLoss (((handConditions ((Work.begin s).onHold f)).touch .hold).owePass).st.ev := by
    intro f
    rw [owePass_st, touch_st]
    exact handConditions_sameLoss ((Work.begin s).onHold f)
  have heq : endHold .released (Work.begin s) = (((handConditions ((Work.begin s).onHold fun h =>
      { h with active := false, stop := s.now, reason := .released })).touch .hold).owePass) := if_pos h
  rw [heq]
  exact hstill fun h => { h with active := false, stop := s.now, reason := .released }

/-- Settles O28. -/
theorem holdsBeginAndEnd : Obligations.HoldsBeginAndEnd := by
  unfold Obligations.HoldsBeginAndEnd
  refine ⟨fun p i rest s hoffers => ?begins, fun i rest s hcur hoffers => ⟨fun hactive => ?ends, fun hidle => ?idle⟩⟩
  case begins =>
    intro ps duration result stop hp hservice hidle hcan
    have hbody := orderHoldPath_begins (w := Work.begin s) hp hservice hidle (holdRefusal_none hcan)
    obtain ⟨hhold, hkept, hsteered, hserved⟩ := holdPath_begins hoffers hservice hbody
    have hresult : okOrClamped (decide (duration ≠ param ps 1 2)) = result := okOrClamped_eq (by
      rw [decide_eq_true_iff])
    have hans : holdAnswer { s with hold := s.hold.begin p s.now duration (s.holdSeen p) } = pack [(1, pathCode p),
        (2, duration), (4, s.now.toNat), (4, (takeKind Kind.holdPath orderHoldPath s).hold.stop.toNat)] := by
      rw [hhold]
      rfl
    rw [hresult, hans] at hkept
    refine ⟨_, rfl, hkept, ?_, ?_, hsteered, ?_, ?_⟩
    · rw [hhold]
      rfl
    · rw [hhold]
      rfl
    · intro hradio
      rw [hhold]
      subst hradio
      exact usable_iff _
    · intro hradio c hc htier huse
      subst hradio
      exact hserved rfl hcan c hc htier huse
  case ends =>
    have hbody : orderReleaseHold (slotParams s.mem i) (Work.begin s) = {
        work := endHold .released (Work.begin s), result := .ok,
        answer := fun s => releaseHoldAnswer s.hold s.hold.start s.hold.stop } := if_pos hactive
    have hkeeps := endHold_kept .released (Work.begin s)
    have hhold := endHold_hold .released (Work.begin s)
    have hinactive := endHold_inactive .released (Work.begin s)
    have hloss := released_sameLoss hactive
    have hdue := endHold_passDue (reason := .released) (w := Work.begin s) hactive
    rw [ended_of_active (show (Work.begin s).st.hold.active = true from hactive)] at hhold
    generalize endHold .released (Work.begin s) = v at hbody hkeeps hhold hinactive hloss hdue
    have hlink : v.st.LinkGoes (takeKind Kind.releaseHold orderReleaseHold s) := by
      have h := takeKind_linkGoes (body := orderReleaseHold) hoffers
      rw [hbody] at h
      exact h
    have hpasses := (passes_linkGoes v).hold_inactive hinactive
    have htaken := takeKind_kept Kind.releaseHold orderReleaseHold s i rest hoffers (by
      rw [hbody]
      exact (congrArg State.mem hkeeps :))
    rw [hbody] at htaken
    dsimp only at htaken
    rw [hpasses, hhold] at htaken
    refine ⟨_, rfl, (hlink.hold_inactive hinactive).trans hhold, htaken.trans (answered_kept hkeeps i rest _ _),
      (hlink.ends hinactive).trans hloss.1, ?_⟩
    exact takeKind_steered hoffers (by rw [hbody]; exact hdue) fun _ => by
      rw [hbody]
      exact hinactive
  case idle =>
    have hbody : orderReleaseHold (slotParams s.mem i) (Work.begin s) = {
        work := Work.begin s, result := .notHeld, answer := fun s => releaseHoldAnswer s.hold s.hold.stop 0 } := if_neg (by
      rw [show (Work.begin s).st.hold.active = false from hidle]
      decide)
    exact ⟨_, rfl, takeKind_still hoffers hbody rfl rfl rfl rfl hcur⟩

end Sys2Proof.Machine
end


section
/-! The allowance meter in the passes of an event: what an addition keeps, and what counts no byte (R136 to R142, R123);
SET ALLOWANCE and NEW PERIOD (R145, R146). -/

namespace Sys2Proof.Machine

/-! ## What additions keep -/

theorem closed_allow {Q : Allowance → Prop} (h : ∀ a n, Q a → Q (Allowance.added n a)) :
    Closed True True True True True True fun s => Q s.allow where
  path := fun _ p _ _ _ h => by cases p <;> exact h
  probe := fun _ _ p _ _ _ h => by cases p <;> exact h
  grade := fun _ _ _ h => h
  ru := fun _ _ _ h => h
  ruEvent := fun _ _ _ _ h => h
  aim := fun _ _ _ _ _ h => h
  demand := fun _ _ _ _ h => h
  ret := fun _ _ _ _ h => h
  classes := fun _ _ _ _ h => h
  hold := fun _ _ _ h => h
  flows := fun _ _ _ _ h => h
  free := fun _ _ _ _ h => h
  fwd := fun _ _ _ h => h
  fwdEvent := fun _ _ _ _ h => h
  allow := fun s n hs => h s.allow n hs
  drill := fun _ _ _ h => h
  ev := fun _ _ _ h => h
  fin := fun _ _ _ _ _ h => h

theorem reported_allow (Q : Allowance → Prop) : Reported fun s => Q s.allow where
  counts := fun _ _ h => h
  flowChanges := fun _ _ h => h
  classes := fun _ _ _ h => h
  flows := fun _ _ _ h => h
  irq := fun _ _ h => h

theorem restaged_fields (a : Allowance) : a.restaged.stage = a.restaged.stageNow ∧ a.restaged.live = a.restaged.liveNow
    ∧ (a.sticky = true → a.restaged.sticky = true) ∧ a.peak.rank ≤ a.restaged.peak.rank := by
  refine ⟨rfl, rfl, fun h => ?_, ?_⟩
  · show (a.sticky || _) = true
    rw [h]
    rfl
  · show a.peak.rank ≤ (if a.peak.rank < a.stageNow.rank then a.stageNow else a.peak).rank
    split
    · next h => exact Nat.le_of_lt h
    · exact Nat.le_refl _

/-- Stage and live overrun are the ones that used bytes give. -/
def Allowance.agrees (a : Allowance) : Prop := a.stage = a.stageNow ∧ a.live = a.liveNow

theorem added_agrees (a : Allowance) (n : Nat) (_ : a.agrees) : (a.added n).agrees :=
  ⟨(restaged_fields _).1, (restaged_fields _).2.1⟩

theorem added_sticky (a : Allowance) (n : Nat) (h : a.sticky = true) : (a.added n).sticky = true :=
  (restaged_fields { a with used := min (a.used + n) max64 }).2.2.1 h

theorem added_peak (k : Nat) (a : Allowance) (n : Nat) (h : k ≤ a.peak.rank) : k ≤ (a.added n).peak.rank :=
  Nat.le_trans h (restaged_fields { a with used := min (a.used + n) max64 }).2.2.2

theorem added_used (k : Nat) (hk : k ≤ max64) (a : Allowance) (n : Nat) (h : k ≤ a.used) : k ≤ (a.added n).used :=
  Nat.le_min.mpr ⟨Nat.le_trans h (Nat.le_add_right _ _), hk⟩

/-! ## The stage recomputed (R140 to R142) -/

/-- What `restage` does but for the allowance record: events and conditions. -/
theorem restage_onlyEv (w : Work) : ({ w.st with allow := w.st.allow.restaged } : State).OnlyEv (restage w).st := by
  have hlatch : ∀ (i : Nat) (v : Work), v.st.OnlyEv ((latch i v).owePass).st := fun i v => by
    rw [owePass_st]
    exact latch_onlyEv i v
  have hover : ({ w.st with allow := w.st.allow.restaged } : State).OnlyEv
      (if w.st.allow.liveNow && !w.st.allow.live then latch Bit.overrun (w.onAllow Allowance.restaged)
        else w.onAllow Allowance.restaged).st := by
    split
    · exact latch_onlyEv Bit.overrun (w.onAllow Allowance.restaged)
    · exact State.OnlyEv.refl _
  have hhands := hover.trans (handConditions_onlyEv _)
  unfold restage
  dsimp only
  split
  · exact hhands
  · exact hhands.trans (hlatch Bit.stageChange _)

theorem restage_due {w : Work} (h : w.st.allow.stageNow ≠ w.st.allow.stage) : (restage w).passDue = true := by
  have hlatch : ∀ v : Work, ((latch Bit.stageChange v).owePass).passDue = true := fun _ => rfl
  unfold restage
  dsimp only
  rw [if_neg h]
  exact hlatch _

theorem restage_latched {w : Work} (h : w.st.allow.stageNow ≠ w.st.allow.stage) : latched (bitMask 5) (restage w).st := by
  have hlatch : ∀ v : Work, latched (bitMask 5) ((latch Bit.stageChange v).owePass).st := fun v => by
    rw [owePass_st]
    exact latch_latched 5 v
  unfold restage
  dsimp only
  rw [if_neg h]
  exact hlatch _

theorem restage_overrun {w : Work} (hover : w.st.allow.liveNow = true) (hlive : w.st.allow.live = false) :
    latched (bitMask 6) (restage w).st := by
  have C := closedLatched (bitMask 6)
  have hlatch : ∀ v : Work, latched (bitMask 6) v.st → latched (bitMask 6) ((latch Bit.stageChange v).owePass).st :=
    fun v hv => C.owePass _ (C.latch _ _ hv)
  have hhands := handConditions_latched (latch_latched Bit.overrun (w.onAllow Allowance.restaged))
  unfold restage
  dsimp only
  rw [hover, hlive, if_pos (show (true && !false) = true from rfl)]
  split
  · exact hhands
  · exact hlatch _ hhands

/-- Where the stage stays nothing is owed. -/
theorem restage_owes {w : Work} (h : w.st.allow.stageNow = w.st.allow.stage) :
    (restage w).passDue = w.passDue ∧ (restage w).demandDue = w.demandDue := by
  unfold restage
  dsimp only
  rw [if_pos h, handConditions_passDue, handConditions_demandDue]
  split <;> exact ⟨rfl, rfl⟩

/-! ## No frame for the modem, no byte counted (R123, R136) -/

/-- A course of steps that counts no byte, and opens neither the radio port nor the hold buffer. -/
structure State.PortRests (s t : State) : Prop where
  allow : t.allow = s.allow
  sending : t.fwd.radioQ.sending = s.fwd.radioQ.sending
  session : t.ru.state = .session → s.ru.state = .session
  held : s.fwd.held = [] → t.fwd.held = []
  bytes : t.flows.map FlowRec.bytes = s.flows.map FlowRec.bytes

theorem State.PortRests.refl (s : State) : s.PortRests s := ⟨rfl, rfl, id, id, rfl⟩

theorem State.PortRests.trans {s t u : State} (h : s.PortRests t) (h' : t.PortRests u) : s.PortRests u :=
  ⟨h'.allow.trans h.allow, h'.sending.trans h.sending, h.session ∘ h'.session, h'.held ∘ h.held,
    h'.bytes.trans h.bytes⟩

/-- No frame that passes release reaches the modem. -/
def State.noneToModem (s : State) : Prop := s.fwd.held = [] ∨ s.portReady .radio = false

theorem State.PortRests.notReady {s t : State} (h : s.PortRests t) (hp : s.portReady .radio = false) :
    t.portReady .radio = false := by
  unfold State.portReady at hp ⊢
  dsimp only at hp ⊢
  rw [h.sending]
  by_cases ht : t.ru.state = .session
  · rw [decide_eq_true (h.session ht)] at hp
    rw [decide_eq_true ht]
    exact hp
  · rw [decide_eq_false ht]
    rfl

theorem State.PortRests.noneToModem {s t : State} (h : s.PortRests t) (hs : s.noneToModem) : t.noneToModem :=
  hs.imp h.held h.notReady

theorem State.OnlyEv.portRests {s t : State} (h : s.OnlyEv t) : s.PortRests t := by
  obtain ⟨e, -, rfl⟩ := h
  exact ⟨rfl, rfl, id, id, rfl⟩

theorem demanding_portRests : Demanding State.PortRests where
  refl := State.PortRests.refl
  trans := State.PortRests.trans
  moveTo := by
    intro n hn w
    by_cases h : w.st.ru.state = .session
    · refine State.PortRests.trans ?_ (moveTo_leaves n h hn).portRests
      have hleft : ∀ s : State, s.sessionLeft.allow = s.allow ∧ s.sessionLeft.fwd.radioQ.sending = s.fwd.radioQ.sending
          ∧ s.sessionLeft.fwd.held = s.fwd.held ∧ s.sessionLeft.flows = s.flows := by
        intro s
        by_cases hd : s.radio.state = .down
        · rw [sessionLeft_of_down hd]
          exact ⟨rfl, rfl, rfl, rfl⟩
        · rw [sessionLeft_of_ne hd]
          exact ⟨rfl, rfl, rfl, rfl⟩
      obtain ⟨hallow, hsending, hheld, hflows⟩ := hleft w.st
      exact ⟨hallow, hsending, fun _ => h, fun he => hheld.trans he, congrArg (List.map FlowRec.bytes) hflows⟩
    · have hstate := moveTo_state n w
      obtain ⟨r, e, -, hst⟩ := moveTo_ruOnly n w (Or.inl h)
      exact ⟨by rw [hst], by rw [hst], fun hs => absurd (hstate.symm.trans hs) hn, fun he => by rw [hst]; exact he,
        by rw [hst]⟩
  only := by
    rintro s t ⟨r, e, -, rfl⟩ hsession
    exact ⟨rfl, rfl, hsession.mp, id, rfl⟩
  steer := fun _ _ => ⟨rfl, rfl, id, id, rfl⟩

theorem takeNext_portRests (p : Path) {w : Work} (h : w.st.portReady .radio = false) : w.st.PortRests (takeNext p w).st := by
  unfold takeNext
  cases p with
  | radio =>
    rw [h]
    exact State.PortRests.refl _
  | fibre =>
    split
    · split
      · exact State.PortRests.refl _
      · exact ⟨rfl, rfl, id, id, rfl⟩
    · exact State.PortRests.refl _

theorem enterBand_portRests (p : Path) (tier : Nat) (f : TxFrame) {w : Work} (h : w.st.portReady .radio = false) :
    w.st.PortRests (enterBand p tier f w).st := by
  have hqueue : w.st.PortRests (w.onQueue p (TxQueue.append tier f)).st := by
    cases p with
    | fibre => exact ⟨rfl, rfl, id, id, rfl⟩
    | radio =>
      refine ⟨rfl, ?_, id, id, rfl⟩
      show (TxQueue.append tier f w.st.fwd.radioQ).sending = _
      unfold TxQueue.append
      split <;> rfl
  unfold enterBand
  split
  · exact ⟨rfl, rfl, id, id, rfl⟩
  · exact hqueue.trans (takeNext_portRests p (hqueue.notReady h))

theorem releaseHeld_portRests (x : HeldFrame) {w : Work} (h : w.st.portReady .radio = false) :
    w.st.PortRests (releaseHeld x w).st := by
  have hdrops : ∀ v : Work, w.st.PortRests v.st → w.st.PortRests (latch Bit.holdDrops v).st := fun v hv =>
    hv.trans (latch_onlyEv Bit.holdDrops v).portRests
  have honto : ∀ p, w.st.PortRests (if w.st.bandFull p (w.st.cls x.cls).tier then
      latch Bit.holdDrops (placeFrame p x.cls x.flow x.data w) else placeFrame p x.cls x.flow x.data w).st := by
    intro p
    split
    · exact hdrops _ (enterBand_portRests _ _ _ h)
    · exact enterBand_portRests _ _ _ h
  unfold releaseHeld
  dsimp only
  split
  · exact honto .fibre
  · exact honto .radio
  · exact State.PortRests.refl _
  · exact hdrops (dropBlocked x.cls w) ⟨rfl, rfl, id, id, rfl⟩

theorem releaseAll_portRests (l : List HeldFrame) {w : Work} (h : w.st.portReady .radio = false) :
    w.st.PortRests (releaseAll l w).st := by
  induction l generalizing w with
  | nil => exact State.PortRests.refl _
  | cons x l ih =>
    have hx := releaseHeld_portRests x h
    exact hx.trans (ih (hx.notReady h))

theorem releaseStep_portRests (s0 : State) {w : Work} (h : w.st.noneToModem) : w.st.PortRests (releaseStep s0 w).st := by
  have hstays : w.st.PortRests (w.onFwd fun f => { f with
      held := w.st.fwd.held.filter fun h => !leftWaiting s0 w.st h }).st :=
    ⟨rfl, rfl, id, fun he => (congrArg (List.filter _) he).trans rfl, rfl⟩
  unfold releaseStep
  dsimp only
  rcases h with hheld | hport
  · rw [hheld] at hstays ⊢
    exact hstays
  · exact hstays.trans (releaseAll_portRests _ (hstays.notReady hport))

theorem drillStep_portRests (w : Work) : w.st.PortRests (drillStep w).st := by
  unfold drillStep
  split
  · cases hrun : w.st.drill.running with
    | false =>
      rw [endDrill_idle _ _ _ hrun]
      exact State.PortRests.refl _
    | true =>
      have hdrill : w.st.PortRests (w.onDrill (Drill.closed w.st .aborted .realUse)).st := ⟨rfl, rfl, id, id, rfl⟩
      rw [endDrill_eq _ _ _ hrun, endedWork_st]
      exact hdrill.trans ((latch_onlyEv Bit.drillEnd _).trans (handConditions_onlyEv _)).portRests
  · exact State.PortRests.refl _

theorem become_bytes (n : FlowState) (f : FlowRec) : (f.become n).bytes = f.bytes := by
  unfold FlowRec.become
  split
  · rfl
  · cases n <;> rfl

theorem followClass_bytes (s : State) (new : ClassPath) (f : FlowRec) : (followClass s new f).bytes = f.bytes := by
  unfold followClass
  dsimp only
  split
  · rfl
  · split
    · split
      · rfl
      · exact become_bytes _ f
    · split
      · rfl
      · exact become_bytes _ f

theorem passBody_portRests {w : Work} (h : w.st.noneToModem) : w.st.PortRests (passBody w).st := by
  have hflow : w.st.PortRests (flowStep w.st (classStep w)).st := by
    obtain ⟨e, -, he⟩ := flowStep_st w
    rw [he]
    refine ⟨rfl, rfl, id, id, ?_⟩
    exact (List.map_map ..).trans (List.map_congr_left fun f _ => followClass_bytes w.st _ f)
  have hhands := hflow.trans (handConditions_onlyEv _).portRests
  exact (hhands.trans (releaseStep_portRests w.st (hhands.noneToModem h))).trans (drillStep_portRests _)

theorem runPasses_portRests (n : Nat) {w : Work} (h : w.st.noneToModem) : w.st.PortRests (runPasses n w).st := by
  have D := demanding_portRests
  induction n generalizing w with
  | zero => exact D.refl _
  | succ n ih =>
    unfold runPasses
    split
    · have hpass : w.st.PortRests (steeringPass { w with passDue := false, demandDue := false }).st := by
        rw [steeringPass_eq]
        exact (passBody_portRests (w := { w with passDue := false, demandDue := false }) h).trans (D.recomputeDemand _)
      exact hpass.trans (ih (hpass.noneToModem h))
    · split
      · have hdemand := D.recomputeDemand { w with demandDue := false }
        exact hdemand.trans (ih (hdemand.noneToModem h))
      · exact D.refl _

theorem event_allow {f : Work → Work} {s : State} (hs : s.exch.service ≠ .init) (h : (f (Work.begin s)).st.noneToModem) :
    (event f s).allow = (f (Work.begin s)).st.allow := by
  unfold event
  rw [if_neg hs, finish_allow]
  exact (runPasses_portRests _ h).allow

theorem takeKind_allow {kind i : Nat} {rest : List Nat} {s : State} {body : List Byte → Work → Answered}
    (hoffers : s.offersKind kind i rest) {v : Work} (hv : (body (slotParams s.mem i) (Work.begin s)).work = v) :
    (takeKind kind body s).allow = (passes v).st.allow := by
  subst hv
  rw [takeKind_eq kind body s i rest hoffers]
  exact finish_allow _ _

end Sys2Proof.Machine
end


section
/-! SET ALLOWANCE (R145) and NEW PERIOD (R146): both write the meter, restage it, and owe a pass where its stage, or at
EXHAUSTED the hard cap, changes. -/

namespace Sys2Proof.Machine

/-! ## The meter written and restaged -/

theorem passes_allow {w : Work} (h : (w.passDue = false ∧ w.demandDue = false) ∨ w.st.noneToModem) :
    (passes w).st.allow = w.st.allow := by
  rcases h with ⟨hpass, hdemand⟩ | hnone
  · rw [passes_idle w hpass hdemand]
  · exact (runPasses_portRests _ hnone).allow

theorem liveNow_eq (a : Allowance) : a.liveNow = decide (a.kib ≠ 0 ∧ a.bx ≤ a.used) := (Bool.decide_and _ _).symm

/-- The state with this allowance, restaged: the record, and what stays. -/
theorem restage_begin (s : State) (a : Allowance) :
    ({ s with allow := a.restaged } : State).OnlyEv (restage (Work.begin { s with allow := a })).st :=
  restage_onlyEv (Work.begin { s with allow := a })

theorem restage_begin_noneToModem {s : State} (a : Allowance) (h : s.portReady .radio = false) :
    (restage (Work.begin { s with allow := a })).st.noneToModem :=
  (restage_begin s a).portRests.noneToModem (s := { s with allow := a.restaged }) (Or.inr h)

theorem restage_begin_allow (s : State) (a : Allowance) :
    (restage (Work.begin { s with allow := a })).st.allow = a.restaged := by
  obtain ⟨e, -, he⟩ := restage_begin s a
  rw [he]

/-! ## SET ALLOWANCE -/

/-- The work of SET ALLOWANCE, for the allowance that it writes. -/
def allowanceWork (a : Allowance) (s : State) : Work :=
  (capSees s.allow.hardCap (restage (Work.begin { s with allow := a }))).touch .allowance

theorem orderSetAllowance_work {ps : List Byte} {cap : Bool} {s : State} (hcap : param ps 6 1 = cap.toNat)
    (hcr : clamp 50 98 (param ps 4 1) < clamp 51 99 (param ps 5 1)) :
    orderSetAllowance ps (Work.begin s) =
      { work := allowanceWork (s.allow.configuredBy ps cap) s,
        result := if clamp 50 98 (param ps 4 1) = param ps 4 1 ∧ clamp 51 99 (param ps 5 1) = param ps 5 1
          ∧ min (param ps 7 1) 64 = param ps 7 1 then .ok else .clamped,
        answer := allowanceAnswer } := by
  have hresult := okOrClamped_eq (b := decide (clamp 50 98 (param ps 4 1) ≠ param ps 4 1)
      || decide (clamp 51 99 (param ps 5 1) ≠ param ps 5 1) || decide (min (param ps 7 1) 64 ≠ param ps 7 1))
    (p := clamp 50 98 (param ps 4 1) = param ps 4 1 ∧ clamp 51 99 (param ps 5 1) = param ps 5 1
      ∧ min (param ps 7 1) 64 = param ps 7 1) (by
    simp only [Bool.or_eq_true, decide_eq_true_iff, not_and_or, or_assoc, ne_eq])
  unfold orderSetAllowance
  rw [hcap, flagOf_toNat, ← hresult]
  exact if_neg (Nat.not_le.mpr hcr)

theorem allowanceWork_st (a : Allowance) (s : State) :
    (allowanceWork a s).st = (restage (Work.begin { s with allow := a })).st := by
  unfold allowanceWork
  rw [touch_st, capSees_st]

section
variable {a : Allowance} {s : State} (hstage : a.stage = s.allow.stage)
include hstage

theorem allowanceWork_due (h : a.stageNow ≠ s.allow.stage ∨ (a.hardCap ≠ s.allow.hardCap ∧ a.stageNow = .exhausted)) :
    (allowanceWork a s).passDue = true := by
  have hrestage : (restage (Work.begin { s with allow := a })).passDue = true →
      (capSees s.allow.hardCap (restage (Work.begin { s with allow := a }))).passDue = true := by
    intro hdue
    unfold capSees
    split
    · rfl
    · exact hdue
  by_cases hnow : a.stageNow = s.allow.stage
  · obtain ⟨hcap, hout⟩ := h.resolve_left (not_not.mpr hnow)
    have hallow := restage_begin_allow s a
    have hsees : capSees s.allow.hardCap (restage (Work.begin { s with allow := a }))
        = (restage (Work.begin { s with allow := a })).owePass := by
      refine if_pos ?_
      rw [hallow]
      exact ⟨hcap, hout⟩
    unfold allowanceWork
    rw [hsees]
    rfl
  · exact hrestage (restage_due (w := Work.begin { s with allow := a }) (hstage.symm ▸ hnow))

theorem allowanceWork_idle
    (h : ¬(a.stageNow ≠ s.allow.stage ∨ (a.hardCap ≠ s.allow.hardCap ∧ a.stageNow = .exhausted))) :
    (allowanceWork a s).passDue = false ∧ (allowanceWork a s).demandDue = false := by
  obtain ⟨hnow, hcap⟩ := not_or.mp h
  have hallow := restage_begin_allow s a
  have hsees : capSees s.allow.hardCap (restage (Work.begin { s with allow := a }))
      = restage (Work.begin { s with allow := a }) := by
    refine if_neg ?_
    rw [hallow]
    exact hcap
  have howes := restage_owes (w := Work.begin { s with allow := a }) ((not_not.mp hnow).trans hstage.symm)
  unfold allowanceWork
  rw [hsees]
  exact howes

end

theorem allowanceAnswer_eq {t : State} {a : Allowance} (h : t.allow.settings = a.settings) :
    allowanceAnswer t = pack [(4, a.kib), (1, a.conserve), (1, a.reserve), (1, a.hardCap.toNat), (1, a.overhead),
      (1, t.allow.stage.code), (1, t.allow.live.toNat), (1, t.allow.sticky.toNat)] := by
  have hkib : t.allow.kib = a.kib := (congrArg Allowance.kib h :)
  have hconserve : t.allow.conserve = a.conserve := (congrArg Allowance.conserve h :)
  have hreserve : t.allow.reserve = a.reserve := (congrArg Allowance.reserve h :)
  have hcap : t.allow.hardCap = a.hardCap := (congrArg Allowance.hardCap h :)
  have hoverhead : t.allow.overhead = a.overhead := (congrArg Allowance.overhead h :)
  unfold allowanceAnswer
  dsimp only
  rw [hkib, hconserve, hreserve, hcap, hoverhead]

/-! ## NEW PERIOD -/

/-- Sound boundaries are above 0 where there is an allowance: no bytes used is stage NORMAL. -/
theorem stageNow_unused {a : Allowance} (h : a.sound) : { a with used := 0 }.stageNow = .normal := by
  obtain ⟨hc, hcr, -, -, hbc, hbr, hbx, -⟩ := h
  by_cases hkib : a.kib = 0
  · exact if_pos hkib
  · have hpos : ∀ k, 50 ≤ k → 0 < a.kib * 1024 * k / 100 := fun k hk =>
      Nat.div_pos (by
        calc 100 ≤ 1 * 1024 * 50 := by decide
          _ ≤ a.kib * 1024 * k := Nat.mul_le_mul (Nat.mul_le_mul_right _ (Nat.one_le_iff_ne_zero.mpr hkib)) hk) (by decide)
    have hbc0 : ¬a.bc ≤ 0 := Nat.not_le.mpr (hbc ▸ hpos _ hc)
    have hbr0 : ¬a.br ≤ 0 := Nat.not_le.mpr (hbr ▸ hpos _ (Nat.le_trans hc (Nat.le_of_lt hcr)))
    have hbx0 : ¬a.bx ≤ 0 := by omega
    unfold Allowance.stageNow
    dsimp only
    rw [if_neg hkib, if_neg hbx0, if_neg hbr0, if_neg hbc0]

theorem liveNow_unused {a : Allowance} (h : a.sound) : { a with used := 0 }.liveNow = false := by
  obtain ⟨-, -, -, -, -, -, hbx, -⟩ := h
  rw [liveNow_eq]
  refine decide_eq_false ?_
  rintro ⟨hkib, hover⟩
  change a.kib ≠ 0 at hkib
  change a.bx ≤ 0 at hover
  omega

/-- A sound meter with its period ended and restaged. -/
theorem newPeriod_restaged {a : Allowance} (h : a.sound) (now : Time) :
    (a.newPeriod now).restaged.used = 0 ∧ (a.newPeriod now).restaged.stage = .normal
    ∧ (a.newPeriod now).restaged.peak = .normal ∧ (a.newPeriod now).restaged.live = false
    ∧ (a.newPeriod now).restaged.sticky = false := by
  have hstage : (a.newPeriod now).stageNow = .normal := stageNow_unused h
  have hlive : (a.newPeriod now).liveNow = false := liveNow_unused h
  refine ⟨rfl, hstage, ?_, hlive, ?_⟩
  · show (if (a.newPeriod now).peak.rank < (a.newPeriod now).stageNow.rank then (a.newPeriod now).stageNow else _) = _
    rw [hstage]
    rfl
  · show ((a.newPeriod now).sticky || ((a.newPeriod now).liveNow && !(a.newPeriod now).live)) = false
    rw [hlive]
    rfl

/-- The work of NEW PERIOD. -/
def periodWork (s : State) : Work := (restage (Work.begin { s with allow := s.allow.newPeriod s.now })).touch .allowance

theorem orderNewPeriod_work (ps : List Byte) (s : State) : orderNewPeriod ps (Work.begin s) =
    { work := periodWork s, result := .ok, answer := summaryAnswer } := rfl

/-- Settles O30. -/
theorem allowanceSetAndPeriodsStarted : Obligations.AllowanceSetAndPeriodsStarted := by
  unfold Obligations.AllowanceSetAndPeriodsStarted
  refine ⟨?set, ?period⟩
  case set =>
    intro cap i rest s hoffers ps kib c r extra result after overrun sticky peak passes hcap hcr
    have hbody := orderSetAllowance_work (s := s) hcap hcr
    have hafter : s.allow.configuredBy ps cap = after := rfl
    rw [hafter] at hbody
    have honly := restage_begin s after
    have hst := allowanceWork_st after s
    have hdue := allowanceWork_due (a := after) (s := s) rfl
    have hidle := allowanceWork_idle (a := after) (s := s) rfl
    have hready := restage_begin_noneToModem (s := s) after
    have hlatch := restage_latched (w := Work.begin { s with allow := after })
    have hover := restage_overrun (w := Work.begin { s with allow := after })
    rw [← hst] at honly hready hlatch hover
    generalize allowanceWork after s = v at hbody honly hdue hidle hready hlatch hover
    have hmem : v.st.mem = s.mem := (congrArg State.mem honly.kept :)
    have hallow := takeKind_allow (kind := Kind.setAllowance) (body := orderSetAllowance) (v := v) hoffers (by rw [hbody])
    have htaken := takeKind_kept Kind.setAllowance orderSetAllowance s i rest hoffers (by rw [hbody]; exact hmem)
    have hfields : v.st.allow = after.restaged ∧ v.st.hold = s.hold := by
      obtain ⟨e, -, he⟩ := honly
      rw [he]
      exact ⟨rfl, rfl⟩
    obtain ⟨hv, hhold⟩ := hfields
    have hlive : after.liveNow = decide overrun := liveNow_eq after
    have hrestaged : after.restaged = { after with
        stage := after.stageNow, peak := peak, live := decide overrun, sticky := sticky } := by
      unfold sticky
      rw [← hlive]
      rfl
    have hends : ∀ {Q : Allowance → Prop}, (∀ a n, Q a → Q (Allowance.added n a)) → Q after.restaged →
        Q (takeKind Kind.setAllowance orderSetAllowance s).allow := fun hQ h =>
      takeKind_closed (reported_allow _) (closed_allow hQ) trivial trivial (fun _ _ _ h => h) hoffers
        (by rw [hbody]; exact hv.symm ▸ h)
    have hset : (takeKind Kind.setAllowance orderSetAllowance s).allow.settings = after.settings :=
      (congrArg State.allow htaken :).trans (by rw [hbody]; exact (congrArg Allowance.settings hv :))
    refine ⟨_, rfl, ?kept, ?stage, ?live, ?used, ?change, ?still, ?sticky, ?peak, ?overrun, ?steered⟩
    case kept =>
      have hans := allowanceAnswer_eq (t := Machine.passes v |>.st) (a := after) (hallow ▸ hset)
      rw [hbody] at htaken
      dsimp only at htaken
      rw [hans, ← hallow] at htaken
      refine htaken.trans (answered_kept (honly.kept.trans ?_) i rest _ _)
      rfl
    case stage => exact (hends (Q := Allowance.agrees) added_agrees ⟨rfl, rfl⟩).1
    case live => exact (hends (Q := Allowance.agrees) added_agrees ⟨rfl, rfl⟩).2
    case used =>
      intro hstage hcap
      rw [hallow, passes_allow (Or.inl (hidle ?_)), hv]
      · rfl
      · rintro (h | ⟨h, hout⟩)
        · exact h hstage
        · exact hcap.elim h fun hne => hne (hstage ▸ hout)
    case change =>
      intro hstage
      exact getLsbD_of_latched (takeKind_latched hoffers (by rw [hbody]; exact hlatch hstage)) (by decide)
    case still =>
      intro hstill
      rw [hallow, passes_allow (hstill.imp hidle hready), hv, hrestaged]
    case sticky =>
      intro h
      exact hends (Q := fun a => a.sticky = true) added_sticky (hrestaged ▸ h)
    case peak =>
      exact hends (Q := fun a => peak.rank ≤ a.peak.rank) (added_peak _) (by rw [hrestaged])
    case overrun =>
      intro h hwas
      exact getLsbD_of_latched (takeKind_latched hoffers (by
        rw [hbody]
        exact hover (hlive.trans (decide_eq_true h)) hwas)) (by decide)
    case steered =>
      intro h
      refine takeKind_steered hoffers (by rw [hbody]; exact hdue h) fun hfree => ?_
      rw [hbody]
      exact (congrArg Hold.active hhold).trans hfree
  case period =>
    intro i rest s hoffers m
    have hbody := orderNewPeriod_work (slotParams s.mem i) s
    have honly := restage_begin s (s.allow.newPeriod s.now)
    have hready := restage_begin_noneToModem (s := s) (s.allow.newPeriod s.now)
    have hidle := restage_owes (w := Work.begin { s with allow := s.allow.newPeriod s.now })
    have hlatch := restage_latched (w := Work.begin { s with allow := s.allow.newPeriod s.now })
    have hv : periodWork s = (restage (Work.begin { s with allow := s.allow.newPeriod s.now })).touch .allowance := rfl
    rw [hv] at hbody
    generalize restage (Work.begin { s with allow := s.allow.newPeriod s.now }) = v at hbody honly hready hidle hlatch
    have hmem : v.st.mem = s.mem := (congrArg State.mem honly.kept :)
    have hstate : v.st.allow = (s.allow.newPeriod s.now).restaged := by
      obtain ⟨e, -, he⟩ := honly
      rw [he]
    have hallow := takeKind_allow (kind := Kind.newPeriod) (body := orderNewPeriod) (v := v.touch .allowance) hoffers (by rw [hbody])
    have htaken := takeKind_kept Kind.newPeriod orderNewPeriod s i rest hoffers (by rw [hbody]; exact hmem)
    refine ⟨_, rfl, ?kept, ?zero, ?change⟩
    case kept =>
      have hkept : (passes (v.touch .allowance)).st.kept
          = ({ s with allow := { s.allow with summary := m, start := s.now, warmResets := 0 } } : State).kept :=
        (passes_kept _).trans honly.kept
      have hsummary : (passes (v.touch .allowance)).st.allow.summary = m :=
        (congrArg (fun u : State => u.allow.summary) hkept :)
      have hans : summaryAnswer (passes (v.touch .allowance)).st = pack [(8, m.used), (1, m.peak.code),
          (1, m.sticky.toNat), (4, m.start.toNat), (4, m.stop.toNat), (1, m.warmResets)] := by
        unfold summaryAnswer
        rw [hsummary]
      rw [hbody] at htaken
      dsimp only at htaken
      rw [hans] at htaken
      exact htaken.trans (answered_kept (honly.kept.trans rfl) i rest _ _)
    case zero =>
      intro hsound hquiet
      obtain ⟨hused, hstage, hpeak, hlive, hsticky⟩ := newPeriod_restaged hsound s.now
      rw [hallow, passes_allow (w := v.touch .allowance) (hquiet.imp (fun h => ?_) hready), touch_st, hstate]
      · exact ⟨hused, hstage, hpeak, hlive, hsticky⟩
      · exact hidle (hstage.trans h.symm)
    case change =>
      intro hsound hne
      obtain ⟨-, hstage, -⟩ := newPeriod_restaged hsound s.now
      exact getLsbD_of_latched (takeKind_latched hoffers (by
        rw [hbody]
        exact hlatch fun h => hne (h.symm.trans hstage))) (by decide)

end Sys2Proof.Machine
end


section
/-! An addition of counted bytes: where it leaves the stage, used bytes rise alone; where it changes the stage, the pass
runs (R136 to R142). The handoff of a frame at a port, and TRANSMIT_HANDOFF (R123). -/

namespace Sys2Proof.Machine

/-! ## An addition that leaves the stage -/

theorem stageNow_exhausted (a : Allowance) : a.stageNow = .exhausted ↔ a.liveNow = true := by
  rw [liveNow_eq, decide_eq_true_iff]
  unfold Allowance.stageNow
  by_cases hkib : a.kib = 0
  · simp [hkib]
  · by_cases hover : a.bx ≤ a.used
    · simp [hkib, hover]
    · simp only [hkib, hover, if_false, and_false, iff_false]
      split
      · nofun
      · split <;> nofun

/-- Of a sound meter, more bytes in the same stage change nothing else. -/
theorem added_same {a : Allowance} {n : Nat} (h : a.sound)
    (hstage : { a with used := min (a.used + n) max64 }.stageNow = a.stage) :
    a.added n = { a with used := min (a.used + n) max64 } := by
  obtain ⟨-, -, -, -, -, -, -, -, hnow, hlive, hpeak, -⟩ := h
  have hsame : (Allowance.liveNow { a with used := min (a.used + n) max64 } = true) ↔ a.live = true :=
    calc _ ↔ Allowance.stageNow { a with used := min (a.used + n) max64 } = .exhausted := (stageNow_exhausted _).symm
      _ ↔ a.stageNow = .exhausted := by rw [hstage, ← hnow]
      _ ↔ a.live = true := by rw [stageNow_exhausted, ← hlive]
  have hlive' : Allowance.liveNow { a with used := min (a.used + n) max64 } = a.live := Bool.eq_iff_iff.mpr hsame
  unfold Allowance.added Allowance.restaged
  rw [hstage, hlive']
  dsimp only
  rw [if_neg (Nat.not_lt.mpr hpeak), Bool.and_not_self, Bool.or_false]

theorem handConditions_true {w : Work} (h : w.st.condTrue) : handConditions w = w := by
  unfold handConditions
  dsimp only
  rw [if_pos h.symm]

/-- A meter that is restaged already, under its conditions. -/
theorem restage_same {w : Work} (hcond : w.st.condTrue) (h : w.st.allow.restaged = w.st.allow) : restage w = w := by
  have hstage : w.st.allow.stageNow = w.st.allow.stage := (congrArg Allowance.stage h :)
  have hlive : w.st.allow.liveNow = w.st.allow.live := (congrArg Allowance.live h :)
  have hon : w.onAllow Allowance.restaged = w := by
    unfold Work.onAllow
    rw [h]
  unfold restage
  dsimp only
  rw [hlive, Bool.and_not_self, if_pos hstage, hon]
  exact handConditions_true hcond

theorem facts_used (s : State) (k : Nat) : ({ s with allow := { s.allow with used := k } } : State).facts = s.facts := by
  unfold State.facts State.factList State.fibreUsable State.radioUsable
  rfl

/-- An addition that leaves the stage raises used bytes and does nothing else. -/
theorem addUsed_same {w : Work} {n : Nat} (hcond : w.st.condTrue) (h : w.st.allow.sound)
    (hstage : Allowance.stageNow { w.st.allow with used := min (w.st.allow.used + n) max64 } = w.st.allow.stage) :
    addUsed n w = w.onAllow fun a => { a with used := min (a.used + n) max64 } :=
  restage_same (w := w.onAllow fun a => { a with used := min (a.used + n) max64 })
    (hcond.trans (facts_used w.st _).symm) (added_same h hstage)

/-! ## Events that change no state or pinned flag of a flow -/

theorem countFlowChanges_of_course {l l' : List FlowRec} (h : l'.map FlowRec.course = l.map FlowRec.course) :
    countFlowChanges l l' = 0 := by
  induction l generalizing l' with
  | nil => cases l' <;> rfl
  | cons o os ih =>
    cases l' with
    | nil => rfl
    | cons n ns =>
      obtain ⟨hhead, htail⟩ := List.cons.inj h
      have hstate : n.state = o.state := (congrArg Prod.fst hhead :)
      have hpinned : n.pinned = o.pinned := (congrArg Prod.snd hhead :)
      have hsame : flowChanged o n = false := by
        unfold flowChanged
        rw [hstate, hpinned]
        simp
      show (flowChanged o n).toNat + countFlowChanges os ns = 0
      rw [ih htail, hsame]
      rfl

theorem facts_of_course {s : State} {fs : List FlowRec} (h : fs.map FlowRec.course = s.flows.map FlowRec.course) :
    ({ s with flows := fs } : State).facts = s.facts := by
  have hany : ∀ p : FlowState, fs.any (fun f => decide (f.state = p)) = s.flows.any fun f => decide (f.state = p) :=
    fun p => any_content FlowRec.course (fun c => decide (c.1 = p)) _ (fun _ => rfl) _ _ h
  unfold State.facts State.factList State.fibreUsable State.radioUsable
  dsimp only
  rw [hany, hany]

/-- An event that owes no pass and moves no flow, under its conditions, leaves what its own changes made. -/
theorem event_settled (f : Work → Work) (s : State) {v : Work} (hs : s.exch.service ≠ .init) (hv : f (Work.begin s) = v)
    (hpass : v.passDue = false) (hdemand : v.demandDue = false)
    (hflows : v.st.flows.map FlowRec.course = s.flows.map FlowRec.course)
    (hcond : v.st.condTrue) (hirq : v.st.irqTrue) : (event f s).plain = v.st.plain := by
  subst hv
  rw [event_plain f s hs hpass hdemand (countFlowChanges_of_course hflows), handed_of_cond _ hcond,
    refreshIrq_of_true _ hirq]

/-! ## An addition that changes the stage -/

/-- What an addition that changes the stage makes of a state, with the passes that follow it. -/
structure State.MeterGoes (s : State) (n : Nat) (t : State) : Prop where
  kept : t.kept = s.kept
  rests : s.noneToModem → ({ s with allow := s.allow.added n } : State).PortRests t
  used : min (s.allow.used + n) max64 ≤ t.allow.used
  sound : t.allow.sound
  changes : latched (bitMask 5) t
  overrun : Allowance.liveNow { s.allow with used := min (s.allow.used + n) max64 } = true → s.allow.live = false →
    latched (bitMask 6) t
  link : s.LinkGoes t
  steered : t.steeredOn (s.hold.active = false)

theorem used_portReady (s : State) (a : Allowance) : ({ s with allow := a } : State).noneToModem = s.noneToModem := rfl

theorem addUsed_onlyEv (n : Nat) (w : Work) : ({ w.st with allow := w.st.allow.added n } : State).OnlyEv (addUsed n w).st :=
  restage_onlyEv (w.onAllow fun a => { a with used := min (a.used + n) max64 })

theorem passes_addUsed_meterGoes {n : Nat} {w : Work} (h : w.st.allow.sound)
    (hstage : Allowance.stageNow { w.st.allow with used := min (w.st.allow.used + n) max64 } ≠ w.st.allow.stage) :
    w.st.MeterGoes n (passes (addUsed n w)).st := by
  have honly := addUsed_onlyEv n w
  have hlink := (linkless_linkGoes w.st).addUsed n w (State.LinkGoes.refl _)
  have hdue : (addUsed n w).passDue = true :=
    restage_due (w := w.onAllow fun a => { a with used := min (a.used + n) max64 }) hstage
  have hchange : latched (bitMask 5) (addUsed n w).st :=
    restage_latched (w := w.onAllow fun a => { a with used := min (a.used + n) max64 }) hstage
  have hover : Allowance.liveNow { w.st.allow with used := min (w.st.allow.used + n) max64 } = true →
      w.st.allow.live = false → latched (bitMask 6) (addUsed n w).st :=
    restage_overrun (w := w.onAllow fun a => { a with used := min (a.used + n) max64 })
  have hfields : (addUsed n w).st.allow = w.st.allow.added n ∧ (addUsed n w).st.hold = w.st.hold := by
    obtain ⟨e, -, he⟩ := honly
    rw [he]
    exact ⟨rfl, rfl⟩
  generalize addUsed n w = v at honly hlink hdue hchange hover hfields
  obtain ⟨hallow, hhold⟩ := hfields
  exact {
    kept := (passes_kept v).trans (honly.kept.trans rfl)
    rests := fun hnone => honly.portRests.trans (runPasses_portRests _ (honly.portRests.noneToModem hnone))
    used := (closed_allow (Q := fun a => min (w.st.allow.used + n) max64 ≤ a.used)
      (added_used _ (Nat.min_le_right _ _))).passes trivial trivial v (by rw [hallow]; exact Nat.le_refl _)
    sound := (closed_allow (Q := Allowance.sound) fun a k => added_sound k a).passes trivial trivial v
      (by rw [hallow]; exact added_sound n _ h)
    changes := passes_latched hchange
    overrun := fun hnow hwas => passes_latched (hover hnow hwas)
    link := hlink.trans (passes_linkGoes v)
    steered := passes_steeredOn hdue fun hi => (congrArg Hold.active hhold).trans hi }

theorem finish_portRests (s0 : State) (w : Work) : w.st.PortRests (finish s0 w) := by
  have hbytes := congrArg (List.map FlowRec.bytes) (finish_flows s0 w)
  simp only [List.map_map] at hbytes
  exact ⟨finish_allow s0 w, by rw [finish_fwd], by rw [finish_ru]; exact id, by rw [finish_fwd]; exact id, hbytes⟩

/-- The end of the event, and passes before it, keep what the addition made. -/
theorem State.MeterGoes.finish {s : State} {n : Nat} {w : Work} (h : s.MeterGoes n w.st) (s0 : State) :
    s.MeterGoes n (Machine.finish s0 w) where
  kept := (finish_kept s0 w).trans h.kept
  rests := fun hnone => (h.rests hnone).trans (finish_portRests s0 w)
  used := by rw [finish_allow]; exact h.used
  sound := by rw [finish_allow]; exact h.sound
  changes := finish_latched s0 h.changes
  overrun := fun hnow hwas => finish_latched s0 (h.overrun hnow hwas)
  link := h.link.trans (finish_linkGoes s0 w)
  steered := (reported_steeredOn _).finish (closed_steeredOn _) s0 w h.steered

theorem noneToModem_of {s : State} (h : s.fwd.held = [] ∨ s.fwd.radioQ.sending ≠ none) : s.noneToModem := by
  refine h.imp_right fun hs => ?_
  obtain ⟨d, hd⟩ := Option.ne_none_iff_exists'.mp hs
  unfold State.portReady
  dsimp only
  rw [hd]
  exact Bool.and_false _

theorem added_eq {a : Allowance} (h : a.sound) (n : Nat) : a.added n = { a with
    used := min (a.used + n) max64,
    stage := Allowance.stageNow { a with used := min (a.used + n) max64 },
    peak := if a.peak.rank < (Allowance.stageNow { a with used := min (a.used + n) max64 }).rank then
      Allowance.stageNow { a with used := min (a.used + n) max64 } else a.peak,
    live := decide (a.kib ≠ 0 ∧ a.bx ≤ min (a.used + n) max64),
    sticky := a.sticky || decide (a.kib ≠ 0 ∧ a.bx ≤ min (a.used + n) max64) } := by
  obtain ⟨-, -, -, -, -, -, -, -, -, -, -, hsticky⟩ := h
  have hlive := liveNow_eq { a with used := min (a.used + n) max64 }
  dsimp only at hlive
  unfold Allowance.added Allowance.restaged
  rw [← hlive]
  dsimp only
  cases hwas : a.live with
  | false => rw [Bool.not_false, Bool.and_true]
  | true =>
    rw [hsticky hwas]
    rfl

/-- In the obligations' words; the flows may differ in what passes do not keep. -/
theorem State.MeterGoes.restages {s : State} {fs : List FlowRec} {n : Nat} {t : State}
    (h : ({ s with flows := fs } : State).MeterGoes n t) (hsound : s.allow.sound) (hfs : fs.map FlowRec.identity = s.flows.map FlowRec.identity) :
    s.restages n t := by
  have hkept : ({ s with flows := fs } : State).kept = s.kept := by
    unfold State.kept
    dsimp only
    rw [hfs]
  have hlive := liveNow_eq { s.allow with used := min (s.allow.used + n) max64 }
  refine ⟨h.kept.trans hkept, fun hnone => ?_, h.used, h.sound, getLsbD_of_latched h.changes (by decide),
    fun hover hwas => getLsbD_of_latched (h.overrun (hlive.trans (decide_eq_true hover)) hwas) (by decide),
    h.link.lost, h.link.stays, h.steered.1⟩
  exact (h.rests (noneToModem_of hnone)).allow.trans (added_eq hsound n)

/-! ## The handoff (R114, R123) -/

/-- The flows after a radio handoff of this counted length. -/
def State.countedFlows (s : State) (flow : Option Nat) (n : Nat) : List FlowRec :=
  match flow with
  | none => s.flows
  | some i => s.flows.set i ((s.flow i).addBytes n)

theorem countFlow_eq (flow : Option Nat) (n : Nat) (w : Work) :
    countFlow flow n w = w.onFlows fun _ => w.st.countedFlows flow n := by
  cases flow <;> rfl

theorem addBytes_same (n : Nat) (f : FlowRec) : (f.addBytes n).identity = f.identity ∧ (f.addBytes n).course = f.course := by
  unfold FlowRec.addBytes
  split <;> exact ⟨rfl, rfl⟩

/-- The state that sends a frame, and leaves `rest` to its queue. -/
def State.sending (s : State) (p : Path) (data : List Byte) (rest : TxQueue) : State :=
  { s with fwd := s.fwd.setQueue p { rest with sending := some data } }

theorem countedFlows_same (s : State) (flow : Option Nat) (n : Nat) :
    (s.countedFlows flow n).map FlowRec.identity = s.flows.map FlowRec.identity
    ∧ (s.countedFlows flow n).map FlowRec.course = s.flows.map FlowRec.course := by
  cases flow with
  | none => exact ⟨rfl, rfl⟩
  | some i => exact ⟨map_set_getD _ _ _ (fun f => (addBytes_same n f).1) _ _,
      map_set_getD _ _ _ (fun f => (addBytes_same n f).2) _ _⟩

theorem countedFlows_bytes (s : State) {flow : Option Nat} {n i : Nat} (hi : i < s.flows.length) (hflow : flow = some i) :
    ((s.countedFlows flow n).map FlowRec.bytes).getD i 0 = min ((s.flow i).bytes + n) max32 := by
  subst hflow
  have hset : (s.countedFlows (some i) n).getD i (FlowRec.freed 0) = (s.flow i).addBytes n := by
    unfold State.countedFlows
    simp [hi]
  have hbytes : ((s.flow i).addBytes n).bytes = min ((s.flow i).bytes + n) max32 := by
    unfold FlowRec.addBytes
    split
    · next h => exact (Nat.min_eq_right (Nat.le_of_lt h)).symm
    · next h => exact (Nat.min_eq_left (Nat.le_of_not_lt h)).symm
  rw [show (0 : Nat) = (FlowRec.freed 0).bytes from rfl, List.getD_map, hset, hbytes]

/-- The work of a radio handoff before its length is added to used bytes. -/
def Work.handedOn (f : TxFrame) (rest : TxQueue) (w : Work) : Work :=
  { w with st := { w.st.sending .radio f.data rest with flows := w.st.countedFlows f.flow (w.st.counted f.data) } }

theorem handoff_radio (f : TxFrame) (rest : TxQueue) (w : Work) :
    handoff .radio f rest w = addUsed (w.st.counted f.data) (w.handedOn f rest) := by
  unfold handoff
  dsimp only
  rw [countFlow_eq]
  rfl

theorem handedOn_cond {f : TxFrame} {rest : TxQueue} {w : Work} (h : w.st.condTrue) : (w.handedOn f rest).st.condTrue :=
  h.trans (facts_of_course (s := w.st.sending .radio f.data rest)
    (countedFlows_same w.st f.flow (w.st.counted f.data)).2).symm

/-- The handoff of a frame, as an event's own changes. -/
theorem event_handsOff {g : Work → Work} {s0 : State} {w : Work} {p : Path} {f : TxFrame} {rest : TxQueue}
    (hs : s0.exch.service ≠ .init) (hg : g (Work.begin s0) = handoff p f rest w) (hpass : w.passDue = false)
    (hdemand : w.demandDue = false) (hcond : w.st.condTrue) (hirq : w.st.irqTrue)
    (hflows : w.st.flows.map FlowRec.course = s0.flows.map FlowRec.course) (hsound : p = .radio → w.st.allow.sound) :
    w.st.handsOff p f rest (event g s0) := by
  obtain ⟨hidentity, hcourse⟩ := countedFlows_same w.st f.flow (w.st.counted f.data)
  refine ⟨fun hp => ?fibre, fun hp hstage => ?same, fun hp hstage => ?other⟩
  case fibre =>
    subst hp
    exact event_settled g s0 (v := w.onQueue .fibre fun _ => { rest with sending := some f.data }) hs hg hpass hdemand hflows
      hcond hirq
  case same =>
    subst hp
    have hadds := addUsed_same (n := w.st.counted f.data) (handedOn_cond (f := f) (rest := rest) hcond) (hsound rfl) hstage
    rw [← handoff_radio, ← hg] at hadds
    refine (event_settled g s0 hs hadds hpass hdemand (hcourse.trans hflows)
      ((handedOn_cond hcond).trans (facts_used (w.handedOn f rest).st _).symm) hirq).trans ?_
    obtain ⟨data, flow⟩ := f
    cases flow <;> rfl
  case other =>
    subst hp
    have hgoes := passes_addUsed_meterGoes (n := w.st.counted f.data) (w := w.handedOn f rest) (hsound rfl) hstage
    have hend : event g s0 = finish s0 (passes (addUsed (w.st.counted f.data) (w.handedOn f rest))) := by
      rw [← handoff_radio, ← hg]
      exact if_neg hs
    rw [hend]
    have hgoes := hgoes.finish s0
    generalize finish s0 _ = t at hgoes
    have hrests := hgoes.rests (Or.inr (Bool.and_false _))
    refine ⟨hgoes.restages (s := w.st.sending .radio f.data rest) (hsound rfl) hidentity, hrests.sending, fun i hi hflow => ?_⟩
    calc (t.flow i).bytes = (t.flows.map FlowRec.bytes).getD i (FlowRec.freed 0).bytes := (List.getD_map ..).symm
      _ = min ((w.st.flow i).bytes + _) max32 := by rw [hrests.bytes]; exact countedFlows_bytes w.st hi hflow

/-! ## TRANSMIT_HANDOFF -/

/-- The frame that a queue gives, as the model takes it. -/
theorem next_of_gives {q : TxQueue} {f : TxFrame} {rest : TxQueue} (h : q.gives f rest) : q.next = some (f, rest) := by
  unfold TxQueue.next
  rcases h with ⟨fs, hprobes, rfl⟩ | ⟨fs, hprobes, hurgent, rfl⟩ | ⟨fs, hprobes, hurgent, hnormal, rfl⟩
  · rw [hprobes]
  · rw [hprobes, hurgent]
  · rw [hprobes, hurgent, hnormal]

theorem takeNext_gives {p : Path} {w : Work} {f : TxFrame} {rest : TxQueue} (hready : w.st.portReady p = true)
    (h : (w.st.fwd.queue p).gives f rest) : takeNext p w = handoff p f rest w := by
  unfold takeNext
  rw [if_pos hready, next_of_gives h]

theorem takeNext_empty {p : Path} {w : Work} (h : (w.st.fwd.queue p).next = none) : takeNext p w = w := by
  unfold takeNext
  rw [h]
  split <;> rfl

theorem takeNext_unready {p : Path} {w : Work} (h : w.st.portReady p = false) : takeNext p w = w := by
  unfold takeNext
  rw [h]
  rfl

/-- Settles O51. -/
theorem portsTakeTheNextFrame : Obligations.PortsTakeTheNextFrame := by
  unfold Obligations.PortsTakeTheNextFrame
  intro p s hcur q isOpen idle
  obtain ⟨hinit, hcond, hirq⟩ := hcur
  let v : Work := (Work.begin s).onQueue p fun q => { q with sending := none }
  have hfree : portFree p (Work.begin s) = takeNext p v := rfl
  have hqueue : v.st.fwd.queue p = idle := by cases p <;> rfl
  have hvcond : v.st.condTrue := hcond
  have hready : v.st.portReady p = true ↔ isOpen := by
    cases p with
    | fibre => exact Bool.and_eq_true_iff.trans (and_iff_left rfl)
    | radio => exact Bool.and_eq_true_iff.trans ((and_iff_left rfl).trans decide_eq_true_iff)
  refine ⟨fun hnone => ⟨_, rfl, ?_⟩, fun f rest hopen hgives => ?_⟩
  · have hstill : takeNext p v = v := by
      rcases hnone with hclosed | ⟨hprobes, hurgent, hnormal⟩
      · exact takeNext_unready (Bool.eq_false_iff.mpr fun h => hclosed (hready.mp h))
      · refine takeNext_empty ?_
        rw [hqueue]
        unfold TxQueue.next
        rw [show idle.probes = [] from hprobes, show idle.urgent = [] from hurgent, show idle.normal = [] from hnormal]
    exact event_settled (portFree p) s hinit (hfree.trans hstill) rfl rfl rfl hvcond hirq
  · have htakes : portFree p (Work.begin s) = handoff p f rest v :=
      takeNext_gives (hready.mpr hopen) (hqueue.symm ▸ hgives)
    have hhands : (p = .radio → s.allow.sound) → v.st.handsOff p f rest (event (portFree p) s) :=
      event_handsOff hinit htakes rfl rfl hvcond hirq rfl
    intro sent n used
    refine ⟨fun hp => ⟨_, rfl, ?_⟩, fun hp hsound hstage => ⟨_, rfl, ?_⟩, fun hp hsound hstage => ⟨_, rfl, ?_⟩⟩
    · subst hp
      exact (hhands nofun).1 rfl
    · subst hp
      exact (hhands fun _ => hsound).2.1 rfl hstage
    · subst hp
      exact (hhands fun _ => hsound).2.2 rfl hstage

end Sys2Proof.Machine
end


section
/-! Outbound frames: accepted or malformed, governed by flow or class, dropped, held, or put into a band (R118 to R123,
R127). -/

namespace Sys2Proof.Machine

/-! ## Events that are their own changes alone -/

/-- Changes of an event outside INIT that owe no pass, move no flow, and leave conditions and IRQ line at their facts. -/
structure Settled (s : State) (v : Work) : Prop where
  service : s.exch.service ≠ .init
  pass : v.passDue = false
  demand : v.demandDue = false
  flows : v.st.flows.map FlowRec.course = s.flows.map FlowRec.course
  cond : v.st.condTrue
  irq : v.st.irqTrue

theorem Settled.plain {s : State} {v : Work} (h : Settled s v) {g : Work → Work} (hg : g (Work.begin s) = v) :
    (event g s).plain = v.st.plain :=
  event_settled g s h.service hg h.pass h.demand h.flows h.cond h.irq

/-- The same, with a fixed event latched. -/
theorem Settled.quiet {s : State} {v : Work} (h : Settled s v) {g : Work → Work} {i : Nat}
    (hg : g (Work.begin s) = latch i v) : (event g s).quiet = v.st.quiet := by
  have hlatched : (latch i v).passDue = false ∧ (latch i v).demandDue = false := ⟨h.pass, h.demand⟩
  have hquiet : (latch i v).st.quiet = v.st.quiet := rfl
  have hflows : (latch i v).st.flows.map FlowRec.course = s.flows.map FlowRec.course := h.flows
  rw [← hg] at hlatched hquiet hflows
  rw [quiet_of_plain (event_plain g s h.service hlatched.1 hlatched.2 (countFlowChanges_of_course hflows)), handed_quiet,
    hquiet]

theorem settled_begin {s : State} (h : s.current) : Settled s (Work.begin s) := ⟨h.1, rfl, rfl, rfl, h.2.1, h.2.2⟩

/-- The forwarding unit enters no fact. -/
theorem Settled.onFwd {s : State} {v : Work} (h : Settled s v) (g : Forwarding → Forwarding) : Settled s (v.onFwd g) :=
  ⟨h.service, h.pass, h.demand, h.flows, h.cond, h.irq⟩

theorem Settled.onFlow {s : State} {v : Work} (h : Settled s v) (i : Nat) {g : FlowRec → FlowRec}
    (hg : ∀ f, (g f).course = f.course) : Settled s (v.onFlow i g) := by
  have hcourse : (v.onFlow i g).st.flows.map FlowRec.course = v.st.flows.map FlowRec.course :=
    map_set_getD _ _ _ hg _ _
  exact ⟨h.service, h.pass, h.demand, hcourse.trans h.flows, h.cond.trans (facts_of_course hcourse).symm, h.irq⟩

theorem facts_of_cur {s : State} {cs : List ClassRec} (h : cs.map ClassRec.cur = s.classes.map ClassRec.cur) :
    ({ s with classes := cs } : State).facts = s.facts := by
  have hany : ∀ p : ClassPath, cs.any (fun c => decide (c.cur = p)) = s.classes.any fun c => decide (c.cur = p) :=
    fun p => any_content ClassRec.cur (fun c => decide (c = p)) _ (fun _ => rfl) _ _ h
  unfold State.facts State.factList State.fibreUsable State.radioUsable
  dsimp only
  rw [hany, hany]

theorem Settled.onClass {s : State} {v : Work} (h : Settled s v) (i : Nat) {g : ClassRec → ClassRec}
    (hg : ∀ c, (g c).cur = c.cur) : Settled s (v.onClass i g) :=
  ⟨h.service, h.pass, h.demand, h.flows, h.cond.trans (facts_of_cur (map_set_getD _ _ _ hg _ _)).symm, h.irq⟩

/-! ## Bands -/

theorem enterBand_room {p : Path} {tier : Nat} {w : Work} (h : ((w.st.fwd.queue p).band tier).length < 32) (f : TxFrame) :
    enterBand p tier f w = takeNext p (w.onQueue p (TxQueue.append tier f)) := by
  unfold enterBand
  exact if_neg (by
    unfold State.bandFull
    rw [decide_eq_true_iff]
    exact Nat.not_le.mpr h)

theorem enterBand_full {p : Path} {tier : Nat} {w : Work} (h : 32 ≤ ((w.st.fwd.queue p).band tier).length) (f : TxFrame) :
    enterBand p tier f w = w.onCounts (ForwardCounts.queueDrop p) := by
  unfold enterBand
  exact if_pos (decide_eq_true h)

/-! ## Frames accepted -/

theorem accepted_iff (f : LanFrame) :
    f.accepted = true ↔ 60 ≤ f.data.length ∧ f.data.length ≤ 1518 ∧ f.cls.getD 0 ≤ 7 := by
  unfold LanFrame.accepted frameFits
  rw [Bool.and_eq_true, Bool.and_eq_true, decide_eq_true_iff, decide_eq_true_iff, decide_eq_true_iff, and_assoc]
  exact Iff.rfl

/-- Settles O50. -/
theorem outboundFramesPlaced : Obligations.OutboundFramesPlaced := by
  unfold Obligations.OutboundFramesPlaced
  intro d s hcur f accepted counts named cls path u result
  have hbegin := settled_begin hcur
  have hnamed : named = governing s f := by
    unfold governing
    cases hflow : f.flow <;> simp only [named, hflow]
  clear_value named
  have hsame : u.classes = s.classes ∧ u.fwd.held = s.fwd.held ∧ u.fwd.fibreQ = s.fwd.fibreQ ∧ u.fwd.radioQ = s.fwd.radioQ
      ∧ u.fin = s.fin ∧ u.ru = s.ru ∧ u.allow = s.allow ∧ u.clk = s.clk ∧ { u.fwd.counts with untracked := 0 }
        = { counts with untracked := 0 } := by
    cases named <;> exact ⟨rfl, rfl, rfl, rfl, rfl, rfl, rfl, rfl, rfl⟩
  have htakes : accepted → ∃ v, takeOutbound d (Work.begin s) = placeOutbound path cls named f.data v ∧ Settled s v
      ∧ v.st = u := by
    intro hacc
    have htaken : takeOutbound d (Work.begin s) = acceptFrame f (Work.begin s) := if_pos ((accepted_iff f).mpr hacc)
    have haccept : acceptFrame f (Work.begin s) = match governing s f with
        | some i => placeOutbound (s.flow i).state.asPath (s.flow i).cls (some i) f.data
            ((Work.begin s).onFlow i (FlowRec.sent s.now))
        | none => placeOutbound (s.cls (f.cls.getD s.steer.defaultClass)).cur (f.cls.getD s.steer.defaultClass) none f.data
            ((Work.begin s).onCounts fun c => { c with untracked := c.untracked + 1 }) := rfl
    rw [htaken, haccept]
    rw [← hnamed]
    cases named with
    | none => exact ⟨_, rfl, hbegin.onFwd _, rfl⟩
    | some i =>
      have hpath : path = (s.flow i).state.asPath := by
        unfold path FlowState.asPath
        dsimp only
        cases (s.flow i).state with
        | carried p => cases p <;> rfl
        | free => rfl
        | waiting => rfl
        | blocked => rfl
        | expired => rfl
      rw [hpath]
      exact ⟨_, rfl, hbegin.onFlow i fun _ => rfl, rfl⟩
  clear_value path u cls
  have hwithin : ∀ c : ForwardCounts, { c with untracked := 0 } = { counts with untracked := 0 } →
      c.holdFull = counts.holdFull ∧ c.fibreDrop = counts.fibreDrop ∧ c.radioDrop = counts.radioDrop := fun c h =>
    ⟨(congrArg ForwardCounts.holdFull h :), (congrArg ForwardCounts.fibreDrop h :), (congrArg ForwardCounts.radioDrop h :)⟩
  obtain ⟨hclasses, hheld, hfibreQ, hradioQ, hfin, hru, hallow, hclk, hcounts⟩ := hsame
  obtain ⟨hholdFull, hfibreDrop, hradioDrop⟩ := hwithin _ hcounts
  refine ⟨fun hbad => ⟨_, rfl, ?malformed⟩, fun hacc hpath => ⟨_, rfl, ?nowhere⟩, fun hacc hpath hroom => ⟨_, rfl, ?held⟩,
    fun hacc hpath hfull => ⟨_, rfl, ?dropped⟩, fun p hacc hpath => ?band⟩
  case malformed => exact (hbegin.onFwd _).plain (g := takeOutbound d) (if_neg fun h => hbad ((accepted_iff f).mp h))
  all_goals
    obtain ⟨v, hv, hsettled, hst⟩ := htakes hacc
    subst hst
    rw [hpath] at hv
  case nowhere =>
    have hcls : s.cls cls = v.st.cls cls := by
      unfold State.cls
      rw [hclasses]
    refine ((hsettled.onClass cls (g := fun c => { c with dropped := hold32 (c.dropped + 1) }) fun _ => rfl).plain hv).trans ?_
    rw [hcls, ← hclasses]
    rfl
  case held =>
    have hplaced : holdFrame cls named f.data v = v.onFwd fun g => { g with
        held := g.held ++ [{ data := f.data, cls := cls, flow := named, arrival := v.now }] } :=
      if_neg (Nat.not_le.mpr (hheld.symm ▸ hroom))
    have hnow : v.now = s.now := congrArg Clock.ms hclk
    refine ((hsettled.onFwd _).plain (hv.trans hplaced)).trans ?_
    dsimp only
    rw [hnow, ← hheld]
    rfl
  case dropped =>
    have hplaced : holdFrame cls named f.data v = latch Bit.holdDrops (v.onCounts fun c =>
        { c with holdFull := hold32 (c.holdFull + 1) }) := if_pos (hheld.symm ▸ hfull)
    refine ⟨getLsbD_of_latched (event_latched hsettled.service (m := bitMask 13) ?_) (by decide), ?_⟩
    · rw [hv.trans hplaced]
      exact latch_latched 13 _
    · refine ((hsettled.onFwd _).quiet (hv.trans hplaced)).trans ?_
      dsimp only
      rw [← hholdFull]
      rfl
  case band =>
    intro q frame urgent band longer dropped
    have hv : takeOutbound d (Work.begin s) = enterBand p (s.cls cls).tier frame v := by
      have hcls : s.cls cls = v.st.cls cls := by
        unfold State.cls
        rw [hclasses]
      rw [hcls]
      cases p <;> exact hv
    have hqueue : v.st.fwd.queue p = q := by
      cases p
      · exact hfibreQ
      · exact hradioQ
    have hband : (v.st.fwd.queue p).band (s.cls cls).tier = band := by rw [hqueue]; rfl
    have hlonger : TxQueue.append (s.cls cls).tier frame q = longer := rfl
    clear_value longer
    have hjoined : (v.onQueue p (TxQueue.append (s.cls cls).tier frame)).st
        = { v.st with fwd := v.st.fwd.setQueue p longer } := by
      rw [← hlonger, ← hqueue]
      rfl
    have hready : (v.onQueue p (TxQueue.append (s.cls cls).tier frame)).st.portReady p = s.portReady p := by
      have hsending : longer.sending = q.sending := by
        rw [← hlonger]
        unfold TxQueue.append
        split <;> rfl
      rw [hjoined]
      cases p with
      | fibre =>
        show (v.st.fin.link && longer.sending.isNone) = _
        rw [hfin, hsending] <;> rfl
      | radio =>
        show (decide (v.st.ru.state = .session) && longer.sending.isNone) = _
        rw [hru, hsending] <;> rfl
    refine ⟨fun hroom hbusy => ⟨event (takeOutbound d) s, rfl, ?_⟩,
      fun hroom hopen hsound first left hgives => ⟨event (takeOutbound d) s, rfl, ?_⟩,
      fun hfull => ⟨event (takeOutbound d) s, rfl, ?_⟩⟩
    · rw [enterBand_room (hband.symm ▸ hroom), takeNext_unready (hready.trans hbusy)] at hv
      rw [(hsettled.onFwd _).plain hv, ← hjoined]
      rfl
    · rw [enterBand_room (hband.symm ▸ hroom), takeNext_gives (hready.trans hopen) (by
        rw [hjoined]
        cases p <;> exact hgives)] at hv
      have hs' := hsettled.onFwd fun g => g.setQueue p (TxQueue.append (s.cls cls).tier frame (g.queue p))
      have hhands := event_handsOff hs'.service hv hs'.pass hs'.demand hs'.cond hs'.irq hs'.flows fun hp =>
        hallow.symm ▸ hsound hp
      rw [hjoined] at hhands
      cases p <;> exact hhands
    · rw [enterBand_full (hband.symm ▸ hfull)] at hv
      rw [(hsettled.onFwd _).plain hv]
      cases p with
      | fibre =>
        show _ = ({ v.st with fwd := { v.st.fwd with counts :=
          { v.st.fwd.counts with fibreDrop := min (counts.fibreDrop + 1) 4294967295 } } } : State).plain
        rw [← hfibreDrop] <;> rfl
      | radio =>
        show _ = ({ v.st with fwd := { v.st.fwd with counts :=
          { v.st.fwd.counts with radioDrop := min (counts.radioDrop + 1) 4294967295 } } } : State).plain
        rw [← hradioDrop] <;> rfl

end Sys2Proof.Machine
end


section
/-! The release of held frames in a pass, frame by frame: what it leaves, what joins the band of a port that is not
ready, and what latches (R121, R122, R129, R131). -/

namespace Sys2Proof.Machine

/-! ## What a release leaves -/

/-- A class without its dropped frames. -/
def ClassRec.undropped (c : ClassRec) : ClassRec := { c with dropped := 0 }

/-- A flow without its counted bytes. -/
def FlowRec.uncounted (f : FlowRec) : FlowRec := { f with bytes := 0, saturated := false }

/-- The state without what the release of a frame can change. -/
def State.unreleased (s : State) : State :=
  { s with
    classes := s.classes.map ClassRec.undropped, flows := s.flows.map FlowRec.uncounted,
    fwd := { Forwarding.initial with held := s.fwd.held }, allow := Allowance.initial, ev := State.reset.ev }

theorem State.OnlyEv.unreleased {s t : State} (h : s.OnlyEv t) : t.unreleased = s.unreleased := by
  obtain ⟨e, -, rfl⟩ := h
  rfl

theorem countedFlows_uncounted (s : State) (flow : Option Nat) (n : Nat) :
    (s.countedFlows flow n).map FlowRec.uncounted = s.flows.map FlowRec.uncounted := by
  cases flow with
  | none => rfl
  | some i =>
    refine map_set_getD FlowRec.uncounted (FlowRec.addBytes n) _ (fun f => ?_) _ _
    unfold FlowRec.addBytes
    split <;> rfl

theorem handoff_unreleased (p : Path) (f : TxFrame) (rest : TxQueue) (w : Work) :
    (handoff p f rest w).st.unreleased = w.st.unreleased := by
  cases p with
  | fibre => rfl
  | radio =>
    rw [handoff_radio, (addUsed_onlyEv _ _).unreleased]
    unfold State.unreleased
    exact congrArg (fun fs => { w.st with
      classes := w.st.classes.map ClassRec.undropped, flows := fs,
      fwd := { Forwarding.initial with held := w.st.fwd.held }, allow := Allowance.initial, ev := State.reset.ev })
      (countedFlows_uncounted w.st f.flow _)

theorem takeNext_unreleased (p : Path) (w : Work) : (takeNext p w).st.unreleased = w.st.unreleased := by
  unfold takeNext
  split
  · split
    · rfl
    · exact handoff_unreleased _ _ _ _
  · rfl

theorem enterBand_unreleased (p : Path) (tier : Nat) (f : TxFrame) (w : Work) :
    (enterBand p tier f w).st.unreleased = w.st.unreleased := by
  unfold enterBand
  split
  · rfl
  · rw [takeNext_unreleased]
    cases p <;> rfl

theorem dropBlocked_unreleased (k : Nat) (w : Work) : (dropBlocked k w).st.unreleased = w.st.unreleased := by
  have hclasses : (dropBlocked k w).st.classes.map ClassRec.undropped = w.st.classes.map ClassRec.undropped :=
    map_set_getD ClassRec.undropped (fun c => { c with dropped := hold32 (c.dropped + 1) }) _ (fun _ => rfl) _ _
  exact congrArg (fun cs => { w.st.unreleased with classes := cs }) hclasses

/-! ## One frame released -/

/-- What is bound to a path: the frame joins the band of its class's tier, HOLD_DROPS latched where it is full. -/
def releaseOnto (p : Path) (x : HeldFrame) (w : Work) : Work :=
  if w.st.bandFull p (w.st.cls x.cls).tier then latch Bit.holdDrops (placeFrame p x.cls x.flow x.data w)
  else placeFrame p x.cls x.flow x.data w

theorem releaseHeld_path {x : HeldFrame} {w : Work} {p : Path} (h : w.st.bindingPath x = boundTo p) :
    releaseHeld x w = releaseOnto p x w := by
  unfold releaseHeld releaseOnto
  dsimp only
  rw [h]
  cases p <;> rfl

theorem releaseHeld_waiting {x : HeldFrame} {w : Work} (h : w.st.bindingPath x = .waiting) : releaseHeld x w = w := by
  unfold releaseHeld
  dsimp only
  rw [h]

theorem releaseHeld_blocked {x : HeldFrame} {w : Work} (h : w.st.bindingPath x = .blocked) :
    releaseHeld x w = latch Bit.holdDrops (dropBlocked x.cls w) := by
  unfold releaseHeld
  dsimp only
  rw [h]

theorem releaseOnto_unreleased (p : Path) (x : HeldFrame) (w : Work) :
    (releaseOnto p x w).st.unreleased = w.st.unreleased := by
  unfold releaseOnto
  split
  · exact (latch_onlyEv Bit.holdDrops _).unreleased.trans (enterBand_unreleased _ _ _ _)
  · exact enterBand_unreleased _ _ _ _

theorem releaseHeld_unreleased (x : HeldFrame) (w : Work) : (releaseHeld x w).st.unreleased = w.st.unreleased := by
  cases hbound : w.st.bindingPath x with
  | fibre => exact (releaseHeld_path (p := .fibre) hbound) ▸ releaseOnto_unreleased _ _ _
  | radio => exact (releaseHeld_path (p := .radio) hbound) ▸ releaseOnto_unreleased _ _ _
  | waiting => rw [releaseHeld_waiting hbound]
  | blocked =>
    rw [releaseHeld_blocked hbound]
    exact (latch_onlyEv Bit.holdDrops _).unreleased.trans (dropBlocked_unreleased _ _)

theorem releaseAll_unreleased (l : List HeldFrame) (w : Work) : (releaseAll l w).st.unreleased = w.st.unreleased := by
  induction l generalizing w with
  | nil => rfl
  | cons x l ih => exact (ih _).trans (releaseHeld_unreleased x w)

/-! ## What the classes and flows of states that differ in a release have in common -/

theorem cur_of_undropped {cs ds : List ClassRec} (h : cs.map ClassRec.undropped = ds.map ClassRec.undropped) :
    cs.map ClassRec.cur = ds.map ClassRec.cur := by
  have hcur := congrArg (List.map ClassRec.cur) h
  simp only [List.map_map] at hcur
  exact hcur

theorem course_of_uncounted {fs gs : List FlowRec} (h : fs.map FlowRec.uncounted = gs.map FlowRec.uncounted) :
    fs.map FlowRec.course = gs.map FlowRec.course := by
  have hcourse := congrArg (List.map FlowRec.course) h
  simp only [List.map_map] at hcourse
  exact hcourse

theorem bindingPath_of_unreleased {s t : State} (h : s.unreleased = t.unreleased) (x : HeldFrame) :
    s.bindingPath x = t.bindingPath x :=
  bindingPath_congr (cur_of_undropped (congrArg State.classes h :)) (course_of_uncounted (congrArg State.flows h :)) x

theorem cls_of_unreleased {s t : State} (h : s.unreleased = t.unreleased) (k : Nat) :
    (s.cls k).undropped = (t.cls k).undropped := getD_of_map (congrArg State.classes h :) k _

theorem flow_of_unreleased {s t : State} (h : s.unreleased = t.unreleased) (k : Nat) :
    (s.flow k).uncounted = (t.flow k).uncounted := getD_of_map (congrArg State.flows h :) k _

/-! ## The band of a port that is not ready -/

/-- A frame joins its band, where there is room. -/
def TxQueue.joined (q : TxQueue) (tier : Nat) (f : TxFrame) : TxQueue :=
  if 32 ≤ (q.band tier).length then q else q.append tier f

theorem append_sending (q : TxQueue) (tier : Nat) (f : TxFrame) : (q.append tier f).sending = q.sending := by
  unfold TxQueue.append
  split <;> rfl

theorem onQueue_same (p : Path) (g : TxQueue → TxQueue) (w : Work) : (w.onQueue p g).st.fwd.queue p = g (w.st.fwd.queue p) := by
  cases p <;> rfl

theorem onQueue_other {p q : Path} (h : q ≠ p) (g : TxQueue → TxQueue) (w : Work) :
    (w.onQueue p g).st.fwd.queue q = w.st.fwd.queue q := by
  cases p with
  | fibre => cases q with
    | fibre => exact absurd rfl h
    | radio => rfl
  | radio => cases q with
    | fibre => rfl
    | radio => exact absurd rfl h

theorem handoff_fwd (p : Path) (f : TxFrame) (rest : TxQueue) (w : Work) :
    (handoff p f rest w).st.fwd = w.st.fwd.setQueue p { rest with sending := some f.data } := by
  cases p with
  | fibre => rfl
  | radio =>
    obtain ⟨e, -, he⟩ := addUsed_onlyEv (w.st.counted f.data) (w.handedOn f rest)
    rw [handoff_radio, he]
    rfl

theorem takeNext_other {p q : Path} (h : q ≠ p) (w : Work) : (takeNext p w).st.fwd.queue q = w.st.fwd.queue q := by
  unfold takeNext
  split
  · split
    · rfl
    · rw [handoff_fwd]
      exact onQueue_other h (fun _ => _) w
  · rfl

theorem enterBand_other {p q : Path} (h : q ≠ p) (tier : Nat) (f : TxFrame) (w : Work) :
    (enterBand p tier f w).st.fwd.queue q = w.st.fwd.queue q := by
  unfold enterBand
  split
  · cases q <;> rfl
  · rw [takeNext_other h, onQueue_other h]

theorem portReady_iff (s : State) (p : Path) : s.portReady p = true ↔
    (match p with | .fibre => s.fin.link = true | .radio => s.ru.state = .session) ∧ (s.fwd.queue p).sending = none := by
  cases p with
  | fibre => exact Bool.and_eq_true_iff.trans (and_congr_right fun _ => Option.isNone_iff_eq_none)
  | radio => exact Bool.and_eq_true_iff.trans (and_congr decide_eq_true_iff Option.isNone_iff_eq_none)

theorem portReady_congr {s t : State} {p : Path} (hfin : t.fin = s.fin) (hru : t.ru = s.ru)
    (hsending : (t.fwd.queue p).sending = (s.fwd.queue p).sending) : t.portReady p = s.portReady p := by
  rw [Bool.eq_iff_iff, portReady_iff, portReady_iff, hfin, hru, hsending]

theorem enterBand_unready {p : Path} {w : Work} (h : w.st.portReady p = false) (tier : Nat) (f : TxFrame) :
    (enterBand p tier f w).st.fwd.queue p = (w.st.fwd.queue p).joined tier f := by
  unfold TxQueue.joined
  split
  · next hfull =>
    rw [enterBand_full hfull]
    cases p <;> rfl
  · next hroom =>
    have hready : (w.onQueue p (TxQueue.append tier f)).st.portReady p = w.st.portReady p := by
      refine portReady_congr rfl rfl ?_
      rw [onQueue_same]
      exact append_sending _ _ _
    rw [enterBand_room (Nat.lt_of_not_le hroom), takeNext_unready (hready.trans h), onQueue_same]

theorem joined_sending (q : TxQueue) (tier : Nat) (f : TxFrame) : (q.joined tier f).sending = q.sending := by
  unfold TxQueue.joined
  split
  · rfl
  · exact append_sending q tier f

theorem releaseOnto_queue (p q : Path) (x : HeldFrame) (w : Work) : (releaseOnto p x w).st.fwd.queue q
    = (enterBand p (w.st.cls x.cls).tier { data := x.data, flow := x.flow } w).st.fwd.queue q := by
  unfold releaseOnto
  split <;> rfl

/-- The queue of a port that is not ready, after the release of a frame. -/
theorem releaseHeld_queue (x : HeldFrame) {p : Path} {w : Work} (h : w.st.portReady p = false) :
    (releaseHeld x w).st.fwd.queue p = if w.st.bindingPath x = boundTo p then
      (w.st.fwd.queue p).joined (w.st.cls x.cls).tier { data := x.data, flow := x.flow } else w.st.fwd.queue p := by
  by_cases hbound : w.st.bindingPath x = boundTo p
  · rw [if_pos hbound, releaseHeld_path hbound, releaseOnto_queue, enterBand_unready h]
  · rw [if_neg hbound]
    have hother : ∀ q : Path, w.st.bindingPath x = boundTo q → (releaseHeld x w).st.fwd.queue p = w.st.fwd.queue p := by
      intro q hq
      have hne : p ≠ q := by
        rintro rfl
        exact hbound hq
      rw [releaseHeld_path hq, releaseOnto_queue, enterBand_other hne]
    cases hpath : w.st.bindingPath x with
    | fibre => exact hother .fibre hpath
    | radio => exact hother .radio hpath
    | waiting => rw [releaseHeld_waiting hpath]
    | blocked =>
      rw [releaseHeld_blocked hpath]
      cases p <;> rfl

theorem releaseHeld_unready (x : HeldFrame) {p : Path} {w : Work} (h : w.st.portReady p = false) :
    (releaseHeld x w).st.portReady p = false := by
  have hrest := releaseHeld_unreleased x w
  have hready : (releaseHeld x w).st.portReady p = w.st.portReady p := by
    refine portReady_congr (congrArg State.fin hrest :) (congrArg State.ru hrest :) ?_
    rw [releaseHeld_queue x h]
    split
    · exact joined_sending _ _ _
    · rfl
  exact hready.trans h

theorem latched_drops (w : Work) : latched (bitMask 13) (latch Bit.holdDrops w).st := latch_latched 13 w

theorem releaseHeld_full {x : HeldFrame} {p : Path} {w : Work} (hbound : w.st.bindingPath x = boundTo p)
    (hfull : 32 ≤ ((w.st.fwd.queue p).band (w.st.cls x.cls).tier).length) : latched (bitMask 13) (releaseHeld x w).st := by
  have hband : w.st.bandFull p (w.st.cls x.cls).tier = true := decide_eq_true hfull
  rw [releaseHeld_path hbound]
  unfold releaseOnto
  rw [if_pos hband]
  exact latched_drops _

theorem releaseHeld_drops {x : HeldFrame} {w : Work} (hbound : w.st.bindingPath x = .blocked) :
    latched (bitMask 13) (releaseHeld x w).st := by
  rw [releaseHeld_blocked hbound]
  exact latched_drops _

theorem releaseAll_latched {m : Word} (l : List HeldFrame) {w : Work} (h : latched m w.st) : latched m (releaseAll l w).st :=
  (closedLatched m).releaseAll l w h

theorem releaseAll_drops {l : List HeldFrame} {w : Work} (h : ∃ x ∈ l, w.st.bindingPath x = .blocked) :
    latched (bitMask 13) (releaseAll l w).st := by
  induction l generalizing w with
  | nil =>
    obtain ⟨x, hx, -⟩ := h
    cases hx
  | cons x l ih =>
    obtain ⟨y, hy, hblocked⟩ := h
    rcases List.mem_cons.mp hy with rfl | hin
    · exact releaseAll_latched l (releaseHeld_drops hblocked)
    · exact ih ⟨y, hin, (bindingPath_of_unreleased (releaseHeld_unreleased x w) y).trans hblocked⟩

/-! ## All frames released -/

/-- The frames of a list that go to a band, urgent or normal, of a path. -/
def framesFor (s : State) (p : Path) (urgent : Bool) (l : List HeldFrame) : List TxFrame :=
  (l.filter fun h => decide (s.bindingPath h = boundTo p) && (decide ((s.cls h.cls).tier ≤ 1) == urgent)).map
    fun h => { data := h.data, flow := h.flow }

/-- One of the two bands. -/
def TxQueue.side (q : TxQueue) (urgent : Bool) : List TxFrame := if urgent then q.urgent else q.normal

theorem band_eq_side (q : TxQueue) (tier : Nat) : q.band tier = q.side (decide (tier ≤ 1)) := by
  unfold TxQueue.band TxQueue.side
  by_cases h : tier ≤ 1
  · rw [if_pos h, decide_eq_true h, if_pos rfl]
  · rw [if_neg h, decide_eq_false h, if_neg Bool.false_ne_true]

theorem append_side (q : TxQueue) (tier : Nat) (f : TxFrame) (b : Bool) :
    (q.append tier f).side b = if decide (tier ≤ 1) = b then q.side b ++ [f] else q.side b := by
  unfold TxQueue.append TxQueue.side
  by_cases h : tier ≤ 1
  · rw [if_pos h, decide_eq_true h]
    cases b <;> rfl
  · rw [if_neg h, decide_eq_false h]
    cases b <;> rfl

theorem joined_side (q : TxQueue) (tier : Nat) (f : TxFrame) (b : Bool) (hb : (q.side b).length ≤ 32) :
    (q.joined tier f).side b = if decide (tier ≤ 1) = b then (q.side b ++ [f]).take 32 else q.side b := by
  unfold TxQueue.joined
  rw [band_eq_side]
  by_cases hside : decide (tier ≤ 1) = b
  · rw [if_pos hside, hside]
    split
    · next hfull => rw [List.take_append_of_le_length hfull, List.take_of_length_le hb]
    · next hroom =>
      rw [append_side, if_pos hside, List.take_of_length_le]
      simpa using Nat.lt_of_not_le hroom
  · rw [if_neg hside]
    split
    · rfl
    · rw [append_side, if_neg hside]

theorem framesFor_cons (s : State) (p : Path) (b : Bool) (x : HeldFrame) (l : List HeldFrame) :
    framesFor s p b (x :: l) = (if s.bindingPath x = boundTo p ∧ decide ((s.cls x.cls).tier ≤ 1) = b then
      [{ data := x.data, flow := x.flow }] else []) ++ framesFor s p b l := by
  unfold framesFor
  by_cases h : s.bindingPath x = boundTo p ∧ decide ((s.cls x.cls).tier ≤ 1) = b
  · rw [if_pos h, List.filter_cons_of_pos (by rw [Bool.and_eq_true, decide_eq_true_iff, beq_iff_eq]; exact h)]
    rfl
  · rw [if_neg h, List.filter_cons_of_neg (by rw [Bool.and_eq_true, decide_eq_true_iff, beq_iff_eq]; exact h)]
    rfl

theorem framesFor_congr {s t : State} (h : s.unreleased = t.unreleased) (p : Path) (b : Bool) (l : List HeldFrame) :
    framesFor s p b l = framesFor t p b l := by
  have htier : ∀ k, (s.cls k).tier = (t.cls k).tier := fun k => (congrArg ClassRec.tier (cls_of_unreleased h k) :)
  unfold framesFor
  simp only [bindingPath_of_unreleased h, htier]

theorem take_take_append {α : Type} (n : Nat) (a b : List α) : (a.take n ++ b).take n = (a ++ b).take n := by
  rw [List.take_append, List.take_append, List.take_take, Nat.min_self, List.length_take]
  congr 2
  omega

/-- The frames of a path leave in their order for its bands, while there is room. -/
theorem releaseAll_side (l : List HeldFrame) {p : Path} (b : Bool) {w : Work} (hready : w.st.portReady p = false)
    (hb : ((w.st.fwd.queue p).side b).length ≤ 32) :
    ((releaseAll l w).st.fwd.queue p).side b = ((w.st.fwd.queue p).side b ++ framesFor w.st p b l).take 32
    ∧ (32 < ((w.st.fwd.queue p).side b).length + (framesFor w.st p b l).length →
        latched (bitMask 13) (releaseAll l w).st) := by
  induction l generalizing w with
  | nil =>
    refine ⟨?_, fun h => absurd h (Nat.not_lt.mpr hb)⟩
    rw [show framesFor w.st p b [] = [] from rfl, List.append_nil, List.take_of_length_le hb]
    rfl
  | cons x l ih =>
    have hqueue := releaseHeld_queue x hready
    have hframes := framesFor_congr (releaseHeld_unreleased x w) p b l
    have hunready := releaseHeld_unready x hready
    rw [framesFor_cons]
    by_cases hmine : w.st.bindingPath x = boundTo p ∧ decide ((w.st.cls x.cls).tier ≤ 1) = b
    · obtain ⟨hbound, hside⟩ := hmine
      have hjoined : ((releaseHeld x w).st.fwd.queue p).side b
          = ((w.st.fwd.queue p).side b ++ [({ data := x.data, flow := x.flow } : TxFrame)]).take 32 := by
        rw [hqueue, if_pos hbound, joined_side _ _ _ _ hb, if_pos hside]
      obtain ⟨hgives, hdrops⟩ := ih hunready (hjoined.symm ▸ List.length_take_le _ _)
      rw [if_pos ⟨hbound, hside⟩, ← hframes]
      refine ⟨hgives.trans ?_, fun hover => ?_⟩
      · rw [hjoined, take_take_append, List.append_assoc]
      · by_cases hfull : 32 ≤ ((w.st.fwd.queue p).side b).length
        · refine releaseAll_latched l (releaseHeld_full hbound ?_)
          rw [band_eq_side, hside]
          exact hfull
        · refine hdrops ?_
          rw [hjoined]
          simp only [List.length_take, List.length_append, List.length_singleton] at hover ⊢
          omega
    · have hstays : ((releaseHeld x w).st.fwd.queue p).side b = (w.st.fwd.queue p).side b := by
        rw [hqueue]
        split
        · next hbound => rw [joined_side _ _ _ _ hb, if_neg fun hside => hmine ⟨hbound, hside⟩]
        · rfl
      obtain ⟨hgives, hdrops⟩ := ih hunready (hstays.symm ▸ hb)
      rw [if_neg hmine, List.nil_append, ← hframes, ← hstays]
      exact ⟨hgives, hdrops⟩

end Sys2Proof.Machine
end


section
/-! One steering pass, in its five steps: where it leaves classes, flows, held frames, queues, drill and demand (R81 to
R90, R106 to R108, R115, R129, R160). -/

namespace Sys2Proof.Machine

/-! ## Demand recomputed -/

/-- What demand, recomputed, leaves. -/
structure State.DemandKeeps (s t : State) : Prop where
  classes : t.classes = s.classes
  flows : t.flows = s.flows
  drill : t.drill = s.drill
  held : t.fwd.held = s.fwd.held
  fibreQ : t.fwd.fibreQ = s.fwd.fibreQ
  session : t.ru.state = .session → s.ru.state = .session
  radioQ : (s.ru.state = .session → t.ru.state = .session) → t.fwd.radioQ = s.fwd.radioQ

theorem State.DemandKeeps.refl (s : State) : s.DemandKeeps s := ⟨rfl, rfl, rfl, rfl, rfl, id, fun _ => rfl⟩

theorem State.DemandKeeps.trans {s t u : State} (h : s.DemandKeeps t) (h' : t.DemandKeeps u) : s.DemandKeeps u where
  classes := h'.classes.trans h.classes
  flows := h'.flows.trans h.flows
  drill := h'.drill.trans h.drill
  held := h'.held.trans h.held
  fibreQ := h'.fibreQ.trans h.fibreQ
  session := h.session ∘ h'.session
  radioQ := fun ho => (h'.radioQ fun ht => ho (h.session ht)).trans (h.radioQ fun hs => h'.session (ho hs))

theorem sessionLeft_keeps (s : State) : s.sessionLeft.classes = s.classes ∧ s.sessionLeft.flows = s.flows
    ∧ s.sessionLeft.drill = s.drill ∧ s.sessionLeft.fwd.held = s.fwd.held
    ∧ s.sessionLeft.fwd.fibreQ = s.fwd.fibreQ := by
  by_cases h : s.radio.state = .down
  · rw [sessionLeft_of_down h]
    exact ⟨rfl, rfl, rfl, rfl, rfl⟩
  · rw [sessionLeft_of_ne h]
    exact ⟨rfl, rfl, rfl, rfl, rfl⟩

theorem demanding_demandKeeps : Demanding State.DemandKeeps where
  refl := State.DemandKeeps.refl
  trans := State.DemandKeeps.trans
  moveTo := by
    intro n hn w
    have hstate := moveTo_state n w
    by_cases h : w.st.ru.state = .session
    · obtain ⟨e, -, hst⟩ := moveTo_leaves n h hn
      obtain ⟨hclasses, hflows, hdrill, hheld, hfibreQ⟩ := sessionLeft_keeps w.st
      have hne : (moveTo n w).st.ru.state ≠ .session := by
        rw [hstate]
        exact hn
      refine ⟨?_, ?_, ?_, ?_, ?_, fun hs => absurd hs hne, fun ho => absurd (ho h) hne⟩
      · rw [hst, ← hclasses]
      · rw [hst, ← hflows]
      · rw [hst, ← hdrill]
      · rw [hst, ← hheld]
      · rw [hst, ← hfibreQ]
    · obtain ⟨r, e, -, hst⟩ := moveTo_ruOnly n w (Or.inl h)
      rw [hstate.symm] at hn
      generalize (moveTo n w).st = t at hst hn
      subst hst
      exact ⟨rfl, rfl, rfl, rfl, rfl, fun hs => absurd hs hn, fun _ => rfl⟩
  only := by
    rintro s t ⟨r, e, -, rfl⟩ hsession
    exact ⟨rfl, rfl, rfl, rfl, rfl, hsession.mp, fun _ => rfl⟩
  steer := fun _ _ => ⟨rfl, rfl, rfl, rfl, rfl, id, fun _ => rfl⟩

/-! ## The drill step -/

/-- The drill unit after the drill step. -/
def State.drillStepped (s : State) : Drill :=
  if s.realUse = true ∧ s.drill.running = true then s.drillEnded .aborted .realUse else s.drill

theorem drillStep_onlyEv (w : Work) : ({ w.st with drill := w.st.drillStepped } : State).OnlyEv (drillStep w).st := by
  by_cases hdue : w.st.realUse = true ∧ w.st.drill.running = true
  · have hdrill : w.st.drillStepped = w.st.drillEnded .aborted .realUse := if_pos hdue
    have hstep : drillStep w = endDrill .aborted .realUse w := if_pos hdue.1
    rw [hdrill, hstep]
    exact endDrill_onlyEv _ _ _ hdue.2
  · have hdrill : w.st.drillStepped = w.st.drill := if_neg hdue
    have hstep : drillStep w = w := by
      unfold drillStep
      split
      · next hreal => exact endDrill_idle _ _ _ (Bool.eq_false_iff.mpr fun hrun => hdue ⟨hreal, hrun⟩)
      · rfl
    rw [hdrill, hstep]
    exact State.OnlyEv.refl _

theorem drillStep_latched {w : Work} (hreal : w.st.realUse = true) (hrun : w.st.drill.running = true) :
    latched (bitMask 11) (drillStep w).st := by
  unfold drillStep
  rw [if_pos hreal, endDrill_eq _ _ _ hrun, endedWork_st]
  exact handConditions_latched (latch_latched 11 _)

/-! ## The pass -/

/-- The work of a pass after its first two steps, and after its third. -/
def steeredWork (w : Work) : Work := handConditions (flowStep w.st (classStep w))

def releasedWork (w : Work) : Work := releaseStep w.st (steeredWork w)

theorem passBody_eq (w : Work) : passBody w = drillStep (releasedWork w) := rfl

theorem classStep_onlyEv (w : Work) : ({ w.st with classes := w.st.decided } : State).OnlyEv (classStep w).st := by
  unfold classStep
  dsimp only
  split
  · exact State.OnlyEv.refl _
  · exact latch_onlyEv Bit.classMove (w.onClasses fun _ => w.st.decided)

theorem steeredWork_onlyEv (w : Work) :
    ({ w.st with classes := w.st.decided, flows := w.st.followed } : State).OnlyEv (steeredWork w).st := by
  have hflow : ({ w.st with classes := w.st.decided, flows := w.st.followed } : State).OnlyEv
      (flowStep w.st (classStep w)).st := by
    obtain ⟨e, hset, he⟩ := classStep_onlyEv w
    refine ⟨e, hset, ?_⟩
    show { (classStep w).st with
      flows := (classStep w).st.flows.map fun f : FlowRec => followClass w.st ((classStep w).st.cls f.cls).cur f } = _
    rw [he]
    rfl
  exact hflow.trans (handConditions_onlyEv _)

theorem numbersWhere_not_empty {α : Type} {changes : α → Bool} (n : Nat) {l : List α} {i : Nat} (hi : i < l.length) (d : α)
    (h : changes (l.getD i d) = true) : (numbersWhere changes n l).isEmpty = false := by
  induction l generalizing n i with
  | nil => cases hi
  | cons x l ih =>
    unfold numbersWhere
    cases hx : changes x with
    | true => rfl
    | false =>
      cases i with
      | zero => exact absurd (hx.symm.trans h) (by decide)
      | succ i => exact ih (n + 1) (Nat.lt_of_succ_lt_succ hi) h

/-- A class that the pass moves latches CLASS_MOVE. -/
theorem classStep_latched {w : Work} {i : Nat} (hi : i < w.st.classes.length)
    (h : decideClass w.st (w.st.cls i) ≠ (w.st.cls i).cur) : latched (bitMask 3) (classStep w).st := by
  have hnot := numbersWhere_not_empty (changes := fun c => decide (decideClass w.st c ≠ c.cur)) 0 hi
    (ClassRec.initial 3 false) (decide_eq_true h)
  have hlatch : ∀ v : Work, latched (bitMask 3) (latch Bit.classMove v).st := fun v => latch_latched 3 v
  unfold classStep
  dsimp only
  rw [hnot]
  exact hlatch _

/-- What a pass leaves of the tables, the hold buffer and the drill. -/
theorem released_rests (w : Work) : (releasedWork w).st.unreleased = ({ w.st with
    classes := w.st.decided, flows := w.st.followed,
    fwd := { w.st.fwd with held := w.st.fwd.held.filter fun h => !leftWaiting w.st (steeredWork w).st h } }
      : State).unreleased := by
  have hsteered := steeredWork_onlyEv w
  have hheld : (steeredWork w).st.fwd.held = w.st.fwd.held := by
    obtain ⟨e, -, he⟩ := hsteered
    rw [he]
  have hrelease := releaseAll_unreleased ((steeredWork w).st.fwd.held.filter (leftWaiting w.st (steeredWork w).st))
    ((steeredWork w).onFwd fun f => { f with
      held := (steeredWork w).st.fwd.held.filter fun h => !leftWaiting w.st (steeredWork w).st h })
  refine hrelease.trans ?_
  rw [hheld]
  generalize (fun h => !leftWaiting w.st (steeredWork w).st h) = keep
  generalize steeredWork w = v at hsteered
  obtain ⟨e, -, he⟩ := hsteered
  show ({ v.st with fwd := { v.st.fwd with held := w.st.fwd.held.filter keep } } : State).unreleased = _
  rw [he]
  rfl

/-- Latched before the last two steps, latched after the pass. -/
theorem pass_latched {m : Word} {w : Work} (h : latched m (releasedWork w).st) : latched m (steeringPass w).st :=
  (closedLatched m).recomputeDemand trivial _ ((closedLatched m).drillStep _ h)

theorem pass_keeps (w : Work) : (passBody w).st.DemandKeeps (steeringPass w).st :=
  demanding_demandKeeps.recomputeDemand (passBody w)

theorem passBody_onlyEv (w : Work) :
    ({ (releasedWork w).st with drill := (releasedWork w).st.drillStepped } : State).OnlyEv (passBody w).st :=
  drillStep_onlyEv (releasedWork w)

theorem State.OnlyEv.fields {s t : State} {d : Drill} (h : ({ s with drill := d } : State).OnlyEv t) :
    t.classes = s.classes ∧ t.flows = s.flows ∧ t.fwd = s.fwd ∧ t.ru = s.ru ∧ t.drill = d := by
  obtain ⟨e, -, rfl⟩ := h
  exact ⟨rfl, rfl, rfl, rfl, rfl⟩

theorem passBody_fields (w : Work) : (passBody w).st.classes = (releasedWork w).st.classes
    ∧ (passBody w).st.flows = (releasedWork w).st.flows ∧ (passBody w).st.fwd = (releasedWork w).st.fwd
    ∧ (passBody w).st.ru = (releasedWork w).st.ru ∧ (passBody w).st.drill = (releasedWork w).st.drillStepped :=
  (passBody_onlyEv w).fields

theorem classes_of_unreleased {s t : State} (h : s.unreleased = t.unreleased) :
    s.classes.map ClassRec.undropped = t.classes.map ClassRec.undropped := congrArg State.classes h

theorem flows_of_unreleased {s t : State} (h : s.unreleased = t.unreleased) :
    s.flows.map FlowRec.uncounted = t.flows.map FlowRec.uncounted := congrArg State.flows h

theorem ru_of_unreleased {s t : State} (h : s.unreleased = t.unreleased) : s.ru = t.ru := (congrArg State.ru h :)

theorem drillEnded_of_unreleased {s t : State} (h : s.unreleased = t.unreleased) (o : DrillOutcome) (c : DrillCause) :
    s.drill = t.drill ∧ s.drillEnded o c = t.drillEnded o c :=
  ⟨(congrArg State.drill h :), drillEnded_congr (congrArg State.clk h :) (congrArg (fun u : State => u.exch.service) h :)
    (congrArg State.ru h :) (congrArg State.drill h :) (congrArg State.radio h :) o c⟩

theorem held_of_unreleased {s t : State} (h : s.unreleased = t.unreleased) : s.fwd.held = t.fwd.held :=
  (congrArg (fun u : State => u.fwd.held) h :)

theorem ClassRec.of_undropped {c d : ClassRec} (h : c.undropped = d.undropped) :
    c.cur = d.cur ∧ c.since = d.since ∧ c.policy = d.policy :=
  ⟨(congrArg ClassRec.cur h :), (congrArg ClassRec.since h :), (congrArg ClassRec.policy h :)⟩

theorem pass_classes (w : Work) :
    (steeringPass w).st.classes.map ClassRec.undropped = w.st.decided.map ClassRec.undropped := by
  obtain ⟨hclasses, -⟩ := passBody_fields w
  exact (congrArg (List.map ClassRec.undropped) ((pass_keeps w).classes.trans hclasses)).trans
    (classes_of_unreleased (released_rests w))

theorem pass_flows (w : Work) :
    (steeringPass w).st.flows.map FlowRec.uncounted = w.st.followed.map FlowRec.uncounted := by
  obtain ⟨-, hflows, -⟩ := passBody_fields w
  exact (congrArg (List.map FlowRec.uncounted) ((pass_keeps w).flows.trans hflows)).trans
    (flows_of_unreleased (released_rests w))

theorem pass_held (w : Work) : (steeringPass w).st.fwd.held
    = w.st.fwd.held.filter fun h => !leftWaiting w.st (steeredWork w).st h := by
  obtain ⟨-, -, hfwd, -⟩ := passBody_fields w
  exact ((pass_keeps w).held.trans (congrArg Forwarding.held hfwd)).trans
    (held_of_unreleased (released_rests w))

/-! ## The class decided (R84 to R88) -/

theorem getD_map_lt {α β : Type} (g : α → β) {l : List α} {i : Nat} (hi : i < l.length) (d : α) (d' : β) :
    (l.map g).getD i d' = g (l.getD i d) := by
  simp [hi]

theorem pass_cls {w : Work} {i : Nat} (hi : i < w.st.classes.length) : ((steeringPass w).st.cls i).undropped
    = ((w.st.cls i).takePath w.st.now (decideClass w.st (w.st.cls i))).undropped :=
  (getD_of_map (pass_classes w) i _).trans
    (congrArg ClassRec.undropped (getD_map_lt (fun c : ClassRec => c.takePath w.st.now (decideClass w.st c)) hi _ _))

theorem takePath_since (now : Time) (n : ClassPath) (c : ClassRec) :
    (c.takePath now n).since = if n = c.cur then c.since else now := by
  unfold ClassRec.takePath
  by_cases h : c.cur = n
  · rw [if_pos h, if_pos h.symm]
  · rw [if_neg h, if_neg (Ne.symm h)]

/-- The path over radio. -/
def State.overRadio (s : State) : ClassPath := if s.radio.state = .up ∨ s.radio.state = .weak then .radio else .waiting

theorem radioUsable_iff (s : State) : s.radioUsable = true ↔ s.radio.state = .up ∨ s.radio.state = .weak := usable_iff _

theorem radioOrWait_eq (s : State) : s.radioOrWait = s.overRadio := by
  unfold State.radioOrWait State.overRadio
  by_cases h : s.radio.state = .up ∨ s.radio.state = .weak
  · rw [if_pos h, if_pos ((radioUsable_iff s).mpr h)]
  · rw [if_neg h, if_neg (fun hu => h ((radioUsable_iff s).mp hu))]

theorem decideFree_eq (s : State) (c : ClassRec) (fits : Prop) [Decidable fits] (hfits : s.fits c = true ↔ fits) :
    decideFree s c = if (c.cur = .fibre ∨ c.cur = .blocked) ∧ fits then .fibre
      else if ¬(c.cur = .fibre ∨ c.cur = .blocked) ∧ fits ∧ s.steer.ret = .passed then .fibre
      else if s.permits c = true then s.overRadio else s.lastPath := by
  have hwants : c.cur.wantsRadio = true ↔ ¬(c.cur = .fibre ∨ c.cur = .blocked) := by cases c.cur <;> decide
  unfold decideFree
  rw [radioOrWait_eq, fibreOrBlock_eq]
  simp only [Bool.and_eq_true, Bool.not_eq_true', ← Bool.not_eq_true, hwants, not_not, hfits, decide_eq_true_iff, and_assoc]

theorem fits_iff (s : State) (c : ClassRec) :
    s.fits c = true ↔ s.fibre.state = .up ∨ (s.fibre.state = .weak ∧ c.use ≠ .failoverWeak) := by
  unfold State.fits
  cases s.fibre.state <;> simp

theorem decideClass_service {s : State} (h : s.exch.service = .service) (c : ClassRec) : decideClass s c =
    if s.hold.active then
      match s.hold.path with
      | some .radio => if s.permits c then s.radioOrWait else s.fibreOrBlock
      | some .fibre => .fibre
      | none => decideFree s c
    else decideFree s c := if_neg (not_not.mpr h)

theorem tier_of_policy {c d : ClassRec} (h : c.policy = d.policy) : c.tier = d.tier := (congrArg ClassRec.tier h :)

theorem cls_mem {s : State} {cs : List ClassRec} (h : s.classes = cs) {i : Nat} (hi : i < s.classes.length) :
    s.cls i ∈ cs := by
  subst h
  unfold State.cls
  rw [List.getD_eq_getElem _ _ hi]
  exact List.getElem_mem hi

theorem demand_of_class {v : Work} {c : ClassRec} (hc : c ∈ v.st.classes) (h : c.cur = .radio ∨ c.cur = .waiting) :
    (recomputeDemand v).st.steer.demand = true ∧ (c.tier = 0 → (recomputeDemand v).st.steer.urgent = true) := by
  rw [recomputeDemand_steer]
  exact ⟨(wantsSession_iff _).mpr (Or.inl ⟨c, hc, h⟩), fun h0 => (wantsUrgently_iff _).mpr (Or.inr ⟨c, hc, h0, h⟩)⟩

/-- A class that takes radio makes demand, at tier 0 urgent demand. -/
theorem pass_demand {w : Work} {i : Nat} (hi : i < w.st.classes.length) (h : decideClass w.st (w.st.cls i) = .radio
    ∨ decideClass w.st (w.st.cls i) = .waiting) : (steeringPass w).st.steer.demand = true
    ∧ ((w.st.cls i).tier = 0 → (steeringPass w).st.steer.urgent = true) := by
  obtain ⟨hcur, -, hpolicy⟩ := ClassRec.of_undropped (pass_cls hi)
  rw [takePath_cur] at hcur
  have htier : ((steeringPass w).st.cls i).tier = (w.st.cls i).tier :=
    tier_of_policy (hpolicy.trans (Closed.takePath_policy _ _ (w.st.cls i)))
  have hclasses := (pass_keeps w).classes
  have hlength : i < (steeringPass w).st.classes.length :=
    Nat.lt_of_lt_of_eq hi ((length_of_map_eq _ (pass_classes w)).trans (List.length_map _)).symm
  have hmem : (steeringPass w).st.cls i ∈ (passBody w).st.classes := cls_mem hclasses hlength
  obtain ⟨hdemand, hurgent⟩ := demand_of_class hmem (h.imp hcur.trans hcur.trans)
  rw [steeringPass_eq]
  exact ⟨hdemand, fun h0 => hurgent (htier.trans h0)⟩

theorem steeredWork_latched {m : Word} {w : Work} (h : latched m (classStep w).st) : latched m (releasedWork w).st := by
  have C := closedLatched m
  exact C.releaseStep _ _ (C.handConditions _ (C.flowStep trivial _ _ h))

/-! ## Permission (R81, R82, R143) -/

/-- The stage leaves radio to the tier. -/
theorem stageBlocks_iff (stage : Stage) (hardCap : Bool) (tier : Nat) : stageBlocks stage hardCap tier = false ↔
    (match stage with
      | .normal => True
      | .conserve => tier < 3
      | .reserve => tier < 2
      | .exhausted => if hardCap then tier < 1 else tier < 2) := by
  cases stage with
  | normal => exact iff_of_true rfl trivial
  | conserve => exact decide_eq_false_iff_not.trans Nat.not_le
  | reserve => exact decide_eq_false_iff_not.trans Nat.not_le
  | exhausted =>
    cases hardCap with
    | true => exact decide_eq_false_iff_not.trans Nat.not_le
    | false => exact decide_eq_false_iff_not.trans Nat.not_le

theorem supplyBlocks_iff (supply : Supply) (tier : Nat) (permit : Bool) :
    (supplyBlocks supply tier = false ∧ (supply = .mains ∨ permit = true)) ↔
    (match supply with
      | .mains => True
      | .battery => tier < 3 ∧ permit = true
      | .batteryLow => tier < 2 ∧ permit = true
      | .critical => tier < 1 ∧ permit = true) := by
  unfold supplyBlocks
  cases supply <;> simp

theorem permits_iff (s : State) (c : ClassRec) : s.permits c = true ↔ s.exch.service = .service ∧ c.use ≠ .never
    ∧ s.ru.state ≠ .fault ∧ (c.tier = 0 ∨ (stageBlocks s.allow.stage s.allow.hardCap c.tier = false
      ∧ (supplyBlocks s.sup.state c.tier = false ∧ (s.sup.state = .mains ∨ c.permit = true)))) := by
  unfold State.permits
  simp only [Bool.and_eq_true, Bool.or_eq_true, Bool.not_eq_true', decide_eq_true_iff, and_assoc]

/-! ## A flow follows (R106 to R108, R115) -/

theorem mayPin_iff (s : State) (c : ClassRec) (new : ClassPath) (f : FlowRec) : mayPin s c new f = true ↔
    c.atIdle = true ∧ c.cur = .radio ∧ new = .fibre ∧ f.state = .carried .radio
      ∧ (s.radio.state = .up ∨ s.radio.state = .weak) ∧ s.permits c = true
      ∧ (s.now - f.lastFrame).toNat < c.gap * 1000 ∧ f.longIdle = false := by
  unfold mayPin FlowRec.recent
  simp only [Bool.and_eq_true, Bool.not_eq_true', decide_eq_true_iff, radioUsable_iff, and_assoc]
  exact Iff.rfl

theorem staysPinned_iff (s : State) (c : ClassRec) (new : ClassPath) : staysPinned s c new = true ↔
    c.atIdle = true ∧ new ≠ .radio ∧ (s.radio.state = .up ∨ s.radio.state = .weak) ∧ s.permits c = true := by
  unfold staysPinned
  simp only [Bool.and_eq_true, decide_eq_true_iff, radioUsable_iff, and_assoc]

/-- The fields of a flow that become those of a state: what a change to it makes of last path and moves. -/
structure FlowRec.Follows (f : FlowRec) (n : FlowState) (g : FlowRec) : Prop where
  state : g.state = n
  last : g.last = if n = .carried .fibre ∧ f.state ≠ .carried .fibre then some .fibre
    else if n = .carried .radio ∧ f.state ≠ .carried .radio then some .radio else f.last
  moves : g.moves = if (n = .carried .fibre ∧ f.state ≠ .carried .fibre) ∧ f.last = some .radio
      ∨ (n = .carried .radio ∧ f.state ≠ .carried .radio) ∧ f.last = some .fibre then min (f.moves + 1) 65535 else f.moves

theorem follows_same {f g : FlowRec} (hstate : g.state = f.state) (hlast : g.last = f.last) (hmoves : g.moves = f.moves) :
    f.Follows f.state g where
  state := hstate
  last := by rw [hlast, if_neg (fun h => h.2 h.1), if_neg (fun h => h.2 h.1)]
  moves := by
    rw [hmoves, if_neg]
    rintro (⟨⟨h, hne⟩, -⟩ | ⟨⟨h, hne⟩, -⟩)
    · exact hne h
    · exact hne h

theorem become_follows (f : FlowRec) (p : ClassPath) : f.Follows p.flowState (f.become p.flowState) := by
  by_cases h : f.state = p.flowState
  · have hsame : f.become p.flowState = f := if_pos h
    rw [hsame, ← h]
    exact follows_same rfl rfl rfl
  · have hbecome : f.become p.flowState = match p with
        | .fibre => { f with
            state := .carried .fibre, last := some .fibre,
            moves := if f.last = some .radio then hold16 (f.moves + 1) else f.moves }
        | .radio => { f with
            state := .carried .radio, last := some .radio,
            moves := if f.last = some .fibre then hold16 (f.moves + 1) else f.moves }
        | .waiting => { f with state := .waiting }
        | .blocked => { f with state := .blocked } := by
      unfold FlowRec.become
      rw [if_neg h]
      cases p <;> rfl
    rw [hbecome]
    cases p with
    | fibre => exact ⟨rfl, (if_pos ⟨rfl, h⟩).symm, by simp [ClassPath.flowState, hold16, show f.state ≠ .carried .fibre from h]⟩
    | radio => exact ⟨rfl, by simp [ClassPath.flowState, show f.state ≠ .carried .radio from h],
        by simp [ClassPath.flowState, hold16, show f.state ≠ .carried .radio from h]⟩
    | waiting => exact ⟨rfl, by simp [ClassPath.flowState], by simp [ClassPath.flowState]⟩
    | blocked => exact ⟨rfl, by simp [ClassPath.flowState], by simp [ClassPath.flowState]⟩

/-- A flow pinned before the pass that stays so. -/
def State.staysOn (s : State) (new : ClassPath) (f : FlowRec) : Prop :=
  f.pinned = true ∧ (s.cls f.cls).atIdle = true ∧ new ≠ .radio ∧ (s.radio.state = .up ∨ s.radio.state = .weak)
    ∧ s.permits (s.cls f.cls) = true

/-- A flow on radio that the pass pins. -/
def State.pinsNow (s : State) (new : ClassPath) (f : FlowRec) : Prop :=
  f.pinned = false ∧ (s.cls f.cls).atIdle = true ∧ (s.cls f.cls).cur = .radio ∧ new = .fibre
    ∧ f.state = .carried .radio ∧ (s.radio.state = .up ∨ s.radio.state = .weak) ∧ s.permits (s.cls f.cls) = true
    ∧ (s.now - f.lastFrame).toNat < (s.cls f.cls).gap * 1000 ∧ f.longIdle = false

/-- The flow step for one flow. -/
theorem followClass_follows (s : State) (new : ClassPath) (f : FlowRec) (after : FlowState)
    (hfollows : (f.state ≠ .free ∧ f.state ≠ .expired) ∧ ¬s.staysOn new f ∧ ¬s.pinsNow new f → after = new.flowState)
    (hstays : ¬((f.state ≠ .free ∧ f.state ≠ .expired) ∧ ¬s.staysOn new f ∧ ¬s.pinsNow new f) → after = f.state) :
    f.Follows after (followClass s new f) ∧ ((followClass s new f).pinned = true ↔
      if f.state ≠ .free ∧ f.state ≠ .expired then s.staysOn new f ∨ s.pinsNow new f else f.pinned = true) := by
  have hkeeps : f.Follows f.state f := follows_same rfl rfl rfl
  have hbecome := become_follows f new
  have hpinned : (f.become new.flowState).pinned = f.pinned := by
    unfold FlowRec.become
    split
    · rfl
    · cases new <;> rfl
  unfold followClass
  dsimp only
  by_cases hlive : f.state ≠ .free ∧ f.state ≠ .expired
  · rw [if_pos hlive, if_neg (by rw [(live_iff _).mpr hlive]; decide)]
    cases hp : f.pinned with
    | true =>
      have hnew : ¬s.pinsNow new f := fun h => absurd (hp.symm.trans h.1) (by decide)
      by_cases hstay : staysPinned s (s.cls f.cls) new = true
      · have hon : s.staysOn new f := ⟨hp, (staysPinned_iff ..).mp hstay⟩
        rw [if_pos rfl, if_pos hstay, hstays fun h => h.2.1 hon]
        exact ⟨hkeeps, iff_of_true hp (Or.inl hon)⟩
      · have hoff : ¬s.staysOn new f := fun h => hstay ((staysPinned_iff ..).mpr h.2)
        rw [if_pos rfl, if_neg hstay, hfollows ⟨hlive, hoff, hnew⟩]
        exact ⟨⟨hbecome.state, hbecome.last, hbecome.moves⟩,
          iff_of_false Bool.false_ne_true fun h => h.elim hoff hnew⟩
    | false =>
      have hoff : ¬s.staysOn new f := fun h => absurd (hp.symm.trans h.1) (by decide)
      by_cases hpin : mayPin s (s.cls f.cls) new f = true
      · have hon : s.pinsNow new f := ⟨hp, (mayPin_iff ..).mp hpin⟩
        rw [if_neg Bool.false_ne_true, if_pos hpin, hstays fun h => h.2.2 hon]
        exact ⟨follows_same rfl rfl rfl, iff_of_true rfl (Or.inr hon)⟩
      · have hnew : ¬s.pinsNow new f := fun h => hpin ((mayPin_iff ..).mpr h.2)
        rw [if_neg Bool.false_ne_true, if_neg hpin, hfollows ⟨hlive, hoff, hnew⟩]
        exact ⟨hbecome, iff_of_false (by rw [hpinned, hp]; decide) fun h => h.elim hoff hnew⟩
  · have hdead : f.state.live = false := Bool.eq_false_iff.mpr fun h => hlive ((live_iff _).mp h)
    rw [if_neg hlive, if_pos (by rw [hdead]; rfl), hstays fun h => hlive h.1]
    exact ⟨hkeeps, Iff.rfl⟩

theorem FlowRec.of_uncounted {f g : FlowRec} (h : f.uncounted = g.uncounted) :
    f.state = g.state ∧ f.pinned = g.pinned ∧ f.last = g.last ∧ f.moves = g.moves :=
  ⟨(congrArg FlowRec.state h :), (congrArg FlowRec.pinned h :), (congrArg FlowRec.last h :),
    (congrArg FlowRec.moves h :)⟩

theorem pass_flow {w : Work} {k : Nat} (hk : k < w.st.flows.length) : ((steeringPass w).st.flow k).uncounted
    = (followClass w.st (w.st.decidedCls (w.st.flow k).cls).cur (w.st.flow k)).uncounted :=
  (getD_of_map (pass_flows w) k _).trans (congrArg FlowRec.uncounted
    (getD_map_lt (fun f : FlowRec => followClass w.st (w.st.decidedCls f.cls).cur f) hk _ _))

theorem pass_cur (w : Work) (i : Nat) : ((steeringPass w).st.cls i).cur = (w.st.decidedCls i).cur :=
  (ClassRec.of_undropped (getD_of_map (pass_classes w) i _)).1

/-! ## Held frames and queues (R129) -/

/-- The state by which the pass releases held frames. -/
def State.rebound (s : State) : State := { s with classes := s.decided, flows := s.followed }

theorem pass_binds (w : Work) (x : HeldFrame) : (steeringPass w).st.bindingPath x = w.st.rebound.bindingPath x :=
  bindingPath_congr (cur_of_undropped (pass_classes w)) (course_of_uncounted (pass_flows w)) x

theorem steeredWork_binds (w : Work) (x : HeldFrame) : (steeredWork w).st.bindingPath x = w.st.rebound.bindingPath x := by
  have honly := steeredWork_onlyEv w
  generalize steeredWork w = v at honly
  obtain ⟨e, -, he⟩ := honly
  rw [he]
  rfl

/-- The work in which held frames are released. -/
def leavingWork (w : Work) : Work := (steeredWork w).onFwd fun f => { f with
  held := (steeredWork w).st.fwd.held.filter fun h => !leftWaiting w.st (steeredWork w).st h }

theorem leavingWork_fields (w : Work) : ∃ e held, (leavingWork w).st = { w.st.rebound with
    ev := e, fwd := { w.st.fwd with held := held } } := by
  have honly := steeredWork_onlyEv w
  unfold leavingWork
  generalize steeredWork w = v at honly
  obtain ⟨e, -, he⟩ := honly
  refine ⟨e, v.st.fwd.held.filter fun h => !leftWaiting w.st v.st h, ?_⟩
  show { v.st with fwd := { v.st.fwd with held := v.st.fwd.held.filter fun h => !leftWaiting w.st v.st h } } = _
  rw [he]
  rfl

theorem releasedWork_eq (w : Work) : releasedWork w
    = releaseAll (w.st.fwd.held.filter fun h => leftWaiting w.st (steeredWork w).st h) (leavingWork w) := by
  have hheld : (steeredWork w).st.fwd.held = w.st.fwd.held := by
    have honly := steeredWork_onlyEv w
    generalize steeredWork w = v at honly
    obtain ⟨e, -, he⟩ := honly
    rw [he]
  unfold releasedWork releaseStep
  dsimp only
  rw [hheld]
  unfold leavingWork
  rw [hheld]

/-- The frames that the pass releases. -/
def State.leaving (s : State) : List HeldFrame := s.fwd.held.filter fun h => leftWaiting s s.rebound h

theorem leftWaiting_congr {s t u : State} {x : HeldFrame} (h : t.bindingPath x = u.bindingPath x) :
    leftWaiting s t x = leftWaiting s u x := by
  unfold leftWaiting
  rw [h]

theorem releasedWork_leaving (w : Work) : releasedWork w = releaseAll w.st.leaving (leavingWork w) := by
  have hleaves : (fun h => leftWaiting w.st (steeredWork w).st h) = fun h => leftWaiting w.st w.st.rebound h :=
    funext fun x => leftWaiting_congr (steeredWork_binds w x)
  rw [releasedWork_eq, hleaves]
  rfl

theorem leavingWork_binds (w : Work) (x : HeldFrame) : (leavingWork w).st.bindingPath x = w.st.rebound.bindingPath x := by
  obtain ⟨e, held, hst⟩ := leavingWork_fields w
  rw [hst]
  rfl

theorem pass_drops {w : Work} (h : ∃ x ∈ w.st.leaving, w.st.rebound.bindingPath x = .blocked) :
    latched (bitMask 13) (steeringPass w).st := by
  obtain ⟨x, hx, hblocked⟩ := h
  refine pass_latched ?_
  rw [releasedWork_leaving]
  exact releaseAll_drops ⟨x, hx, (leavingWork_binds w x).trans hblocked⟩

theorem rebound_tier (s : State) (k : Nat) : (s.rebound.cls k).tier = (s.cls k).tier :=
  (congrArg ClassRec.tier (getD_of_map (decided_policy s) k (ClassRec.initial 3 false)) :)

/-- The queue of a port that takes no frame, after the pass. -/
theorem pass_queue {w : Work} {p : Path}
    (hsession : p = .radio → w.st.ru.state = .session → (steeringPass w).st.ru.state = .session) :
    (steeringPass w).st.fwd.queue p = (releasedWork w).st.fwd.queue p := by
  have hkeeps := pass_keeps w
  obtain ⟨-, -, hfwd, hru, -⟩ := passBody_fields w
  have hreleased : (releasedWork w).st.ru = w.st.ru := (ru_of_unreleased (released_rests w) :)
  cases p with
  | fibre => exact hkeeps.fibreQ.trans (congrArg Forwarding.fibreQ hfwd)
  | radio =>
    refine (hkeeps.radioQ fun hs => hsession rfl ?_).trans (congrArg Forwarding.radioQ hfwd)
    exact (congrArg RadioUnit.state (hru.trans hreleased)).symm.trans hs

theorem pass_side {w : Work} {p : Path} (b : Bool) (hready : w.st.portReady p = false)
    (hsession : p = .radio → w.st.ru.state = .session → (steeringPass w).st.ru.state = .session)
    (hb : ((w.st.fwd.queue p).side b).length ≤ 32) :
    ((steeringPass w).st.fwd.queue p).side b
      = ((w.st.fwd.queue p).side b ++ framesFor w.st.rebound p b w.st.leaving).take 32
    ∧ (32 < ((w.st.fwd.queue p).side b).length + (framesFor w.st.rebound p b w.st.leaving).length →
        latched (bitMask 13) (steeringPass w).st) := by
  have hqueue : (leavingWork w).st.fwd.queue p = w.st.fwd.queue p ∧ (leavingWork w).st.portReady p = w.st.portReady p
      ∧ framesFor (leavingWork w).st p b w.st.leaving = framesFor w.st.rebound p b w.st.leaving := by
    obtain ⟨e, held, hst⟩ := leavingWork_fields w
    rw [hst]
    cases p <;> exact ⟨rfl, rfl, rfl⟩
  obtain ⟨hq, hport, hframes⟩ := hqueue
  obtain ⟨hside, hover⟩ := releaseAll_side w.st.leaving b (hport.trans hready) (hq.symm ▸ hb)
  rw [hq, hframes, ← releasedWork_leaving] at hside hover
  exact ⟨(congrArg (TxQueue.side · b) (pass_queue hsession)).trans hside, fun h => pass_latched (hover h)⟩

/-- What a pass makes of held frames. -/
structure PassReleases (s t : State) : Prop where
  binds : ∀ x, t.bindingPath x = s.rebound.bindingPath x
  held : t.fwd.held = s.fwd.held.filter fun h => !leftWaiting s s.rebound h
  drops : (∃ x ∈ s.leaving, s.rebound.bindingPath x = .blocked) → latched (bitMask 13) t
  side : ∀ (p : Path) (b : Bool), s.portReady p = false → (p = .radio → s.ru.state = .session → t.ru.state = .session) →
    ((s.fwd.queue p).side b).length ≤ 32 →
    (t.fwd.queue p).side b = ((s.fwd.queue p).side b ++ framesFor s.rebound p b s.leaving).take 32
    ∧ (32 < ((s.fwd.queue p).side b).length + (framesFor s.rebound p b s.leaving).length → latched (bitMask 13) t)

theorem pass_releases (w : Work) : PassReleases w.st (steeringPass w).st where
  binds := pass_binds w
  held := (pass_held w).trans (List.filter_congr fun x _ => congrArg Bool.not (leftWaiting_congr (steeredWork_binds w x)))
  drops := pass_drops
  side := fun _ b => pass_side b

/-! ## The drill (R160) -/

/-- Where the pass leaves a class or flow on radio or waiting for it. -/
theorem pass_realUse (w : Work) : (releasedWork w).st.realUse = (steeringPass w).st.realUse := by
  obtain ⟨hclasses, hflows, -⟩ := passBody_fields w
  have hkeeps := pass_keeps w
  unfold State.realUse
  rw [hkeeps.classes, hkeeps.flows, hclasses, hflows]

theorem drillStepped_congr {s : State} {b : Bool} {d e : Drill} (hreal : s.realUse = b) (hdrill : s.drill = d)
    (hended : s.drillEnded .aborted .realUse = e) :
    s.drillStepped = if b = true ∧ d.running = true then e else d := by
  unfold State.drillStepped
  rw [hreal, hdrill, hended]

theorem pass_drill (w : Work) : (steeringPass w).st.drill = if (steeringPass w).st.realUse = true
    ∧ w.st.drill.running = true then w.st.drillEnded .aborted .realUse else w.st.drill := by
  obtain ⟨-, -, -, -, hdrill⟩ := passBody_fields w
  have hrest : (releasedWork w).st.drill = w.st.drill
      ∧ (releasedWork w).st.drillEnded .aborted .realUse = w.st.drillEnded .aborted .realUse :=
    drillEnded_of_unreleased (released_rests w) _ _
  exact ((pass_keeps w).drill.trans hdrill).trans (drillStepped_congr (pass_realUse w) hrest.1 hrest.2)

theorem pass_drill_latched {w : Work} (hreal : (steeringPass w).st.realUse = true) (hrun : w.st.drill.running = true) :
    latched (bitMask 11) (steeringPass w).st := by
  have hrest : (releasedWork w).st.drill = w.st.drill := (drillEnded_of_unreleased (released_rests w) .fail .limit).1
  have hstep : latched (bitMask 11) (passBody w).st := by
    rw [passBody_eq]
    exact drillStep_latched ((pass_realUse w).trans hreal) ((congrArg Drill.running hrest).trans hrun)
  rw [steeringPass_eq]
  exact (closedLatched (bitMask 11)).recomputeDemand trivial _ hstep

/-! ## The pass as a whole -/

/-- Settles O53. -/
theorem passDecidesEveryClass : Obligations.PassDecidesEveryClass := by
  unfold Obligations.PassDecidesEveryClass
  refine ⟨fun w i hi => ?classes, fun s c => ?permits, fun w k => ?flows, fun w => ?held, fun w => ?drill⟩
  case classes =>
    intro s c usable ready fits onFibre n last overRadio
    obtain ⟨hcur, hsince, hpolicy⟩ := ClassRec.of_undropped (pass_cls hi)
    rw [takePath_cur] at hcur
    rw [takePath_since] at hsince
    have hn : n = decideClass s c := hcur
    have hdemand := pass_demand hi
    have hmoves := fun h => pass_latched (steeredWork_latched (classStep_latched hi h))
    rw [← hn] at hsince
    refine ⟨fun hs => ?_, fun hs hh => ?_, fun hs hh hp => ?_, fun hs hh hp => ?_, hsince, fun hne => ?_,
      hpolicy.trans (Closed.takePath_policy _ _ c), fun h => hdemand (hn ▸ h)⟩
    · rw [hn]
      exact (if_pos hs).trans (fibreOrBlock_eq s)
    · rw [hn, decideClass_service hs, hh]
      exact decideFree_eq s c fits (fits_iff s c)
    · rw [hn, decideClass_service hs, hh, hp, radioOrWait_eq, fibreOrBlock_eq] <;> rfl
    · rw [hn, decideClass_service hs, hh, hp] <;> rfl
    · exact getLsbD_of_latched (hmoves fun h => hne (hn.trans h)) (by decide)
  case permits =>
    intro byStage bySupply
    rw [permits_iff, stageBlocks_iff, supplyBlocks_iff] <;> exact Iff.rfl
  case flows =>
    intro s t f c hk hcls ready new follow live stays pins after opens
    obtain ⟨hstate, hpinned, hlast, hmoves⟩ := FlowRec.of_uncounted (pass_flow hk)
    have hnew : (s.decidedCls f.cls).cur = new := (pass_cur w f.cls).symm
    have hfollow : follow = new.flowState := by
      unfold follow
      cases new <;> rfl
    rw [show (w.st.decidedCls (w.st.flow k).cls).cur = new from hnew] at hstate hpinned hlast hmoves
    obtain ⟨hfollows, hpins⟩ := followClass_follows s new f after (fun h => (if_pos h).trans hfollow) fun h => if_neg h
    exact ⟨hstate.trans hfollows.state, (Bool.eq_iff_iff.mp hpinned).trans hpins, hlast.trans hfollows.last,
      hmoves.trans hfollows.moves⟩
  case held =>
    have hpass := pass_releases w
    generalize (steeringPass w).st = t at hpass ⊢
    intro s _ bound leaves
    have hbound : ∀ (u : State) (h : HeldFrame), bound u h = u.bindingPath h := by
      intro u h
      unfold bound State.bindingPath
      cases h.flow with
      | none => rfl
      | some i =>
        dsimp only
        cases (u.flow i).state with
        | carried p => cases p <;> rfl
        | free => rfl
        | waiting => rfl
        | blocked => rfl
        | expired => rfl
    have ht : ∀ h, bound t h = s.rebound.bindingPath h := fun h => (hbound t h).trans (hpass.binds h)
    have hleaves : leaves = fun h => leftWaiting s s.rebound h := by
      funext h
      unfold leaves
      rw [hbound, ht]
      rfl
    have hmem : ∀ x, x ∈ s.leaving ↔ x ∈ s.fwd.held ∧ leaves x = true := fun x => by
      rw [hleaves]
      exact List.mem_filter
    refine ⟨?_, fun ⟨x, hx, hleave, hblocked⟩ => ?_, fun p hready hsession => ?_⟩
    · rw [hleaves]
      exact hpass.held
    · exact getLsbD_of_latched (hpass.drops ⟨x, (hmem x).mpr ⟨hx, hleave⟩, (ht x).symm.trans hblocked⟩) (by decide)
    · intro mine
      have hmine : ∀ b, mine b = framesFor s.rebound p b s.leaving := by
        intro b
        unfold mine framesFor State.leaving
        rw [List.filter_filter, hleaves]
        refine congrArg (List.map fun h : HeldFrame => ({ data := h.data, flow := h.flow } : TxFrame))
          (List.filter_congr fun x _ => ?_)
        rw [ht, rebound_tier, Bool.and_assoc, Bool.and_comm]
        cases p <;> rfl
      have hurgent := hpass.side p true hready hsession
      have hnormal := hpass.side p false hready hsession
      rw [hmine, hmine]
      exact ⟨fun h => (hurgent h).1, fun h => (hnormal h).1,
        fun h hover => getLsbD_of_latched ((hurgent h).2 hover) (by decide),
        fun h hover => getLsbD_of_latched ((hnormal h).2 hover) (by decide)⟩
  case drill =>
    have hdrill := pass_drill w
    have hlatch := pass_drill_latched (w := w)
    generalize (steeringPass w).st = t at hdrill hlatch ⊢
    intro s _ used record
    have hused : t.realUse = true ↔ used := by
      unfold State.realUse
      simp only [Bool.or_eq_true, List.any_eq_true, classWants_iff, flowWants_iff]
      exact Iff.rfl
    refine ⟨fun hrun huse => ⟨getLsbD_of_latched (hlatch (hused.mpr huse) hrun) (by decide),
      hdrill.trans (if_pos ⟨hused.mpr huse, hrun⟩)⟩, fun h => hdrill.trans (if_neg ?_)⟩
    rintro ⟨hreal, hrun⟩
    exact h.elim (fun hidle => absurd (hrun.symm.trans hidle) (by decide)) fun hnot => hnot (hused.mp hreal)

end Sys2Proof.Machine
end


section
/-! Outside SESSION, what the radio unit does in an event changes its own record and owes no pass (R56 to R71). -/

namespace Sys2Proof.Machine

/-! ## Steps of the radio unit outside SESSION -/

/-- The condition set as the facts stand, and no session. -/
def Work.Outside (w : Work) : Prop := w.st.condTrue ∧ w.st.ru.state ≠ .session

/-- Steps that change the radio unit alone, owe nothing, and end outside SESSION. -/
structure Work.RuMoves (w v : Work) : Prop where
  st : v.st = { w.st with ru := v.st.ru }
  pass : v.passDue = w.passDue
  demand : v.demandDue = w.demandDue
  session : v.st.ru.state ≠ .session

theorem facts_ru {s : State} {r : RadioUnit} (h : r.state = .session ↔ s.ru.state = .session) :
    ({ s with ru := r } : State).facts = s.facts := by
  have hsession : decide (r.state = .session) = decide (s.ru.state = .session) := decide_eq_decide.mpr h
  unfold State.facts State.factList State.fibreUsable State.radioUsable
  dsimp only
  rw [hsession]

theorem outside_congr {w v : Work} (hst : v.st = { w.st with ru := v.st.ru }) (hv : v.st.ru.state ≠ .session)
    (h : w.Outside) : v.Outside := by
  refine ⟨?_, hv⟩
  have hfacts : v.st.facts = w.st.facts := (congrArg State.facts hst).trans
    (facts_ru ⟨fun hs => absurd hs hv, fun hs => absurd hs h.2⟩)
  have hev : v.st.ev = w.st.ev := (congrArg State.ev hst :)
  unfold State.condTrue
  rw [hfacts, hev]
  exact h.1

theorem Work.RuMoves.outside {w v : Work} (h : w.RuMoves v) (hw : w.Outside) : v.Outside :=
  outside_congr h.st h.session hw

theorem Work.RuMoves.refl {w : Work} (h : w.Outside) : w.RuMoves w := ⟨rfl, rfl, rfl, h.2⟩

theorem Work.RuMoves.trans {w v u : Work} (h : w.RuMoves v) (h' : v.RuMoves u) : w.RuMoves u where
  st := by rw [h'.st, h.st]
  pass := h'.pass.trans h.pass
  demand := h'.demand.trans h.demand
  session := h'.session

theorem onRu_moves {f : RadioUnit → RadioUnit} {w : Work} (h : (f w.st.ru).state ≠ .session) : w.RuMoves (w.onRu f) :=
  ⟨rfl, rfl, rfl, h⟩

/-- A step of the record that keeps the state. -/
theorem onRu_stays {f : RadioUnit → RadioUnit} (hf : ∀ r, (f r).state = r.state) {w : Work} (h : w.Outside) :
    w.RuMoves (w.onRu f) := onRu_moves fun hs => h.2 ((hf w.st.ru).symm.trans hs)

theorem Work.RuMoves.touched {w v : Work} (h : w.RuMoves v) (r : Rec) : w.RuMoves (v.touch r) :=
  ⟨h.st, h.pass, h.demand, h.session⟩

theorem moveTo_moves {n : RadioState} (hn : n ≠ .session) {w : Work} (h : w.Outside) : w.RuMoves (moveTo n w) := by
  have hmove : moveTo n w = handConditions
      ((w.onRu (RadioUnit.enter n w.now)).touchIf (decide (w.st.ru.state ≠ n)) .radioUnit) := by
    unfold moveTo
    dsimp only
    rw [if_neg fun hs => h.2 hs.1]
  have hentered : w.RuMoves ((w.onRu (RadioUnit.enter n w.now)).touchIf (decide (w.st.ru.state ≠ n)) .radioUnit) := by
    unfold Work.touchIf
    split <;> exact ⟨rfl, rfl, rfl, hn⟩
  rw [hmove, handConditions_true (hentered.outside h).1]
  exact hentered

theorem sendRequest_moves (k : Request) {w : Work} (h : w.Outside) : w.RuMoves (sendRequest k w) := ⟨rfl, rfl, rfl, h.2⟩

theorem startTimer_moves (ms : Nat) {w : Work} (h : w.Outside) : w.RuMoves (startTimer ms w) := ⟨rfl, rfl, rfl, h.2⟩

theorem drivePower_moves {w : Work} (h : w.Outside) : w.RuMoves (drivePower w) := by
  unfold drivePower
  split
  · exact .refl h
  · exact ⟨rfl, rfl, rfl, h.2⟩

theorem enterStopping_moves {w : Work} (h : w.Outside) : w.RuMoves (enterStopping w) := by
  have hmove := moveTo_moves (n := .stopping) (by decide) h
  have hout := hmove.outside h
  unfold enterStopping
  dsimp only
  split
  · have hdrive := drivePower_moves hout
    exact hmove.trans (hdrive.trans (startTimer_moves _ (hdrive.outside hout)))
  · exact hmove.trans (moveTo_moves (by decide) hout)

theorem actIdle_moves {w : Work} (h : w.Outside) : w.RuMoves (actIdle w) := by
  have hmove := moveTo_moves (n := .attaching) (by decide) h
  unfold actIdle
  split
  · exact enterStopping_moves h
  · split
    · exact hmove.trans (sendRequest_moves _ (hmove.outside h))
    · exact .refl h

theorem enterIdle_moves {w : Work} (h : w.Outside) : w.RuMoves (enterIdle w) := by
  have hmove := moveTo_moves (n := .idle) (by decide) h
  exact hmove.trans (actIdle_moves (hmove.outside h))

theorem enterPowering_moves {w : Work} (h : w.Outside) : w.RuMoves (enterPowering w) := by
  have hmove := moveTo_moves (n := .powering) (by decide) h
  have hout := hmove.outside h
  unfold enterPowering
  dsimp only
  split
  · exact hmove.trans (enterIdle_moves hout)
  · exact hmove.trans (startTimer_moves _ hout)

theorem actOff_moves {w : Work} (h : w.Outside) : w.RuMoves (actOff w) := by
  have hmove := moveTo_moves (n := .powering) (by decide) h
  have hdrive := drivePower_moves (hmove.outside h)
  unfold actOff
  split
  · exact .refl h
  · split
    · exact enterIdle_moves h
    · exact hmove.trans (hdrive.trans (startTimer_moves _ (hdrive.outside (hmove.outside h))))

theorem enterOff_moves {w : Work} (h : w.Outside) : w.RuMoves (enterOff w) := by
  have hmove := moveTo_moves (n := .off) (by decide) h
  exact hmove.trans (actOff_moves (hmove.outside h))

theorem asks_moves {n : RadioState} (hn : n ≠ .session) (k : Request) {w : Work} (h : w.Outside) :
    w.RuMoves (sendRequest k (moveTo n w)) :=
  (moveTo_moves hn h).trans (sendRequest_moves k ((moveTo_moves hn h).outside h))

theorem actAttached_moves {w : Work} (h : w.Outside) : w.RuMoves (actAttached w) := by
  unfold actAttached
  split
  · exact .refl h
  · split
    · exact asks_moves (by decide) .openSession h
    · exact .refl h
  · split
    · exact asks_moves (by decide) .detach h
    · exact .refl h

theorem enterAttached_moves {w : Work} (h : w.Outside) : w.RuMoves (enterAttached w) := by
  have hmove := moveTo_moves (n := .attached) (by decide) h
  have hresets := onRu_stays (f := fun r => { r with resets := 0 }) (fun _ => rfl) (hmove.outside h)
  exact hmove.trans (hresets.trans (actAttached_moves (hresets.outside (hmove.outside h))))

theorem act_moves {w : Work} (h : w.Outside) : w.RuMoves (act w) := by
  unfold act
  split
  · exact actOff_moves h
  · exact actIdle_moves h
  · exact actAttached_moves h
  · next hs => exact absurd hs h.2
  all_goals exact .refl h

theorem enterBackoff_moves {w : Work} (h : w.Outside) : w.RuMoves (enterBackoff w) := by
  have hmove := moveTo_moves (n := .backoff) (by decide) h
  have hb := onRu_stays (f := fun r => { r with b := min 640 (2 * r.b) }) (fun _ => rfl) (hmove.outside h)
  exact hmove.trans (hb.trans (startTimer_moves _ (hb.outside (hmove.outside h))))

theorem enterResetting_moves {w : Work} (h : w.Outside) : w.RuMoves (enterResetting w) := by
  have hmove := moveTo_moves (n := .resetting) (by decide) h
  have hpulse := fun (now : Time) => onRu_stays (f := fun r => { RadioUnit.pulseMrst now r with
    resets := min 3 (r.resets + 1), attachTimeouts := 0 }) (fun _ => rfl) (hmove.outside h)
  exact hmove.trans (hpulse _)

theorem serveLink_moves {w : Work} (h : w.Outside) : w.RuMoves (serveLink w) := by
  have hact := act_moves h
  have hquery : (act w).RuMoves (sendRequest .signalQuery ((act w).onRu fun r => { r with queryPending := false })) := by
    have hon : (act w).RuMoves ((act w).onRu fun r => { r with queryPending := false }) := onRu_moves (hact.outside h).2
    exact hon.trans (sendRequest_moves _ (hon.outside (hact.outside h)))
  unfold serveLink
  split
  · dsimp only
    split
    · exact hact.trans hquery
    · exact hact
  · exact .refl h

/-! ## Events of the radio unit outside SESSION -/

/-- An event that moves the radio unit outside SESSION changes its record and nothing else. -/
theorem event_ruMoves {f : Work → Work} {s : State} (hcur : s.current) (h : (Work.begin s).RuMoves (f (Work.begin s)))
    (hs : s.ru.state ≠ .session) : (event f s).plain = ({ s with ru := (f (Work.begin s)).st.ru } : State).plain := by
  have hst : (f (Work.begin s)).st = { s with ru := (f (Work.begin s)).st.ru } := h.st
  have hout := h.outside ⟨hcur.2.1, hs⟩
  have hflows : (f (Work.begin s)).st.flows = s.flows := (congrArg State.flows hst :)
  have hirq : (f (Work.begin s)).st.irqTrue := by
    rw [hst]
    exact hcur.2.2
  exact (event_settled f s hcur.1 rfl h.pass h.demand (congrArg (List.map FlowRec.course) hflows) hout.1 hirq).trans
    (congrArg State.plain hst)

end Sys2Proof.Machine
end


section
/-! The timers of the radio unit's states and lines (R53, R58, R63, R64, R65, R66). -/

namespace Sys2Proof.Machine

/-! ## A state with another radio unit -/

theorem kept_of_lasting {s : State} {r : RadioUnit} (h : r.lasting = s.ru.lasting) :
    ({ s with ru := r } : State).kept = s.kept := by
  unfold State.kept
  dsimp only
  rw [h]

theorem keptByModem_of_settings {s : State} {r : RadioUnit} (h : r.settings = s.ru.settings) :
    ({ s with ru := r } : State).keptByModem = s.keptByModem := by
  unfold State.keptByModem State.kept
  dsimp only
  rw [h]

/-- What a state with another radio unit, seen without the update counts, says. -/
theorem fields_of_ruPlain {s t : State} {r : RadioUnit} (h : t.plain = ({ s with ru := r } : State).plain) :
    t.ru = r ∧ t.radio = s.radio ∧ t.grade = s.grade :=
  ⟨(congrArg State.ru h :), (congrArg State.radio h :), (congrArg State.grade h :)⟩

theorem event_ruMoves_kept {g : Work → Work} {s : State} (hcur : s.current) (h : (Work.begin s).RuMoves (g (Work.begin s))) :
    (event g s).kept = ({ s with ru := (g (Work.begin s)).st.ru } : State).kept := by
  have hst : (g (Work.begin s)).st = { s with ru := (g (Work.begin s)).st.ru } := h.st
  rw [event_kept g s hcur.1]
  exact congrArg State.kept hst

theorem event_ruMoves_fields {g : Work → Work} {s : State} (hcur : s.current) (hs : s.ru.state ≠ .session)
    (h : (Work.begin s).RuMoves (g (Work.begin s))) : (event g s).ru = (g (Work.begin s)).st.ru ∧ (event g s).radio = s.radio
    ∧ (event g s).grade = s.grade := fields_of_ruPlain (event_ruMoves hcur h hs)

theorem begin_outside {s : State} (hcur : s.current) (hs : s.ru.state ≠ .session) : (Work.begin s).Outside := ⟨hcur.2.1, hs⟩

/-! ## What the entries keep of the unit's record -/

theorem enter_lasting (n : RadioState) (now : Time) (r : RadioUnit) : (r.enter n now).lasting = r.lasting := rfl

theorem drive_lasting (now : Time) (r : RadioUnit) :
    (r.drive now).lasting = r.lasting ∧ (r.drive now).mrst = r.mrst := by
  unfold RadioUnit.drive
  split <;> exact ⟨rfl, rfl⟩

theorem toStopping_lasting (now : Time) (r : RadioUnit) :
    (r.toStopping now).lasting = r.lasting ∧ (r.toStopping now).mrst.ends = r.mrst.ends := by
  unfold RadioUnit.toStopping
  split
  · obtain ⟨hlasting, hmrst⟩ := drive_lasting now (r.enter .stopping now)
    exact ⟨hlasting, (congrArg Pulse.ends hmrst :)⟩
  · exact ⟨rfl, rfl⟩

theorem toIdle_lasting (now : Time) (r : RadioUnit) :
    (r.toIdle now).lasting = r.lasting ∧ (r.toIdle now).mrst.ends = r.mrst.ends := by
  unfold RadioUnit.toIdle RadioUnit.actsIdle
  split
  · exact toStopping_lasting now (r.enter .idle now)
  · split <;> exact ⟨rfl, rfl⟩

/-- A unit that agrees with this one in what an entry into IDLE reads. -/
structure RadioUnit.SameLink (r q : RadioUnit) : Prop where
  target : q.target = r.target
  ready : q.ready = r.ready
  stale : staleOf q.outstanding = staleOf r.outstanding
  attaches : q.attaches = r.attaches
  timeout : q.attachTimeout = r.attachTimeout

theorem staleOf_none {o : Option Outstanding} : staleOf o = none ↔ o = none := by
  cases o <;> simp [staleOf]

theorem RadioUnit.SameLink.entersIdle {s t : State} {q : RadioUnit} (h : s.ru.SameLink q) (hradio : t.radio = s.radio)
    (ht : t.ru = q.toIdle s.now) : s.entersIdle t := by
  obtain ⟨hoff, hheld, hfree⟩ := toIdle_fields s.now q
  have hnone : q.outstanding = none ↔ s.ru.outstanding = none := by
    rw [← staleOf_none, h.stale, staleOf_none]
  rw [h.target, h.ready, h.stale, h.attaches, ← ht] at hoff
  have hsome : q.outstanding ≠ none ↔ s.ru.outstanding ≠ none := not_congr hnone
  rw [h.target, h.stale, h.attaches, ← ht, hsome] at hheld
  rw [h.target, hnone, h.attaches, h.timeout, ← ht] at hfree
  exact ⟨hradio, hoff, hheld, hfree⟩

theorem sameLink_enter (n : RadioState) (now : Time) (r : RadioUnit) : r.SameLink (r.enter n now) :=
  ⟨rfl, rfl, staleOf_staleOf _, rfl, rfl⟩

/-- A unit that enters POWERING with READY inactive waits for it (R58). -/
theorem toPowering_waits {now : Time} {r : RadioUnit} (h : r.ready = false) :
    r.toPowering now = (r.enter .powering now).timed now Config.readyWaitMs :=
  if_neg (by rw [h]; decide)

theorem toPowering_idle {now : Time} {r : RadioUnit} (h : r.ready = true) :
    r.toPowering now = (r.enter .powering now).toIdle now := if_pos h

theorem toOff_rests {now : Time} {r : RadioUnit} (h : r.target = .off) : r.toOff now = r.enter .off now := if_pos h

theorem toOff_idle {now : Time} {r : RadioUnit} (h : r.target ≠ .off) (hr : r.ready = true) :
    r.toOff now = (r.enter .off now).toIdle now := by
  unfold RadioUnit.toOff RadioUnit.actsOff
  rw [if_neg (show ¬(r.enter .off now).target = .off from h), if_pos (show (r.enter .off now).ready = true from hr)]

theorem toOff_powers {now : Time} {r : RadioUnit} (h : r.target ≠ .off) (hr : r.ready = false) :
    r.toOff now = ((((r.enter .off now).enter .powering now).drive now).timed now Config.readyWaitMs) := by
  unfold RadioUnit.toOff RadioUnit.actsOff
  rw [if_neg (show ¬(r.enter .off now).target = .off from h),
    if_neg (show ¬(r.enter .off now).ready = true from by rw [show (r.enter .off now).ready = r.ready from rfl, hr]; decide)]

/-- A unit that powers up from OFF with READY inactive waits for it (R58). -/
theorem powers_fields (now : Time) (r : RadioUnit) :
    let q := (((r.enter .off now).enter .powering now).drive now).timed now Config.readyWaitMs
    q.state = .powering ∧ q.stateDue = some (now + 30000) ∧ q.outstanding = staleOf r.outstanding
      ∧ q.attaches = r.attaches ∧ q.lasting = r.lasting ∧ q.mrst.ends = r.mrst.ends := by
  obtain ⟨hstate, hout, hattaches⟩ := drive_keeps now ((r.enter .off now).enter .powering now)
  obtain ⟨hlasting, hmrst⟩ := drive_lasting now ((r.enter .off now).enter .powering now)
  exact ⟨hstate, rfl, hout.trans (staleOf_staleOf _), hattaches, hlasting, (congrArg Pulse.ends hmrst :)⟩

/-! ## POWERING_TIMEOUT, STOPPING_TIMEOUT, BACKOFF_EXPIRY (R58, R63, R64) -/

theorem timerDue_of {s : State} {n : RadioState} (hstate : s.ru.state = n) (hdue : expired s.now s.ru.stateDue = true) :
    s.ru.timerDue n s.now = true := by
  unfold RadioUnit.timerDue
  rw [decide_eq_true hstate, hdue]
  rfl

theorem exec_poweringTimeout {s : State} (hstate : s.ru.state = .powering) (hdue : expired s.now s.ru.stateDue = true) :
    exec .poweringTimeout s = .next (event enterResetting s) := by
  show execPoweringTimeout s = _
  unfold execPoweringTimeout
  rw [if_pos (timerDue_of hstate hdue)]

theorem exec_stoppingTimeout {s : State} (hstate : s.ru.state = .stopping) (hdue : expired s.now s.ru.stateDue = true) :
    exec .stoppingTimeout s = .next (event stoppingTimedOut s) := by
  show execStoppingTimeout s = _
  unfold execStoppingTimeout
  rw [if_pos (timerDue_of hstate hdue)]

theorem exec_backoffExpiry {s : State} (hstate : s.ru.state = .backoff) (hdue : expired s.now s.ru.stateDue = true) :
    exec .backoffExpiry s = .next (event enterIdle s) := by
  show execBackoffExpiry s = _
  unfold execBackoffExpiry
  rw [if_pos (timerDue_of hstate hdue)]

theorem request_isSome (now : Time) (width : Nat) (p : Pulse) : (p.request now width).ends.isSome = true := by
  unfold Pulse.request
  split
  · rfl
  · next h => exact (congrArg Option.isSome h).trans rfl

theorem toResetting_fields (now : Time) (r : RadioUnit) : (r.toResetting now).state = .resetting
    ∧ (r.toResetting now).resets = min 3 (r.resets + 1) ∧ (r.toResetting now).attachTimeouts = 0
    ∧ (r.toResetting now).mrst.ends.isSome = true ∧ (r.toResetting now).settings = r.settings :=
  ⟨rfl, rfl, rfl, request_isSome _ _ _, rfl⟩

theorem event_resets {s : State} (hcur : s.current) (hs : s.ru.state ≠ .session) :
    let t := event enterResetting s
    t.ru.state = .resetting ∧ t.ru.resets = min 3 (s.ru.resets + 1) ∧ t.ru.attachTimeouts = 0
      ∧ t.ru.mrst.ends.isSome = true ∧ t.keptByModem = s.keptByModem ∧ t.radio = s.radio ∧ t.grade = s.grade := by
  have hmoves := enterResetting_moves (begin_outside hcur hs)
  obtain ⟨hru, hradio, hgrade⟩ := event_ruMoves_fields hcur hs hmoves
  obtain ⟨hstate, hresets, htimeouts, hmrst, hsettings⟩ := toResetting_fields s.now s.ru
  have hunit : (event enterResetting s).ru = s.ru.toResetting s.now := hru.trans (enterResetting_ru _)
  refine ⟨?_, ?_, ?_, ?_, ?_, hradio, hgrade⟩
  · rw [hunit, hstate]
  · rw [hunit, hresets]
  · rw [hunit, htimeouts]
  · rw [hunit, hmrst]
  · refine event_keptByModem enterResetting s ?_
    rw [show (enterResetting (Work.begin s)).st = _ from hmoves.st]
    exact keptByModem_of_settings ((congrArg RadioUnit.settings (enterResetting_ru (Work.begin s))).trans hsettings)

/-- An event that enters IDLE from another state than SESSION (R59). -/
theorem event_idles {s : State} (hcur : s.current) (hs : s.ru.state ≠ .session) :
    (event enterIdle s).kept = s.kept ∧ s.entersIdle (event enterIdle s) := by
  have hmoves := enterIdle_moves (begin_outside hcur hs)
  obtain ⟨hru, hradio, -⟩ := event_ruMoves_fields hcur hs hmoves
  have hunit : (event enterIdle s).ru = s.ru.toIdle s.now := hru.trans (enterIdle_ru _)
  have hlasting : (enterIdle (Work.begin s)).st.ru.lasting = s.ru.lasting :=
    (congrArg RadioUnit.lasting (enterIdle_ru _)).trans (toIdle_lasting s.now s.ru).1
  have hsame : s.ru.SameLink s.ru := ⟨rfl, rfl, rfl, rfl, rfl⟩
  exact ⟨(event_ruMoves_kept hcur hmoves).trans (kept_of_lasting hlasting), hsame.entersIdle hradio hunit⟩

theorem event_stoppingTimedOut {s : State} (hcur : s.current) (hstate : s.ru.state = .stopping) :
    (event stoppingTimedOut s).plain = ({ s with ru := { s.ru.pulseMrst s.now with stateDue := none } } : State).plain := by
  have hne : s.ru.state ≠ .session := by rw [hstate]; decide
  exact event_ruMoves hcur (onRu_stays (f := fun r => { r.pulseMrst s.now with stateDue := none }) (fun _ => rfl)
    (begin_outside hcur hne)) hne

/-! ## PULSE_END (R53) -/

theorem exec_pulseEnd {line : PulseLine} {s : State} (h : expired s.now (s.ru.pulse line).ends = true) :
    exec (.pulseEnd line) s = .next (event (pulseEnds line) s) := by
  show execPulseEnd line s = _
  unfold execPulseEnd
  rw [if_pos h]

theorem pulse_finish (now : Time) (width : Nat) (p : Pulse) : p.finish now width =
    { ends := if p.waiting then some (now + BitVec.ofNat 32 width) else none, waiting := false } := by
  unfold Pulse.finish
  split <;> rfl

theorem finish_unwaited {now : Time} {width : Nat} {p : Pulse} (h : p.waiting = false) : p.finish now width = Pulse.idle :=
  if_neg (by rw [h]; decide)

end Sys2Proof.Machine
end


section
/-! The entry into FAULT and the passes after it (R66, R95, R158); the ends of the modem's timers (R53, R58, R63 to R66). -/

namespace Sys2Proof.Machine

/-! ## FAULT stands through the passes -/

/-- What the steps of a pass before demand is recomputed, and demand recomputed, each keep, passes keep. -/
theorem runPasses_invariant {P : State → Prop} (L : Linkless (fun _ => True) P)
    (hdemand : ∀ w : Work, P w.st → P (recomputeDemand w).st) (n : Nat) {w : Work} (h : P w.st) : P (runPasses n w).st := by
  induction n generalizing w with
  | zero => exact h
  | succ n ih =>
    unfold runPasses
    split
    · refine ih ?_
      rw [steeringPass_eq]
      exact hdemand _ (L.passBody { w with passDue := false, demandDue := false } (fun _ _ _ _ => trivial) h)
    · split
      · exact ih (hdemand { w with demandDue := false } h)
      · exact h

theorem event_invariant {P : State → Prop} (L : Linkless (fun _ => True) P)
    (hdemand : ∀ w : Work, P w.st → P (recomputeDemand w).st) {g : Work → Work} {s : State}
    (hs : s.exch.service ≠ .init) (h : P (g (Work.begin s)).st) : P (event g s) := by
  have hpasses : ∀ v : Work, P v.st → P (passes v).st := fun v hv => runPasses_invariant L hdemand _ hv
  unfold event
  rw [if_neg hs]
  exact L.finish s _ (hpasses _ h)

/-- A property of the radio unit's record alone is none of a pass before demand is recomputed. -/
theorem linkless_unit (P : RadioUnit → Prop) : Linkless (fun _ => True) fun s => P s.ru where
  classes := fun _ _ h => h
  flows := fun _ _ h => h
  allow := fun _ _ h => h
  drill := fun _ _ h => h
  ev := fun _ _ _ h => h
  counts := fun _ _ h => h
  flowChanges := fun _ _ h => h
  fwd := fun _ _ _ h => h

theorem recomputeDemand_fault {w : Work} (h : w.st.ru.state = .fault) : (recomputeDemand w).st.ru.state = .fault := by
  have hseen : (demandSeen w).st.ru.state = .fault := by
    obtain ⟨a, b, hunit⟩ := demandSeen_unit w
    rw [hunit]
    exact h
  have hset : (setTarget (demandSeen w)).st.ru.state = .fault := hseen
  have hact : act (setTarget (demandSeen w)) = setTarget (demandSeen w) := by
    unfold act
    rw [hset]
  rw [recomputeDemand_eq]
  unfold urgencySees
  rw [if_neg (by rw [hseen]; simp)]
  unfold recomputeTarget
  dsimp only
  rw [if_neg (by rw [hset]; decide), hact]
  exact hset

/-- An event whose own changes lead to FAULT ends there, with the radio path as they leave it. -/
theorem event_faulted {g : Work → Work} {s : State} (hs : s.exch.service ≠ .init)
    (h : (g (Work.begin s)).st.ru.state = .fault) : (event g s).ru.state = .fault
      ∧ (event g s).radio = (g (Work.begin s)).st.radio ∧ (event g s).hold = (g (Work.begin s)).st.hold := by
  have hnone : ¬(g (Work.begin s)).st.closes (event g s) := fun hc => absurd (h.symm.trans hc.1) (by decide)
  exact ⟨event_invariant (linkless_unit fun r => r.state = .fault) (fun _ hw => recomputeDemand_fault hw) hs h,
    (event_linkGoes hs).stays hnone⟩

/-! ## Entry into FAULT (R66, R95, R158) -/

/-- The unit in FAULT, with its lines inactive. -/
def RadioUnit.toFault (now : Time) (r : RadioUnit) : RadioUnit :=
  { r.enter .fault now with pwr := Pulse.idle, mrst := Pulse.idle }

/-- The hold after a RADIO hold has broken at FAULT (R95). -/
def State.holdAtFault (s : State) : Hold := if s.hold.path = some .radio then s.hold.ended .broken s.now else s.hold

/-- The drill unit after a running drill has failed at FAULT (R158). -/
def State.drillAtFault (s : State) : Drill :=
  if s.drill.running then { s with ru := { s.ru with state := .fault } }.drillEnded .fail .radioFault else s.drill

theorem breakRadioHold_onlyEv {w : Work} {s : State} (h : s.OnlyEv w.st) :
    ({ s with hold := s.holdAtFault } : State).OnlyEv (breakRadioHold w).st := by
  obtain ⟨e, he, hst⟩ := h
  have hhold : w.st.hold = s.hold ∧ w.now = s.now := by
    unfold Work.now
    rw [hst]
    exact ⟨rfl, rfl⟩
  unfold breakRadioHold State.holdAtFault
  rw [hhold.1]
  split
  · obtain ⟨e', he', hst'⟩ := endHold_onlyEv .broken w
    refine ⟨e', he'.trans ((congrArg (fun u : State => u.ev.settings) hst).trans he), hst'.trans ?_⟩
    rw [hhold.1, hhold.2, hst]
  · exact ⟨e, he, hst⟩

theorem failDrill_onlyEv {w : Work} {r : RadioUnit} {s : State} (h : ({ s with ru := r } : State).OnlyEv w.st)
    (hr : r.state = .fault) (ha : r.attaches = s.ru.attaches) :
    ({ s with ru := r, drill := s.drillAtFault } : State).OnlyEv (endDrill .fail .radioFault w).st := by
  obtain ⟨e, he, hst⟩ := h
  unfold State.drillAtFault
  cases hrun : s.drill.running with
  | false =>
    have hidle : w.st.drill.running = false := by rw [hst]; exact hrun
    rw [endDrill_idle _ _ _ hidle]
    exact ⟨e, he, hst⟩
  | true =>
    obtain ⟨e', he', hst'⟩ := endDrill_onlyEv .fail .radioFault w (by rw [hst]; exact hrun)
    have hended : w.st.drillEnded .fail .radioFault
        = ({ s with ru := { s.ru with state := .fault } } : State).drillEnded .fail .radioFault := by
      rw [hst]
      unfold State.drillEnded
      dsimp only
      rw [hr, ha]
      rfl
    refine ⟨e', he'.trans ((congrArg (fun u : State => u.ev.settings) hst).trans he), hst'.trans ?_⟩
    rw [hended, hst]
    rfl

theorem breakRadioHold_latched {m : Word} {w : Work} (h : latched m w.st) : latched m (breakRadioHold w).st := by
  unfold breakRadioHold
  split
  · exact (closedLatched m).endHold .broken w (Or.inl trivial) h
  · exact h

/-- What the entry into FAULT makes of a state outside SESSION. -/
def State.faulted (s : State) : State :=
  { s with ru := s.ru.toFault s.now, drill := s.drillAtFault, hold := s.holdAtFault }

/-- The unit's own part of the entry, before drill and hold see it. -/
def linesDropped (w : Work) : Work :=
  latch Bit.radioFault ((moveTo .fault w).onRu fun r => { r with pwr := Pulse.idle, mrst := Pulse.idle })

theorem enterFault_eq (w : Work) :
    enterFault w = (breakRadioHold (endDrill .fail .radioFault (linesDropped w))).owePass := rfl

theorem Work.RuMoves.latched {w v : Work} (h : w.RuMoves v) {r : RadioUnit} (hr : v.st.ru = r) (i : Nat) :
    ({ w.st with ru := r } : State).OnlyEv (latch i v).st := by
  rw [← hr, ← h.st]
  exact latch_onlyEv i v

theorem linesDropped_onlyEv {w : Work} (h : w.Outside) :
    ({ w.st with ru := w.st.ru.toFault w.now } : State).OnlyEv (linesDropped w).st := by
  have hmove := moveTo_moves (n := .fault) (by decide) h
  have hmoves := hmove.trans (onRu_stays (f := fun r => { r with pwr := Pulse.idle, mrst := Pulse.idle }) (fun _ => rfl)
    (hmove.outside h))
  refine hmoves.latched ?_ Bit.radioFault
  rw [onRu_ru, moveTo_ru]
  rfl

theorem enterFault_onlyEv {w : Work} (h : w.Outside) : w.st.faulted.OnlyEv (enterFault w).st := by
  rw [enterFault_eq, owePass_st]
  exact breakRadioHold_onlyEv (failDrill_onlyEv (linesDropped_onlyEv h) rfl rfl)

theorem enterFault_latched {w : Work} : latched (bitMask 9) (enterFault w).st
    ∧ ((linesDropped w).st.drill.running = true → latched (bitMask 11) (enterFault w).st)
    ∧ ((endDrill .fail .radioFault (linesDropped w)).st.hold.path = some .radio →
        (endDrill .fail .radioFault (linesDropped w)).st.hold.active = true → latched (bitMask 10) (enterFault w).st) := by
  have hdropped : latched (bitMask 9) (linesDropped w).st := latch_latched 9 _
  have hdrill := (closedLatched (bitMask 9)).endDrill .fail .radioFault (linesDropped w) hdropped
  rw [enterFault_eq, owePass_st]
  refine ⟨breakRadioHold_latched hdrill, fun hrun => breakRadioHold_latched (endDrill_latched hrun), fun hp ha => ?_⟩
  unfold breakRadioHold
  rw [if_pos hp]
  exact endHold_latched ha rfl

/-- The entry into FAULT latches what it ends. -/
theorem enterFault_ends {w : Work} (h : w.Outside) : latched (bitMask 9) (enterFault w).st
    ∧ (w.st.drill.running = true → latched (bitMask 11) (enterFault w).st)
    ∧ (w.st.hold.active = true → w.st.hold.path = some .radio → latched (bitMask 10) (enterFault w).st) := by
  obtain ⟨hfault, hdrill, hhold⟩ := enterFault_latched (w := w)
  have hdropped := linesDropped_onlyEv h
  have hfailed := failDrill_onlyEv hdropped rfl rfl
  rw [hdropped.drill] at hdrill
  rw [hfailed.hold] at hhold
  exact ⟨hfault, hdrill, fun ha hp => hhold hp ha⟩

theorem State.OnlyEv.keptByModem {s t : State} (h : s.OnlyEv t) : t.keptByModem = s.keptByModem :=
  keptByModem_of_kept h.kept

theorem faulted_kept (s : State) : s.faulted.keptByModem = s.keptByModem := by
  have hdrill : s.drillAtFault.settings = s.drill.settings := by
    unfold State.drillAtFault
    split <;> rfl
  have hhold : s.holdAtFault.settings = s.hold.settings := by
    unfold State.holdAtFault
    split
    · exact ended_settings _ _ _
    · rfl
  unfold State.keptByModem State.kept State.faulted
  dsimp only
  rw [hdrill, hhold]
  rfl

theorem holdAtFault_eq (s : State) : s.holdAtFault = if s.hold.active = true ∧ s.hold.path = some .radio then
    { s.hold with active := false, stop := s.now, reason := .broken } else s.hold := by
  unfold State.holdAtFault Hold.ended
  cases s.hold.active <;> by_cases hp : s.hold.path = some .radio <;> simp [hp]

/-! ## The end of the MRST pulse (R53, R63, R65) -/

/-- The unit after its MRST pulse has ended, or the one that waited has started. -/
def RadioUnit.mrstEnded (now : Time) (r : RadioUnit) : RadioUnit := { r with mrst := r.mrst.finish now r.lines.mrstWidth }

/-- The work after the end of the MRST pulse, before a state that waited for it moves on. -/
def lineEnded (w : Work) : Work := (w.onRu (RadioUnit.mrstEnded w.now)).touch .radioUnit

theorem lineEnded_moves {w : Work} (h : w.Outside) : w.RuMoves (lineEnded w) :=
  (onRu_stays (f := RadioUnit.mrstEnded w.now) (fun _ => rfl) h).touched .radioUnit

theorem mrstPulseEnds_waiting {w : Work} (h : w.st.ru.mrst.waiting = true) : mrstPulseEnds w = lineEnded w := if_pos h

theorem mrstPulseEnds_ended {w : Work} (h : w.st.ru.mrst.waiting = false) :
    mrstPulseEnds w = resetPulseEnded (lineEnded w) := if_neg (by rw [h]; decide)

theorem resetPulseEnded_rests {w : Work}
    (h : w.st.ru.state ≠ .resetting ∧ ¬(w.st.ru.state = .stopping ∧ w.st.ru.stateDue = none)) : resetPulseEnded w = w := by
  unfold resetPulseEnded
  split
  · next hs => exact absurd hs h.1
  · next hs => exact if_neg fun hn => h.2 ⟨hs, Option.isNone_iff_eq_none.mp hn⟩
  all_goals rfl

theorem resetPulseEnded_off {w : Work} (h : w.st.ru.state = .stopping) (hd : w.st.ru.stateDue = none) :
    resetPulseEnded w = enterOff w := by
  unfold resetPulseEnded
  rw [h]
  exact if_pos (by rw [hd]; rfl)

theorem resetPulseEnded_powering {w : Work} (h : w.st.ru.state = .resetting) (hr : w.st.ru.resets < 3) :
    resetPulseEnded w = enterPowering w := by
  unfold resetPulseEnded
  rw [h]
  exact if_pos hr

theorem resetPulseEnded_fault {w : Work} (h : w.st.ru.state = .resetting) (hr : w.st.ru.resets = 3) :
    resetPulseEnded w = enterFault w := by
  unfold resetPulseEnded
  rw [h]
  exact if_neg (by omega)

/-- An entry outside SESSION that the end of the MRST pulse leads to, as an event (R63, R65). -/
theorem event_mrst {s : State} {g : Work → Work} {q : RadioUnit} (hcur : s.current) (hw : s.ru.mrst.waiting = false)
    (hs : s.ru.state ≠ .session) (hg : resetPulseEnded (lineEnded (Work.begin s)) = g (lineEnded (Work.begin s)))
    (hmoves : ∀ w : Work, w.Outside → w.RuMoves (g w)) (hru : (g (lineEnded (Work.begin s))).st.ru = q)
    (hlasting : q.lasting = s.ru.lasting) : (event (pulseEnds .mrst) s).ru = q
      ∧ (event (pulseEnds .mrst) s).radio = s.radio ∧ (event (pulseEnds .mrst) s).kept = s.kept := by
  have heq : pulseEnds .mrst (Work.begin s) = g (lineEnded (Work.begin s)) := (mrstPulseEnds_ended hw).trans hg
  have hline := lineEnded_moves (begin_outside hcur hs)
  have hall : (Work.begin s).RuMoves (pulseEnds .mrst (Work.begin s)) := by
    rw [heq]
    exact hline.trans (hmoves _ (hline.outside (begin_outside hcur hs)))
  obtain ⟨hunit, hradio, -⟩ := event_ruMoves_fields hcur hs hall
  refine ⟨hunit.trans ((congrArg (fun w : Work => w.st.ru) heq).trans hru), hradio,
    (event_ruMoves_kept hcur hall).trans (kept_of_lasting ?_)⟩
  rw [heq, hru, hlasting]

theorem mrstEnded_idle {r : RadioUnit} (h : r.mrst.waiting = false) (now : Time) : (r.mrstEnded now).mrst.ends = none :=
  congrArg Pulse.ends (finish_unwaited h)

theorem sameLink_mrst (n : RadioState) (now : Time) (r : RadioUnit) : r.SameLink ((r.mrstEnded now).enter n now) :=
  ⟨rfl, rfl, staleOf_staleOf _, rfl, rfl⟩

theorem event_mrst_waits {s : State} (hcur : s.current) (h : s.ru.mrst.waiting = true ∨ (s.ru.state ≠ .resetting
    ∧ ¬(s.ru.state = .stopping ∧ s.ru.stateDue = none))) :
    (event (pulseEnds .mrst) s).plain = ({ s with ru := s.ru.mrstEnded s.now } : State).plain := by
  have heq : pulseEnds .mrst (Work.begin s) = lineEnded (Work.begin s) := by
    cases hw : s.ru.mrst.waiting with
    | true => exact mrstPulseEnds_waiting hw
    | false =>
      refine (mrstPulseEnds_ended hw).trans (resetPulseEnded_rests ?_)
      exact h.resolve_left (by rw [hw]; decide)
  exact (event_settled (pulseEnds .mrst) s hcur.1 heq rfl rfl rfl (hcur.2.1.trans (facts_ru Iff.rfl).symm) hcur.2.2)

theorem event_pwr {s : State} (hcur : s.current) : (event (pulseEnds .pwr) s).plain
    = ({ s with ru := { s.ru with pwr := s.ru.pwr.finish s.now s.ru.lines.pwrWidth } } : State).plain :=
  event_settled (v := pwrPulseEnds (Work.begin s)) (pulseEnds .pwr) s hcur.1 rfl rfl rfl rfl
    (hcur.2.1.trans (facts_ru Iff.rfl).symm) hcur.2.2

/-- OFF left again, after the modem has been switched off for a target that asks for it (R58, R63). -/
theorem mrst_stopping {s : State} (hcur : s.current) (hw : s.ru.mrst.waiting = false) (hstate : s.ru.state = .stopping)
    (hdue : s.ru.stateDue = none) :
    (s.ru.target ≠ .off → (event (pulseEnds .mrst) s).ru.mrst.ends = none ∧ (event (pulseEnds .mrst) s).kept = s.kept
      ∧ (s.ru.ready = true → s.entersIdle (event (pulseEnds .mrst) s))
      ∧ (s.ru.ready = false → (event (pulseEnds .mrst) s).ru.state = .powering
          ∧ (event (pulseEnds .mrst) s).ru.stateDue = some (s.now + 30000)))
    ∧ (s.ru.target = .off → (event (pulseEnds .mrst) s).ru.state = .off ∧ (event (pulseEnds .mrst) s).ru.mrst.ends = none
      ∧ (event (pulseEnds .mrst) s).kept = s.kept) := by
  have hs : s.ru.state ≠ .session := by rw [hstate]; decide
  have hidle := mrstEnded_idle hw s.now
  have hgoes := fun (q : RadioUnit) (hq : (s.ru.mrstEnded s.now).toOff s.now = q) =>
    event_mrst (q := q) hcur hw hs (resetPulseEnded_off hstate hdue) (fun _ => enterOff_moves)
      ((enterOff_ru _).trans hq)
  refine ⟨fun htarget => ?_, fun htarget => ?_⟩
  · cases hready : s.ru.ready with
    | true =>
      obtain ⟨hlasting, hends⟩ := toIdle_lasting s.now ((s.ru.mrstEnded s.now).enter .off s.now)
      obtain ⟨hru, hradio, hkept⟩ := hgoes _ (toOff_idle htarget hready) hlasting
      refine ⟨?_, hkept, fun _ => (sameLink_mrst .off s.now s.ru).entersIdle hradio hru, nofun⟩
      rw [hru, hends]
      exact hidle
    | false =>
      obtain ⟨hpowers, htimer, -, -, hlasting, hends⟩ := powers_fields s.now (s.ru.mrstEnded s.now)
      obtain ⟨hru, -, hkept⟩ := hgoes _ (toOff_powers htarget hready) hlasting
      refine ⟨?_, hkept, nofun, fun _ => ⟨?_, ?_⟩⟩
      · rw [hru, hends]
        exact hidle
      · rw [hru, hpowers]
      · rw [hru, htimer]
  · obtain ⟨hru, -, hkept⟩ := hgoes _ (toOff_rests htarget) rfl
    refine ⟨?_, ?_, hkept⟩
    · rw [hru]
      rfl
    · rw [hru]
      exact hidle

theorem mrst_resetting {s : State} (hcur : s.current) (hw : s.ru.mrst.waiting = false) (hstate : s.ru.state = .resetting)
    (hresets : s.ru.resets < 3) :
    (s.ru.ready = true → (event (pulseEnds .mrst) s).ru.mrst.ends = none ∧ (event (pulseEnds .mrst) s).kept = s.kept
      ∧ s.entersIdle (event (pulseEnds .mrst) s))
    ∧ (s.ru.ready = false → (event (pulseEnds .mrst) s).ru.state = .powering
      ∧ (event (pulseEnds .mrst) s).ru.stateDue = some (s.now + 30000)
      ∧ (event (pulseEnds .mrst) s).ru.mrst.ends = none ∧ (event (pulseEnds .mrst) s).kept = s.kept) := by
  have hs : s.ru.state ≠ .session := by rw [hstate]; decide
  have hidle := mrstEnded_idle hw s.now
  have hgoes := fun (q : RadioUnit) (hq : (s.ru.mrstEnded s.now).toPowering s.now = q) =>
    event_mrst (q := q) hcur hw hs (resetPulseEnded_powering hstate hresets) (fun _ => enterPowering_moves)
      ((enterPowering_ru _).trans hq)
  refine ⟨fun hready => ?_, fun hready => ?_⟩
  · obtain ⟨hlasting, hends⟩ := toIdle_lasting s.now ((s.ru.mrstEnded s.now).enter .powering s.now)
    obtain ⟨hru, hradio, hkept⟩ := hgoes _ (toPowering_idle hready) hlasting
    refine ⟨?_, hkept, (sameLink_mrst .powering s.now s.ru).entersIdle hradio hru⟩
    rw [hru, hends]
    exact hidle
  · obtain ⟨hru, -, hkept⟩ := hgoes _ (toPowering_waits hready) rfl
    refine ⟨?_, ?_, ?_, hkept⟩
    · rw [hru]
      rfl
    · rw [hru]
      rfl
    · rw [hru]
      exact hidle

theorem request_waits {p : Pulse} (h : p.ends ≠ none) (now : Time) (width : Nat) :
    p.request now width = { p with waiting := true } := by
  obtain ⟨x, hx⟩ := Option.ne_none_iff_exists'.mp h
  unfold Pulse.request
  rw [hx]

theorem request_starts {p : Pulse} (h : p.ends = none) (now : Time) (width : Nat) :
    p.request now width = { ends := some (later now width), waiting := false } := by
  unfold Pulse.request
  rw [h]

/-! ## FAULT after the third reset (R65, R66) -/

/-- What the entry into FAULT leaves in an event, of the state its own changes made. -/
theorem event_fault {g : Work → Work} {s u : State} (hs : s.exch.service ≠ .init)
    (honly : u.faulted.OnlyEv (g (Work.begin s)).st) :
    let t := event g s
    t.ru.state = .fault ∧ t.radio = u.radio ∧ t.hold = u.holdAtFault ∧ t.grade = u.grade
      ∧ t.drill = u.drillAtFault ∧ (u.keptByModem = s.keptByModem → t.keptByModem = s.keptByModem) := by
  obtain ⟨e, he, hst⟩ := honly
  have hfields : (g (Work.begin s)).st.ru.state = .fault ∧ (g (Work.begin s)).st.radio = u.radio
      ∧ (g (Work.begin s)).st.hold = u.holdAtFault ∧ (g (Work.begin s)).st.drill = u.drillAtFault
      ∧ (g (Work.begin s)).st.grade = u.grade := by
    rw [hst]
    exact ⟨rfl, rfl, rfl, rfl, rfl⟩
  obtain ⟨hfault, hradio, hhold, hdrill, hgrade⟩ := hfields
  obtain ⟨hfault', hradio', hhold'⟩ := event_faulted hs hfault
  have hrests : (g (Work.begin s)).st.drill.running = false := by
    rw [hdrill]
    unfold State.drillAtFault
    split
    · rfl
    · next h => exact Bool.eq_false_iff.mpr h
  refine ⟨hfault', hradio'.trans hradio, hhold'.trans hhold, (event_linkGoes hs).grade.trans hgrade,
    (event_drill hs hrests).trans hdrill, fun hkept => event_keptByModem g s ?_⟩
  rw [(State.OnlyEv.keptByModem ⟨e, he, hst⟩), faulted_kept, hkept]

theorem mrst_fault {s : State} (hcur : s.current) (hw : s.ru.mrst.waiting = false) (hstate : s.ru.state = .resetting)
    (hresets : s.ru.resets = 3) :
    let t := event (pulseEnds .mrst) s
    t.ru.state = .fault ∧ t.ev.latch.getLsbD 9 = true ∧ t.keptByModem = s.keptByModem ∧ t.radio = s.radio
      ∧ t.grade = s.grade ∧ t.hold = s.holdAtFault ∧ t.drill = s.drillAtFault
      ∧ (s.drill.running = true → t.ev.latch.getLsbD 11 = true)
      ∧ (s.hold.active = true → s.hold.path = some .radio → t.ev.latch.getLsbD 10 = true) := by
  have hs : s.ru.state ≠ .session := by rw [hstate]; decide
  have heq : pulseEnds .mrst (Work.begin s) = enterFault (lineEnded (Work.begin s)) :=
    (mrstPulseEnds_ended hw).trans (resetPulseEnded_fault hstate hresets)
  have hline := lineEnded_moves (begin_outside hcur hs)
  have hout := hline.outside (begin_outside hcur hs)
  have honly := enterFault_onlyEv hout
  obtain ⟨h9, h11, h10⟩ := enterFault_ends hout
  rw [← heq] at honly h9 h11 h10
  obtain ⟨hfault, hradio, hhold, hgrade, hdrill, hkept⟩ := event_fault hcur.1 honly
  exact ⟨hfault, getLsbD_of_latched (event_latched hcur.1 h9) (by decide), hkept rfl, hradio, hgrade, hhold, hdrill,
    fun hrun => getLsbD_of_latched (event_latched hcur.1 (h11 hrun)) (by decide),
    fun ha hp => getLsbD_of_latched (event_latched hcur.1 (h10 ha hp)) (by decide)⟩

/-- Settles O47. -/
theorem modemTimersExpire : Obligations.ModemTimersExpire := by
  unfold Obligations.ModemTimersExpire
  intro s hcur
  refine ⟨fun hstate hdue => ?powering, fun hstate hdue hends => ?waits, fun hstate hdue hends => ?pulses,
    fun hstate hdue htarget hout => ?attaching, fun hstate hdue => ?idles, fun hdue => ?pwr, fun hdue hrests => ?mrst,
    fun hdue hw => ⟨fun hstate hnone htarget => ?off, fun hstate hresets hready => ?ready,
      fun hstate hnone htarget => ?stays, fun hstate hresets hready => ?again, fun hstate hresets => ?fault⟩⟩
  case powering => exact ⟨_, exec_poweringTimeout hstate hdue, event_resets hcur (by rw [hstate]; decide)⟩
  case waits =>
    refine ⟨_, exec_stoppingTimeout hstate hdue, (event_stoppingTimedOut hcur hstate).trans ?_⟩
    unfold RadioUnit.pulseMrst
    rw [request_waits hends]
  case pulses =>
    refine ⟨_, exec_stoppingTimeout hstate hdue, (event_stoppingTimedOut hcur hstate).trans ?_⟩
    unfold RadioUnit.pulseMrst
    rw [request_starts hends]
    rfl
  case attaching =>
    obtain ⟨hkept, hradio, -, -, hfree⟩ := event_idles hcur (s := s) (by rw [hstate]; decide)
    obtain ⟨hattaching, -, hattaches, -⟩ := hfree htarget hout
    exact ⟨_, exec_backoffExpiry hstate hdue, hattaching, hattaches, hkept, hradio⟩
  case idles => exact ⟨_, exec_backoffExpiry hstate hdue, event_idles hcur (by rw [hstate]; decide)⟩
  case pwr =>
    refine ⟨_, exec_pulseEnd (line := .pwr) hdue, (event_pwr hcur).trans ?_⟩
    rw [pulse_finish]
  case mrst =>
    refine ⟨_, exec_pulseEnd (line := .mrst) hdue, (event_mrst_waits hcur hrests).trans ?_⟩
    unfold RadioUnit.mrstEnded
    rw [pulse_finish]
  case off => exact ⟨_, exec_pulseEnd (line := .mrst) hdue, (mrst_stopping hcur hw hstate hnone).1 htarget⟩
  case stays => exact ⟨_, exec_pulseEnd (line := .mrst) hdue, (mrst_stopping hcur hw hstate hnone).2 htarget⟩
  case ready => exact ⟨_, exec_pulseEnd (line := .mrst) hdue, (mrst_resetting hcur hw hstate hresets).1 hready⟩
  case again => exact ⟨_, exec_pulseEnd (line := .mrst) hdue, (mrst_resetting hcur hw hstate hresets).2 hready⟩
  case fault =>
    obtain ⟨hfault, h9, hkept, hradio, hgrade, hhold, hdrill, h11, h10⟩ := mrst_fault hcur hw hstate hresets
    refine ⟨_, exec_pulseEnd (line := .mrst) hdue, hfault, h9, hkept, hradio, hgrade, fun hrun => ?_, fun hrun => ?_, ?_⟩
    · have hended := hdrill.trans (if_pos hrun)
      refine ⟨hended, ?_, ?_, h11 hrun⟩
      · rw [hended]
        rfl
      · rw [hended]
        rfl
    · exact hdrill.trans (if_neg (by rw [hrun]; decide))
    · rw [hhold, holdAtFault_eq]
      split
      · next h => exact ⟨rfl, h10 h.1 h.2⟩
      · rfl

end Sys2Proof.Machine
end


section
/-! SESSION left in an event: what the steps that leave it make of radio path, hold and radio bands, and that the passes
leave it so (R31, R61, R95, R125); and a radio unit that passes cannot move. -/

namespace Sys2Proof.Machine

/-! ## The session left (R61) -/

/-- What leaving SESSION has made of a state, with what has latched, and the unit outside SESSION. -/
structure State.Left (s v : State) : Prop where
  radio : v.radio = s.radio.lostIn s .radio
  grade : v.grade = s.grade
  hold : v.hold = s.hold.sees s.now .radio s.radio.state .down
  bands : v.fwd.radioQ.urgent = [] ∧ v.fwd.radioQ.normal = []
  flushed : v.fwd.counts.radioFlush =
    hold32 (s.fwd.counts.radioFlush + (s.fwd.radioQ.urgent.length + s.fwd.radioQ.normal.length))
  left : latched (bitMask 8) v
  probes : s.radio.state ≠ .down → v.fwd.radioQ.probes = []
  change : s.radio.state ≠ .down → latched (bitMask 2) v
  ready : s.radio.state ≠ .down → s.radio.ready = true → latched (bitMask 15) v
  cause : (s.radio.state = .up ∨ s.radio.state = .weak) → s.radio.cause.offerWrites s.radio.lockFirst .physical →
    latched (bitMask 12) v
  ends : s.hold.active = true → v.hold.active = false → latched (bitMask 10) v
  outside : v.ru.state ≠ .session

theorem State.Left.leaves {s t : State} (h : s.Left t) : s.leavesSession t := by
  refine ⟨h.radio, h.grade, h.hold, h.bands.1, h.bands.2, ?_, getLsbD_of_latched h.left (by decide),
    fun hd => ⟨h.probes hd, getLsbD_of_latched (h.change hd) (by decide)⟩,
    fun hd hw => getLsbD_of_latched (h.ready hd (decide_eq_true hw)) (by decide),
    fun hu hw => getLsbD_of_latched (h.cause hu hw) (by decide),
    fun ha hi => getLsbD_of_latched (h.ends ha hi) (by decide)⟩
  rw [h.flushed, ← Nat.add_assoc]
  rfl

/-- The radio unit's own steps after it has left SESSION. -/
theorem State.Left.onRu {s v : State} (h : s.Left v) {r : RadioUnit} (hr : r.state ≠ .session) :
    s.Left { v with ru := r } :=
  ⟨h.radio, h.grade, h.hold, h.bands, h.flushed, h.left, h.probes, h.change, h.ready, h.cause, h.ends, hr⟩

theorem State.Left.timed {s : State} {v : Work} (h : s.Left v.st) (ms : Nat) : s.Left (startTimer ms v).st :=
  h.onRu h.outside

theorem State.Left.sends {s : State} {v : Work} (h : s.Left v.st) (k : Request) : s.Left (sendRequest k v).st :=
  h.onRu h.outside

/-- What leaving SESSION makes of a state does not depend on the radio unit. -/
theorem State.Left.ofRu {s v : State} {r : RadioUnit} (h : ({ s with ru := r } : State).Left v) : s.Left v :=
  ⟨h.radio, h.grade, h.hold, h.bands, h.flushed, h.left, h.probes, h.change, h.ready, h.cause, h.ends, h.outside⟩

theorem State.Left.moves {s : State} {w v : Work} (h : s.Left w.st) (hm : w.RuMoves v) : s.Left v.st := by
  rw [hm.st]
  exact h.onRu hm.session

/-- A radio path that is DOWN takes no frame outside SESSION. -/
theorem State.Left.refuses {s v : State} (h : s.Left v) : v.refuses .radio := by
  refine ⟨?_, h.outside⟩
  have hdown : v.radio.state = .down := by
    rw [h.radio]
    exact lostIn_state s .radio s.radio
  unfold State.radioUsable
  rw [hdown]
  rfl

/-- Passes and the end of the event leave the session as its own changes left it. -/
theorem State.Left.goes {s v t : State} (h : s.Left v) (hends : v.EventEnds t) (hq : QueueRests .radio v t) :
    s.Left t := by
  have hopen : ¬v.closes t := fun hc => h.outside hc.1
  obtain ⟨hradio, hhold⟩ := hends.link.stays hopen
  obtain ⟨-, hside⟩ := hq h.refuses
  have hqueue : t.fwd.radioQ = v.fwd.radioQ := (congrArg Prod.fst hside :)
  have hflushed : t.fwd.counts.radioFlush = v.fwd.counts.radioFlush := (congrArg Prod.snd hside :)
  exact {
    radio := hradio.trans h.radio
    grade := hends.link.grade.trans h.grade
    hold := hhold.trans h.hold
    bands := by rw [hqueue]; exact h.bands
    flushed := hflushed.trans h.flushed
    left := hends.latches _ h.left
    probes := by rw [hqueue]; exact h.probes
    change := fun hd => hends.latches _ (h.change hd)
    ready := fun hd hr => hends.latches _ (h.ready hd hr)
    cause := fun hu hw => hends.latches _ (h.cause hu hw)
    ends := fun ha hi => hends.latches _ (h.ends ha (hhold ▸ hi))
    outside := fun hs => h.outside (hends.link.session hs) }

theorem sessionLeft_fwd (s : State) : s.sessionLeft.fwd = if s.radio.state = .down then s.fwd.radioFlushed else
    { s.fwd.radioFlushed with radioQ := { s.fwd.radioFlushed.radioQ with probes := [] } } := by
  by_cases h : s.radio.state = .down
  · rw [sessionLeft_of_down h, if_pos h]
  · rw [sessionLeft_of_ne h, if_neg h]
    rfl

/-- A step that leaves SESSION. -/
theorem leaveSession_latches {w : Work} : latched (bitMask 8) (leaveSession w).st
    ∧ (w.st.radio.state ≠ .down → w.st.LossLatches .radio (leaveSession w).st) := by
  have hloss : ∀ v : Work, latched (bitMask 8) v.st → latched (bitMask 8) (physicalLoss .radio v).st := fun v hv =>
    (closedLatched (bitMask 8)).physicalLoss .radio (Or.inr trivial) v hv
  have hlatches : ∀ v : Work, v.st.radio = w.st.radio → v.st.radio.state ≠ .down →
      w.st.LossLatches .radio (physicalLoss .radio v).st := by
    intro v hv hd
    have hpath : v.st.path .radio = w.st.path .radio := hv
    obtain ⟨hchange, hready, hcause⟩ := physicalLoss_latches (p := .radio) (w := v) hd
    rw [hpath] at hready hcause
    exact ⟨hchange, hready, hcause⟩
  unfold leaveSession
  exact ⟨hloss _ (latch_latched 8 _), fun hd => hlatches (latch Bit.radioState (flushQueue .radio w)) rfl hd⟩

theorem not_down_of_usable {n : PathState} (h : n = .up ∨ n = .weak) : n ≠ .down := by
  rcases h with h | h <;> rw [h] <;> decide

theorem moveTo_left {n : RadioState} {w : Work} (h : w.st.ru.state = .session) (hn : n ≠ .session) :
    w.st.Left (moveTo n w).st := by
  have honly := moveTo_leaves n h hn
  obtain ⟨hradio, hhold, -, -, hgrade⟩ := sessionLeft_fields w.st
  have hfwd := sessionLeft_fwd w.st
  have hlatches := leaveSession_latches
    (w := (w.onRu (RadioUnit.enter n w.now)).touchIf (decide (w.st.ru.state ≠ n)) .radioUnit)
  have hmove : ∀ m, latched m (leaveSession ((w.onRu (RadioUnit.enter n w.now)).touchIf
      (decide (w.st.ru.state ≠ n)) .radioUnit)).st → latched m (moveTo n w).st := by
    intro m hm
    rw [moveTo_leaving n h hn]
    exact handConditions_latched hm
  obtain ⟨h8, hloss⟩ := hlatches
  have hbreaks := moveTo_latched_hold (n := n) (w := w)
  have hstate := moveTo_state n w
  have h8' := hmove _ h8
  have hchange := fun hd => hmove _ (hloss hd).change
  have hready := fun hd hr => hmove _ ((hloss hd).ready hr)
  have hcause := fun hd hu hw => hmove _ ((hloss hd).cause hu hw)
  generalize (moveTo n w).st = t at *
  obtain ⟨e, -, rfl⟩ := honly
  exact {
    radio := hradio
    grade := hgrade
    hold := hhold
    bands := by
      dsimp only
      rw [hfwd]
      split <;> exact ⟨rfl, rfl⟩
    flushed := by
      dsimp only
      rw [hfwd]
      split <;> rfl
    left := h8'
    probes := fun hd => by
      dsimp only
      rw [hfwd, if_neg hd]
    change := hchange
    ready := hready
    cause := fun hu hw => hcause (not_down_of_usable hu) hu hw
    ends := hbreaks
    outside := fun hs => hn (hstate.symm.trans hs) }

/-! ## A unit that passes cannot move (R73) -/

/-- A unit in a state that no change of target moves, or that waits in ATTACHED or SESSION for the link. -/
structure RadioUnit.steady (r : RadioUnit) : Prop where
  off : r.state ≠ .off
  idle : r.state ≠ .idle
  backoff : r.state ≠ .backoff
  held : (r.state = .attached ∨ r.state = .session) → r.outstanding ≠ none

theorem unaimed_fields {r q : RadioUnit} (h : r.unaimed = q.unaimed) : r.state = q.state ∧ r.outstanding = q.outstanding :=
  ⟨(congrArg RadioUnit.state h :), (congrArg RadioUnit.outstanding h :)⟩

theorem steady_of_fields {r q : RadioUnit} (hstate : r.state = q.state) (hout : r.outstanding = q.outstanding)
    (hq : q.steady) : r.steady :=
  ⟨hstate ▸ hq.off, hstate ▸ hq.idle, hstate ▸ hq.backoff, fun h => hout ▸ hq.held (hstate ▸ h)⟩

theorem steady_congr {r q : RadioUnit} (h : r.unaimed = q.unaimed) (hq : q.steady) : r.steady :=
  steady_of_fields (unaimed_fields h).1 (unaimed_fields h).2 hq

/-- The states in which a change of target does nothing (section 3.4). -/
def RadioState.still : RadioState → Bool
  | .powering | .attaching | .opening | .closing | .detaching | .stopping | .resetting | .fault | .resync => true
  | .off | .idle | .attached | .session | .backoff => false

theorem steady_of_still {r : RadioUnit} (h : r.state.still = true) : r.steady := by
  refine ⟨fun hs => ?_, fun hs => ?_, fun hs => ?_, fun hs => ?_⟩
  · rw [hs] at h
    cases h
  · rw [hs] at h
    cases h
  · rw [hs] at h
    cases h
  · rcases hs with hs | hs <;> rw [hs] at h <;> cases h

theorem linkFree_iff {r : RadioUnit} : r.linkFree = true ↔ r.outstanding = none := Option.isNone_iff_eq_none

theorem act_steady {w : Work} (h : w.st.ru.steady) : act w = w := by
  have hheld : (w.st.ru.state = .attached ∨ w.st.ru.state = .session) → ¬w.st.ru.linkFree = true := fun hs hf =>
    h.held hs (linkFree_iff.mp hf)
  unfold act
  split
  · next hs => exact absurd hs h.off
  · next hs => exact absurd hs h.idle
  · next hs =>
    unfold actAttached
    split
    · rfl
    · exact if_neg (hheld (Or.inl hs))
    · exact if_neg (hheld (Or.inl hs))
  · next hs => exact if_neg fun hc => hheld (Or.inr hs) hc.2
  all_goals rfl

theorem setTarget_unaimed (w : Work) : (setTarget w).st.ru.unaimed = w.st.ru.unaimed := rfl

theorem recomputeTarget_steady {w : Work} (h : w.st.ru.steady) : recomputeTarget w = setTarget w := by
  have hset : (setTarget w).st.ru.steady := steady_of_fields (q := w.st.ru) rfl rfl h
  unfold recomputeTarget
  dsimp only
  rw [if_neg hset.backoff, act_steady hset]

theorem recomputeDemand_steady {w : Work} (h : w.st.ru.steady) : (recomputeDemand w).st.ru.unaimed = w.st.ru.unaimed := by
  obtain ⟨a, b, hunit⟩ := demandSeen_unit w
  have hseen : (demandSeen w).st.ru.unaimed = w.st.ru.unaimed := by
    rw [hunit]
    rfl
  have hsteady := steady_congr hseen h
  rw [recomputeDemand_eq]
  unfold urgencySees
  rw [if_neg (by rw [decide_eq_false hsteady.backoff]; simp), recomputeTarget_steady hsteady, setTarget_unaimed, hseen]

/-- An event leaves a unit that passes cannot move as its own changes left it, but for target and linger. -/
theorem event_steady {g : Work → Work} {s : State} (hs : s.exch.service ≠ .init) (h : (g (Work.begin s)).st.ru.steady) :
    (event g s).ru.unaimed = (g (Work.begin s)).st.ru.unaimed :=
  event_invariant (linkless_unit fun r => r.unaimed = (g (Work.begin s)).st.ru.unaimed)
    (fun _ hw => (recomputeDemand_steady (steady_congr hw h)).trans hw) hs rfl

end Sys2Proof.Machine
end


section
/-! A change of normalized READY, of the pin or of its polarity (R52, R58, R63, R68, R70). -/

namespace Sys2Proof.Machine

/-! ## Ends of events and of orders -/

/-- What an order's body has established, and passes keep, its answer and the end of its event keep. -/
theorem takeKind_invariant {P : State → Prop} (L : Linkless (fun _ => True) P)
    (hdemand : ∀ w : Work, P w.st → P (recomputeDemand w).st) (hexch : ∀ s m e, P s → P { s with mem := m, exch := e })
    {kind i : Nat} {rest : List Nat} {s : State} {body : List Byte → Work → Answered} {v : Work}
    (hoffers : s.offersKind kind i rest) (hv : (body (slotParams s.mem i) (Work.begin s)).work = v) (h : P v.st) :
    P (takeKind kind body s) := by
  subst hv
  have hpasses : ∀ v : Work, P v.st → P (passes v).st := fun v hv => runPasses_invariant L hdemand _ hv
  have hanswer : ∀ (w : Work) (k : Nat) (r : ResultCode) (ans : List Byte), P w.st → P (writeAnswer i rest k r ans w).st :=
    fun w _ _ _ hw => hexch w.st _ _ hw
  rw [takeKind_eq kind body s i rest hoffers]
  exact L.finish s _ (hanswer _ _ _ _ (hpasses _ h))

/-- What the end of an event leaves of the link side of its own changes. -/
structure State.Ended (v t : State) : Prop where
  ends : v.EventEnds t
  rests : QueueRests .radio v t
  unit : ∀ P : RadioUnit → Prop, (∀ w : Work, P w.st.ru → P (recomputeDemand w).st.ru) → P v.ru → P t.ru

theorem event_ended {g : Work → Work} {s : State} (hs : s.exch.service ≠ .init) :
    (g (Work.begin s)).st.Ended (event g s) :=
  ⟨event_ends hs, event_rests .radio hs, fun P hdemand h => event_invariant (linkless_unit P) hdemand hs h⟩

theorem State.Ended.steady {v t : State} (h : v.Ended t) (hsteady : v.ru.steady) : t.ru.unaimed = v.ru.unaimed :=
  h.unit (fun r => r.unaimed = v.ru.unaimed)
    (fun _ hw => (recomputeDemand_steady (steady_congr hw hsteady)).trans hw) rfl

theorem takeKind_rests {kind i : Nat} {rest : List Nat} {s : State} {body : List Byte → Work → Answered} {v : Work}
    (hoffers : s.offersKind kind i rest) (hv : (body (slotParams s.mem i) (Work.begin s)).work = v) :
    QueueRests .radio v.st (takeKind kind body s) := by
  subst hv
  have hpasses : ∀ v : Work, QueueRests .radio v.st (passes v).st := fun v => runPasses_rests .radio _ v
  have hanswer : ∀ (w : Work) (k : Nat) (r : ResultCode) (ans : List Byte),
      QueueRests .radio w.st (writeAnswer i rest k r ans w).st := fun _ _ _ _ h => ⟨h, rfl⟩
  rw [takeKind_eq kind body s i rest hoffers]
  exact (hpasses _).trans ((hanswer _ _ _ _).trans (finish_rests .radio s _))

theorem takeKind_ended {kind i : Nat} {rest : List Nat} {s : State} {body : List Byte → Work → Answered} {v : Work}
    (hoffers : s.offersKind kind i rest) (hv : (body (slotParams s.mem i) (Work.begin s)).work = v)
    (hmem : v.st.mem = s.mem) : v.st.Ended (takeKind kind body s) where
  ends := takeKind_ends hoffers hv hmem
  rests := takeKind_rests hoffers hv
  unit := fun P hdemand h => takeKind_invariant (linkless_unit P) hdemand (fun _ _ _ h => h) hoffers hv h

theorem State.Ended.left {s v t : State} (h : v.Ended t) (hleft : s.Left v) : s.Left t := hleft.goes h.ends h.rests

/-! ## What a READY change does (R58, R63, R68, R70) -/

/-- The states in which READY that goes inactive leads back to POWERING (R58). -/
def RadioState.fallsBack : RadioState → Bool
  | .idle | .attaching | .attached | .opening | .session | .closing | .detaching | .backoff => true
  | .off | .powering | .stopping | .resetting | .fault | .resync => false

theorem readyChanged_idle {w : Work} (hr : w.st.ru.ready = true) (h : w.st.ru.state = .powering) :
    readyChanged w = enterIdle w := by
  unfold readyChanged
  rw [if_pos hr, h]

theorem readyChanged_powering {w : Work} (hr : w.st.ru.ready = false) (h : w.st.ru.state.fallsBack = true) :
    readyChanged w = enterPowering w := by
  unfold readyChanged
  rw [if_neg (by rw [hr]; decide)]
  revert h
  cases w.st.ru.state <;> simp [RadioState.fallsBack]

theorem readyChanged_off {w : Work} (hr : w.st.ru.ready = false)
    (h : (w.st.ru.state = .stopping ∧ w.st.ru.stateDue.isSome = true) ∨ w.st.ru.state = .resync) :
    readyChanged w = enterOff w := by
  unfold readyChanged
  rw [if_neg (by rw [hr]; decide)]
  rcases h with ⟨hs, hd⟩ | hs
  · rw [hs]
    exact if_pos hd
  · rw [hs]

theorem readyChanged_rests {w : Work} (h : w.st.readyMoves w.st.ru.ready = false) : readyChanged w = w := by
  unfold State.readyMoves at h
  unfold readyChanged
  cases hr : w.st.ru.ready <;> cases hs : w.st.ru.state <;> rw [hr, hs] at h <;> simp_all

/-- The three ways in which a READY change moves a unit. -/
theorem readyMoves_cases {s : State} {active : Bool} (h : s.readyMoves active = true) :
    (active = true ∧ s.ru.state = .powering) ∨ (active = false ∧ s.ru.state.fallsBack = true)
      ∨ (active = false ∧ ((s.ru.state = .stopping ∧ s.ru.stateDue.isSome = true) ∨ s.ru.state = .resync)) := by
  unfold State.readyMoves at h
  cases active <;> cases hs : s.ru.state <;> rw [hs] at h <;> simp_all [RadioState.fallsBack]

/-- Where a READY change takes a unit that it moves: what `movedByReady` says of the unit alone. -/
def RadioUnit.movedBy (now : Time) (active : Bool) (r q : RadioUnit) : Prop :=
  let goesTo := fun (n : RadioState) (due : Option Time) =>
    q.state = n ∧ q.stateDue = due ∧ q.outstanding = staleOf r.outstanding ∧ q.attaches = r.attaches
  let timer := some (now + 30000)
  (r.state = .powering → active = true →
        (r.target = .off → goesTo .stopping timer)
        ∧ (r.target ≠ .off → r.outstanding ≠ none → goesTo .idle none)
        ∧ (r.target ≠ .off → r.outstanding = none →
            q.state = .attaching ∧ q.attaches = r.attaches + 1
            ∧ q.outstanding = some { kind := .attach, stale := false,
                                     due := now + BitVec.ofNat 32 (r.attachTimeout * 1000) }))
    ∧ (active = false → r.state ≠ .stopping → r.state ≠ .resync → goesTo .powering timer)
    ∧ (active = false → (r.state = .stopping ∨ r.state = .resync) →
        (r.target = .off → goesTo .off none) ∧ (r.target ≠ .off → goesTo .powering timer))

theorem movedByReady_of {s t : State} {active : Bool} (hradio : s.ru.state ≠ .session → t.radio = s.radio)
    (hunit : s.ru.movedBy s.now active t.ru) (hleaves : s.ru.state = .session → s.leavesSession t) :
    s.movedByReady active t := ⟨hradio, hunit.1, hunit.2.1, hunit.2.2, hleaves⟩

theorem movedBy_congr {now : Time} {active : Bool} {r q q' : RadioUnit} (h : q'.unaimed = q.unaimed)
    (hq : r.movedBy now active q) : r.movedBy now active q' := by
  have hstate : q'.state = q.state := (congrArg RadioUnit.state h :)
  have hdue : q'.stateDue = q.stateDue := (congrArg RadioUnit.stateDue h :)
  have hout : q'.outstanding = q.outstanding := (congrArg RadioUnit.outstanding h :)
  have hattaches : q'.attaches = q.attaches := (congrArg RadioUnit.attaches h :)
  unfold RadioUnit.movedBy
  rw [hstate, hdue, hout, hattaches]
  exact hq

/-- A unit that agrees with this one in what a READY change reads and hands on. -/
structure RadioUnit.LinesOnly (r q : RadioUnit) : Prop where
  state : q.state = r.state
  due : q.stateDue = r.stateDue
  target : q.target = r.target
  outstanding : q.outstanding = r.outstanding
  attaches : q.attaches = r.attaches
  timeout : q.attachTimeout = r.attachTimeout

theorem movedBy_self {r r' : RadioUnit} (h : r.LinesOnly r') {now : Time} {active : Bool} {q : RadioUnit}
    (hq : r'.movedBy now active q) : r.movedBy now active q := by
  unfold RadioUnit.movedBy at hq
  rw [h.state, h.target, h.outstanding, h.attaches, h.timeout] at hq
  exact hq

theorem movedBy_idle (now : Time) {r : RadioUnit} (hr : r.ready = true) : r.movedBy now true (r.toIdle now) := by
  obtain ⟨hoff, hheld, hfree⟩ := toIdle_fields now r
  rw [hr] at hoff
  refine ⟨fun _ _ => ⟨hoff, hheld, fun ht ho => ?_⟩, nofun, nofun⟩
  obtain ⟨hstate, -, hattaches, hout⟩ := hfree ht ho
  exact ⟨hstate, hattaches, hout⟩

theorem movedBy_powering (now : Time) {r : RadioUnit} (hr : r.ready = false) (h : r.state.fallsBack = true) :
    r.movedBy now false (r.toPowering now) := by
  rw [toPowering_waits hr]
  refine ⟨nofun, fun _ _ _ => ⟨rfl, rfl, rfl, rfl⟩, fun _ hs => ?_⟩
  rcases hs with hs | hs <;> rw [hs] at h <;> cases h

theorem movedBy_off (now : Time) {r : RadioUnit} (hr : r.ready = false) (h : r.state = .stopping ∨ r.state = .resync) :
    r.movedBy now false (r.toOff now) := by
  refine ⟨nofun, fun _ h1 h2 => (h.elim h1 h2).elim, fun _ _ => ⟨fun ht => ?_, fun ht => ?_⟩⟩
  · rw [toOff_rests ht]
    exact ⟨rfl, rfl, rfl, rfl⟩
  · rw [toOff_powers ht hr]
    obtain ⟨hstate, hdue, hout, hattaches, -, -⟩ := powers_fields now r
    exact ⟨hstate, hdue, hout, hattaches⟩

/-- A READY change that moves the unit: where it goes, from SESSION with the session left, and otherwise nothing else. -/
structure State.ReadyGoes (s : State) (w v : Work) : Prop where
  moved : s.ru.movedBy s.now w.st.ru.ready v.st.ru
  moves : s.ru.state ≠ .session → w.RuMoves v
  left : s.ru.state = .session → s.Left v.st ∧ v.st.ru.steady

theorem toPowering_steady {now : Time} {r : RadioUnit} (h : r.ready = false) : (r.toPowering now).steady :=
  steady_of_still (by
    rw [toPowering_waits h]
    rfl)

theorem enterPowering_waits {w : Work} (h : w.st.ru.ready = false) :
    enterPowering w = startTimer Config.readyWaitMs (moveTo .powering w) := by
  unfold enterPowering
  dsimp only
  rw [moveTo_ready, h]
  exact if_neg (by decide)

theorem enterPowering_left {w : Work} (h : w.st.ru.state = .session) (hr : w.st.ru.ready = false) :
    w.st.Left (enterPowering w).st ∧ (enterPowering w).st.ru.steady := by
  have hmoved := moveTo_left (n := .powering) h (by decide)
  refine ⟨?_, ?_⟩
  · rw [enterPowering_waits hr]
    exact hmoved.timed _
  · rw [enterPowering_ru]
    exact toPowering_steady hr

theorem readyChanged_goes {s : State} {w : Work} (hst : w.st = { s with ru := w.st.ru }) (hcond : s.condTrue)
    (hlines : s.ru.LinesOnly w.st.ru) (hmoves : s.readyMoves w.st.ru.ready = true) :
    s.ReadyGoes w (readyChanged w) := by
  have hnow : w.now = s.now := by
    unfold Work.now
    rw [hst]
    rfl
  have hcond' : w.st.condTrue := by
    rw [hst]
    exact hcond.trans (facts_ru (by rw [hlines.state])).symm
  have hout : s.ru.state ≠ .session → w.Outside := fun hs => ⟨hcond', fun he => hs (hlines.state.symm.trans he)⟩
  have hleft : ∀ {t : State}, w.st.Left t → s.Left t := by
    intro t ht
    rw [hst] at ht
    exact ht.ofRu
  rcases readyMoves_cases hmoves with ⟨hr, hs⟩ | ⟨hr, hs⟩ | ⟨hr, hs⟩
  · rw [readyChanged_idle hr (hlines.state.trans hs)]
    refine ⟨?_, fun hn => enterIdle_moves (hout hn), fun he => ?_⟩
    · rw [hr, enterIdle_ru, hnow]
      exact movedBy_self hlines (movedBy_idle s.now hr)
    · rw [hs] at he
      cases he
  · rw [readyChanged_powering hr (hlines.state.symm ▸ hs)]
    refine ⟨?_, fun hn => enterPowering_moves (hout hn), fun he => ?_⟩
    · rw [hr, enterPowering_ru, hnow]
      exact movedBy_self hlines (movedBy_powering s.now hr (hlines.state.symm ▸ hs))
    · obtain ⟨hl, hsteady⟩ := enterPowering_left (hlines.state.trans he) hr
      exact ⟨hleft hl, hsteady⟩
  · have hs' : w.st.ru.state = .stopping ∧ w.st.ru.stateDue.isSome = true ∨ w.st.ru.state = .resync := by
      rw [hlines.state, hlines.due]
      exact hs
    rw [readyChanged_off hr hs']
    refine ⟨?_, fun hn => enterOff_moves (hout hn), fun he => ?_⟩
    · rw [hr, enterOff_ru, hnow]
      exact movedBy_self hlines (movedBy_off s.now hr (hs'.imp_left And.left))
    · rw [he] at hs
      rcases hs with ⟨hs, -⟩ | hs <;> cases hs

end Sys2Proof.Machine
end


section
/-! READY_CHANGE and SET MODEM LINES (R52, R58, R63, R68, R70, R76). -/

namespace Sys2Proof.Machine

theorem setReady_rests {f : RadioUnit → RadioUnit} {w : Work}
    (h : (f w.st.ru).ready = w.st.ru.ready ∨ w.st.readyMoves (f w.st.ru).ready = false)
    (hlines : w.st.ru.LinesOnly (f w.st.ru)) : setReady f w = w.onRu f := by
  unfold setReady
  dsimp only
  split
  · rfl
  · next hne =>
    refine readyChanged_rests ?_
    have hmoves := h.resolve_left hne
    unfold State.readyMoves at hmoves ⊢
    rw [show (w.onRu f).st.ru = f w.st.ru from rfl, hlines.state, hlines.due]
    exact hmoves

theorem setReady_moves {f : RadioUnit → RadioUnit} {w : Work} (h : (f w.st.ru).ready ≠ w.st.ru.ready) :
    setReady f w = readyChanged (w.onRu f) := if_neg h

/-- A change of READY that moves the unit, in a state whose conditions are set. -/
theorem setReady_goes {f : RadioUnit → RadioUnit} {s : State} (hcond : s.condTrue) (hlines : s.ru.LinesOnly (f s.ru))
    (hne : (f s.ru).ready ≠ s.ru.ready) (hmoves : s.readyMoves (f s.ru).ready = true) :
    s.ReadyGoes ((Work.begin s).onRu f) (setReady f (Work.begin s)) := by
  rw [setReady_moves hne]
  exact readyChanged_goes (w := (Work.begin s).onRu f) rfl hcond hlines hmoves

/-- Where the end of the event, or of the order, finds a unit that READY has moved. -/
theorem State.ReadyGoes.ended {f : RadioUnit → RadioUnit} {s t : State} {v : Work}
    (h : s.ReadyGoes ((Work.begin s).onRu f) v) (hended : v.st.Ended t)
    (hstill : s.ru.state ≠ .session → t.ru = v.st.ru ∧ t.radio = s.radio) :
    s.movedByReady (f s.ru).ready t := by
  refine movedByReady_of (fun hs => (hstill hs).2) ?_ fun hs => (hended.left (h.left hs).1).leaves
  by_cases hs : s.ru.state = .session
  · exact movedBy_congr (hended.steady (h.left hs).2) h.moved
  · rw [(hstill hs).1]
    exact h.moved

theorem setReady_kept {f : RadioUnit → RadioUnit} {s : State} (hne : (f s.ru).ready ≠ s.ru.ready) :
    (setReady f (Work.begin s)).st.kept = ({ s with ru := f s.ru } : State).kept := by
  rw [setReady_moves hne]
  exact (closed_kept ({ s with ru := f s.ru } : State).kept).readyChanged ((Work.begin s).onRu f) rfl

/-! ## READY_CHANGE -/

/-- The unit with the pin's level held. -/
def RadioUnit.pinHeld (high : Bool) (r : RadioUnit) : RadioUnit := { r with readyHigh := high }

theorem event_setReady_rests {f : RadioUnit → RadioUnit} {s : State} (hcur : s.current) (hlines : s.ru.LinesOnly (f s.ru))
    (h : (f s.ru).ready = s.ru.ready ∨ s.readyMoves (f s.ru).ready = false) :
    (event (setReady f) s).plain = ({ s with ru := f s.ru } : State).plain :=
  event_settled (setReady f) s hcur.1 (setReady_rests (w := Work.begin s) h hlines) rfl rfl rfl
    (hcur.2.1.trans (facts_ru (r := f s.ru) (by rw [hlines.state])).symm) hcur.2.2

theorem event_setReady_moves {f : RadioUnit → RadioUnit} {s : State} (hcur : s.current) (hlines : s.ru.LinesOnly (f s.ru))
    (hne : (f s.ru).ready ≠ s.ru.ready) (hmoves : s.readyMoves (f s.ru).ready = true) :
    s.movedByReady (f s.ru).ready (event (setReady f) s)
      ∧ (event (setReady f) s).kept = ({ s with ru := f s.ru } : State).kept := by
  have hgoes := setReady_goes hcur.2.1 hlines hne hmoves
  refine ⟨hgoes.ended (event_ended hcur.1) fun hs => ?_, (event_kept _ s hcur.1).trans (setReady_kept hne)⟩
  have hheld : (Work.begin s).RuMoves ((Work.begin s).onRu f) := onRu_moves fun he => hs (hlines.state.symm.trans he)
  obtain ⟨hru, hradio, -⟩ := event_ruMoves_fields hcur hs (hheld.trans (hgoes.moves hs))
  exact ⟨hru, hradio⟩

theorem exec_readyChange (high : Bool) {s : State} (h : s.exch.service ≠ .init) :
    exec (.readyChange high) s = .next (event (setReady (RadioUnit.pinHeld high)) s) := by
  show execReadyChange high s = _
  unfold execReadyChange
  rw [if_neg h]
  rfl

/-- Settles O46. -/
theorem readyMovesTheUnit : Obligations.ReadyMovesTheUnit := by
  unfold Obligations.ReadyMovesTheUnit
  intro high s
  have hlines : s.ru.LinesOnly (s.ru.pinHeld high) := ⟨rfl, rfl, rfl, rfl, rfl, rfl⟩
  refine ⟨fun hinit => ?_, fun hcur hrests => ⟨_, exec_readyChange high hcur.1, event_setReady_rests hcur hlines hrests⟩,
    fun hcur hne hmoves => ⟨_, exec_readyChange high hcur.1, event_setReady_moves hcur hlines hne hmoves⟩⟩
  show execReadyChange high s = _
  unfold execReadyChange
  rw [if_pos hinit]

/-! ## SET MODEM LINES (R76) -/

theorem takeKind_ru {kind i : Nat} {rest : List Nat} {s : State} {body : List Byte → Work → Answered} {v : Work}
    (hoffers : s.offersKind kind i rest) (hv : (body (slotParams s.mem i) (Work.begin s)).work = v) :
    (takeKind kind body s).ru = (passes v).st.ru := by
  subst hv
  rw [takeKind_eq kind body s i rest hoffers]
  exact finish_ru _ _

theorem orderSetModemLines_eq {ps : List Byte} {w : Work} {level pwrLow mrstLow readyLow : Bool}
    (hlevel : param ps 0 1 = level.toNat) (hpwr : param ps 1 1 = pwrLow.toNat) (hmrst : param ps 2 1 = mrstLow.toNat)
    (hready : param ps 3 1 = readyLow.toNat) : orderSetModemLines ps w =
      { work := setReady (RadioUnit.setLines { level := level, pwrLow := pwrLow, mrstLow := mrstLow, readyLow := readyLow,
                                               pwrWidth := clamp 100 5000 (param ps 4 2),
                                               mrstWidth := clamp 100 2000 (param ps 6 2) }) w,
        result := okOrClamped (decide (clamp 100 5000 (param ps 4 2) ≠ param ps 4 2)
          || decide (clamp 100 2000 (param ps 6 2) ≠ param ps 6 2)),
        answer := linesAnswer } := by
  unfold orderSetModemLines
  rw [hlevel, hpwr, hmrst, hready, flagOf_toNat, flagOf_toNat, flagOf_toNat, flagOf_toNat]

theorem linesAnswer_eq {s t : State} (h : s.ru = t.ru) : linesAnswer t = linesAnswer s := by
  unfold linesAnswer
  rw [h]

/-- What SET MODEM LINES leaves, for any new unit that differs in its lines and its PWR pulse alone. -/
theorem takeKind_setReady {f : RadioUnit → RadioUnit} {i : Nat} {rest : List Nat} {s : State} {result : ResultCode}
    {kind : Nat} {body : List Byte → Work → Answered} {answer : State → List Byte} (hcur : s.current)
    (hoffers : s.offersKind kind i rest)
    (hbody : body (slotParams s.mem i) (Work.begin s)
      = { work := setReady f (Work.begin s), result := result, answer := answer })
    (hlines : s.ru.LinesOnly (f s.ru)) :
    (takeKind kind body s).kept = (({ s with ru := f s.ru } : State).answered i rest result
        (answer (passes (setReady f (Work.begin s))).st)).kept
      ∧ (((f s.ru).ready = s.ru.ready ∨ s.readyMoves (f s.ru).ready = false) →
          (takeKind kind body s).plain = (({ s with ru := f s.ru } : State).answered i rest result
            (answer { s with ru := f s.ru })).plain)
      ∧ ((f s.ru).ready ≠ s.ru.ready → s.readyMoves (f s.ru).ready = true →
          s.movedByReady (f s.ru).ready (takeKind kind body s)) := by
  have hheld : ({ s with ru := f s.ru } : State).current :=
    ⟨hcur.1, hcur.2.1.trans (facts_ru (by rw [hlines.state])).symm, hcur.2.2⟩
  have hkept : (setReady f (Work.begin s)).st.kept = ({ s with ru := f s.ru } : State).kept := by
    by_cases hne : (f s.ru).ready = s.ru.ready
    · rw [setReady_rests (w := Work.begin s) (Or.inl hne) hlines]
      rfl
    · exact setReady_kept hne
  have hmem : (setReady f (Work.begin s)).st.mem = s.mem := (congrArg State.mem hkept :)
  have hwork : (body (slotParams s.mem i) (Work.begin s)).work = setReady f (Work.begin s) := by rw [hbody]
  have htaken := takeKind_kept kind body s i rest hoffers (by rw [hwork]; exact hmem)
  rw [hbody] at htaken
  refine ⟨htaken.trans (answered_kept hkept i rest result _), fun hrests => ?_, fun hne hmoves => ?_⟩
  · rw [setReady_rests (w := Work.begin s) hrests hlines] at hbody
    exact takeKind_still hoffers hbody rfl rfl rfl rfl hheld
  · have hgoes := setReady_goes hcur.2.1 hlines hne hmoves
    refine hgoes.ended (takeKind_ended hoffers hwork hmem) fun hs => ?_
    have honly : (Work.begin s).RuMoves ((Work.begin s).onRu f) := onRu_moves fun he => hs (hlines.state.symm.trans he)
    have hall := honly.trans (hgoes.moves hs)
    have hirq : (setReady f (Work.begin s)).st.irqTrue := by
      rw [hall.st]
      exact hcur.2.2
    have hservice : (setReady f (Work.begin s)).st.exch.service ≠ .init := by
      rw [hall.st]
      exact hcur.1
    have hflows : (setReady f (Work.begin s)).st.flows = s.flows := (congrArg State.flows hall.st :)
    have hplain := takeKind_still hoffers hbody hall.pass hall.demand hmem hflows
      ⟨hservice, (hall.outside ⟨hcur.2.1, hs⟩).1, hirq⟩
    exact ⟨(congrArg State.ru hplain :), ((congrArg State.radio hplain :).trans (congrArg State.radio hall.st :) :)⟩

/-- Settles O24. -/
theorem modemLinesSet : Obligations.ModemLinesSet := by
  unfold Obligations.ModemLinesSet
  intro level pwrLow mrstLow readyLow i rest s hcur hoffers ps pwrWidth mrstWidth result after answer hlevel hpwr hmrst hready
  have hresult : okOrClamped (decide (pwrWidth ≠ param ps 4 2) || decide (mrstWidth ≠ param ps 6 2)) = result :=
    okOrClamped_eq (by simp only [Bool.or_eq_true, decide_eq_true_iff, not_and_or, ne_eq])
  have hbody := orderSetModemLines_eq (w := Work.begin s) hlevel hpwr hmrst hready
  have hlines : s.ru.LinesOnly (s.ru.setLines after.lines) := ⟨rfl, rfl, rfl, rfl, rfl, rfl⟩
  obtain ⟨hkept, hrests, hmoves⟩ := takeKind_setReady (kind := Kind.setModemLines) hcur hoffers hbody hlines
  have hru := takeKind_ru (kind := Kind.setModemLines) (body := orderSetModemLines) hoffers (congrArg Answered.work hbody)
  rw [hresult] at hkept hrests
  have hlasting : (takeKind Kind.setModemLines orderSetModemLines s).ru.lasting = after.lasting := (congrArg State.ru hkept :)
  rw [linesAnswer_eq hru] at hkept
  have hset : (takeKind Kind.setModemLines orderSetModemLines s).ru.lines = after.lines :=
    (congrArg RadioUnit.lines hlasting :)
  have hhigh : (takeKind Kind.setModemLines orderSetModemLines s).ru.readyHigh = after.readyHigh :=
    (congrArg RadioUnit.readyHigh hlasting :)
  refine ⟨takeKind Kind.setModemLines orderSetModemLines s, rfl, ?_, ?_, hrests, hmoves⟩
  · refine hkept.trans ?_
    unfold linesAnswer
    rw [hset]
    rfl
  · unfold RadioUnit.ready
    rw [hset, hhigh]

end Sys2Proof.Machine
end


section
/-! What demand, recomputed, does to the radio unit, as a function of its record; a stale request in the link; and the
indications SESSION CLOSED and DETACHED (R57, R69, R73). -/

namespace Sys2Proof.Machine

/-! ## Demand and the unit's record (R64, R73) -/

/-- The unit with another target and linger. -/
def RadioUnit.aimed (a : Bool) (b : Time) (t : Target) (r : RadioUnit) : RadioUnit :=
  { r with lingerOn := a, lingerStart := b, target := t }

theorem recomputeTarget_ru (w : Work) : (recomputeTarget w).st.ru =
    if w.st.ru.state = .backoff then
      if w.st.ru.target ≠ .off ∧ w.st.targetNow = .off then (setTarget w).st.ru.toIdle w.now else (setTarget w).st.ru
    else (setTarget w).st.ru.acts w.now := by
  unfold recomputeTarget
  dsimp only
  rw [show (setTarget w).st.ru.state = w.st.ru.state from rfl, show (setTarget w).st.ru.target = w.st.targetNow from rfl]
  split
  · split
    · exact enterIdle_ru (setTarget w)
    · rfl
  · exact act_ru (setTarget w)

theorem demandSeen_now (w : Work) : (demandSeen w).now = w.now := congrArg Clock.ms (demandSeen_keeps w).1

/-- Demand, recomputed, gives the unit target and linger; it then acts, and a BACKOFF stays or goes to IDLE. -/
theorem recomputeDemand_moves (w : Work) : ∃ a b t,
    (w.st.ru.state = .backoff ∧ ((recomputeDemand w).st.ru = w.st.ru.aimed a b t
      ∨ (recomputeDemand w).st.ru = (w.st.ru.aimed a b t).toIdle w.now))
    ∨ (w.st.ru.state ≠ .backoff ∧ (recomputeDemand w).st.ru = (w.st.ru.aimed a b t).acts w.now) := by
  obtain ⟨a, b, hunit⟩ := demandSeen_unit w
  have hset : (setTarget (demandSeen w)).st.ru = w.st.ru.aimed a b (demandSeen w).st.targetNow := by
    rw [setTarget_unit, hunit]
    rfl
  have hstate : (demandSeen w).st.ru.state = w.st.ru.state := by rw [hunit]
  refine ⟨a, b, (demandSeen w).st.targetNow, ?_⟩
  rw [recomputeDemand_eq, ← hset, ← demandSeen_now w]
  unfold urgencySees
  by_cases hb : w.st.ru.state = .backoff
  · refine Or.inl ⟨hb, ?_⟩
    split
    · exact Or.inr (enterIdle_ru (setTarget (demandSeen w)))
    · rw [recomputeTarget_ru, if_pos (hstate.trans hb)]
      split
      · exact Or.inr rfl
      · exact Or.inl rfl
  · refine Or.inr ⟨hb, ?_⟩
    rw [if_neg (by rw [hstate, decide_eq_false hb]; simp), recomputeTarget_ru, if_neg (by rw [hstate]; exact hb)]

/-- What the unit's acts and its entry into IDLE keep, whatever target and linger are, demand keeps. -/
theorem recomputeDemand_unit {P : RadioUnit → Prop} (haim : ∀ r a b t, P r → P (RadioUnit.aimed a b t r))
    (hacts : ∀ r now, P r → r.state ≠ .backoff → P (r.acts now))
    (hidle : ∀ r now, P r → r.state = .backoff → P (r.toIdle now)) {w : Work} (h : P w.st.ru) :
    P (recomputeDemand w).st.ru := by
  obtain ⟨a, b, t, hcase⟩ := recomputeDemand_moves w
  have haimed := haim _ a b t h
  rcases hcase with ⟨hb, heq | heq⟩ | ⟨hb, heq⟩
  · rw [heq]
    exact haimed
  · rw [heq]
    exact hidle _ _ haimed hb
  · rw [heq]
    exact hacts _ _ haimed hb

/-! ## A stale request holds the link (R57) -/

/-- This request is in the link, stale. -/
def RadioUnit.holds (o : Outstanding) (r : RadioUnit) : Prop := r.outstanding = some o ∧ o.stale = true

theorem staleOf_some {o : Outstanding} (h : o.stale = true) : staleOf (some o) = some o := by
  cases o
  cases h
  rfl

section
variable {o : Outstanding} {r : RadioUnit} (h : r.holds o)
include h

theorem holds_stale : staleOf r.outstanding = some o := by
  rw [h.1]
  exact staleOf_some h.2

theorem holds_held : ¬r.linkFree = true := fun hf => by
  rw [linkFree_iff, h.1] at hf
  cases hf

theorem enter_holds (n : RadioState) (now : Time) : (r.enter n now).holds o := ⟨holds_stale h, h.2⟩

theorem toStopping_holds (now : Time) : (r.toStopping now).holds o :=
  ⟨(toStopping_fields now r).2.2.1.trans (holds_stale h), h.2⟩

theorem actsIdle_holds (now : Time) : (r.actsIdle now).holds o := by
  unfold RadioUnit.actsIdle
  split
  · exact toStopping_holds h now
  · rw [if_neg (holds_held h)]
    exact h

theorem toIdle_holds (now : Time) : (r.toIdle now).holds o := actsIdle_holds (enter_holds h _ _) now

theorem actsOff_holds (now : Time) : (r.actsOff now).holds o := by
  unfold RadioUnit.actsOff
  split
  · exact h
  · split
    · exact toIdle_holds h now
    · exact ⟨(drive_keeps now _).2.1.trans (holds_stale h), h.2⟩

theorem acts_holds (now : Time) : (r.acts now).holds o := by
  have hheld := holds_held h
  unfold RadioUnit.acts
  split
  · exact actsOff_holds h now
  · exact actsIdle_holds h now
  · unfold RadioUnit.actsAttached
    split
    · exact h
    · rw [if_neg hheld]
      exact h
    · rw [if_neg hheld]
      exact h
  · unfold RadioUnit.actsSession
    rw [if_neg fun hc => hheld hc.2]
    exact h
  all_goals exact h

end

theorem recomputeDemand_holds {o : Outstanding} {w : Work} (h : w.st.ru.holds o) : (recomputeDemand w).st.ru.holds o :=
  recomputeDemand_unit (P := fun r => r.holds o) (fun _ _ _ _ h => h) (fun _ now h _ => acts_holds h now) (fun _ now h _ => toIdle_holds h now) h

/-- A stale request in the link stays there through the passes of an event. -/
theorem event_holds {g : Work → Work} {s : State} {o : Outstanding} (hs : s.exch.service ≠ .init)
    (h : (g (Work.begin s)).st.ru.holds o) : (event g s).ru.holds o :=
  event_invariant (linkless_unit fun r => r.holds o) (fun _ hw => recomputeDemand_holds hw) hs h

/-! ## SESSION left for ATTACHED and for IDLE (R61, R69) -/

theorem moveTo_cond (n : RadioState) (w : Work) : (moveTo n w).st.condTrue := by
  have hcond : ∀ v : Work, (handConditions v).st.condTrue := fun v => by
    obtain ⟨e, he⟩ := handConditions_only v
    unfold State.condTrue
    rw [handConditions_cond, he]
    rfl
  unfold moveTo
  exact hcond _

theorem moveTo_outside {n : RadioState} (hn : n ≠ .session) (w : Work) : (moveTo n w).Outside :=
  ⟨moveTo_cond n w, by rw [moveTo_state]; exact hn⟩

theorem enterIdle_left {w : Work} (h : w.st.ru.state = .session) : w.st.Left (enterIdle w).st :=
  (moveTo_left (n := .idle) h (by decide)).moves (actIdle_moves (moveTo_outside (by decide) w))

theorem enterAttached_left {w : Work} (h : w.st.ru.state = .session) : w.st.Left (enterAttached w).st := by
  have hout := moveTo_outside (n := .attached) (by decide) w
  have hresets := onRu_stays (f := fun r => { r with resets := 0 }) (fun _ => rfl) hout
  exact ((moveTo_left (n := .attached) h (by decide)).moves hresets).moves (actAttached_moves (hresets.outside hout))

theorem State.Left.down {s t : State} (h : s.Left t) : t.radio.state = .down := by
  rw [h.radio]
  exact lostIn_state s .radio s.radio

/-! ## The entry into ATTACHED, as a change of the unit's record (R60) -/

/-- The unit in ATTACHED before it acts on its target. -/
def RadioUnit.attachedNow (now : Time) (r : RadioUnit) : RadioUnit := { r.enter .attached now with resets := 0 }

theorem toAttached_held {now : Time} {r : RadioUnit} {o : Outstanding} (h : r.outstanding = some o) :
    r.toAttached now = r.attachedNow now := by
  have hheld : ¬(r.attachedNow now).linkFree = true := fun hf => by
    rw [linkFree_iff, show (r.attachedNow now).outstanding = staleOf r.outstanding from rfl, h] at hf
    cases hf
  show (r.attachedNow now).actsAttached now = _
  unfold RadioUnit.actsAttached
  split
  · rfl
  · rw [if_neg hheld]
  · rw [if_neg hheld]

/-- The request of OPENING, with its answer time of 30 s (R56). -/
theorem openSession_asked (now : Time) :
    ({ kind := .openSession, stale := false, due := later now (30 * 1000) } : Outstanding)
      = { kind := .openSession, stale := false, due := now + 30000 } := by
  have hdue : later now (30 * 1000) = now + 30000 := by simp [later]
  rw [hdue]

theorem toAttached_resets (now : Time) (r : RadioUnit) : (r.toAttached now).resets = 0 := by
  show ((r.attachedNow now).actsAttached now).resets = _
  unfold RadioUnit.actsAttached
  split
  · rfl
  · split <;> rfl
  · split <;> rfl

theorem toAttached_free {now : Time} {r : RadioUnit} (h : r.outstanding = none) : r.toAttached now =
    match r.target with
    | .attached => r.attachedNow now
    | .session => ((r.attachedNow now).enter .opening now).send .openSession now
    | .off => ((r.attachedNow now).enter .detaching now).send .detach now := by
  have hfree : (r.attachedNow now).linkFree = true := by
    rw [linkFree_iff, show (r.attachedNow now).outstanding = staleOf r.outstanding from rfl, h]
    rfl
  show (r.attachedNow now).actsAttached now = _
  unfold RadioUnit.actsAttached
  rw [show (r.attachedNow now).target = r.target from rfl, if_pos hfree, if_pos hfree] <;> rfl

/-! ## SESSION_CLOSED and DETACHED (R69) -/

theorem exec_sessionClosed {s : State} (h : s.ru.rx = []) : exec .sessionClosed s = .next (event takeSessionClosed s) := by
  show Host.Outcome.next (event (takeFrame .sessionClosed) s) = _
  unfold event
  rw [takeFrame_hunting .sessionClosed (Work.begin s) h]
  rfl

theorem exec_detached {s : State} (h : s.ru.rx = []) : exec .detached s = .next (event takeDetached s) := by
  show Host.Outcome.next (event (takeFrame .detached) s) = _
  unfold event
  rw [takeFrame_hunting .detached (Work.begin s) h]
  rfl

theorem takeSessionClosed_attached {w : Work} (h : w.st.ru.state = .session ∨ w.st.ru.state = .closing) :
    takeSessionClosed w = enterAttached w := by
  unfold takeSessionClosed
  rcases h with h | h <;> rw [h]

theorem takeSessionClosed_rests {w : Work} (h : w.st.ru.state ≠ .session) (h' : w.st.ru.state ≠ .closing) :
    takeSessionClosed w = w := by
  unfold takeSessionClosed
  split
  · next hs => exact absurd hs h
  · next hs => exact absurd hs h'
  all_goals rfl

/-- The states that DETACHED takes to IDLE (R69). -/
def RadioState.isAttached : RadioState → Bool
  | .attached | .opening | .session | .closing | .detaching => true
  | .off | .powering | .idle | .attaching | .stopping | .backoff | .resetting | .fault | .resync => false

theorem takeDetached_idle {w : Work} (h : w.st.ru.state.isAttached = true) : takeDetached w = enterIdle w := by
  unfold takeDetached
  revert h
  cases w.st.ru.state <;> simp [RadioState.isAttached]

theorem takeDetached_rests {w : Work} (h : w.st.ru.state.isAttached = false) : takeDetached w = w := by
  unfold takeDetached
  revert h
  cases w.st.ru.state <;> simp [RadioState.isAttached]

theorem takeSessionClosed_keptByModem (s : State) : (takeSessionClosed (Work.begin s)).st.keptByModem = s.keptByModem :=
  (closed_keptByModem s.keptByModem).takeSessionClosed trivial (Work.begin s) rfl

theorem takeDetached_keptByModem (s : State) : (takeDetached (Work.begin s)).st.keptByModem = s.keptByModem :=
  (closed_keptByModem s.keptByModem).takeDetached (Work.begin s) rfl

section
variable {s : State} (hs : s.exch.service ≠ .init) (hsession : s.ru.state = .session)
include hs hsession

/-- SESSION CLOSED in SESSION. -/
theorem sessionClosed_left : s.Left (event takeSessionClosed s)
    ∧ (takeSessionClosed (Work.begin s)).st.ru = s.ru.toAttached s.now := by
  have heq : takeSessionClosed (Work.begin s) = enterAttached (Work.begin s) := takeSessionClosed_attached (Or.inl hsession)
  have hleft : s.Left (enterAttached (Work.begin s)).st := enterAttached_left (w := Work.begin s) hsession
  rw [← heq] at hleft
  exact ⟨(event_ended hs).left hleft, by rw [heq, enterAttached_ru]; rfl⟩

/-- DETACHED in SESSION. -/
theorem detached_left : s.Left (event takeDetached s)
    ∧ (takeDetached (Work.begin s)).st.ru = s.ru.toIdle s.now := by
  have heq : takeDetached (Work.begin s) = enterIdle (Work.begin s) := takeDetached_idle (w := Work.begin s) (by
    rw [show (Work.begin s).st.ru.state = .session from hsession]
    rfl)
  have hleft : s.Left (enterIdle (Work.begin s)).st := enterIdle_left (w := Work.begin s) hsession
  rw [← heq] at hleft
  exact ⟨(event_ended hs).left hleft, by rw [heq, enterIdle_ru]; rfl⟩

omit hsession in
theorem resets_of_event {g : Work → Work} : (event g s).ru.resets = (g (Work.begin s)).st.ru.resets :=
  (congrArg (fun u : State => u.ru.resets) (event_kept g s hs) :)

theorem sessionClosed_resets : (event takeSessionClosed s).ru.resets = 0 := by
  rw [resets_of_event hs, (sessionClosed_left hs hsession).2]
  exact toAttached_resets _ _

theorem sessionClosed_held {o : Outstanding} (h : s.ru.outstanding = some o) :
    (event takeSessionClosed s).ru.state = .attached
      ∧ (event takeSessionClosed s).ru.outstanding = some { o with stale := true } := by
  have hru := (sessionClosed_left hs hsession).2
  rw [toAttached_held h] at hru
  have hout : (s.ru.attachedNow s.now).outstanding = some { o with stale := true } := congrArg staleOf h
  have hsteady : (s.ru.attachedNow s.now).steady := ⟨nofun, nofun, nofun, fun _ hn => by rw [hout] at hn; cases hn⟩
  obtain ⟨hstate', hout'⟩ := unaimed_fields (event_steady (g := takeSessionClosed) hs (hru.symm ▸ hsteady))
  rw [hru] at hstate' hout'
  exact ⟨hstate', hout'.trans hout⟩

theorem sessionClosed_opens (h : s.ru.outstanding = none) (htarget : s.ru.target = .session) :
    (event takeSessionClosed s).ru.state = .opening
      ∧ (event takeSessionClosed s).ru.outstanding
        = some { kind := .openSession, stale := false, due := s.now + 30000 } := by
  have hru := (sessionClosed_left hs hsession).2
  rw [toAttached_free h, htarget] at hru
  obtain ⟨hstate', hout'⟩ := unaimed_fields (event_steady (g := takeSessionClosed) hs (by
    rw [hru]
    exact steady_of_still rfl))
  rw [hru] at hstate' hout'
  exact ⟨hstate', hout'.trans (congrArg some (openSession_asked s.now))⟩

theorem detached_held {o : Outstanding} (h : s.ru.outstanding = some o) :
    (event takeDetached s).ru.outstanding = some { o with stale := true } := by
  have hru := (detached_left hs hsession).2
  have hheld : (s.ru.enter .idle s.now).holds { o with stale := true } := ⟨congrArg staleOf h, rfl⟩
  have hout : (s.ru.toIdle s.now).holds { o with stale := true } := actsIdle_holds hheld s.now
  rw [← hru] at hout
  exact (event_holds hs hout).1

theorem detached_attaches (h : s.ru.outstanding = none) (htarget : s.ru.target ≠ .off) :
    (event takeDetached s).ru.state = .attaching ∧ (event takeDetached s).ru.attaches = s.ru.attaches + 1
      ∧ (event takeDetached s).ru.outstanding = some { kind := .attach, stale := false,
                                                       due := s.now + BitVec.ofNat 32 (s.ru.attachTimeout * 1000) } := by
  have hru := (detached_left hs hsession).2
  obtain ⟨hstate, -, hattaches, hout⟩ := (toIdle_fields s.now s.ru).2.2 htarget h
  have hsteady : (s.ru.toIdle s.now).steady := steady_of_still (by rw [hstate]; rfl)
  have hunit := event_steady (g := takeDetached) hs (by rw [hru]; exact hsteady)
  obtain ⟨hstate', hout'⟩ := unaimed_fields hunit
  have hattaches' : (event takeDetached s).ru.attaches = (takeDetached (Work.begin s)).st.ru.attaches :=
    (congrArg RadioUnit.attaches hunit :)
  rw [hru] at hstate' hout' hattaches'
  exact ⟨hstate'.trans hstate, hattaches'.trans hattaches, hout'.trans hout⟩

end

/-- DETACHED outside SESSION, in a state that it takes to IDLE. -/
theorem detached_idles {s : State} (hcur : s.current) (h : s.ru.state.isAttached = true) (hs : s.ru.state ≠ .session) :
    (event takeDetached s).ru = s.ru.toIdle s.now ∧ (event takeDetached s).radio = s.radio
      ∧ (event takeDetached s).grade = s.grade := by
  have heq : takeDetached (Work.begin s) = enterIdle (Work.begin s) := takeDetached_idle h
  have hmoves := enterIdle_moves (begin_outside hcur hs)
  rw [← heq] at hmoves
  obtain ⟨hru, hradio, hgrade⟩ := event_ruMoves_fields hcur hs hmoves
  rw [heq, enterIdle_ru] at hru
  exact ⟨hru, hradio, hgrade⟩

/-- An event that does nothing of its own. -/
theorem event_rests_plain {g : Work → Work} {s : State} (hcur : s.current) (h : g (Work.begin s) = Work.begin s) :
    (event g s).plain = s.plain := (settled_begin hcur).plain h

/-- Settles O42. -/
theorem indicationsMoveTheUnit : Obligations.IndicationsMoveTheUnit := by
  unfold Obligations.IndicationsMoveTheUnit
  intro s hs hrx
  have hattached : (s.ru.state = .attached ∨ s.ru.state = .opening ∨ s.ru.state = .closing ∨ s.ru.state = .detaching) →
      s.ru.state.isAttached = true ∧ s.ru.state ≠ .session := by
    intro h
    rcases h with h | h | h | h <;> rw [h] <;> exact ⟨rfl, nofun⟩
  refine ⟨fun hsession => ⟨_, _, exec_sessionClosed hrx, exec_detached hrx, ?session⟩,
    fun hstate hcur htarget hout => ⟨_, exec_detached hrx, ?free⟩,
    fun hstate hcur => ⟨fun o hout htarget => ⟨_, exec_detached hrx, ?held⟩,
      fun htarget => ⟨_, exec_detached hrx, ?off⟩⟩,
    fun hcur hstate => ⟨_, exec_sessionClosed hrx, ?rests⟩,
    fun hcur hstate => ⟨_, _, exec_sessionClosed hrx, exec_detached hrx, ?both⟩⟩
  case session =>
    have hclosed := (sessionClosed_left hs hsession).1
    have hdetached := (detached_left hs hsession).1
    refine ⟨hclosed.outside, hclosed.down, getLsbD_of_latched hclosed.left (by decide), sessionClosed_resets hs hsession,
      event_keptByModem _ s (takeSessionClosed_keptByModem s), hdetached.outside, hdetached.down,
      getLsbD_of_latched hdetached.left (by decide), event_keptByModem _ s (takeDetached_keptByModem s), hclosed.leaves,
      hdetached.leaves, fun o hout => ?_, fun hout htarget => sessionClosed_opens hs hsession hout htarget,
      fun hout htarget => detached_attaches hs hsession hout htarget⟩
    · obtain ⟨hstate, hstale⟩ := sessionClosed_held hs hsession hout
      exact ⟨hstate, hstale, detached_held hs hsession hout⟩
  case free =>
    obtain ⟨hru, -, -⟩ := detached_idles hcur (hattached hstate).1 (hattached hstate).2
    obtain ⟨hgoes, -, hattaches, hasks⟩ := (toIdle_fields s.now s.ru).2.2 htarget hout
    rw [hru]
    exact ⟨hgoes, hattaches, hasks⟩
  case held =>
    obtain ⟨hru, hradio, hgrade⟩ := detached_idles hcur (hattached hstate).1 (hattached hstate).2
    obtain ⟨hgoes, -, hstale, hattaches⟩ := (toIdle_fields s.now s.ru).2.1 htarget (by rw [hout]; nofun)
    rw [hru]
    exact ⟨hgoes, hstale.trans (congrArg staleOf hout), hattaches, event_keptByModem _ s (takeDetached_keptByModem s),
      hradio, hgrade⟩
  case off =>
    obtain ⟨hru, hradio, hgrade⟩ := detached_idles hcur (hattached hstate).1 (hattached hstate).2
    obtain ⟨hgoes, hdue, hstale, -⟩ := (toIdle_fields s.now s.ru).1 htarget
    rw [hru]
    exact ⟨hgoes, hdue, hstale, event_keptByModem _ s (takeDetached_keptByModem s), hradio, hgrade⟩
  case rests =>
    refine event_rests_plain hcur (takeSessionClosed_rests ?_ ?_)
    · rcases hstate with h | h | h <;> rw [show (Work.begin s).st.ru.state = s.ru.state from rfl, h] <;> decide
    · rcases hstate with h | h | h <;> rw [show (Work.begin s).st.ru.state = s.ru.state from rfl, h] <;> decide
  case both =>
    have hnot : s.ru.state.isAttached = false := by
      rcases hstate with h | h | h | h | h | h | h | h | h <;> rw [h] <;> rfl
    have hclosed : takeSessionClosed (Work.begin s) = Work.begin s := takeSessionClosed_rests
      (fun h => by rw [show s.ru.state = .session from h] at hnot; cases hnot)
      (fun h => by rw [show s.ru.state = .closing from h] at hnot; cases hnot)
    have hplain := event_rests_plain hcur hclosed
    refine ⟨?_, (event_rests_plain hcur (takeDetached_rests (w := Work.begin s) hnot)).trans hplain.symm⟩
    rw [hplain, ← hrx]

end Sys2Proof.Machine
end


section
/-! The link given away when it is free: the request that the unit's state waits to send, then a SIGNAL QUERY that waits;
and what the passes leave of it (R57, R71). -/

namespace Sys2Proof.Machine

/-! ## The request that a state waits to send (R59, R60, R61) -/

/-- A unit with the link free and a request to send sends it. -/
theorem acts_sends {r : RadioUnit} {n : RadioState} (now : Time) (hfree : r.outstanding = none) (h : r.sends = some n) :
    r.acts now = r.asking now n := by
  have hlink : r.linkFree = true := linkFree_iff.mpr hfree
  unfold RadioUnit.sends at h
  unfold RadioUnit.acts
  split at h
  · next hs ht =>
    cases h
    rw [hs]
    show r.actsIdle now = _
    unfold RadioUnit.actsIdle
    rw [if_neg (by rw [ht]; decide), if_pos hlink]
    exact asking_attach now r
  · next hs ht =>
    cases h
    rw [hs]
    show r.actsIdle now = _
    unfold RadioUnit.actsIdle
    rw [if_neg (by rw [ht]; decide), if_pos hlink]
    exact asking_attach now r
  · next hs ht =>
    cases h
    rw [hs]
    show r.actsAttached now = _
    unfold RadioUnit.actsAttached
    rw [ht]
    exact (if_pos hlink).trans (asking_openSession now r (by rw [hs]; rfl))
  · next hs ht =>
    cases h
    rw [hs]
    show r.actsAttached now = _
    unfold RadioUnit.actsAttached
    rw [ht]
    exact (if_pos hlink).trans (asking_detach now r)
  · next hs ht =>
    cases h
    rw [hs]
    show r.actsSession now = _
    unfold RadioUnit.actsSession
    rw [if_pos ⟨by rw [ht]; decide, hlink⟩]
    exact asking_closeSession now r
  · next hs ht =>
    cases h
    rw [hs]
    show r.actsSession now = _
    unfold RadioUnit.actsSession
    rw [if_pos ⟨by rw [ht]; decide, hlink⟩]
    exact asking_closeSession now r
  · cases h

/-- The states that a unit sends its request in. -/
theorem sends_cases {r : RadioUnit} {n : RadioState} (h : r.sends = some n) :
    (n = .attaching ∨ n = .opening ∨ n = .detaching ∨ n = .closing) ∧ (n = .closing ↔ r.state = .session) := by
  unfold RadioUnit.sends at h
  split at h <;> cases h <;> simp_all

/-- Outside IDLE, and outside OFF with another target, a unit with no request to send rests. -/
theorem acts_rests {r : RadioUnit} (now : Time) (h : r.sends = none) (hidle : r.state ≠ .idle)
    (hoff : r.state = .off → r.target = .off) : r.acts now = r := by
  unfold RadioUnit.sends at h
  unfold RadioUnit.acts
  cases hs : r.state with
  | off => exact if_pos (hoff hs)
  | idle => exact absurd hs hidle
  | attached =>
    cases ht : r.target with
    | attached =>
      show r.actsAttached now = r
      unfold RadioUnit.actsAttached
      rw [ht]
    | session => rw [hs, ht] at h; cases h
    | off => rw [hs, ht] at h; cases h
  | session =>
    cases ht : r.target with
    | attached => rw [hs, ht] at h; cases h
    | session => exact if_neg fun hc => hc.1 ht
    | off => rw [hs, ht] at h; cases h
  | _ => rfl

theorem act_rests {w : Work} (h : w.st.ru.sends = none) (hidle : w.st.ru.state ≠ .idle)
    (hoff : w.st.ru.state = .off → w.st.ru.target = .off) : act w = w := by
  unfold RadioUnit.sends at h
  unfold act
  cases hs : w.st.ru.state with
  | off => exact if_pos (hoff hs)
  | idle => exact absurd hs hidle
  | attached =>
    cases ht : w.st.ru.target with
    | attached =>
      show actAttached w = w
      unfold actAttached
      rw [ht]
    | session => rw [hs, ht] at h; cases h
    | off => rw [hs, ht] at h; cases h
  | session =>
    cases ht : w.st.ru.target with
    | attached => rw [hs, ht] at h; cases h
    | session => exact if_neg fun hc => hc.1 ht
    | off => rw [hs, ht] at h; cases h
  | _ => rfl

/-! ## Away from where the unit was -/

/-- A unit that has left a state that a change of target can move, with the link free: it stays away. -/
def RadioUnit.away (n : RadioState) (r : RadioUnit) : Prop :=
  r.state.still = true ∨ (r.state = .off ∧ r.outstanding = none ∧ n ≠ .off)

theorem away_ne {n : RadioState} (hn : n.still = false) {r : RadioUnit} (h : r.away n) : r.state ≠ n := by
  intro he
  rcases h with h | ⟨hoff, -, hne⟩
  · rw [he, hn] at h
    cases h
  · exact hne (he.symm.trans hoff)

theorem toIdle_away {n : RadioState} (hn : n ≠ .off) {r : RadioUnit} (h : r.outstanding = none) (now : Time) :
    (r.toIdle now).away n := by
  obtain ⟨hoff, -, hfree⟩ := toIdle_fields now r
  by_cases ht : r.target = .off
  · obtain ⟨hstate, -, hout, -⟩ := hoff ht
    rw [h] at hout
    cases hr : r.ready with
    | true =>
      rw [hr] at hstate
      exact Or.inl (by rw [hstate]; rfl)
    | false =>
      rw [hr] at hstate
      exact Or.inr ⟨hstate, hout, hn⟩
  · exact Or.inl (by rw [(hfree ht h).1]; rfl)

theorem toStopping_away {n : RadioState} (hn : n ≠ .off) {r : RadioUnit} (h : r.outstanding = none) (now : Time) :
    (r.toStopping now).away n := by
  obtain ⟨hstate, -, hout, -⟩ := toStopping_fields now r
  rw [h] at hout
  cases hr : r.ready with
  | true =>
    rw [hr] at hstate
    exact Or.inl (by rw [hstate]; rfl)
  | false =>
    rw [hr] at hstate
    exact Or.inr ⟨hstate, hout, hn⟩

theorem actsOff_away {r : RadioUnit} (h : r.outstanding = none) (now : Time) :
    r.actsOff now = r ∨ (r.actsOff now).state.still = true := by
  unfold RadioUnit.actsOff
  split
  · exact Or.inl rfl
  · next ht =>
    refine Or.inr ?_
    split
    · rw [((toIdle_fields now r).2.2 ht h).1]
      rfl
    · have hstate := (drive_keeps now (r.enter .powering now)).1
      show ((r.enter .powering now).drive now).state.still = true
      rw [hstate]
      rfl

/-- A unit with the link free, in a state that a change of target can move, acts by resting or by going away. -/
theorem acts_away {r : RadioUnit} (h : r.outstanding = none) (now : Time) :
    r.acts now = r ∨ (r.acts now).away r.state := by
  cases hsends : r.sends with
  | some n =>
    refine Or.inr (Or.inl ?_)
    rw [acts_sends now h hsends]
    rcases (sends_cases hsends).1 with rfl | rfl | rfl | rfl <;> rfl
  | none =>
    by_cases hidle : r.state = .idle
    · by_cases ht : r.target = .off
      · refine Or.inr ?_
        have hacts : r.acts now = r.toStopping now := by
          unfold RadioUnit.acts
          rw [hidle]
          exact if_pos ht
        rw [hacts, hidle]
        exact toStopping_away (by decide) h now
      · unfold RadioUnit.sends at hsends
        cases ht' : r.target with
        | off => exact absurd ht' ht
        | attached => rw [hidle, ht'] at hsends; cases hsends
        | session => rw [hidle, ht'] at hsends; cases hsends
    · by_cases hoff : r.state = .off
      · have hacts : r.acts now = r.actsOff now := by
          unfold RadioUnit.acts
          rw [hoff]
        rw [hacts]
        exact (actsOff_away h now).imp_right Or.inl
      · exact Or.inl (acts_rests now hsends hidle fun hc => absurd hc hoff)

/-- As this unit was, or away from its state. -/
def RadioUnit.unmovedOrAway (u r : RadioUnit) : Prop := r.unaimed = u.unaimed ∨ r.away u.state

theorem still_acts {r : RadioUnit} (h : r.state.still = true) (now : Time) : r.acts now = r := by
  unfold RadioUnit.acts
  revert h
  cases r.state <;> simp [RadioState.still]

theorem acts_unmovedOrAway {u r : RadioUnit} (hu : u.outstanding = none) (now : Time) (h : u.unmovedOrAway r) :
    u.unmovedOrAway (r.acts now) := by
  rcases h with h | h | ⟨hoff, hout, hne⟩
  · obtain ⟨hstate, hout⟩ := unaimed_fields h
    rcases acts_away (hout.trans hu) now with he | ha
    · exact Or.inl (by rw [he]; exact h)
    · exact Or.inr (hstate ▸ ha)
  · exact Or.inr (Or.inl (by rw [still_acts h]; exact h))
  · rcases acts_away hout now with he | ha
    · exact Or.inr (Or.inr (by rw [he]; exact ⟨hoff, hout, hne⟩))
    · exact Or.inr (ha.imp_right fun hc => absurd hoff hc.2.2)

theorem recomputeDemand_unmovedOrAway {u : RadioUnit} (hu : u.outstanding = none) {w : Work}
    (h : u.unmovedOrAway w.st.ru) : u.unmovedOrAway (recomputeDemand w).st.ru := by
  refine recomputeDemand_unit (P := fun r => u.unmovedOrAway r) (fun _ _ _ _ h => h)
    (fun _ now h _ => acts_unmovedOrAway hu now h) (fun r now h hb => ?_) h
  rcases h with h | h | ⟨hoff, -⟩
  · obtain ⟨hstate, hout⟩ := unaimed_fields h
    exact Or.inr (toIdle_away (by rw [← hstate, hb]; decide) (hout.trans hu) now)
  · rw [hb] at h
    cases h
  · rw [hb] at hoff
    cases hoff

end Sys2Proof.Machine
end


section
/-! The link served in an event: what `linkServed` and `linkFreed` say of it (R57, R61, R71). -/

namespace Sys2Proof.Machine

/-! ## The steps of `serveLink` -/

theorem walk_noQuery : RuWalk fun r => r.queryPending = false where
  enter := fun n _ r h => by
    show (n.polls && r.queryPending) = false
    rw [h, Bool.and_false]
  send := fun _ _ _ h => h
  timer := fun _ _ h => h
  pulse := fun _ _ h => h

theorem serveLink_acts {w : Work} (hfree : w.st.ru.outstanding = none)
    (h : (act w).st.ru.outstanding ≠ none ∨ (act w).st.ru.queryPending = false) : serveLink w = act w := by
  unfold serveLink
  rw [if_pos (linkFree_iff.mpr hfree)]
  refine if_neg ?_
  rw [Bool.and_eq_true, linkFree_iff]
  rintro ⟨hnone, hquery⟩
  rcases h with h | h
  · exact h hnone
  · rw [hquery] at h
    cases h

section
variable {w : Work} (hfree : w.st.ru.outstanding = none)
include hfree

/-- The request that the state waits to send goes first (R57). -/
theorem serveLink_sends {n : RadioState} (h : w.st.ru.sends = some n) :
    serveLink w = act w ∧ (serveLink w).st.ru = w.st.ru.asking w.now n := by
  have hru : (act w).st.ru = w.st.ru.asking w.now n := (act_ru w).trans (acts_sends _ hfree h)
  have heq : serveLink w = act w := serveLink_acts hfree (Or.inl (by rw [hru]; nofun))
  exact ⟨heq, by rw [heq, hru]⟩

/-- The work that has sent the SIGNAL QUERY that waited. -/
theorem serveLink_queries (hs : w.st.ru.sends = none) (hpolls : w.st.ru.state = .attached ∨ w.st.ru.state = .opening
    ∨ w.st.ru.state = .session) (hq : w.st.ru.queryPending = true) :
    serveLink w = sendRequest .signalQuery (w.onRu fun r => { r with queryPending := false }) := by
  have hact : act w = w := act_rests hs (fun h => by rw [h] at hpolls; rcases hpolls with h | h | h <;> cases h)
    fun h => by rw [h] at hpolls; rcases hpolls with h | h | h <;> cases h
  unfold serveLink
  rw [if_pos (linkFree_iff.mpr hfree)]
  dsimp only
  rw [hact, linkFree_iff.mpr hfree, hq]
  rfl

theorem serveLink_unasked (hq : w.st.ru.queryPending = false) : serveLink w = act w :=
  serveLink_acts hfree (Or.inr (walk_noQuery.act w hq))

theorem serveLink_rests (hs : w.st.ru.sends = none) (hidle : w.st.ru.state ≠ .idle)
    (hoff : w.st.ru.state = .off → w.st.ru.target = .off) (hq : w.st.ru.queryPending = false) : serveLink w = w :=
  (serveLink_unasked hfree hq).trans (act_rests hs hidle hoff)

end

theorem querying_ru (w : Work) : (sendRequest .signalQuery (w.onRu fun r => { r with queryPending := false })).st
    = { w.st with ru := w.st.ru.querying w.now } := by
  have hunit : ({ w.st.ru with queryPending := false } : RadioUnit).send .signalQuery w.now = w.st.ru.querying w.now :=
    querying_eq_send w.now w.st.ru
  show ({ w.st with ru := ({ w.st.ru with queryPending := false } : RadioUnit).send .signalQuery w.now } : State) = _
  rw [hunit]

/-- With CLOSE SESSION the session is left. -/
theorem actSession_left {w : Work} (h : w.st.ru.state = .session) (ht : w.st.ru.target ≠ .session)
    (hfree : w.st.ru.outstanding = none) : w.st.Left (actSession w).st := by
  unfold actSession
  rw [if_pos ⟨ht, linkFree_iff.mpr hfree⟩]
  exact (moveTo_left (n := .closing) h (by decide)).sends .closeSession

theorem sends_closing {r : RadioUnit} (h : r.sends = some .closing) : r.state = .session ∧ r.target ≠ .session := by
  have hstate := (sends_cases h).2.mp rfl
  refine ⟨hstate, fun ht => ?_⟩
  unfold RadioUnit.sends at h
  rw [hstate, ht] at h
  cases h

theorem serveLink_left {w : Work} (hfree : w.st.ru.outstanding = none) (h : w.st.ru.sends = some .closing) :
    w.st.Left (serveLink w).st := by
  obtain ⟨hstate, htarget⟩ := sends_closing h
  have hact : act w = actSession w := by
    unfold act
    rw [hstate]
  rw [(serveLink_sends hfree h).1, hact]
  exact actSession_left hstate htarget hfree

/-! ## What the event leaves of it -/

theorem asking_steady {r : RadioUnit} {n : RadioState} (now : Time)
    (h : n = .attaching ∨ n = .opening ∨ n = .detaching ∨ n = .closing) : (r.asking now n).steady := by
  refine steady_of_still ?_
  show n.still = true
  rcases h with rfl | rfl | rfl | rfl <;> rfl

theorem querying_steady {r : RadioUnit} (now : Time)
    (h : r.state = .attached ∨ r.state = .opening ∨ r.state = .session) : (r.querying now).steady := by
  have hstate : (r.querying now).state = r.state := rfl
  have hout : (r.querying now).outstanding ≠ none := nofun
  constructor
  · rw [hstate]
    rcases h with h | h | h <;> rw [h] <;> decide
  · rw [hstate]
    rcases h with h | h | h <;> rw [h] <;> decide
  · rw [hstate]
    rcases h with h | h | h <;> rw [h] <;> decide
  · exact fun _ => hout

theorem acts_still_or {r : RadioUnit} (h : r.outstanding = none) (now : Time) : r.unmovedOrAway (r.acts now) :=
  (acts_away h now).imp_left fun he => by rw [he]

/-- The unit that has served the link, at the end of the event. -/
theorem linkServed_of {v : Work} {t : State} (hfree : v.st.ru.outstanding = none) (h : (serveLink v).st.Ended t) :
    v.st.linkServed t := by
  refine ⟨fun n hsends => ?_, fun hsends hquery hpolls => ?_, fun _ hquery hstate => ?_⟩
  · have hru := (serveLink_sends hfree hsends).2
    have hunit := h.steady (by
      rw [hru]
      exact asking_steady _ (sends_cases hsends).1)
    rw [hru] at hunit
    exact hunit
  · have hru : (serveLink v).st.ru = v.st.ru.querying v.now := by
      rw [serveLink_queries hfree hsends hpolls hquery, querying_ru]
    have hunit := h.steady (by
      rw [hru]
      exact querying_steady _ hpolls)
    rw [hru] at hunit
    exact hunit
  · have hru : (serveLink v).st.ru = v.st.ru.acts v.now := by rw [serveLink_unasked hfree hquery, act_ru]
    by_cases hstill : v.st.ru.state.still = true
    · rw [still_acts hstill] at hru
      have hunit := h.steady (by
        rw [hru]
        exact steady_of_still hstill)
      rw [hru] at hunit
      exact hunit
    · have hstart : v.st.ru.unmovedOrAway (serveLink v).st.ru := by
        rw [hru]
        exact acts_still_or hfree v.now
      have hend := h.unit (fun r => v.st.ru.unmovedOrAway r) (fun _ hw => recomputeDemand_unmovedOrAway hfree hw) hstart
      exact hend.resolve_right fun haway => away_ne (Bool.eq_false_iff.mpr hstill) haway hstate

/-! ## An event that frees the link and does nothing else of its own -/

/-- The work before the link is given away: it owes nothing, and its facts stand. -/
structure Work.Quietly (s : State) (v : Work) : Prop where
  service : s.exch.service ≠ .init
  pass : v.passDue = false
  demand : v.demandDue = false
  flows : v.st.flows = s.flows
  cond : v.st.condTrue
  irq : v.st.irqTrue

/-- Steps that change the unit's record alone, in SESSION or out of it before and after, as an event. -/
theorem Work.Quietly.plain {s : State} {v x : Work} {g : Work → Work} {r : RadioUnit} (h : v.Quietly s)
    (hg : g (Work.begin s) = x) (hst : x.st = { v.st with ru := r }) (hpass : x.passDue = v.passDue)
    (hdemand : x.demandDue = v.demandDue) (hsession : r.state = .session ↔ v.st.ru.state = .session) :
    (event g s).plain = ({ v.st with ru := r } : State).plain := by
  have hflows : x.st.flows = s.flows := by
    rw [hst]
    exact h.flows
  have hcond : x.st.condTrue := by
    rw [hst]
    exact h.cond.trans (facts_ru hsession).symm
  have hirq : x.st.irqTrue := by
    rw [hst]
    exact h.irq
  refine (event_settled g s h.service hg (hpass.trans h.pass) (hdemand.trans h.demand) (by rw [hflows]) hcond hirq).trans ?_
  rw [hst]

theorem linkFreed_of {s : State} {v : Work} {g : Work → Work} (h : v.Quietly s) (hfree : v.st.ru.outstanding = none)
    (hg : g (Work.begin s) = serveLink v) (hkept : (event g s).keptByModem = v.st.keptByModem) :
    v.st.linkFreed (event g s) := by
  have hended := event_ended (g := g) h.service
  rw [hg] at hended
  refine ⟨linkServed_of hfree hended, hkept, fun hsends => (hended.left (serveLink_left hfree hsends)).leaves,
    fun n hsends hn => ?asks, fun hrests hpolls hquery => ?queries, fun hrests hquery => ?rests⟩
  case asks =>
    obtain ⟨heq, hru⟩ := serveLink_sends hfree hsends
    obtain ⟨hcases, hclosing⟩ := sends_cases hsends
    have hne : v.st.ru.state ≠ .session := fun hs => hn (hclosing.mpr hs)
    have hmoves := act_moves (w := v) ⟨h.cond, hne⟩
    rw [← heq] at hmoves
    have hst := hmoves.st
    rw [hru] at hst
    refine h.plain hg hst hmoves.pass hmoves.demand ⟨fun hs => absurd hs ?_, fun hs => absurd hs hne⟩
    show n ≠ .session
    rcases hcases with rfl | rfl | rfl | rfl <;> decide
  case queries =>
    have heq := serveLink_queries hfree hrests.1 hpolls hquery
    exact h.plain (hg.trans heq) (querying_ru v) rfl rfl Iff.rfl
  case rests =>
    have heq := serveLink_rests hfree hrests.1 hrests.2.1 hrests.2.2 hquery
    exact h.plain (r := v.st.ru) (hg.trans heq) rfl rfl rfl Iff.rfl

end Sys2Proof.Machine
end


section
/-! Refusals and timeouts of requests (R56, R59, R60, R62, R64, R65, R68). -/

namespace Sys2Proof.Machine

/-! ## Where an answer leaves nothing for the link to serve -/

/-- The unit needs nothing of the link: it is held, or no request of its state and no query waits for it. -/
def RadioUnit.served (r : RadioUnit) : Prop :=
  r.outstanding ≠ none ∨ (r.queryPending = false ∧ r.sends = none ∧ r.state ≠ .idle ∧ (r.state = .off → r.target = .off))

theorem serveLink_served {w : Work} (h : w.st.ru.served) : serveLink w = w := by
  by_cases hfree : w.st.ru.outstanding = none
  · obtain ⟨hquery, hsends, hidle, hoff⟩ := h.resolve_left fun hn => hn hfree
    exact serveLink_rests hfree hsends hidle hoff hquery
  · exact if_neg fun hf => hfree (linkFree_iff.mp hf)

/-- An event that enters a state outside SESSION after the request in the link has gone. -/
theorem event_enters {g E : Work → Work} {f : RadioUnit → RadioUnit} {q : RadioUnit} {s : State} (hcur : s.current)
    (hs : s.ru.state ≠ .session) (hg : g (Work.begin s) = serveLink (E ((Work.begin s).onRu f)))
    (hf : ∀ r, (f r).state = r.state) (hE : ∀ w : Work, w.Outside → w.RuMoves (E w))
    (hq : (E ((Work.begin s).onRu f)).st.ru = q) (hserved : q.served) :
    (event g s).ru = q ∧ (event g s).radio = s.radio ∧ (event g s).grade = s.grade := by
  have hon := onRu_stays hf (begin_outside hcur hs)
  have hmoves := hon.trans (hE _ (hon.outside (begin_outside hcur hs)))
  have heq : g (Work.begin s) = E ((Work.begin s).onRu f) := hg.trans (serveLink_served (by rw [hq]; exact hserved))
  have hall : (Work.begin s).RuMoves (g (Work.begin s)) := by
    rw [heq]
    exact hmoves
  obtain ⟨hru, hradio, hgrade⟩ := event_ruMoves_fields hcur hs hall
  rw [heq, hq] at hru
  exact ⟨hru, hradio, hgrade⟩

theorem toBackoff_served (now : Time) (r : RadioUnit) : (r.toBackoff now).served := Or.inr ⟨rfl, rfl, nofun, nofun⟩

theorem toResetting_served (now : Time) (r : RadioUnit) : (r.toResetting now).served := Or.inr ⟨rfl, rfl, nofun, nofun⟩

theorem enter_unqueried {n : RadioState} (hn : n.polls = false) (now : Time) (r : RadioUnit) :
    (r.enter n now).queryPending = false := by
  show (n.polls && r.queryPending) = false
  rw [hn, Bool.false_and]

theorem toStopping_unqueried (now : Time) (r : RadioUnit) : (r.toStopping now).queryPending = false := by
  unfold RadioUnit.toStopping
  split
  · show ((r.enter .stopping now).drive now).queryPending = false
    unfold RadioUnit.drive
    split <;> exact enter_unqueried (n := .stopping) rfl now r
  · exact enter_unqueried (n := .off) rfl now _

/-- A unit that has entered IDLE with the link free has found its request or its rest. -/
theorem toIdle_served (now : Time) {r : RadioUnit} (h : r.outstanding = none) : (r.toIdle now).served := by
  obtain ⟨hoff, -, hfree⟩ := toIdle_fields now r
  by_cases ht : r.target = .off
  · obtain ⟨hstate, -, -, -⟩ := hoff ht
    have htarget : (r.toIdle now).target = .off := by
      have heq : r.toIdle now = (r.enter .idle now).toStopping now := if_pos ht
      rw [heq]
      unfold RadioUnit.toStopping
      split
      · show ((RadioUnit.enter .stopping now (r.enter .idle now)).drive now).target = .off
        unfold RadioUnit.drive
        split <;> exact ht
      · exact ht
    have hquery : (r.toIdle now).queryPending = false := by
      have heq : r.toIdle now = (r.enter .idle now).toStopping now := if_pos ht
      rw [heq]
      exact toStopping_unqueried _ _
    refine Or.inr ⟨hquery, ?_, ?_, fun _ => htarget⟩
    · unfold RadioUnit.sends
      rw [hstate]
      cases r.ready <;> rfl
    · rw [hstate]
      cases r.ready <;> decide
  · refine Or.inl ?_
    rw [(hfree ht h).2.2.2]
    nofun

/-! ## The commands, for a receiver that hunts (R55, R56) -/

theorem exec_okAnswer {s : State} (h : s.ru.rx = []) : exec .okAnswer s = .next (event takeOk s) := by
  show Host.Outcome.next (event (takeFrame .ok) s) = _
  unfold event
  rw [takeFrame_hunting .ok (Work.begin s) h]
  rfl

theorem exec_refusedAnswer {s : State} (reason : Byte) (h : s.ru.rx = []) :
    exec (.refusedAnswer reason) s = .next (event (takeRefused reason) s) := by
  show Host.Outcome.next (event (takeFrame (.refused reason)) s) = _
  unfold event
  rw [takeFrame_hunting (.refused reason) (Work.begin s) h]
  rfl

theorem exec_answerTimeout {s : State} {o : Outstanding} (ho : s.ru.outstanding = some o)
    (h : reached s.now o.due = true) : exec .answerTimeout s = .next (event answerTimedOut s) := by
  show execAnswerTimeout s = _
  unfold execAnswerTimeout RadioUnit.answerDue
  rw [ho]
  exact congrArg Host.Outcome.next (if_pos h)

section
variable {w : Work} {k : Request} {due : Time}

theorem takeRefused_open (reason : Byte) (h : w.st.ru.outstanding = some { kind := k, stale := false, due := due })
    (hk : k ≠ .signalQuery) : takeRefused reason w = serveLink (refusedTo k
      (w.onRu fun r => { r with outstanding := none, refusalReason := reason, refusalKind := some k })) := by
  unfold takeRefused
  rw [h]
  exact if_neg hk

theorem takeRefused_stale (reason : Byte) (h : w.st.ru.outstanding = some { kind := k, stale := true, due := due })
    (hk : k ≠ .signalQuery) : takeRefused reason w = serveLink (clearRequest w) := by
  unfold takeRefused
  rw [h]
  exact if_neg hk

theorem takeOk_open (h : w.st.ru.outstanding = some { kind := k, stale := false, due := due }) (hk : k ≠ .signalQuery) :
    takeOk w = serveLink (okTo k (clearRequest w)) := by
  unfold takeOk
  rw [h]
  exact if_neg hk

theorem takeOk_stale (h : w.st.ru.outstanding = some { kind := k, stale := true, due := due }) (hk : k ≠ .signalQuery) :
    takeOk w = serveLink (clearRequest w) := by
  unfold takeOk
  rw [h]
  exact if_neg hk

theorem answerTimedOut_open (h : w.st.ru.outstanding = some { kind := k, stale := false, due := due })
    (hk : k ≠ .signalQuery) : answerTimedOut w = serveLink (timeoutOf k (clearRequest w)) := by
  unfold answerTimedOut takeTimeout
  rw [h]
  exact if_neg hk

theorem answerTimedOut_stale (h : w.st.ru.outstanding = some { kind := k, stale := true, due := due })
    (hk : k ≠ .signalQuery) : answerTimedOut w = serveLink (clearRequest w) := by
  unfold answerTimedOut takeTimeout
  rw [h]
  exact if_neg hk

end

theorem takeRefused_keptByModem (reason : Byte) (s : State) :
    (event (takeRefused reason) s).keptByModem = s.keptByModem :=
  event_keptByModem _ s ((closed_keptByModem s.keptByModem).takeRefused trivial reason (Work.begin s) rfl)

theorem takeOk_keptByModem (s : State) : (event takeOk s).keptByModem = s.keptByModem :=
  event_keptByModem _ s ((closed_keptByModem s.keptByModem).takeOk trivial (Work.begin s) rfl)

theorem answerTimedOut_keptByModem (s : State) : (event answerTimedOut s).keptByModem = s.keptByModem :=
  event_keptByModem _ s ((closed_keptByModem s.keptByModem).answerTimedOut trivial (Work.begin s) rfl)

end Sys2Proof.Machine
end


section
/-! The answers that fail (R56, R59, R60, R62, R64, R65, R68). -/

namespace Sys2Proof.Machine

/-! ## BACKOFF and RESETTING -/

theorem toBackoff_fields {now : Time} {r : RadioUnit} (h : r.outstanding = none) :
    (r.toBackoff now).state = .backoff ∧ (r.toBackoff now).outstanding = none
      ∧ (r.toBackoff now).queryPending = false ∧ (r.toBackoff now).pollDue = none
      ∧ (r.toBackoff now).attaches = r.attaches
      ∧ (r.toBackoff now).stateDue = some (now + BitVec.ofNat 32 (r.b * 1000))
      ∧ (r.toBackoff now).b = min 640 (2 * r.b) :=
  ⟨rfl, by rw [show (r.toBackoff now).outstanding = staleOf r.outstanding from rfl, h]; rfl, rfl, rfl, rfl, rfl, rfl⟩

section
variable {g : Work → Work} {f : RadioUnit → RadioUnit} {s : State} (hcur : s.current) (hs : s.ru.state ≠ .session)
  (hf : ∀ r, (f r).state = r.state)
include hcur hs hf

/-- An answer that leads to BACKOFF (R64). -/
theorem event_backsOff (hg : g (Work.begin s) = serveLink (enterBackoff ((Work.begin s).onRu f))) :
    (event g s).ru = (f s.ru).toBackoff s.now ∧ (event g s).radio = s.radio ∧ (event g s).grade = s.grade :=
  event_enters hcur hs hg hf (fun _ => enterBackoff_moves) (enterBackoff_ru _) (toBackoff_served _ _)

/-- An answer that resets the modem (R59, R65). -/
theorem event_resetting (hg : g (Work.begin s) = serveLink (enterResetting ((Work.begin s).onRu f))) :
    (event g s).ru = (f s.ru).toResetting s.now ∧ (event g s).radio = s.radio ∧ (event g s).grade = s.grade :=
  event_enters hcur hs hg hf (fun _ => enterResetting_moves) (enterResetting_ru _) (toResetting_served _ _)

/-- An answer that leads to IDLE (R59, R62, R68). -/
theorem event_idling (hout : (f s.ru).outstanding = none)
    (hg : g (Work.begin s) = serveLink (enterIdle ((Work.begin s).onRu f))) :
    (event g s).ru = (f s.ru).toIdle s.now ∧ (event g s).radio = s.radio ∧ (event g s).grade = s.grade :=
  event_enters hcur hs hg hf (fun _ => enterIdle_moves) (enterIdle_ru _) (toIdle_served _ hout)

end

theorem attachTimedOut_backsOff {w : Work} (h : w.st.ru.attachTimeouts < 2) : attachTimedOut w =
    enterBackoff (w.onRu fun r => { r with attachTimeouts := min 3 (r.attachTimeouts + 1) }) := by
  unfold attachTimedOut
  dsimp only
  refine if_neg ?_
  show ¬min 3 (w.st.ru.attachTimeouts + 1) = 3
  omega

theorem attachTimedOut_resets {w : Work} (h : w.st.ru.attachTimeouts = 2) : attachTimedOut w =
    enterResetting (w.onRu fun r => { r with attachTimeouts := min 3 (r.attachTimeouts + 1) }) := by
  unfold attachTimedOut
  dsimp only
  refine if_pos ?_
  show min 3 (w.st.ru.attachTimeouts + 1) = 3
  omega

theorem refusedTo_attach {w : Work} (h : w.st.ru.state = .attaching) :
    refusedTo .attach w = enterBackoff (w.onRu fun r => { r with attachTimeouts := 0 }) := by
  unfold refusedTo
  rw [h]

theorem refusedTo_openSession {w : Work} (h : w.st.ru.state = .opening) : refusedTo .openSession w = enterBackoff w := by
  unfold refusedTo
  rw [h]

theorem refusedTo_detach {w : Work} (h : w.st.ru.state = .detaching ∨ w.st.ru.state = .resync) :
    refusedTo .detach w = enterIdle w := by
  unfold refusedTo
  rcases h with h | h
  · rw [h]
  · rw [h]
    rfl

theorem refusedTo_closeSession {w : Work} (h : w.st.ru.state = .resync) :
    refusedTo .closeSession w = sendRequest .detach w := by
  unfold refusedTo
  rw [h]
  rfl

theorem timeoutOf_attach {w : Work} (h : w.st.ru.state = .attaching) : timeoutOf .attach w = attachTimedOut w := by
  unfold timeoutOf
  rw [h]

theorem timeoutOf_openSession {w : Work} (h : w.st.ru.state = .opening) : timeoutOf .openSession w = enterBackoff w := by
  unfold timeoutOf
  rw [h]

theorem timeoutOf_closing {w : Work} (h : w.st.ru.state = .closing) : timeoutOf .closeSession w = enterResetting w := by
  unfold timeoutOf
  rw [h]

theorem timeoutOf_detaching {w : Work} (h : w.st.ru.state = .detaching) : timeoutOf .detach w = enterResetting w := by
  unfold timeoutOf
  rw [h]

theorem timeoutOf_resync {w : Work} (h : w.st.ru.state = .resync) (k : Request) : timeoutOf k w = resyncStep k w := by
  unfold timeoutOf
  rw [h]

/-! ## A stale request's answer frees the link (R57) -/

theorem clearRequest_quietly {s : State} (hcur : s.current) : (clearRequest (Work.begin s)).Quietly s :=
  ⟨hcur.1, rfl, rfl, rfl, hcur.2.1.trans (facts_ru Iff.rfl).symm, hcur.2.2⟩

/-- An event that does nothing of its own but free the link. -/
theorem event_frees {g : Work → Work} {s : State} (hcur : s.current)
    (hg : g (Work.begin s) = serveLink (clearRequest (Work.begin s))) (hkept : (event g s).keptByModem = s.keptByModem) :
    ({ s with ru := { s.ru with outstanding := none } } : State).linkFreed (event g s) :=
  linkFreed_of (clearRequest_quietly hcur) rfl hg hkept

theorem event_frees_plain {g : Work → Work} {s : State} (hcur : s.current)
    (hg : g (Work.begin s) = serveLink (clearRequest (Work.begin s))) (hquery : s.ru.queryPending = false)
    (hstate : s.ru.state = .backoff ∨ s.ru.state = .powering ∨ s.ru.state = .resetting ∨ s.ru.state = .fault) :
    (event g s).plain = ({ s with ru := { s.ru with outstanding := none } } : State).plain := by
  have hserved : (clearRequest (Work.begin s)).st.ru.served := by
    have hru : (clearRequest (Work.begin s)).st.ru = { s.ru with outstanding := none } := rfl
    rw [hru]
    refine Or.inr ⟨hquery, ?_, ?_, ?_⟩
    · unfold RadioUnit.sends
      rcases hstate with h | h | h | h <;> rw [h]
    · rcases hstate with h | h | h | h <;> rw [show _ = s.ru.state from rfl, h] <;> decide
    · intro ho
      rw [show s.ru.state = .off from ho] at hstate
      rcases hstate with h | h | h | h <;> cases h
  exact (clearRequest_quietly hcur).plain (r := { s.ru with outstanding := none }) (hg.trans (serveLink_served hserved))
    rfl rfl rfl Iff.rfl

/-! ## The request of RESYNC (R68) -/

theorem event_resync {g : Work → Work} {f : RadioUnit → RadioUnit} {s : State} (hcur : s.current)
    (hf : ∀ r, (f r).state = r.state)
    (hg : g (Work.begin s) = serveLink (sendRequest .detach ((Work.begin s).onRu f))) :
    (event g s).plain = ({ s with ru := (f s.ru).send .detach s.now } : State).plain := by
  have hserved : (sendRequest .detach ((Work.begin s).onRu f)).st.ru.served := Or.inl nofun
  have hquiet : (Work.begin s).Quietly s := ⟨hcur.1, rfl, rfl, rfl, hcur.2.1, hcur.2.2⟩
  refine hquiet.plain (hg.trans (serveLink_served hserved)) rfl rfl rfl ?_
  show (f s.ru).state = .session ↔ s.ru.state = .session
  rw [hf]

theorem send_detach (now : Time) (r : RadioUnit) : r.send .detach now = { r with
    tx := [0x7E, 0x02, 0x00, 0xFE],
    outstanding := some { kind := .detach, stale := false, due := now + 15000 } } := by
  have hdue : later now (15 * 1000) = now + 15000 := by simp [later]
  have htx : requestFrame .detach = [0x7E, 0x02, 0x00, 0xFE] := by decide
  unfold RadioUnit.send
  simp [RadioUnit.answerSeconds, hdue, htx]

/-! ## The answers, as events -/

section
variable {k : Request} {due : Time} {s : State} (hcur : s.current)
  (hopen : s.ru.outstanding = some { kind := k, stale := false, due := due })
include hcur hopen

theorem refused_backsOff (reason : Byte) (h : k = .attach ∧ s.ru.state = .attaching ∨ k = .openSession ∧ s.ru.state = .opening) :
    (event (takeRefused reason) s).ru = ({ s.ru with
        outstanding := none, refusalReason := reason, refusalKind := some k,
        attachTimeouts := if k = .attach then 0 else s.ru.attachTimeouts } : RadioUnit).toBackoff s.now
      ∧ (event (takeRefused reason) s).radio = s.radio ∧ (event (takeRefused reason) s).grade = s.grade := by
  rcases h with ⟨rfl, hstate⟩ | ⟨rfl, hstate⟩
  · have hg := (takeRefused_open (w := Work.begin s) reason hopen (by decide)).trans
      (congrArg serveLink (refusedTo_attach hstate))
    exact event_backsOff (f := fun r => { r with
      outstanding := none, refusalReason := reason, refusalKind := some .attach, attachTimeouts := 0 }) hcur
      (by rw [hstate]; decide) (fun _ => rfl) hg
  · have hg := (takeRefused_open (w := Work.begin s) reason hopen (by decide)).trans
      (congrArg serveLink (refusedTo_openSession hstate))
    exact event_backsOff (f := fun r => { r with
      outstanding := none, refusalReason := reason, refusalKind := some .openSession }) hcur
      (by rw [hstate]; decide) (fun _ => rfl) hg

theorem timeout_attach (hk : k = .attach) (hstate : s.ru.state = .attaching) :
    (s.ru.attachTimeouts < 2 → (event answerTimedOut s).ru = ({ s.ru with
        outstanding := none, attachTimeouts := min 3 (s.ru.attachTimeouts + 1) } : RadioUnit).toBackoff s.now
      ∧ (event answerTimedOut s).radio = s.radio ∧ (event answerTimedOut s).grade = s.grade)
    ∧ (s.ru.attachTimeouts = 2 → (event answerTimedOut s).ru = ({ s.ru with
        outstanding := none, attachTimeouts := min 3 (s.ru.attachTimeouts + 1) } : RadioUnit).toResetting s.now
      ∧ (event answerTimedOut s).radio = s.radio ∧ (event answerTimedOut s).grade = s.grade) := by
  subst hk
  have hg := (answerTimedOut_open (w := Work.begin s) hopen (by decide)).trans
    (congrArg serveLink (timeoutOf_attach (w := clearRequest (Work.begin s)) hstate))
  have hs : s.ru.state ≠ .session := by rw [hstate]; decide
  refine ⟨fun hfew => ?_, fun hthird => ?_⟩
  · rw [attachTimedOut_backsOff (w := clearRequest (Work.begin s)) hfew] at hg
    exact event_backsOff (f := fun r => { r with
      outstanding := none, attachTimeouts := min 3 (r.attachTimeouts + 1) }) hcur hs (fun _ => rfl) hg
  · rw [attachTimedOut_resets (w := clearRequest (Work.begin s)) hthird] at hg
    exact event_resetting (f := fun r => { r with
      outstanding := none, attachTimeouts := min 3 (r.attachTimeouts + 1) }) hcur hs (fun _ => rfl) hg

theorem timeout_opening (hk : k = .openSession) (hstate : s.ru.state = .opening) :
    (event answerTimedOut s).ru = ({ s.ru with outstanding := none } : RadioUnit).toBackoff s.now
      ∧ (event answerTimedOut s).radio = s.radio ∧ (event answerTimedOut s).grade = s.grade := by
  subst hk
  have hg := (answerTimedOut_open (w := Work.begin s) hopen (by decide)).trans
    (congrArg serveLink (timeoutOf_openSession (w := clearRequest (Work.begin s)) hstate))
  exact event_backsOff (f := fun r => { r with outstanding := none }) hcur (by rw [hstate]; decide) (fun _ => rfl) hg

theorem timeout_resets (h : k = .closeSession ∧ s.ru.state = .closing ∨ k = .detach ∧ s.ru.state = .detaching) :
    (event answerTimedOut s).ru = ({ s.ru with outstanding := none } : RadioUnit).toResetting s.now
      ∧ (event answerTimedOut s).radio = s.radio ∧ (event answerTimedOut s).grade = s.grade := by
  have hgoes : s.ru.state ≠ .session →
      answerTimedOut (Work.begin s) = serveLink (enterResetting (clearRequest (Work.begin s))) → _ := fun hs hg =>
    event_resetting (f := fun r => { r with outstanding := none }) hcur hs (fun _ => rfl) hg
  rcases h with ⟨rfl, hstate⟩ | ⟨rfl, hstate⟩
  · exact hgoes (by rw [hstate]; decide) ((answerTimedOut_open (w := Work.begin s) hopen (by decide)).trans
      (congrArg serveLink (timeoutOf_closing (w := clearRequest (Work.begin s)) hstate)))
  · exact hgoes (by rw [hstate]; decide) ((answerTimedOut_open (w := Work.begin s) hopen (by decide)).trans
      (congrArg serveLink (timeoutOf_detaching (w := clearRequest (Work.begin s)) hstate)))

/-- Where an answer to DETACH leads (R62, R68). -/
theorem refused_detach (reason : Byte) (hk : k = .detach) (hstate : s.ru.state = .detaching ∨ s.ru.state = .resync) :
    (event (takeRefused reason) s).ru = ({ s.ru with
        outstanding := none, refusalReason := reason, refusalKind := some .detach } : RadioUnit).toIdle s.now
      ∧ (event (takeRefused reason) s).radio = s.radio ∧ (event (takeRefused reason) s).grade = s.grade := by
  subst hk
  have hg := (takeRefused_open (w := Work.begin s) reason hopen (by decide)).trans
    (congrArg serveLink (refusedTo_detach hstate))
  exact event_idling (f := fun r => { r with outstanding := none, refusalReason := reason, refusalKind := some .detach })
    hcur (by rcases hstate with h | h <;> rw [h] <;> decide) (fun _ => rfl) rfl hg

theorem timeout_detach (hk : k = .detach) (hstate : s.ru.state = .resync) :
    (event answerTimedOut s).ru = ({ s.ru with outstanding := none } : RadioUnit).toIdle s.now
      ∧ (event answerTimedOut s).radio = s.radio ∧ (event answerTimedOut s).grade = s.grade := by
  subst hk
  have hg := (answerTimedOut_open (w := Work.begin s) hopen (by decide)).trans
    (congrArg serveLink (timeoutOf_resync (w := clearRequest (Work.begin s)) hstate .detach))
  exact event_idling (f := fun r => { r with outstanding := none }) hcur (by rw [hstate]; decide) (fun _ => rfl) rfl hg

theorem resync_refused (reason : Byte) (hk : k = .closeSession) (hstate : s.ru.state = .resync) :
    (event (takeRefused reason) s).plain = ({ s with ru := ({ s.ru with
      outstanding := none, refusalReason := reason, refusalKind := some .closeSession } : RadioUnit).send .detach s.now }
        : State).plain := by
  subst hk
  have hg := (takeRefused_open (w := Work.begin s) reason hopen (by decide)).trans
    (congrArg serveLink (refusedTo_closeSession hstate))
  exact event_resync (f := fun r => { r with
    outstanding := none, refusalReason := reason, refusalKind := some .closeSession }) hcur (fun _ => rfl) hg

theorem resync_timeout (hk : k = .closeSession) (hstate : s.ru.state = .resync) :
    (event answerTimedOut s).plain
      = ({ s with ru := ({ s.ru with outstanding := none } : RadioUnit).send .detach s.now } : State).plain := by
  subst hk
  have hg := (answerTimedOut_open (w := Work.begin s) hopen (by decide)).trans
    (congrArg serveLink (timeoutOf_resync (w := clearRequest (Work.begin s)) hstate .closeSession))
  exact event_resync (f := fun r => { r with outstanding := none }) hcur (fun _ => rfl) hg

end

/-- A unit in IDLE with the link free stops the modem or attaches (R59, R63). -/
theorem stopsModem_of {s t : State} {r : RadioUnit} (ht : t.ru = r.toIdle s.now) (hradio : t.radio = s.radio)
    (hout : r.outstanding = none) (htarget : r.target = s.ru.target) (hready : r.ready = s.ru.ready)
    (hattaches : r.attaches = s.ru.attaches) :
    (s.ru.target = .off → s.stopsModem t)
      ∧ (s.ru.target ≠ .off → t.ru.state = .attaching ∧ t.ru.attaches = s.ru.attaches + 1) := by
  obtain ⟨hoff, -, hfree⟩ := toIdle_fields s.now r
  rw [← ht, htarget, hready, hattaches, hout] at hoff
  rw [← ht, htarget, hattaches] at hfree
  refine ⟨fun h => ?_, fun h => ?_⟩
  · obtain ⟨hstate, hdue, hnone, hsame⟩ := hoff h
    exact ⟨hstate, hdue, hnone, hsame, hradio⟩
  · obtain ⟨hstate, -, hmore, -⟩ := hfree h hout
    exact ⟨hstate, hmore⟩

theorem ofRuPlain_rx {s : State} (h : s.ru.rx = []) (r : RadioUnit) (hr : r.rx = s.ru.rx) :
    ({ s with ru := r } : State) = { s with ru := { r with rx := [] } } := by
  rw [← h, ← hr]

/-- Settles O44. -/
theorem failuresBackOffOrReset : Obligations.FailuresBackOffOrReset := by
  unfold Obligations.FailuresBackOffOrReset
  intro k due reason s hcur isOpen timedOut backsOff resets attaching opening
  have hbacks : ∀ {t : State} {r : RadioUnit}, t.ru = r.toBackoff s.now → r.outstanding = none → r.b = s.ru.b →
      r.attaches = s.ru.attaches → t.keptByModem = s.keptByModem → t.radio = s.radio → t.grade = s.grade → backsOff t := by
    intro t r hru hout hb hattaches hkept hradio hgrade
    obtain ⟨h1, h2, h3, h4, h5, h6, h7⟩ := toBackoff_fields (now := s.now) hout
    rw [← hru] at h1 h2 h3 h4 h5 h6 h7
    rw [hattaches] at h5
    rw [hb] at h6 h7
    exact ⟨h1, h2, h3, h4, h5, h6, h7, hkept, hradio, hgrade⟩
  have hresets : ∀ {t : State} {r : RadioUnit}, t.ru = r.toResetting s.now → r.resets = s.ru.resets →
      t.keptByModem = s.keptByModem → t.radio = s.radio → t.grade = s.grade → resets t := by
    intro t r hru hcount hkept hradio hgrade
    obtain ⟨h1, h2, h3, h4, -⟩ := toResetting_fields s.now r
    rw [← hru] at h1 h2 h3 h4
    rw [hcount] at h2
    exact ⟨h1, h2, h3, h4, hkept, hradio, hgrade⟩
  have hkeptRefused := takeRefused_keptByModem reason s
  have hkeptTimedOut := answerTimedOut_keptByModem s
  refine ⟨fun hopen hrx h => ⟨_, exec_refusedAnswer reason hrx, ?refused⟩,
    fun hopen hdue h hfew => ⟨_, exec_answerTimeout hopen hdue, ?few⟩,
    fun hopen hdue h => ⟨_, exec_answerTimeout hopen hdue, ?opening⟩,
    fun hopen hdue h hthird => ⟨_, exec_answerTimeout hopen hdue, ?third⟩,
    fun hopen hdue h => ⟨_, exec_answerTimeout hopen hdue, ?resetting⟩,
    fun hopen hk hstate => ⟨fun hrx => ⟨_, exec_refusedAnswer reason hrx, ?detached⟩,
      fun hdue hresync => ⟨_, exec_answerTimeout hopen hdue, ?timed⟩⟩,
    fun hopen hk hstate => ⟨fun hrx => ⟨_, exec_refusedAnswer reason hrx, ?asks⟩,
      fun hdue => ⟨_, exec_answerTimeout hopen hdue, ?asksLate⟩⟩,
    fun hopen hk hquery hstate => ⟨fun hrx => ⟨_, exec_refusedAnswer reason hrx, ?stale⟩,
      fun hdue => ⟨_, exec_answerTimeout hopen hdue, ?staleLate⟩⟩,
    fun hopen hk => ⟨fun hrx => ⟨⟨_, exec_okAnswer hrx, ?ok⟩, _, exec_refusedAnswer reason hrx, ?refusal⟩,
      fun hdue => ⟨_, exec_answerTimeout hopen hdue, ?timeout⟩⟩⟩
  case refused =>
    obtain ⟨hru, hradio, hgrade⟩ := refused_backsOff hcur hopen reason h
    refine ⟨hbacks hru rfl rfl rfl hkeptRefused hradio hgrade, ?_, ?_, ?_⟩ <;> rw [hru] <;> rfl
  case few =>
    obtain ⟨hru, hradio, hgrade⟩ := (timeout_attach hcur hopen h.1 h.2).1 hfew
    refine ⟨hbacks hru rfl rfl rfl hkeptTimedOut hradio hgrade, ?_⟩
    rw [hru]
    show min 3 (s.ru.attachTimeouts + 1) = s.ru.attachTimeouts + 1
    omega
  case opening =>
    obtain ⟨hru, hradio, hgrade⟩ := timeout_opening hcur hopen h.1 h.2
    exact hbacks hru rfl rfl rfl hkeptTimedOut hradio hgrade
  case third =>
    obtain ⟨hru, hradio, hgrade⟩ := (timeout_attach hcur hopen h.1 h.2).2 hthird
    exact hresets hru rfl hkeptTimedOut hradio hgrade
  case resetting =>
    obtain ⟨hru, hradio, hgrade⟩ := timeout_resets hcur hopen h
    exact hresets hru rfl hkeptTimedOut hradio hgrade
  case detached =>
    obtain ⟨hru, hradio, hgrade⟩ := refused_detach hcur hopen reason hk hstate
    obtain ⟨hoff, hon⟩ := stopsModem_of hru hradio rfl rfl rfl rfl
    refine ⟨⟨hkeptRefused, hradio, hgrade, hoff, hon⟩, ?_, ?_⟩
    · rw [hru]
      exact (congrArg RadioUnit.refusalReason (toIdle_lasting _ _).1 :)
    · rw [hru]
      exact (congrArg RadioUnit.refusalKind (toIdle_lasting _ _).1 :)
  case timed =>
    obtain ⟨hru, hradio, hgrade⟩ := timeout_detach hcur hopen hk hresync
    obtain ⟨hoff, hon⟩ := stopsModem_of hru hradio rfl rfl rfl rfl
    exact ⟨hkeptTimedOut, hradio, hgrade, hoff, hon⟩
  case asks =>
    refine (resync_refused hcur hopen reason hk hstate).trans ?_
    rw [send_detach]
    exact congrArg State.plain (ofRuPlain_rx hrx _ rfl)
  case asksLate =>
    refine (resync_timeout hcur hopen hk hstate).trans ?_
    rw [send_detach]
  case stale =>
    refine (event_frees_plain hcur (takeRefused_stale (w := Work.begin s) reason hopen hk) hquery hstate).trans ?_
    exact congrArg State.plain (ofRuPlain_rx hrx _ rfl)
  case staleLate => exact event_frees_plain hcur (answerTimedOut_stale (w := Work.begin s) hopen hk) hquery hstate
  case ok => exact event_frees hcur (takeOk_stale (w := Work.begin s) hopen hk) (takeOk_keptByModem s)
  case refusal => exact event_frees hcur (takeRefused_stale (w := Work.begin s) reason hopen hk) hkeptRefused
  case timeout => exact event_frees hcur (answerTimedOut_stale (w := Work.begin s) hopen hk) hkeptTimedOut

end Sys2Proof.Machine
end


section
/-! An evaluation of a path as a course of one record (R24 to R27, R33, R34, R46, R47). -/

namespace Sys2Proof.Machine

/-! ## Revisions of the record -/

/-- A rewrite of the record that keeps state, results and cause. -/
theorem revised_onPath {p : Path} {f : PathRec → PathRec} {w : Work} (hstate : (f (w.st.path p)).state = (w.st.path p).state)
    (hwindow : (f (w.st.path p)).window = (w.st.path p).window) (hcause : (f (w.st.path p)).cause = (w.st.path p).cause) :
    w.st.PathRevised (w.onPath p f).st p := by
  have h := rewrite_revised (c := False) hstate hwindow hcause
  unfold rewrite at h
  rw [if_neg id] at h
  exact h

theorem offered_path (s : State) (p : Path) (k : Cause) : (s.offered p k).path p = { s.path p with
    cause := (s.path p).cause.afterOffer (s.path p).lockFirst k (snapshotOf s p) } := path_onPath _ _ _

theorem onPath_fields (s : State) (p : Path) (f : PathRec → PathRec) :
    (s.onPath p f).path (otherPath p) = s.path (otherPath p) ∧ (s.onPath p f).grade = s.grade
      ∧ (s.onPath p f).clk = s.clk ∧ (s.onPath p f).exch = s.exch ∧ (s.onPath p f).ru = s.ru
      ∧ (s.onPath p f).hold = s.hold ∧ (s.onPath p f).steer = s.steer ∧ (s.onPath p f).drill = s.drill := by
  cases p <;> exact ⟨rfl, rfl, rfl, rfl, rfl, rfl, rfl, rfl⟩

/-- A cause offered revises the record, and latches where it writes (R47). -/
theorem offerCause_revised (p : Path) (k : Cause) (w : Work) : w.st.PathRevised (offerCause p k w).st p := by
  have honly := offerCause_onlyEv p k w
  have hpath := (honly.path p).trans (offered_path w.st p k)
  obtain ⟨hother, hgrade, hclk, hexch, hru, hhold, hsteer, hdrill⟩ := onPath_fields w.st p fun r => { r with
    cause := r.cause.afterOffer r.lockFirst k (snapshotOf w.st p) }
  have hfields : (offerCause p k w).st.grade = w.st.grade ∧ (offerCause p k w).st.clk = w.st.clk
      ∧ (offerCause p k w).st.exch = w.st.exch ∧ (offerCause p k w).st.ru = w.st.ru
      ∧ (offerCause p k w).st.hold = w.st.hold ∧ (offerCause p k w).st.steer = w.st.steer
      ∧ (offerCause p k w).st.drill = w.st.drill := by
    obtain ⟨e, -, hst⟩ := honly
    rw [hst]
    exact ⟨hgrade, hclk, hexch, hru, hhold, hsteer, hdrill⟩
  obtain ⟨hgrade', hclk', hexch', hru', hhold', hsteer', hdrill'⟩ := hfields
  refine ⟨{
    other := (honly.path _).trans hother
    grade := hgrade'
    clk := hclk'
    service := congrArg Exchange.service hexch'
    ru := hru'
    ready := fun hne => absurd (ready_of_window (by rw [hpath])).symm hne
    cause := fun hne => ?cause
    latches := fun m hm => (closedLatched m).offerCause p (Or.inr trivial) k w hm }, by rw [hpath], hhold', hsteer', hdrill'⟩
  refine offerCause_latched ?_
  by_contra hno
  obtain ⟨hvalid, hcause⟩ := afterOffer_kept hno (snapshotOf w.st p)
  rw [hpath] at hne
  exact hne.elim (fun hv => hv hvalid) fun hc => hc hcause

/-- A state change of a path after revisions of its record. -/
theorem State.PathRevised.moves {s : State} {v : Work} {p : Path} (h : s.PathRevised v.st p)
    (hd : (s.path p).state ≠ .down) {n : PathState} (hn : n ≠ .down) :
    s.PathWent (setPathState p n v).st p [(v.st.path p).movesTo s.now n] := by
  have hwent := setPathState_went p hn v (Or.inr (h.state ▸ hd))
  rw [show v.st.now = s.now from congrArg Clock.ms h.keeps.clk] at hwent
  exact h.then hwent

/-! ## The state rule (R33, R34) -/

/-- The record after the state rule, for a path with this score and this dominant cause. -/
def PathRec.judged (s : State) (p : Path) (h : Nat) (k : Cause) (r : PathRec) : PathRec :=
  let scored := { r with score := h, measured := true }
  let usable := r.state = .up ∨ r.state = .weak
  let penalty := min 8000 (r.penalty + 500)
  if r.state = .proving then (if r.upT ≤ h then scored.movesTo s.now .up else scored)
  else if usable ∧ h < r.failT ∧ r.failLimit ≤ r.failCount + 1 then
    { scored.movesTo s.now (if r.damping = true ∧ r.suppress ≤ penalty then .suppressed else .proving) with
      penalty := penalty,
      cause := r.cause.afterOffer r.lockFirst k {
        time := s.now, before := some r.state, h := h, n := r.window.length,
        l := (r.window.filter fun x => x.rtt.isNone).length, s := r.s,
        grade := (match p with | .fibre => 0 | .radio => s.grade.scoring),
        gradeValid := (match p with | .fibre => false | .radio => s.grade.valid), penalty := penalty } }
  else if usable ∧ h < r.failT then { scored with failCount := r.failCount + 1 }.movesTo s.now .weak
  else if usable then
    { scored with failCount := 0 }.movesTo s.now (if r.upT ≤ h then .up else if h < r.weakT then .weak else r.state)
  else scored

/-- The three penalties of a path's score (R24, R25). -/
def State.scorePenalties (s : State) (p : Path) (r : PathRec) : Nat × Nat × Nat :=
  (lossPenalty r.window.length r.losses, latencyPenalty r, s.signalPenalty p)

/-- The score of a path (R26). -/
def State.scoreOf (s : State) (p : Path) (r : PathRec) : Nat :=
  healthScore (s.scorePenalties p r).1 (s.scorePenalties p r).2.1 (s.scorePenalties p r).2.2

/-- The dominant cause of a path's score (R46). -/
def State.dominant (s : State) (p : Path) (r : PathRec) : Cause :=
  dominantCause (s.scorePenalties p r).1 (s.scorePenalties p r).2.1 (s.scorePenalties p r).2.2

theorem latencyPenalty_eq (r : PathRec) : latencyPenalty r =
    if r.replied = false then 300 else if r.s ≤ r.floor then 0 else if r.ceiling ≤ r.s then 300
    else 300 * (r.s - r.floor) / (r.ceiling - r.floor) := by
  unfold latencyPenalty
  cases r.replied <;> rfl

theorem evaluatedIn_eq (s : State) (p : Path) (r : PathRec) :
    r.evaluatedIn s p = r.judged s p (s.scoreOf p r) (s.dominant p r) := by
  have hsignal : s.signalPenalty p = (match p with
      | .fibre => 0
      | .radio => if 20 ≤ s.grade.scoring then 0 else (20 - s.grade.scoring) * 10) := by
    cases p <;> rfl
  unfold State.scoreOf State.dominant State.scorePenalties
  dsimp only
  rw [latencyPenalty_eq, hsignal]
  rfl

theorem evaluate_judges {p : Path} {w : Work} (h : (w.st.scoring p && (w.st.path p).ready) = true) :
    evaluate p w = judge p (w.st.scoreOf p (w.st.path p)) (w.st.dominant p (w.st.path p))
      (w.onPath p fun r => { r with score := w.st.scoreOf p (w.st.path p), measured := true }) := if_pos h

theorem evaluate_rests {p : Path} {w : Work} (h : (w.st.scoring p && (w.st.path p).ready) = false) : evaluate p w = w :=
  if_neg (by rw [h]; decide)

theorem scoring_iff (s : State) (p : Path) : s.scoring p = true ↔
    s.exch.service = .service ∧ (s.path p).linkOnly = false ∧ (s.path p).state ≠ .down := by
  unfold State.scoring
  rw [Bool.and_eq_true, Bool.and_eq_true, decide_eq_true_iff, decide_eq_true_iff, Bool.not_eq_true', and_assoc]

end Sys2Proof.Machine
end


section
/-! The state rule and the results that enter a window, as courses of the path (R11, R13, R14, R27, R33, R34). -/

namespace Sys2Proof.Machine

/-! ## The state rule -/

section
variable {p : Path} {h : Nat} {k : Cause} {v : Work}

theorem judge_proving (hs : (v.st.path p).state = .proving) :
    judge p h k v = if (v.st.path p).upT ≤ h then setPathState p .up v else v := by
  unfold judge
  rw [hs]

theorem judge_usable (hs : (v.st.path p).state = .up ∨ (v.st.path p).state = .weak) : judge p h k v = judgeUsable p h k v := by
  unfold judge
  rcases hs with hs | hs <;> rw [hs]

theorem judge_suppressed (hs : (v.st.path p).state = .suppressed) : judge p h k v = v := by
  unfold judge
  rw [hs]

end

/-- The record that a fall on score leaves before the state changes. -/
theorem fallen_movesTo {now : Time} {n : PathState} {q : PathRec} {penalty : Nat} {c : CauseRecord}
    (hq : q.state = .up ∨ q.state = .weak) (hn : n = .suppressed ∨ n = .proving) :
    ({ q with penalty := penalty, failCount := 0, cause := c } : PathRec).movesTo now n
      = { q.movesTo now n with penalty := penalty, cause := c } := by
  have hne : q.state ≠ n := by
    rcases hq with hq | hq <;> rcases hn with hn | hn <;> rw [hq, hn] <;> decide
  have hnot : ¬(n = .up ∨ n = .weak) := by
    rcases hn with hn | hn <;> rw [hn] <;> decide
  have hcount : ∀ a b : Nat, (if (q.state = .up ∨ q.state = .weak) ∧ (n = .up ∨ n = .weak) then a else b) = b :=
    fun a b => if_neg fun hc => hnot hc.2
  rw [movesTo_of_ne (show ({ q with penalty := penalty, failCount := 0, cause := c } : PathRec).state ≠ n from hne),
    movesTo_of_ne hne]
  dsimp only
  rw [hcount, hcount]

/-- The snapshot of a fall on score. -/
theorem snapshot_fallen {s : State} {p : Path} {q : PathRec} (hpath : s.path p = q) (hlink : q.linkOnly = false)
    (hservice : s.exch.service = .service) : snapshotOf s p =
      { time := s.now, before := some q.state, h := q.score, n := q.window.length,
        l := (q.window.filter fun x => x.rtt.isNone).length, s := q.s,
        grade := (match p with | .fibre => 0 | .radio => s.grade.scoring),
        gradeValid := (match p with | .fibre => false | .radio => s.grade.valid), penalty := q.penalty } := by
  have hscores : ¬(q.linkOnly = true ∨ s.exch.service ≠ .service) := by
    rw [hlink, hservice]
    simp
  rw [snapshotOf_eq, hpath, if_neg hscores] <;> cases p <;> rfl

section
variable {p : Path} {h : Nat} {k : Cause} {w : Work}

/-- The work with the score written. -/
def scoredWork (p : Path) (h : Nat) (w : Work) : Work := w.onPath p fun r => { r with score := h, measured := true }

theorem scored_path : (scoredWork p h w).st.path p = { w.st.path p with score := h, measured := true } :=
  onPath_path p _ w

theorem scored_revised : w.st.PathRevised (scoredWork p h w).st p := revised_onPath rfl rfl rfl

theorem suppressible_iff (r : PathRec) : r.suppressible = true ↔ r.damping = true ∧ r.suppress ≤ r.penalty := by
  unfold PathRec.suppressible
  rw [Bool.and_eq_true, decide_eq_true_iff]

/-- The work of a fall on score with this penalty, before the state changes. -/
def fallenWork (p : Path) (k : Cause) (n : Nat) (v : Work) : Work :=
  offerCause p k (v.onPath p fun r => { r.penalize n with failCount := 0 })

/-- The record of a fall on score before the state changes. -/
def PathRec.fallen (s : State) (p : Path) (k : Cause) (n : Nat) (q : PathRec) : PathRec :=
  { q with
    penalty := min Config.penaltyMax (q.penalty + n), failCount := 0,
    cause := q.cause.afterOffer q.lockFirst k {
      time := s.now, before := some q.state, h := q.score, n := q.window.length,
      l := (q.window.filter fun x => x.rtt.isNone).length, s := q.s,
      grade := (match p with | .fibre => 0 | .radio => s.grade.scoring),
      gradeValid := (match p with | .fibre => false | .radio => s.grade.valid),
      penalty := min Config.penaltyMax (q.penalty + n) } }

theorem penalized_path {n : Nat} {v : Work} {q : PathRec} (hpath : v.st.path p = q) :
    ((v.onPath p fun r => { r.penalize n with failCount := 0 }).st).path p = { q.penalize n with failCount := 0 } := by
  rw [onPath_path, hpath]

theorem fallenWork_path {n : Nat} {v : Work} {q : PathRec} (hpath : v.st.path p = q) (hlink : q.linkOnly = false)
    (hservice : v.st.exch.service = .service) : (fallenWork p k n v).st.path p = q.fallen v.st p k n := by
  obtain ⟨-, hgrade, hclk, hexch, -⟩ := onPath_fields v.st p fun r => { r.penalize n with failCount := 0 }
  have hrecord := penalized_path (n := n) hpath
  unfold fallenWork
  rw [(offerCause_onlyEv p k _).path, offered_path, hrecord]
  have hgrade' : (v.onPath p fun r => { r.penalize n with failCount := 0 }).st.grade = v.st.grade := hgrade
  have hnow : (v.onPath p fun r => { r.penalize n with failCount := 0 }).st.now = v.st.now := congrArg Clock.ms hclk
  have hexch' : (v.onPath p fun r => { r.penalize n with failCount := 0 }).st.exch = v.st.exch := hexch
  generalize (v.onPath p fun r => { r.penalize n with failCount := 0 }).st = u at *
  rw [snapshot_fallen hrecord hlink (by rw [hexch', hservice]), hnow, hgrade'] <;> cases p <;> rfl

theorem fallenWork_revised (n : Nat) (v : Work) : v.st.PathRevised (fallenWork p k n v).st p := by
  have h := revised_onPath (p := p) (f := fun r => { r.penalize n with failCount := 0 }) (w := v) rfl rfl rfl
  exact h.trans (offerCause_revised p k _)

end

/-! ## An evaluation -/

theorem fallOnScore_eq (p : Path) (k : Cause) (v : Work) : fallOnScore p k v =
    setPathState p (if ((fallenWork p k 500 v).st.path p).suppressible then .suppressed else .proving)
      (fallenWork p k 500 v) := by
  unfold fallOnScore fallenWork
  rfl

/-- The state of a path that falls on score. -/
theorem fallen_state {s : State} {p : Path} {k : Cause} {n : Nat} {q : PathRec} :
    (if (q.fallen s p k n).suppressible then PathState.suppressed else .proving)
      = if q.damping = true ∧ q.suppress ≤ min Config.penaltyMax (q.penalty + n) then .suppressed else .proving :=
  if_congr (suppressible_iff _) rfl rfl

/-- The record with the score written. -/
def PathRec.scored (h : Nat) (r : PathRec) : PathRec := { r with score := h, measured := true }

section
variable {s : State} {p : Path} {h : Nat} {k : Cause} {r : PathRec}

theorem not_proving_of_usable (hu : r.state = .up ∨ r.state = .weak) : r.state ≠ .proving := by
  rcases hu with hu | hu <;> rw [hu] <;> decide

theorem judged_proving (hs : r.state = .proving) :
    r.judged s p h k = if r.upT ≤ h then (r.scored h).movesTo s.now .up else r.scored h := if_pos hs

theorem judged_falls (hu : r.state = .up ∨ r.state = .weak) (hfall : h < r.failT ∧ r.failLimit ≤ r.failCount + 1) :
    r.judged s p h k = ((r.scored h).fallen s p k 500).movesTo s.now
      (if ((r.scored h).fallen s p k 500).suppressible then .suppressed else .proving) := by
  have hn : (if ((r.scored h).fallen s p k 500).suppressible then PathState.suppressed else .proving) = .suppressed
      ∨ (if ((r.scored h).fallen s p k 500).suppressible then PathState.suppressed else .proving) = .proving := by
    split
    · exact Or.inl rfl
    · exact Or.inr rfl
  have hfallen := fallen_movesTo (now := s.now) (q := r.scored h)
    (penalty := ((r.scored h).fallen s p k 500).penalty) (c := ((r.scored h).fallen s p k 500).cause) hu hn
  refine ((if_neg (not_proving_of_usable hu)).trans (if_pos ⟨hu, hfall⟩)).trans (Eq.trans ?_ hfallen.symm)
  rw [fallen_state] <;> cases p <;> rfl

theorem judged_fails (hu : r.state = .up ∨ r.state = .weak) (hf : h < r.failT) (hl : ¬r.failLimit ≤ r.failCount + 1) :
    r.judged s p h k = ({ r.scored h with failCount := r.failCount + 1 } : PathRec).movesTo s.now .weak :=
  (if_neg (not_proving_of_usable hu)).trans ((if_neg fun hc => hl hc.2.2).trans (if_pos ⟨hu, hf⟩))

theorem judged_stands (hu : r.state = .up ∨ r.state = .weak) (hf : ¬h < r.failT) :
    r.judged s p h k = ({ r.scored h with failCount := 0 } : PathRec).movesTo s.now
      (if r.upT ≤ h then .up else if h < r.weakT then .weak else r.state) :=
  (if_neg (not_proving_of_usable hu)).trans ((if_neg fun hc => hf hc.2.1).trans ((if_neg fun hc => hf hc.2).trans (if_pos hu)))

theorem judged_suppressed (hs : r.state = .suppressed) : r.judged s p h k = r.scored h := by
  have hu : ¬(r.state = .up ∨ r.state = .weak) := by
    rw [hs]
    decide
  exact (if_neg (by rw [hs]; decide)).trans ((if_neg fun hc => hu hc.1).trans ((if_neg fun hc => hu hc.1).trans (if_neg hu)))

end

section
variable {p : Path} {h : Nat} {k : Cause} {w : Work}

theorem fallOnScore_went (hu : (w.st.path p).state = .up ∨ (w.st.path p).state = .weak)
    (hlink : (w.st.path p).linkOnly = false) (hservice : w.st.exch.service = .service)
    (hfall : h < (w.st.path p).failT ∧ (w.st.path p).failLimit ≤ (w.st.path p).failCount + 1) :
    w.st.PathWent (fallOnScore p k (scoredWork p h w)).st p [(w.st.path p).judged w.st p h k] := by
  obtain ⟨-, hgrade, hclk, hexch, -⟩ := onPath_fields w.st p (PathRec.scored h)
  have hpath : (scoredWork p h w).st.path p = (w.st.path p).scored h := scored_path
  have hfallen := fallenWork_path (k := k) (n := 500) hpath hlink ((congrArg Exchange.service hexch).trans hservice)
  have hsame : ((w.st.path p).scored h).fallen (scoredWork p h w).st p k 500 = ((w.st.path p).scored h).fallen w.st p k 500 := by
    unfold PathRec.fallen
    rw [show (scoredWork p h w).st.now = w.st.now from congrArg Clock.ms hclk,
      show (scoredWork p h w).st.grade = w.st.grade from hgrade]
  have hrevised := scored_revised.trans (fallenWork_revised (p := p) (k := k) 500 (scoredWork p h w))
  rw [hsame] at hfallen
  have hne : (if (((w.st.path p).scored h).fallen w.st p k 500).suppressible then PathState.suppressed else .proving)
      ≠ .down := by split <;> decide
  have hwent := hrevised.moves (not_down_of_usable hu) hne
  rw [hfallen] at hwent
  rw [fallOnScore_eq, hfallen, judged_falls hu hfall]
  exact hwent

theorem judgeUsable_went (hu : (w.st.path p).state = .up ∨ (w.st.path p).state = .weak)
    (hlink : (w.st.path p).linkOnly = false) (hservice : w.st.exch.service = .service) :
    w.st.PathWent (judgeUsable p h k (scoredWork p h w)).st p [(w.st.path p).judged w.st p h k] := by
  have hpath : (scoredWork p h w).st.path p = (w.st.path p).scored h := scored_path
  have hd := not_down_of_usable hu
  have hcount : ∀ n, w.st.PathRevised ((scoredWork p h w).onPath p fun r => { r with failCount := n }).st p := fun n =>
    scored_revised.trans (revised_onPath rfl rfl rfl)
  have hcounted : ∀ n, ((scoredWork p h w).onPath p fun r => { r with failCount := n }).st.path p
      = { (w.st.path p).scored h with failCount := n } := fun n => by
    rw [onPath_path, hpath]
  unfold judgeUsable
  dsimp only
  rw [hpath]
  by_cases hf : h < (w.st.path p).failT
  · rw [if_pos (show h < ((w.st.path p).scored h).failT from hf)]
    by_cases hl : (w.st.path p).failLimit ≤ (w.st.path p).failCount + 1
    · rw [if_pos (show ((w.st.path p).scored h).failLimit ≤ ((w.st.path p).scored h).failCount + 1 from hl)]
      exact fallOnScore_went hu hlink hservice ⟨hf, hl⟩
    · rw [if_neg (show ¬((w.st.path p).scored h).failLimit ≤ ((w.st.path p).scored h).failCount + 1 from hl),
        judged_fails hu hf hl]
      have hrecord : ((scoredWork p h w).onPath p fun r => { r with failCount := r.failCount + 1 }).st.path p
          = { (w.st.path p).scored h with failCount := (w.st.path p).failCount + 1 } := by
        rw [onPath_path, hpath]
        rfl
      have hrevised : w.st.PathRevised ((scoredWork p h w).onPath p fun r => { r with failCount := r.failCount + 1 }).st p :=
        scored_revised.trans (revised_onPath rfl rfl rfl)
      have hwent := hrevised.moves hd (n := .weak) (by decide)
      rw [hrecord] at hwent
      exact hwent
  · rw [if_neg (show ¬h < ((w.st.path p).scored h).failT from hf), judged_stands hu hf]
    have hwent := fun (n : PathState) (hn : n ≠ .down) => (hcount 0).moves hd hn
    rw [hcounted] at hwent
    by_cases hup : (w.st.path p).upT ≤ h
    · rw [if_pos (show ((w.st.path p).scored h).upT ≤ h from hup), if_pos hup]
      exact hwent .up (by decide)
    · rw [if_neg (show ¬((w.st.path p).scored h).upT ≤ h from hup), if_neg hup]
      by_cases hweak : h < (w.st.path p).weakT
      · rw [if_pos (show h < ((w.st.path p).scored h).weakT from hweak), if_pos hweak]
        exact hwent .weak (by decide)
      · rw [if_neg (show ¬h < ((w.st.path p).scored h).weakT from hweak), if_neg hweak,
          movesTo_same (show ({ (w.st.path p).scored h with failCount := 0 } : PathRec).state = (w.st.path p).state from rfl),
          ← hcounted]
        exact (hcount 0).went

theorem judge_went (hd : (w.st.path p).state ≠ .down) (hlink : (w.st.path p).linkOnly = false)
    (hservice : w.st.exch.service = .service) :
    w.st.PathWent (judge p h k (scoredWork p h w)).st p [(w.st.path p).judged w.st p h k] := by
  have hpath : (scoredWork p h w).st.path p = (w.st.path p).scored h := scored_path
  have hstate : ((scoredWork p h w).st.path p).state = (w.st.path p).state := by rw [hpath]; rfl
  have hscored : w.st.PathWent (scoredWork p h w).st p [(w.st.path p).scored h] := hpath ▸ scored_revised.went
  cases hs : (w.st.path p).state with
  | down => exact absurd hs hd
  | up =>
    rw [judge_usable (Or.inl (hstate.trans hs))]
    exact judgeUsable_went (Or.inl hs) hlink hservice
  | weak =>
    rw [judge_usable (Or.inr (hstate.trans hs))]
    exact judgeUsable_went (Or.inr hs) hlink hservice
  | suppressed =>
    rw [judge_suppressed (hstate.trans hs), judged_suppressed hs]
    exact hscored
  | proving =>
    rw [judge_proving (hstate.trans hs), judged_proving hs, hpath]
    by_cases hup : (w.st.path p).upT ≤ h
    · rw [if_pos (show ((w.st.path p).scored h).upT ≤ h from hup), if_pos hup, ← hpath]
      exact scored_revised.moves hd (by decide)
    · rw [if_neg (show ¬((w.st.path p).scored h).upT ≤ h from hup), if_neg hup]
      exact hscored

/-- An evaluation is a course of one record. -/
theorem evaluate_went (hscoring : w.st.scoring p = true) (hready : (w.st.path p).ready = true) :
    w.st.PathWent (evaluate p w).st p [(w.st.path p).evaluatedIn w.st p] := by
  obtain ⟨hservice, hlink, hd⟩ := (scoring_iff _ _).mp hscoring
  rw [evaluate_judges (by rw [hscoring, hready]; rfl), evaluatedIn_eq]
  exact judge_went hd hlink hservice

end

end Sys2Proof.Machine
end


section
/-! What a pass owes when no frame reaches the modem and the radio unit is outside SESSION: nothing but demand after the
end of a drill; and a linger that such passes do not start (R74, R87, R89, R90, R160). -/

namespace Sys2Proof.Machine

/-! ## What steps owe -/

/-- The passes and the demand that the event owes, and whether a drill has ended in it. -/
def Work.debts (w : Work) : Bool × Bool × Bool := (w.passDue, w.demandDue, w.drillEnded)

theorem debts_iff {v w : Work} :
    v.debts = w.debts ↔ v.passDue = w.passDue ∧ v.demandDue = w.demandDue ∧ v.drillEnded = w.drillEnded := by
  unfold Work.debts
  rw [Prod.mk.injEq, Prod.mk.injEq]

theorem handConditions_drillEnded (w : Work) : (handConditions w).drillEnded = w.drillEnded := by
  unfold handConditions
  by_cases h : w.st.facts = w.st.ev.cond
  · rw [if_pos h]
  · rw [if_neg h, touch_drillEnded, onEv_drillEnded]

theorem handConditions_debts (w : Work) : (handConditions w).debts = w.debts :=
  debts_iff.mpr ⟨handConditions_passDue w, handConditions_demandDue w, handConditions_drillEnded w⟩

theorem sendRequest_debts (k : Request) (w : Work) : (sendRequest k w).debts = w.debts := rfl

theorem startTimer_debts (ms : Nat) (w : Work) : (startTimer ms w).debts = w.debts := rfl

theorem latch_debts (i : Nat) (w : Work) : (latch i w).debts = w.debts := rfl

theorem touchIf_debts (b : Bool) (r : Rec) (w : Work) : (w.touchIf b r).debts = w.debts := by
  cases b <;> rfl

theorem drivePower_debts (w : Work) : (drivePower w).debts = w.debts := by
  unfold drivePower
  split <;> rfl

theorem touchAll_debts (l : List Rec) (w : Work) : (w.touchAll l).debts = w.debts := rfl

theorem classStep_debts (w : Work) : (classStep w).debts = w.debts := by
  unfold classStep
  dsimp only
  split <;> rfl

theorem flowStep_debts (s0 : State) (w : Work) : (flowStep s0 w).debts = w.debts := rfl

theorem takeNext_debts (p : Path) {w : Work} (h : w.st.portReady .radio = false) : (takeNext p w).debts = w.debts := by
  unfold takeNext
  cases p with
  | radio => rw [h] <;> rfl
  | fibre =>
    split
    · split <;> rfl
    · rfl

theorem enterBand_debts (p : Path) (tier : Nat) (f : TxFrame) {w : Work} (h : w.st.portReady .radio = false) :
    (enterBand p tier f w).debts = w.debts := by
  have hqueue : (w.onQueue p (TxQueue.append tier f)).st.portReady .radio = false := by
    cases p with
    | fibre => exact h
    | radio =>
      have hsending : (TxQueue.append tier f w.st.fwd.radioQ).sending = w.st.fwd.radioQ.sending := by
        unfold TxQueue.append
        split <;> rfl
      show (decide (w.st.ru.state = .session) && (TxQueue.append tier f w.st.fwd.radioQ).sending.isNone) = false
      rw [hsending]
      exact h
  unfold enterBand
  split
  · rfl
  · exact takeNext_debts p hqueue

theorem releaseHeld_debts (x : HeldFrame) {w : Work} (h : w.st.portReady .radio = false) :
    (releaseHeld x w).debts = w.debts := by
  have honto : ∀ p, (if w.st.bandFull p (w.st.cls x.cls).tier then
      latch Bit.holdDrops (placeFrame p x.cls x.flow x.data w) else placeFrame p x.cls x.flow x.data w).debts = w.debts := by
    intro p
    split
    · exact enterBand_debts p (w.st.cls x.cls).tier { data := x.data, flow := x.flow } h
    · exact enterBand_debts p (w.st.cls x.cls).tier { data := x.data, flow := x.flow } h
  unfold releaseHeld
  dsimp only
  split
  · exact honto .fibre
  · exact honto .radio
  · rfl
  · rfl

theorem releaseAll_debts (l : List HeldFrame) {w : Work} (h : w.st.portReady .radio = false) :
    (releaseAll l w).debts = w.debts := by
  induction l generalizing w with
  | nil => rfl
  | cons x l ih => exact (ih ((releaseHeld_portRests x h).notReady h)).trans (releaseHeld_debts x h)

theorem releaseStep_debts (s0 : State) {w : Work} (h : w.st.noneToModem) : (releaseStep s0 w).debts = w.debts := by
  unfold releaseStep
  dsimp only
  rcases h with hheld | hport
  · rw [hheld]
    rfl
  · exact releaseAll_debts _ (w := w.onFwd _) hport

theorem endedWork_debts (v : Work) : ({ (v.touch .supply).oweDemand with drillEnded := true } : Work).passDue = v.passDue
    ∧ ({ (v.touch .supply).oweDemand with drillEnded := true } : Work).drillEnded = true := ⟨rfl, rfl⟩

/-- A drill that a pass ends owes demand (R160). -/
theorem drillStep_debts (w : Work) : (drillStep w).passDue = w.passDue
    ∧ ((drillStep w).demandDue = w.demandDue ∨ (drillStep w).drillEnded = true)
    ∧ (w.drillEnded = true → (drillStep w).drillEnded = true) := by
  unfold drillStep
  split
  · cases hrun : w.st.drill.running with
    | false =>
      rw [endDrill_idle _ _ _ hrun]
      exact ⟨rfl, Or.inl rfl, id⟩
    | true =>
      have hlatched : ∀ v : Work, (handConditions (latch Bit.drillEnd v)).passDue = v.passDue := fun v =>
        (handConditions_passDue _).trans rfl
      rw [endDrill_eq _ _ _ hrun]
      obtain ⟨hpass, hended⟩ := endedWork_debts (handConditions (latch Bit.drillEnd
        (w.onDrill (Drill.closed w.st .aborted .realUse))))
      exact ⟨hpass.trans (hlatched _), Or.inr hended, fun _ => hended⟩
  · exact ⟨rfl, Or.inl rfl, id⟩

/-- A pass before demand is recomputed, where no frame reaches the modem. -/
theorem passBody_debts {w : Work} (h : w.st.noneToModem) : (passBody w).passDue = w.passDue
    ∧ ((passBody w).demandDue = w.demandDue ∨ (passBody w).drillEnded = true)
    ∧ (w.drillEnded = true → (passBody w).drillEnded = true) := by
  have hsteered : (steeredWork w).debts = w.debts :=
    (handConditions_debts _).trans ((flowStep_debts _ _).trans (classStep_debts w))
  have hnone : (steeredWork w).st.noneToModem := by
    obtain ⟨e, -, hst⟩ := steeredWork_onlyEv w
    rw [hst]
    exact h
  obtain ⟨hpass, hdemand, hended⟩ := debts_iff.mp ((releaseStep_debts w.st hnone).trans hsteered)
  obtain ⟨h1, h2, h3⟩ := drillStep_debts (releasedWork w)
  rw [← passBody_eq] at h1 h2 h3
  exact ⟨h1.trans hpass, h2.imp_left fun h => h.trans hdemand, fun h => h3 (hended.trans h)⟩

/-! ## Demand outside SESSION owes nothing -/

theorem setTarget_debts (w : Work) : (setTarget w).debts = w.debts := by
  unfold setTarget
  exact touchIf_debts _ _ _

section
variable {w : Work} (hs : w.st.ru.state ≠ .session)
include hs

theorem moveTo_debts (n : RadioState) : (moveTo n w).debts = w.debts := by
  unfold moveTo
  dsimp only
  rw [if_neg fun hc => hs hc.1, handConditions_debts, touchIf_debts]
  rfl

theorem enterStopping_debts : (enterStopping w).debts = w.debts := by
  have hmoved := moveTo_debts hs .stopping
  have hnot : (moveTo .stopping w).st.ru.state ≠ .session := by rw [moveTo_state]; decide
  unfold enterStopping
  dsimp only
  split
  · rw [startTimer_debts, drivePower_debts, hmoved]
  · rw [moveTo_debts hnot .off, hmoved]

theorem actIdle_debts : (actIdle w).debts = w.debts := by
  unfold actIdle
  split
  · exact enterStopping_debts hs
  · split
    · rw [sendRequest_debts, moveTo_debts hs .attaching]
    · rfl

theorem enterIdle_debts : (enterIdle w).debts = w.debts := by
  have hnot : (moveTo .idle w).st.ru.state ≠ .session := by rw [moveTo_state]; decide
  unfold enterIdle
  rw [actIdle_debts hnot, moveTo_debts hs .idle]

theorem actOff_debts : (actOff w).debts = w.debts := by
  unfold actOff
  split
  · rfl
  · split
    · exact enterIdle_debts hs
    · rw [startTimer_debts, drivePower_debts, moveTo_debts hs .powering]

theorem actAttached_debts : (actAttached w).debts = w.debts := by
  unfold actAttached
  split
  · rfl
  · split
    · rw [sendRequest_debts, moveTo_debts hs .opening]
    · rfl
  · split
    · rw [sendRequest_debts, moveTo_debts hs .detaching]
    · rfl

theorem act_debts : (act w).debts = w.debts := by
  unfold act
  split
  · exact actOff_debts hs
  · exact actIdle_debts hs
  · exact actAttached_debts hs
  · next h => exact absurd h hs
  all_goals rfl

theorem recomputeTarget_debts : (recomputeTarget w).debts = w.debts := by
  have hnot : (setTarget w).st.ru.state ≠ .session := hs
  unfold recomputeTarget
  dsimp only
  split
  · split
    · rw [enterIdle_debts hnot, setTarget_debts]
    · exact setTarget_debts w
  · rw [act_debts hnot, setTarget_debts]

end

theorem lingerSees_debts (o n : Bool) (w : Work) : (lingerSees o n w).debts = w.debts := by
  unfold lingerSees
  split
  · exact touchIf_debts _ _ _
  · split <;> rfl

theorem demandSeen_debts (w : Work) : (demandSeen w).debts = w.debts := by
  unfold demandSeen
  rw [lingerSees_debts, touchIf_debts]
  rfl

theorem recomputeDemand_debts {w : Work} (hs : w.st.ru.state ≠ .session) : (recomputeDemand w).debts = w.debts := by
  obtain ⟨a, b, hunit⟩ := demandSeen_unit w
  have hnot : (demandSeen w).st.ru.state ≠ .session := by
    rw [hunit]
    exact hs
  have hset : (setTarget (demandSeen w)).st.ru.state ≠ .session := hnot
  rw [recomputeDemand_eq]
  unfold urgencySees
  split
  · rw [enterIdle_debts hset, setTarget_debts, demandSeen_debts]
  · rw [recomputeTarget_debts hnot, demandSeen_debts]

/-! ## A linger that the passes do not start (R74, R90) -/

/-- Outside SESSION with the linger off, and nothing owed but demand after the end of a drill. -/
structure Work.Lull (w : Work) : Prop where
  linger : w.st.ru.lingerOn = false
  outside : w.st.ru.state ≠ .session
  pass : w.passDue = false
  demand : w.demandDue = false ∨ w.drillEnded = true

theorem noneToModem_outside {s : State} (h : s.ru.state ≠ .session) : s.noneToModem := by
  refine Or.inr ?_
  show (decide (s.ru.state = .session) && s.fwd.radioQ.sending.isNone) = false
  rw [decide_eq_false h, Bool.false_and]

/-- Demand that was false, or a drill that has ended in the event, starts no linger. -/
theorem recomputeDemand_lingerOff {w : Work} (hl : w.st.ru.lingerOn = false)
    (h : w.st.steer.demand = false ∨ w.drillEnded = true) : (recomputeDemand w).st.ru.lingerOn = false := by
  rw [(recomputeDemand_linger w).1, demandSeen_ru]
  split
  · rfl
  · rw [if_neg]
    · exact hl
    · rcases h with h | h <;> rw [h] <;> simp

theorem lull_demand {w : Work} (h : w.Lull) (hd : w.demandDue = true) :
    (recomputeDemand { w with demandDue := false }).Lull := by
  have hended := h.demand.resolve_left (by rw [hd]; decide)
  obtain ⟨hpass, hdemand, -⟩ := debts_iff.mp (recomputeDemand_debts (w := { w with demandDue := false }) h.outside)
  exact ⟨recomputeDemand_lingerOff (w := { w with demandDue := false }) h.linger (Or.inr hended),
    noSession_closed.recomputeDemand trivial { w with demandDue := false } h.outside, hpass.trans h.pass, Or.inl hdemand⟩

theorem runPasses_lull (n : Nat) {w : Work} (h : w.Lull) : (runPasses n w).st.ru.lingerOn = false := by
  induction n generalizing w with
  | zero => exact h.linger
  | succ n ih =>
    unfold runPasses
    rw [if_neg (by rw [h.pass]; decide)]
    split
    · next hd => exact ih (lull_demand h hd)
    · exact h.linger

theorem passBody_unit (w : Work) : (passBody w).st.ru = w.st.ru := by
  obtain ⟨-, -, -, hru, -⟩ := passBody_fields w
  have hreleased : (releasedWork w).st.ru = w.st.ru := (ru_of_unreleased (released_rests w) :)
  exact hru.trans hreleased

theorem passBody_steer (w : Work) : (passBody w).st.steer = w.st.steer := by
  have hlinkless : Linkless (fun _ => True) fun s => s.steer = w.st.steer := {
    classes := fun _ _ h => h, flows := fun _ _ h => h, allow := fun _ _ h => h, drill := fun _ _ h => h
    ev := fun _ _ _ h => h, counts := fun _ _ h => h, flowChanges := fun _ _ h => h, fwd := fun _ _ _ h => h }
  exact hlinkless.passBody w (fun _ _ _ _ => trivial) rfl

/-- A pass after which the linger is still off: demand was false when it began. -/
theorem steeringPass_lull {w : Work} (hl : w.st.ru.lingerOn = false) (hs : w.st.ru.state ≠ .session)
    (hdemand : w.st.steer.demand = false) (hpass : w.passDue = false) (hdue : w.demandDue = false) :
    (steeringPass w).Lull := by
  obtain ⟨h1, h2, -⟩ := passBody_debts (noneToModem_outside hs)
  have hru := passBody_unit w
  have hsteer := passBody_steer w
  rw [steeringPass_eq]
  generalize passBody w = v at *
  have hnot : v.st.ru.state ≠ .session := by rw [hru]; exact hs
  obtain ⟨h3, h4, h5⟩ := debts_iff.mp (recomputeDemand_debts hnot)
  refine ⟨recomputeDemand_lingerOff (by rw [hru]; exact hl) (Or.inl (by rw [hsteer]; exact hdemand)),
    noSession_closed.recomputeDemand trivial v hnot, h3.trans (h1.trans hpass), ?_⟩
  exact h2.imp (fun h => h4.trans (h.trans hdue)) fun h => h5.trans h

/-- With the session left, demand false and the linger off, the passes of the event start no linger. -/
theorem passes_lingerOff {w : Work} (hl : w.st.ru.lingerOn = false) (hs : w.st.ru.state ≠ .session)
    (hdemand : w.st.steer.demand = false) : (passes w).st.ru.lingerOn = false := by
  have hlull : (recomputeDemand { w with demandDue := false }).st.ru.state ≠ .session :=
    noSession_closed.recomputeDemand trivial { w with demandDue := false } hs
  show (runPasses (7 + 1) w).st.ru.lingerOn = false
  unfold runPasses
  split
  · exact runPasses_lull 7 (steeringPass_lull (w := { w with passDue := false, demandDue := false }) hl hs hdemand rfl rfl)
  · next hp =>
    split
    · obtain ⟨h3, h4, -⟩ := debts_iff.mp (recomputeDemand_debts (w := { w with demandDue := false }) hs)
      exact runPasses_lull 7 ⟨recomputeDemand_lingerOff (w := { w with demandDue := false }) hl (Or.inl hdemand), hlull,
        h3.trans (Bool.eq_false_iff.mpr hp), Or.inl h4⟩
    · exact hl

end Sys2Proof.Machine
end


section
/-! A linger that stops, at its end or by RELEASE RADIO, and the target that follows (R73, R74, R77). -/

namespace Sys2Proof.Machine

theorem setTarget_moves {w : Work} (h : w.Outside) : w.RuMoves (setTarget w) :=
  have hdebts := debts_iff.mp (setTarget_debts w)
  ⟨rfl, hdebts.1, hdebts.2.1, h.2⟩

theorem recomputeTarget_moves {w : Work} (h : w.Outside) : w.RuMoves (recomputeTarget w) := by
  have hset := setTarget_moves h
  unfold recomputeTarget
  dsimp only
  split
  · split
    · exact hset.trans (enterIdle_moves (hset.outside h))
    · exact hset
  · exact hset.trans (act_moves (hset.outside h))

theorem actSession_held {w : Work} (h : w.st.ru.outstanding ≠ none) : actSession w = w := by
  unfold actSession
  rw [if_neg fun hc => h (linkFree_iff.mp hc.2)]

theorem recomputeTarget_inSession {w : Work} (hs : w.st.ru.state = .session) :
    recomputeTarget w = actSession (setTarget w) := by
  have hstate : (setTarget w).st.ru.state = .session := hs
  unfold recomputeTarget act
  dsimp only
  rw [hstate] <;> rfl

/-- A session that a request in the link or its target keeps stays when the target is recomputed (R61, R73). -/
theorem recomputeTarget_stays {w : Work} (hs : w.st.ru.state = .session)
    (h : w.st.ru.outstanding ≠ none ∨ w.st.targetNow = .session) : recomputeTarget w = setTarget w := by
  rcases h with h | h
  · rw [recomputeTarget_inSession hs]
    exact actSession_held (w := setTarget w) h
  · exact recomputeTarget_session hs h

theorem recomputeTarget_left {w : Work} (hs : w.st.ru.state = .session) (hfree : w.st.ru.outstanding = none)
    (ht : w.st.targetNow ≠ .session) : w.st.Left (recomputeTarget w).st := by
  have hleft : (setTarget w).st.Left (actSession (setTarget w)).st := actSession_left (w := setTarget w) hs ht hfree
  rw [recomputeTarget_inSession hs]
  exact State.Left.ofRu (r := (setTarget w).st.ru) hleft

theorem recomputeTarget_aim (w : Work) : (recomputeTarget w).st.aim = (setTarget w).st.aim := by
  unfold recomputeTarget
  dsimp only
  split
  · split
    · exact enterIdle_aim _
    · rfl
  · exact act_aim _

/-! ## Outside SERVICE no linger starts (R74) -/

def State.lingerBarred (s : State) : Prop := s.exch.service ≠ .service ∧ s.ru.lingerOn = false

theorem linkless_lingerBarred : Linkless (fun _ => True) State.lingerBarred where
  classes := fun _ _ h => h
  flows := fun _ _ h => h
  allow := fun _ _ h => h
  drill := fun _ _ h => h
  ev := fun _ _ _ h => h
  counts := fun _ _ h => h
  flowChanges := fun _ _ h => h
  fwd := fun _ _ _ h => h

theorem recomputeDemand_service (w : Work) : (recomputeDemand w).st.exch.service = w.st.exch.service :=
  (recomputeDemand_linkGoes w).service

theorem recomputeDemand_lingerBarred (w : Work) (h : w.st.lingerBarred) : (recomputeDemand w).st.lingerBarred := by
  refine ⟨by rw [recomputeDemand_service]; exact h.1, ?_⟩
  rw [(recomputeDemand_linger w).1, demandSeen_ru]
  split
  · rfl
  · rw [if_neg]
    · exact h.2
    · rw [decide_eq_false h.1]
      simp

/-- With the session left, the linger off, and demand false or SERVICE not reached, no linger starts. -/
theorem passes_noLinger {w : Work} (hl : w.st.ru.lingerOn = false) (hs : w.st.ru.state ≠ .session)
    (h : w.st.steer.demand = false ∨ w.st.exch.service ≠ .service) : (passes w).st.ru.lingerOn = false := by
  rcases h with h | h
  · exact passes_lingerOff hl hs h
  · exact (runPasses_invariant linkless_lingerBarred recomputeDemand_lingerBarred _ ⟨h, hl⟩).2

/-! ## The linger stopped -/

def lingerOver (s : State) : Work := stopLinger (Work.begin s)

section
variable {s : State}

theorem lingerOver_st : (lingerOver s).st = { s with ru := { s.ru with lingerOn := false } } := rfl

theorem lingerOver_debts : (lingerOver s).debts = (Work.begin s).debts := touchIf_debts _ _ _

theorem lingerOver_moves (hs : s.ru.state ≠ .session) : (Work.begin s).RuMoves (lingerOver s) :=
  have hdebts := debts_iff.mp (lingerOver_debts (s := s))
  ⟨rfl, hdebts.1, hdebts.2.1, hs⟩

theorem lingerOver_target : (lingerOver s).st.targetNow = s.targetWithout := by
  unfold State.targetNow State.targetWithout
  rw [lingerOver_st, Bool.or_false] <;> rfl

theorem lingerOver_kept : (recomputeTarget (lingerOver s)).st.kept = s.kept :=
  (closed_kept s.kept).recomputeTarget trivial _ rfl

theorem lingerOver_stays (hs : s.ru.state = .session) (h : s.ru.outstanding ≠ none ∨ s.targetWithout = .session) :
    recomputeTarget (lingerOver s) = setTarget (lingerOver s) :=
  recomputeTarget_stays hs (h.imp_right fun h => lingerOver_target.trans h)

theorem lingerOver_left (hs : s.ru.state = .session) (hfree : s.ru.outstanding = none)
    (ht : s.targetWithout ≠ .session) : s.Left (recomputeTarget (lingerOver s)).st :=
  State.Left.ofRu (recomputeTarget_left (w := lingerOver s) hs hfree (by rw [lingerOver_target]; exact ht))

theorem lingerOver_aim : (recomputeTarget (lingerOver s)).st.ru.lingerOn = false
    ∧ (recomputeTarget (lingerOver s)).st.steer.demand = s.steer.demand
    ∧ (recomputeTarget (lingerOver s)).st.exch.service = s.exch.service := by
  have haim := recomputeTarget_aim (lingerOver s)
  simp only [State.aim, Prod.mk.injEq] at haim
  obtain ⟨-, hlinger, -, hdemand, -, hservice⟩ := haim
  exact ⟨hlinger, hdemand, hservice⟩

/-- What the end of a linger makes of the radio unit and of a session (R61, R73, R74). -/
theorem lingerOver_goes {t : State} (hcur : s.current) (hru : t.ru = (passes (recomputeTarget (lingerOver s))).st.ru)
    (hended : (recomputeTarget (lingerOver s)).st.Ended t) :
    t.ru.lingerOn = false
    ∧ (s.ru.state = .session → (s.ru.outstanding ≠ none ∨ s.targetWithout = .session) → t.ru.state = .session)
    ∧ (s.ru.state = .session → s.ru.outstanding = none → s.steer.demand = false →
        (s.exch.service ≠ .service ∨ s.cappedStandby ≠ .session) → t.ru.state ≠ .session ∧ t.radio.state = .down)
    ∧ (s.closes t → s.leavesSession t) := by
  obtain ⟨hoff, hdemand, hservice⟩ := lingerOver_aim (s := s)
  have hidle : (recomputeTarget (lingerOver s)).passDue = false → (recomputeTarget (lingerOver s)).demandDue = false →
      t.ru = (recomputeTarget (lingerOver s)).st.ru := by
    intro hpass hdue
    rw [hru, passes_idle _ hpass hdue]
  have hstays : s.ru.state = .session → (s.ru.outstanding ≠ none ∨ s.targetWithout = .session) →
      t.ru.lingerOn = false ∧ t.ru.state = .session := by
    intro hs h
    have hdebts : (recomputeTarget (lingerOver s)).debts = (Work.begin s).debts := by
      rw [lingerOver_stays hs h, setTarget_debts, lingerOver_debts]
    obtain ⟨hpass, hdue, -⟩ := debts_iff.mp hdebts
    rw [hidle hpass hdue, hoff, lingerOver_stays hs h]
    exact ⟨rfl, hs⟩
  have hleaves : s.ru.state = .session → s.ru.outstanding = none → s.targetWithout ≠ .session → s.Left t :=
    fun hs hfree ht => hended.left (lingerOver_left hs hfree ht)
  have hmust : s.ru.state = .session → ¬(s.ru.outstanding ≠ none ∨ s.targetWithout = .session) →
      s.ru.outstanding = none ∧ s.targetWithout ≠ .session := fun _ h => not_or.mp h |>.imp_left Classical.not_not.mp
  have hover : t.ru.lingerOn = false := by
    by_cases hs : s.ru.state = .session
    · by_cases hkeep : s.ru.outstanding ≠ none ∨ s.targetWithout = .session
      · exact (hstays hs hkeep).1
      · obtain ⟨hfree, ht⟩ := hmust hs hkeep
        have hquiet : s.steer.demand = false ∨ s.exch.service ≠ .service := by
          by_cases hserves : s.exch.service = .service
          · refine Or.inl (Bool.eq_false_iff.mpr fun hd => ht ?_)
            unfold State.targetWithout
            rw [if_neg (not_not.mpr hserves), if_pos hd]
          · exact Or.inr hserves
        rw [hru]
        refine passes_noLinger hoff (lingerOver_left hs hfree ht).outside ?_
        rw [hdemand, hservice]
        exact hquiet
    · have houtside : (Work.begin s).Outside := ⟨hcur.2.1, hs⟩
      have hmoves := (lingerOver_moves hs).trans (recomputeTarget_moves ((lingerOver_moves hs).outside houtside))
      rw [hidle hmoves.pass hmoves.demand, hoff]
  refine ⟨hover, fun hs h => (hstays hs h).2, fun hs hfree hd h => ?leaves, fun hc => ?closes⟩
  case leaves =>
    have ht : s.targetWithout ≠ .session := by
      unfold State.targetWithout
      split
      · decide
      · next hservice =>
        rw [hd]
        exact h.resolve_left hservice
    have hleft := hleaves hs hfree ht
    exact ⟨hleft.outside, hleft.down⟩
  case closes =>
    by_cases hkeep : s.ru.outstanding ≠ none ∨ s.targetWithout = .session
    · exact absurd (hstays hc.1 hkeep).2 hc.2
    · obtain ⟨hfree, ht⟩ := hmust hc.1 hkeep
      exact (hleaves hc.1 hfree ht).leaves
end

theorem exec_lingerExpiry {s : State} (hon : s.ru.lingerOn = true)
    (hdue : s.effectiveLinger * 1000 ≤ (s.now - s.ru.lingerStart).toNat) :
    exec .lingerExpiry s = .next (event (fun w => recomputeTarget (compareLinger w)) s) := by
  have hlinger : s.lingerDue = true := by
    unfold State.lingerDue
    rw [hon]
    exact decide_eq_true hdue
  show execLingerExpiry s = _
  unfold execLingerExpiry
  rw [if_pos hlinger]

theorem compareLinger_begin {s : State} (hon : s.ru.lingerOn = true)
    (hdue : s.effectiveLinger * 1000 ≤ (s.now - s.ru.lingerStart).toNat) : compareLinger (Work.begin s) = lingerOver s := by
  refine if_pos ?_
  rw [show (Work.begin s).st.ru.lingerOn = true from hon]
  exact decide_eq_true hdue

theorem takeKind_onTarget {kind i : Nat} {rest : List Nat} {s : State} {body : List Byte → Work → Answered} {v : Work}
    (hoffers : s.offersKind kind i rest) (hv : (body (slotParams s.mem i) (Work.begin s)).work = v)
    (h : v.st.onTarget) : (takeKind kind body s).onTarget := by
  subst hv
  rw [takeKind_eq kind body s i rest hoffers]
  exact finish_onTarget _ _ (passes_onTarget _ h)

/-- LINGER_EXPIRY, due (R73, R74). -/
theorem lingerExpiry_goes {s : State} (hcur : s.current) (hon : s.ru.lingerOn = true)
    (hdue : s.effectiveLinger * 1000 ≤ (s.now - s.ru.lingerStart).toNat) :
    ∃ t, exec .lingerExpiry s = .next t ∧ t.kept = s.kept ∧ t.ru.target = t.targetNow
        ∧ (s.ru.state ≠ .session → t.ru.lingerOn = false)
        ∧ (s.steer.demand = s.wantsSession → t.ru.lingerOn = false)
        ∧ (s.ru.state = .session → (s.ru.outstanding ≠ none ∨ s.targetWithout = .session) → t.ru.state = .session)
        ∧ (s.ru.state = .session → s.ru.outstanding = none → s.steer.demand = false →
            (s.exch.service ≠ .service ∨ s.cappedStandby ≠ .session) → t.ru.state ≠ .session ∧ t.radio.state = .down)
        ∧ (s.closes t → s.leavesSession t) := by
  let g : Work → Work := fun w => recomputeTarget (compareLinger w)
  have hg : g (Work.begin s) = recomputeTarget (lingerOver s) := congrArg recomputeTarget (compareLinger_begin hon hdue)
  have hended := event_ended (g := g) hcur.1
  have hkept := event_kept g s hcur.1
  rw [hg] at hended hkept
  have hevent : event g s = finish s (passes (recomputeTarget (lingerOver s))) := by
    rw [← hg]
    exact if_neg hcur.1
  have hru : (event g s).ru = (passes (recomputeTarget (lingerOver s))).st.ru := by rw [hevent, finish_ru]
  have htarget : (event g s).onTarget := by
    rw [hevent]
    exact finish_onTarget _ _ (passes_onTarget _ (recomputeTarget_onTarget _))
  obtain ⟨hover, hstays, hleaves, hcloses⟩ := lingerOver_goes hcur hru hended
  exact ⟨_, exec_lingerExpiry hon hdue, hkept.trans lingerOver_kept, htarget, fun _ => hover, fun _ => hover, hstays,
    hleaves, hcloses⟩

theorem orderReleaseRadio_rests {s : State} {ps : List Byte} (hdemand : s.steer.demand = false)
    (hoff : s.ru.lingerOn = false) : orderReleaseRadio ps (Work.begin s)
      = { work := Work.begin s, result := .ok, answer := releaseAnswer false } := by
  unfold orderReleaseRadio
  rw [if_neg (by rw [show (Work.begin s).st.steer.demand = false from hdemand]; decide),
    if_neg (by rw [show (Work.begin s).st.ru.lingerOn = false from hoff]; decide)]

theorem orderReleaseRadio_stops {s : State} {ps : List Byte} (hdemand : s.steer.demand = false)
    (hon : s.ru.lingerOn = true) : orderReleaseRadio ps (Work.begin s)
      = { work := recomputeTarget (lingerOver s), result := .ok, answer := releaseAnswer true } := by
  unfold orderReleaseRadio
  rw [if_neg (by rw [show (Work.begin s).st.steer.demand = false from hdemand]; decide),
    if_pos (show (Work.begin s).st.ru.lingerOn = true from hon)] <;> rfl

/-- Settles O25. -/
theorem radioReleased : Obligations.RadioReleased := by
  unfold Obligations.RadioReleased
  intro i rest s hcur hoffers hdemand
  refine ⟨fun hoff => ?rests, fun hon => ?stops⟩
  case rests =>
    exact ⟨_, rfl, takeKind_still (kind := Kind.releaseRadio) hoffers (orderReleaseRadio_rests hdemand hoff) rfl rfl rfl rfl
      hcur⟩
  case stops =>
    have hbody := orderReleaseRadio_stops (ps := slotParams s.mem i) hdemand hon
    have hwork : (orderReleaseRadio (slotParams s.mem i) (Work.begin s)).work = recomputeTarget (lingerOver s) := by
      rw [hbody]
    have hmem : (recomputeTarget (lingerOver s)).st.mem = s.mem := (congrArg State.mem lingerOver_kept :)
    have hru := takeKind_ru (kind := Kind.releaseRadio) hoffers hwork
    have hended := takeKind_ended (kind := Kind.releaseRadio) hoffers hwork hmem
    have hkept := takeKind_kept Kind.releaseRadio orderReleaseRadio s i rest hoffers (by rw [hwork]; exact hmem)
    rw [hbody] at hkept
    have htarget := takeKind_onTarget (kind := Kind.releaseRadio) hoffers hwork (recomputeTarget_onTarget _)
    obtain ⟨hover, hstays, hleaves, hcloses⟩ := lingerOver_goes hcur hru hended
    refine ⟨takeKind Kind.releaseRadio orderReleaseRadio s, rfl, ?_, htarget, fun _ => hover, fun _ => hover, hstays,
      fun hs hfree => hleaves hs hfree hdemand, hcloses⟩
    refine hkept.trans ((answered_kept lingerOver_kept i rest _ _).trans ?_)
    unfold releaseAnswer
    rw [hru] <;> rfl

end Sys2Proof.Machine
end


section
/-! Signal reports, and the link that their answers free (R17, R18, R56, R57, R71, R72). -/

namespace Sys2Proof.Machine

/-! ## A report before its evaluation -/

/-- The path monitor's grade state after a report. -/
def State.gradeAfter (s : State) (v : Option Nat) : GradeState :=
  if s.radio.state = .down then s.grade else s.grade.take v

/-- The state after a report, shown in this record of the radio unit, before its evaluation. -/
def State.heard (s : State) (v : Option Nat) : State :=
  { s with ru := { s.ru with grade := v, gradeTime := s.now }, grade := s.gradeAfter v }

/-- The report is an evaluation of a path that is scored. -/
def State.reportScores (s : State) (v : Option Nat) : Bool :=
  decide ((s.gradeAfter v).scoring ≠ s.grade.scoring) && (s.scoring .radio && s.radio.ready)

theorem take_eq (g : GradeState) (v : Option Nat) : g.take v = match v with
    | some n => { last := some n, unknown := 0, scoring := n, valid := true }
    | none => if 3 ≤ g.unknown then { g with unknown := 4, scoring := 0, valid := false }
      else { g with unknown := g.unknown + 1 } := by
  cases v with
  | some n => rfl
  | none =>
    unfold GradeState.take
    by_cases h : 3 ≤ g.unknown
    · rw [if_pos h, show min 4 (g.unknown + 1) = 4 by omega]
      rfl
    · rw [if_neg h, show min 4 (g.unknown + 1) = g.unknown + 1 by omega]
      exact if_neg (by omega)

/-- The work of a report that the radio record shows. -/
def shownWork (v : Option Nat) (w : Work) : Work :=
  (w.onRu fun r => { r with grade := v, gradeTime := w.now }).touchIf (decide (w.st.ru.grade ≠ v)) .radioUnit

/-- The work of a report that the path monitor has taken. -/
def takenWork (v : Option Nat) (w : Work) : Work :=
  (w.onGrade fun g => g.take v).touchIf (decide (w.st.grade.take v ≠ w.st.grade)) (.path .radio)

/-- The work of a report before its evaluation. -/
def reportedWork (v : Option Nat) (w : Work) : Work :=
  if w.st.radio.state = .down then shownWork v w else takenWork v (shownWork v w)

section
variable {v : Option Nat} {w : Work}

theorem reportedWork_st : (reportedWork v w).st = w.st.heard v := by
  unfold reportedWork State.heard State.gradeAfter
  split <;> rfl

theorem reportedWork_debts : (reportedWork v w).debts = w.debts := by
  unfold reportedWork
  split <;> rfl

theorem gradeSees_eq : gradeSees v w =
    if (w.st.grade.take v).scoring = w.st.grade.scoring then takenWork v w else evaluate .radio (takenWork v w) := rfl

theorem reportSignal_shown : reportSignal v w =
    if w.st.radio.state = .down then shownWork v w else gradeSees v (shownWork v w) := rfl

/-- A report is shown and taken, and is an evaluation where the scoring grade changes (R17, R18, R72). -/
theorem reportSignal_eq : reportSignal v w =
    if (w.st.gradeAfter v).scoring = w.st.grade.scoring then reportedWork v w else evaluate .radio (reportedWork v w) := by
  unfold State.gradeAfter reportedWork
  rw [reportSignal_shown]
  by_cases hd : w.st.radio.state = .down
  · rw [if_pos hd, if_pos hd, if_pos hd, if_pos rfl]
  · rw [if_neg hd, if_neg hd, if_neg hd]
    exact gradeSees_eq

theorem reportSignal_scores (h : w.st.reportScores v = true) : reportSignal v w = evaluate .radio (reportedWork v w) := by
  unfold State.reportScores at h
  rw [Bool.and_eq_true, decide_eq_true_iff] at h
  rw [reportSignal_eq, if_neg h.1]

theorem reportSignal_rests (h : w.st.reportScores v = false) : reportSignal v w = reportedWork v w := by
  unfold State.reportScores at h
  rw [Bool.and_eq_false_iff, decide_eq_false_iff_not, Classical.not_not] at h
  rw [reportSignal_eq]
  split
  · rfl
  · next hne =>
    refine evaluate_rests ?_
    rw [reportedWork_st]
    exact h.resolve_left hne

/-- The radio path scored anew by a report. -/
theorem reportSignal_went (h : w.st.reportScores v = true) : (w.st.heard v).PathWent (reportSignal v w).st .radio
    [w.st.radio.evaluatedIn (w.st.heard v) .radio] := by
  have hscores := h
  unfold State.reportScores at hscores
  rw [Bool.and_eq_true, Bool.and_eq_true] at hscores
  obtain ⟨-, hscoring, hready⟩ := hscores
  have hst : (reportedWork v w).st = w.st.heard v := reportedWork_st
  have hwent := evaluate_went (p := .radio) (w := reportedWork v w) (by rw [hst]; exact hscoring) (by rw [hst]; exact hready)
  rw [hst] at hwent
  rw [reportSignal_scores h]
  exact hwent

theorem reportedWork_quietly {s : State} (h : w.Quietly s) : (reportedWork v w).Quietly s := by
  obtain ⟨hpass, hdemand, -⟩ := debts_iff.mp (reportedWork_debts (v := v) (w := w))
  have hst : (reportedWork v w).st = w.st.heard v := reportedWork_st
  refine ⟨h.service, hpass.trans h.pass, hdemand.trans h.demand, ?_, ?_, ?_⟩
  · rw [hst]
    exact h.flows
  · rw [hst]
    exact h.cond
  · rw [hst]
    exact h.irq

end

end Sys2Proof.Machine
end


section
/-! Signal reports as events, and the query that the poll timer asks for (R17, R18, R56, R57, R71, R72). -/

namespace Sys2Proof.Machine

/-! ## A record scored stays measured -/

theorem movesTo_measured (now : Time) (n : PathState) (r : PathRec) : (r.movesTo now n).measured = r.measured := by
  unfold PathRec.movesTo
  dsimp only
  split <;> rfl

theorem evaluatedIn_measured (s : State) (p : Path) (r : PathRec) : (r.evaluatedIn s p).measured = true := by
  rw [evaluatedIn_eq]
  unfold PathRec.judged
  dsimp only
  generalize min 8000 (r.penalty + 500) = penalty
  split
  · split
    · exact movesTo_measured _ _ _
    · rfl
  · split
    · exact movesTo_measured _ _ _
    · split
      · exact movesTo_measured _ _ _
      · split
        · exact movesTo_measured _ _ _
        · rfl

theorem lostIn_measured (s : State) (p : Path) (r : PathRec) : (r.lostIn s p).measured = r.measured := by
  unfold PathRec.lostIn
  dsimp only
  generalize min 8000 (r.penalty + 1000) = penalty
  split
  · rfl
  · split <;> exact movesTo_measured _ _ _

theorem pathGoes_measured {u t : State} {x : PathRec} (h : u.pathGoes t .radio [x]) (hx : x.measured = true) :
    t.radio.measured = true := by
  obtain ⟨-, hcloses, hstays, -⟩ := h
  by_cases hc : u.closes t
  · rw [(hcloses hc).1, lostIn_measured]
    exact hx
  · rw [(hstays hc).1]
    exact hx

/-! ## The link served after an evaluation -/

theorem State.EventEnds.trans {u v t : State} (h : u.EventEnds v) (h' : v.EventEnds t) : u.EventEnds t where
  link := h.link.trans h'.link
  fibre := h'.fibre.trans h.fibre
  ret := ⟨h'.ret.1.trans h.ret.1, h'.ret.2.trans h.ret.2⟩
  drill := fun hd => by
    have hv := h.drill hd
    rw [h'.drill (by rw [hv]; exact hd), hv]
  latches := fun m hm => h'.latches m (h.latches m hm)

theorem serveLink_demanding {Q : State → State → Prop} (H : Demanding Q) (w : Work) : Q w.st (serveLink w).st := by
  unfold serveLink
  split
  · dsimp only
    split
    · exact H.trans (H.act w) (H.trans (t := ((act w).onRu fun r => { r with queryPending := false }).st)
        (H.only ⟨_, (act w).st.ev, .refl _, rfl⟩ Iff.rfl) (H.sendRequest _ _))
    · exact H.act w
  · exact H.refl _

theorem serveLink_kept (w : Work) : (serveLink w).st.kept = w.st.kept := (closed_kept w.st.kept).serveLink _ rfl

theorem serveLink_ends (w : Work) : w.st.EventEnds (serveLink w).st where
  link := serveLink_demanding demanding_linkGoes w
  fibre := (congrArg State.fibre (serveLink_kept w) :)
  ret := ⟨(congrArg (fun u : State => u.steer.ret) (serveLink_kept w) :),
    (congrArg (fun u : State => u.steer.retDue) (serveLink_kept w) :)⟩
  drill := fun hd => (closed_drillRests False False False False True _ hd).serveLink w rfl
  latches := fun m hm => (closedLatched m).serveLink w hm

theorem linkServed_congr {u v t : State} (hru : u.ru = v.ru) (hclk : u.clk = v.clk) (h : v.linkServed t) :
    u.linkServed t := by
  unfold State.linkServed State.now at *
  rw [hru, hclk]
  exact h

/-! ## Reports as events -/

theorem begin_quietly {s : State} (hcur : s.current) : (Work.begin s).Quietly s := ⟨hcur.1, rfl, rfl, rfl, hcur.2.1, hcur.2.2⟩

/-- What an event makes of a state in which a report has scored the radio path. -/
def State.scoredBy (s : State) (v : Option Nat) (t : State) : Prop :=
  t.radio.measured = true ∧ t.ru.grade = v ∧ t.ru.gradeTime = s.now
    ∧ (s.heard v).pathGoes t .radio [s.radio.evaluatedIn (s.heard v) .radio]

section
variable {s t : State} {v : Option Nat} {w : Work} {g : Work → Work} (hw : w.Quietly s)
include hw

theorem event_reportRests (hg : g (Work.begin s) = reportSignal v w) (hr : w.st.reportScores v = false) :
    (event g s).plain = (w.st.heard v).plain := by
  have hst : (reportedWork v w).st = w.st.heard v := reportedWork_st
  rw [← hst]
  exact (reportedWork_quietly hw).plain (r := (reportedWork v w).st.ru) (hg.trans (reportSignal_rests hr)) rfl rfl rfl Iff.rfl

theorem event_reportFrees (hfree : w.st.ru.outstanding = none) (hg : g (Work.begin s) = serveLink (reportSignal v w))
    (hr : w.st.reportScores v = false) (hkept : (event g s).keptByModem = (w.st.heard v).keptByModem) :
    (w.st.heard v).linkFreed (event g s) := by
  have hst : (reportedWork v w).st = w.st.heard v := reportedWork_st
  rw [reportSignal_rests hr] at hg
  rw [← hst] at hkept ⊢
  refine linkFreed_of (reportedWork_quietly hw) ?_ hg hkept
  rw [hst]
  exact hfree

end

section
variable {t : State} {v : Option Nat} {w : Work} (hr : w.st.reportScores v = true)
include hr

/-- A report that has scored the path, and what the rest of the event leaves. -/
theorem scoredBy_of (hends : (reportSignal v w).st.EventEnds t) (hkept : t.kept = (reportSignal v w).st.kept) :
    w.st.scoredBy v t := by
  have hwent := reportSignal_went hr
  have hgoes := pathGoes_of_went hwent hends
  have hru : (reportSignal v w).st.ru = (w.st.heard v).ru := hwent.keeps.ru
  have hlasting : t.ru.lasting = (reportSignal v w).st.ru.lasting := (congrArg State.ru hkept :)
  rw [hru] at hlasting
  exact ⟨pathGoes_measured hgoes (evaluatedIn_measured _ _ _), (congrArg RadioUnit.grade hlasting :),
    (congrArg RadioUnit.gradeTime hlasting :), hgoes⟩

theorem report_serves (hfree : w.st.ru.outstanding = none) (hended : (serveLink (reportSignal v w)).st.Ended t) :
    (w.st.heard v).linkServed t := by
  have hwent := reportSignal_went hr
  have hru : (reportSignal v w).st.ru = (w.st.heard v).ru := hwent.keeps.ru
  refine linkServed_congr hru.symm hwent.keeps.clk.symm (linkServed_of ?_ hended)
  rw [hru]
  exact hfree

end

/-! ## The answers of a SIGNAL QUERY (R56, R57, R72) -/

/-- What the answer to a query makes of a state in which the link has been freed. -/
def State.heardBy (s : State) (v : Option Nat) (t : State) : Prop :=
  t.keptByModem = s.keptByModem
    ∧ (s.reportScores v = true → s.scoredBy v t ∧ (s.heard v).linkServed t)
    ∧ (s.reportScores v = false → (s.heard v).linkFreed t)

theorem event_heardBy {s : State} {v : Option Nat} {w : Work} {g : Work → Work} (hw : w.Quietly s)
    (hfree : w.st.ru.outstanding = none) (hg : g (Work.begin s) = serveLink (reportSignal v w))
    (hkept : (event g s).keptByModem = w.st.keptByModem) : w.st.heardBy v (event g s) := by
  have hended := event_ended (g := g) hw.service
  have hevent := event_kept g s hw.service
  rw [hg] at hended hevent
  refine ⟨hkept, fun hr => ⟨?_, report_serves hr hfree hended⟩, fun hr => event_reportFrees hw hfree hg hr hkept⟩
  exact scoredBy_of hr ((serveLink_ends _).trans hended.ends) (hevent.trans (serveLink_kept _))

end Sys2Proof.Machine
end


section
/-! SIGNAL reports, POLL TIMER EXPIRY and LINGER EXPIRY (R17, R18, R56, R57, R71 to R74). -/

namespace Sys2Proof.Machine

/-! ## The four reports -/

theorem exec_signalIndication {s : State} (g : Byte) (h : s.ru.rx = []) :
    exec (.signalIndication g) s = .next (event (reportSignal (gradeOf g)) s) := by
  show Host.Outcome.next (event (takeFrame (.signalIndication g)) s) = _
  unfold event
  rw [takeFrame_hunting (.signalIndication g) (Work.begin s) h]
  rfl

theorem exec_signalAnswer {s : State} (g : Byte) (h : s.ru.rx = []) :
    exec (.signalAnswer g) s = .next (event (takeSignal g) s) := by
  show Host.Outcome.next (event (takeFrame (.signalAnswer g)) s) = _
  unfold event
  rw [takeFrame_hunting (.signalAnswer g) (Work.begin s) h]
  rfl

section
variable {w : Work} {stale : Bool} {due : Time}
  (h : w.st.ru.outstanding = some { kind := .signalQuery, stale := stale, due := due })
include h

theorem takeSignal_query (g : Byte) : takeSignal g w = serveLink (reportSignal (gradeOf g) (clearRequest w)) := by
  unfold takeSignal
  rw [h]
  exact if_pos rfl

theorem answerTimedOut_query : answerTimedOut w = serveLink (reportSignal none (clearRequest w)) := by
  unfold answerTimedOut takeTimeout
  rw [h]
  exact if_pos rfl

/-- The radio unit after a refusal of a query, recorded where the query is not stale. -/
def RadioUnit.refusedQuery (stale : Bool) (reason : Byte) (r : RadioUnit) : RadioUnit :=
  if stale then { r with outstanding := none }
  else { r with outstanding := none, refusalReason := reason, refusalKind := some .signalQuery }

theorem takeRefused_query (reason : Byte) :
    takeRefused reason w = serveLink (reportSignal none (w.onRu (RadioUnit.refusedQuery stale reason))) := by
  unfold takeRefused
  rw [h]
  refine (if_pos rfl).trans ?_
  cases stale <;> rfl

end

theorem onRu_quietly {f : RadioUnit → RadioUnit} (hf : ∀ r, (f r).state = r.state) {s : State} (hcur : s.current) :
    ((Work.begin s).onRu f).Quietly s :=
  have hstate : (f s.ru).state = .session ↔ s.ru.state = .session := by rw [hf]
  ⟨hcur.1, rfl, rfl, rfl, hcur.2.1.trans (facts_ru hstate).symm, hcur.2.2⟩

theorem takeSignal_keptByModem (g : Byte) (s : State) : (event (takeSignal g) s).keptByModem = s.keptByModem :=
  event_keptByModem _ s ((closed_keptByModem s.keptByModem).takeSignal trivial g (Work.begin s) rfl)

theorem reportSignal_keptByModem (v : Option Nat) (s : State) :
    (event (reportSignal v) s).keptByModem = s.keptByModem :=
  event_keptByModem _ s ((closed_keptByModem s.keptByModem).reportSignal trivial v (Work.begin s) rfl)

theorem reportScores_iff {s : State} {v : Option Nat} : s.reportScores v = true ↔
    (s.gradeAfter v).scoring ≠ s.grade.scoring ∧ s.scoring .radio = true ∧ 8 ≤ s.radio.window.length := by
  unfold State.reportScores
  rw [Bool.and_eq_true, Bool.and_eq_true, decide_eq_true_iff]
  exact and_congr_right' (and_congr_right' decide_eq_true_iff)

/-- The answer to a query, in the words of the statement. -/
theorem answered_of {s t : State} {v : Option Nat} {q : RadioUnit} {after : GradeState} (hafter : after = s.gradeAfter v)
    (hsettings : q.settings = s.ru.settings) (h : ({ s with ru := q } : State).heardBy v t) :
    let u := ({ s with ru := { q with grade := v, gradeTime := s.now }, grade := after } : State)
    let evaluates := after.scoring ≠ s.grade.scoring ∧ s.scoring .radio = true ∧ 8 ≤ s.radio.window.length
    (evaluates → (t.keptByModem = s.keptByModem ∧ t.radio.measured = true ∧ t.ru.grade = v ∧ t.ru.gradeTime = s.now
        ∧ u.pathGoes t .radio [s.radio.evaluatedIn u .radio]) ∧ u.linkServed t)
      ∧ (¬evaluates → u.linkFreed t) := by
  subst hafter
  obtain ⟨hkept, hscored, hfreed⟩ := h
  refine ⟨fun he => ?_, fun he => hfreed (Bool.eq_false_iff.mpr fun hs => he (reportScores_iff.mp hs))⟩
  obtain ⟨⟨hmeasured, hgrade, htime, hgoes⟩, hserved⟩ := hscored (reportScores_iff.mpr he)
  exact ⟨⟨hkept.trans (keptByModem_of_settings hsettings), hmeasured, hgrade, htime, hgoes⟩, hserved⟩

theorem gradeAfter_eq {s : State} {v : Option Nat} : (if s.radio.state = .down then s.grade else
    match v with
    | some n => { last := some n, unknown := 0, scoring := n, valid := true }
    | none => if 3 ≤ s.grade.unknown then { s.grade with unknown := 4, scoring := 0, valid := false }
      else { s.grade with unknown := s.grade.unknown + 1 }) = s.gradeAfter v := by
  unfold State.gradeAfter
  rw [take_eq] <;> rfl

theorem event_reportScored {s : State} {v : Option Nat} (hcur : s.current) (h : s.reportScores v = true) :
    s.scoredBy v (event (reportSignal v) s) :=
  scoredBy_of (w := Work.begin s) h (event_ends hcur.1) (event_kept _ s hcur.1)

/-! ## POLL TIMER EXPIRY (R71) -/

section
variable {s : State} {due : Time} (hcur : s.current)

theorem exec_pollTimerExpiry (h : s.ru.pollDue = some due) (hdue : reached s.now due = true) :
    exec .pollTimerExpiry s = .next (event (pollDue due) s) := by
  show execPollTimerExpiry s = _
  unfold execPollTimerExpiry
  rw [h]
  exact congrArg Host.Outcome.next (if_pos hdue)

def RadioUnit.pollNext (due : Time) (r : RadioUnit) : RadioUnit := { r with pollDue := some (later due (r.poll * 1000)) }

theorem pollDue_free {w : Work} (hfree : w.st.ru.outstanding = none) (hq : w.st.ru.queryPending = false) :
    pollDue due w = sendRequest .signalQuery (w.onRu (RadioUnit.pollNext due)) := by
  unfold pollDue
  dsimp only
  split
  · exact if_neg (Bool.eq_false_iff.mp hq)
  · next o ho => cases hfree.symm.trans ho

theorem pollDue_held {w : Work} {o : Outstanding} (ho : w.st.ru.outstanding = some o) :
    pollDue due w = if o.kind = .signalQuery then w.onRu (RadioUnit.pollNext due)
      else (w.onRu (RadioUnit.pollNext due)).onRu fun r => { r with queryPending := true } := by
  unfold pollDue
  dsimp only
  split
  · next hn => cases ho.symm.trans hn
  · next o' ho' =>
    obtain rfl : o = o' := Option.some.inj (ho.symm.trans ho')
    rfl

theorem send_query (now : Time) (r : RadioUnit) : r.send .signalQuery now = { r with
    tx := [0x7E, 0x05, 0x00, 0xFB],
    outstanding := some { kind := .signalQuery, stale := false, due := now + 5000 } } := by
  have hdue : later now (5 * 1000) = now + 5000 := by simp [later]
  have htx : requestFrame .signalQuery = [0x7E, 0x05, 0x00, 0xFB] := by decide
  unfold RadioUnit.send
  simp [RadioUnit.answerSeconds, hdue, htx]

include hcur

theorem pollDue_asks (hfree : s.ru.outstanding = none) (hq : s.ru.queryPending = false) :
    (event (pollDue due) s).plain = ({ s with ru := { s.ru with
          pollDue := some (due + BitVec.ofNat 32 (s.ru.poll * 1000)), tx := [0x7E, 0x05, 0x00, 0xFB],
          outstanding := some { kind := .signalQuery, stale := false, due := s.now + 5000 } } } : State).plain := by
  have hunit := send_query s.now (RadioUnit.pollNext due s.ru)
  have hplain := (begin_quietly hcur).plain (g := pollDue due)
    (r := (RadioUnit.pollNext due s.ru).send .signalQuery s.now) (pollDue_free hfree hq) rfl rfl rfl Iff.rfl
  rw [hunit] at hplain
  exact hplain

theorem pollDue_waits {o : Outstanding} (ho : s.ru.outstanding = some o) :
    (event (pollDue due) s).plain = ({ s with ru := { s.ru with
          pollDue := some (due + BitVec.ofNat 32 (s.ru.poll * 1000)),
          queryPending := if o.kind = Request.signalQuery then s.ru.queryPending else true } } : State).plain := by
  have hg := pollDue_held (due := due) (w := Work.begin s) ho
  split at hg
  · next hk =>
    rw [if_pos hk]
    exact (begin_quietly hcur).plain hg rfl rfl rfl Iff.rfl
  · next hk =>
    rw [if_neg hk]
    exact (begin_quietly hcur).plain hg rfl rfl rfl Iff.rfl

end

/-- Settles O45. -/
theorem signalsReportedAndAsked : Obligations.SignalsReportedAndAsked := by
  unfold Obligations.SignalsReportedAndAsked
  refine ⟨?reports, fun s hcur => ⟨fun due hpoll hdue => ⟨fun hfree hq => ?asks, fun o ho => ?waits⟩, fun hon hdue => ?linger⟩⟩
  case asks => exact ⟨_, exec_pollTimerExpiry hpoll hdue, pollDue_asks hcur hfree hq⟩
  case waits => exact ⟨_, exec_pollTimerExpiry hpoll hdue, pollDue_waits hcur ho⟩
  case linger => exact lingerExpiry_goes hcur hon hdue
  case reports =>
    intro g due s hcur v known after evaluates reported freed scored answered
    have hafter : after = s.gradeAfter v := gradeAfter_eq
    have hanswered : ∀ (f : RadioUnit → RadioUnit) (body : Work → Work), (∀ r, (f r).state = r.state) →
        (f s.ru).settings = s.ru.settings → (f s.ru).outstanding = none →
        body (Work.begin s) = serveLink (reportSignal v ((Work.begin s).onRu f)) →
        (event body s).keptByModem = s.keptByModem → answered (f s.ru) (event body s) :=
      fun f body hf hsettings hfree hbody hkept => answered_of hafter hsettings
        (event_heardBy (onRu_quietly hf hcur) hfree hbody (hkept.trans (keptByModem_of_settings hsettings).symm))
    refine ⟨fun hrx => ?indicated, fun stale reason ho => ⟨fun hrx => ?answer, fun hv hrx => ?refused, fun hv hdue => ?timeout⟩⟩
    case indicated =>
      have hheard : s.heard v = reported s.ru := congrArg (fun x : GradeState => ({ s with
        ru := { s.ru with grade := v, gradeTime := s.now }, grade := x } : State)) hafter.symm
      have hiff : s.reportScores v = true ↔ evaluates := reportScores_iff.trans (by rw [← hafter])
      refine ⟨_, exec_signalIndication g hrx, fun he => ?_, fun he => ?_⟩
      · obtain ⟨hmeasured, hgrade, htime, hgoes⟩ := event_reportScored hcur (hiff.mpr he)
        rw [hheard] at hgoes
        exact ⟨reportSignal_keptByModem v s, hmeasured, hgrade, htime, hgoes⟩
      · rw [← hheard]
        exact event_reportRests (begin_quietly hcur) rfl (Bool.eq_false_iff.mpr fun h => he (hiff.mp h))
    case answer =>
      exact ⟨_, exec_signalAnswer g hrx, hanswered (fun r => { r with outstanding := none }) (takeSignal g) (fun _ => rfl)
        rfl rfl (takeSignal_query (w := Work.begin s) ho g) (takeSignal_keptByModem g s)⟩
    case refused =>
      have hbody := takeRefused_query (w := Work.begin s) ho reason
      rw [← hv] at hbody
      have hstate : ∀ r, (RadioUnit.refusedQuery stale reason r).state = r.state := by cases stale <;> exact fun _ => rfl
      have h := hanswered (RadioUnit.refusedQuery stale reason) (takeRefused reason) hstate (by cases stale <;> rfl)
        (by cases stale <;> rfl) hbody (takeRefused_keptByModem reason s)
      exact ⟨_, exec_refusedAnswer reason hrx, h⟩
    case timeout =>
      have hbody := answerTimedOut_query (w := Work.begin s) ho
      rw [← hv] at hbody
      exact ⟨_, exec_answerTimeout ho hdue, hanswered (fun r => { r with outstanding := none }) answerTimedOut
        (fun _ => rfl) rfl rfl hbody (answerTimedOut_keptByModem s)⟩

end Sys2Proof.Machine
end


section
/-! Demand recomputed twice, and the way out of FAULT by SET RADIO (R64, R67, R73, R90). -/

namespace Sys2Proof.Machine

/-! ## Demand recomputed again -/

/-- Demand and target are what their inputs give, and no linger runs while demand is true. -/
structure State.DemandSettled (s : State) : Prop where
  demand : s.steer.demand = s.wantsSession
  target : s.onTarget
  linger : s.wantsSession = true → s.ru.lingerOn = false

theorem recomputeTarget_ruOnly {w : Work} (h : w.st.ru.state ≠ .session) : w.st.RuOnly (recomputeTarget w).st := by
  have hset : w.st.RuOnly (setTarget w).st := ⟨_, w.st.ev, .refl _, rfl⟩
  have hnot : (setTarget w).st.ru.state ≠ .session := h
  unfold recomputeTarget
  dsimp only
  split
  · split
    · exact hset.trans (enterIdle_ruOnly _ hnot)
    · exact hset
  · exact hset.trans (act_ruOnly _ hnot)

theorem urgencySees_ruOnly (o n : Bool) {w : Work} (h : w.st.ru.state ≠ .session) :
    w.st.RuOnly (urgencySees o n w).st := by
  have hset : w.st.RuOnly (setTarget w).st := ⟨_, w.st.ev, .refl _, rfl⟩
  have hnot : (setTarget w).st.ru.state ≠ .session := h
  unfold urgencySees
  split
  · exact hset.trans (enterIdle_ruOnly _ hnot)
  · exact recomputeTarget_ruOnly h

theorem wantsSession_ruOnly {s t : State} (h : s.RuOnly t) : t.wantsSession = s.wantsSession ∧ t.steer = s.steer := by
  obtain ⟨r, e, -, rfl⟩ := h
  exact ⟨rfl, rfl⟩

theorem recomputeDemand_wants {w : Work} (h : w.st.ru.state ≠ .session) :
    (recomputeDemand w).st.wantsSession = w.st.wantsSession
      ∧ (recomputeDemand w).st.steer.demand = w.st.wantsSession := by
  obtain ⟨r, hseen⟩ := demandSeen_only w
  have hnot : (demandSeen w).st.ru.state ≠ .session := by
    obtain ⟨a, b, hunit⟩ := demandSeen_unit w
    rw [hunit]
    exact h
  have honly := urgencySees_ruOnly w.st.steer.urgent w.st.wantsUrgently hnot
  rw [← recomputeDemand_eq] at honly
  obtain ⟨hwants, hsteer⟩ := wantsSession_ruOnly honly
  rw [hwants, hsteer, hseen]
  exact ⟨rfl, rfl⟩

theorem recomputeDemand_settles {w : Work} (h : w.st.ru.state ≠ .session) : (recomputeDemand w).st.DemandSettled := by
  obtain ⟨hwants, hdemand⟩ := recomputeDemand_wants h
  refine ⟨hdemand.trans hwants.symm, recomputeDemand_onTarget w, fun hw => ?_⟩
  rw [hwants] at hw
  rw [(recomputeDemand_linger w).1, demandSeen_ru, if_pos hw]

theorem demandSeen_settled {w : Work} (h : w.st.DemandSettled) : (demandSeen w).st.ru = w.st.ru := by
  rw [demandSeen_ru]
  split
  · next hw => rw [← h.linger hw]
  · next hw =>
    rw [if_neg]
    rw [h.demand, Bool.eq_false_iff.mpr hw]
    simp

theorem recomputeTarget_settled {w : Work} (h : w.st.onTarget) (hb : w.st.ru.state ≠ .backoff) :
    (recomputeTarget w).st.ru = w.st.ru.acts w.now := by
  rw [recomputeTarget_ru, if_neg hb, setTarget_unit, ← h]

/-- Outside BACKOFF, demand recomputed again lets the unit act on the target that it has. -/
theorem recomputeDemand_settled {w : Work} (h : w.st.DemandSettled) (hb : w.st.ru.state ≠ .backoff) :
    (recomputeDemand w).st.ru = w.st.ru.acts w.now := by
  have hseen := demandSeen_settled h
  have hback : (demandSeen w).st.ru.state ≠ .backoff := by rw [hseen]; exact hb
  have htarget : (demandSeen w).st.onTarget := by
    obtain ⟨r, honly⟩ := demandSeen_only w
    unfold State.onTarget
    rw [hseen, h.target]
    unfold State.targetNow State.cappedStandby
    rw [hseen, honly, h.demand]
  rw [recomputeDemand_eq, urgencySees, if_neg, recomputeTarget_settled htarget hback, hseen, demandSeen_now]
  rw [decide_eq_false hback]
  simp

/-! ## Out of FAULT (R67) -/

/-- Where a radio unit goes that leaves FAULT, with a request `o` in the link or none. -/
structure RadioUnit.OutOfFault (ready : Bool) (o : Option Outstanding) (r : RadioUnit) : Prop where
  active : ready = true → r.state =
    if r.target = .off then RadioState.stopping else if o = none then .attaching else .idle
  inactive : ready = false → r.state = if r.target = .off then RadioState.off else .powering
  held : r.state = .idle → r.outstanding ≠ none

theorem outOfFault_acts {ready : Bool} {o : Option Outstanding} {r : RadioUnit} (h : r.OutOfFault ready o) (now : Time) :
    r.acts now = r := by
  have hstates : r.state = .stopping ∨ r.state = .attaching ∨ r.state = .powering
      ∨ (r.state = .idle ∧ r.target ≠ .off) ∨ (r.state = .off ∧ r.target = .off) := by
    cases ready with
    | true =>
      have hstate := h.active rfl
      split at hstate
      · exact Or.inl hstate
      · next ht =>
        split at hstate
        · exact Or.inr (Or.inl hstate)
        · exact Or.inr (Or.inr (Or.inr (Or.inl ⟨hstate, ht⟩)))
    | false =>
      have hstate := h.inactive rfl
      split at hstate
      · next ht => exact Or.inr (Or.inr (Or.inr (Or.inr ⟨hstate, ht⟩)))
      · exact Or.inr (Or.inr (Or.inl hstate))
  rcases hstates with hs | hs | hs | ⟨hs, ht⟩ | ⟨hs, ht⟩
  · exact still_acts (by rw [hs]; rfl) now
  · exact still_acts (by rw [hs]; rfl) now
  · exact still_acts (by rw [hs]; rfl) now
  · unfold RadioUnit.acts RadioUnit.actsIdle
    rw [hs, if_neg ht, if_neg fun hf => h.held hs (linkFree_iff.mp hf)]
  · unfold RadioUnit.acts RadioUnit.actsOff
    rw [hs, if_pos ht]

theorem drive_aim (now : Time) (r : RadioUnit) : (r.drive now).state = r.state ∧ (r.drive now).target = r.target := by
  unfold RadioUnit.drive
  split <;> exact ⟨rfl, rfl⟩

/-- A unit that has entered a state, driven its power line and started the state's timer. -/
theorem driven_fields (n : RadioState) (ms : Nat) (now : Time) (r : RadioUnit) :
    (((r.enter n now).drive now).timed now ms).state = n ∧ (((r.enter n now).drive now).timed now ms).target = r.target :=
  drive_aim now (r.enter n now)

/-- The state entered from FAULT acts on the target. -/
theorem leaves_acts {r : RadioUnit} (hstate : r.state = if r.ready then .idle else .off) (now : Time) :
    (r.acts now).OutOfFault r.ready r.outstanding := by
  cases hready : r.ready with
  | true =>
    rw [hready, if_pos rfl] at hstate
    have hacts : r.acts now = r.actsIdle now := by
      unfold RadioUnit.acts
      rw [hstate]
    rw [hacts]
    unfold RadioUnit.actsIdle
    split
    · next ht =>
      unfold RadioUnit.toStopping
      rw [if_pos hready]
      obtain ⟨hs, htarget⟩ := driven_fields .stopping Config.readyWaitMs now r
      refine ⟨fun _ => ?_, nofun, fun hi => ?_⟩
      · rw [htarget, if_pos ht, hs]
      · rw [hs] at hi
        cases hi
    · next ht =>
      split
      · next hf => exact ⟨fun _ => ((if_neg ht).trans (if_pos (linkFree_iff.mp hf))).symm, nofun, nofun⟩
      · next hf =>
        have hheld : r.outstanding ≠ none := fun hn => hf (linkFree_iff.mpr hn)
        refine ⟨fun _ => ?_, nofun, fun _ => hheld⟩
        rw [if_neg ht, if_neg hheld, hstate]
  | false =>
    rw [hready, if_neg (by decide)] at hstate
    have hacts : r.acts now = r.actsOff now := by
      unfold RadioUnit.acts
      rw [hstate]
    rw [hacts]
    unfold RadioUnit.actsOff
    split
    · next ht =>
      refine ⟨nofun, fun _ => ?_, fun hi => ?_⟩
      · rw [if_pos ht, hstate]
      · rw [hstate] at hi
        cases hi
    · next ht =>
      rw [if_neg (by rw [hready]; decide)]
      obtain ⟨hs, htarget⟩ := driven_fields .powering Config.readyWaitMs now r
      refine ⟨nofun, fun _ => ?_, fun hi => ?_⟩
      · rw [htarget, if_neg ht, hs]
      · rw [hs] at hi
        cases hi

theorem recomputeDemand_acts {w : Work} (hb : w.st.ru.state ≠ .backoff) :
    ∃ a b t, (recomputeDemand w).st.ru = (w.st.ru.aimed a b t).acts w.now := by
  obtain ⟨a, b, t, ⟨hback, -⟩ | ⟨-, heq⟩⟩ := recomputeDemand_moves w
  · exact absurd hback hb
  · exact ⟨a, b, t, heq⟩

/-- A unit out of FAULT that the rest of the event leaves where it is. -/
structure Work.FaultLeft (ready : Bool) (o : Option Outstanding) (w : Work) : Prop where
  unit : w.st.ru.OutOfFault ready o
  settled : w.st.DemandSettled
  pass : w.passDue = false

theorem outOfFault_state {ready : Bool} {o : Option Outstanding} {r : RadioUnit} (h : r.OutOfFault ready o) :
    r.state ≠ .session ∧ r.state ≠ .backoff := by
  have hstate : r.state = .stopping ∨ r.state = .attaching ∨ r.state = .idle ∨ r.state = .off ∨ r.state = .powering := by
    cases ready with
    | true =>
      have hs := h.active rfl
      split at hs
      · exact Or.inl hs
      · split at hs
        · exact Or.inr (Or.inl hs)
        · exact Or.inr (Or.inr (Or.inl hs))
    | false =>
      have hs := h.inactive rfl
      split at hs
      · exact Or.inr (Or.inr (Or.inr (Or.inl hs)))
      · exact Or.inr (Or.inr (Or.inr (Or.inr hs)))
  rcases hstate with hs | hs | hs | hs | hs <;> rw [hs] <;> exact ⟨nofun, nofun⟩

section
variable {ready : Bool} {o : Option Outstanding} {w : Work}

theorem faultLeft_demand (h : w.FaultLeft ready o) :
    (recomputeDemand { w with demandDue := false }).FaultLeft ready o
      ∧ (recomputeDemand { w with demandDue := false }).demandDue = false
      ∧ (recomputeDemand { w with demandDue := false }).st.ru = w.st.ru := by
  obtain ⟨hsession, hback⟩ := outOfFault_state h.unit
  have hru : (recomputeDemand { w with demandDue := false }).st.ru = w.st.ru :=
    (recomputeDemand_settled (w := { w with demandDue := false }) h.settled hback).trans (outOfFault_acts h.unit _)
  obtain ⟨hpass, hdemand, -⟩ := debts_iff.mp (recomputeDemand_debts (w := { w with demandDue := false }) hsession)
  refine ⟨⟨?_, recomputeDemand_settles (w := { w with demandDue := false }) hsession, hpass.trans h.pass⟩, hdemand, hru⟩
  rw [hru]
  exact h.unit

theorem runPasses_faultLeft (n : Nat) (h : w.FaultLeft ready o) :
    (runPasses (n + 1) w).FaultLeft ready o ∧ (runPasses (n + 1) w).st.ru = w.st.ru := by
  unfold runPasses
  rw [if_neg (by rw [h.pass]; decide)]
  split
  · obtain ⟨hleft, hdue, hru⟩ := faultLeft_demand h
    have hidle : runPasses n (recomputeDemand { w with demandDue := false }) = recomputeDemand { w with demandDue := false } := by
      cases n with
      | zero => rfl
      | succ n =>
        unfold runPasses
        rw [if_neg (by rw [hleft.pass]; decide), if_neg (by rw [hdue]; decide)]
    rw [hidle]
    exact ⟨hleft, hru⟩
  · exact ⟨h, rfl⟩

/-- The pass of a unit that has left FAULT, and what follows it in the event. -/
theorem passes_outOfFault (hdue : w.passDue = true) (hstate : w.st.ru.state = if w.st.ru.ready then .idle else .off) :
    (passes w).FaultLeft w.st.ru.ready w.st.ru.outstanding := by
  have hnot : w.st.ru.state ≠ .session ∧ w.st.ru.state ≠ .backoff := by
    rw [hstate]
    split <;> exact ⟨nofun, nofun⟩
  let u : Work := { w with passDue := false, demandDue := false }
  have hunit : (passBody u).st.ru = w.st.ru := passBody_unit u
  obtain ⟨hpass, -, -⟩ := passBody_debts (w := u) (noneToModem_outside hnot.1)
  have hsession : (passBody u).st.ru.state ≠ .session := by rw [hunit]; exact hnot.1
  have hback : (passBody u).st.ru.state ≠ .backoff := by rw [hunit]; exact hnot.2
  have hfirst : (steeringPass u).FaultLeft w.st.ru.ready w.st.ru.outstanding := by
    obtain ⟨a, b, t, hru⟩ := recomputeDemand_acts hback
    rw [hunit] at hru
    rw [steeringPass_eq]
    refine ⟨?_, recomputeDemand_settles hsession, (debts_iff.mp (recomputeDemand_debts hsession)).1.trans hpass⟩
    rw [hru]
    exact (leaves_acts (r := w.st.ru.aimed a b t) hstate _)
  show (runPasses (7 + 1) w).FaultLeft _ _
  unfold runPasses
  rw [if_pos hdue]
  exact (runPasses_faultLeft 6 hfirst).1

theorem recomputeTarget_faultLeft (h : w.FaultLeft ready o) :
    (recomputeTarget w).FaultLeft ready o ∧ (recomputeTarget w).st.ru = w.st.ru := by
  obtain ⟨hsession, hback⟩ := outOfFault_state h.unit
  have hru : (recomputeTarget w).st.ru = w.st.ru :=
    (recomputeTarget_settled h.settled.target hback).trans (outOfFault_acts h.unit _)
  obtain ⟨hwants, hsteer⟩ := wantsSession_ruOnly (recomputeTarget_ruOnly hsession)
  refine ⟨⟨?_, ⟨?_, recomputeTarget_onTarget w, fun hw => ?_⟩, ?_⟩, hru⟩
  · rw [hru]
    exact h.unit
  · rw [hwants, hsteer]
    exact h.settled.demand
  · rw [hwants] at hw
    rw [hru]
    exact h.settled.linger hw
  · exact (debts_iff.mp (recomputeTarget_debts hsession)).1.trans h.pass

theorem passes_faultLeft (h : w.FaultLeft ready o) : (passes w).st.ru = w.st.ru := (runPasses_faultLeft 7 h).2

end

end Sys2Proof.Machine
end


section
/-! SET RADIO (R64, R67, R71, R73, R75). -/

namespace Sys2Proof.Machine

/-! ## The poll timer of a unit that acts (R71) -/

theorem actsIdle_polls {r : RadioUnit} (h : r.state.polls = false) (now : Time) : (r.actsIdle now).state.polls = false := by
  unfold RadioUnit.actsIdle
  split
  · unfold RadioUnit.toStopping
    split
    · rw [(driven_fields .stopping Config.readyWaitMs now r).1]
      rfl
    · rfl
  · split
    · rfl
    · exact h

theorem toIdle_polls (r : RadioUnit) (now : Time) : (r.toIdle now).state.polls = false :=
  actsIdle_polls (r := r.enter .idle now) rfl now

theorem actsOff_polls {r : RadioUnit} (h : r.state.polls = false) (now : Time) : (r.actsOff now).state.polls = false := by
  unfold RadioUnit.actsOff
  split
  · exact h
  · split
    · exact toIdle_polls r now
    · rw [(driven_fields .powering Config.readyWaitMs now r).1]
      rfl

/-- The poll timer of a unit, where its state has one. -/
def RadioUnit.pollsAt (d : Option Time) (r : RadioUnit) : Prop := r.state.polls = true → r.pollDue = d

theorem pollsAt_of_not {d : Option Time} {r : RadioUnit} (h : r.state.polls = false) : r.pollsAt d := fun hp => by
  rw [h] at hp
  cases hp

theorem acts_pollsAt {d : Option Time} {r : RadioUnit} (h : r.pollsAt d) (now : Time) : (r.acts now).pollsAt d := by
  by_cases hstill : r.state.still = true
  · rw [still_acts hstill]
    exact h
  · have hmatch : ∀ n, r.state = n → (r.acts now).pollsAt d := by
      intro n hn
      unfold RadioUnit.acts
      rw [hn]
      cases n with
      | off => exact pollsAt_of_not (actsOff_polls (by rw [hn]; rfl) now)
      | idle => exact pollsAt_of_not (actsIdle_polls (by rw [hn]; rfl) now)
      | attached =>
        have hd : r.pollDue = d := h (by rw [hn]; rfl)
        show (r.actsAttached now).pollsAt d
        unfold RadioUnit.actsAttached
        split
        · exact h
        · split
          · intro _
            show (if r.state.polls then r.pollDue else _) = d
            rw [hn]
            exact hd
          · exact h
        · split
          · exact pollsAt_of_not rfl
          · exact h
      | session =>
        show (r.actsSession now).pollsAt d
        unfold RadioUnit.actsSession
        split
        · exact pollsAt_of_not rfl
        · exact h
      | powering | attaching | opening | closing | detaching | stopping | backoff | resetting | fault | resync => exact h
    exact hmatch _ rfl

theorem recomputeDemand_pollsAt {d : Option Time} {w : Work} (h : w.st.ru.pollsAt d) : (recomputeDemand w).st.ru.pollsAt d :=
  recomputeDemand_unit (P := RadioUnit.pollsAt d) (fun _ _ _ _ h => h) (fun _ now h _ => acts_pollsAt h now)
    (fun r now _ _ => pollsAt_of_not (toIdle_polls r now)) h

theorem recomputeTarget_pollsAt {d : Option Time} {w : Work} (h : w.st.ru.pollsAt d) :
    (recomputeTarget w).st.ru.pollsAt d := by
  have hset : (setTarget w).st.ru.pollsAt d := h
  rw [recomputeTarget_ru]
  split
  · split
    · exact pollsAt_of_not (toIdle_polls _ _)
    · exact hset
  · exact acts_pollsAt hset _

theorem passes_pollsAt {d : Option Time} {w : Work} (h : w.st.ru.pollsAt d) : (passes w).st.ru.pollsAt d :=
  runPasses_invariant (linkless_unit (RadioUnit.pollsAt d)) (fun _ hw => recomputeDemand_pollsAt hw) _ h

/-! ## The settings written -/

theorem compareLinger_only (w : Work) : ∃ on, (compareLinger w).st = { w.st with ru := { w.st.ru with lingerOn := on } }
    ∧ (compareLinger w).debts = w.debts := by
  unfold compareLinger
  split
  · exact ⟨false, rfl, touchIf_debts _ _ _⟩
  · exact ⟨w.st.ru.lingerOn, rfl, rfl⟩

/-- The state that a unit enters from FAULT. -/
def faultExit (w : Work) : Work := moveTo (if w.st.ru.ready then .idle else .off) (exitFault w)

theorem leaveFault_exits {w : Work} (h : w.st.ru.state = .fault) : leaveFault w = faultExit w := if_pos h

theorem leaveFault_rests {w : Work} (h : w.st.ru.state ≠ .fault) : leaveFault w = w := if_neg h

theorem exitFault_st (w : Work) : (exitFault w).st.ru = { w.st.ru with attachTimeouts := 0, resets := 0, b := 10 }
    ∧ (exitFault w).st.radio = w.st.radio ∧ (exitFault w).passDue = true
    ∧ (exitFault w).st.kept = ({ w.st with ru := { w.st.ru with attachTimeouts := 0, resets := 0, b := 10 } } : State).kept
    ∧ latched (bitMask 9) (exitFault w).st :=
  ⟨rfl, rfl, rfl, rfl, latch_latched Bit.radioFault _⟩

/-- The exit from FAULT (R67). -/
theorem faultExit_fields {w : Work} (h : w.st.ru.state = .fault) :
    (faultExit w).st.ru.state = (if w.st.ru.ready then .idle else .off)
    ∧ (faultExit w).st.ru.ready = w.st.ru.ready
    ∧ (faultExit w).st.ru.outstanding = staleOf w.st.ru.outstanding
    ∧ (faultExit w).st.radio = w.st.radio
    ∧ (faultExit w).passDue = true
    ∧ (faultExit w).st.kept = ({ w.st with ru := { w.st.ru with attachTimeouts := 0, resets := 0, b := 10 } } : State).kept
    ∧ latched (bitMask 9) (faultExit w).st := by
  obtain ⟨hru, hradio, hpass, hkept, hlatched⟩ := exitFault_st w
  have hnot : (exitFault w).st.ru.state ≠ .session := by
    rw [hru, show ({ w.st.ru with attachTimeouts := 0, resets := 0, b := 10 } : RadioUnit).state = .fault from h]
    decide
  generalize hn : (if w.st.ru.ready then RadioState.idle else .off) = n
  have hne : n ≠ .fault ∧ n ≠ .session := by
    rw [← hn]
    split <;> exact ⟨nofun, nofun⟩
  have hunit : (faultExit w).st.ru = (exitFault w).st.ru.enter n (exitFault w).now := by
    unfold faultExit
    rw [hn, moveTo_ru]
  have hmoved : faultExit w = moveTo n (exitFault w) := by
    unfold faultExit
    rw [hn]
  obtain ⟨r, e, -, honly⟩ := moveTo_ruOnly n (exitFault w) (Or.inl hnot)
  rw [hunit, hru, hmoved]
  refine ⟨rfl, rfl, rfl, ?_, (debts_iff.mp (moveTo_debts hnot n)).1.trans hpass, ?_, ?_⟩
  · rw [honly]
    exact hradio
  · exact ((closed_kept _).moveTo n (Or.inl hne) (exitFault w) rfl).trans hkept
  · exact (closedLatched _).moveTo n (Or.inl hne) (exitFault w) hlatched

end Sys2Proof.Machine
end


section
/-! SET RADIO as an event (R64, R67, R71, R73, R75). -/

namespace Sys2Proof.Machine

/-- SET RADIO's own changes before its passes. -/
def radioSetWork (f : RadioUnit → RadioUnit) (s : State) : Work := compareLinger (leaveFault ((Work.begin s).onRu f))

theorem orderSetRadio_eq {standby : Standby} {ps : List Byte} {s : State} (h : param ps 0 1 = standby.code) :
    orderSetRadio ps (Work.begin s) =
      { work := recomputeTarget (passes (radioSetWork (RadioUnit.configure standby (min (param ps 1 2) 3600)
          (clamp 10 300 (param ps 3 2)) (clamp 1 60 (param ps 5 2)) s.now) s)),
        result := okOrClamped (decide (min (param ps 1 2) 3600 ≠ param ps 1 2)
          || decide (clamp 10 300 (param ps 3 2) ≠ param ps 3 2) || decide (clamp 1 60 (param ps 5 2) ≠ param ps 5 2)),
        answer := radioAnswer } := by
  unfold orderSetRadio
  rw [h, standbyOf_code] <;> rfl

section
variable {f : RadioUnit → RadioUnit} {s : State}

theorem radioSetWork_rests (h : (f s.ru).state ≠ .fault) : ∃ on,
    (radioSetWork f s).st = { s with ru := { f s.ru with lingerOn := on } }
      ∧ (radioSetWork f s).debts = (Work.begin s).debts := by
  obtain ⟨on, hst, hdebts⟩ := compareLinger_only ((Work.begin s).onRu f)
  unfold radioSetWork
  rw [leaveFault_rests (w := (Work.begin s).onRu f) h]
  exact ⟨on, hst, hdebts⟩

/-- SET RADIO taken in FAULT, before its passes. -/
theorem radioSetWork_exits (h : (f s.ru).state = .fault) :
    (radioSetWork f s).st.ru.state = (if (f s.ru).ready then .idle else .off)
    ∧ (radioSetWork f s).st.ru.ready = (f s.ru).ready
    ∧ (radioSetWork f s).st.ru.outstanding = staleOf (f s.ru).outstanding
    ∧ (radioSetWork f s).st.radio = s.radio
    ∧ (radioSetWork f s).passDue = true
    ∧ (radioSetWork f s).st.kept = ({ s with ru := { f s.ru with attachTimeouts := 0, resets := 0, b := 10 } } : State).kept
    ∧ latched (bitMask 9) (radioSetWork f s).st := by
  obtain ⟨hstate, hready, hout, hradio, hpass, hkept, hlatched⟩ := faultExit_fields (w := (Work.begin s).onRu f) h
  obtain ⟨on, hst, hdebts⟩ := compareLinger_only (faultExit ((Work.begin s).onRu f))
  have hwork : radioSetWork f s = compareLinger (faultExit ((Work.begin s).onRu f)) :=
    congrArg compareLinger (leaveFault_exits h)
  rw [hwork, hst]
  clear hwork hst
  generalize faultExit ((Work.begin s).onRu f) = v at *
  exact ⟨hstate, hready, hout, hradio, (debts_iff.mp hdebts).1.trans hpass, hkept,
    latched_of_latch (s := v.st) rfl hlatched⟩

theorem radioSet_kept : (recomputeTarget (passes (radioSetWork f s))).st.kept = (radioSetWork f s).st.kept :=
  (closed_kept _).recomputeTarget trivial _ (passes_kept _)

end

/-! ## Outside FAULT -/

section
variable {s t : State} {q : RadioUnit} {w : Work} (hst : w.st = { s with ru := q })
  (hdebts : w.debts = (Work.begin s).debts)
include hst hdebts

/-- A target recomputed that leaves the passes nothing to do. -/
theorem recomputeTarget_passes (hs : q.state ≠ .session) : passes (recomputeTarget w) = recomputeTarget w := by
  have hnot : w.st.ru.state ≠ .session := by
    rw [hst]
    exact hs
  obtain ⟨hpass, hdemand, -⟩ := debts_iff.mp ((recomputeTarget_debts hnot).trans hdebts)
  exact passes_idle _ hpass hdemand

/-- A session that SET RADIO ends is left with all the effects of leaving it (R61, R73). -/
theorem radioSet_leaves (hstate : q.state = s.ru.state) (hru : t.ru = (passes (recomputeTarget w)).st.ru)
    (hended : (recomputeTarget w).st.Ended t) (hc : s.closes t) : s.leavesSession t := by
  have hs : w.st.ru.state = .session := by
    rw [hst]
    exact hstate.trans hc.1
  by_cases hkeep : w.st.ru.outstanding ≠ none ∨ w.st.targetNow = .session
  · have hstays := recomputeTarget_stays hs hkeep
    obtain ⟨hpass, hdemand, -⟩ := debts_iff.mp ((setTarget_debts w).trans hdebts)
    refine absurd ?_ hc.2
    rw [hru, hstays, passes_idle _ hpass hdemand]
    exact hs
  · obtain ⟨hfree, ht⟩ := not_or.mp hkeep
    have hleft := recomputeTarget_left hs (Classical.not_not.mp hfree) ht
    rw [hst] at hleft
    exact (hended.left (State.Left.ofRu hleft)).leaves

/-- A BACKOFF that the target ends (R64). -/
theorem radioSet_backoff (hstate : q.state = .backoff) (hru : t.ru = (passes (recomputeTarget w)).st.ru) :
    t.ru = if q.target ≠ .off ∧ t.ru.target = .off then { q with target := .off }.toIdle s.now
      else { q with target := t.ru.target } := by
  rw [recomputeTarget_passes hst hdebts (by rw [hstate]; decide)] at hru
  have htarget : t.ru.target = w.st.targetNow := by
    have haim := recomputeTarget_aim w
    simp only [State.aim, Prod.mk.injEq] at haim
    rw [hru, haim.1] <;> rfl
  rw [htarget, hru, recomputeTarget_ru, setTarget_unit]
  have hq : w.st.ru = q := congrArg State.ru hst
  have hnow : w.now = s.now := (congrArg State.now hst :)
  rw [hq, hnow, if_pos hstate]
  split
  · next h => rw [h.2]
  · rfl

end

theorem configured_after {s : State} {standby : Standby} {linger attach poll : Nat} {f : RadioUnit → RadioUnit}
    (hf : f = RadioUnit.configure standby linger attach poll s.now) :
    (radioSetWork f s).st.kept = ({ s with ru :=
        let r := { s.ru with standby := standby, linger := linger, attachTimeout := attach, poll := poll }
        if s.ru.state = .fault then { r with attachTimeouts := 0, resets := 0, b := 10 } else r } : State).kept
      ∧ (radioSetWork f s).st.ru.state ≠ .fault := by
  by_cases h : s.ru.state = .fault
  · have hfault : (f s.ru).state = .fault := by rw [hf]; exact h
    obtain ⟨hstate, -, -, -, -, hkept, -⟩ := radioSetWork_exits hfault
    rw [if_pos h]
    refine ⟨hkept.trans (by rw [hf] <;> rfl), ?_⟩
    rw [hstate]
    split <;> decide
  · have hfault : (f s.ru).state ≠ .fault := by rw [hf]; exact h
    obtain ⟨on, hst, -⟩ := radioSetWork_rests hfault
    rw [if_neg h, hst, hf]
    exact ⟨rfl, h⟩

/-- The unit that SET RADIO takes out of FAULT (R67). -/
theorem radioSet_outOfFault {s t : State} {f : RadioUnit → RadioUnit} (h : (f s.ru).state = .fault)
    (hru : t.ru = (passes (recomputeTarget (passes (radioSetWork f s)))).st.ru)
    (hended : (recomputeTarget (passes (radioSetWork f s))).st.Ended t) :
    latched (bitMask 9) t ∧ t.radio = s.radio ∧ t.ru.OutOfFault (f s.ru).ready (staleOf (f s.ru).outstanding) := by
  obtain ⟨hstate, hready, hout, hradio, hpass, -, hlatched⟩ := radioSetWork_exits h
  generalize radioSetWork f s = w at *
  have hleft := passes_outOfFault hpass (by rw [hstate, hready])
  obtain ⟨hagain, -⟩ := recomputeTarget_faultLeft hleft
  have hunit := hagain.unit
  rw [← passes_faultLeft hagain, ← hru, hready, hout] at hunit
  have hlink : w.st.LinkGoes t :=
    (passes_linkGoes w).trans ((demanding_linkGoes.recomputeTarget (passes w)).trans hended.ends.link)
  have hnot : ¬w.st.closes t := fun hc => by
    have hs := hc.1
    rw [hstate] at hs
    split at hs <;> cases hs
  exact ⟨hended.ends.latches _ ((closedLatched _).recomputeTarget trivial (passes w) (passes_latched hlatched)),
    (hlink.stays hnot).1.trans hradio, hunit⟩

/-- SET RADIO outside FAULT: a session that it ends, the poll timer, and a BACKOFF (R64, R71, R73). -/
theorem radioSet_runs {s t : State} {f : RadioUnit → RadioUnit} (h : (f s.ru).state ≠ .fault)
    (hstate : (f s.ru).state = s.ru.state) (hru : t.ru = (passes (recomputeTarget (passes (radioSetWork f s)))).st.ru)
    (hended : (recomputeTarget (passes (radioSetWork f s))).st.Ended t) :
    (s.closes t → s.leavesSession t)
    ∧ t.ru.pollsAt (f s.ru).pollDue
    ∧ (s.ru.state = .backoff → t.radio = s.radio ∧ ∃ on, t.ru =
        if (f s.ru).target ≠ .off ∧ t.ru.target = .off then
          ({ f s.ru with lingerOn := on, target := .off } : RadioUnit).toIdle s.now
        else { f s.ru with lingerOn := on, target := t.ru.target }) := by
  obtain ⟨on, hst, hdebts⟩ := radioSetWork_rests h
  generalize radioSetWork f s = w at *
  obtain ⟨hpass, hdemand, -⟩ := debts_iff.mp hdebts
  rw [passes_idle w hpass hdemand] at hru hended
  refine ⟨radioSet_leaves hst hdebts hstate hru hended, ?_, fun hb => ⟨?_, on,
    radioSet_backoff hst hdebts (hstate.trans hb) hru⟩⟩
  · have hunit : w.st.ru = { f s.ru with lingerOn := on } := congrArg State.ru hst
    rw [hru]
    refine passes_pollsAt (recomputeTarget_pollsAt ?_)
    rw [hunit]
    exact fun _ => rfl
  · have hlink : w.st.LinkGoes t := (demanding_linkGoes.recomputeTarget w).trans hended.ends.link
    rw [hst] at hlink
    refine (hlink.stays fun hc => ?_).1
    have hs : (f s.ru).state = .session := hc.1
    rw [hstate, hb] at hs
    cases hs

/-- Settles O23. -/
theorem radioSet : Obligations.RadioSet := by
  unfold Obligations.RadioSet
  intro standby i rest s hoffers ps linger attach poll result r after hcode
  let f := RadioUnit.configure standby linger attach poll s.now
  have hresult : okOrClamped (decide (linger ≠ param ps 1 2) || decide (attach ≠ param ps 3 2) || decide (poll ≠ param ps 5 2))
      = result := okOrClamped_eq (by
    simp only [Bool.or_eq_true, decide_eq_true_iff, ne_eq]
    tauto)
  have hbody := orderSetRadio_eq (s := s) hcode
  rw [hresult] at hbody
  have hwork : (orderSetRadio ps (Work.begin s)).work = recomputeTarget (passes (radioSetWork f s)) := by rw [hbody]
  obtain ⟨hset, hnofault⟩ := configured_after (s := s) (f := f) rfl
  have hkept := radioSet_kept (f := f) (s := s)
  have hmem : (recomputeTarget (passes (radioSetWork f s))).st.mem = s.mem := (congrArg State.mem (hkept.trans hset) :)
  have hru := takeKind_ru (kind := Kind.setRadio) hoffers hwork
  have htaken := takeKind_kept Kind.setRadio orderSetRadio s i rest hoffers (by rw [hwork]; exact hmem)
  have hended := takeKind_ended (kind := Kind.setRadio) hoffers hwork hmem
  have htarget := takeKind_onTarget (kind := Kind.setRadio) hoffers hwork (recomputeTarget_onTarget _)
  have hruns : (takeKind Kind.setRadio orderSetRadio s).ru.state ≠ .fault := by
    rw [hru]
    exact closed_noFault.passes trivial trivial _
      (closed_noFault.recomputeTarget trivial _ (closed_noFault.passes trivial trivial _ hnofault))
  have hexec : exec .setRadio s = .next (takeKind Kind.setRadio orderSetRadio s) := rfl
  rw [hbody] at htaken
  have hanswered := htaken.trans (answered_kept (hkept.trans hset) i rest result _)
  generalize takeKind Kind.setRadio orderSetRadio s = t at *
  have hlasting : t.ru.lasting = after.lasting := (congrArg State.ru hanswered :)
  have hwould : s.ru.state ≠ .fault → _ := fun hf => radioSet_runs (f := f) hf rfl hru hended
  refine ⟨t, hexec, ?kept, hruns, htarget, fun hs ht => ?polls, fun hf => ?exits,
    fun hc => (hwould (by rw [hc.1]; decide)).1 hc, fun hb ht hoff => ?ends, fun hb hstays => ?lasts⟩
  case kept =>
    have hsettings : after.settings = r.settings := by
      show (if s.ru.state = .fault then _ else r : RadioUnit).settings = _
      split <;> rfl
    have hanswer : radioAnswer (passes (recomputeTarget (passes (radioSetWork f s)))).st = pack [(1, standby.code),
        (2, linger), (2, attach), (2, poll), (1, t.ru.state.code), (1, t.ru.target.code)] := by
      have hs : t.ru.settings = r.settings := (congrArg RadioUnit.settings hlasting :).trans hsettings
      have h1 : t.ru.standby = standby := (congrArg RadioUnit.standby hs :)
      have h2 : t.ru.linger = linger := (congrArg RadioUnit.linger hs :)
      have h3 : t.ru.attachTimeout = attach := (congrArg RadioUnit.attachTimeout hs :)
      have h4 : t.ru.poll = poll := (congrArg RadioUnit.poll hs :)
      unfold radioAnswer
      rw [← hru, h1, h2, h3, h4]
    rw [← hanswer]
    exact hanswered
  case polls =>
    have hpolls : t.ru.state.polls = true := by rcases ht with h | h | h <;> rw [h] <;> rfl
    exact (hwould (by rcases hs with h | h | h <;> rw [h] <;> decide)).2.1 hpolls
  case exits =>
    obtain ⟨hlatched, hradio, hunit⟩ := radioSet_outOfFault (f := f) hf hru hended
    refine ⟨getLsbD_of_latched hlatched (by decide), hradio, fun hready => ?_, hunit.inactive⟩
    rw [hunit.active hready]
    exact if_congr Iff.rfl rfl (if_congr staleOf_none rfl rfl)
  case ends =>
    obtain ⟨hradio, on, heq⟩ := (hwould (by rw [hb]; decide)).2.2 hb
    rw [if_pos ⟨ht, hoff⟩] at heq
    have hidle := RadioUnit.SameLink.entersIdle (s := { s with ru := { s.ru with target := .off, attachTimeout := attach } })
      (t := t) (q := { f s.ru with lingerOn := on, target := .off }) ⟨rfl, rfl, rfl, rfl, rfl⟩ hradio heq
    exact ⟨hidle.1, hidle.2.1, fun hn => absurd rfl hn, fun hn => absurd rfl hn⟩
  case lasts =>
    obtain ⟨hradio, on, heq⟩ := (hwould (by rw [hb]; decide)).2.2 hb
    have hnot : ¬((f s.ru).target ≠ .off ∧ t.ru.target = .off) := fun h => hstays.elim h.1 fun hn => hn h.2
    rw [if_neg hnot] at heq
    rw [heq]
    exact ⟨hb, rfl⟩

end Sys2Proof.Machine
end


section
/-! Passes that an event owes only once the session is left: flow records, held frames and the count of frames discarded
(R87 to R90, R106, R129, R130). -/

namespace Sys2Proof.Machine

/-! ## What a pass leaves where no frame reaches the modem -/

/-- The flow records and the count of held frames discarded. -/
def State.ledger (s : State) : List FlowRec × Nat := (s.flows, s.fwd.counts.holdDiscard)

theorem State.OnlyEv.ledger {s t : State} (h : s.OnlyEv t) : t.ledger = s.ledger := by
  obtain ⟨e, -, rfl⟩ := h
  rfl

theorem takeNext_ledger (p : Path) {w : Work} (h : w.st.portReady .radio = false) :
    (takeNext p w).st.ledger = w.st.ledger := by
  unfold takeNext
  cases p with
  | radio => rw [h] <;> rfl
  | fibre =>
    split
    · split <;> rfl
    · rfl

theorem enterBand_ledger (p : Path) (tier : Nat) (f : TxFrame) {w : Work} (h : w.st.portReady .radio = false) :
    (enterBand p tier f w).st.ledger = w.st.ledger := by
  unfold enterBand
  split
  · cases p <;> rfl
  · have hjoined : (w.onQueue p (TxQueue.append tier f)).st.portReady .radio = false := by
      refine (portReady_congr (s := w.st) (t := (w.onQueue p (TxQueue.append tier f)).st) rfl rfl ?_).trans h
      cases p with
      | fibre => rfl
      | radio => exact append_sending _ _ _
    refine (takeNext_ledger p hjoined).trans ?_
    cases p <;> rfl

theorem releaseHeld_ledger (x : HeldFrame) {w : Work} (h : w.st.portReady .radio = false) :
    (releaseHeld x w).st.ledger = w.st.ledger := by
  have honto : ∀ p, w.st.bindingPath x = boundTo p → (releaseHeld x w).st.ledger = w.st.ledger := by
    intro p hp
    rw [releaseHeld_path hp]
    unfold releaseOnto
    split
    · exact (latch_onlyEv Bit.holdDrops _).ledger.trans (enterBand_ledger p _ _ h)
    · exact enterBand_ledger p _ _ h
  cases hb : w.st.bindingPath x with
  | fibre => exact honto .fibre hb
  | radio => exact honto .radio hb
  | waiting => rw [releaseHeld_waiting hb]
  | blocked =>
    rw [releaseHeld_blocked hb]
    exact (latch_onlyEv Bit.holdDrops _).ledger

theorem releaseAll_ledger (l : List HeldFrame) {w : Work} (h : w.st.portReady .radio = false) :
    (releaseAll l w).st.ledger = w.st.ledger := by
  induction l generalizing w with
  | nil => rfl
  | cons x l ih => exact (ih (releaseHeld_unready x h)).trans (releaseHeld_ledger x h)

/-- A pass before demand is recomputed, outside SESSION: the flows follow their classes, and that is all. -/
theorem passBody_ledger {w : Work} (h : w.st.ru.state ≠ .session) :
    (passBody w).st.flows = w.st.followed ∧ (passBody w).st.fwd.counts.holdDiscard = w.st.fwd.counts.holdDiscard
      ∧ (passBody w).st.fwd.held = w.st.fwd.held.filter fun x => !leftWaiting w.st w.st.rebound x := by
  obtain ⟨e, held, hleaving⟩ := leavingWork_fields w
  have hport : (leavingWork w).st.portReady .radio = false := by
    rw [hleaving]
    exact Bool.and_eq_false_iff.mpr (Or.inl (decide_eq_false h))
  have hledger : (releasedWork w).st.ledger = (leavingWork w).st.ledger := by
    rw [releasedWork_leaving]
    exact releaseAll_ledger _ hport
  rw [hleaving] at hledger
  obtain ⟨hflows, hdiscard⟩ := Prod.mk.inj hledger
  obtain ⟨-, hpassFlows, hpassFwd, -, -⟩ := passBody_fields w
  refine ⟨hpassFlows.trans hflows, by rw [hpassFwd]; exact hdiscard, ?_⟩
  have hheld := (pass_releases w).held
  rw [(pass_keeps w).held] at hheld
  exact hheld

/-! ## What demand leaves -/

theorem sessionLeft_discard (s : State) : s.sessionLeft.fwd.counts.holdDiscard = s.fwd.counts.holdDiscard := by
  by_cases h : s.radio.state = .down
  · rw [sessionLeft_of_down h] <;> rfl
  · rw [sessionLeft_of_ne h] <;> rfl

theorem demanding_discard : Demanding fun s t => t.fwd.counts.holdDiscard = s.fwd.counts.holdDiscard where
  refl := fun _ => rfl
  trans := fun h h' => h'.trans h
  moveTo := by
    intro n hn w
    by_cases h : w.st.ru.state = .session
    · obtain ⟨e, -, hst⟩ := moveTo_leaves n h hn
      rw [hst, ← sessionLeft_discard w.st]
    · obtain ⟨r, e, -, hst⟩ := moveTo_ruOnly n w (Or.inl h)
      rw [hst]
  only := by
    rintro s t ⟨r, e, -, rfl⟩ -
    rfl
  steer := fun _ _ => rfl

/-! ## Passes after a session is left -/

/-- A pass is owed only with the session left and the radio path DOWN. -/
def Work.Shut (w : Work) : Prop := w.passDue = true → w.st.ru.state ≠ .session ∧ w.st.radio.state = .down

theorem sendRequest_state (k : Request) (w : Work) : (sendRequest k w).st.ru.state = w.st.ru.state := rfl

theorem actSession_stays {w : Work} (h : (actSession w).st.ru.state = .session) : actSession w = w := by
  unfold actSession at h ⊢
  split at h
  · rw [sendRequest_state, moveTo_state] at h
    cases h
  · next hnot => exact if_neg hnot

theorem recomputeDemand_inSession {w : Work} (h : w.st.ru.state = .session)
    (ht : (recomputeDemand w).st.ru.state = .session) : (recomputeDemand w).debts = w.debts := by
  have hseen : (demandSeen w).st.ru.state = .session := by
    obtain ⟨a, b, hunit⟩ := demandSeen_unit w
    rw [hunit]
    exact h
  have hset : (setTarget (demandSeen w)).st.ru.state = .session := hseen
  have hne : (demandSeen w).st.ru.state ≠ .backoff := by
    rw [hseen]
    decide
  have heq : recomputeDemand w = actSession (setTarget (demandSeen w)) := by
    rw [recomputeDemand_eq, urgencySees, if_neg, recomputeTarget_inSession hseen]
    rw [decide_eq_false hne]
    simp
  rw [heq] at ht ⊢
  rw [actSession_stays ht, setTarget_debts, demandSeen_debts]

theorem recomputeDemand_shut {w : Work} (h : w.Shut) : (recomputeDemand w).Shut := by
  intro hdue
  have hlink := recomputeDemand_linkGoes w
  by_cases hs : w.st.ru.state = .session
  · by_cases ht : (recomputeDemand w).st.ru.state = .session
    · rw [(debts_iff.mp (recomputeDemand_inSession hs ht)).1] at hdue
      exact absurd hs (h hdue).1
    · refine ⟨ht, ?_⟩
      rw [(hlink.lost ⟨hs, ht⟩).1]
      exact lostIn_state _ _ _
  · rw [(debts_iff.mp (recomputeDemand_debts hs)).1] at hdue
    exact ⟨fun ht => hs (hlink.session ht), by rw [(hlink.stays fun hc => hs hc.1).1]; exact (h hdue).2⟩

theorem steeringPass_shut {w : Work} (hs : w.st.ru.state ≠ .session) (hpass : w.passDue = false) : (steeringPass w).Shut := by
  have hbody := (passBody_debts (noneToModem_outside hs)).1
  rw [steeringPass_eq]
  refine recomputeDemand_shut fun hdue => ?_
  rw [hbody, hpass] at hdue
  cases hdue

/-- What recomputations of demand keep, and passes with the session left and the radio path DOWN, stands through the
passes of an event that owes none but those. -/
theorem runPasses_shut {P : State → Prop} (hdemand : ∀ w : Work, P w.st → P (recomputeDemand w).st)
    (hbody : ∀ w : Work, w.st.ru.state ≠ .session → w.st.radio.state = .down → P w.st → P (passBody w).st) (n : Nat)
    {w : Work} (h : w.Shut) (hp : P w.st) : P (runPasses n w).st := by
  induction n generalizing w with
  | zero => exact hp
  | succ n ih =>
    unfold runPasses
    split
    · next hdue =>
      obtain ⟨hs, hdown⟩ := h hdue
      refine ih (steeringPass_shut (w := { w with passDue := false, demandDue := false }) hs rfl) ?_
      rw [steeringPass_eq]
      exact hdemand _ (hbody { w with passDue := false, demandDue := false } hs hdown hp)
    · split
      · exact ih (recomputeDemand_shut (w := { w with demandDue := false }) h) (hdemand { w with demandDue := false } hp)
      · exact hp

theorem shut_of_idle {w : Work} (h : w.passDue = false) : w.Shut := fun hdue => by
  rw [h] at hdue
  cases hdue

/-! ## Flow records in such passes -/

theorem recomputeDemand_flows (w : Work) : (recomputeDemand w).st.flows = w.st.flows
    ∧ (recomputeDemand w).st.fwd.held = w.st.fwd.held :=
  have h := demanding_demandKeeps.recomputeDemand w
  ⟨h.flows, h.held⟩

theorem flow_followed {s t : State} {k : Nat} (hk : k < s.flows.length) (h : t.flows = s.followed) :
    t.flow k = followClass s (s.decidedCls (s.flow k).cls).cur (s.flow k) := by
  unfold State.flow
  rw [h]
  exact getD_map_lt _ hk _ _

theorem followClass_dead (s : State) (new : ClassPath) {f : FlowRec} (h : f.state.live = false) :
    followClass s new f = f := by
  unfold followClass
  dsimp only
  rw [h]
  rfl

theorem become_pinned (n : FlowState) (f : FlowRec) : (f.become n).pinned = f.pinned := by
  unfold FlowRec.become
  split
  · rfl
  · cases n <;> rfl

/-- With the radio path DOWN no pass pins a flow (R107). -/
theorem followClass_unpinned {s : State} (h : s.radio.state = .down) (new : ClassPath) {f : FlowRec}
    (hf : f.pinned = false) : (followClass s new f).pinned = false := by
  have hnot : mayPin s (s.cls f.cls) new f = false := Bool.eq_false_iff.mpr fun hpin => by
    obtain ⟨-, -, -, -, hup, -⟩ := (mayPin_iff s (s.cls f.cls) new f).mp hpin
    rw [h] at hup
    rcases hup with hu | hu <;> cases hu
  unfold followClass
  dsimp only
  rw [hf, hnot, if_neg Bool.false_ne_true, if_neg Bool.false_ne_true]
  split
  · exact hf
  · exact (become_pinned _ _).trans hf

/-! ## An event that owes no pass of its own -/

section
variable {w : Work} (hpass : w.passDue = false)
include hpass

theorem passes_shut {P : State → Prop} (hdemand : ∀ w : Work, P w.st → P (recomputeDemand w).st)
    (hbody : ∀ w : Work, w.st.ru.state ≠ .session → w.st.radio.state = .down → P w.st → P (passBody w).st)
    (hp : P w.st) : P (passes w).st := runPasses_shut hdemand hbody _ (shut_of_idle hpass) hp

/-- No frame is dropped from the hold buffer as discarded, and none joins it. -/
theorem passes_held : (passes w).st.fwd.counts.holdDiscard = w.st.fwd.counts.holdDiscard
    ∧ ∀ x ∈ (passes w).st.fwd.held, x ∈ w.st.fwd.held := by
  refine passes_shut (P := fun s => s.fwd.counts.holdDiscard = w.st.fwd.counts.holdDiscard
    ∧ ∀ x ∈ s.fwd.held, x ∈ w.st.fwd.held) hpass (fun v hv => ?_) (fun v hs _ hv => ?_) ⟨rfl, fun _ hx => hx⟩
  · rw [(recomputeDemand_flows v).2, demanding_discard.recomputeDemand v]
    exact hv
  · obtain ⟨-, hdiscard, hheld⟩ := passBody_ledger hs
    rw [hdiscard, hheld]
    exact ⟨hv.1, fun x hx => hv.2 x (List.mem_filter.mp hx).1⟩

/-- What the passes make of a flow record, where recomputations of demand and passes with the radio path DOWN keep it. -/
theorem passes_flow {Q : FlowRec → Prop} {k : Nat} (hk : k < w.st.flows.length)
    (hfollow : ∀ (s : State) new f, s.radio.state = .down → Q f → Q (followClass s new f)) (hq : Q (w.st.flow k)) :
    Q ((passes w).st.flow k) := by
  have hboth := passes_shut (P := fun s => k < s.flows.length ∧ Q (s.flow k)) hpass (fun v hv => ?demand)
    (fun v hs hd hv => ?body) ⟨hk, hq⟩
  · exact hboth.2
  case demand =>
    unfold State.flow
    rw [(recomputeDemand_flows v).1]
    exact hv
  case body =>
    obtain ⟨hflows, -, -⟩ := passBody_ledger hs
    refine ⟨?_, ?_⟩
    · rw [hflows]
      exact (List.length_map _).symm ▸ hv.1
    · rw [flow_followed hv.1 hflows]
      exact hfollow _ _ _ hd hv.2

theorem passes_flow_dead {k : Nat} (hk : k < w.st.flows.length) (hdead : (w.st.flow k).state.live = false) :
    (passes w).st.flow k = w.st.flow k := by
  refine passes_flow hpass (Q := fun f => f = w.st.flow k) hk (fun s new f _ hf => ?_) rfl
  rw [followClass_dead s new (by rw [hf]; exact hdead)]
  exact hf

theorem passes_flow_unpinned {k : Nat} (hk : k < w.st.flows.length) (hf : (w.st.flow k).pinned = false) :
    ((passes w).st.flow k).pinned = false :=
  passes_flow hpass (Q := fun f => f.pinned = false) hk (fun _ new _ hd hf => followClass_unpinned hd new hf) hf

end

theorem flow_of_content {f g : FlowRec} (h : f.content = g.content) : f = { g with count := f.count } :=
  congrArg (fun x : FlowRec => { x with count := f.count }) h

theorem finish_flow (s0 : State) (w : Work) (k : Nat) :
    (finish s0 w).flow k = { w.st.flow k with count := ((finish s0 w).flow k).count } :=
  flow_of_content (getD_of_map (finish_flows s0 w) k _)

end Sys2Proof.Machine
end


section
/-! The flow table's timers: FLOW_IDLE_EXPIRY, IDLE_GAP_RETURN and LONG_IDLE_MARK (R107, R109, R110, R116). -/

namespace Sys2Proof.Machine

/-! ## A record replaced, and the flow changes that it makes -/

theorem getD_set_self {α : Type} {l : List α} {i : Nat} (hi : i < l.length) (a d : α) : (l.set i a).getD i d = a := by
  simp [List.getD_eq_getElem?_getD, hi]

theorem onFlow_flow {i : Nat} {w : Work} (hi : i < w.st.flows.length) (g : FlowRec → FlowRec) :
    (w.onFlow i g).st.flow i = g (w.st.flow i) := getD_set_self hi _ _

theorem countFlowChanges_set {l : List FlowRec} {i : Nat} (hi : i < l.length) (g d : FlowRec) :
    countFlowChanges l (l.set i g) = (flowChanged (l.getD i d) g).toNat := by
  induction l generalizing i with
  | nil => cases hi
  | cons o l ih =>
    cases i with
    | zero =>
      show (flowChanged o g).toNat + countFlowChanges l l = (flowChanged o g).toNat
      rw [countFlowChanges_self, Nat.add_zero]
    | succ i =>
      have hself : flowChanged o o = false := by simp [flowChanged]
      show (flowChanged o o).toNat + countFlowChanges l (l.set i g) = _
      rw [hself, ih (Nat.lt_of_succ_lt_succ hi)]
      exact Nat.zero_add _

theorem countFlowChanges_pos {l m : List FlowRec} {i : Nat} (hi : i < l.length) (hm : i < m.length) {d : FlowRec}
    (h : flowChanged (l.getD i d) (m.getD i d) = true) : countFlowChanges l m ≠ 0 := by
  induction l generalizing i m with
  | nil => cases hi
  | cons o l ih =>
    cases m with
    | nil => cases hm
    | cons n m =>
      show (flowChanged o n).toNat + countFlowChanges l m ≠ 0
      cases i with
      | zero =>
        have hon : flowChanged o n = true := h
        rw [hon]
        exact fun he => Nat.one_ne_zero (Nat.add_eq_zero_iff.mp he).1
      | succ i =>
        exact fun he => ih (Nat.lt_of_succ_lt_succ hi) (Nat.lt_of_succ_lt_succ hm) h (Nat.add_eq_zero_iff.mp he).2

/-- FLOW_CHANGE latches where a record's state or pinning differs at the end of the event (R116). -/
theorem finish_flowChange {s0 : State} {w : Work} (h : countFlowChanges s0.flows w.st.flows ≠ 0) :
    latched (bitMask 4) (finish s0 w) := by
  have hreport : latched (bitMask 4) (reportFlows s0.flows (handConditions w)).st := by
    unfold reportFlows
    rw [handConditions_flows]
    dsimp only
    rw [if_neg h]
    exact latch_latched 4 _
  exact latched_of_latch (s := (reportFlows s0.flows (handConditions w)).st) rfl hreport

theorem finish_flowChanges (s0 : State) (w : Work) : (finish s0 w).exch.flowChanges
    = w.st.exch.flowChanges + BitVec.ofNat 32 (countFlowChanges s0.flows w.st.flows) := by
  show (reportFlows s0.flows (handConditions w)).st.exch.flowChanges = _
  unfold reportFlows
  rw [handConditions_flows]
  dsimp only
  split
  · next h =>
    rw [h, handConditions_exch]
    simp
  · show (handConditions w).st.exch.flowChanges + _ = _
    rw [handConditions_exch]

/-! ## The frames of a record that is freed or expires (R104, R110, R130) -/

/-- The forwarding unit without the frames held for a flow, which it counts, and with its queued frames unbound. -/
def Forwarding.without (i : Nat) (f : Forwarding) : Forwarding :=
  let gone := (f.held.filter fun h => decide (h.flow = some i)).length
  { f with
    held := f.held.filter fun h => !decide (h.flow = some i)
    counts := if gone = 0 then f.counts else f.counts.discardHeld gone
    fibreQ := f.fibreQ.unbound i
    radioQ := f.radioQ.unbound i }

theorem dropHeld_none {gone : HeldFrame → Bool} {tally : Nat → ForwardCounts → ForwardCounts} {w : Work}
    (h : (w.st.fwd.held.filter gone).length = 0) : dropHeld gone tally w = w := if_pos h

theorem dropHeld_some {gone : HeldFrame → Bool} {tally : Nat → ForwardCounts → ForwardCounts} {w : Work}
    (h : (w.st.fwd.held.filter gone).length ≠ 0) : dropHeld gone tally w = latch Bit.holdDrops
      ((w.onFwd fun f => { f with held := f.held.filter fun h => !gone h }).onCounts
        (tally (w.st.fwd.held.filter gone).length)) := if_neg h

theorem filter_not_of_none {α : Type} {p : α → Bool} {l : List α} (h : (l.filter p).length = 0) :
    (l.filter fun x => !p x) = l := by
  refine List.filter_eq_self.mpr fun x hx => ?_
  have hnone := List.filter_eq_nil_iff.mp (List.eq_nil_of_length_eq_zero h) x hx
  rw [Bool.not_eq_true] at hnone
  rw [hnone]
  rfl

/-- The hold buffer without the frames of a flow. -/
def Forwarding.dropped (i : Nat) (f : Forwarding) : Forwarding :=
  let gone := (f.held.filter fun h => decide (h.flow = some i)).length
  { f with
    held := f.held.filter fun h => !decide (h.flow = some i)
    counts := if gone = 0 then f.counts else f.counts.discardHeld gone }

theorem dropHeld_flow (i : Nat) (w : Work) : ({ w.st with fwd := w.st.fwd.dropped i } : State).OnlyEv
    (dropHeld (fun h => decide (h.flow = some i)) ForwardCounts.discardHeld w).st := by
  by_cases h : (w.st.fwd.held.filter fun h => decide (h.flow = some i)).length = 0
  · have hsame : w.st.fwd.dropped i = w.st.fwd := by
      unfold Forwarding.dropped
      dsimp only
      rw [filter_not_of_none h, if_pos h]
    rw [dropHeld_none h, hsame]
    exact .refl _
  · rw [dropHeld_some h]
    have hst : ((w.onFwd fun f => { f with held := f.held.filter fun h => !decide (h.flow = some i) }).onCounts
        (ForwardCounts.discardHeld (w.st.fwd.held.filter fun h => decide (h.flow = some i)).length)).st
        = { w.st with fwd := w.st.fwd.dropped i } := by
      unfold Forwarding.dropped
      dsimp only
      rw [if_neg h]
      rfl
    rw [← hst]
    exact latch_onlyEv Bit.holdDrops _

theorem releaseFrames_onlyEv (i : Nat) (w : Work) :
    ({ w.st with fwd := w.st.fwd.without i } : State).OnlyEv (releaseFrames i w).st :=
  (dropHeld_flow i w).map (f := fun s => { s with fwd := { s.fwd with
    fibreQ := s.fwd.fibreQ.unbound i, radioQ := s.fwd.radioQ.unbound i } }) (fun _ _ => rfl) fun _ => rfl

theorem releaseFrames_latched {i : Nat} {w : Work}
    (h : 0 < (w.st.fwd.held.filter fun h => decide (h.flow = some i)).length) :
    latched (bitMask 13) (releaseFrames i w).st := by
  have hdrops : latched (bitMask 13) (dropHeld (fun h => decide (h.flow = some i)) ForwardCounts.discardHeld w).st := by
    rw [dropHeld_some (Nat.pos_iff_ne_zero.mp h)]
    exact latch_latched 13 _
  exact latched_of_latch (s := (dropHeld (fun h => decide (h.flow = some i)) ForwardCounts.discardHeld w).st) rfl hdrops

theorem dropHeld_debts (gone : HeldFrame → Bool) (tally : Nat → ForwardCounts → ForwardCounts) (w : Work) :
    (dropHeld gone tally w).debts = w.debts := by
  unfold dropHeld
  dsimp only
  split <;> rfl

theorem releaseFrames_debts (i : Nat) (w : Work) : (releaseFrames i w).debts = w.debts := dropHeld_debts _ _ w

/-- What an event leaves of the hold buffer that drops a flow's frames and owes no pass of its own. -/
theorem passes_without {i : Nat} {v : Work} {f : Forwarding} (hpass : v.passDue = false) (hfwd : v.st.fwd = f.without i)
    (hlatched : 0 < (f.held.filter fun h => decide (h.flow = some i)).length → latched (bitMask 13) v.st) :
    (∀ h ∈ (passes v).st.fwd.held, h ∈ f.held ∧ h.flow ≠ some i)
    ∧ (let gone := (f.held.filter fun h => decide (h.flow = some i)).length
       (gone = 0 → (passes v).st.fwd.counts.holdDiscard = f.counts.holdDiscard)
         ∧ (0 < gone → (passes v).st.fwd.counts.holdDiscard = min (f.counts.holdDiscard + gone) 4294967295
             ∧ latched (bitMask 13) (passes v).st)) := by
  obtain ⟨hdiscard, hheld⟩ := passes_held hpass
  rw [hfwd] at hdiscard hheld
  refine ⟨fun h hh => ?_, fun hnone => ?_, fun hsome => ⟨?_, passes_latched (hlatched hsome)⟩⟩
  · obtain ⟨hmem, hflow⟩ := List.mem_filter.mp (hheld h hh)
    refine ⟨hmem, fun he => ?_⟩
    rw [he] at hflow
    simp at hflow
  · rw [hdiscard]
    unfold Forwarding.without
    dsimp only
    rw [if_pos hnone]
  · rw [hdiscard]
    unfold Forwarding.without
    dsimp only
    rw [if_neg (Nat.pos_iff_ne_zero.mp hsome)]
    rfl

end Sys2Proof.Machine
end


section
/-! FLOW_IDLE_EXPIRY, IDLE_GAP_RETURN and LONG_IDLE_MARK as events (R107, R109, R110). -/

namespace Sys2Proof.Machine

/-! ## Demand recomputed that keeps the session -/

theorem demanding_exch : Demanding fun s t => t.exch = s.exch where
  refl := fun _ => rfl
  trans := fun h h' => h'.trans h
  moveTo := by
    intro n hn w
    by_cases h : w.st.ru.state = .session
    · obtain ⟨e, -, hst⟩ := moveTo_leaves n h hn
      have hleft : w.st.sessionLeft.exch = w.st.exch := by
        by_cases hd : w.st.radio.state = .down
        · rw [sessionLeft_of_down hd]
        · rw [sessionLeft_of_ne hd] <;> rfl
      rw [hst, ← hleft]
    · obtain ⟨r, e, -, hst⟩ := moveTo_ruOnly n w (Or.inl h)
      rw [hst]
  only := by
    rintro s t ⟨r, e, -, rfl⟩ -
    rfl
  steer := fun _ _ => rfl

/-- There is no session, or one that demand, the standby or the linger keeps when demand is recomputed (R73, R74). -/
def State.standsOn (s : State) : Prop :=
  s.ru.state ≠ .session ∨ (s.exch.service = .service ∧ (s.wantsSession = true ∨ s.cappedStandby = .session
    ∨ s.ru.lingerOn = true ∨ (s.steer.demand = true ∧ 0 < s.effectiveLinger)))

theorem demandSeen_standsOn {w : Work} (hended : w.drillEnded = false) (hservice : w.st.exch.service = .service)
    (h : w.st.wantsSession = true ∨ w.st.cappedStandby = .session
      ∨ w.st.ru.lingerOn = true ∨ (w.st.steer.demand = true ∧ 0 < w.st.effectiveLinger)) :
    (demandSeen w).st.targetNow = .session := by
  obtain ⟨r, honly⟩ := demandSeen_only w
  obtain ⟨a, b, hunit⟩ := demandSeen_unit w
  have hser : (demandSeen w).st.exch.service = .service := by rw [honly]; exact hservice
  have hd : (demandSeen w).st.steer.demand = w.st.wantsSession := by rw [honly]
  have hcap : (demandSeen w).st.cappedStandby = w.st.cappedStandby := by
    unfold State.cappedStandby
    rw [hunit, honly]
  unfold State.targetNow
  rw [if_neg (not_not.mpr hser), hd, hcap]
  cases hw : w.st.wantsSession with
  | true => rfl
  | false =>
    rw [hw] at h
    rcases h with h | h | h | ⟨hdemand, hlinger⟩
    · cases h
    · rw [h]
      exact ite_self _
    · have hon : (demandSeen w).st.ru.lingerOn = true := by
        rw [demandSeen_ru, if_neg (by rw [hw]; decide)]
        split
        · rfl
        · exact h
      rw [hon]
      rfl
    · have hon : (demandSeen w).st.ru.lingerOn = true := by
        rw [demandSeen_ru, if_neg (by rw [hw]; decide), if_pos]
        rw [hdemand, hservice, hended, decide_eq_true hlinger]
        rfl
      rw [hon]
      rfl

theorem recomputeDemand_stays {w : Work} (hended : w.drillEnded = false) (h : w.st.standsOn) :
    w.st.ru.state = .session → (recomputeDemand w).st.ru.state = .session := by
  intro hs
  obtain ⟨hservice, hkeeps⟩ := h.resolve_left (not_not.mpr hs)
  obtain ⟨t, r, hst, hr⟩ := recomputeDemand_session hs (demandSeen_standsOn hended hservice hkeeps)
  rw [hst]
  exact hr

/-- Demand recomputed outside SESSION, or with a session that is kept, owes nothing. -/
theorem recomputeDemand_standsOn {w : Work} (hended : w.drillEnded = false) (h : w.st.standsOn) :
    (recomputeDemand w).debts = w.debts := by
  by_cases hs : w.st.ru.state = .session
  · exact recomputeDemand_inSession hs (recomputeDemand_stays hended h hs)
  · exact recomputeDemand_debts hs

theorem runPasses_idle (n : Nat) {w : Work} (hpass : w.passDue = false) (hdue : w.demandDue = false) : runPasses n w = w := by
  cases n with
  | zero => rfl
  | succ n =>
    unfold runPasses
    rw [if_neg (by rw [hpass]; decide), if_neg (by rw [hdue]; decide)]

/-- An event that owes demand alone. -/
theorem passes_demand {v : Work} (hpass : v.passDue = false) (hdue : v.demandDue = true) (hended : v.drillEnded = false)
    (h : v.st.standsOn) : passes v = recomputeDemand { v with demandDue := false } := by
  obtain ⟨hp, hd, -⟩ := debts_iff.mp (recomputeDemand_standsOn (w := { v with demandDue := false }) hended h)
  have hp' : (recomputeDemand { v with demandDue := false }).passDue = false := hp.trans hpass
  show runPasses (7 + 1) v = _
  unfold runPasses
  rw [if_neg (by rw [hpass]; decide), if_pos hdue]
  exact runPasses_idle 7 hp' hd

/-! ## FLOW IDLE EXPIRY (R110) -/

theorem map_set_at {α β : Type} {l : List α} {i : Nat} {key : α → β} {g d : α} (h : key g = key (l.getD i d)) :
    (l.set i g).map key = l.map key := by
  induction l generalizing i with
  | nil => rfl
  | cons a l ih =>
    cases i with
    | zero => exact congrArg (· :: l.map key) h
    | succ i => exact congrArg (key a :: ·) (ih h)

/-- The work of an event that ends a record's use and drops its frames. -/
def flowEnded (i : Nat) (g : FlowRec → FlowRec) (w : Work) : Work := (handConditions (releaseFrames i (w.onFlow i g))).oweDemand

theorem oweDemand_fields (w : Work) : w.oweDemand.st = w.st ∧ w.oweDemand.passDue = w.passDue
    ∧ w.oweDemand.demandDue = true ∧ w.oweDemand.drillEnded = w.drillEnded := ⟨rfl, rfl, rfl, rfl⟩

theorem endsUse_onlyEv {s : State} {v : Work} (h : s.OnlyEv v.st) : s.OnlyEv (handConditions v).oweDemand.st := by
  rw [(oweDemand_fields _).1]
  exact h.trans (handConditions_onlyEv v)

theorem endsUse_owes (v : Work) : (handConditions v).oweDemand.passDue = v.passDue
    ∧ (handConditions v).oweDemand.demandDue = true ∧ (handConditions v).oweDemand.drillEnded = v.drillEnded := by
  obtain ⟨-, hpass, hdemand, hended⟩ := oweDemand_fields (handConditions v)
  exact ⟨hpass.trans (handConditions_passDue v), hdemand, hended.trans (handConditions_drillEnded v)⟩

theorem endsUse_latched {m : Word} {v : Work} (h : latched m v.st) : latched m (handConditions v).oweDemand.st := by
  rw [(oweDemand_fields _).1]
  exact handConditions_latched h

/-- An event's work that has ended a record's use and dropped its frames. -/
structure FlowEnds (i : Nat) (g : FlowRec → FlowRec) (w u : Work) : Prop where
  only : ({ w.st with flows := w.st.flows.set i (g (w.st.flow i)), fwd := w.st.fwd.without i } : State).OnlyEv u.st
  pass : u.passDue = w.passDue
  demand : u.demandDue = true
  ended : u.drillEnded = w.drillEnded
  drops : 0 < (w.st.fwd.held.filter fun h => decide (h.flow = some i)).length → latched (bitMask 13) u.st

section
variable {i : Nat} {g : FlowRec → FlowRec} {w u : Work}

theorem FlowEnds.of_frames {v : Work} (hst : v.st = (releaseFrames i (w.onFlow i g)).st)
    (hdebts : v.debts = (releaseFrames i (w.onFlow i g)).debts) : FlowEnds i g w (handConditions v).oweDemand := by
  have hset : (w.onFlow i g).st = { w.st with flows := w.st.flows.set i (g (w.st.flow i)) } := rfl
  have honly := releaseFrames_onlyEv i (w.onFlow i g)
  rw [hset, ← hst] at honly
  obtain ⟨hpass, -, hended⟩ := debts_iff.mp (hdebts.trans (releaseFrames_debts i (w.onFlow i g)))
  obtain ⟨hp, hd, he⟩ := endsUse_owes v
  refine ⟨endsUse_onlyEv honly, hp.trans hpass, hd, he.trans hended, fun h => endsUse_latched ?_⟩
  exact latched_of_latch (congrArg (fun s : State => s.ev.latch) hst) (releaseFrames_latched (w := w.onFlow i g) h)

theorem flowEnded_ends : FlowEnds i g w (flowEnded i g w) := FlowEnds.of_frames rfl rfl

theorem FlowEnds.fields (h : FlowEnds i g w u) : u.st.flows = w.st.flows.set i (g (w.st.flow i))
    ∧ u.st.fwd = w.st.fwd.without i
    ∧ u.st.kept = ({ w.st with flows := w.st.flows.set i (g (w.st.flow i)) } : State).kept := by
  have honly := h.only
  have hkept := honly.kept
  have hunread : ({ w.st with flows := w.st.flows.set i (g (w.st.flow i)), fwd := w.st.fwd.without i } : State).kept
      = ({ w.st with flows := w.st.flows.set i (g (w.st.flow i)) } : State).kept := rfl
  refine ⟨?_, ?_, hkept.trans hunread⟩
  · obtain ⟨e, -, hst⟩ := honly
    rw [hst]
  · obtain ⟨e, -, hst⟩ := honly
    rw [hst]

/-- A record that such an event leaves unused, and its frames. -/
theorem FlowEnds.passes (h : FlowEnds i g w u) (hpass : w.passDue = false) (hi : i < w.st.flows.length)
    (hdead : (g (w.st.flow i)).state.live = false) :
    (passes u).st.flow i = g (w.st.flow i)
    ∧ (∀ h ∈ (passes u).st.fwd.held, h ∈ w.st.fwd.held ∧ h.flow ≠ some i)
    ∧ (let gone := (w.st.fwd.held.filter fun h => decide (h.flow = some i)).length
       (gone = 0 → (passes u).st.fwd.counts.holdDiscard = w.st.fwd.counts.holdDiscard)
         ∧ (0 < gone → (passes u).st.fwd.counts.holdDiscard
                = min (w.st.fwd.counts.holdDiscard + gone) 4294967295
             ∧ latched (bitMask 13) (passes u).st)) := by
  obtain ⟨hflows, hfwd, -⟩ := h.fields
  have hidle : u.passDue = false := h.pass.trans hpass
  have hflow : u.st.flow i = g (w.st.flow i) := by
    unfold State.flow
    rw [hflows]
    exact getD_set_self hi _ _
  refine ⟨?_, passes_without hidle hfwd h.drops⟩
  rw [passes_flow_dead hidle (by rw [hflows, List.length_set]; exact hi) (by rw [hflow]; exact hdead), hflow]

end

theorem length_of_kept {s t : State} (h : s.kept = t.kept) : s.flows.length = t.flows.length := by
  have hids : s.flows.map FlowRec.identity = t.flows.map FlowRec.identity := (congrArg State.flows h :)
  exact length_of_map_eq _ hids

theorem event_eq_finish {g : Work → Work} {s : State} (hs : s.exch.service ≠ .init) :
    event g s = finish s (passes (g (Work.begin s))) := if_neg hs

/-- FLOW_CHANGE latches in an event that leaves a record's state or pinning changed. -/
theorem event_flowChange {g : Work → Work} {s : State} {i : Nat} (hs : s.exch.service ≠ .init) (hi : i < s.flows.length)
    (hlength : (g (Work.begin s)).st.flows.length = s.flows.length)
    (h : flowChanged (s.flow i) ((passes (g (Work.begin s))).st.flow i) = true) : latched (bitMask 4) (event g s) := by
  rw [event_eq_finish hs]
  have hsame := length_of_kept (passes_kept (g (Work.begin s)))
  exact finish_flowChange (countFlowChanges_pos hi (by rw [hsame, hlength]; exact hi) h)

/-- A flow expired and unpinned. -/
def FlowRec.expire (f : FlowRec) : FlowRec := { f with state := .expired, pinned := false }

theorem exec_flowIdleExpiry {i : Fin 128} {s : State} (h : (s.flow i).idleDue s.now = true) :
    exec (.flowIdleExpiry i) s = .next (event (flowEnded i FlowRec.expire) s) := congrArg Host.Outcome.next (if_pos h)

theorem event_expires {s : State} {i : Nat} (hs : s.exch.service ≠ .init) (hi : i < s.flows.length)
    (hlive : (s.flow i).state.live = true) :
    let t := event (flowEnded i FlowRec.expire) s
    let f := s.flow i
    t.kept = ({ s with flows := s.flows.set i { f with state := .expired, pinned := false } } : State).kept
      ∧ t.flow i = { f with state := .expired, pinned := false, count := (t.flow i).count }
      ∧ (t.flow i).state = .expired ∧ t.ev.latch.getLsbD 4 = true
      ∧ (∀ h ∈ t.fwd.held, h ∈ s.fwd.held ∧ h.flow ≠ some i)
      ∧ (let gone := (s.fwd.held.filter fun h => decide (h.flow = some i)).length
         (gone = 0 → t.fwd.counts.holdDiscard = s.fwd.counts.holdDiscard)
           ∧ (0 < gone → t.fwd.counts.holdDiscard = min (s.fwd.counts.holdDiscard + gone) 4294967295
               ∧ t.ev.latch.getLsbD 13 = true)) := by
  dsimp only
  have hends : FlowEnds i FlowRec.expire (Work.begin s) (flowEnded i FlowRec.expire (Work.begin s)) := flowEnded_ends
  obtain ⟨hflow, hheld, hnone, hsome⟩ := hends.passes rfl hi rfl
  obtain ⟨hflows, -, hkept⟩ := hends.fields
  have hchanged : flowChanged (s.flow i) ((passes (flowEnded i FlowRec.expire (Work.begin s))).st.flow i) = true := by
    have hne : (s.flow i).state ≠ .expired := fun he => by
      rw [he] at hlive
      cases hlive
    rw [hflow]
    unfold flowChanged
    exact Bool.or_eq_true_iff.mpr (Or.inl (decide_eq_true hne))
  have hlatched := event_flowChange hs hi (by rw [hflows]; exact List.length_set) hchanged
  have hrecord := finish_flow s (passes (flowEnded i FlowRec.expire (Work.begin s))) i
  have hall := (event_kept _ s hs).trans hkept
  rw [event_eq_finish hs] at hlatched hall ⊢
  rw [hflow] at hrecord
  rw [finish_fwd]
  refine ⟨hall, hrecord, congrArg FlowRec.state hrecord, getLsbD_of_latched hlatched (by decide), hheld, hnone,
    fun hgone => ⟨(hsome hgone).1, getLsbD_of_latched (finish_latched s (hsome hgone).2) (by decide)⟩⟩

end Sys2Proof.Machine
end


section
/-! FLOW_IDLE_EXPIRY, IDLE_GAP_RETURN and LONG_IDLE_MARK (R107, R109, R110). -/

namespace Sys2Proof.Machine

/-- The work of an event that replaces a record and owes demand. -/
def flowReplaced (i : Nat) (g : FlowRec → FlowRec) (w : Work) : Work := (handConditions (w.onFlow i g)).oweDemand

section
variable {i : Nat} {g : FlowRec → FlowRec} {w : Work}

theorem flowReplaced_onlyEv : ({ w.st with flows := w.st.flows.set i (g (w.st.flow i)) } : State).OnlyEv
    (flowReplaced i g w).st := endsUse_onlyEv (v := w.onFlow i g) (.refl _)

theorem flowReplaced_fields : (flowReplaced i g w).st.flows = w.st.flows.set i (g (w.st.flow i))
    ∧ (flowReplaced i g w).st.exch = w.st.exch ∧ (flowReplaced i g w).st.ru = w.st.ru
    ∧ (flowReplaced i g w).st.steer = w.st.steer ∧ (flowReplaced i g w).st.sup = w.st.sup
    ∧ (flowReplaced i g w).st.kept = ({ w.st with flows := w.st.flows.set i (g (w.st.flow i)) } : State).kept := by
  have honly := flowReplaced_onlyEv (i := i) (g := g) (w := w)
  have hkept := honly.kept
  obtain ⟨e, -, hst⟩ := honly
  refine ⟨?_, ?_, ?_, ?_, ?_, hkept⟩ <;> rw [hst]

theorem flowReplaced_owes : (flowReplaced i g w).passDue = w.passDue ∧ (flowReplaced i g w).demandDue = true
    ∧ (flowReplaced i g w).drillEnded = w.drillEnded := endsUse_owes (w.onFlow i g)

theorem flowReplaced_flow (hi : i < w.st.flows.length) : (flowReplaced i g w).st.flow i = g (w.st.flow i) := by
  unfold State.flow
  rw [flowReplaced_fields.1]
  exact getD_set_self hi _ _

end

theorem exec_idleGapReturn {i : Fin 128} {s : State} (h : s.gapDue i = true) : exec (.idleGapReturn i) s
    = .next (event (flowReplaced i (FlowRec.comeBack (s.cls (s.flow i).cls).cur)) s) := by
  show Host.Outcome.next (if s.gapDue i then event (gapReturn i) s else s) = _
  rw [if_pos h]
  unfold event
  rfl

theorem comeBack_fields {f : FlowRec} {path : ClassPath} (hlive : f.state.live = true) :
    (f.comeBack path).identity = f.identity ∧ (f.comeBack path).pinned = false
      ∧ f.Follows path.flowState (f.comeBack path) := by
  obtain ⟨hstate, -, hid⟩ := become_fields path.flowState f
  have hlives : path.flowState.live = true := by cases path <;> rfl
  have hfollows := become_follows f path
  exact ⟨(hid hlive hlives :), rfl, hfollows.state, hfollows.last, hfollows.moves⟩

theorem kept_of_identity {s : State} {fs : List FlowRec} (h : fs.map FlowRec.identity = s.flows.map FlowRec.identity) :
    ({ s with flows := fs } : State).kept = s.kept := by
  unfold State.kept
  dsimp only
  rw [h]

/-- A pinned flow that returns to its class's path (R109). -/
theorem event_returns {s : State} {i : Nat} (hs : s.exch.service ≠ .init) (hi : i < s.flows.length)
    (hstate : (s.flow i).state = .carried .radio) (hpinned : (s.flow i).pinned = true) :
    let path := (s.cls (s.flow i).cls).cur
    let t := event (flowReplaced i (FlowRec.comeBack path)) s
    t.kept = s.kept ∧ (t.flow i).pinned = false ∧ t.ev.latch.getLsbD 4 = true
      ∧ (s.ru.state ≠ .session ∨ (s.steer.demand = true ∧ s.exch.service = .service ∧ 0 < s.effectiveLinger) →
          (t.flow i).state = path.flowState
          ∧ (t.flow i).moves = (if path = .fibre ∧ (s.flow i).last = some .radio then min ((s.flow i).moves + 1) 65535
              else (s.flow i).moves)
          ∧ t.exch.flowChanges = s.exch.flowChanges + 1) := by
  intro path
  dsimp only
  have hlive : (s.flow i).state.live = true := by rw [hstate]; rfl
  obtain ⟨hid, hunpinned, hfollows⟩ := comeBack_fields (path := path) hlive
  obtain ⟨hflows, hexch, hru, hsteer, hsup, hkept⟩ :=
    flowReplaced_fields (i := i) (g := FlowRec.comeBack path) (w := Work.begin s)
  obtain ⟨hpass, hdue, hended⟩ := flowReplaced_owes (i := i) (g := FlowRec.comeBack path) (w := Work.begin s)
  have hflow := flowReplaced_flow (g := FlowRec.comeBack path) (w := Work.begin s) hi
  have hevent := event_eq_finish (g := flowReplaced i (FlowRec.comeBack path)) hs
  have hall := event_kept (flowReplaced i (FlowRec.comeBack path)) s hs
  generalize hv : flowReplaced i (FlowRec.comeBack path) (Work.begin s) = v at *
  have hlength : i < v.st.flows.length := by rw [hflows, List.length_set]; exact hi
  have hpin : ((passes v).st.flow i).pinned = false :=
    passes_flow_unpinned hpass hlength (by rw [hflow]; exact hunpinned)
  have hchanged : flowChanged (s.flow i) ((passes v).st.flow i) = true := by
    unfold flowChanged
    rw [hpinned, hpin]
    exact Bool.or_true _
  have hlatched := event_flowChange (g := flowReplaced i (FlowRec.comeBack path)) hs hi (by rw [hv, hflows]; exact List.length_set) (by rw [hv]; exact hchanged)
  have hrecord := finish_flow s (passes v) i
  rw [← hevent] at hrecord
  refine ⟨?_, (congrArg FlowRec.pinned hrecord).trans hpin, getLsbD_of_latched hlatched (by decide), fun hlingers => ?_⟩
  · exact hall.trans (hkept.trans (kept_of_identity (map_set_at (d := FlowRec.freed 0) hid)))
  · have hlin : v.st.standsOn := by
      unfold State.standsOn State.effectiveLinger
      rw [hru, hsteer, hexch, hsup]
      exact hlingers.imp_right fun ⟨hd, hser, hl⟩ => ⟨hser, Or.inr (Or.inr (Or.inr ⟨hd, hl⟩))⟩
    have hpasses := passes_demand hpass hdue hended hlin
    have hafter : (passes v).st.flows = s.flows.set i ((s.flow i).comeBack path) := by
      rw [hpasses, (recomputeDemand_flows { v with demandDue := false }).1]
      exact hflows
    have hback : (passes v).st.flow i = (s.flow i).comeBack path := by
      unfold State.flow
      rw [hafter]
      exact getD_set_self hi _ _
    have hcount : countFlowChanges s.flows (passes v).st.flows = 1 := by
      rw [hafter, countFlowChanges_set hi _ (FlowRec.freed 0)]
      rw [hback] at hchanged
      rw [show flowChanged (s.flows.getD i (FlowRec.freed 0)) ((s.flow i).comeBack path) = true from hchanged]
      rfl
    refine ⟨?_, ?_, ?_⟩
    · rw [hrecord, hback]
      exact hfollows.state
    · rw [hrecord, hback]
      refine hfollows.moves.trans (if_congr ?_ rfl rfl)
      rw [hstate]
      cases path <;> simp [ClassPath.flowState]
    · have hsame := demanding_exch.recomputeDemand { v with demandDue := false }
      rw [hevent, finish_flowChanges, hcount, hpasses, hsame]
      exact congrArg (fun e : Exchange => e.flowChanges + 1) hexch

/-- LONG_IDLE_MARK, due (R107). -/
theorem event_marks {s : State} (hcur : s.current) (i : Nat) :
    (event (fun w => w.onFlow i fun f => { f with longIdle := true }) s).plain
      = ({ s with flows := s.flows.set i { s.flow i with longIdle := true } } : State).plain :=
  ((settled_begin hcur).onFlow i (g := fun f => { f with longIdle := true }) fun _ => rfl).plain rfl

/-- Settles O49. -/
theorem flowTimersExpire : Obligations.FlowTimersExpire := by
  unfold Obligations.FlowTimersExpire
  intro i s hcur htables f idle
  have hi : i.val < s.flows.length := by rw [htables.2]; exact i.isLt
  refine ⟨fun hlive hidle hdue => ?expires, fun hstate hpinned hdue => ?returns, fun hstate hmark hdue => ?marks⟩
  case expires =>
    exact ⟨_, exec_flowIdleExpiry (idleDue_iff.mpr ⟨hlive, hidle, hdue⟩), event_expires hcur.1 hi hlive⟩
  case returns =>
    obtain ⟨hkept, hpin, hlatched, hlingers⟩ := event_returns hcur.1 hi hstate hpinned
    refine ⟨_, exec_idleGapReturn (gapDue_iff.mpr ⟨hpinned, hdue⟩), hkept, hpin, hlatched, fun h => ?_⟩
    obtain ⟨hflow, hmoves, hchanges⟩ := hlingers h
    refine ⟨hflow.trans ?_, hmoves, hchanges⟩
    cases (s.cls f.cls).cur <;> rfl
  case marks =>
    have hmarked : (s.flow i).markDue s.now = true := markDue_iff.mpr ⟨hstate, hmark, hdue⟩
    exact ⟨_, congrArg Host.Outcome.next (if_pos hmarked), event_marks hcur i⟩

end Sys2Proof.Machine
end


section
/-! CLOSE FLOW (R90, R103, R104, R126, R130). -/

namespace Sys2Proof.Machine

theorem takeKind_fields {kind i : Nat} {rest : List Nat} {s : State} {body : List Byte → Work → Answered} {v : Work}
    (hoffers : s.offersKind kind i rest) (hv : (body (slotParams s.mem i) (Work.begin s)).work = v) :
    (takeKind kind body s).fwd = (passes v).st.fwd ∧ (takeKind kind body s).steer = (passes v).st.steer
      ∧ (∀ k, (takeKind kind body s).flow k
        = { (passes v).st.flow k with count := ((takeKind kind body s).flow k).count })
      ∧ ∀ m, latched m (passes v).st → latched m (takeKind kind body s) := by
  subst hv
  rw [takeKind_eq kind body s i rest hoffers]
  exact ⟨finish_fwd _ _, finish_steer _ _, fun k => finish_flow _ _ k, fun m hm => finish_latched s hm⟩

/-- CLOSE FLOW's own changes: the record freed, its count carried on. -/
def freed (f : FlowRec) : FlowRec := FlowRec.freed f.count

def flowClosed (k : Nat) (w : Work) : Work := (handConditions (freeFlow k w)).oweDemand

theorem flowClosed_ends (k : Nat) (w : Work) : FlowEnds k freed w (flowClosed k w) := FlowEnds.of_frames rfl rfl

theorem orderCloseFlow_eq {ps : List Byte} {s : State} (hk : param ps 0 1 ≤ 127)
    (hf : (s.flow (param ps 0 1)).state ≠ .free) : orderCloseFlow ps (Work.begin s) =
      { work := flowClosed (param ps 0 1) (Work.begin s), result := .ok,
        answer := fun _ => closeAnswer (param ps 0 1) (s.flow (param ps 0 1)) } :=
  if_neg (not_or.mpr ⟨Nat.not_lt.mpr hk, hf⟩)

/-- What demand reads of a flow record (R90). -/
def FlowRec.use (f : FlowRec) : FlowState × Nat := (f.state, f.cls)

theorem wants_of_use {s : State} {fs gs : List FlowRec} (h : fs.map FlowRec.use = gs.map FlowRec.use) :
    ({ s with flows := fs } : State).wantsSession = ({ s with flows := gs } : State).wantsSession
      ∧ ({ s with flows := fs } : State).wantsUrgently = ({ s with flows := gs } : State).wantsUrgently := by
  have hreal : fs.any (fun f => f.state.wantsRadio) = gs.any fun f => f.state.wantsRadio :=
    any_content FlowRec.use (fun x => x.1.wantsRadio) _ (fun _ => rfl) _ _ h
  have htier : fs.any (fun f => f.state.live && decide ((s.cls f.cls).tier = 0))
      = gs.any fun f => f.state.live && decide ((s.cls f.cls).tier = 0) :=
    any_content FlowRec.use (fun x => x.1.live && decide ((s.cls x.2).tier = 0)) _ (fun _ => rfl) _ _ h
  have hflow : ({ s with flows := fs } : State).tier0Flow = ({ s with flows := gs } : State).tier0Flow :=
    congrArg (fun b => !s.fibreUsable && b) htier
  have huse : ({ s with flows := fs } : State).realUse = ({ s with flows := gs } : State).realUse :=
    congrArg (fun b => s.classes.any (fun c => c.cur.wantsRadio) || b) hreal
  unfold State.wantsSession State.wantsUrgently
  rw [hflow, huse]
  exact ⟨rfl, rfl⟩

/-- What CLOSE FLOW leaves of demand, linger and queues where no session closes (R73, R74, R90, R126). -/
theorem closed_demand {k : Nat} {s : State} (hservice : s.exch.service = .service)
    (hstands : ({ s with flows := s.flows.set k (FlowRec.freed 0) } : State).standsOn) :
    let freed := ({ s with flows := s.flows.set k (FlowRec.freed 0) } : State)
    let v := passes (flowClosed k (Work.begin s))
    (∀ p : Path, v.st.fwd.queue p = (s.fwd.queue p).unbound k)
      ∧ v.st.fwd.held = s.fwd.held.filter (fun h => !decide (h.flow = some k))
      ∧ v.st.steer.demand = freed.wantsSession ∧ v.st.steer.urgent = freed.wantsUrgently
      ∧ (freed.wantsSession = true → v.st.ru.lingerOn = false)
      ∧ (s.steer.demand = true → freed.wantsSession = false → 0 < s.effectiveLinger →
          v.st.ru.lingerOn = true ∧ v.st.ru.lingerStart = s.now ∧ v.st.ru.target = .session) := by
  dsimp only
  have hends := flowClosed_ends k (Work.begin s)
  obtain ⟨hflows, hfwd, -⟩ := hends.fields
  obtain ⟨e, -, hst⟩ := hends.only
  obtain ⟨-, hpass, hdue, hended, -⟩ := hends
  generalize flowClosed k (Work.begin s) = u at *
  obtain ⟨hwants, hurgent⟩ := wants_of_use (s := s) (fs := s.flows.set k (freed (s.flow k)))
    (gs := s.flows.set k (FlowRec.freed 0)) (by rw [List.map_set, List.map_set] <;> rfl)
  have huwants : u.st.wantsSession = ({ s with flows := s.flows.set k (FlowRec.freed 0) } : State).wantsSession := by
    rw [hst, ← hwants] <;> rfl
  have huurgent : u.st.wantsUrgently = ({ s with flows := s.flows.set k (FlowRec.freed 0) } : State).wantsUrgently := by
    rw [hst, ← hurgent] <;> rfl
  have hru : u.st.ru = s.ru := (congrArg State.ru hst :)
  have hsteer : u.st.steer = s.steer := (congrArg State.steer hst :)
  have hexch : u.st.exch = s.exch := (congrArg State.exch hst :)
  have hsup : u.st.sup = s.sup := (congrArg State.sup hst :)
  have hclk : u.st.clk = s.clk := (congrArg State.clk hst :)
  have hstandsOn : u.st.standsOn := by
    unfold State.standsOn State.cappedStandby State.effectiveLinger
    rw [huwants, hru, hsteer, hexch, hsup]
    exact hstands
  have hpasses := passes_demand (v := u) hpass hdue hended hstandsOn
  have hkeeps := demanding_demandKeeps.recomputeDemand { u with demandDue := false }
  have hstays := recomputeDemand_stays (w := { u with demandDue := false }) hended hstandsOn
  have hserve : (recomputeDemand { u with demandDue := false }).st.exch.service = .service := by
    rw [recomputeDemand_service]
    exact (congrArg Exchange.service hexch).trans hservice
  rw [hpasses]
  refine ⟨fun p => ?_, hkeeps.held.trans (congrArg Forwarding.held hfwd), ?_, ?_, fun hw => ?_, fun hdemand hw hlinger => ?_⟩
  · cases p with
    | fibre => exact hkeeps.fibreQ.trans (congrArg Forwarding.fibreQ hfwd)
    | radio => exact (hkeeps.radioQ hstays).trans (congrArg Forwarding.radioQ hfwd)
  · rw [recomputeDemand_steer]
    exact huwants
  · rw [recomputeDemand_steer]
    exact huurgent
  · rw [(recomputeDemand_linger _).1, demandSeen_ru, if_pos (huwants.trans hw)]
  · have hnot : ¬u.st.wantsSession = true := by rw [huwants, hw]; decide
    have hfalls : (u.st.steer.demand && decide (u.st.exch.service = .service) && !u.drillEnded
        && decide (0 < u.st.effectiveLinger)) = true := by
      have hl : 0 < u.st.effectiveLinger := by
        unfold State.effectiveLinger
        rw [hsup, hru]
        exact hlinger
      have he : u.drillEnded = false := hended
      rw [hsteer, hdemand, hexch, hservice, he, decide_eq_true hl]
      rfl
    obtain ⟨hon, hstart⟩ := recomputeDemand_linger { u with demandDue := false }
    rw [demandSeen_ru, if_neg hnot, if_pos hfalls] at hon hstart
    refine ⟨hon, hstart.trans (congrArg Clock.ms hclk), (recomputeDemand_onTarget _).trans ?_⟩
    unfold State.targetNow
    rw [if_neg (not_not.mpr hserve), hon, Bool.or_true]
    rfl

theorem mem_of_kept {u v : State} (h : u.kept = v.kept) : u.mem = v.mem := (congrArg State.mem h :)

/-- What the task's body gives, read into the kept state. -/
theorem takeKind_kept_of {kind i : Nat} {rest : List Nat} {s r : State} {body : List Byte → Work → Answered} {v : Work}
    {result : ResultCode} {answer : State → List Byte} (hoffers : s.offersKind kind i rest)
    (hbody : body (slotParams s.mem i) (Work.begin s) = { work := v, result := result, answer := answer })
    (hkept : v.st.kept = r.kept) (hmem : r.mem = s.mem) :
    (takeKind kind body s).kept = (r.answered i rest result (answer (passes v).st)).kept := by
  have htaken := takeKind_kept kind body s i rest hoffers (by rw [hbody]; exact (mem_of_kept hkept).trans hmem)
  rw [hbody] at htaken
  exact htaken.trans (answered_kept hkept i rest result _)

/-- The account CLOSE FLOW answers and the state it leaves, but for its passes' frames and demand (R103, R104). -/
theorem closeFlow_kept {k i : Nat} {rest : List Nat} {s : State} (hoffers : s.offersKind Kind.closeFlow i rest)
    (hparam : param (slotParams s.mem i) 0 1 = k) (hrange : k ≤ 127) (hf : (s.flow k).state ≠ .free) :
    (takeKind Kind.closeFlow orderCloseFlow s).kept
      = (({ s with flows := s.flows.set k (FlowRec.freed 0) } : State).answered i rest .ok
          (closeAnswer k (s.flow k))).kept := by
  subst hparam
  obtain ⟨-, -, hkept⟩ := (flowClosed_ends (param (slotParams s.mem i) 0 1) (Work.begin s)).fields
  have hsame : (s.flows.set (param (slotParams s.mem i) 0 1)
        (freed (s.flow (param (slotParams s.mem i) 0 1)))).map FlowRec.identity
      = (s.flows.set (param (slotParams s.mem i) 0 1) (FlowRec.freed 0)).map FlowRec.identity := by
    rw [List.map_set, List.map_set] <;> rfl
  have hrest := kept_of_identity
    (s := { s with flows := s.flows.set (param (slotParams s.mem i) 0 1) (FlowRec.freed 0) }) hsame
  have hcontent := hkept.trans hrest
  have htaken := takeKind_kept_of hoffers (orderCloseFlow_eq hrange hf) hcontent rfl
  exact htaken

/-- What CLOSE FLOW does to the record and to its frames (R103, R104). -/
theorem closeFlow_frames {k i : Nat} {rest : List Nat} {s : State} (hoffers : s.offersKind Kind.closeFlow i rest)
    (hparam : param (slotParams s.mem i) 0 1 = k) (hk : k < s.flows.length) (hrange : k ≤ 127)
    (hf : (s.flow k).state ≠ .free) :
    let t := takeKind Kind.closeFlow orderCloseFlow s
    let gone := (s.fwd.held.filter fun h => decide (h.flow = some k)).length
    t.flow k = { FlowRec.freed 0 with count := (t.flow k).count }
      ∧ (∀ h ∈ t.fwd.held, h ∈ s.fwd.held ∧ h.flow ≠ some k)
      ∧ (gone = 0 → t.fwd.counts.holdDiscard = s.fwd.counts.holdDiscard)
      ∧ (0 < gone → t.fwd.counts.holdDiscard = min (s.fwd.counts.holdDiscard + gone) 4294967295
          ∧ t.ev.latch.getLsbD 13 = true) := by
  intro t gone
  subst hparam
  have hbody := orderCloseFlow_eq (s := s) hrange hf
  have hwork := congrArg Answered.work hbody
  obtain ⟨hflow, hheld, hnone, hsome⟩ := (flowClosed_ends (param (slotParams s.mem i) 0 1) (Work.begin s)).passes rfl hk rfl
  obtain ⟨hfwd, -, hrecords, hlatches⟩ := takeKind_fields (kind := Kind.closeFlow) hoffers hwork
  have hrecord := hrecords (param (slotParams s.mem i) 0 1)
  clear hwork hbody
  dsimp only [t, gone]
  generalize takeKind Kind.closeFlow orderCloseFlow s = t at *
  generalize passes (flowClosed (param (slotParams s.mem i) 0 1) (Work.begin s)) = v at *
  rw [hflow] at hrecord
  refine ⟨hrecord, fun h hin => hheld h (hfwd ▸ hin), fun hg => ?_, fun hg => ⟨?_, ?_⟩⟩
  · exact (congrArg (fun f : Forwarding => f.counts.holdDiscard) hfwd).trans (hnone hg)
  · exact (congrArg (fun f : Forwarding => f.counts.holdDiscard) hfwd).trans (hsome hg).1
  · exact getLsbD_of_latched (hlatches _ (hsome hg).2) (by decide)

/-- CLOSE FLOW (R103, R104). -/
theorem flowsClose {i : Nat} {rest : List Nat} {s : State} (hoffers : s.offersKind Kind.closeFlow i rest) :
    let k := param (slotParams s.mem i) 0 1
    let f := s.flow k
    k < s.flows.length → k ≤ 127 → f.state ≠ .free →
    ∃ t, exec .closeFlow s = .next t ∧
      t.kept = (({ s with flows := s.flows.set k (FlowRec.freed 0) } : State).answered i rest .ok
        (pack [(1, k), (1, f.state.code), (1, optPathCode f.state.path), (1, f.cls), (2, f.moves), (4, f.bytes),
               (1, f.saturated.toNat), (4, f.opened.toNat), (4, f.lastFrame.toNat)])).kept
      ∧ (t.flow k).state = .free
      ∧ (∀ h ∈ t.fwd.held, h ∈ s.fwd.held ∧ h.flow ≠ some k)
      ∧ (let gone := (s.fwd.held.filter fun h => decide (h.flow = some k)).length
         (gone = 0 → t.fwd.counts.holdDiscard = s.fwd.counts.holdDiscard)
           ∧ (0 < gone → t.fwd.counts.holdDiscard = min (s.fwd.counts.holdDiscard + gone) 4294967295
               ∧ t.ev.latch.getLsbD 13 = true))
      ∧ t.flow k = { FlowRec.freed 0 with count := (t.flow k).count }
      ∧ (let freed := { s with flows := s.flows.set k (FlowRec.freed 0) }
         let unbound := fun (fs : List TxFrame) => fs.map fun x => if x.flow = some k then { x with flow := none } else x
         let queue := fun (q : TxQueue) => { q with urgent := unbound q.urgent, normal := unbound q.normal }
         (s.ru.state ≠ .session ∨ freed.wantsSession = true ∨ s.cappedStandby = .session ∨ s.ru.lingerOn = true
             ∨ (s.steer.demand = true ∧ 0 < s.effectiveLinger)) → s.exch.service = .service →
           (∀ p : Path, t.fwd.queue p = queue (s.fwd.queue p))
           ∧ t.fwd.held = s.fwd.held.filter (fun h => decide (h.flow ≠ some k))
           ∧ t.steer.demand = freed.wantsSession ∧ t.steer.urgent = freed.wantsUrgently
           ∧ (freed.wantsSession = true → t.ru.lingerOn = false)
           ∧ (s.steer.demand = true → freed.wantsSession = false → 0 < s.effectiveLinger →
               t.ru.lingerOn = true ∧ t.ru.lingerStart = s.now ∧ t.ru.target = .session)) := by
  intro k f hk hrange hf
  have hparam : param (slotParams s.mem i) 0 1 = k := rfl
  have hkept := closeFlow_kept hoffers hparam hrange hf
  obtain ⟨hrecord, hheld, hnone, hsome⟩ := closeFlow_frames hoffers hparam hk hrange hf
  have hwork := congrArg Answered.work (orderCloseFlow_eq (s := s) hrange hf)
  obtain ⟨hfwd, hsteer, -, -⟩ := takeKind_fields (kind := Kind.closeFlow) hoffers hwork
  have hru := takeKind_ru (kind := Kind.closeFlow) hoffers hwork
  have hexec : exec .closeFlow s = .next (takeKind Kind.closeFlow orderCloseFlow s) := rfl
  have hdemanded := closed_demand (k := k) (s := s)
  clear hwork
  generalize takeKind Kind.closeFlow orderCloseFlow s = t at *
  dsimp only at hru hfwd hsteer hdemanded
  generalize passes (flowClosed k (Work.begin s)) = v at *
  refine ⟨t, hexec, hkept, congrArg FlowRec.state hrecord, hheld, ⟨hnone, hsome⟩, hrecord, ?demand⟩
  intro freed unbound queue hstands hservice
  have hkeeps : freed.standsOn := hstands.imp_right fun h => ⟨hservice, h⟩
  obtain ⟨hqueue, hall, hd, hu, hoff, hon⟩ := hdemanded hservice hkeeps
  rw [hfwd, hsteer, hru]
  refine ⟨hqueue, hall.trans ?_, hd, hu, hoff, hon⟩
  exact List.filter_congr fun x _ => (decide_not (p := x.flow = some k)).symm

end Sys2Proof.Machine
end


section
/-! A live flow of tier 0 that has no usable fibre: demand, once recomputed, is true and urgent and aims at a session, and
the passes keep it so (R73, R74, R90, R102). -/

namespace Sys2Proof.Machine

theorem cls_policy_of_kept {s t : State} (h : s.kept = t.kept) (n : Nat) : (s.cls n).policy = (t.cls n).policy := by
  have hmap : s.classes.map ClassRec.policy = t.classes.map ClassRec.policy := (congrArg State.classes h :)
  have hget := congrArg (fun l : List ClassRec => l[n]?) hmap
  simp only [List.getElem?_map] at hget
  unfold State.cls
  rw [List.getD_eq_getElem?_getD, List.getD_eq_getElem?_getD]
  generalize s.classes[n]? = a at hget
  generalize t.classes[n]? = b at hget
  cases a <;> cases b <;> simp_all

theorem service_of_kept {s t : State} (h : s.kept = t.kept) : s.exch.service = t.exch.service :=
  (congrArg (fun s : State => s.exch.service) h :)

theorem clk_of_kept {s t : State} (h : s.kept = t.kept) : s.clk = t.clk := (congrArg State.clk h :)

theorem tier0Flow_of_kept {s t : State} (h : s.kept = t.kept) : s.tier0Flow = t.tier0Flow := by
  have hflows : s.flows.map FlowRec.identity = t.flows.map FlowRec.identity := (congrArg State.flows h :)
  have hfibre : s.fibre = t.fibre := (congrArg State.fibre h :)
  have htier : ∀ n, (s.cls n).tier = (t.cls n).tier := fun n => tier_of_policy (cls_policy_of_kept h n)
  have hlive : ∀ f : FlowRec, f.identity.state.live = f.state.live := fun f => by
    obtain ⟨state⟩ := f
    cases state <;> rfl
  have hany := any_content FlowRec.identity (fun x => x.state.live && decide ((s.cls x.cls).tier = 0))
    (fun f => f.state.live && decide ((s.cls f.cls).tier = 0)) (fun f => by rw [hlive] <;> rfl) _ _ hflows
  unfold State.tier0Flow State.fibreUsable
  rw [hfibre, hany]
  simp only [htier]

theorem recomputeDemand_kept (w : Work) : (recomputeDemand w).st.kept = w.st.kept :=
  (closed_kept w.st.kept).recomputeDemand trivial w rfl

theorem passBody_kept (w : Work) : (passBody w).st.kept = w.st.kept := by
  rw [← recomputeDemand_kept (passBody w), ← steeringPass_eq]
  exact (closed_kept w.st.kept).steeringPass trivial trivial w rfl

/-- A property that every recomputation of demand and every pass body keeps holds after the passes. -/
theorem runPasses_keeps {P : State → Prop} (hdemand : ∀ w : Work, P w.st → P (recomputeDemand w).st)
    (hbody : ∀ w : Work, P w.st → P (passBody w).st) (n : Nat) {w : Work} (h : P w.st) : P (runPasses n w).st := by
  induction n generalizing w with
  | zero => exact h
  | succ n ih =>
    unfold runPasses
    split
    · refine ih ?_
      rw [steeringPass_eq]
      exact hdemand _ (hbody { w with passDue := false, demandDue := false } h)
    · split
      · exact ih (hdemand { w with demandDue := false } h)
      · exact h

/-- A session served for a live flow of tier 0 (R90, R102). -/
structure State.Tier0Served (s : State) : Prop where
  service : s.exch.service = .service
  flow : s.tier0Flow = true
  demand : s.steer.demand = true
  urgent : s.steer.urgent = true
  linger : s.ru.lingerOn = false
  target : s.ru.target = .session

theorem recomputeDemand_serves {w : Work} (hservice : w.st.exch.service = .service) (hflow : w.st.tier0Flow = true) :
    (recomputeDemand w).st.Tier0Served := by
  have hkept := recomputeDemand_kept w
  have hwants : w.st.wantsSession = true := by
    unfold State.wantsSession
    rw [hflow]
    simp
  have hurgent : w.st.wantsUrgently = true := by
    unfold State.wantsUrgently
    rw [hflow]
    rfl
  have hstays : (recomputeDemand w).st.exch.service = .service := by rw [recomputeDemand_service]; exact hservice
  have hdemand : (recomputeDemand w).st.steer.demand = true := by rw [recomputeDemand_steer]; exact hwants
  refine ⟨hstays, (tier0Flow_of_kept hkept).trans hflow, hdemand, ?_, ?_, (recomputeDemand_onTarget w).trans ?_⟩
  · rw [recomputeDemand_steer]
    exact hurgent
  · rw [(recomputeDemand_linger w).1, demandSeen_ru, if_pos hwants]
  · unfold State.targetNow
    rw [if_neg (not_not.mpr hstays), hdemand]
    rfl

theorem passBody_serves {w : Work} (h : w.st.Tier0Served) : (passBody w).st.Tier0Served := by
  have hkept := passBody_kept w
  refine ⟨(service_of_kept hkept).trans h.service, (tier0Flow_of_kept hkept).trans h.flow, ?_, ?_, ?_, ?_⟩
  · rw [passBody_steer]
    exact h.demand
  · rw [passBody_steer]
    exact h.urgent
  · rw [passBody_unit]
    exact h.linger
  · rw [passBody_unit]
    exact h.target

theorem passes_serves {w : Work} (h : w.st.Tier0Served) : (passes w).st.Tier0Served :=
  runPasses_keeps (P := State.Tier0Served) (fun _ h => recomputeDemand_serves h.service h.flow)
    (fun _ h => passBody_serves h) Config.passFuel h

/-! ## A radio unit at rest with what it is handed -/

/-- A radio unit that its target and link move no further, nothing but demand being owed (R64, R73). -/
structure Work.AtRest (w : Work) : Prop where
  acts : w.st.ru.acts w.now = w.st.ru
  outside : w.st.ru.state ≠ .session ∧ w.st.ru.state ≠ .backoff
  settled : w.st.DemandSettled
  pass : w.passDue = false

theorem atRest_demand {w : Work} (h : w.AtRest) : (recomputeDemand { w with demandDue := false }).AtRest
    ∧ (recomputeDemand { w with demandDue := false }).st.ru = w.st.ru := by
  have hnot : ({ w with demandDue := false } : Work).st.ru.state ≠ .session := h.outside.1
  have hru := (recomputeDemand_settled (w := { w with demandDue := false }) h.settled h.outside.2).trans h.acts
  have hnow : (recomputeDemand { w with demandDue := false }).now = w.now :=
    congrArg Clock.ms (clk_of_kept (recomputeDemand_kept { w with demandDue := false }))
  obtain ⟨hpass, -, -⟩ := debts_iff.mp (recomputeDemand_debts hnot)
  refine ⟨⟨?_, ?_, recomputeDemand_settles hnot, hpass.trans h.pass⟩, hru⟩
  · rw [hru, hnow]
    exact h.acts
  · rw [hru]
    exact h.outside

theorem runPasses_atRest (n : Nat) {w : Work} (h : w.AtRest) : (runPasses n w).st.ru = w.st.ru := by
  induction n generalizing w with
  | zero => rfl
  | succ n ih =>
    unfold runPasses
    rw [if_neg (by rw [h.pass]; decide)]
    split
    · exact (ih (atRest_demand h).1).trans (atRest_demand h).2
    · rfl

theorem passes_atRest {w : Work} (h : w.AtRest) : (passes w).st.ru = w.st.ru := runPasses_atRest _ h

/-- IDLE, entered with a target, is at rest where it goes to (R57, R59). -/
theorem toIdle_rests {r : RadioUnit} (h : r.target = .session) (now : Time) :
    (r.toIdle now).acts now = r.toIdle now ∧ (r.toIdle now).state ≠ .session ∧ (r.toIdle now).state ≠ .backoff := by
  have hnot : (r.enter .idle now).target ≠ .off := by
    intro hoff
    cases h.symm.trans hoff
  unfold RadioUnit.toIdle RadioUnit.actsIdle
  rw [if_neg hnot]
  split
  · exact ⟨rfl, RadioState.noConfusion, RadioState.noConfusion⟩
  · next hheld =>
    refine ⟨?_, RadioState.noConfusion, RadioState.noConfusion⟩
    change (r.enter .idle now).actsIdle now = _
    unfold RadioUnit.actsIdle
    rw [if_neg hnot, if_neg hheld]

end Sys2Proof.Machine
end


section
/-! Which flow records an event rewrites: what the radio unit does outside SESSION, and what demand hands on, rewrites
none (R116, R117). -/

namespace Sys2Proof.Machine

def Rec.ofFlow : Rec → Bool
  | .flow _ => true
  | _ => false

/-- The flow records that the event has rewritten. -/
def Work.flowsTold (w : Work) : List Rec := w.touched.filter Rec.ofFlow

theorem told_congr {v w : Work} (h : v.touched = w.touched) : v.flowsTold = w.flowsTold :=
  congrArg (List.filter Rec.ofFlow) h

theorem touch_told {r : Rec} (h : r.ofFlow = false) (w : Work) : (w.touch r).flowsTold = w.flowsTold := by
  unfold Work.flowsTold
  rw [touch_touched, List.filter_cons, if_neg (by rw [h]; decide)]

theorem touchIf_told {r : Rec} (h : r.ofFlow = false) (b : Bool) (w : Work) :
    (w.touchIf b r).flowsTold = w.flowsTold := by
  cases b with
  | false => rfl
  | true => exact touch_told h w

theorem handConditions_told (w : Work) : (handConditions w).flowsTold = w.flowsTold := by
  unfold handConditions
  by_cases h : w.st.facts = w.st.ev.cond
  · rw [if_pos h]
  · rw [if_neg h, touch_told (r := .header) rfl]
    exact told_congr (onEv_touched w _)

theorem sendRequest_told (k : Request) (w : Work) : (sendRequest k w).flowsTold = w.flowsTold := touch_told rfl _

theorem startTimer_told (ms : Nat) (w : Work) : (startTimer ms w).flowsTold = w.flowsTold := rfl

theorem drivePower_told (w : Work) : (drivePower w).flowsTold = w.flowsTold := by
  unfold drivePower
  split <;> rfl

theorem setTarget_told (w : Work) : (setTarget w).flowsTold = w.flowsTold := touchIf_told rfl _ _

theorem demandSeen_told (w : Work) : (demandSeen w).flowsTold = w.flowsTold := by
  have hseen : ∀ (old new : Bool) (v : Work), (lingerSees old new v).flowsTold = v.flowsTold := by
    intro old new v
    unfold lingerSees
    split
    · exact touchIf_told rfl _ _
    · split
      · exact touch_told rfl _
      · rfl
  exact (hseen _ _ _).trans (touchIf_told rfl _ _)

section
variable {w : Work} (hs : w.st.ru.state ≠ .session)
include hs

theorem moveTo_told (n : RadioState) : (moveTo n w).flowsTold = w.flowsTold := by
  unfold moveTo
  dsimp only
  rw [if_neg fun hc => hs hc.1, handConditions_told, touchIf_told rfl]
  rfl

theorem enterStopping_told : (enterStopping w).flowsTold = w.flowsTold := by
  have hmoved := moveTo_told hs .stopping
  have hnot : (moveTo .stopping w).st.ru.state ≠ .session := by rw [moveTo_state]; decide
  unfold enterStopping
  dsimp only
  split
  · rw [startTimer_told, drivePower_told, hmoved]
  · rw [moveTo_told hnot .off, hmoved]

theorem actIdle_told : (actIdle w).flowsTold = w.flowsTold := by
  unfold actIdle
  split
  · exact enterStopping_told hs
  · split
    · rw [sendRequest_told, moveTo_told hs .attaching]
    · rfl

theorem enterIdle_told : (enterIdle w).flowsTold = w.flowsTold := by
  have hnot : (moveTo .idle w).st.ru.state ≠ .session := by rw [moveTo_state]; decide
  unfold enterIdle
  rw [actIdle_told hnot, moveTo_told hs .idle]

theorem actOff_told : (actOff w).flowsTold = w.flowsTold := by
  unfold actOff
  split
  · rfl
  · split
    · exact enterIdle_told hs
    · rw [startTimer_told, drivePower_told, moveTo_told hs .powering]

theorem actAttached_told : (actAttached w).flowsTold = w.flowsTold := by
  unfold actAttached
  split
  · rfl
  · split
    · rw [sendRequest_told, moveTo_told hs .opening]
    · rfl
  · split
    · rw [sendRequest_told, moveTo_told hs .detaching]
    · rfl

theorem act_told : (act w).flowsTold = w.flowsTold := by
  unfold act
  split
  · exact actOff_told hs
  · exact actIdle_told hs
  · exact actAttached_told hs
  · next h => exact absurd h hs
  all_goals rfl

theorem recomputeTarget_told : (recomputeTarget w).flowsTold = w.flowsTold := by
  have hset : (setTarget w).st.ru.state ≠ .session := hs
  unfold recomputeTarget
  dsimp only
  split
  · split
    · rw [enterIdle_told hset, setTarget_told]
    · exact setTarget_told w
  · rw [act_told hset, setTarget_told]

theorem recomputeDemand_told : (recomputeDemand w).flowsTold = w.flowsTold := by
  have hseen : (demandSeen w).st.ru.state ≠ .session := by
    obtain ⟨a, b, hru⟩ := demandSeen_unit w
    rw [hru]
    exact hs
  have hset : (setTarget (demandSeen w)).st.ru.state ≠ .session := hseen
  rw [recomputeDemand_eq]
  unfold urgencySees
  split
  · rw [enterIdle_told hset, setTarget_told, demandSeen_told]
  · rw [recomputeTarget_told hseen, demandSeen_told]

end

/-- Demand, recomputed, where no session closes: flow records, frames and what the event owes stay (R90). -/
theorem recomputeDemand_standing_told {w : Work} (hended : w.drillEnded = false) (h : w.st.standsOn) :
    (recomputeDemand w).flowsTold = w.flowsTold := by
  by_cases hs : w.st.ru.state = .session
  · have htarget : (demandSeen w).st.targetNow = .session :=
      h.elim (absurd hs) fun ⟨hservice, hkeeps⟩ => demandSeen_standsOn hended hservice hkeeps
    have hsession : (demandSeen w).st.ru.state = .session := by
      obtain ⟨a, b, hru⟩ := demandSeen_unit w
      rw [hru]
      exact hs
    rw [recomputeDemand_eq, urgencySees_session _ _ hsession htarget, setTarget_told, demandSeen_told]
  · exact recomputeDemand_told hs

theorem recomputeDemand_standing_fwd {w : Work} (hended : w.drillEnded = false) (h : w.st.standsOn) :
    (recomputeDemand w).st.fwd = w.st.fwd := by
  by_cases hs : w.st.ru.state = .session
  · have htarget : (demandSeen w).st.targetNow = .session :=
      h.elim (absurd hs) fun ⟨hservice, hkeeps⟩ => demandSeen_standsOn hended hservice hkeeps
    obtain ⟨t, r, hst, -⟩ := recomputeDemand_session hs htarget
    exact (congrArg State.fwd hst :)
  · obtain ⟨r, hseen⟩ := demandSeen_only w
    have hnot : (demandSeen w).st.ru.state ≠ .session := by
      obtain ⟨a, b, hru⟩ := demandSeen_unit w
      rw [hru]
      exact hs
    obtain ⟨q, e, -, hst⟩ := urgencySees_ruOnly w.st.steer.urgent w.st.wantsUrgently hnot
    rw [recomputeDemand_eq, hst, hseen]

/-- The records of a table of which the event rewrites one, and no other's fields change (R117). -/
theorem countFlows_set {touched : List Rec} (h : ∀ j, Rec.flow j ∉ touched) (g : FlowRec) (l : List FlowRec) (k n : Nat)
    (hk : k < l.length) (d : FlowRec) (hne : flowFields (l.getD k d) ≠ flowFields g) :
    countFlows touched n l (l.set k g) = l.set k { g with count := g.count + 2 } := by
  have hsame : ∀ (m : List FlowRec) (n : Nat), countFlows touched n m m = m := by
    intro m
    induction m with
    | nil => intro n; rfl
    | cons f m ih =>
      intro n
      have hcontains : touched.contains (Rec.flow n) = false := by
        rw [List.contains_eq_mem, decide_eq_false (h n)]
      show { f with count := nextCount (touched.contains (.flow n)
        || (decide (f ≠ f) && decide (flowFields f ≠ flowFields f))) f.count } :: countFlows touched (n + 1) m m = _
      rw [ih, hcontains, decide_eq_false (not_not.mpr (rfl : f = f))]
      rfl
  induction l generalizing k n with
  | nil => cases hk
  | cons f l ih =>
    cases k with
    | zero =>
      have hfields : flowFields f ≠ flowFields g := hne
      have hrec : f ≠ g := fun e => hfields (congrArg flowFields e)
      show { g with count := nextCount (touched.contains (.flow n)
        || (decide (f ≠ g) && decide (flowFields f ≠ flowFields g))) g.count } :: countFlows touched (n + 1) l l = _
      rw [hsame, decide_eq_true hrec, Bool.true_and, decide_eq_true hfields, Bool.or_true]
      rfl
    | succ k =>
      have hcontains : touched.contains (Rec.flow n) = false := by
        rw [List.contains_eq_mem, decide_eq_false (h n)]
      show { f with count := nextCount (touched.contains (.flow n)
        || (decide (f ≠ f) && decide (flowFields f ≠ flowFields f))) f.count }
          :: countFlows touched (n + 1) l (l.set k g) = _
      rw [ih k (n + 1) (Nat.lt_of_succ_lt_succ hk) hne, hcontains, decide_eq_false (not_not.mpr (rfl : f = f))]
      rfl

end Sys2Proof.Machine
end


section
/-! OPEN FLOW's own work (R101, R102): the lowest FREE record, the drill it aborts, demand recomputed, and the restart out
of FAULT. -/

namespace Sys2Proof.Machine

theorem lowestFree_eq {fs : List FlowRec} {d : FlowRec} {k : Nat} (hk : k < fs.length) (hfree : (fs.getD k d).state = .free)
    (hbelow : ∀ j < k, (fs.getD j d).state ≠ .free) (n : Nat) : lowestFree n fs = some (n + k) := by
  induction fs generalizing k n with
  | nil => cases hk
  | cons f fs ih =>
    unfold lowestFree
    cases k with
    | zero => exact if_pos hfree
    | succ k =>
      have hnot : f.state ≠ .free := hbelow 0 (Nat.succ_pos k)
      rw [if_neg hnot, ih (Nat.lt_of_succ_lt_succ hk) hfree fun j hj => hbelow (j + 1) (Nat.succ_lt_succ hj)]
      exact congrArg some (Nat.succ_add_eq_add_succ n k)

/-- The record as OPEN FLOW allocates it (R101). -/
def State.openedFlow (s : State) (k cls idle : Nat) : FlowRec :=
  FlowRec.opening cls idle (s.cls cls).cur s.now (s.flow k)

/-- The record allocated, conditions and the drill unit's view of it handed on (R101, R160). -/
def flowAdded (k : Nat) (f : FlowRec) (s : State) : Work :=
  drillSeesFlow k (handConditions ((Work.begin s).onFlow k fun _ => f))

theorem openFlow_eq (k cls idle : Nat) (s : State) : openFlow k cls idle (Work.begin s)
    = restartSees cls (recomputeDemand (flowAdded k (s.openedFlow k cls idle) s)) := rfl

theorem orderOpenFlow_eq {ps : List Byte} {s : State} {k : Nat} (hcls : param ps 0 1 ≤ 7)
    (hservice : s.exch.service = .service) (hk : k < s.flows.length) (hfree : (s.flow k).state = .free)
    (hbelow : ∀ j < k, (s.flow j).state ≠ .free) : orderOpenFlow ps (Work.begin s) =
      { work := openFlow k (param ps 0 1) (min (param ps 1 4) 65535) (Work.begin s),
        result := if min (param ps 1 4) 65535 = param ps 1 4 then ResultCode.ok else .clamped,
        answer := openAnswer k (param ps 0 1) } := by
  have hlowest : lowestFree 0 (Work.begin s).st.flows = some k :=
    (lowestFree_eq hk hfree hbelow 0).trans (congrArg some (Nat.zero_add k))
  have hserves : ¬(Work.begin s).st.exch.service ≠ .service := not_not.mpr hservice
  unfold orderOpenFlow
  dsimp only
  rw [if_neg (Nat.not_lt.mpr hcls), if_neg hserves, hlowest]
  dsimp only
  rw [
    okOrClamped_eq (p := min (param ps 1 4) 65535 = param ps 1 4) (decide_eq_true_iff (p := ¬_ = _))]

section
variable {k : Nat} {f : FlowRec} {s : State}

/-- The state with the record allocated. -/
def State.withFlow (s : State) (k : Nat) (f : FlowRec) : State := { s with flows := s.flows.set k f }

theorem withFlow_flow (hk : k < s.flows.length) : (s.withFlow k f).flow k = f := getD_set_self hk _ _

theorem addedFlow (hk : k < s.flows.length) :
    (s.withFlow k f).OnlyEv (handConditions ((Work.begin s).onFlow k fun _ => f)).st
    ∧ (handConditions ((Work.begin s).onFlow k fun _ => f)).st.flow k = f
    ∧ (handConditions ((Work.begin s).onFlow k fun _ => f)).debts = (Work.begin s).debts := by
  have honly : (s.withFlow k f).OnlyEv (handConditions ((Work.begin s).onFlow k fun _ => f)).st :=
    handConditions_onlyEv ((Work.begin s).onFlow k fun _ => f)
  have hst := honly.choose_spec.2
  refine ⟨honly, ?_, handConditions_debts _⟩
  rw [hst]
  exact withFlow_flow hk

/-- Where no drill ends, the opening changes the record alone (R101). -/
theorem flowAdded_rests (hk : k < s.flows.length) (h : s.drill.running = false ∨ f.state.wantsRadio = false) :
    flowAdded k f s = handConditions ((Work.begin s).onFlow k fun _ => f) := by
  obtain ⟨⟨e, -, hst⟩, hflow, -⟩ := addedFlow (f := f) hk
  unfold flowAdded drillSeesFlow
  rw [hflow]
  generalize handConditions ((Work.begin s).onFlow k fun _ => f) = v at *
  split
  · next hwants =>
    refine endDrill_idle _ _ _ ?_
    rw [hst]
    exact h.elim id fun hnot => absurd hwants (by rw [hnot]; decide)
  · rfl

/-- A drill that a flow on radio ends (R160). -/
theorem flowAdded_aborts (hk : k < s.flows.length) (hrun : s.drill.running = true) (hwants : f.state.wantsRadio = true) :
    ({ s.withFlow k f with drill := (s.withFlow k f).drillEnded .aborted .realUse } : State).OnlyEv (flowAdded k f s).st
    ∧ (flowAdded k f s).passDue = false := by
  obtain ⟨⟨e, he, hst⟩, hflow, hdebts⟩ := addedFlow (f := f) hk
  obtain ⟨hpass, -, -⟩ := debts_iff.mp hdebts
  unfold flowAdded drillSeesFlow
  rw [hflow, if_pos hwants]
  generalize handConditions ((Work.begin s).onFlow k fun _ => f) = v at *
  have hrunning : v.st.drill.running = true := by rw [hst]; exact hrun
  have honly := endDrill_onlyEv .aborted .realUse v hrunning
  refine ⟨?_, ?_⟩
  · rw [hst] at honly
    obtain ⟨e', he', hended⟩ := honly
    exact ⟨e', he'.trans he, hended⟩
  · rw [endDrill_eq _ _ _ hrunning]
    obtain ⟨hended, -⟩ := endedWork_debts (handConditions (latch Bit.drillEnd (v.onDrill (Drill.closed v.st .aborted .realUse))))
    exact hended.trans ((handConditions_passDue _).trans hpass)

/-- What the opening leaves in both cases. -/
theorem flowAdded_only (hk : k < s.flows.length) : ∃ d, d.settings = s.drill.settings
    ∧ ({ s.withFlow k f with drill := d } : State).OnlyEv (flowAdded k f s).st ∧ (flowAdded k f s).passDue = false := by
  by_cases h : s.drill.running = true ∧ f.state.wantsRadio = true
  · obtain ⟨honly, hpass⟩ := flowAdded_aborts hk h.1 h.2
    exact ⟨(s.withFlow k f).drillEnded .aborted .realUse, rfl, honly, hpass⟩
  · have hrests : s.drill.running = false ∨ f.state.wantsRadio = false := by
      rw [not_and_or, Bool.not_eq_true, Bool.not_eq_true] at h
      exact h
    obtain ⟨honly, -, hdebts⟩ := addedFlow (f := f) hk
    obtain ⟨hpass, -, -⟩ := debts_iff.mp hdebts
    rw [flowAdded_rests hk hrests]
    exact ⟨s.drill, rfl, honly, hpass⟩

/-- What OPEN FLOW's passes and answer never change. -/
theorem flowAdded_fields (hk : k < s.flows.length) : (flowAdded k f s).passDue = false
    ∧ (flowAdded k f s).st.kept = (s.withFlow k f).kept ∧ (flowAdded k f s).st.ru = s.ru
    ∧ (flowAdded k f s).st.steer = s.steer ∧ (flowAdded k f s).st.radio = s.radio := by
  obtain ⟨d, hd, ⟨e, he, hst⟩, hpass⟩ := flowAdded_only (f := f) hk
  have honly : ({ s.withFlow k f with drill := d } : State).OnlyEv (flowAdded k f s).st := ⟨e, he, hst⟩
  refine ⟨hpass, honly.kept.trans ?_, (congrArg State.ru hst :), (congrArg State.steer hst :), (congrArg State.radio hst :)⟩
  unfold State.kept
  dsimp only
  rw [hd] <;> rfl

end

/-! ## The restart out of FAULT (R67, R102) -/

theorem restartSees_rests {cls : Nat} {w : Work}
    (h : ¬((w.st.cls cls).tier = 0 ∧ w.st.fibreUsable = false) ∨ w.st.ru.state ≠ .fault) : restartSees cls w = w := by
  unfold restartSees tier0Restart
  split
  · next hyes =>
    rw [if_neg (h.elim (fun hno => absurd hyes hno) id)]
  · rfl

/-- A radio unit that restarts (R59, R67). -/
def RadioUnit.restarted (now : Time) (r : RadioUnit) : RadioUnit :=
  ({ r with attachTimeouts := 0, resets := 0, b := 10 } : RadioUnit).toResetting now

theorem restartSees_fault {cls : Nat} {w : Work} (h : (w.st.cls cls).tier = 0 ∧ w.st.fibreUsable = false)
    (hfault : w.st.ru.state = .fault) : w.st.RuOnly (restartSees cls w).st
      ∧ (restartSees cls w).st.ru = w.st.ru.restarted w.now ∧ latched (bitMask 9) (restartSees cls w).st := by
  have heq : restartSees cls w = enterResetting (exitFault w) := by
    unfold restartSees tier0Restart
    rw [if_pos h, if_pos hfault]
  have hexit : w.st.RuOnly (exitFault w).st := ⟨_, _, latch_sameLoss (by decide) (by decide) (w.onRu fun r =>
    { r with attachTimeouts := 0, resets := 0, b := 10 }), rfl⟩
  have hnot : (exitFault w).st.ru.state ≠ .session := by
    intro hs
    exact RadioState.noConfusion (hfault.symm.trans hs)
  rw [heq]
  refine ⟨hexit.trans (enterResetting_ruOnly _ hnot), enterResetting_ru (exitFault w), ?_⟩
  have hlatched : latched (bitMask 9) (exitFault w).st := latch_latched 9 (w.onRu fun r =>
    { r with attachTimeouts := 0, resets := 0, b := 10 })
  exact (closedLatched _).enterResetting trivial _ hlatched

end Sys2Proof.Machine
end


section
/-! OPEN FLOW's demand and restart (R90, R101, R102). -/

namespace Sys2Proof.Machine

theorem identity_live (f : FlowRec) : f.identity.state.live = f.state.live := by
  obtain ⟨state⟩ := f
  cases state <;> rfl

theorem flow_identity_of_kept {s t : State} (h : s.kept = t.kept) (k : Nat) : (s.flow k).identity = (t.flow k).identity := by
  have hmap : s.flows.map FlowRec.identity = t.flows.map FlowRec.identity := (congrArg State.flows h :)
  have hget := congrArg (fun l : List FlowRec => l[k]?) hmap
  simp only [List.getElem?_map] at hget
  unfold State.flow
  rw [List.getD_eq_getElem?_getD, List.getD_eq_getElem?_getD]
  generalize s.flows[k]? = a at hget
  generalize t.flows[k]? = b at hget
  cases a <;> cases b <;> simp_all

theorem fibreUsable_of_kept {s t : State} (h : s.kept = t.kept) : s.fibreUsable = t.fibreUsable := by
  have hfibre : s.fibre = t.fibre := (congrArg State.fibre h :)
  unfold State.fibreUsable
  rw [hfibre]

/-- What an opening asks of the radio unit: a class of tier 0 without usable fibre (R102). -/
def State.needsRestart (s : State) (cls : Nat) : Prop := (s.cls cls).tier = 0 ∧ s.fibreUsable = false

theorem needsRestart_of_kept {s t : State} (h : s.kept = t.kept) (cls : Nat) :
    s.needsRestart cls ↔ t.needsRestart cls := by
  unfold State.needsRestart
  rw [tier_of_policy (cls_policy_of_kept h cls), fibreUsable_of_kept h]

section
variable {cls : Nat} {u : Work}

theorem opened_kept (h : u.st.ru.state ≠ .fault) :
    restartSees cls (recomputeDemand u) = recomputeDemand u
    ∧ (restartSees cls (recomputeDemand u)).st.kept = u.st.kept := by
  have hnot : (recomputeDemand u).st.ru.state ≠ .fault := closed_noFault.recomputeDemand trivial u h
  rw [restartSees_rests (Or.inr hnot)]
  exact ⟨rfl, recomputeDemand_kept u⟩

/-- The restart, or none, leaves all but the radio unit. -/
theorem restartSees_ruOnly (w : Work) : w.st.RuOnly (restartSees cls w).st := by
  by_cases h : ((w.st.cls cls).tier = 0 ∧ w.st.fibreUsable = false) ∧ w.st.ru.state = .fault
  · exact (restartSees_fault h.1 h.2).1
  · rw [restartSees_rests (not_and_or.mp h)]
    exact .refl _

theorem opened_keptByModem : (restartSees cls (recomputeDemand u)).st.keptByModem = u.st.keptByModem
    ∧ (restartSees cls (recomputeDemand u)).st.grade = u.st.grade := by
  refine ⟨(closed_keptByModem u.st.keptByModem).restartSees trivial cls _
    (keptByModem_of_kept (recomputeDemand_kept u)), ?_⟩
  obtain ⟨r, e, -, hst⟩ := restartSees_ruOnly (cls := cls) (recomputeDemand u)
  rw [hst]
  exact (congrArg State.grade (recomputeDemand_kept u) :)

/-- The drill is as the opening leaves it. -/
theorem opened_drill : (restartSees cls (recomputeDemand u)).st.drill = u.st.drill := by
  obtain ⟨r, e, -, hst⟩ := restartSees_ruOnly (cls := cls) (recomputeDemand u)
  rw [hst]
  exact (demanding_demandKeeps.recomputeDemand u).drill

theorem restartSees_aim (w : Work) : (restartSees cls w).st.ru.lingerOn = w.st.ru.lingerOn
    ∧ (restartSees cls w).st.ru.target = w.st.ru.target := by
  by_cases h : ((w.st.cls cls).tier = 0 ∧ w.st.fibreUsable = false) ∧ w.st.ru.state = .fault
  · rw [(restartSees_fault h.1 h.2).2.1]
    exact ⟨rfl, rfl⟩
  · rw [restartSees_rests (not_and_or.mp h)]
    exact ⟨rfl, rfl⟩

theorem opened_serves (hservice : u.st.exch.service = .service) (hflow : u.st.tier0Flow = true) :
    (restartSees cls (recomputeDemand u)).st.Tier0Served := by
  have hserves := recomputeDemand_serves hservice hflow
  obtain ⟨hlinger, htarget⟩ := restartSees_aim (cls := cls) (recomputeDemand u)
  obtain ⟨r, e, -, hst⟩ := restartSees_ruOnly (cls := cls) (recomputeDemand u)
  have hkeeps : ∀ t : State, t.Tier0Served → ∀ (r : RadioUnit) (e : EventUnit), r.lingerOn = t.ru.lingerOn →
      r.target = t.ru.target → ({ t with ru := r, ev := e } : State).Tier0Served := fun t h r e hl ht =>
    ⟨h.service, h.flow, h.demand, h.urgent, hl.trans h.linger, ht.trans h.target⟩
  rw [hst] at hlinger htarget ⊢
  exact hkeeps _ hserves r e hlinger htarget

theorem opened_fault (hneeds : u.st.needsRestart cls) (hfault : u.st.ru.state = .fault) :
    let x := restartSees cls (recomputeDemand u)
    x.st.ru.state = .resetting ∧ x.st.ru.b = 10 ∧ x.st.ru.resets = 1 ∧ x.st.ru.attachTimeouts = 0
      ∧ latched (bitMask 9) x.st := by
  have hneeds' := (needsRestart_of_kept (recomputeDemand_kept u) cls).mpr hneeds
  have hstays := recomputeDemand_fault hfault
  obtain ⟨-, hru, hlatched⟩ := restartSees_fault hneeds' hstays
  dsimp only
  rw [hru]
  exact ⟨rfl, rfl, rfl, rfl, hlatched⟩

theorem enterIdle_target (w : Work) : (enterIdle w).st.ru.target = w.st.ru.target :=
  (walk_target w.st.ru.target).enterIdle w rfl

/-- Urgent demand that ends a BACKOFF (R64, R102). -/
theorem opened_backoff (hstate : u.st.ru.state = .backoff) (hold : u.st.steer.urgent = false)
    (hservice : u.st.exch.service = .service) (hflow : u.st.tier0Flow = true) :
    ∃ a b, (recomputeDemand u).st.ru = ({ u.st.ru with lingerOn := a, lingerStart := b, target := .session } : RadioUnit).toIdle u.now := by
  have hserves := recomputeDemand_serves hservice hflow
  obtain ⟨a, b, hseen⟩ := demandSeen_unit u
  have hback : (demandSeen u).st.ru.state = .backoff := by
    rw [hseen]
    exact hstate
  have hurgent : u.st.wantsUrgently = true := by
    have := hserves.urgent
    rw [recomputeDemand_steer] at this
    exact this
  have hidles : recomputeDemand u = enterIdle (setTarget (demandSeen u)) := by
    rw [recomputeDemand_eq]
    unfold urgencySees
    rw [hold, hurgent, decide_eq_true hback]
    exact if_pos rfl
  have htarget := enterIdle_target (setTarget (demandSeen u))
  have hset : (setTarget (demandSeen u)).st.ru = { (demandSeen u).st.ru with target := (demandSeen u).st.targetNow } :=
    (congrArg State.ru (setTarget_unit (demandSeen u)) :)
  rw [← hidles, hserves.target, hset] at htarget
  have haim : Target.session = (demandSeen u).st.targetNow := htarget
  rw [hidles]
  have hnow : (setTarget (demandSeen u)).now = u.now := demandSeen_now u
  refine ⟨a, b, ?_⟩
  rw [enterIdle_ru, hnow, hset, ← haim, hseen]

end

/-- A radio unit at rest after an opening in BACKOFF stays through its passes. -/
theorem opened_atRest {u : Work} (hpass : u.passDue = false) (hstate : u.st.ru.state = .backoff)
    (hold : u.st.steer.urgent = false) (hservice : u.st.exch.service = .service) (hflow : u.st.tier0Flow = true) :
    (recomputeDemand u).AtRest := by
  obtain ⟨a, b, hru⟩ := opened_backoff hstate hold hservice hflow
  have hnot : u.st.ru.state ≠ .session := by rw [hstate]; decide
  have hnow : (recomputeDemand u).now = u.now := congrArg Clock.ms (clk_of_kept (recomputeDemand_kept u))
  obtain ⟨hdebt, -, -⟩ := debts_iff.mp (recomputeDemand_debts hnot)
  obtain ⟨hacts, hsession, hbackoff⟩ := toIdle_rests
    (r := { u.st.ru with lingerOn := a, lingerStart := b, target := .session }) rfl u.now
  refine ⟨?_, ?_, recomputeDemand_settles hnot, hdebt.trans hpass⟩
  · rw [hru, hnow]
    exact hacts
  · rw [hru]
    exact ⟨hsession, hbackoff⟩

end Sys2Proof.Machine
end


section
/-! OPEN FLOW as an event (R101, R102), and both orders of the flow table. -/

namespace Sys2Proof.Machine

theorem finish_flows_eq (s0 : State) (w : Work) :
    (finish s0 w).flows = countFlows (handConditions w).touched 0 s0.flows w.st.flows := by
  show countFlows (reportFlows s0.flows (handConditions w)).touched 0 s0.flows
    (reportFlows s0.flows (handConditions w)).st.flows = _
  rw [reportFlows_touched, reportFlows_flows, handConditions_flows]

theorem untold_of_told {w : Work} (h : w.flowsTold = []) (j : Nat) : Rec.flow j ∉ w.touched := fun hj => by
  have hmem : Rec.flow j ∈ w.flowsTold := List.mem_filter.mpr ⟨hj, rfl⟩
  rw [h] at hmem
  exact List.not_mem_nil hmem

theorem flowFields_state {f g : FlowRec} (h : f.state.code ≠ g.state.code) : flowFields f ≠ flowFields g := fun he =>
  h (congrArg Field.val (List.cons.inj he).1 :)

/-- An order that opens one record and rewrites no other (R101, R117). -/
theorem takeKind_oneFlow {kind i k : Nat} {rest : List Nat} {s : State} {body : List Byte → Work → Answered} {v : Work}
    {g : FlowRec} (hoffers : s.offersKind kind i rest) (hv : (body (slotParams s.mem i) (Work.begin s)).work = v)
    (hk : k < s.flows.length) (hflows : (passes v).st.flows = s.flows.set k g) (htold : (passes v).flowsTold = [])
    (hne : (s.flow k).state.code ≠ g.state.code) :
    (takeKind kind body s).flows = s.flows.set k { g with count := g.count + 2 } := by
  subst hv
  rw [takeKind_eq kind body s i rest hoffers]
  dsimp only
  generalize passes (body (slotParams s.mem i) (Work.begin s)).work = w at *
  rw [finish_flows_eq]
  have hanswer : ∀ r ans, (handConditions (writeAnswer i rest (slotTicket s.mem i) r ans w)).flowsTold = [] := fun r ans =>
    (handConditions_told _).trans ((touch_told (r := .header) rfl _).trans htold)
  exact (congrArg (countFlows _ 0 s.flows) hflows).trans
    (countFlows_set (untold_of_told (hanswer _ _)) g s.flows k 0 hk (FlowRec.freed 0) (flowFields_state hne))

theorem openAnswer_congr {s t : State} {k cls : Nat} (hflow : (s.flow k).content = (t.flow k).content)
    (hcls : (s.cls cls).content = (t.cls cls).content) : openAnswer k cls s = openAnswer k cls t := by
  have hstate : (s.flow k).state = (t.flow k).state := (congrArg FlowRec.state hflow :)
  have hcur : (s.cls cls).cur = (t.cls cls).cur := (congrArg ClassRec.cur hcls :)
  unfold openAnswer
  dsimp only
  rw [hstate, hcur]

theorem openedFlow_identity (s : State) (k cls idle : Nat) : (s.openedFlow k cls idle).identity
    = ({ FlowRec.freed 0 with
        state := .waiting, cls := cls, opened := s.now, lastFrame := s.now, idle := idle } : FlowRec).identity := by
  unfold State.openedFlow FlowRec.opening
  generalize (s.cls cls).cur = path
  cases path <;> rfl

theorem withFlow_kept {s : State} {k : Nat} {f g : FlowRec} (h : f.identity = g.identity) :
    (s.withFlow k f).kept = ({ s with flows := s.flows.set k g } : State).kept := by
  refine kept_of_identity (s := { s with flows := s.flows.set k g }) ?_
  rw [List.map_set, List.map_set, h]

theorem opened_tier0 {s : State} {k cls idle : Nat} (hk : k < s.flows.length) (h : s.needsRestart cls) :
    (s.withFlow k (s.openedFlow k cls idle)).tier0Flow = true := by
  have hlive : (s.openedFlow k cls idle).state.live = true := by
    rw [← identity_live, openedFlow_identity]
    rfl
  refine (tier0Flow_iff _).mpr ⟨fun husable => ?_, s.openedFlow k cls idle, List.mem_set hk _, (live_iff _).mp hlive, h.1⟩
  exact Bool.false_ne_true (h.2.symm.trans ((fibreUsable_iff s).mpr husable))

section
variable {s : State} {k cls idle : Nat} (hk : k < s.flows.length) (hservice : s.exch.service = .service)
include hk hservice

/-- Where no session, drill or fault can owe a pass, the opened record is whole and frames stay (R101). -/
theorem openFlow_whole (hdrill : s.drill.running = false) (hfault : s.ru.state ≠ .fault)
    (hstands : s.ru.state ≠ .session ∨ s.ru.lingerOn = true ∨ s.cappedStandby = .session ∨ (s.cls cls).cur = .radio
      ∨ (s.cls cls).cur = .waiting ∨ (s.steer.demand = true ∧ 0 < s.effectiveLinger)) :
    let v := passes (openFlow k cls idle (Work.begin s))
    v.st.flows = s.flows.set k (s.openedFlow k cls idle) ∧ v.flowsTold = [] ∧ v.st.fwd = s.fwd := by
  have hrests := flowAdded_rests (f := s.openedFlow k cls idle) hk (Or.inl hdrill)
  obtain ⟨⟨e, -, hst⟩, -, hdebts⟩ := addedFlow (f := s.openedFlow k cls idle) hk
  have htold : (handConditions ((Work.begin s).onFlow k fun _ => s.openedFlow k cls idle)).flowsTold = [] :=
    handConditions_told _
  rw [openFlow_eq, hrests]
  generalize handConditions ((Work.begin s).onFlow k fun _ => s.openedFlow k cls idle) = u at *
  obtain ⟨hpass, hdue, hended⟩ := debts_iff.mp hdebts
  have hru : u.st.ru = s.ru := (congrArg State.ru hst :)
  have hexch : u.st.exch = s.exch := (congrArg State.exch hst :)
  have hsteer : u.st.steer = s.steer := (congrArg State.steer hst :)
  have hsup : u.st.sup = s.sup := (congrArg State.sup hst :)
  have hflows : u.st.flows = s.flows.set k (s.openedFlow k cls idle) := (congrArg State.flows hst :)
  have hwants : (s.cls cls).cur = .radio ∨ (s.cls cls).cur = .waiting → u.st.wantsSession = true := fun h => by
    refine (wantsSession_iff _).mpr (Or.inr (Or.inl ⟨s.openedFlow k cls idle, ?_, ?_⟩))
    · rw [hflows]
      exact List.mem_set hk _
    · unfold State.openedFlow FlowRec.opening
      exact h.imp (fun h => by rw [h]; rfl) (fun h => by rw [h]; rfl)
  have hstandsOn : u.st.standsOn := by
    unfold State.standsOn State.cappedStandby State.effectiveLinger
    rw [hru, hsteer, hexch, hsup]
    refine hstands.imp_right fun h => ⟨hservice, ?_⟩
    rcases h with h | h | h | h | h
    · exact Or.inr (Or.inr (Or.inl h))
    · exact Or.inr (Or.inl h)
    · exact Or.inl (hwants (Or.inl h))
    · exact Or.inl (hwants (Or.inr h))
    · exact Or.inr (Or.inr (Or.inr h))
  obtain ⟨hsame, -⟩ := opened_kept (cls := cls) (u := u) (by rw [hru]; exact hfault)
  obtain ⟨hpass', hdue', -⟩ := debts_iff.mp (recomputeDemand_standsOn hended hstandsOn)
  have hidle : passes (recomputeDemand u) = recomputeDemand u :=
    runPasses_idle _ (hpass'.trans hpass) (hdue'.trans hdue)
  dsimp only
  rw [hsame, hidle]
  exact ⟨(recomputeDemand_flows u).1.trans hflows, (recomputeDemand_standing_told hended hstandsOn).trans htold,
    (recomputeDemand_standing_fwd hended hstandsOn).trans (congrArg State.fwd hst :)⟩

end

theorem answered_keptByModem {s t : State} (h : s.keptByModem = t.keptByModem) (i : Nat) (rest : List Nat)
    (r : ResultCode) (ans : List Byte) :
    (s.answered i rest r ans).keptByModem = (t.answered i rest r ans).keptByModem :=
  congrArg (fun u : State => u.answered i rest r ans) h

theorem takeKind_keptByModem_of {kind i : Nat} {rest : List Nat} {s r : State} {body : List Byte → Work → Answered}
    {v : Work} {result : ResultCode} {answer : State → List Byte} (hoffers : s.offersKind kind i rest)
    (hbody : body (slotParams s.mem i) (Work.begin s) = { work := v, result := result, answer := answer })
    (hkept : v.st.keptByModem = r.keptByModem) (hmem : r.mem = s.mem) :
    (takeKind kind body s).keptByModem = (r.answered i rest result (answer (passes v).st)).keptByModem := by
  have hv : v.st.mem = s.mem := (congrArg State.mem hkept :).trans hmem
  exact (keptByModem_of_kept (takeKind_kept_of (r := v.st) hoffers hbody rfl hv)).trans
    (answered_keptByModem hkept i rest result _)

/-- The kept state of an opening (R101, R102). -/
theorem openFlow_kept {s : State} {k cls idle : Nat} (hk : k < s.flows.length) :
    let opened : FlowRec := { FlowRec.freed 0 with
      state := .waiting, cls := cls, opened := s.now, lastFrame := s.now, idle := idle }
    let x := openFlow k cls idle (Work.begin s)
    x.st.keptByModem = ({ s with flows := s.flows.set k opened } : State).keptByModem ∧ x.st.grade = s.grade
      ∧ (s.ru.state ≠ .fault → x.st.kept = ({ s with flows := s.flows.set k opened } : State).kept) := by
  obtain ⟨-, hadded, hru, -⟩ := flowAdded_fields (f := s.openedFlow k cls idle) hk
  have hmine := hadded.trans (withFlow_kept (s := s) (k := k) (openedFlow_identity s k cls idle))
  rw [openFlow_eq]
  generalize flowAdded k (s.openedFlow k cls idle) s = u at *
  obtain ⟨hmodem, hgrade⟩ := opened_keptByModem (cls := cls) (u := u)
  refine ⟨hmodem.trans (keptByModem_of_kept hmine), hgrade.trans (congrArg State.grade hmine :), fun h => ?_⟩
  exact (opened_kept (by rw [hru]; exact h)).2.trans hmine

end Sys2Proof.Machine
end


section
/-! The orders of the flow table: OPEN FLOW and CLOSE FLOW (R101 to R104). -/

namespace Sys2Proof.Machine

section
variable {i k : Nat} {rest : List Nat} {s : State} {cls : Nat} {result : ResultCode} {x : Work}
  (hoffers : s.offersKind Kind.openFlow i rest)
  (hbody : orderOpenFlow (slotParams s.mem i) (Work.begin s) = { work := x, result := result, answer := openAnswer k cls })
include hoffers hbody

/-- OPEN FLOW taken: the kept state and the answer (R101, R102). -/
theorem openFlow_taken {r : State} (hmodem : x.st.keptByModem = r.keptByModem) (hmem : r.mem = s.mem)
    (hkept : s.ru.state ≠ .fault → x.st.kept = r.kept) :
    let t := takeKind Kind.openFlow orderOpenFlow s
    t.keptByModem = (r.answered i rest result (openAnswer k cls t)).keptByModem
      ∧ (s.ru.state ≠ .fault → t.kept = (r.answered i rest result (openAnswer k cls t)).kept) := by
  have hwork := congrArg Answered.work hbody
  obtain ⟨-, -, hrecords, -⟩ := takeKind_fields (kind := Kind.openFlow) hoffers hwork
  have hcls := takeKind_cls (kind := Kind.openFlow) hoffers hwork cls
  have hanswer := openAnswer_congr (k := k) (congrArg FlowRec.content (hrecords k)).symm hcls.symm
  have hall := takeKind_keptByModem_of hoffers hbody hmodem hmem
  have heach := fun h => takeKind_kept_of hoffers hbody (hkept h) hmem
  dsimp only at hanswer ⊢
  rw [hanswer] at hall heach
  exact ⟨hall, heach⟩

/-- OPEN FLOW taken: the drill, demand and the radio unit (R67, R90, R102, R160). -/
theorem openFlow_moves (hmem : x.st.mem = s.mem) :
    let t := takeKind Kind.openFlow orderOpenFlow s
    t.grade = x.st.grade
      ∧ (x.st.drill.running = false → t.drill = x.st.drill)
      ∧ (x.st.Tier0Served → t.steer.demand = true ∧ t.steer.urgent = true ∧ t.ru.lingerOn = false ∧ t.ru.target = .session)
      ∧ (x.st.ru.state = .resetting → latched (bitMask 9) x.st → t.ru.unaimed = x.st.ru.unaimed ∧ latched (bitMask 9) t)
      ∧ (x.AtRest → t.ru = x.st.ru ∧ t.radio = x.st.radio) := by
  have hwork := congrArg Answered.work hbody
  obtain ⟨-, hsteer, -, -⟩ := takeKind_fields (kind := Kind.openFlow) hoffers hwork
  have hru := takeKind_ru (kind := Kind.openFlow) hoffers hwork
  have hended := takeKind_ended (kind := Kind.openFlow) hoffers hwork hmem
  clear hwork hbody
  dsimp only
  generalize takeKind Kind.openFlow orderOpenFlow s = t at *
  have hlink := hended.ends.link
  refine ⟨hlink.grade, hended.ends.drill, fun h => ?served, fun hstate hlatched => ?resets, fun h => ?rests⟩
  case served =>
    have hserved := passes_serves h
    rw [hsteer, hru]
    exact ⟨hserved.demand, hserved.urgent, hserved.linger, hserved.target⟩
  case resets =>
    exact ⟨hended.steady (steady_of_still (by rw [hstate] <;> rfl)), hended.ends.latches _ hlatched⟩
  case rests =>
    exact ⟨hru.trans (passes_atRest h), (hlink.stays fun hc => h.outside.1 hc.1).1⟩

end

section
variable {s : State} {k cls idle : Nat} (hk : k < s.flows.length)
include hk

theorem openFlow_drill (hrun : s.drill.running = true) (hpath : (s.cls cls).cur = .radio ∨ (s.cls cls).cur = .waiting) :
    (openFlow k cls idle (Work.begin s)).st.drill = s.drillEnded .aborted .realUse := by
  have hwants : (s.openedFlow k cls idle).state.wantsRadio = true := by
    unfold State.openedFlow FlowRec.opening
    exact hpath.elim (fun h => by rw [h]; rfl) (fun h => by rw [h]; rfl)
  obtain ⟨⟨e, -, hst⟩, -⟩ := flowAdded_aborts hk hrun hwants
  rw [openFlow_eq, opened_drill]
  exact (congrArg State.drill hst :)

theorem openFlow_serves (hservice : s.exch.service = .service) (h : s.needsRestart cls) :
    (openFlow k cls idle (Work.begin s)).st.Tier0Served := by
  obtain ⟨-, hkept, -⟩ := flowAdded_fields (f := s.openedFlow k cls idle) hk
  rw [openFlow_eq]
  exact opened_serves ((service_of_kept hkept).trans hservice) ((tier0Flow_of_kept hkept).trans (opened_tier0 hk h))

theorem openFlow_fault (h : s.needsRestart cls) (hfault : s.ru.state = .fault) :
    let x := openFlow k cls idle (Work.begin s)
    x.st.ru.state = .resetting ∧ x.st.ru.b = 10 ∧ x.st.ru.resets = 1 ∧ x.st.ru.attachTimeouts = 0
      ∧ latched (bitMask 9) x.st := by
  obtain ⟨-, hkept, hru, -⟩ := flowAdded_fields (f := s.openedFlow k cls idle) hk
  rw [openFlow_eq]
  exact opened_fault ((needsRestart_of_kept hkept cls).mpr h) (by rw [hru]; exact hfault)

theorem openFlow_backoff (hservice : s.exch.service = .service) (h : s.needsRestart cls) (hstate : s.ru.state = .backoff)
    (hold : s.steer.urgent = false) :
    let x := openFlow k cls idle (Work.begin s)
    x.AtRest ∧ x.st.radio = s.radio ∧ x.st.ru.b = s.ru.b
      ∧ ∃ a b, x.st.ru = ({ s.ru with lingerOn := a, lingerStart := b, target := .session } : RadioUnit).toIdle s.now := by
  obtain ⟨hpass, hkept, hru, hsteer, hradio⟩ := flowAdded_fields (f := s.openedFlow k cls idle) hk
  have hflow := (tier0Flow_of_kept hkept).trans (opened_tier0 hk h)
  have hserves := (service_of_kept hkept).trans hservice
  have hnow : (flowAdded k (s.openedFlow k cls idle) s).now = s.now :=
    (congrArg Clock.ms (clk_of_kept hkept) :)
  dsimp only
  rw [openFlow_eq]
  generalize flowAdded k (s.openedFlow k cls idle) s = u at *
  have hback : u.st.ru.state = .backoff := by rw [hru]; exact hstate
  have hurgent : u.st.steer.urgent = false := by rw [hsteer]; exact hold
  rw [(opened_kept (cls := cls) (u := u) (by rw [hback]; decide)).1]
  refine ⟨opened_atRest hpass hback hurgent hserves hflow, ?_, ?_, ?_⟩
  · have hstays : ¬u.st.closes (recomputeDemand u).st := fun hc => RadioState.noConfusion (hback.symm.trans hc.1)
    exact ((recomputeDemand_linkGoes u).stays hstays).1.trans hradio
  · exact (recomputeDemand_backoff u hback).1.trans (congrArg RadioUnit.b hru)
  · obtain ⟨a, b, hidle⟩ := opened_backoff hback hurgent hserves hflow
    rw [hru, hnow] at hidle
    exact ⟨a, b, hidle⟩

end

theorem orderOpenFlow_of {ps : List Byte} {s : State} {k cls idle : Nat} {result : ResultCode} (hparam : param ps 0 1 = cls)
    (hidle : min (param ps 1 4) 65535 = idle)
    (hresult : (if idle = param ps 1 4 then ResultCode.ok else .clamped) = result) (hcls : cls ≤ 7)
    (hservice : s.exch.service = .service) (hk : k < s.flows.length) (hfree : (s.flow k).state = .free)
    (hbelow : ∀ j < k, (s.flow j).state ≠ .free) : orderOpenFlow ps (Work.begin s)
      = { work := openFlow k cls idle (Work.begin s), result := result, answer := openAnswer k cls } := by
  subst hparam hidle hresult
  exact orderOpenFlow_eq hcls hservice hk hfree hbelow

theorem mem_of_keptByModem {s t : State} (h : s.keptByModem = t.keptByModem) : s.mem = t.mem := (congrArg State.mem h :)

theorem code_flowState (p : ClassPath) : FlowState.free.code ≠ p.flowState.code := by cases p <;> decide

theorem unaimed_counts {r q : RadioUnit} (h : r.unaimed = q.unaimed) :
    r.b = q.b ∧ r.resets = q.resets ∧ r.attachTimeouts = q.attachTimeouts :=
  ⟨(congrArg RadioUnit.b h :), (congrArg RadioUnit.resets h :), (congrArg RadioUnit.attachTimeouts h :)⟩

/-- OPEN FLOW (R101, R102). -/
theorem flowsOpen {k i : Nat} {rest : List Nat} {s : State} (hoffers : s.offersKind Kind.openFlow i rest)
    {cls idle : Nat} {result : ResultCode} (hparam : param (slotParams s.mem i) 0 1 = cls)
    (hidle : min (param (slotParams s.mem i) 1 4) 65535 = idle)
    (hresult : (if idle = param (slotParams s.mem i) 1 4 then ResultCode.ok else .clamped) = result)
    (hcls : cls ≤ 7) (hservice : s.exch.service = .service) (hk : k < s.flows.length) (hfree : (s.flow k).state = .free)
    (hbelow : ∀ j < k, (s.flow j).state ≠ .free) :
    let t := takeKind Kind.openFlow orderOpenFlow s
    let opened : FlowRec := { FlowRec.freed 0 with
      state := .waiting, cls := cls, opened := s.now, lastFrame := s.now, idle := idle }
    let r : State := { s with flows := s.flows.set k opened }
    let path := (s.cls cls).cur
    (t.keptByModem = (r.answered i rest result (openAnswer k cls t)).keptByModem
      ∧ (s.ru.state ≠ .fault → t.kept = (r.answered i rest result (openAnswer k cls t)).kept))
    ∧ t.grade = s.grade
    ∧ (s.drill.running = false → s.ru.state ≠ .fault →
        (s.ru.state ≠ .session ∨ s.ru.lingerOn = true ∨ s.cappedStandby = .session ∨ path = .radio ∨ path = .waiting
          ∨ (s.steer.demand = true ∧ 0 < s.effectiveLinger)) →
        t.flows = s.flows.set k { s.openedFlow k cls idle with count := (s.flow k).count + 2 } ∧ t.fwd = s.fwd)
    ∧ (s.drill.running = true → (path = .radio ∨ path = .waiting) →
        t.drill.running = false ∧ t.drill.last.outcome = some .aborted ∧ t.drill.last.cause = some .realUse)
    ∧ (s.needsRestart cls → t.steer.demand = true ∧ t.steer.urgent = true ∧ t.ru.lingerOn = false ∧ t.ru.target = .session)
    ∧ (s.ru.state = .fault → s.needsRestart cls → t.ru.state ≠ .fault ∧ t.ru.b = 10 ∧ t.ru.resets = 1
        ∧ t.ru.attachTimeouts = 0 ∧ t.ev.latch.getLsbD 9 = true)
    ∧ (s.ru.state = .backoff → s.steer.urgent = false → s.needsRestart cls →
        ({ s with ru := { s.ru with target := .session } } : State).entersIdle t ∧ t.ru.b = s.ru.b) := by
  have hbody := orderOpenFlow_of hparam hidle hresult hcls hservice hk hfree hbelow
  obtain ⟨hmodem, hgrade, hkept⟩ := openFlow_kept (s := s) (cls := cls) (idle := idle) hk
  have hmem : (openFlow k cls idle (Work.begin s)).st.mem = s.mem := (mem_of_keptByModem hmodem).trans rfl
  have hwhole := openFlow_whole (s := s) (cls := cls) (idle := idle) hk hservice
  have hdrills := openFlow_drill (s := s) (cls := cls) (idle := idle) hk
  have hserves := openFlow_serves (s := s) (cls := cls) (idle := idle) hk hservice
  have hfaults := openFlow_fault (s := s) (cls := cls) (idle := idle) hk
  have hbacks := openFlow_backoff (s := s) (cls := cls) (idle := idle) hk hservice
  dsimp only at hmodem hkept hwhole hfaults hbacks ⊢
  generalize openFlow k cls idle (Work.begin s) = x at *
  obtain ⟨hgrades, hdrill, hserved, hresets, hrests⟩ := openFlow_moves hoffers hbody hmem
  obtain ⟨hfwd, -⟩ := takeKind_fields (kind := Kind.openFlow) hoffers (congrArg Answered.work hbody)
  have hone := fun hflows htold hne => takeKind_oneFlow (kind := Kind.openFlow) (g := s.openedFlow k cls idle) hoffers
    (congrArg Answered.work hbody) hk hflows htold hne
  have htaken := openFlow_taken hoffers hbody hmodem rfl hkept
  clear hbody
  dsimp only at htaken hfwd
  generalize takeKind Kind.openFlow orderOpenFlow s = t at *
  refine ⟨htaken, hgrades.trans hgrade, fun hidles hfault hstands => ?whole,
    fun hrun hpath => ?drill, fun hneeds => hserved (hserves hneeds), fun hfault hneeds => ?fault,
    fun hstate hold hneeds => ?backoff⟩
  case whole =>
    obtain ⟨hflows, htold, hframes⟩ := hwhole hidles hfault hstands
    refine ⟨hone hflows htold ?_, hfwd.trans hframes⟩
    rw [hfree]
    exact code_flowState _
  case drill =>
    have hended := hdrills hrun hpath
    rw [hdrill (by rw [hended] <;> rfl), hended]
    exact ⟨rfl, rfl, rfl⟩
  case fault =>
    obtain ⟨hstate, hb, hcount, htimeouts, hlatched⟩ := hfaults hneeds hfault
    obtain ⟨hunit, hlatch⟩ := hresets hstate hlatched
    obtain ⟨h1, h2, h3⟩ := unaimed_counts hunit
    refine ⟨?_, h1.trans hb, h2.trans hcount, h3.trans htimeouts, getLsbD_of_latched hlatch (by decide)⟩
    rw [(unaimed_fields hunit).1, hstate]
    decide
  case backoff =>
    obtain ⟨hrest, hradio, hb, a, b, hru⟩ := hbacks hneeds hstate hold
    obtain ⟨hunit, hpath⟩ := hrests hrest
    refine ⟨RadioUnit.SameLink.entersIdle (q := { s.ru with lingerOn := a, lingerStart := b, target := .session })
      ⟨rfl, rfl, rfl, rfl, rfl⟩ (hpath.trans hradio) (hunit.trans hru), ?_⟩
    rw [hunit]
    exact hb

/-- The live state of a record, read off what an event of the modem leaves. -/
theorem flow_live_of_modem {s t : State} {k i : Nat} {rest : List Nat} {r : ResultCode} {ans : List Byte} {f : FlowRec}
    (h : t.keptByModem = (s.answered i rest r ans).keptByModem) (hf : s.flow k = f) (hlive : f.state.live = true) :
    (t.flow k).state.live = true := by
  have hkept : ({ t with ru := s.ru, grade := s.grade } : State).kept
      = ({ s.answered i rest r ans with ru := s.ru, grade := s.grade } : State).kept :=
    congrArg (fun u : State => { u with ru := s.ru.lasting, grade := s.grade }) h
  have hflow : (t.flow k).identity = (s.flow k).identity := flow_identity_of_kept hkept k
  rw [← identity_live, hflow, identity_live, hf]
  exact hlive

/-- Settles O29. -/
theorem flowsOpenAndClose : Obligations.FlowsOpenAndClose := by
  unfold Obligations.FlowsOpenAndClose
  refine ⟨?opens, fun i rest s hoffers => flowsClose hoffers⟩
  case opens =>
    intro k i rest s hoffers ps cls idle result opened answer path keepsSession hcls hservice hk hfree hbelow
    obtain ⟨⟨hmodem, hkept⟩, hgrade, hwhole, hdrill, hserved, hfault, hback⟩ :=
      flowsOpen hoffers (cls := cls) (idle := idle) (result := result) rfl rfl rfl hcls hservice hk hfree hbelow
    refine ⟨takeKind Kind.openFlow orderOpenFlow s, rfl, ?live, hmodem, hgrade, hkept, ?whole, hdrill,
      fun htier hfibre => hserved ⟨htier, hfibre⟩, fun hs htier hfibre => hfault hs ⟨htier, hfibre⟩,
      fun hs hold htier hfibre => hback hs hold ⟨htier, hfibre⟩⟩
    case live => exact flow_live_of_modem hmodem (withFlow_flow (s := s) hk) rfl
    case whole =>
      intro hidles hfault hstands
      obtain ⟨hflows, hfwd⟩ := hwhole hidles hfault hstands
      refine ⟨hflows.trans (congrArg (s.flows.set k) ?_), hfwd⟩
      unfold State.openedFlow FlowRec.opening
      dsimp only [path]
      cases (s.cls cls).cur <;> rfl

end Sys2Proof.Machine
end


section
/-! What an event has rewritten stays rewritten to its end: no step takes a record back from the list (R169, R116). -/

namespace Sys2Proof.Machine

/-- The record is rewritten in this event. -/
def Work.tells (w : Work) (r : Rec) : Prop := r ∈ w.touched

section
variable {r : Rec} {w : Work} (h : w.tells r)
include h

theorem touch_tells (k : Rec) : (w.touch k).tells r := List.mem_cons_of_mem _ h

theorem touchIf_tells (b : Bool) (k : Rec) : (w.touchIf b k).tells r := by
  cases b with
  | false => exact h
  | true => exact List.mem_cons_of_mem _ h

theorem touchAll_tells (l : List Rec) : (w.touchAll l).tells r := List.mem_append_right _ h

theorem handConditions_tells : (handConditions w).tells r := mem_handConditions_touched h

theorem latch_tells (i : Nat) : (latch i w).tells r := h

theorem owePass_tells : w.owePass.tells r := h

theorem startTimer_tells (ms : Nat) : (startTimer ms w).tells r := h

theorem onFwd_tells (f : Forwarding → Forwarding) : (w.onFwd f).tells r := h

theorem ended_tells : ({ (w.touch .supply).oweDemand with drillEnded := true } : Work).tells r := touch_tells h .supply

theorem latched_tells (i : Nat) : (handConditions (latch i w)).tells r := handConditions_tells (w := latch i w) h

/-! ## Path and hold -/

theorem endHold_tells (k : HoldEnd) : (endHold k w).tells r := by
  have hends : ∀ v : Work, v.tells r → (((handConditions v).touch .hold).owePass).tells r := fun v hv =>
    owePass_tells (touch_tells (handConditions_tells hv) .hold)
  unfold endHold
  dsimp only
  split
  · split
    · exact hends _ h
    · exact hends _ h
  · exact h

theorem endDrill_tells (o : DrillOutcome) (c : DrillCause) : (endDrill o c w).tells r := by
  cases hrun : w.st.drill.running with
  | false =>
    rw [endDrill_idle _ _ _ hrun]
    exact h
  | true =>
    rw [endDrill_eq _ _ _ hrun]
    exact ended_tells (latched_tells (w := w.onDrill (Drill.closed w.st o c)) h Bit.drillEnd)

theorem noteReady_tells (p : Path) (was : Bool) : (noteReady p was w).tells r := by
  unfold noteReady
  split
  · exact h
  · exact latch_tells (handConditions_tells h) Bit.readyChange

theorem settle_tells (p : Path) : (settle p w).tells r := by
  rw [settle_eq]
  exact noteReady_tells (w := (w.onPath p PathRec.settled).onQueue p fun q => { q with probes := [] }) h p _

theorem enterDown_tells (p : Path) : (enterDown p w).tells r := by
  cases p with
  | fibre => exact settle_tells h .fibre
  | radio => exact settle_tells h .radio

theorem holdSees_tells (p : Path) (was is : PathState) : (holdSees p was is w).tells r := by
  unfold holdSees
  split
  · cases p with
    | fibre =>
      dsimp only
      split
      · exact endHold_tells h .broken
      · exact h
    | radio =>
      dsimp only
      split
      · exact h
      · split
        · exact endHold_tells h .broken
        · exact h
  · exact h

theorem returnSees_tells (was is : PathState) : (returnSees was is w).tells r := by
  unfold returnSees
  split
  · split
    · exact touch_tells (w := w.onSteer _) h .hold
    · exact touch_tells (w := w.onSteer _) h .hold
  · split
    · exact touch_tells (w := w.onSteer _) h .hold
    · exact h

theorem pathSees_tells (p : Path) (was is : PathState) : (pathSees p was is w).tells r := by
  cases p with
  | fibre => exact returnSees_tells h was is
  | radio =>
    have hgrade : (if was = .down then w.onGrade fun _ => GradeState.start else w).tells r := by
      split
      · exact h
      · exact h
    unfold pathSees
    dsimp only
    split
    · exact endDrill_tells hgrade .pass .radioUp
    · exact hgrade

theorem setPathState_tells (p : Path) (n : PathState) : (setPathState p n w).tells r := by
  by_cases hsame : (w.st.path p).state = n
  · rw [setPathState_same hsame]
    exact h
  · have hmoved : (movePath p n w).tells r := by
      unfold movePath
      dsimp only
      split
      · exact enterDown_tells (w := w.onPath p _) h p
      · exact h
    rw [setPathState_eq p w hsame]
    exact touch_tells (pathSees_tells (latched_tells (holdSees_tells hmoved p _ n) _) p _ n) _

theorem offerCause_tells (p : Path) (k : Cause) : (offerCause p k w).tells r := by
  unfold offerCause
  dsimp only
  split
  · exact h
  · exact h

theorem physicalLoss_tells (p : Path) : (physicalLoss p w).tells r := by
  unfold physicalLoss
  dsimp only
  split
  · exact h
  · split
    · exact setPathState_tells (offerCause_tells (w := w.onPath p _) h p .physical) p .down
    · exact setPathState_tells h p .down

/-! ## The radio unit -/

theorem leaveSession_tells : (leaveSession w).tells r :=
  physicalLoss_tells (w := latch Bit.radioState (flushQueue .radio w)) h .radio

theorem moveTo_tells (n : RadioState) : (moveTo n w).tells r := by
  have hentered : ((w.onRu (RadioUnit.enter n w.now)).touchIf (decide (w.st.ru.state ≠ n)) .radioUnit).tells r :=
    touchIf_tells (w := w.onRu _) h _ _
  unfold moveTo
  dsimp only
  split
  · exact handConditions_tells (leaveSession_tells hentered)
  · exact handConditions_tells hentered

theorem sendRequest_tells (k : Request) : (sendRequest k w).tells r := touch_tells (w := w.onRu _) h _

theorem drivePower_tells : (drivePower w).tells r := by
  unfold drivePower
  split
  · exact h
  · exact h

theorem enterStopping_tells : (enterStopping w).tells r := by
  unfold enterStopping
  dsimp only
  split
  · exact startTimer_tells (drivePower_tells (moveTo_tells h .stopping)) _
  · exact moveTo_tells (moveTo_tells h .stopping) .off

theorem actIdle_tells : (actIdle w).tells r := by
  unfold actIdle
  split
  · exact enterStopping_tells h
  · split
    · exact sendRequest_tells (moveTo_tells h .attaching) .attach
    · exact h

theorem enterIdle_tells : (enterIdle w).tells r := actIdle_tells (moveTo_tells h .idle)

theorem actOff_tells : (actOff w).tells r := by
  unfold actOff
  split
  · exact h
  · split
    · exact enterIdle_tells h
    · exact startTimer_tells (drivePower_tells (moveTo_tells h .powering)) _

theorem actAttached_tells : (actAttached w).tells r := by
  unfold actAttached
  split
  · exact h
  · split
    · exact sendRequest_tells (moveTo_tells h .opening) .openSession
    · exact h
  · split
    · exact sendRequest_tells (moveTo_tells h .detaching) .detach
    · exact h

theorem actSession_tells : (actSession w).tells r := by
  unfold actSession
  split
  · exact sendRequest_tells (moveTo_tells h .closing) .closeSession
  · exact h

theorem act_tells : (act w).tells r := by
  unfold act
  split
  · exact actOff_tells h
  · exact actIdle_tells h
  · exact actAttached_tells h
  · exact actSession_tells h
  all_goals exact h

/-! ## Demand -/

theorem setTarget_tells : (setTarget w).tells r := touchIf_tells (w := w.onRu _) h _ _

theorem recomputeTarget_tells : (recomputeTarget w).tells r := by
  unfold recomputeTarget
  dsimp only
  split
  · split
    · exact enterIdle_tells (setTarget_tells h)
    · exact setTarget_tells h
  · exact act_tells (setTarget_tells h)

theorem lingerSees_tells (old new : Bool) : (lingerSees old new w).tells r := by
  unfold lingerSees
  split
  · exact touchIf_tells (w := w.onRu _) h _ _
  · split
    · exact touch_tells (w := w.onRu _) h _
    · exact h

theorem demandSeen_tells : (demandSeen w).tells r :=
  lingerSees_tells (touchIf_tells (w := w.onSteer _) h _ _) _ _

theorem urgencySees_tells (old new : Bool) : (urgencySees old new w).tells r := by
  unfold urgencySees
  split
  · exact enterIdle_tells (setTarget_tells h)
  · exact recomputeTarget_tells h

theorem recomputeDemand_tells : (recomputeDemand w).tells r := urgencySees_tells (demandSeen_tells h) _ _

/-! ## The steering pass -/

theorem classStep_tells : (classStep w).tells r := by
  unfold classStep
  dsimp only
  split
  · exact h
  · exact touchAll_tells (w := w.onClasses _) h _

theorem flowStep_tells (s0 : State) : (flowStep s0 w).tells r := touchAll_tells (w := w.onFlows _) h _

theorem restage_tells : (restage w).tells r := by
  have howes : ∀ (v : Work) (i : Nat), v.tells r → (latch i v).owePass.tells r := fun v i hv => hv
  unfold restage
  dsimp only
  split
  · split
    · exact latched_tells (w := w.onAllow Allowance.restaged) h Bit.overrun
    · exact handConditions_tells (w := w.onAllow Allowance.restaged) h
  · split
    · exact howes _ _ (latched_tells (w := w.onAllow Allowance.restaged) h Bit.overrun)
    · exact howes _ _ (handConditions_tells (w := w.onAllow Allowance.restaged) h)

theorem takeNext_tells (p : Path) : (takeNext p w).tells r := by
  have hcounted : ∀ (f : TxFrame) (rest : TxQueue) (n : Nat),
      (countFlow f.flow n (w.onQueue p fun _ => { rest with sending := some f.data })).tells r := by
    intro f rest n
    rw [countFlow_eq]
    exact h
  unfold takeNext
  split
  · split
    · exact h
    · cases p with
      | fibre => exact h
      | radio => exact restage_tells (hcounted _ _ _)
  · exact h

theorem enterBand_tells (p : Path) (tier : Nat) (f : TxFrame) : (enterBand p tier f w).tells r := by
  unfold enterBand
  split
  · exact h
  · exact takeNext_tells (w := w.onQueue p _) h p

theorem releaseHeld_tells (x : HeldFrame) : (releaseHeld x w).tells r := by
  have honto : ∀ p, (if w.st.bandFull p (w.st.cls x.cls).tier then
      latch Bit.holdDrops (placeFrame p x.cls x.flow x.data w) else placeFrame p x.cls x.flow x.data w).tells r := by
    intro p
    split
    · exact enterBand_tells h p _ _
    · exact enterBand_tells h p _ _
  unfold releaseHeld
  dsimp only
  split
  · exact honto .fibre
  · exact honto .radio
  · exact h
  · exact h

theorem releaseAll_tells (l : List HeldFrame) : (releaseAll l w).tells r := by
  induction l generalizing w with
  | nil => exact h
  | cons x l ih => exact ih (releaseHeld_tells h x)

theorem drillStep_tells : (drillStep w).tells r := by
  unfold drillStep
  split
  · exact endDrill_tells h _ _
  · exact h

theorem steeringPass_tells : (steeringPass w).tells r := by
  rw [steeringPass_eq]
  refine recomputeDemand_tells (drillStep_tells ?_)
  exact releaseAll_tells (onFwd_tells (handConditions_tells (flowStep_tells (classStep_tells h) w.st)) _) _

end

/-- A change of demand rewrites the hold record (R90, R98). -/
theorem recomputeDemand_tells_hold {w : Work} (h : w.st.steer.demand ≠ w.st.wantsSession) :
    (recomputeDemand w).tells .hold := by
  have htold : ∀ (v : Work) (b : Bool), (v.touchIf (decide (w.st.steer.demand ≠ w.st.wantsSession) || b) .hold).tells .hold :=
    fun v b => by
      rw [decide_eq_true h]
      exact List.mem_cons_self ..
  exact urgencySees_tells (lingerSees_tells (htold _ _) _ _) _ _

theorem runPasses_tells (n : Nat) {r : Rec} {w : Work} (h : w.tells r) : (runPasses n w).tells r := by
  induction n generalizing w with
  | zero => exact h
  | succ n ih =>
    unfold runPasses
    split
    · exact ih (steeringPass_tells (w := { w with passDue := false, demandDue := false }) h)
    · split
      · exact ih (recomputeDemand_tells (w := { w with demandDue := false }) h)
      · exact h

theorem passes_tells {r : Rec} {w : Work} (h : w.tells r) : (passes w).tells r := runPasses_tells _ h

end Sys2Proof.Machine
end


section
/-! RUN DRILL, CANCEL DRILL and DRILL_LIMIT_EXPIRY (R155 to R162). -/

namespace Sys2Proof.Machine

/-! ## The drill starts (R156) -/

/-- The state with a drill that has started. -/
def State.drilling (s : State) (limit : Nat) : State := { s with drill := s.drill.begin s.now limit s.ru.attaches }

/-- The drill started and shown, before demand is recomputed. -/
def drillBegun (limit : Nat) (w : Work) : Work :=
  (handConditions (w.onDrill (Drill.begin w.now limit w.st.ru.attaches))).touch .supply

theorem runDrill_eq (limit : Nat) (w : Work) : runDrill limit w =
    if (recomputeDemand (drillBegun limit w)).st.radio.state = .up then
      endDrill .pass .radioUp (recomputeDemand (drillBegun limit w))
    else recomputeDemand (drillBegun limit w) := by
  unfold runDrill drillBegun
  dsimp only

theorem touched_fields (v : Work) (r : Rec) : (v.touch r).st = v.st ∧ (v.touch r).debts = v.debts := ⟨rfl, rfl⟩

theorem drillBegun_only (limit : Nat) (w : Work) : (w.st.drilling limit).OnlyEv (drillBegun limit w).st
    ∧ (drillBegun limit w).debts = w.debts := by
  have honly := handConditions_onlyEv (w.onDrill (Drill.begin w.now limit w.st.ru.attaches))
  have hdebts := handConditions_debts (w.onDrill (Drill.begin w.now limit w.st.ru.attaches))
  obtain ⟨hst, htouch⟩ := touched_fields (handConditions (w.onDrill (Drill.begin w.now limit w.st.ru.attaches))) .supply
  unfold drillBegun
  rw [hst]
  exact ⟨honly, htouch.trans hdebts⟩

section
variable {limit : Nat} {s : State} (hservice : s.exch.service = .service)
include hservice

/-- Demand with the drill that has started: a session is wanted, so that none closes, and nothing is owed (R73, R90). -/
theorem drillBegun_wants :
    let v := recomputeDemand (drillBegun limit (Work.begin s))
    v.st.kept = (s.drilling limit).kept ∧ v.st.drill = (s.drilling limit).drill ∧ v.st.radio = s.radio
      ∧ v.passDue = false ∧ v.demandDue = false ∧ v.drillEnded = false
      ∧ (s.steer.demand = false → v.tells .hold) := by
  obtain ⟨honly, hdebts⟩ := drillBegun_only limit (Work.begin s)
  have hkept := honly.kept
  obtain ⟨e, -, hst⟩ := honly
  dsimp only
  generalize drillBegun limit (Work.begin s) = u at *
  obtain ⟨hpass, hdue, hended⟩ := debts_iff.mp hdebts
  have hwants : u.st.wantsSession = true := by
    refine (wantsSession_iff _).mpr (Or.inr (Or.inr (Or.inr (Or.inl ?_))))
    rw [hst] <;> rfl
  have hserves : u.st.exch.service = .service := by
    rw [hst]
    exact hservice
  have hstands : u.st.standsOn := Or.inr ⟨hserves, Or.inl hwants⟩
  obtain ⟨hpass', hdue', hended'⟩ := debts_iff.mp (recomputeDemand_standsOn hended hstands)
  have hcloses : ¬u.st.closes (recomputeDemand u).st := fun hc => hc.2 (recomputeDemand_stays hended hstands hc.1)
  refine ⟨(recomputeDemand_kept u).trans hkept, (demanding_demandKeeps.recomputeDemand u).drill.trans ?_,
    ((recomputeDemand_linkGoes u).stays hcloses).1.trans ?_, hpass'.trans hpass, hdue'.trans hdue, hended'.trans hended,
    fun hdemand => ?_⟩
  · rw [hst] <;> rfl
  · rw [hst] <;> rfl
  · refine recomputeDemand_tells_hold ?_
    have hold : u.st.steer.demand = false := by
      rw [hst]
      exact hdemand
    rw [hold, hwants]
    exact Bool.false_ne_true

end

/-! ## The taking -/

theorem takeKind_drill {kind i : Nat} {rest : List Nat} {s : State} {body : List Byte → Work → Answered} {v : Work}
    (hoffers : s.offersKind kind i rest) (hv : (body (slotParams s.mem i) (Work.begin s)).work = v) :
    (takeKind kind body s).drill = (passes v).st.drill ∧ (takeKind kind body s).radio = (passes v).st.radio := by
  subst hv
  rw [takeKind_eq kind body s i rest hoffers]
  exact ⟨finish_drill _ _, finish_radio _ _⟩

/-- The hold record, rewritten in the event, counts it once (R98, R169). -/
theorem finish_holdCount {w : Work} (s0 : State) (h : w.tells .hold) :
    (finish s0 w).counts.hold = w.st.counts.hold + 2 := by
  have hmem : Rec.hold ∈ (reportFlows s0.flows (handConditions w)).touched := by
    rw [reportFlows_touched]
    exact mem_handConditions_touched h
  have hcount : ∀ (touched : List Rec) (s : State), Rec.hold ∈ touched →
      (rewriteRecords s0 touched s).counts.hold = s.counts.hold + 2 := fun touched s hm => by
    simp [rewriteRecords, nextCount, hm]
  calc (finish s0 w).counts.hold
      = (reportFlows s0.flows (handConditions w)).st.counts.hold + 2 := hcount _ _ hmem
    _ = w.st.counts.hold + 2 := by simp

theorem steady_counts (c : Counts) : Steady fun s => s.counts = c where
  quiet := fun _ _ h hs => h.counts.trans hs
  latched := fun _ _ _ h => h
  handed := by
    intro w h
    rw [handConditions_counts]
    exact h

theorem takeKind_holdCount {kind i : Nat} {rest : List Nat} {s : State} {body : List Byte → Work → Answered} {v : Work}
    (hoffers : s.offersKind kind i rest) (hv : (body (slotParams s.mem i) (Work.begin s)).work = v)
    (htells : v.tells .hold) (hcounts : v.st.counts = s.counts) :
    (takeKind kind body s).counts.hold = s.counts.hold + 2 := by
  subst hv
  have hpasses := passes_tells htells
  have hsteady := (steady_counts s.counts).passes _ hcounts
  rw [takeKind_eq kind body s i rest hoffers]
  dsimp only
  generalize passes (body (slotParams s.mem i) (Work.begin s)).work = w at *
  have hanswer : ∀ (k : Nat) (r : ResultCode) (ans : List Byte), (writeAnswer i rest k r ans w).tells .hold
      ∧ (writeAnswer i rest k r ans w).st.counts = w.st.counts := fun k r ans =>
    ⟨List.mem_cons_of_mem _ hpasses, rfl⟩
  obtain ⟨htold, hsame⟩ := hanswer (slotTicket s.mem i) (body (slotParams s.mem i) (Work.begin s)).result
    ((body (slotParams s.mem i) (Work.begin s)).answer w.st)
  rw [finish_holdCount s htold, hsame, hsteady]

/-! ## RUN DRILL -/

section
variable {i : Nat} {rest : List Nat} {s : State} {limit : Nat} {result : ResultCode} {x : Work}
  (hoffers : s.offersKind Kind.runDrill i rest)
  (hbody : orderRunDrill (slotParams s.mem i) (Work.begin s) = { work := x, result := result, answer := drillAnswer })
include hoffers hbody

theorem runDrill_taken (hkept : x.st.kept = (s.drilling limit).kept) :
    let t := takeKind Kind.runDrill orderRunDrill s
    t.kept = (({ s with drill := { s.drill with start := s.now, limit := limit, attaches := s.ru.attaches } }
        : State).answered i rest result
      (pack [(2, limit), (4, s.now.toNat), (1, t.drill.running.toNat), (1, t.drill.pass.toNat), (1, t.ru.state.code),
             (1, t.radio.state.code)])).kept := by
  have hwork := congrArg Answered.work hbody
  obtain ⟨hdrill, hradio⟩ := takeKind_drill (kind := Kind.runDrill) hoffers hwork
  have hru := takeKind_ru (kind := Kind.runDrill) hoffers hwork
  have htaken := takeKind_kept_of (kind := Kind.runDrill) hoffers hbody hkept rfl
  have hsettings : (passes x).st.drill.settings = (s.drilling limit).drill.settings :=
    (congrArg State.drill ((passes_kept x).trans hkept) :)
  have hlimit : (passes x).st.drill.limit = limit := (congrArg Drill.limit hsettings :)
  have hstart : (passes x).st.drill.start = s.now := (congrArg Drill.start hsettings :)
  clear hwork hbody
  dsimp only at hdrill hradio hru ⊢
  generalize takeKind Kind.runDrill orderRunDrill s = t at *
  generalize passes x = w at *
  rw [htaken, hdrill, hradio, hru]
  unfold drillAnswer
  rw [hlimit, hstart]
  rfl

end

end Sys2Proof.Machine
end


section
/-! The drill orders and the drill limit as events (R156 to R162). -/

namespace Sys2Proof.Machine

theorem orderRunDrill_eq {ps : List Byte} {s : State} (hservice : s.exch.service = .service)
    (hidle : s.drill.running = false) (huse : s.realUse = false) (hfault : s.ru.state ≠ .fault)
    (hstage : s.allow.stage = .normal ∨ s.allow.stage = .conserve) : orderRunDrill ps (Work.begin s) =
      { work := runDrill (clamp 60 1800 (param ps 0 2)) (Work.begin s),
        result := if clamp 60 1800 (param ps 0 2) = param ps 0 2 then ResultCode.ok else .clamped,
        answer := drillAnswer } := by
  have h1 : ¬(Work.begin s).st.exch.service ≠ .service := not_not.mpr hservice
  have h2 : ¬(Work.begin s).st.drill.running = true := by
    rw [show (Work.begin s).st.drill.running = false from hidle]
    decide
  have h3 : ¬(Work.begin s).st.realUse = true := by
    rw [show (Work.begin s).st.realUse = false from huse]
    decide
  have h4 : ¬(Work.begin s).st.ru.state = .fault := hfault
  have h5 : ¬(Work.begin s).st.allow.stage.atReserve = true := by
    show ¬s.allow.stage.atReserve = true
    rcases hstage with h | h <;> rw [h] <;> decide
  unfold orderRunDrill
  dsimp only
  rw [if_neg h1, if_neg h2, if_neg h3, if_neg h4, if_neg h5,
    okOrClamped_eq (p := clamp 60 1800 (param ps 0 2) = param ps 0 2) (decide_eq_true_iff (p := ¬_ = _))]

/-- A drill that ends: its record, what it keeps, and the demand it owes (R158 to R161). -/
theorem endDrill_leaves (o : DrillOutcome) (c : DrillCause) {w : Work} (hrun : w.st.drill.running = true) :
    (endDrill o c w).st.drill = w.st.drillEnded o c ∧ (endDrill o c w).st.kept = w.st.kept
      ∧ latched (bitMask 11) (endDrill o c w).st := by
  obtain ⟨e, he, hst⟩ := endDrill_onlyEv o c w hrun
  have honly : ({ w.st with drill := w.st.drillEnded o c } : State).OnlyEv (endDrill o c w).st := ⟨e, he, hst⟩
  refine ⟨(congrArg State.drill hst :), honly.kept.trans rfl, ?_⟩
  rw [endDrill_eq _ _ _ hrun, endedWork_st]
  exact handConditions_latched (latch_latched 11 _)

/-- A running drill that starts while the radio path is not UP (R156). -/
theorem runDrill_notUp {limit : Nat} {s : State} (hservice : s.exch.service = .service) (hup : s.radio.state ≠ .up) :
    let x := runDrill limit (Work.begin s)
    x.st.kept = (s.drilling limit).kept ∧ x.st.drill = (s.drilling limit).drill ∧ x.st.radio = s.radio ∧ passes x = x := by
  obtain ⟨hkept, hdrill, hradio, hpass, hdue, -⟩ := drillBegun_wants (limit := limit) hservice
  dsimp only
  rw [runDrill_eq, if_neg (by rw [hradio]; exact hup)]
  exact ⟨hkept, hdrill, hradio, runPasses_idle _ hpass hdue⟩

/-- A drill that the radio path, UP already, lets pass in the event that starts it (R156, R158). -/
theorem runDrill_passes {limit : Nat} {s : State} (hservice : s.exch.service = .service) (hup : s.radio.state = .up) :
    let x := runDrill limit (Work.begin s)
    x.st.kept = (s.drilling limit).kept ∧ latched (bitMask 11) x.st
      ∧ (∃ v : State, x.st.drill = v.drillEnded .pass .radioUp ∧ v.drill = (s.drilling limit).drill ∧ v.now = s.now
          ∧ v.radio = s.radio)
      ∧ (s.steer.demand = false → x.tells .hold) := by
  obtain ⟨hkept, hdrill, hradio, -, -, -, htells⟩ := drillBegun_wants (limit := limit) hservice
  dsimp only
  rw [runDrill_eq, if_pos (by rw [hradio]; exact hup)]
  generalize recomputeDemand (drillBegun limit (Work.begin s)) = v at *
  have hrun : v.st.drill.running = true := by rw [hdrill] <;> rfl
  obtain ⟨hended, hsame, hlatched⟩ := endDrill_leaves .pass .radioUp hrun
  have hnow : v.st.now = s.now := (congrArg Clock.ms (clk_of_kept hkept) :)
  exact ⟨hsame.trans hkept, hlatched, ⟨v.st, hended, hdrill, hnow, hradio⟩, fun hdemand => endDrill_tells (htells hdemand) _ _⟩

/-- RUN DRILL (R156, R158). -/
theorem drillRuns {i limit : Nat} {rest : List Nat} {s : State} {result : ResultCode}
    (hoffers : s.offersKind Kind.runDrill i rest) (hservice : s.exch.service = .service)
    (hbody : orderRunDrill (slotParams s.mem i) (Work.begin s)
      = { work := runDrill limit (Work.begin s), result := result, answer := drillAnswer }) :
    let t := takeKind Kind.runDrill orderRunDrill s
    t.kept = (({ s with drill := { s.drill with start := s.now, limit := limit, attaches := s.ru.attaches } }
        : State).answered i rest result
      (pack [(2, limit), (4, s.now.toNat), (1, t.drill.running.toNat), (1, t.drill.pass.toNat), (1, t.ru.state.code),
             (1, t.radio.state.code)])).kept
    ∧ t.drill.pass = true
    ∧ (s.radio.state ≠ .up → t.drill.running = true ∧ t.drill.last = s.drill.last ∧ t.radio = s.radio)
    ∧ (s.radio.state = .up → t.drill.running = false ∧ t.ev.latch.getLsbD 11 = true
        ∧ t.drill.last.valid = true ∧ t.drill.last.outcome = some .pass ∧ t.drill.last.cause = some .radioUp
        ∧ t.drill.last.start = s.now ∧ t.drill.last.limit = limit ∧ t.drill.last.duration = 0
        ∧ t.drill.last.path = some .up
        ∧ (s.steer.demand = false → t.counts.hold = s.counts.hold + 2)) := by
  have hcounts : (runDrill limit (Work.begin s)).st.counts = s.counts := (steady_counts s.counts).runDrill limit _ rfl
  have hnot := runDrill_notUp (limit := limit) hservice
  have hpass := runDrill_passes (limit := limit) hservice
  dsimp only at hnot hpass ⊢
  generalize runDrill limit (Work.begin s) = x at *
  have hwork := congrArg Answered.work hbody
  obtain ⟨hdrill, hradio⟩ := takeKind_drill (kind := Kind.runDrill) hoffers hwork
  by_cases hup : s.radio.state = .up
  · obtain ⟨hkept, hlatched, ⟨v, hended, hv, hnow, hpath⟩, htells⟩ := hpass hup
    have hmem : x.st.mem = s.mem := (mem_of_kept hkept).trans rfl
    have hends := takeKind_ends (kind := Kind.runDrill) hoffers hwork hmem
    have hfinal := hends.drill (by rw [hended] <;> rfl)
    have htaken := runDrill_taken hoffers hbody hkept
    have hcount := fun hd => takeKind_holdCount (kind := Kind.runDrill) hoffers hwork (htells hd) hcounts
    have hbit : (takeKind Kind.runDrill orderRunDrill s).ev.latch.getLsbD 11 = true :=
      getLsbD_of_latched (hends.latches _ hlatched) (by decide)
    clear hbody hwork hends
    dsimp only at htaken
    generalize takeKind Kind.runDrill orderRunDrill s = t at *
    refine ⟨htaken, ?_, fun hno => absurd hup hno, fun _ => ?_⟩
    · rw [hfinal, hended] <;> rfl
    · rw [hfinal, hended]
      have hstart : v.drill.start = s.now := by rw [hv] <;> rfl
      have hlimit : v.drill.limit = limit := by rw [hv] <;> rfl
      refine ⟨rfl, hbit, rfl, rfl, rfl, hstart, hlimit, ?_, ?_, hcount⟩
      · show v.now - v.drill.start = 0
        rw [hnow, hstart]
        exact BitVec.sub_self _
      · show some v.radio.state = some .up
        rw [hpath, hup]
  · obtain ⟨hkept, hruns, hpath, hidle⟩ := hnot hup
    have htaken := runDrill_taken hoffers hbody hkept
    rw [hidle] at hdrill hradio
    refine ⟨htaken, ?_, fun _ => ?_, fun h => absurd h hup⟩
    · rw [hdrill, hruns] <;> rfl
    · rw [hdrill, hruns, hradio]
      exact ⟨rfl, rfl, hpath⟩

/-! ## CANCEL DRILL and the limit -/

theorem orderCancelDrill_ends {ps : List Byte} {s : State} (h : s.drill.running = true) : orderCancelDrill ps (Work.begin s)
    = { work := endDrill .aborted .cancelled (Work.begin s), result := .ok, answer := cancelAnswer } := if_pos h

theorem orderCancelDrill_rests {ps : List Byte} {s : State} (h : s.drill.running = false) :
    orderCancelDrill ps (Work.begin s) = { work := Work.begin s, result := .notRunning, answer := cancelAnswer } :=
  if_neg (by rw [show (Work.begin s).st.drill.running = false from h]; decide)

/-- CANCEL DRILL of a running drill (R159, R161, R162). -/
theorem drillCancels {i : Nat} {rest : List Nat} {s : State} (hoffers : s.offersKind Kind.cancelDrill i rest)
    (hrun : s.drill.running = true) :
    let t := takeKind Kind.cancelDrill orderCancelDrill s
    let ended := s.drillEnded .aborted .cancelled
    t.drill = ended ∧ t.ev.latch.getLsbD 11 = true
      ∧ t.kept = (s.answered i rest .ok (pack (drillRecordParts ended.last))).kept := by
  obtain ⟨hended, hkept, hlatched⟩ := endDrill_leaves .aborted .cancelled (w := Work.begin s) hrun
  have hbody := orderCancelDrill_ends (ps := slotParams s.mem i) hrun
  dsimp only
  generalize endDrill .aborted .cancelled (Work.begin s) = x at *
  have hwork := congrArg Answered.work hbody
  have hends := takeKind_ends (kind := Kind.cancelDrill) hoffers hwork (mem_of_kept hkept)
  have hfinal := hends.drill (by rw [hended] <;> rfl)
  have hread := (takeKind_drill (kind := Kind.cancelDrill) hoffers hwork).1
  have htaken := takeKind_kept_of (kind := Kind.cancelDrill) hoffers hbody hkept rfl
  refine ⟨hfinal.trans hended, getLsbD_of_latched (hends.latches _ hlatched) (by decide), htaken.trans ?_⟩
  have hrecord : (passes x).st.drill = s.drillEnded .aborted .cancelled := hread.symm.trans (hfinal.trans hended)
  unfold cancelAnswer
  rw [hrecord]
  rfl

/-- The drill limit (R159). -/
theorem drillExpires {s : State} (hs : s.exch.service ≠ .init) (hrun : s.drill.running = true) :
    let t := event (endDrill .fail .limit) s
    t.drill = s.drillEnded .fail .limit ∧ t.ev.latch.getLsbD 11 = true ∧ t.kept = s.kept := by
  obtain ⟨hended, hkept, hlatched⟩ := endDrill_leaves .fail .limit (w := Work.begin s) hrun
  have hends := event_ends (f := endDrill .fail .limit) hs
  have hall := event_kept (endDrill .fail .limit) s hs
  have hfinal := hends.drill (by rw [hended] <;> rfl)
  exact ⟨hfinal.trans hended, getLsbD_of_latched (hends.latches _ hlatched) (by decide), hall.trans hkept⟩

theorem exec_drillLimitExpiry {s : State} (hrun : s.drill.running = true)
    (hdue : s.drill.limit * 1000 ≤ (s.now - s.drill.start).toNat) :
    exec .drillLimitExpiry s = .next (event (endDrill .fail .limit) s) := by
  have hreached : s.drill.limitReached s.now = true := by
    unfold Drill.limitReached
    rw [hrun, Bool.true_and]
    exact decide_eq_true hdue
  exact congrArg Host.Outcome.next (if_pos hreached)

/-- Settles O33. -/
theorem drillsRunAndEnd : Obligations.DrillsRunAndEnd := by
  unfold Obligations.DrillsRunAndEnd
  refine ⟨?runs, fun s hcur => ⟨fun i rest hoffers hrun => ?cancels, fun i rest hoffers hidle => ?none, fun hrun hdue => ?expires⟩⟩
  case runs =>
    intro i rest s hoffers ps limit result hservice hidle huse hfault hstage
    exact ⟨_, rfl, drillRuns hoffers hservice (orderRunDrill_eq hservice hidle huse hfault hstage)⟩
  case cancels => exact ⟨_, rfl, drillCancels hoffers hrun⟩
  case none =>
    exact ⟨_, rfl, takeKind_still (kind := Kind.cancelDrill) hoffers (orderCancelDrill_rests hidle) rfl rfl rfl rfl hcur⟩
  case expires => exact ⟨_, exec_drillLimitExpiry hrun hdue, drillExpires hcur.1 hrun⟩

end Sys2Proof.Machine
end


section
/-! The control link receiver (R54, R55): what it makes of bytes, of bad frames, of silence, and what it counts. -/

namespace Sys2Proof.Machine

/-! ## What is received -/

theorem receive_none (n : Nat) {bs : List Byte} (h : 0x7E ∉ bs) (hn : bs.length ≤ n) : receive n bs = ([], []) := by
  cases n with
  | zero =>
    rw [List.eq_nil_of_length_eq_zero (Nat.le_zero.mp hn)] <;> rfl
  | succ n =>
    rw [receive, hunt_none bs h]

theorem receiveSilence_none (n : Nat) {bs : List Byte} (h : 0x7E ∉ bs) : receiveSilence n bs = [] := by
  cases n with
  | zero => rfl
  | succ n =>
    unfold receiveSilence
    rw [receive_none _ h (Nat.le_refl _)]

/-- A frame under way that a silence ends (R55). -/
theorem receiveSilence_unfinished (n : Nat) {part : List Byte} (h : linkUnfinished part) :
    receiveSilence (n + 1) (0x7E :: part) = .discarded :: receiveSilence n part := by
  rw [receiveSilence, List.length_cons, receive_unfinished _ _ h]
  rfl

/-! ## The frames of messages -/

theorem frame_ok : LinkMessage.frame .ok = [0x7E, 0x81, 0x00, 0x7F] := by decide
theorem frame_sessionClosed : LinkMessage.frame .sessionClosed = [0x7E, 0xC1, 0x00, 0x3F] := by decide
theorem frame_detached : LinkMessage.frame .detached = [0x7E, 0xC2, 0x00, 0x3E] := by decide

theorem frame_refused (a : Byte) : LinkMessage.frame (.refused a) = [0x7E, 0x82, 0x01, a, 0 - (0x83 + a)] := rfl

theorem frame_signalAnswer (a : Byte) : LinkMessage.frame (.signalAnswer a) = [0x7E, 0x83, 0x01, a, 0 - (0x84 + a)] := rfl

theorem frame_signalIndication (a : Byte) :
    LinkMessage.frame (.signalIndication a) = [0x7E, 0xC3, 0x01, a, 0 - (0xC4 + a)] := rfl

/-! ## The receiver's own record -/

/-- The receiver with these bytes under way (R55). -/
def RadioUnit.holding (left : List Byte) (now : Time) (r : RadioUnit) : RadioUnit :=
  { r with rx := left, rxTime := if left.isEmpty then r.rxTime else now }

theorem RadioUnit.holding_nil {r : RadioUnit} (h : r.rx = []) (now : Time) : r.holding [] now = r := by
  cases r
  cases h
  rfl

/-- A frame discarded and counted, with what the receiver then reads (R55). -/
def RadioUnit.discarding (rx : List Byte) (r : RadioUnit) : RadioUnit :=
  { r with rx := rx, discards := min (r.discards + 1) 4294967295 }

section
variable {w : Work}

theorem endSilence_rests (h : w.st.ru.rx = [] ∨ (w.st.now - w.st.ru.rxTime).toNat ≤ 50) : endSilence w = w := by
  refine if_neg fun hs => ?_
  obtain ⟨hrx, hlong⟩ := Bool.and_eq_true_iff.mp hs
  rcases h with h | h
  · rw [h] at hrx
    cases hrx
  · exact absurd (of_decide_eq_true hlong) (Nat.not_lt.mpr h)

theorem endSilence_ends (h : w.st.ru.rx ≠ []) (hlong : 50 < (w.st.now - w.st.ru.rxTime).toNat) :
    endSilence w = silence w := by
  refine if_pos (Bool.and_eq_true_iff.mpr ⟨?_, decide_eq_true hlong⟩)
  cases hrx : w.st.ru.rx with
  | nil => exact absurd hrx h
  | cons b bs => rfl

/-- Bytes that arrive where no silence ends (R55). -/
theorem receiveBytes_eq {bytes : List Byte} (h : w.st.ru.rx = [] ∨ (w.st.now - w.st.ru.rxTime).toNat ≤ 50) :
    receiveBytes bytes w = takeReceived (receive (w.st.ru.rx ++ bytes).length (w.st.ru.rx ++ bytes)).1
      (w.onRu (RadioUnit.holding (receive (w.st.ru.rx ++ bytes).length (w.st.ru.rx ++ bytes)).2 w.now)) := by
  unfold receiveBytes
  dsimp only
  rw [endSilence_rests h]
  rfl

/-- Bytes that a receiver that hunts makes this of (R55). -/
theorem receiveBytes_hunting {bytes left : List Byte} {items : List Received} (h : w.st.ru.rx = [])
    (hr : receive bytes.length bytes = (items, left)) :
    receiveBytes bytes w = takeReceived items (w.onRu (RadioUnit.holding left w.now)) := by
  rw [receiveBytes_eq (Or.inl h), h, List.nil_append, hr]

theorem countDiscard_holding (left : List Byte) (now : Time) :
    countDiscard (w.onRu (RadioUnit.holding left now)) = (w.onRu (RadioUnit.discarding [])).onRu (RadioUnit.holding left now) :=
  rfl

theorem onRu_holding_nil (now : Time) (h : w.st.ru.rx = []) : w.onRu (RadioUnit.holding [] now) = w := by
  show { w with st := { w.st with ru := w.st.ru.holding [] now } } = w
  rw [RadioUnit.holding_nil h now]

/-- A bad frame is discarded, and its bytes behind the start byte are read again (R55). -/
theorem receiveBytes_bad {kind check : Byte} {payload : List Byte} (more : List Byte) (h : w.st.ru.rx = [])
    (hl : payload.length ≤ 255) (hbad : linkBad kind payload check) :
    receiveBytes (0x7E :: linkBytes kind payload check ++ more) w
      = receiveBytes (linkBytes kind payload check ++ more) (w.onRu (RadioUnit.discarding [])) := by
  have hbytes : receive (0x7E :: linkBytes kind payload check ++ more).length (0x7E :: linkBytes kind payload check ++ more) = _ :=
    receive_bad (linkBytes kind payload check ++ more).length kind check payload more hl hbad
  rw [receiveBytes_hunting h hbytes, receiveBytes_hunting rfl rfl]
  rfl

/-- Bytes that follow without a gap are read behind those under way (R55). -/
theorem receiveBytes_follows {bytes : List Byte} (h : (w.st.now - w.st.ru.rxTime).toNat ≤ 50) :
    receiveBytes bytes w = receiveBytes (w.st.ru.rx ++ bytes) (w.onRu fun r => { r with rx := [] }) := by
  rw [receiveBytes_eq (Or.inr h), receiveBytes_hunting rfl rfl]
  rfl

/-- A silence ends the frame under way and hunts through it (R55). -/
theorem silence_unfinished {part : List Byte} (h : w.st.ru.rx = 0x7E :: part) (hpart : linkUnfinished part) :
    silence w = silence (w.onRu (RadioUnit.discarding part)) := by
  unfold silence
  rw [h, List.length_cons, receiveSilence_unfinished _ hpart]
  rfl

/-- The bytes that end a silence find a receiver that hunts (R55). -/
theorem receiveBytes_silent {part : List Byte} (bytes : List Byte) (h : w.st.ru.rx = 0x7E :: part)
    (hpart : linkUnfinished part) (hnone : 0x7E ∉ part) (hlong : 50 < (w.st.now - w.st.ru.rxTime).toNat) :
    receiveBytes bytes w = receiveBytes bytes (w.onRu (RadioUnit.discarding [])) := by
  have hends : endSilence w = w.onRu (RadioUnit.discarding []) := by
    rw [endSilence_ends (by rw [h]; exact List.cons_ne_nil _ _) hlong, silence_unfinished h hpart]
    unfold silence
    rw [receiveSilence_none _ (show 0x7E ∉ (w.onRu (RadioUnit.discarding part)).st.ru.rx from hnone)]
    rfl
  have hrests : endSilence (w.onRu (RadioUnit.discarding [])) = w.onRu (RadioUnit.discarding []) :=
    endSilence_rests (Or.inl rfl)
  unfold receiveBytes
  rw [hends, hrests]

end

end Sys2Proof.Machine
end


section
/-! The control link receiver's commands as events: discards counted, bytes dropped, frames that stay under way (R54 to
R56). -/

namespace Sys2Proof.Machine

/-- An event of the receiver alone. -/
theorem event_onRu {f : RadioUnit → RadioUnit} {g : Work → Work} {s : State} (hcur : s.current)
    (hf : ∀ r, (f r).state = r.state) (hg : g (Work.begin s) = (Work.begin s).onRu f) :
    (event g s).plain = ({ s with ru := f s.ru } : State).plain :=
  (begin_quietly hcur).plain hg rfl rfl rfl (by rw [hf]; exact Iff.rfl)

theorem holding_state (left : List Byte) (now : Time) (r : RadioUnit) : (r.holding left now).state = r.state := rfl

theorem heard_down {u : State} (h : u.radio.state = .down) (v : Option Nat) : u.reportScores v = false
    ∧ u.heard v = { u with ru := { u.ru with grade := v, gradeTime := u.now } } := by
  have hgrade : u.gradeAfter v = u.grade := if_pos h
  refine ⟨?_, ?_⟩
  · unfold State.reportScores
    rw [hgrade, decide_eq_false (not_not.mpr rfl)]
    rfl
  · unfold State.heard
    rw [hgrade]

/-- The state with an answer or a frame discarded and counted. -/
def State.discarded (s : State) : State := { s with ru := s.ru.discarding [] }

section
variable {s : State} (hcur : s.current) (hrx : s.ru.rx = [])
include hcur hrx

/-- An answer that matches nothing (R56). -/
theorem event_discards {g : Work → Work} (hg : g (Work.begin s) = countDiscard (Work.begin s)) :
    (event g s).plain = s.discarded.plain := by
  refine event_onRu (f := RadioUnit.discarding []) hcur (fun _ => rfl) (hg.trans ?_)
  exact congrArg countDiscard (onRu_holding_nil (w := Work.begin s) s.now hrx).symm

theorem answers_unmatched (hfree : s.ru.outstanding = none) (a : Byte) :
    (event takeOk s).plain = s.discarded.plain ∧ (event (takeRefused a) s).plain = s.discarded.plain
      ∧ (event (takeSignal a) s).plain = s.discarded.plain := by
  refine ⟨event_discards hcur hrx ?_, event_discards hcur hrx ?_, event_discards hcur hrx ?_⟩
  · unfold takeOk
    rw [show (Work.begin s).st.ru.outstanding = none from hfree]
  · unfold takeRefused
    rw [show (Work.begin s).st.ru.outstanding = none from hfree]
  · unfold takeSignal
    rw [show (Work.begin s).st.ru.outstanding = none from hfree]

theorem okAnswer_toQuery {o : Outstanding} (ho : s.ru.outstanding = some o) (hk : o.kind = .signalQuery) :
    (event takeOk s).plain = s.discarded.plain := by
  refine event_discards hcur hrx ?_
  unfold takeOk
  rw [show (Work.begin s).st.ru.outstanding = some o from ho]
  exact if_pos hk

theorem signalAnswer_toOther {o : Outstanding} (ho : s.ru.outstanding = some o) (hk : o.kind ≠ .signalQuery) (a : Byte) :
    (event (takeSignal a) s).plain = s.discarded.plain := by
  refine event_discards hcur hrx ?_
  unfold takeSignal
  rw [show (Work.begin s).st.ru.outstanding = some o from ho]
  exact if_neg hk

/-- Bytes before a start byte are dropped (R55). -/
theorem bytes_dropped {bytes : List Byte} (h : 0x7E ∉ bytes) : (event (receiveBytes bytes) s).plain = s.plain := by
  have hreceived := receiveBytes_hunting (w := Work.begin s) hrx (receive_none bytes.length h (Nat.le_refl _))
  have hevent := event_onRu hcur (holding_state _ _) hreceived
  rw [RadioUnit.holding_nil (r := s.ru) hrx] at hevent
  exact hevent

/-- A frame that is not whole stays under way (R55). -/
theorem frame_underWay {pre part : List Byte} (h : 0x7E ∉ pre) (hpart : linkUnfinished part) :
    (event (receiveBytes (pre ++ 0x7E :: part)) s).plain
      = ({ s with ru := { s.ru with rx := 0x7E :: part, rxTime := s.now } } : State).plain := by
  have hbytes : receive (pre ++ 0x7E :: part).length (pre ++ 0x7E :: part) = ([], 0x7E :: part) := by
    rw [show (pre ++ 0x7E :: part).length = (pre.length + part.length) + 1 by simp [Nat.add_assoc],
      receive_append _ _ _ h, receive_unfinished _ _ hpart]
  exact event_onRu hcur (holding_state _ _) (receiveBytes_hunting (w := Work.begin s) hrx hbytes)

section
variable {kind check : Byte} {payload : List Byte} (hl : payload.length ≤ 255) (hbad : linkBad kind payload check)
include hl hbad

omit hcur in
theorem begin_bad {left : List Byte} {items : List Received}
    (hr : receive (linkBytes kind payload check).length (linkBytes kind payload check) = (items, left)) :
    receiveBytes (0x7E :: linkBytes kind payload check) (Work.begin s)
      = takeReceived items (((Work.begin s).onRu (RadioUnit.discarding [])).onRu (RadioUnit.holding left s.now)) := by
  have hmore := receiveBytes_bad (w := Work.begin s) (kind := kind) (check := check) [] hrx hl hbad
  rw [List.append_nil, List.append_nil] at hmore
  rw [hmore, receiveBytes_hunting rfl hr]
  rfl

theorem bad_counted (hnone : 0x7E ∉ linkBytes kind payload check) :
    (event (receiveBytes (0x7E :: linkBytes kind payload check)) s).plain = s.discarded.plain :=
  event_onRu (f := fun r => (r.discarding []).holding [] s.now) hcur (fun _ => rfl)
    (begin_bad hrx hl hbad (receive_none _ hnone (Nat.le_refl _)))

theorem bad_hides_part {pre part : List Byte} (hinside : linkBytes kind payload check = pre ++ 0x7E :: part)
    (hpre : 0x7E ∉ pre) (hpart : linkUnfinished part) :
    (event (receiveBytes (0x7E :: linkBytes kind payload check)) s).plain
      = ({ s.discarded with ru := { s.discarded.ru with rx := 0x7E :: part, rxTime := s.now } } : State).plain := by
  have hbytes : receive (linkBytes kind payload check).length (linkBytes kind payload check) = ([], 0x7E :: part) := by
    rw [hinside, show (pre ++ 0x7E :: part).length = (pre.length + part.length) + 1 by simp [Nat.add_assoc],
      receive_append _ _ _ hpre, receive_unfinished _ _ hpart]
  exact event_onRu (f := fun r => (r.discarding []).holding (0x7E :: part) s.now) hcur (fun _ => rfl)
    (begin_bad hrx hl hbad hbytes)

/-- A message hidden in a bad frame is taken (R55, R72). -/
theorem bad_hides_signal {pre : List Byte} {a : Byte}
    (hinside : linkBytes kind payload check = pre ++ [0x7E, 0xC3, 0x01, a, 0 - (0xC4 + a)]) (hpre : 0x7E ∉ pre)
    (hdown : s.radio.state = .down) :
    (event (receiveBytes (0x7E :: linkBytes kind payload check)) s).plain
      = ({ s.discarded with ru := { s.discarded.ru with
          grade := if a.toNat ≤ 31 then some a.toNat else none, gradeTime := s.now } } : State).plain := by
  have hbytes : receive (linkBytes kind payload check).length (linkBytes kind payload check)
      = ([.taken (.signalIndication a)], []) := by
    rw [hinside, ← frame_signalIndication, show (pre ++ (LinkMessage.signalIndication a).frame).length
      = (pre.length + (LinkMessage.signalIndication a).body.length + 1) + 1 by simp [LinkMessage.frame, Nat.add_assoc],
      receive_append _ _ _ hpre, receive_frame]
  have hbegun := onRu_quietly (f := fun r => (r.discarding []).holding [] s.now) (fun _ => rfl) hcur
  obtain ⟨hrests, hheard⟩ := heard_down (u := ((Work.begin s).onRu fun r => (r.discarding []).holding [] s.now).st) hdown
    (gradeOf a)
  have hevent := event_reportRests (g := receiveBytes (0x7E :: linkBytes kind payload check)) (v := gradeOf a) hbegun
    (begin_bad hrx hl hbad hbytes) hrests
  rw [hheard] at hevent
  exact hevent

end

end

/-- A message's bytes behind a frame under way are read as that frame's (R55). -/
theorem okAnswer_inFrame {s : State} {a : Byte} (hcur : s.current) (hrx : s.ru.rx = [0x7E, a, 4])
    (hshort : (s.now - s.ru.rxTime).toNat ≤ 50) : (event (takeFrame .ok) s).plain
      = ({ s with ru := { s.ru with rx := [0x7E, a, 4, 0x7E, 0x81, 0x00, 0x7F], rxTime := s.now } } : State).plain := by
  have hpart : linkUnfinished [a, 4, 0x7E, 0x81, 0x00, 0x7F] := by
    intro kind len rest h
    obtain ⟨-, hrest⟩ := List.cons.inj h
    obtain ⟨rfl, rfl⟩ := List.cons.inj hrest
    decide
  have hbytes : receive (s.ru.rx ++ LinkMessage.frame .ok).length (s.ru.rx ++ LinkMessage.frame .ok)
      = ([], [0x7E, a, 4, 0x7E, 0x81, 0x00, 0x7F]) := by
    rw [hrx, frame_ok]
    exact receive_unfinished _ _ hpart
  refine event_onRu (f := RadioUnit.holding [0x7E, a, 4, 0x7E, 0x81, 0x00, 0x7F] s.now) hcur (fun _ => rfl) ?_
  have harrives := receiveBytes_eq (w := Work.begin s) (bytes := LinkMessage.frame .ok) (Or.inr hshort)
  have hreceived : receive ((Work.begin s).st.ru.rx ++ LinkMessage.frame .ok).length
      ((Work.begin s).st.ru.rx ++ LinkMessage.frame .ok) = ([], [0x7E, a, 4, 0x7E, 0x81, 0x00, 0x7F]) := hbytes
  rw [hreceived] at harrives
  exact harrives

/-- The silence behind a frame under way (R55). -/
theorem silence_counts {s : State} {part : List Byte} (hcur : s.current) (hrx : s.ru.rx = 0x7E :: part)
    (hnone : 0x7E ∉ part) (hpart : linkUnfinished part) (hlong : 50 < (s.now - s.ru.rxTime).toNat) :
    (event (receiveBytes []) s).plain = s.discarded.plain := by
  refine event_onRu (f := fun r => (r.discarding []).holding [] s.now) hcur (fun _ => rfl) ?_
  rw [receiveBytes_silent (w := Work.begin s) [] hrx hpart hnone hlong, receiveBytes_hunting (items := []) (left := []) rfl rfl]
  rfl

/-- Settles O43. -/
theorem discardsCounted : Obligations.DiscardsCounted := by
  unfold Obligations.DiscardsCounted
  refine ⟨fun a s hcur => ⟨fun hrx hfree => ?free, fun o ho hrx hk => ?toQuery, fun o ho hrx hk => ?toOther,
    fun bytes hrx h => ⟨_, rfl, bytes_dropped hcur hrx h⟩,
    fun pre part hrx hpre hpart => ⟨_, rfl, frame_underWay hcur hrx hpre hpart⟩,
    fun kind check payload hrx hl hbad => ⟨fun hnone => ⟨_, rfl, bad_counted hcur hrx hl hbad hnone⟩,
      fun pre part hinside hpre hpart => ⟨_, rfl, bad_hides_part hcur hrx hl hbad hinside hpre hpart⟩,
      fun pre hinside hpre hdown => ⟨_, rfl, bad_hides_signal hcur hrx hl hbad hinside hpre hdown⟩⟩,
    fun hrx hshort => ⟨_, rfl, okAnswer_inFrame hcur hrx hshort⟩,
    fun part hrx hnone hpart hlong => ⟨_, congrArg Host.Outcome.next
      (if_pos (silent_iff.mpr ⟨by rw [hrx]; exact List.cons_ne_nil _ _, hlong⟩)), silence_counts hcur hrx hnone hpart hlong⟩,
    fun bytes => ⟨fun hrx hlong => congrArg Host.Outcome.next (if_pos (silent_iff.mpr ⟨hrx, hlong⟩)), fun h => ?still⟩⟩,
    fun a s => ⟨?ok, rfl, rfl, ?closed, ?detached, rfl⟩, fun _ _ => rfl, fun w => ⟨?bad, ?follows, ?silent⟩⟩
  case free =>
    obtain ⟨hok, hrefused, hsignal⟩ := answers_unmatched hcur hrx hfree a
    exact ⟨⟨_, exec_okAnswer hrx, hok⟩, ⟨_, exec_refusedAnswer a hrx, hrefused⟩, ⟨_, exec_signalAnswer a hrx, hsignal⟩⟩
  case toQuery => exact ⟨_, exec_okAnswer hrx, okAnswer_toQuery hcur hrx ho hk⟩
  case toOther => exact ⟨_, exec_signalAnswer a hrx, signalAnswer_toOther hcur hrx ho hk a⟩
  case still =>
    refine congrArg Host.Outcome.next (if_neg fun hs => ?_)
    obtain ⟨hrx, hlong⟩ := silent_iff.mp hs
    exact h.elim hrx (Nat.not_le.mpr hlong)
  case ok => exact congrArg (fun bytes => Host.Outcome.next (event (receiveBytes bytes) s)) frame_ok
  case closed => exact congrArg (fun bytes => Host.Outcome.next (event (receiveBytes bytes) s)) frame_sessionClosed
  case detached => exact congrArg (fun bytes => Host.Outcome.next (event (receiveBytes bytes) s)) frame_detached
  case bad => exact fun kind check payload more hrx hl hbad => receiveBytes_bad more hrx hl hbad
  case follows => exact fun bytes hshort => receiveBytes_follows hshort
  case silent =>
    exact fun part hrx hpart => ⟨silence_unfinished hrx hpart,
      fun bytes hnone hlong => receiveBytes_silent bytes hrx hpart hnone hlong⟩

end Sys2Proof.Machine
end


section
/-! The entry into ATTACHED with an OK, a REFUSED or SESSION CLOSED, and what the freed link then sends (R57, R59 to R62,
R69, R71). -/

namespace Sys2Proof.Machine

/-- A unit that its state has served asks for nothing more when the link is served (R57). -/
theorem serveLink_act {w : Work} (hfree : w.st.ru.outstanding = none)
    (hstate : w.st.ru.state = .attached ∨ w.st.ru.state = .session) : serveLink (act w) = serveLink w := by
  cases hsends : w.st.ru.sends with
  | some n =>
    obtain ⟨heq, hru⟩ := serveLink_sends hfree hsends
    rw [heq]
    refine serveLink_served (Or.inl ?_)
    rw [← heq, hru]
    nofun
  | none =>
    rw [act_rests hsends (fun h => by rcases hstate with hs | hs <;> cases hs.symm.trans h)
      (fun h => by rcases hstate with hs | hs <;> cases hs.symm.trans h)]

/-- The state that ATTACHED, with the link free, goes to by its target (R60). -/
def Target.fromAttached : Target → RadioState
  | .attached => .attached
  | .session => .opening
  | .off => .detaching

theorem sends_attached {r : RadioUnit} (h : r.state = .attached) :
    (∀ n, r.sends = some n → n = r.target.fromAttached) ∧ (r.sends = none → r.target = .attached) := by
  unfold RadioUnit.sends
  rw [h]
  cases r.target
  · exact ⟨fun n hn => (Option.some.inj hn).symm, nofun⟩
  · exact ⟨nofun, fun _ => rfl⟩
  · exact ⟨fun n hn => (Option.some.inj hn).symm, nofun⟩

theorem act_attached {w : Work} (hfree : w.st.ru.outstanding = none) (hstate : w.st.ru.state = .attached) :
    (act w).st.ru.state = w.st.ru.target.fromAttached := by
  obtain ⟨hsome, hnone⟩ := sends_attached hstate
  rw [act_ru]
  cases hsends : w.st.ru.sends with
  | some n =>
    rw [acts_sends _ hfree hsends]
    exact hsome n hsends
  | none =>
    rw [acts_rests _ hsends (fun h => by cases hstate.symm.trans h) (fun h => by cases hstate.symm.trans h), hstate,
      hnone hsends] <;> rfl

theorem serveLink_attached {w : Work} (hfree : w.st.ru.outstanding = none) (hstate : w.st.ru.state = .attached) :
    (serveLink w).st.ru.state = w.st.ru.target.fromAttached := by
  obtain ⟨hsome, hnone⟩ := sends_attached hstate
  cases hsends : w.st.ru.sends with
  | some n =>
    rw [(serveLink_sends hfree hsends).2]
    exact hsome n hsends
  | none =>
    rw [hnone hsends]
    cases hquery : w.st.ru.queryPending with
    | true =>
      rw [serveLink_queries hfree hsends (Or.inl hstate) hquery, querying_ru]
      exact hstate
    | false =>
      rw [serveLink_rests hfree hsends (fun h => by cases hstate.symm.trans h) (fun h => by cases hstate.symm.trans h) hquery]
      exact hstate

/-! ## The entry -/

/-- The work that has entered ATTACHED and not acted on the target yet (R60). -/
def attachedWork (w : Work) : Work := (moveTo .attached w).onRu fun r => { r with resets := 0 }

/-- The unit in ATTACHED (R60). -/
def RadioUnit.entered (now : Time) (r : RadioUnit) : RadioUnit := { r.enter .attached now with resets := 0 }

theorem attachedWork_ru (w : Work) : (attachedWork w).st.ru = w.st.ru.entered w.now := by
  show ({ (moveTo .attached w).st.ru with resets := 0 } : RadioUnit) = _
  rw [moveTo_ru]
  rfl

theorem enterAttached_acts (w : Work) : enterAttached w = act (attachedWork w) := by
  have hstate : (attachedWork w).st.ru.state = .attached := by rw [attachedWork_ru] <;> rfl
  unfold act
  rw [hstate]
  rfl

theorem attachedWork_moves {w : Work} (h : w.Outside) : w.RuMoves (attachedWork w) := by
  have hmoves := moveTo_moves (n := .attached) (by decide) h
  have hresets := onRu_stays (f := fun r => { r with resets := 0 }) (fun _ => rfl) (hmoves.outside h)
  unfold attachedWork
  exact hmoves.trans hresets

section
variable {g : Work → Work} {f : RadioUnit → RadioUnit} {s : State} (hcur : s.current) (hs : s.ru.state ≠ .session)
  (hf : ∀ r, (f r).state = r.state)
include hcur hs hf

/-- The work before the link is served: the radio unit's own record alone has changed. -/
theorem attachedWork_begin : (Work.begin s).RuMoves (attachedWork ((Work.begin s).onRu f))
    ∧ (attachedWork ((Work.begin s).onRu f)).Outside
    ∧ (attachedWork ((Work.begin s).onRu f)).st = { s with ru := (f s.ru).entered s.now } := by
  have hout := begin_outside hcur hs
  have hon := onRu_stays hf hout
  have hmoves := hon.trans (attachedWork_moves (hon.outside hout))
  refine ⟨hmoves, hmoves.outside hout, ?_⟩
  have hst := hmoves.st
  rw [attachedWork_ru] at hst
  exact hst

/-- An answer that leads to ATTACHED with the link free (R59, R60, R62). -/
theorem event_attaches (hout : (f s.ru).outstanding = none)
    (hg : g (Work.begin s) = serveLink (attachedWork ((Work.begin s).onRu f))) :
    let t := event g s
    ({ s with ru := (f s.ru).entered s.now } : State).linkServed t ∧ t.ru.state = (f s.ru).target.fromAttached
      ∧ t.ru.lasting = ((f s.ru).entered s.now).lasting ∧ t.radio = s.radio ∧ t.grade = s.grade ∧ t.allow = s.allow := by
  obtain ⟨hmoves, houtside, hst⟩ := attachedWork_begin hcur hs hf
  have hended := event_ended (g := g) hcur.1
  have hfree : ((f s.ru).entered s.now).outstanding = none := by
    show staleOf (f s.ru).outstanding = none
    rw [hout] <;> rfl
  dsimp only
  generalize attachedWork ((Work.begin s).onRu f) = v at *
  have hvfree : v.st.ru.outstanding = none := by rw [hst]; exact hfree
  have hstate : v.st.ru.state = .attached := by rw [hst] <;> rfl
  have hall : (Work.begin s).RuMoves (g (Work.begin s)) := by
    rw [hg]
    exact hmoves.trans (serveLink_moves houtside)
  have hplain := event_ruMoves hcur hall hs
  obtain ⟨hru, hradio, hgrade⟩ := fields_of_ruPlain hplain
  have hallow : (event g s).allow = s.allow := (congrArg State.allow hplain :)
  have hserved := linkServed_of (v := v) hvfree (by rw [← hg]; exact hended)
  have hlasting : (serveLink v).st.ru.lasting = v.st.ru.lasting := (congrArg State.ru (serveLink_kept v) :)
  have htarget := serveLink_attached hvfree hstate
  rw [hst] at hserved hlasting htarget
  rw [hg] at hru
  refine ⟨hserved, ?_, ?_, hradio, hgrade, hallow⟩
  · rw [hru]
    exact htarget
  · rw [hru]
    exact hlasting

end

theorem serveLink_enterAttached {w : Work} (h : w.st.ru.outstanding = none) :
    serveLink (enterAttached w) = serveLink (attachedWork w) := by
  rw [enterAttached_acts]
  refine serveLink_act ?_ (Or.inl ?_)
  · rw [attachedWork_ru]
    show staleOf w.st.ru.outstanding = none
    rw [h] <;> rfl
  · rw [attachedWork_ru] <;> rfl

end Sys2Proof.Machine
end


section
/-! The answers and indications that lead to ATTACHED, DETACHED or DETACH, as events (R59 to R63, R68, R69). -/

namespace Sys2Proof.Machine

theorem okTo_attach {w : Work} (h : w.st.ru.state = .attaching) :
    okTo .attach w = enterAttached (w.onRu fun r => { r with attachTimeouts := 0 }) := by
  unfold okTo
  rw [h]

theorem okTo_closeSession {w : Work} (h : w.st.ru.state = .closing) : okTo .closeSession w = enterAttached w := by
  unfold okTo
  rw [h]

theorem refusedTo_closing {w : Work} (h : w.st.ru.state = .closing) : refusedTo .closeSession w = enterAttached w := by
  unfold refusedTo
  rw [h]

theorem okTo_detach {w : Work} (h : w.st.ru.state = .detaching ∨ w.st.ru.state = .resync) :
    okTo .detach w = enterIdle w := by
  unfold okTo
  rcases h with h | h
  · rw [h]
  · rw [h]
    rfl

theorem okTo_resync {w : Work} (h : w.st.ru.state = .resync) : okTo .closeSession w = sendRequest .detach w := by
  unfold okTo
  rw [h]
  rfl

theorem okTo_openSession {w : Work} (h : w.st.ru.state = .opening) : okTo .openSession w = enterSession w := by
  unfold okTo
  rw [h]

/-- The unit in ATTACHED from a state in which the poll timer does not run, the link free (R60, R71). -/
theorem entered_eq {r : RadioUnit} (hpolls : r.state.polls = false) (hout : r.outstanding = none) (now : Time) :
    r.entered now = { r with
      state := .attached, stateDue := none, outstanding := none, resets := 0,
      pollDue := some (now + BitVec.ofNat 32 (r.poll * 1000)), pwr := { r.pwr with waiting := false },
      mrst := { r.mrst with waiting := false } } := by
  unfold RadioUnit.entered RadioUnit.enter
  rw [hpolls, hout]
  rfl

theorem unpolled_of {n : RadioState} (h : n = .attaching ∨ n = .closing) : n.polls = false ∧ n ≠ .session := by
  rcases h with rfl | rfl <;> decide

/-- What the entry into ATTACHED leaves of the unit's lasting record. -/
theorem entered_lasting {t : State} {r : RadioUnit} {now : Time} (h : t.ru.lasting = (r.entered now).lasting) :
    t.ru.resets = 0 ∧ t.ru.attachTimeouts = r.attachTimeouts ∧ t.ru.refusalReason = r.refusalReason
      ∧ t.ru.refusalKind = r.refusalKind :=
  ⟨(congrArg RadioUnit.resets h :), (congrArg RadioUnit.attachTimeouts h :), (congrArg RadioUnit.refusalReason h :),
    (congrArg RadioUnit.refusalKind h :)⟩

section
variable {s : State} (hcur : s.current)
include hcur

/-- SESSION CLOSED in CLOSING with no request outstanding (R62, R69). -/
theorem closedInClosing_free (hstate : s.ru.state = .closing) (hout : s.ru.outstanding = none) :
    let t := event takeSessionClosed s
    t.ru.state = s.ru.target.fromAttached ∧ t.ru.resets = 0 ∧ t.radio = s.radio ∧ t.grade = s.grade ∧ t.allow = s.allow
      ∧ (s.ru.queryPending = false → ({ s with ru := s.ru.entered s.now } : State).linkServed t) := by
  have hs : s.ru.state ≠ .session := by rw [hstate]; decide
  have hg : takeSessionClosed (Work.begin s) = act (attachedWork (Work.begin s)) :=
    (takeSessionClosed_attached (w := Work.begin s) (Or.inr hstate)).trans (enterAttached_acts _)
  obtain ⟨hmoves, houtside, hst⟩ := attachedWork_begin (f := id) hcur hs fun _ => rfl
  have hattaches := event_attaches (g := takeSessionClosed) (f := id) hcur hs (fun _ => rfl) hout
  have hsame : (Work.begin s).onRu id = Work.begin s := rfl
  rw [hsame] at hmoves houtside hst hattaches
  dsimp only
  generalize attachedWork (Work.begin s) = v at *
  have hfree : v.st.ru.outstanding = none := by
    rw [hst]
    show staleOf s.ru.outstanding = none
    rw [hout] <;> rfl
  have hattached : v.st.ru.state = .attached := by rw [hst] <;> rfl
  have hall : (Work.begin s).RuMoves (takeSessionClosed (Work.begin s)) := by
    rw [hg]
    exact hmoves.trans (act_moves houtside)
  have hplain := event_ruMoves hcur hall hs
  obtain ⟨hru, hradio, hgrade⟩ := fields_of_ruPlain hplain
  have htarget := act_attached hfree hattached
  have hkept : (act v).st.ru.lasting = v.st.ru.lasting := (congrArg State.ru ((closed_kept v.st.kept).act v rfl) :)
  have hresets : (act v).st.ru.resets = v.st.ru.resets := (congrArg RadioUnit.resets hkept :)
  rw [hst] at htarget hresets
  rw [hg] at hru
  refine ⟨?_, ?_, hradio, hgrade, (congrArg State.allow hplain :), fun hquery => ?_⟩
  · rw [hru]
    exact htarget
  · rw [hru, hresets] <;> rfl
  · refine (hattaches (hg.trans (serveLink_unasked hfree ?_).symm)).1
    rw [hst]
    exact hquery

/-- SESSION CLOSED in CLOSING overtakes the answer of the request outstanding (R57, R62, R69). -/
theorem closedInClosing_held {o : Outstanding} (hstate : s.ru.state = .closing) (hout : s.ru.outstanding = some o) :
    let t := event takeSessionClosed s
    t.ru.state = .attached ∧ t.ru.outstanding = some { o with stale := true } ∧ t.ru.resets = 0 ∧ t.radio = s.radio
      ∧ t.grade = s.grade := by
  have hs : s.ru.state ≠ .session := by rw [hstate]; decide
  have hg : takeSessionClosed (Work.begin s) = act (attachedWork (Work.begin s)) :=
    (takeSessionClosed_attached (w := Work.begin s) (Or.inr hstate)).trans (enterAttached_acts _)
  obtain ⟨hmoves, -, hst⟩ := attachedWork_begin (f := id) hcur hs fun _ => rfl
  have hsame : (Work.begin s).onRu id = Work.begin s := rfl
  rw [hsame] at hmoves hst
  dsimp only
  generalize attachedWork (Work.begin s) = v at *
  have hheld : v.st.ru.outstanding = some { o with stale := true } := by
    rw [hst]
    show staleOf s.ru.outstanding = _
    rw [hout] <;> rfl
  have hattached : v.st.ru.state = .attached := by rw [hst] <;> rfl
  have hrests : act v = v := act_steady ⟨by rw [hattached]; decide, by rw [hattached]; decide, by rw [hattached]; decide,
    fun _ => by rw [hheld]; nofun⟩
  have hall : (Work.begin s).RuMoves (takeSessionClosed (Work.begin s)) := by
    rw [hg, hrests]
    exact hmoves
  obtain ⟨hru, hradio, hgrade⟩ := event_ruMoves_fields hcur hs hall
  rw [hg, hrests] at hru
  refine ⟨?_, ?_, ?_, hradio, hgrade⟩
  · rw [hru]
    exact hattached
  · rw [hru]
    exact hheld
  · rw [hru, hst] <;> rfl

/-- A stale request's answer in ATTACHED lets the unit act on its target (R57, R60). -/
theorem staleInAttached {k : Request} {due : Time} (hopen : s.ru.outstanding = some { kind := k, stale := true, due := due })
    (hk : k ≠ .signalQuery) (hstate : s.ru.state = .attached) :
    let t := event takeOk s
    t.ru.state = s.ru.target.fromAttached ∧ t.radio = s.radio ∧ t.grade = s.grade := by
  have hs : s.ru.state ≠ .session := by rw [hstate]; decide
  have hg := takeOk_stale (w := Work.begin s) hopen hk
  have hout := begin_outside hcur hs
  have hclears := onRu_stays (f := fun r => { r with outstanding := none }) (fun _ => rfl) hout
  have hall : (Work.begin s).RuMoves (takeOk (Work.begin s)) := by
    rw [hg]
    exact hclears.trans (serveLink_moves (hclears.outside hout))
  obtain ⟨hru, hradio, hgrade⟩ := event_ruMoves_fields hcur hs hall
  have htarget := serveLink_attached (w := clearRequest (Work.begin s)) rfl hstate
  rw [hg] at hru
  refine ⟨?_, hradio, hgrade⟩
  rw [hru]
  exact htarget

/-! ## OK to DETACH and in RESYNC -/

theorem okToDetach {due : Time} (hopen : s.ru.outstanding = some { kind := .detach, stale := false, due := due })
    (hstate : s.ru.state = .detaching ∨ s.ru.state = .resync) :
    (event takeOk s).ru = ({ s.ru with outstanding := none } : RadioUnit).toIdle s.now
      ∧ (event takeOk s).radio = s.radio ∧ (event takeOk s).grade = s.grade := by
  have hg := (takeOk_open (w := Work.begin s) hopen (by decide)).trans
    (congrArg serveLink (okTo_detach (w := clearRequest (Work.begin s)) hstate))
  exact event_idling (f := fun r => { r with outstanding := none }) hcur
    (by rcases hstate with h | h <;> rw [h] <;> decide) (fun _ => rfl) rfl hg

theorem okInResync {due : Time} (hopen : s.ru.outstanding = some { kind := .closeSession, stale := false, due := due })
    (hstate : s.ru.state = .resync) : (event takeOk s).plain
      = ({ s with ru := ({ s.ru with outstanding := none } : RadioUnit).send .detach s.now } : State).plain := by
  have hg := (takeOk_open (w := Work.begin s) hopen (by decide)).trans
    (congrArg serveLink (okTo_resync (w := clearRequest (Work.begin s)) hstate))
  exact event_resync (f := fun r => { r with outstanding := none }) hcur (fun _ => rfl) hg

end

end Sys2Proof.Machine
end


section
/-! The entry into SESSION, and a session entered that its event keeps (R32, R61, R73, R74, R158, R160). -/

namespace Sys2Proof.Machine

/-! ## The entry (R61) -/

/-- The unit in SESSION, just entered (R61). -/
def RadioUnit.inSession (now : Time) (r : RadioUnit) : RadioUnit :=
  { r.enter .session now with b := 10, attachTimeouts := 0, sessionSince := now }

/-- The work of the entry before the radio path becomes available. -/
def sessionWork (w : Work) : Work :=
  latch Bit.radioState ((moveTo .session w).onRu fun r => { r with b := 10, attachTimeouts := 0, sessionSince := w.now })

theorem enterSession_eq (w : Work) : enterSession w = actSession (physicalAvailability .radio (sessionWork w)) := rfl

theorem inSession_eq {r : RadioUnit} (hstate : r.state = .opening) (hout : r.outstanding = none) (now : Time) :
    r.inSession now = { r with
      state := .session, stateDue := none, outstanding := none, b := 10, attachTimeouts := 0, sessionSince := now,
      pwr := { r.pwr with waiting := false }, mrst := { r.mrst with waiting := false } } := by
  unfold RadioUnit.inSession RadioUnit.enter
  rw [hstate, hout]
  rfl

theorem moveTo_onlyEv {n : RadioState} {w : Work} (h : w.st.ru.state ≠ .session ∨ n = .session) :
    ({ w.st with ru := w.st.ru.enter n w.now } : State).OnlyEv (moveTo n w).st := by
  have hmove : moveTo n w =
      handConditions ((w.onRu (RadioUnit.enter n w.now)).touchIf (decide (w.st.ru.state ≠ n)) .radioUnit) := by
    unfold moveTo
    dsimp only
    rw [if_neg (by rintro ⟨h1, h2⟩; exact h.elim (absurd h1) h2)]
  have hst : ∀ v : Work, (v.touchIf (decide (w.st.ru.state ≠ n)) .radioUnit).st = v.st := fun v => by
    unfold Work.touchIf
    split <;> rfl
  have hrecord : (w.onRu (RadioUnit.enter n w.now)).st = { w.st with ru := w.st.ru.enter n w.now } := rfl
  have honly := handConditions_onlyEv ((w.onRu (RadioUnit.enter n w.now)).touchIf (decide (w.st.ru.state ≠ n)) .radioUnit)
  rw [hst, hrecord, ← hmove] at honly
  exact honly

theorem onRu_onlyEv {s : State} {v : Work} (h : s.OnlyEv v.st) (f : RadioUnit → RadioUnit) :
    ({ s with ru := f s.ru } : State).OnlyEv (latch Bit.radioState (v.onRu f)).st := by
  have hmap : ({ s with ru := f s.ru } : State).OnlyEv { v.st with ru := f v.st.ru } :=
    h.map (f := fun u => { u with ru := f u.ru }) (fun _ _ => rfl) fun _ => rfl
  exact hmap.trans (latch_onlyEv Bit.radioState (v.onRu f))

/-- The entry changes the unit's record alone, latches RADIO STATE and owes nothing. -/
theorem sessionWork_only {w : Work} (hs : w.st.ru.state ≠ .session) :
    ({ w.st with ru := w.st.ru.inSession w.now } : State).OnlyEv (sessionWork w).st
      ∧ latched (bitMask 8) (sessionWork w).st ∧ (sessionWork w).debts = w.debts := by
  have hmoved := moveTo_onlyEv (n := .session) (Or.inl hs)
  have howes := moveTo_debts hs .session
  unfold sessionWork RadioUnit.inSession
  generalize moveTo .session w = v at *
  exact ⟨onRu_onlyEv hmoved fun r => { r with b := 10, attachTimeouts := 0, sessionSince := w.now }, latch_latched 8 _, howes⟩

/-! ## The radio path becomes available (R32, R38, R158) -/

theorem State.OnlyEv.changed {s t : State} (h : s.OnlyEv t) (n : PathState) :
    (s.changed .radio n).OnlyEv (t.changed .radio n) :=
  h.map (f := fun u => u.changed .radio n) (fun s e => changed_ev s e .radio n) fun s => changed_unit s .radio n

/-- A state after a physical availability of the radio path (R32). -/
def State.risen (s : State) : State :=
  if s.radio.state = .down then s.changed .radio (s.availableAs s.radio) else s

theorem physicalAvailability_only {s : State} {w : Work} (h : s.OnlyEv w.st) :
    s.risen.OnlyEv (physicalAvailability .radio w).st := by
  have hradio : (w.st.path .radio).state = s.radio.state := congrArg PathRec.state (h.path .radio)
  unfold State.risen
  by_cases hd : s.radio.state = .down
  · have hw : (w.st.path .radio).state = .down := hradio.trans hd
    have has : w.st.availableAs (w.st.path .radio) = s.availableAs s.radio := by
      obtain ⟨e, -, hst⟩ := h
      rw [hst]
      rfl
    have hne : (w.st.path .radio).state ≠ s.availableAs s.radio := by
      rw [hw]
      exact (availableAs_ne_down s s.radio).symm
    rw [if_pos hd, physicalAvailability_goes hw, has]
    exact (h.changed _).trans (setPathState_onlyEv .radio w hne)
  · rw [if_neg hd, physicalAvailability_leaves (by rw [hradio]; exact hd)]
    exact h

theorem moved_up (s : State) {n : PathState} (hn : n ≠ .down) :
    s.moved .radio n = { s with radio := s.radio.movesTo s.now n } := by
  have hrecord : PathRec.changed s.now n = PathRec.movesTo s.now n := by
    funext r
    exact if_neg hn
  have hqueue : s.fwd.changed .radio n = s.fwd := if_neg hn
  unfold State.moved
  rw [hrecord, hqueue]
  rfl

theorem risen_fields (s : State) : ∃ h, s.risen = { s with
    radio := s.radio.availableIn s, grade := (if s.radio.state = .down then GradeState.start else s.grade), hold := h,
    drill := s.risen.drill } := by
  unfold State.risen
  by_cases hd : s.radio.state = .down
  · have hmoved := moved_up s (availableAs_ne_down s s.radio)
    rw [if_pos hd, if_pos hd, availableIn_goes hd]
    generalize s.availableAs s.radio = n at *
    refine ⟨(s.changed .radio n).hold, ?_⟩
    unfold State.changed State.sighted
    rw [hmoved, show (s.path .radio).state = .down from hd]
    dsimp only
    rw [if_pos rfl]
  · rw [if_neg hd, if_neg hd, availableIn_leaves hd]
    exact ⟨s.hold, rfl⟩

/-- A drill that runs while the radio path rises ends PASS where it becomes UP, and otherwise goes on (R158). -/
theorem risen_drill {s : State} (hd : s.radio.state = .down) :
    s.risen.drill = if s.availableAs s.radio = .up ∧ s.drill.running = true then
      ({ s with radio := s.radio.movesTo s.now .up } : State).drillEnded .pass .radioUp else s.drill := by
  have hmoved := moved_up s (availableAs_ne_down s s.radio)
  unfold State.risen
  rw [if_pos hd]
  by_cases hup : s.availableAs s.radio = .up
  · rw [hup] at hmoved ⊢
    unfold State.changed State.sighted
    rw [hmoved, show (s.path .radio).state = .down from hd]
    rfl
  · rw [if_neg fun h => hup h.1]
    exact (changed_sighted s .radio _).2.2 (Or.inr (Or.inr hup))

/-- The work that enters SESSION with the answer, before it acts on the target. -/
def enteringWork (s : State) : Work :=
  physicalAvailability .radio (sessionWork ((Work.begin s).onRu fun r => { r with outstanding := none }))

end Sys2Proof.Machine
end


section
/-! A session that the passes of an event keep: by the standby, the linger or demand while no drill runs, and by a drill
that goes on (R73, R74, R158, R160). -/

namespace Sys2Proof.Machine

/-! ## A drill's end that no pass makes of its own (R160) -/

theorem restage_drillEnded (w : Work) : (restage w).drillEnded = w.drillEnded := by
  have hif : ∀ (b : Bool) (v : Work), (if b then latch Bit.overrun v else v).drillEnded = v.drillEnded := fun b v => by
    cases b <;> rfl
  have hend : ∀ (c : Prop) [Decidable c] (v : Work), v.drillEnded = w.drillEnded →
      (if c then v else (latch Bit.stageChange v).owePass).drillEnded = w.drillEnded := fun c _ v hv => by
    split <;> exact hv
  unfold restage
  dsimp only
  apply hend
  rw [handConditions_drillEnded, hif]
  rfl

theorem takeNext_drillEnded (p : Path) (w : Work) : (takeNext p w).drillEnded = w.drillEnded := by
  have hcount : ∀ (i : Option Nat) (n : Nat) (v : Work), (countFlow i n v).drillEnded = v.drillEnded := fun i n v => by
    cases i <;> rfl
  unfold takeNext
  split
  · split
    · rfl
    · cases p
      · rfl
      · exact (restage_drillEnded _).trans (hcount _ _ _)
  · rfl

theorem enterBand_drillEnded (p : Path) (tier : Nat) (f : TxFrame) (w : Work) :
    (enterBand p tier f w).drillEnded = w.drillEnded := by
  unfold enterBand
  split
  · rfl
  · exact takeNext_drillEnded p _

theorem releaseHeld_drillEnded (x : HeldFrame) (w : Work) : (releaseHeld x w).drillEnded = w.drillEnded := by
  have honto : ∀ p, w.st.bindingPath x = boundTo p → (releaseHeld x w).drillEnded = w.drillEnded := by
    intro p hp
    rw [releaseHeld_path hp]
    unfold releaseOnto
    split <;> exact enterBand_drillEnded p _ _ w
  cases hb : w.st.bindingPath x with
  | fibre => exact honto .fibre hb
  | radio => exact honto .radio hb
  | waiting => rw [releaseHeld_waiting hb]
  | blocked =>
    rw [releaseHeld_blocked hb]
    rfl

theorem releaseAll_drillEnded (l : List HeldFrame) (w : Work) : (releaseAll l w).drillEnded = w.drillEnded := by
  induction l generalizing w with
  | nil => rfl
  | cons x l ih => exact (ih (releaseHeld x w)).trans (releaseHeld_drillEnded x w)

theorem passBody_drillEnded {w : Work} (h : w.st.drill.running = false) : (passBody w).drillEnded = w.drillEnded := by
  have hsteered : (steeredWork w).debts = w.debts :=
    (handConditions_debts _).trans ((flowStep_debts _ _).trans (classStep_debts w))
  have hleaving : (leavingWork w).drillEnded = (steeredWork w).drillEnded := by
    unfold leavingWork
    generalize steeredWork w = v
    rfl
  have hrest : (releasedWork w).st.drill = w.st.drill :=
    (drillEnded_of_unreleased (released_rests w) .fail .limit).1
  have hreleased : (releasedWork w).drillEnded = w.drillEnded := by
    rw [releasedWork_leaving, releaseAll_drillEnded, hleaving]
    exact (debts_iff.mp hsteered).2.2
  rw [passBody_eq]
  unfold drillStep
  split
  · rw [endDrill_idle _ _ _ (by rw [hrest]; exact h)]
    exact hreleased
  · exact hreleased

/-! ## A session kept (R73, R74) -/

/-- A property that the passes keep, of an event's work. -/
theorem runPasses_holds {P : Work → Prop} (hdemand : ∀ w : Work, P w → P (recomputeDemand { w with demandDue := false }))
    (hpass : ∀ w : Work, P w → P (steeringPass { w with passDue := false, demandDue := false })) (n : Nat) {w : Work}
    (h : P w) : P (runPasses n w) := by
  induction n generalizing w with
  | zero => exact h
  | succ n ih =>
    unfold runPasses
    split
    · exact ih (hpass w h)
    · split
      · exact ih (hdemand w h)
      · exact h

/-- The standby, or a linger of its own or that demand can start, keeps a session (R73, R74). -/
def State.keepsOpen (s : State) : Prop :=
  s.cappedStandby = .session ∨ (0 < s.effectiveLinger ∧ (s.ru.lingerOn = true ∨ s.steer.demand = true))

/-- A session in SERVICE that is kept while no drill runs. -/
structure Work.StaysOpen (w : Work) : Prop where
  session : w.st.ru.state = .session
  service : w.st.exch.service = .service
  idle : w.st.drill.running = false
  ended : w.drillEnded = false
  keeps : w.st.keepsOpen

theorem standby_of_kept {s t : State} (h : s.kept = t.kept) :
    s.cappedStandby = t.cappedStandby ∧ s.effectiveLinger = t.effectiveLinger := by
  have hsup : s.sup = t.sup := (congrArg State.sup h :)
  have hstandby : s.ru.standby = t.ru.standby := (congrArg (fun u : State => u.ru.standby) h :)
  have hlinger : s.ru.linger = t.ru.linger := (congrArg (fun u : State => u.ru.linger) h :)
  unfold State.cappedStandby State.effectiveLinger
  rw [hsup, hstandby, hlinger]
  exact ⟨rfl, rfl⟩

theorem recomputeDemand_keepsOpen {w : Work} (h : w.StaysOpen) : (recomputeDemand w).StaysOpen := by
  have hstands : w.st.standsOn := Or.inr ⟨h.service, by
    rcases h.keeps with hcap | ⟨hlinger, hon | hdemand⟩
    · exact Or.inr (Or.inl hcap)
    · exact Or.inr (Or.inr (Or.inl hon))
    · exact Or.inr (Or.inr (Or.inr ⟨hdemand, hlinger⟩))⟩
  have hsession := recomputeDemand_stays h.ended hstands h.session
  obtain ⟨-, -, hended⟩ := debts_iff.mp (recomputeDemand_inSession h.session hsession)
  have hkept := recomputeDemand_kept w
  obtain ⟨hcap, hlinger⟩ := standby_of_kept hkept
  have hdrill := (closed_drillRests False False False False True _ h.idle).recomputeDemand trivial w rfl
  refine ⟨hsession, (service_of_kept hkept).trans h.service, (congrArg Drill.running hdrill).trans h.idle,
    hended.trans h.ended, ?_⟩
  unfold State.keepsOpen
  rw [hcap, hlinger, (recomputeDemand_linger w).1, demandSeen_ru, recomputeDemand_steer]
  rcases h.keeps with hc | ⟨hl, hkeeps⟩
  · exact Or.inl hc
  · refine Or.inr ⟨hl, ?_⟩
    cases hw : w.st.wantsSession with
    | true => exact Or.inr rfl
    | false =>
      refine Or.inl ?_
      rw [if_neg (by decide)]
      split
      · rfl
      · next hnot =>
        refine hkeeps.resolve_right fun hd => hnot ?_
        rw [hd, h.ended, h.service, decide_eq_true hl]
        rfl

theorem passBody_keepsOpen {w : Work} (h : w.StaysOpen) : (passBody w).StaysOpen := by
  have hkept := passBody_kept w
  obtain ⟨hcap, hlinger⟩ := standby_of_kept hkept
  have hbody : (passBody w).st.drill = w.st.drill := by
    obtain ⟨-, -, -, -, hdrill⟩ := passBody_fields w
    have hrest := (drillEnded_of_unreleased (released_rests w) .fail .limit).1
    have hidle : (releasedWork w).st.drill.running = false := (congrArg Drill.running hrest).trans h.idle
    refine (hdrill.trans (if_neg fun hb => ?_)).trans hrest
    rw [hidle] at hb
    exact absurd hb.2 (by decide)
  refine ⟨?_, (service_of_kept hkept).trans h.service, (congrArg Drill.running hbody).trans h.idle,
    (passBody_drillEnded h.idle).trans h.ended, ?_⟩
  · rw [passBody_unit]
    exact h.session
  · unfold State.keepsOpen
    rw [hcap, hlinger, passBody_unit, passBody_steer]
    exact h.keeps

theorem passes_staysOpen {w : Work} (h : w.StaysOpen) : (passes w).StaysOpen := by
  refine runPasses_holds (P := Work.StaysOpen) (fun v hv => recomputeDemand_keepsOpen ?_) (fun v hv => ?_) _ h
  · exact ⟨hv.session, hv.service, hv.idle, hv.ended, hv.keeps⟩
  · rw [steeringPass_eq]
    exact recomputeDemand_keepsOpen (passBody_keepsOpen ⟨hv.session, hv.service, hv.idle, hv.ended, hv.keeps⟩)

/-! ## A drill that goes on (R158, R160) -/

/-- A drill that goes on in the session, or that a class or flow with radio has ended. -/
def State.drillsOn (d : Drill) (s : State) : Prop :=
  (s.drill = d ∧ s.ru.state = .session ∧ s.exch.service = .service)
    ∨ (s.drill.running = false ∧ s.drill.last.outcome = some .aborted ∧ s.drill.last.cause = some .realUse)

theorem drillsOn_idle {d : Drill} {s t : State} (h : s.drill.running = false ∧ s.drill.last.outcome = some .aborted
    ∧ s.drill.last.cause = some .realUse) (hdrill : t.drill = s.drill) : t.drillsOn d := by
  rw [← hdrill] at h
  exact Or.inr h

theorem passBody_drillsOn {d : Drill} {w : Work} (h : w.st.drillsOn d) : (passBody w).st.drillsOn d := by
  obtain ⟨-, -, -, -, hdrill⟩ := passBody_fields w
  obtain ⟨hrest, -⟩ := drillEnded_of_unreleased (released_rests w) .fail .limit
  by_cases hends : (releasedWork w).st.realUse = true ∧ (releasedWork w).st.drill.running = true
  · have hstep : (releasedWork w).st.drillStepped = (releasedWork w).st.drillEnded .aborted .realUse := if_pos hends
    rw [hstep] at hdrill
    right
    rw [hdrill]
    exact ⟨rfl, rfl, rfl⟩
  · have hstep : (releasedWork w).st.drillStepped = (releasedWork w).st.drill := if_neg hends
    have hsame : (passBody w).st.drill = w.st.drill := (hdrill.trans hstep).trans hrest
    rcases h with ⟨hw, hsession, hservice⟩ | hended
    · refine Or.inl ⟨hsame.trans hw, ?_, (service_of_kept (passBody_kept w)).trans hservice⟩
      rw [passBody_unit]
      exact hsession
    · exact drillsOn_idle hended hsame

section
variable {d : Drill} (hd : d.running = true)
include hd

theorem recomputeDemand_drillsOn {w : Work} (h : w.st.drillsOn d) : (recomputeDemand w).st.drillsOn d := by
  rcases h with ⟨hdrill, hsession, hservice⟩ | hended
  · have hwants : w.st.wantsSession = true := by
      unfold State.wantsSession
      rw [hdrill, hd]
      simp
    have htarget : (demandSeen w).st.targetNow = .session := by
      obtain ⟨r, honly⟩ := demandSeen_only w
      unfold State.targetNow
      rw [honly, if_neg (not_not.mpr hservice), hwants]
      rfl
    obtain ⟨t, r, hst, hr⟩ := recomputeDemand_session hsession htarget
    left
    rw [hst]
    exact ⟨hdrill, hr, hservice⟩
  · exact drillsOn_idle hended ((closed_drillRests False False False False True _ hended.1).recomputeDemand trivial w rfl)

theorem passes_drillsOn {w : Work} (h : w.st.drillsOn d) : (passes w).st.drillsOn d :=
  runPasses_keeps (P := State.drillsOn d) (fun _ => recomputeDemand_drillsOn hd) (fun _ => passBody_drillsOn) _ h

end

end Sys2Proof.Machine
end


section
/-! OK to OPEN SESSION as an event (R32, R56, R61, R71, R73, R74, R158, R160, R169). -/

namespace Sys2Proof.Machine

/-! ## What the entry leaves -/

theorem owing_drillEnded (v : Work) (r : Rec) : ((v.touch r).owePass).drillEnded = v.drillEnded
    ∧ (latch Bit.holdEnd v).drillEnded = v.drillEnded ∧ (latch (changeBit .radio) v).drillEnded = v.drillEnded :=
  ⟨rfl, rfl, rfl⟩

theorem endHold_drillEnded (k : HoldEnd) (w : Work) : (endHold k w).drillEnded = w.drillEnded := by
  unfold endHold
  split
  · dsimp only
    rw [(owing_drillEnded _ _).1, handConditions_drillEnded]
    split
    · exact (owing_drillEnded _ .hold).2.1
    · rfl
  · rfl

theorem holdSees_drillEnded (was is : PathState) (w : Work) :
    (holdSees .radio was is w).drillEnded = w.drillEnded := by
  unfold holdSees
  split
  · dsimp only
    split
    · rfl
    · split
      · exact endHold_drillEnded _ w
      · rfl
  · rfl

theorem pathSees_drillEnded (was is : PathState) {w : Work} (hidle : w.st.drill.running = false) :
    (pathSees .radio was is w).drillEnded = w.drillEnded := by
  have hrests : ∀ v : Work, v.st.drill.running = false →
      (if is = .up then endDrill .pass .radioUp v else v).drillEnded = v.drillEnded := fun v hv => by
    rw [endDrill_idle _ _ v hv, ite_self]
  have hgrade : ∀ c : Prop, [Decidable c] → (if c then w.onGrade fun _ => GradeState.start else w).st.drill = w.st.drill
      ∧ (if c then w.onGrade fun _ => GradeState.start else w).drillEnded = w.drillEnded := fun c _ => by
    split <;> exact ⟨rfl, rfl⟩
  obtain ⟨hdrill, hended⟩ := hgrade (was = .down)
  exact (hrests _ (by rw [hdrill]; exact hidle)).trans hended

/-- A radio path that changes state while no drill runs ends none. -/
theorem setRadio_drillEnded {n : PathState} (hn : n ≠ .down) {w : Work} (hidle : w.st.drill.running = false) :
    (setPathState .radio n w).drillEnded = w.drillEnded := by
  by_cases hsame : (w.st.path .radio).state = n
  · rw [setPathState_same hsame]
  · have hmove : (movePath .radio n w).drillEnded = w.drillEnded := by
      unfold movePath
      dsimp only
      rw [if_neg hn]
      rfl
    have hdrill := beforeSees_drill hsame
    rw [setPathState_eq .radio w hsame, (owing_drillEnded _ _).1, pathSees_drillEnded _ _ (by rw [hdrill]; exact hidle),
      handConditions_drillEnded, (owing_drillEnded _ .hold).2.2, holdSees_drillEnded, hmove]

/-- The work of an event that has entered SESSION, before it acts on the target. -/
structure State.Entered (s : State) (v : Work) : Prop where
  st : ∃ h e, v.st = { s with
    ru := ({ s.ru with outstanding := none } : RadioUnit).inSession s.now, radio := s.radio.availableIn s,
    grade := (if s.radio.state = .down then GradeState.start else s.grade), hold := h, drill := v.st.drill, ev := e }
  bit : latched (bitMask 8) v.st
  debts : s.radio.state ≠ .down → v.debts = (false, false, false)
  ended : s.drill.running = false → v.drillEnded = false
  passes : s.radio.state = .down → s.availableAs s.radio = .up → s.drill.running = true → latched (bitMask 11) v.st
  drill : s.radio.state = .down → v.st.drill = if s.availableAs s.radio = .up ∧ s.drill.running = true then
      ({ s with ru := ({ s.ru with outstanding := none } : RadioUnit).inSession s.now,
                radio := s.radio.movesTo s.now .up } : State).drillEnded .pass .radioUp else s.drill

theorem entered_of {s : State} {v : Work} (honly : ({ s with
      ru := ({ s.ru with outstanding := none } : RadioUnit).inSession s.now } : State).OnlyEv v.st)
    (hbit : latched (bitMask 8) v.st) (hdebts : v.debts = (false, false, false)) :
    s.Entered (physicalAvailability .radio v) := by
  have hends := physicalAvailability_only honly
  have hrises := (closedLatched (bitMask 8)).physicalAvailability .radio (Or.inl rfl) (Or.inl trivial) v hbit
  have hradio : (v.st.path .radio).state = s.radio.state := congrArg PathRec.state (honly.path .radio)
  have hdrill : v.st.drill = s.drill := honly.drill
  have hidle : s.drill.running = false → v.st.drill.running = false := fun h => (congrArg Drill.running hdrill).trans h
  have hnone : v.drillEnded = false := congrArg (fun d : Bool × Bool × Bool => d.2.2) hdebts
  have has : v.st.availableAs (v.st.path .radio) = s.availableAs s.radio := by
    obtain ⟨e, -, hst⟩ := honly
    rw [hst]
    rfl
  have hne := availableAs_ne_down s s.radio
  have hgoes : s.radio.state = .down → physicalAvailability .radio v = setPathState .radio (s.availableAs s.radio) v :=
    fun hd => (physicalAvailability_goes (hradio.trans hd)).trans (by rw [has])
  have hstays : s.radio.state ≠ .down → physicalAvailability .radio v = v :=
    fun hd => physicalAvailability_leaves (by rw [hradio]; exact hd)
  obtain ⟨e, -, hst⟩ := hends
  obtain ⟨h, hrisen⟩ := risen_fields ({ s with ru := ({ s.ru with outstanding := none } : RadioUnit).inSession s.now } : State)
  refine ⟨⟨h, e, ?_⟩, hrises, fun hd => ?_, fun hi => ?_, fun hd hup hrun => ?_, fun hd => ?_⟩
  · rw [hst, hrisen]
    rfl
  · rw [hstays hd]
    exact hdebts
  · by_cases hd : s.radio.state = .down
    · rw [hgoes hd, setRadio_drillEnded hne (hidle hi)]
      exact hnone
    · rw [hstays hd]
      exact hnone
  · rw [hgoes hd, hup]
    refine setPathState_latched_drill ?_ ((congrArg Drill.running hdrill).trans hrun)
    rw [hradio, hd]
    decide
  · rw [hst]
    exact risen_drill (s := { s with ru := ({ s.ru with outstanding := none } : RadioUnit).inSession s.now }) hd

theorem enteringWork_entered {s : State} (hs : s.ru.state ≠ .session) : s.Entered (enteringWork s) := by
  obtain ⟨honly, hbit, hdebts⟩ := sessionWork_only (w := (Work.begin s).onRu fun r => { r with outstanding := none }) hs
  unfold enteringWork
  generalize sessionWork ((Work.begin s).onRu fun r => { r with outstanding := none }) = v at *
  exact entered_of honly hbit hdebts

end Sys2Proof.Machine
end


section
/-! OK to OPEN SESSION as an event (R32, R56, R61, R71, R73, R74, R158, R160, R169). -/

namespace Sys2Proof.Machine

theorem okOpens_eq {s : State} {due : Time} (hopen : s.ru.outstanding = some { kind := .openSession, stale := false, due := due })
    (hstate : s.ru.state = .opening) : takeOk (Work.begin s) = serveLink (act (enteringWork s)) := by
  have hs : s.ru.state ≠ .session := by rw [hstate]; decide
  have hsession : (enteringWork s).st.ru.state = .session := by
    obtain ⟨h, e, hst⟩ := (enteringWork_entered hs).st
    rw [hst]
    rfl
  have hact : act (enteringWork s) = actSession (enteringWork s) := by
    unfold act
    rw [hsession]
  rw [takeOk_open (w := Work.begin s) hopen (by decide), hact]
  exact congrArg serveLink (okTo_openSession (w := clearRequest (Work.begin s)) hstate)

section
variable {s : State} {v : Work} (hv : s.Entered v)
include hv

theorem State.Entered.ru : v.st.ru = ({ s.ru with outstanding := none } : RadioUnit).inSession s.now := by
  obtain ⟨h, e, hst⟩ := hv.st
  rw [hst]

theorem State.Entered.free : v.st.ru.outstanding = none ∧ v.st.ru.state = .session ∧ v.st.ru.target = s.ru.target := by
  rw [hv.ru]
  exact ⟨rfl, rfl, rfl⟩

theorem State.Entered.fields : v.st.radio = s.radio.availableIn s
    ∧ v.st.grade = (if s.radio.state = .down then GradeState.start else s.grade) ∧ v.st.clk = s.clk
    ∧ v.st.exch = s.exch ∧ v.st.counts = s.counts ∧ v.st.steer = s.steer ∧ v.st.sup = s.sup := by
  obtain ⟨h, e, hst⟩ := hv.st
  rw [hst]
  exact ⟨rfl, rfl, rfl, rfl, rfl, rfl, rfl⟩

theorem State.Entered.rises : v.st.radio.state ≠ .down := by
  rw [hv.fields.1, availableIn_state]
  split
  · next h => exact h
  · exact availableAs_ne_down s s.radio

end

/-- The radio path's record is rewritten where the session is left with the path not DOWN (R169). -/
theorem physicalLoss_tells_path {p : Path} {w : Work} (h : (w.st.path p).state ≠ .down) :
    (physicalLoss p w).tells (.path p) := by
  have hblamed : ((blame p w).st.path p).state ≠ .down := by
    rw [(blame_onlyEv p w).path p, blamed_state]
    exact h
  rw [physicalLoss_eq h, setPathState_eq p _ hblamed]
  exact List.mem_cons_self

theorem moveTo_tells_radio {n : RadioState} {w : Work} (hs : w.st.ru.state = .session) (hn : n ≠ .session)
    (h : w.st.radio.state ≠ .down) : (moveTo n w).tells (.path .radio) := by
  have hleave : ∀ v : Work, v.st.radio.state ≠ .down → (leaveSession v).tells (.path .radio) := fun v hv =>
    physicalLoss_tells_path (w := latch Bit.radioState (flushQueue .radio v)) hv
  unfold moveTo
  dsimp only
  rw [if_pos ⟨hs, hn⟩]
  refine handConditions_tells (hleave _ ?_)
  unfold Work.touchIf
  split <;> exact h

/-- A session left by its target rewrites the radio path's record. -/
theorem serveLink_tells_radio {w : Work} (hs : w.st.ru.state = .session) (ht : w.st.ru.target ≠ .session)
    (hfree : w.st.ru.outstanding = none) (h : w.st.radio.state ≠ .down) : (serveLink w).tells (.path .radio) := by
  have hact : (act w).tells (.path .radio) := by
    have hsession : act w = sendRequest .closeSession (moveTo .closing w) := by
      unfold act
      rw [hs]
      exact if_pos ⟨ht, linkFree_iff.mpr hfree⟩
    rw [hsession]
    exact sendRequest_tells (moveTo_tells_radio hs (by decide) h) _
  have hquery : ∀ x : Work, x.tells (.path .radio) →
      (sendRequest .signalQuery (x.onRu fun r => { r with queryPending := false })).tells (.path .radio) :=
    fun x hx => sendRequest_tells (w := x.onRu fun r => { r with queryPending := false }) hx _
  unfold serveLink
  rw [if_pos (linkFree_iff.mpr hfree)]
  dsimp only
  split
  · exact hquery _ hact
  · exact hact

/-- A path's record, rewritten in the event, counts it once (R169). -/
theorem finish_radioCount {w : Work} (s0 : State) (h : w.tells (.path .radio)) :
    (finish s0 w).counts.radio = w.st.counts.radio + 2 := by
  have hmem : Rec.path .radio ∈ (reportFlows s0.flows (handConditions w)).touched := by
    rw [reportFlows_touched]
    exact mem_handConditions_touched h
  have hcount : ∀ (touched : List Rec) (s : State), Rec.path .radio ∈ touched →
      (rewriteRecords s0 touched s).counts.radio = s.counts.radio + 2 := fun touched s hm => by
    simp [rewriteRecords, nextCount, hm]
  calc (finish s0 w).counts.radio
      = (reportFlows s0.flows (handConditions w)).st.counts.radio + 2 := hcount _ _ hmem
    _ = w.st.counts.radio + 2 := by simp

theorem event_radioCount {g : Work → Work} {s : State} (hs : s.exch.service ≠ .init)
    (htells : (g (Work.begin s)).tells (.path .radio)) (hcounts : (g (Work.begin s)).st.counts = s.counts) :
    (event g s).counts.radio = s.counts.radio + 2 := by
  rw [event_eq_finish hs, finish_radioCount s (passes_tells htells), (steady_counts s.counts).passes _ hcounts]

/-- The link served in a session whose target is SESSION: at most a query goes out (R57, R71). -/
theorem serveLink_inSession {w : Work} (hs : w.st.ru.state = .session) (ht : w.st.ru.target = .session) :
    ∃ o x q, (serveLink w).st = { w.st with ru := { w.st.ru with outstanding := o, tx := x, queryPending := q } }
      ∧ (serveLink w).debts = w.debts := by
  have hact : act w = w := by
    unfold act
    rw [hs]
    exact if_neg fun h => h.1 ht
  unfold serveLink
  rw [hact]
  split
  · dsimp only
    split
    · exact ⟨_, _, _, rfl, rfl⟩
    · exact ⟨_, _, _, rfl, rfl⟩
  · exact ⟨_, _, _, rfl, rfl⟩

/-! ## The event -/

section
variable {s : State} (hcur : s.current) {v : Work} (hv : s.Entered v) (hg : takeOk (Work.begin s) = serveLink v)
include hcur hg

theorem session_ended : (serveLink v).st.Ended (event takeOk s) := by
  have hended := event_ended (g := takeOk) hcur.1
  rw [hg] at hended
  exact hended

theorem session_goes : v.st.EventEnds (event takeOk s) :=
  (serveLink_ends v).trans (session_ended hcur hg).ends

include hv

theorem session_lasting : (event takeOk s).ru.b = 10 ∧ (event takeOk s).ru.attachTimeouts = 0
    ∧ (event takeOk s).ru.sessionSince = s.now ∧ (event takeOk s).ev.latch.getLsbD 8 = true := by
  have hkept := event_kept takeOk s hcur.1
  rw [hg] at hkept
  have hall := hkept.trans (serveLink_kept v)
  have hlasting : (event takeOk s).ru.lasting = v.st.ru.lasting := (congrArg State.ru hall :)
  rw [hv.ru] at hlasting
  exact ⟨(congrArg RadioUnit.b hlasting :), (congrArg RadioUnit.attachTimeouts hlasting :),
    (congrArg RadioUnit.sessionSince hlasting :),
    getLsbD_of_latched ((session_goes hcur hg).latches _ hv.bit) (by decide)⟩

/-- The radio path's record and the grade state: the rise, and the loss where the session closes in the event. -/
theorem session_radio : (event takeOk s).grade = (if s.radio.state = .down then GradeState.start else s.grade)
    ∧ ((event takeOk s).ru.state = .session → (event takeOk s).radio = s.radio.availableIn s)
    ∧ ((event takeOk s).ru.state ≠ .session → (event takeOk s).radio = (s.radio.availableIn s).lostIn
        { s with grade := if s.radio.state = .down then GradeState.start else s.grade } .radio) := by
  have hgoes := (session_goes hcur hg).link
  obtain ⟨hradio, hgrade, hclk, hexch, -⟩ := hv.fields
  obtain ⟨-, hsession, -⟩ := hv.free
  generalize event takeOk s = t at *
  refine ⟨hgoes.grade.trans hgrade, fun hs => ?_, fun hs => ?_⟩
  · exact (hgoes.stays fun h => h.2 hs).1.trans hradio
  · rw [(hgoes.lost ⟨hsession, hs⟩).1, hradio]
    exact lostIn_congr (s := { s with grade := if s.radio.state = .down then GradeState.start else s.grade }) hclk
      (congrArg Exchange.service hexch) hgrade _ _

theorem session_linkServed : ({ s with ru := ({ s.ru with outstanding := none } : RadioUnit).inSession s.now }
    : State).linkServed (event takeOk s) := by
  refine linkServed_congr hv.ru.symm hv.fields.2.2.1.symm (linkServed_of hv.free.1 (session_ended hcur hg))

theorem session_left (ht : s.ru.target ≠ .session) :
    (event takeOk s).radio.state = .down ∧ (event takeOk s).counts.radio = s.counts.radio + 2 := by
  obtain ⟨hfree, hsession, htarget⟩ := hv.free
  have haway : v.st.ru.target ≠ .session := by
    rw [htarget]
    exact ht
  have hsends : v.st.ru.sends = some .closing := by
    unfold RadioUnit.sends
    rw [hsession]
    revert haway
    cases v.st.ru.target <;> simp
  have hleft := (session_ended hcur hg).left (serveLink_left hfree hsends)
  have htells := serveLink_tells_radio hsession haway hfree hv.rises
  have hcounts := (steady_counts s.counts).serveLink v hv.fields.2.2.2.2.1
  rw [← hg] at htells hcounts
  refine ⟨?_, event_radioCount hcur.1 htells hcounts⟩
  rw [hleft.radio]
  exact lostIn_state _ _ _

/-! ## The session kept -/

section
variable (ht : s.ru.target = .session)
include ht

omit hcur in
theorem session_serves : ∃ o x q, (takeOk (Work.begin s)).st = { v.st with
    ru := { v.st.ru with outstanding := o, tx := x, queryPending := q } } ∧ (takeOk (Work.begin s)).debts = v.debts := by
  rw [hg]
  exact serveLink_inSession hv.free.2.1 (hv.free.2.2.trans ht)

/-- With the radio path up before, no pass is owed. -/
theorem session_rests (hup : s.radio.state ≠ .down) : (event takeOk s).ru.state = .session := by
  obtain ⟨o, x, q, hst, hdebts⟩ := session_serves hv hg ht
  rw [hv.debts hup] at hdebts
  have hidle : passes (takeOk (Work.begin s)) = takeOk (Work.begin s) :=
    runPasses_idle _ (congrArg (fun d : Bool × Bool × Bool => d.1) hdebts)
      (congrArg (fun d : Bool × Bool × Bool => d.2.1) hdebts)
  rw [event_eq_finish hcur.1, hidle, finish_ru, hst]
  exact hv.free.2.1

theorem session_kept (hservice : s.exch.service = .service) (hidle : s.drill.running = false)
    (hdrill : v.st.drill = s.drill)
    (hkeeps : s.cappedStandby = .session ∨ (0 < s.effectiveLinger ∧ (s.ru.lingerOn = true ∨ s.steer.demand = true))) :
    (event takeOk s).ru.state = .session := by
  obtain ⟨o, x, q, hst, hdebts⟩ := session_serves hv hg ht
  have hended := (debts_iff.mp hdebts).2.2
  obtain ⟨-, -, -, hexch, -, hsteer, hsup⟩ := hv.fields
  have hru := hv.ru
  have hopen : (takeOk (Work.begin s)).StaysOpen := by
    refine ⟨?_, ?_, ?_, hended.trans (hv.ended hidle), ?_⟩
    · rw [hst]
      exact hv.free.2.1
    · rw [hst]
      exact (congrArg Exchange.service hexch).trans hservice
    · rw [hst]
      exact (congrArg Drill.running hdrill).trans hidle
    · unfold State.keepsOpen State.cappedStandby State.effectiveLinger at *
      rw [hst]
      dsimp only
      rw [hsup, hsteer, hru]
      exact hkeeps
  rw [event_eq_finish hcur.1, finish_ru]
  exact (passes_staysOpen hopen).session

theorem session_drillsOn {d : Drill} (hrun : d.running = true) (hservice : s.exch.service = .service) (hdrill : v.st.drill = d) :
    (event takeOk s).drillsOn d := by
  obtain ⟨o, x, q, hst, -⟩ := session_serves hv hg ht
  have hopen : (takeOk (Work.begin s)).st.drillsOn d := by
    left
    rw [hst]
    exact ⟨hdrill, hv.free.2.1, (congrArg Exchange.service hv.fields.2.2.2.1).trans hservice⟩
  have hends := passes_drillsOn hrun hopen
  rw [event_eq_finish hcur.1]
  unfold State.drillsOn at *
  rw [finish_drill, finish_ru, finish_service]
  exact hends

end

end

end Sys2Proof.Machine
end


section
/-! OK, REFUSED and SESSION CLOSED where the modem link layer waits for them (R59 to R63, R68, R69, R73, R158, R160). -/

namespace Sys2Proof.Machine

/-! ## Into ATTACHED -/

section
variable {s : State} {due : Time} (hcur : s.current)
include hcur

/-- OK to ATTACH (R59, R60). -/
theorem okToAttach (hopen : s.ru.outstanding = some { kind := .attach, stale := false, due := due })
    (hstate : s.ru.state = .attaching) :
    let r := ({ s.ru with outstanding := none, attachTimeouts := 0 } : RadioUnit).entered s.now
    let t := event takeOk s
    ({ s with ru := r } : State).linkServed t ∧ t.ru.state = s.ru.target.fromAttached
      ∧ t.ru.lasting = r.lasting ∧ t.radio = s.radio ∧ t.grade = s.grade ∧ t.allow = s.allow := by
  have hg : takeOk (Work.begin s) = serveLink (enterAttached ((clearRequest (Work.begin s)).onRu
      fun r => { r with attachTimeouts := 0 })) :=
    (takeOk_open (w := Work.begin s) hopen (by decide)).trans
      (congrArg serveLink (okTo_attach (w := clearRequest (Work.begin s)) hstate))
  rw [serveLink_enterAttached (w := (clearRequest (Work.begin s)).onRu fun r => { r with attachTimeouts := 0 }) rfl] at hg
  exact event_attaches (g := takeOk) (f := fun r => { r with outstanding := none, attachTimeouts := 0 }) hcur
    (by rw [hstate]; decide) (fun _ => rfl) rfl hg

/-- OK to CLOSE SESSION in CLOSING (R62). -/
theorem okToClose (hopen : s.ru.outstanding = some { kind := .closeSession, stale := false, due := due })
    (hstate : s.ru.state = .closing) :
    let r := ({ s.ru with outstanding := none } : RadioUnit).entered s.now
    let t := event takeOk s
    ({ s with ru := r } : State).linkServed t ∧ t.ru.state = s.ru.target.fromAttached
      ∧ t.ru.lasting = r.lasting ∧ t.radio = s.radio ∧ t.grade = s.grade ∧ t.allow = s.allow := by
  have hg : takeOk (Work.begin s) = serveLink (enterAttached (clearRequest (Work.begin s))) :=
    (takeOk_open (w := Work.begin s) hopen (by decide)).trans
      (congrArg serveLink (okTo_closeSession (w := clearRequest (Work.begin s)) hstate))
  rw [serveLink_enterAttached (w := clearRequest (Work.begin s)) rfl] at hg
  exact event_attaches (g := takeOk) (f := fun r => { r with outstanding := none }) hcur
    (by rw [hstate]; decide) (fun _ => rfl) rfl hg

/-- REFUSED to CLOSE SESSION in CLOSING (R62). -/
theorem refusedToClose (reason : Byte)
    (hopen : s.ru.outstanding = some { kind := .closeSession, stale := false, due := due })
    (hstate : s.ru.state = .closing) :
    let r := ({ s.ru with outstanding := none, refusalReason := reason, refusalKind := some .closeSession }
      : RadioUnit).entered s.now
    let t := event (takeRefused reason) s
    ({ s with ru := r } : State).linkServed t ∧ t.ru.state = s.ru.target.fromAttached
      ∧ t.ru.lasting = r.lasting ∧ t.radio = s.radio ∧ t.grade = s.grade ∧ t.allow = s.allow := by
  let f : RadioUnit → RadioUnit := fun r =>
    { r with outstanding := none, refusalReason := reason, refusalKind := some .closeSession }
  have hg : takeRefused reason (Work.begin s) = serveLink (enterAttached ((Work.begin s).onRu f)) :=
    (takeRefused_open (w := Work.begin s) reason hopen (by decide)).trans
      (congrArg serveLink (refusedTo_closing (w := (Work.begin s).onRu f) hstate))
  rw [serveLink_enterAttached (w := (Work.begin s).onRu f) rfl] at hg
  exact event_attaches (g := takeRefused reason) (f := f) hcur (by rw [hstate]; decide) (fun _ => rfl) rfl hg

end

/-! ## The session entered -/

section
variable {s : State} (hcur : s.current) {v : Work} (hv : s.Entered v) (hg : takeOk (Work.begin s) = serveLink v)
  (hdown : s.radio.state = .down) (hservice : s.exch.service = .service)
include hcur hv hg hdown hservice

theorem session_rises (hsession : (event takeOk s).ru.state = .session) : (event takeOk s).radio.state
    = (if s.radio.damping = true ∧ s.radio.suppress ≤ s.radio.penalty then PathState.suppressed
        else if s.radio.linkOnly = true then .up else .proving) := by
  rw [(session_radio hcur hv hg).2.1 hsession, availableIn_state, if_neg (not_not.mpr hdown)]
  exact if_neg (not_not.mpr hservice)

theorem session_passes (hrun : s.drill.running = true) (hlink : s.radio.linkOnly = true)
    (hnot : ¬(s.radio.damping = true ∧ s.radio.suppress ≤ s.radio.penalty)) :
    latched (bitMask 11) (event takeOk s) ∧ (event takeOk s).drill =
      ({ s with ru := ({ s.ru with outstanding := none } : RadioUnit).inSession s.now,
                radio := s.radio.movesTo s.now .up } : State).drillEnded .pass .radioUp := by
  have hup : s.availableAs s.radio = .up := by
    unfold State.availableAs
    rw [if_neg (not_not.mpr hservice), if_neg hnot, if_pos hlink]
  have hdrill := hv.drill hdown
  rw [if_pos ⟨hup, hrun⟩] at hdrill
  have hgoes := session_goes hcur hg
  refine ⟨hgoes.latches _ (hv.passes hdown hup hrun), (hgoes.drill ?_).trans hdrill⟩
  rw [hdrill]
  rfl

theorem session_drillGoesOn (hrun : s.drill.running = true)
    (hnot : s.radio.linkOnly = false ∨ (s.radio.damping = true ∧ s.radio.suppress ≤ s.radio.penalty))
    (ht : s.ru.target = .session) : (event takeOk s).drillsOn s.drill := by
  have hup : s.availableAs s.radio ≠ .up := by
    unfold State.availableAs
    rw [if_neg (not_not.mpr hservice)]
    split
    · decide
    · next hs =>
      rw [(hnot.resolve_right hs)]
      decide
  have hdrill := hv.drill hdown
  rw [if_neg fun h => hup h.1] at hdrill
  exact session_drillsOn hcur hv hg ht hrun hservice hdrill

end

theorem movesTo_linkOnly (now : Time) (n : PathState) (r : PathRec) : (r.movesTo now n).linkOnly = r.linkOnly := by
  unfold PathRec.movesTo
  dsimp only
  split <;> rfl

/-- The record of a drill that ends PASS with a link-only radio path that becomes UP in the session (R158, R161). -/
theorem drillEnded_up {s : State} {r : RadioUnit} (hsession : r.state = .session) (hattaches : r.attaches = s.ru.attaches)
    (hlink : s.radio.linkOnly = true) :
    ({ s with ru := r, radio := s.radio.movesTo s.now .up } : State).drillEnded .pass .radioUp = { s.drill with
      running := false, pass := true, last := {
        valid := true, outcome := some .pass, cause := some .radioUp, start := s.drill.start,
        limit := s.drill.limit, duration := s.now - s.drill.start, radio := some .session, path := some .up,
        score := 1000, measured := s.radio.measured, pathCause := s.radio.cause.cause,
        causeValid := s.radio.cause.valid, attaches := s.ru.attaches - s.drill.attaches } } := by
  obtain ⟨hstate, -, -, hcause, -⟩ := movesTo_fields s.now .up s.radio
  have hmeasured := movesTo_measured s.now .up s.radio
  have honly := movesTo_linkOnly s.now .up s.radio
  generalize s.radio.movesTo s.now .up = x at *
  unfold State.drillEnded
  dsimp only
  rw [if_pos (Or.inl (honly.trans hlink)), hstate, hcause, hmeasured, hsession, hattaches]
  rfl

/-- Settles O41. -/
theorem okAnswersMoveTheUnit : Obligations.OkAnswersMoveTheUnit := by
  unfold Obligations.OkAnswersMoveTheUnit
  refine ⟨fun s hcur hrx => ?_, fun due s hcur hrx => ?_⟩
  · dsimp only
    refine ⟨fun due hopen hstate => ⟨_, exec_okAnswer hrx, ?attach⟩,
      fun due reason hopen hstate => ⟨⟨_, exec_okAnswer hrx, ?closeOk⟩, _, exec_refusedAnswer reason hrx, ?closeRefused⟩,
      fun hstate hout => ⟨_, exec_sessionClosed hrx, ?closedFree⟩, fun o hout hstate => ⟨_, exec_sessionClosed hrx, ?closedHeld⟩,
      fun k due hopen hk hstate => ⟨_, exec_okAnswer hrx, ?stale⟩⟩
    case attach =>
      obtain ⟨hpolls, -⟩ := unpolled_of (Or.inl hstate)
      obtain ⟨hserved, hmoved, hlasting, hradio, hgrade, hallow⟩ := okToAttach hcur hopen hstate
      obtain ⟨hresets, htimeouts, -⟩ := entered_lasting hlasting
      rw [entered_eq (r := { s.ru with outstanding := none, attachTimeouts := 0 }) hpolls rfl] at hserved
      exact ⟨⟨hmoved, hresets, takeOk_keptByModem s, hradio, hgrade, hallow⟩, hserved, htimeouts⟩
    case closeOk =>
      obtain ⟨hpolls, -⟩ := unpolled_of (Or.inr hstate)
      obtain ⟨hserved, hmoved, hlasting, hradio, hgrade, hallow⟩ := okToClose hcur hopen hstate
      obtain ⟨hresets, -⟩ := entered_lasting hlasting
      rw [entered_eq (r := { s.ru with outstanding := none }) hpolls rfl] at hserved
      exact ⟨⟨hmoved, hresets, takeOk_keptByModem s, hradio, hgrade, hallow⟩, hserved⟩
    case closeRefused =>
      obtain ⟨hpolls, -⟩ := unpolled_of (Or.inr hstate)
      obtain ⟨hserved, hmoved, hlasting, hradio, hgrade, hallow⟩ := refusedToClose hcur reason hopen hstate
      obtain ⟨hresets, -, hreason, hkind⟩ := entered_lasting hlasting
      rw [entered_eq (r := { s.ru with outstanding := none, refusalReason := reason, refusalKind := some .closeSession })
        hpolls rfl] at hserved
      exact ⟨⟨hmoved, hresets, takeRefused_keptByModem reason s, hradio, hgrade, hallow⟩, hserved, hreason, hkind⟩
    case closedFree =>
      obtain ⟨hpolls, -⟩ := unpolled_of (Or.inr hstate)
      obtain ⟨hmoved, hresets, hradio, hgrade, hallow, hserved⟩ := closedInClosing_free hcur hstate hout
      rw [entered_eq hpolls hout] at hserved
      exact ⟨⟨hmoved, hresets, event_keptByModem _ s (takeSessionClosed_keptByModem s), hradio, hgrade, hallow⟩, hserved⟩
    case closedHeld =>
      obtain ⟨hmoved, hheld, hresets, hradio, hgrade⟩ := closedInClosing_held hcur hstate hout
      exact ⟨hmoved, hheld, hresets, event_keptByModem _ s (takeSessionClosed_keptByModem s), hradio, hgrade⟩
    case stale =>
      obtain ⟨hmoved, hradio, hgrade⟩ := staleInAttached hcur hopen hk hstate
      exact ⟨hmoved, takeOk_keptByModem s, hradio, hgrade⟩
  · refine ⟨fun hopen hstate => ⟨_, exec_okAnswer hrx, ?session⟩,
      fun hopen hstate ht => ⟨_, exec_okAnswer hrx, ?detach⟩, fun hopen hstate ht => ⟨_, exec_okAnswer hrx, ?stop⟩,
      fun hopen hstate => ⟨_, exec_okAnswer hrx, ?resync⟩⟩
    case session =>
      have hs : s.ru.state ≠ .session := by rw [hstate]; decide
      have hv := enteringWork_entered hs
      have hg := okOpens_eq hopen hstate
      rw [serveLink_act hv.free.1 (Or.inr hv.free.2.1)] at hg
      generalize enteringWork s = v at *
      obtain ⟨hb, htimeouts, hsince, hbit⟩ := session_lasting hcur hv hg
      obtain ⟨hgrade, hopened, hclosed⟩ := session_radio hcur hv hg
      have hserved := session_linkServed hcur hv hg
      rw [inSession_eq (r := { s.ru with outstanding := none }) hstate rfl] at hserved
      refine ⟨hb, htimeouts, hsince, hbit, takeOk_keptByModem s, fun ht hup => session_rests hcur hv hg ht hup,
        fun ht hdown hservice hidle hkeeps => ?kept, fun ht => session_left hcur hv hg ht, hgrade, ?radio, hserved,
        fun hdown hservice hrun => ⟨fun hlink hnot => ?passes, fun hnot ht => ?goesOn⟩⟩
      case kept =>
        have hdrill := hv.drill hdown
        rw [if_neg fun h => absurd (h.2.symm.trans hidle) (by decide)] at hdrill
        have hsession := session_kept hcur hv hg ht hservice hidle hdrill hkeeps
        exact ⟨hsession, session_rises hcur hv hg hdown hservice hsession⟩
      case radio =>
        split
        · next h => exact hopened h
        · next h => exact hclosed h
      case passes =>
        obtain ⟨hlatched, hdrill⟩ := session_passes hcur hv hg hdown hservice hrun hlink hnot
        refine ⟨getLsbD_of_latched hlatched (by decide), ?_⟩
        exact hdrill.trans (drillEnded_up rfl rfl hlink)
      case goesOn =>
        rcases session_drillGoesOn hcur hv hg hdown hservice hrun hnot ht with ⟨hdrill, hsession, -⟩ | hended
        · refine ⟨fun _ => ⟨hdrill, hsession, ?_⟩, fun hidle => ?_⟩
          · rw [session_rises hcur hv hg hdown hservice hsession]
            split
            · rfl
            · next hclear =>
              rw [hnot.resolve_right hclear]
              rfl
          · rw [hdrill, hrun] at hidle
            cases hidle
        · exact ⟨fun hruns => absurd (hruns.symm.trans hended.1) (by decide), fun _ => hended.2⟩
    case detach =>
      obtain ⟨hru, hradio, hgrade⟩ := okToDetach hcur hopen hstate
      exact ⟨((stopsModem_of hru hradio rfl rfl rfl rfl).2 ht).1, takeOk_keptByModem s, hgrade⟩
    case stop =>
      obtain ⟨hru, hradio, hgrade⟩ := okToDetach hcur hopen hstate
      exact ⟨(stopsModem_of hru hradio rfl rfl rfl rfl).1 ht, takeOk_keptByModem s, hgrade⟩
    case resync =>
      refine (okInResync hcur hopen hstate).trans (congrArg State.plain ?_)
      rw [send_detach]
      exact ofRuPlain_rx hrx _ rfl

end Sys2Proof.Machine
end


section
/-! START SERVICE (R178), and the part that both service orders have: the pass, then the target (R73, R87). -/

namespace Sys2Proof.Machine

/-! ## The passes, then the target -/

/-- An order's work after a pass and the passes that follow it, its target recomputed (R178, R179). -/
def retarget (w : Work) : Work := recomputeTarget (passes w.owePass)

theorem passes_ends (w : Work) : w.st.EventEnds (passes w).st where
  link := passes_linkGoes w
  fibre := passes_fibre w
  ret := ⟨(congrArg (fun u : State => u.steer.ret) (passes_kept w) :),
    (congrArg (fun u : State => u.steer.retDue) (passes_kept w) :)⟩
  drill := fun hd => (closed_drillRests False False False False True _ hd).passes trivial trivial w rfl
  latches := fun _ hm => passes_latched hm

theorem recomputeTarget_kept (w : Work) : (recomputeTarget w).st.kept = w.st.kept :=
  (closed_kept w.st.kept).recomputeTarget trivial w rfl

theorem recomputeTarget_ends (w : Work) : w.st.EventEnds (recomputeTarget w).st where
  link := demanding_linkGoes.recomputeTarget w
  fibre := (congrArg State.fibre (recomputeTarget_kept w) :)
  ret := ⟨(congrArg (fun u : State => u.steer.ret) (recomputeTarget_kept w) :),
    (congrArg (fun u : State => u.steer.retDue) (recomputeTarget_kept w) :)⟩
  drill := fun hd => (closed_drillRests False False False False True _ hd).recomputeTarget trivial w rfl
  latches := fun m hm => (closedLatched m).recomputeTarget trivial w hm

theorem owePass_st_eq (w : Work) : w.owePass.st = w.st := rfl

theorem retarget_ends (w : Work) : w.st.EventEnds (retarget w).st :=
  (passes_ends w.owePass).trans (recomputeTarget_ends _)

theorem retarget_kept (w : Work) : (retarget w).st.kept = w.st.kept :=
  (recomputeTarget_kept _).trans (passes_kept w.owePass)

theorem retarget_onTarget (w : Work) : (retarget w).st.onTarget := recomputeTarget_onTarget _

theorem retarget_steeredOn {free : Prop} {w : Work} (hfree : free → w.st.hold.active = false) :
    (retarget w).st.steeredOn free := by
  have hpasses := passes_steeredOn (free := free) (w := w.owePass) rfl hfree
  unfold retarget
  exact (closed_steeredOn free).recomputeTarget trivial _ hpasses

/-! ## START SERVICE (R178) -/

/-- The state that START SERVICE enters SERVICE with. -/
def State.started (s : State) : State :=
  { s with exch := { s.exch with service := .service }, fibre := { s.fibre with ticks := 0 },
           radio := { s.radio with ticks := 0 } }

/-- The work of START SERVICE before its pass. -/
def startWork (s : State) : Work := clearTicks .radio (clearTicks .fibre (setService .service (Work.begin s)))

theorem startWork_st (s : State) : (startWork s).st = s.started := rfl

theorem orderStart_config {ps : List Byte} {s : State} (h : s.exch.service = .config) : orderStartService ps (Work.begin s)
    = { work := retarget (startWork s), result := .ok, answer := startAnswer } := by
  unfold orderStartService
  rw [if_neg (by rw [show (Work.begin s).st.exch.service = .config from h]; decide)]
  rfl

theorem orderStart_service {ps : List Byte} {s : State} (h : s.exch.service = .service) : orderStartService ps (Work.begin s)
    = { work := Work.begin s, result := .ok, answer := startAnswer } := by
  unfold orderStartService
  rw [if_pos (show (Work.begin s).st.exch.service = .service from h)]

theorem lostIn_ticks {s : State} {p : Path} {r : PathRec} (h : r.ticks = 0) : (r.lostIn s p).ticks = 0 := by
  have hmoves : (r.settled.movesTo s.now .down).ticks = 0 := by
    unfold PathRec.movesTo
    dsimp only
    split <;> rfl
  unfold PathRec.lostIn
  dsimp only
  generalize min 8000 (r.penalty + 1000) = penalty
  split
  · exact h
  · split
    · exact hmoves
    · exact hmoves

/-- What the orders of the service answer of the state that they leave. -/
theorem takeKind_shown {kind i : Nat} {rest : List Nat} {s : State} {body : List Byte → Work → Answered} {v : Work}
    (hoffers : s.offersKind kind i rest) (hv : (body (slotParams s.mem i) (Work.begin s)).work = v) :
    (takeKind kind body s).fibre = (passes v).st.fibre ∧ (takeKind kind body s).radio = (passes v).st.radio
      ∧ (takeKind kind body s).ru = (passes v).st.ru :=
  ⟨takeKind_path hoffers hv .fibre, takeKind_path hoffers hv .radio, takeKind_ru hoffers hv⟩

theorem serviceStarts {i : Nat} {rest : List Nat} {s : State} (hoffers : s.offersKind Kind.startService i rest)
    (hservice : s.exch.service = .config) :
    let t := takeKind Kind.startService orderStartService s
    t.kept = (({ s with exch := { s.exch with service := .service }, fibre := { s.fibre with ticks := 0 } }
        : State).answered i rest .ok (pack [(1, 2), (1, t.fibre.state.code), (1, t.radio.state.code),
          (1, t.ru.state.code), (1, t.ru.target.code)])).kept
      ∧ t.radio.ticks = 0 ∧ t.ru.target = t.targetNow ∧ t.steered (s.hold.active = false) := by
  have hbody := orderStart_config (ps := slotParams s.mem i) hservice
  have hwork := congrArg Answered.work hbody
  have hst := startWork_st s
  have hkept := retarget_kept (startWork s)
  have hends := retarget_ends (startWork s)
  have htarget := retarget_onTarget (startWork s)
  have hsteered := retarget_steeredOn (free := s.hold.active = false) (w := startWork s) fun h => by
    rw [hst]
    exact h
  rw [hst] at hkept hends
  dsimp only
  generalize retarget (startWork s) = v at *
  have hmem : v.st.mem = s.mem := (congrArg State.mem hkept :)
  have htaken := takeKind_kept_of (kind := Kind.startService) hoffers hbody hkept rfl
  have hall := hends.trans (takeKind_ends (kind := Kind.startService) hoffers hwork hmem)
  obtain ⟨hfibre, hradio, hru⟩ := takeKind_shown (kind := Kind.startService) hoffers hwork
  have hshown : (passes v).st.exch.service = .service := service_of_kept ((passes_kept v).trans hkept)
  have honTarget := takeKind_onTarget (kind := Kind.startService) hoffers hwork htarget
  have hsettled := takeKind_settled (kind := Kind.startService) (body := orderStartService) hoffers
    (free := s.hold.active = false) (by rw [hwork]; exact hsteered)
  generalize takeKind Kind.startService orderStartService s = t at *
  refine ⟨?_, ?_, honTarget, hsettled⟩
  · rw [htaken, hfibre, hradio, hru]
    unfold startAnswer
    rw [hshown]
    rfl
  · by_cases hc : s.started.closes t
    · rw [(hall.link.lost hc).1]
      exact lostIn_ticks rfl
    · rw [(hall.link.stays hc).1]
      rfl

end Sys2Proof.Machine
end


section
/-! STOP SERVICE: every flow record in use is freed, with its held frames (R105, R130, R179). -/

namespace Sys2Proof.Machine

/-- Flow records after those of a list have been freed. -/
def freedFlows : List Nat → List FlowRec → List FlowRec
  | [], fs => fs
  | i :: is, fs => freedFlows is (if (fs.getD i (FlowRec.freed 0)).state = .free then fs
      else fs.set i (freed (fs.getD i (FlowRec.freed 0))))

theorem freedFlows_getElem? (l : List Nat) (fs : List FlowRec) (k : Nat) :
    (freedFlows l fs)[k]? = fs[k]?.map fun f => if k ∈ l ∧ f.state ≠ .free then freed f else f := by
  induction l generalizing fs with
  | nil =>
    unfold freedFlows
    generalize fs[k]? = f
    cases f with
    | none => rfl
    | some f => simp
  | cons i l ih =>
    unfold freedFlows
    rw [ih]
    by_cases hfree : (fs.getD i (FlowRec.freed 0)).state = .free
    · rw [if_pos hfree]
      by_cases hk : k = i
      · subst hk
        cases hget : fs[k]? with
        | none => rfl
        | some f =>
          rw [List.getD_eq_getElem?_getD, hget] at hfree
          have hf : f.state = .free := hfree
          simp [hf]
      · simp [hk]
    · rw [if_neg hfree]
      have hi : i < fs.length := by
        by_contra hge
        exact hfree (by
          rw [List.getD_eq_default _ _ (Nat.le_of_not_lt hge)]
          rfl)
      by_cases hk : k = i
      · subst hk
        have hget : fs[k]? = some (fs.getD k (FlowRec.freed 0)) := by
          rw [List.getD_eq_getElem _ _ hi, List.getElem?_eq_getElem hi]
        rw [List.getElem?_set_self hi, hget]
        generalize fs.getD k (FlowRec.freed 0) = f at *
        simp [hfree, freed, FlowRec.freed]
      · rw [List.getElem?_set_ne (Ne.symm hk)]
        simp [hk]

/-- Every record of a table that the list covers. -/
theorem freedFlows_range {fs : List FlowRec} {n : Nat} (h : fs.length = n) : freedFlows (List.range n) fs
    = fs.map fun f => if f.state = .free then f else FlowRec.freed f.count := by
  refine List.ext_getElem? fun k => ?_
  rw [freedFlows_getElem?, List.getElem?_map]
  cases hget : fs[k]? with
  | none => rfl
  | some f =>
    have hk : k < n := h ▸ (List.getElem?_eq_some_iff.mp hget).1
    by_cases hf : f.state = .free
    · simp [hf]
    · simp [hf, hk, freed]

/-- A held frame that is bound to a record in use of a list. -/
def HeldFrame.boundIn (l : List Nat) (fs : List FlowRec) (h : HeldFrame) : Bool :=
  match h.flow with
  | none => false
  | some k => decide (k ∈ l) && decide ((fs.getD k (FlowRec.freed 0)).state ≠ .free)

/-- Held frames counted as discarded, where there are any. -/
def ForwardCounts.discards (n : Nat) (c : ForwardCounts) : ForwardCounts := if n = 0 then c else c.discardHeld n

theorem discards_discards (m n : Nat) (c : ForwardCounts) : (c.discards m).discards n = c.discards (m + n) := by
  unfold ForwardCounts.discards
  by_cases hm : m = 0
  · simp [hm]
  · by_cases hn : n = 0
    · simp [hn]
    · rw [if_neg hm, if_neg hn, if_neg (by omega)]
      unfold ForwardCounts.discardHeld hold32
      simp only [ForwardCounts.mk.injEq, true_and, and_true]
      omega

/-- What the hold buffer, its counts and the radio queue are once the frames of freed records are dropped. -/
structure Forwarding.Drops (f g : Forwarding) (gone : HeldFrame → Bool) : Prop where
  held : g.held = f.held.filter fun h => !gone h
  counts : g.counts = f.counts.discards (f.held.filter gone).length
  urgent : g.radioQ.urgent.length = f.radioQ.urgent.length
  normal : g.radioQ.normal.length = f.radioQ.normal.length
  lasting : g.lasting = f.lasting

theorem Forwarding.Drops.refl (f : Forwarding) {gone : HeldFrame → Bool} (h : ∀ x ∈ f.held, gone x = false) : f.Drops f gone where
  held := (List.filter_eq_self.mpr fun x hx => by simp [h x hx]).symm
  counts := by
    rw [List.filter_eq_nil_iff.mpr fun x hx => by rw [h x hx]; decide]
    rfl
  urgent := rfl
  normal := rfl
  lasting := rfl

theorem length_filter_split {α : Type} (p q r : α → Bool) (l : List α) (h : ∀ x ∈ l, r x = (p x || (!p x && q x))) :
    (l.filter p).length + ((l.filter fun x => !p x).filter q).length = (l.filter r).length := by
  induction l with
  | nil => rfl
  | cons x l ih =>
    have hx := h x List.mem_cons_self
    have hrest := ih fun y hy => h y (List.mem_cons_of_mem _ hy)
    cases hp : p x <;> cases hq : q x <;> simp [hp, hq, hx, -List.filter_filter] <;> omega

/-- Frames dropped of one sort, then of another. -/
theorem Forwarding.Drops.trans {f g k : Forwarding} {p q r : HeldFrame → Bool} (h : f.Drops g p) (h' : g.Drops k q)
    (hr : ∀ x ∈ f.held, r x = (p x || (!p x && q x))) : f.Drops k r where
  held := by
    rw [h'.held, h.held, List.filter_filter]
    refine List.filter_congr fun x hx => ?_
    rw [hr x hx]
    cases p x <;> cases q x <;> rfl
  counts := by
    rw [h'.counts, h.held, h.counts, discards_discards, length_filter_split p q r f.held hr]
  urgent := h'.urgent.trans h.urgent
  normal := h'.normal.trans h.normal
  lasting := h'.lasting.trans h.lasting

theorem unbound_lengths (i : Nat) (q : TxQueue) : (q.unbound i).urgent.length = q.urgent.length
    ∧ (q.unbound i).normal.length = q.normal.length := ⟨List.length_map .., List.length_map ..⟩

theorem without_drops (i : Nat) (f : Forwarding) : f.Drops (f.without i) fun h => decide (h.flow = some i) where
  held := rfl
  counts := rfl
  urgent := (unbound_lengths i f.radioQ).1
  normal := (unbound_lengths i f.radioQ).2
  lasting := rfl

/-! ## Records freed one after another (R105, R130) -/

/-- The work after the records of a list that are in use have been freed. -/
structure Work.Frees (l : List Nat) (w v : Work) : Prop where
  st : ∃ f e, v.st = { w.st with flows := freedFlows l w.st.flows, fwd := f, ev := e }
    ∧ w.st.fwd.Drops f (HeldFrame.boundIn l w.st.flows)
  drops : (w.st.fwd.held.filter (HeldFrame.boundIn l w.st.flows)).length ≠ 0 → latched (bitMask 13) v.st
  latches : ∀ m, latched m w.st → latched m v.st

theorem freeFlow_onlyEv (i : Nat) (w : Work) : ({ w.st with
    flows := w.st.flows.set i (freed (w.st.flow i)), fwd := w.st.fwd.without i } : State).OnlyEv (freeFlow i w).st :=
  releaseFrames_onlyEv i (w.onFlow i freed)

theorem freeFlow_latched {i : Nat} {w : Work}
    (h : 0 < (w.st.fwd.held.filter fun h => decide (h.flow = some i)).length) : latched (bitMask 13) (freeFlow i w).st :=
  releaseFrames_latched (w := w.onFlow i freed) h

theorem boundIn_cons_free {i : Nat} {l : List Nat} {fs : List FlowRec} (h : (fs.getD i (FlowRec.freed 0)).state = .free)
    (x : HeldFrame) : x.boundIn (i :: l) fs = x.boundIn l fs := by
  unfold HeldFrame.boundIn
  cases x.flow with
  | none => rfl
  | some k =>
    by_cases hk : k = i
    · subst hk
      dsimp only
      generalize fs.getD k (FlowRec.freed 0) = f at *
      simp [h]
    · simp [hk]

theorem boundIn_cons_used {i : Nat} {l : List Nat} {fs : List FlowRec} (h : (fs.getD i (FlowRec.freed 0)).state ≠ .free)
    (x : HeldFrame) : x.boundIn (i :: l) fs = (decide (x.flow = some i) || (!decide (x.flow = some i)
      && x.boundIn l (fs.set i (freed (fs.getD i (FlowRec.freed 0)))))) := by
  unfold HeldFrame.boundIn
  cases hx : x.flow with
  | none => simp
  | some k =>
    by_cases hk : k = i
    · subst hk
      dsimp only
      generalize fs.getD k (FlowRec.freed 0) = f at *
      simp [h]
    · have hget : ∀ g, (fs.set i g).getD k (FlowRec.freed 0) = fs.getD k (FlowRec.freed 0) := fun g => by
        rw [List.getD_eq_getElem?_getD, List.getElem?_set_ne (Ne.symm hk), ← List.getD_eq_getElem?_getD]
      dsimp only
      rw [hget]
      generalize fs.getD k (FlowRec.freed 0) = f at *
      simp [hk]

theorem freeFlows_st (l : List Nat) (w : Work) : w.Frees l (freeFlows l w) := by
  induction l generalizing w with
  | nil =>
    have hnone : ∀ x ∈ w.st.fwd.held, HeldFrame.boundIn [] w.st.flows x = false := fun x _ => by
      unfold HeldFrame.boundIn
      split <;> simp
    refine ⟨⟨w.st.fwd, w.st.ev, rfl, .refl _ hnone⟩, fun h => absurd ?_ h, fun _ hm => hm⟩
    rw [List.filter_eq_nil_iff.mpr fun x hx => by rw [hnone x hx]; decide]
    rfl
  | cons i l ih =>
    unfold freeFlows
    by_cases hfree : (w.st.flow i).state = .free
    · rw [if_pos hfree]
      have hbound : HeldFrame.boundIn (i :: l) w.st.flows = HeldFrame.boundIn l w.st.flows :=
        funext fun x => boundIn_cons_free hfree x
      have hflows : freedFlows (i :: l) w.st.flows = freedFlows l w.st.flows := by
        show freedFlows l _ = _
        exact congrArg (freedFlows l) (if_pos hfree)
      obtain ⟨hst, hdrops, hlatches⟩ := ih w
      refine ⟨?_, ?_, hlatches⟩
      · rw [hbound, hflows]
        exact hst
      · rw [hbound]
        exact hdrops
    · rw [if_neg hfree]
      have hused := boundIn_cons_used (l := l) hfree
      have hflows : freedFlows (i :: l) w.st.flows = freedFlows l (w.st.flows.set i (freed (w.st.flow i))) := by
        show freedFlows l _ = _
        exact congrArg (freedFlows l) (if_neg hfree)
      obtain ⟨e, -, hfirst⟩ := freeFlow_onlyEv i w
      have hlatched := freeFlow_latched (i := i) (w := w)
      have hkeeps : ∀ m, latched m w.st → latched m (freeFlow i w).st := fun m hm =>
        (closedLatched m).releaseFrames i (w.onFlow i freed) hm
      generalize freeFlow i w = x at *
      obtain ⟨⟨f, e', hst, hdrops⟩, hgone, hlatches⟩ := ih x
      have hxflows : x.st.flows = w.st.flows.set i (freed (w.st.flow i)) := by rw [hfirst]
      have hxfwd : x.st.fwd = w.st.fwd.without i := by rw [hfirst]
      rw [hxflows] at hst hdrops hgone
      rw [hxfwd] at hdrops hgone
      have hall := (without_drops i w.st.fwd).trans hdrops fun y _ => hused y
      refine ⟨⟨f, e', ?_, hall⟩, fun hsome => ?_, fun m hm => hlatches m (hkeeps m hm)⟩
      · rw [hst, hflows, hfirst]
      · rw [← length_filter_split _ _ _ _ fun y _ => hused y] at hsome
        by_cases hone : (w.st.fwd.held.filter fun h => decide (h.flow = some i)).length = 0
        · refine hgone ?_
          rw [hone, Nat.zero_add] at hsome
          exact hsome
        · exact hlatches _ (hlatched (Nat.pos_of_ne_zero hone))

end Sys2Proof.Machine
end


section
/-! STOP SERVICE: its steps before the pass (R43, R92, R105, R130, R160, R179). -/

namespace Sys2Proof.Machine

/-! ## The steps, one by one -/

/-- The drill record after STOP SERVICE (R160). -/
def State.drillStopped (s : State) : Drill := if s.drill.running = true then s.drillEnded .aborted .stopped else s.drill

theorem State.OnlyEv.eq {s t : State} (h : s.OnlyEv t) : ∃ e, t = { s with ev := e } := by
  obtain ⟨e, -, he⟩ := h
  exact ⟨e, he⟩

theorem endDrill_stops (w : Work) : ∃ e, (endDrill .aborted .stopped w).st
    = { w.st with drill := w.st.drillStopped, ev := e } := by
  unfold State.drillStopped
  by_cases h : w.st.drill.running = true
  · rw [if_pos h]
    exact (endDrill_onlyEv _ _ _ h).eq
  · rw [if_neg h, endDrill_idle _ _ _ (Bool.eq_false_of_not_eq_true h)]
    exact ⟨w.st.ev, rfl⟩

theorem stopLinger_st (w : Work) : (stopLinger w).st = { w.st with ru := { w.st.ru with lingerOn := false } } := by
  unfold stopLinger Work.touchIf
  split <;> rfl

theorem flushRadio_st (w : Work) : (flushQueue .radio w).st = { w.st with fwd := w.st.fwd.radioFlushed } := rfl

/-- A path back in CONFIG: UP, unless it is DOWN (R43). -/
def PathRec.backUp (now : Time) (r : PathRec) : PathRec := if r.state = .down then r else r.movesTo now .up

theorem backUp_of_up {r : PathRec} (h : r.state = .up) (now : Time) : r.backUp now = r := by
  unfold PathRec.backUp
  rw [if_neg (by rw [h]; decide), movesTo_same h]

theorem backUp_state (now : Time) (r : PathRec) : (r.backUp now).state = if r.state = .down then .down else .up := by
  unfold PathRec.backUp
  split
  · next h => exact h
  · exact (movesTo_fields now .up r).1

theorem backToUp_goes {p : Path} {w : Work} (h : (w.st.path p).state ≠ .down) : backToUp p w = setPathState p .up w := by
  unfold backToUp
  cases hs : (w.st.path p).state with
  | down => exact absurd hs h
  | up => exact (setPathState_same hs).symm
  | proving => rfl
  | weak => rfl
  | suppressed => rfl

theorem backToUp_rests {p : Path} {w : Work} (h : (w.st.path p).state = .down) : backToUp p w = w := by
  unfold backToUp
  rw [h]

theorem changed_fibre {s : State} (hhold : s.hold.active = false) : s.changed .fibre .up = { s with
    fibre := s.fibre.movesTo s.now .up, steer := s.steer.sees s.now s.fibre.state .up } := by
  unfold State.changed
  rw [sees_inactive hhold]
  rfl

theorem backToUp_fibre {w : Work} (hhold : w.st.hold.active = false) : ∃ e, (backToUp .fibre w).st = { w.st with
    fibre := w.st.fibre.backUp w.st.now,
    steer := w.st.steer.sees w.st.now w.st.fibre.state (w.st.fibre.backUp w.st.now).state, ev := e } := by
  rw [backUp_state]
  by_cases hdown : w.st.fibre.state = .down
  · rw [backToUp_rests (p := .fibre) hdown, if_pos hdown, hdown, steer_sees_same]
    unfold PathRec.backUp
    rw [if_pos hdown]
    exact ⟨w.st.ev, rfl⟩
  · rw [backToUp_goes (p := .fibre) hdown, if_neg hdown]
    have hback : w.st.fibre.backUp w.st.now = w.st.fibre.movesTo w.st.now .up := if_neg hdown
    rw [hback]
    by_cases hup : w.st.fibre.state = .up
    · rw [setPathState_same (p := .fibre) hup, movesTo_same hup, hup, steer_sees_same]
      exact ⟨w.st.ev, rfl⟩
    · have honly := setPathState_onlyEv .fibre (n := .up) w hup
      rw [changed_fibre hhold] at honly
      exact honly.eq

theorem backToUp_radio {w : Work} (hhold : w.st.hold.active = false) (hdrill : w.st.drill.running = false) :
    ∃ e, (backToUp .radio w).st = { w.st with radio := w.st.radio.backUp w.st.now, ev := e } := by
  by_cases hdown : w.st.radio.state = .down
  · rw [backToUp_rests (p := .radio) hdown]
    unfold PathRec.backUp
    rw [if_pos hdown]
    exact ⟨w.st.ev, rfl⟩
  · rw [backToUp_goes (p := .radio) hdown]
    have hback : w.st.radio.backUp w.st.now = w.st.radio.movesTo w.st.now .up := if_neg hdown
    rw [hback]
    by_cases hup : w.st.radio.state = .up
    · rw [setPathState_same (p := .radio) hup, movesTo_same hup]
      exact ⟨w.st.ev, rfl⟩
    · have hmoved := moved_up w.st (n := .up) (by decide)
      have hchanged : w.st.changed .radio .up = { w.st with radio := w.st.radio.movesTo w.st.now .up } := by
        unfold State.changed State.sighted
        rw [hmoved, sees_inactive hhold]
        dsimp only
        rw [if_neg (by exact hdown), if_neg (by rw [hdrill]; decide)]
      have honly := setPathState_onlyEv .radio (n := .up) w hup
      rw [hchanged] at honly
      exact honly.eq

/-! ## The steps together -/

/-- A path after STOP SERVICE: settled, and UP unless it is DOWN (R43, R179). -/
def State.stoppedPath (s : State) (p : Path) : PathRec := (s.path p).settled.backUp s.now

/-- A held frame of a flow in use. -/
def State.bindsUse (s : State) (h : HeldFrame) : Bool := h.boundIn (List.range 128) s.flows

/-- What the forwarding unit is after STOP SERVICE's steps (R124, R130). -/
structure State.FramesStopped (s : State) (f : Forwarding) : Prop where
  urgent : f.radioQ.urgent = []
  normal : f.radioQ.normal = []
  flushed : f.counts.radioFlush
    = hold32 (s.fwd.counts.radioFlush + (s.fwd.radioQ.urgent.length + s.fwd.radioQ.normal.length))
  discards : f.counts.holdDiscard = (s.fwd.counts.discards (s.fwd.held.filter s.bindsUse).length).holdDiscard
  held : f.held = s.fwd.held.filter fun h => !s.bindsUse h
  lasting : f.lasting = s.fwd.lasting

/-- The work of STOP SERVICE before its pass. -/
structure State.Stopped (s : State) (v : Work) : Prop where
  st : ∃ f e, s.FramesStopped f ∧ v.st = { s with
    drill := s.drillStopped, flows := freedFlows (List.range 128) s.flows, hold := s.hold.ended .stopped s.now,
    ru := { s.ru with lingerOn := false }, exch := { s.exch with service := .config }, fibre := s.stoppedPath .fibre,
    radio := s.stoppedPath .radio, steer := s.steer.sees s.now s.fibre.state (s.stoppedPath .fibre).state, fwd := f, ev := e }
  drops : (s.fwd.held.filter s.bindsUse).length ≠ 0 → latched (bitMask 13) v.st
  change : ∀ p, (s.path p).state ≠ .down → (s.path p).state ≠ .up → latched (bitMask (changeBit p)) v.st
  ready : ∀ p, (s.path p).ready = true → latched (bitMask 15) v.st

theorem discards_flush (n : Nat) (c : ForwardCounts) : (c.discards n).radioFlush = c.radioFlush := by
  unfold ForwardCounts.discards
  split <;> rfl

theorem framesStopped_of {s : State} {g : Forwarding} (h : s.fwd.Drops g s.bindsUse) (a b : List TxFrame) :
    s.FramesStopped { g.radioFlushed with
      fibreQ := { g.radioFlushed.fibreQ with probes := a }, radioQ := { g.radioFlushed.radioQ with probes := b } } where
  urgent := rfl
  normal := rfl
  flushed := by
    show hold32 (g.counts.radioFlush + (g.radioQ.urgent.length + g.radioQ.normal.length)) = _
    rw [h.counts, h.urgent, h.normal, discards_flush]
  discards := by
    show g.counts.holdDiscard = _
    rw [h.counts]
  held := h.held
  lasting := h.lasting

/-- Both paths settled. -/
theorem settleBoth_st (w : Work) : ∃ e, (settle .radio (settle .fibre w)).st = { w.st with
    fibre := w.st.fibre.settled, radio := w.st.radio.settled, ev := e,
    fwd := { w.st.fwd with fibreQ := { w.st.fwd.fibreQ with probes := [] },
                           radioQ := { w.st.fwd.radioQ with probes := [] } } } := by
  obtain ⟨e, hfibre⟩ := (settle_onlyEv .fibre w).eq
  generalize settle .fibre w = x at *
  obtain ⟨e', hradio⟩ := (settle_onlyEv .radio x).eq
  refine ⟨e', ?_⟩
  rw [hradio, hfibre]
  rfl

theorem settleBoth_latched {w : Work} {p : Path} (h : (w.st.path p).ready = true) :
    latched (bitMask 15) (settle .radio (settle .fibre w)).st := by
  cases p with
  | fibre => exact (closedLatched _).settle .radio (Or.inl rfl) _ (settle_latched h)
  | radio =>
    refine settle_latched (p := .radio) ?_
    obtain ⟨e, hfibre⟩ := (settle_onlyEv .fibre w).eq
    generalize settle .fibre w = x at *
    rw [hfibre]
    exact h

theorem backToUp_latched {p : Path} {w : Work} (hdown : (w.st.path p).state ≠ .down) (hup : (w.st.path p).state ≠ .up) :
    latched (bitMask (changeBit p)) (backToUp p w).st := by
  rw [backToUp_goes hdown]
  exact setPathState_latched_change hup

/-- Both paths back in CONFIG. -/
theorem backBoth_st {w : Work} (hhold : w.st.hold.active = false) (hdrill : w.st.drill.running = false) :
    ∃ e, (backToUp .radio (backToUp .fibre w)).st = { w.st with
      fibre := w.st.fibre.backUp w.st.now, radio := w.st.radio.backUp w.st.now, ev := e,
      steer := w.st.steer.sees w.st.now w.st.fibre.state (w.st.fibre.backUp w.st.now).state } := by
  obtain ⟨e, hfibre⟩ := backToUp_fibre hhold
  generalize backToUp .fibre w = x at *
  obtain ⟨e', hradio⟩ := backToUp_radio (w := x) (by rw [hfibre]; exact hhold) (by rw [hfibre]; exact hdrill)
  refine ⟨e', ?_⟩
  rw [hradio, hfibre]
  rfl

theorem backBoth_latched {w : Work} {p : Path} (hhold : w.st.hold.active = false)
    (hdown : (w.st.path p).state ≠ .down) (hup : (w.st.path p).state ≠ .up) :
    latched (bitMask (changeBit p)) (backToUp .radio (backToUp .fibre w)).st := by
  cases p with
  | fibre => exact (closedLatched _).backToUp .radio (Or.inl rfl) (Or.inl trivial) _ (backToUp_latched hdown hup)
  | radio =>
    obtain ⟨e, hfibre⟩ := backToUp_fibre hhold
    generalize backToUp .fibre w = x at *
    refine backToUp_latched (p := .radio) ?_ ?_ <;> rw [hfibre]
    · exact hdown
    · exact hup

theorem drillStopped_idle (s : State) : s.drillStopped.running = false := by
  unfold State.drillStopped
  split
  · rfl
  · next h => exact Bool.eq_false_of_not_eq_true h

theorem ended_inactive (k : HoldEnd) (now : Time) (h : Hold) : (h.ended k now).active = false := by
  unfold Hold.ended
  split
  · rfl
  · next h => exact Bool.eq_false_of_not_eq_true h

/-- The work of STOP SERVICE before its paths are settled: drill, flows, hold, queue, linger and service (R179). -/
def stopFirst (w : Work) : Work :=
  setService .config (stopLinger (flushQueue .radio (endHold .stopped
    (handConditions (freeFlows (List.range 128) (endDrill .aborted .stopped w))))))

theorem stopSteps_eq (w : Work) :
    stopSteps w = backToUp .radio (backToUp .fibre (settle .radio (settle .fibre (stopFirst w)))) := rfl

theorem stopFirst_st (s : State) : (∃ g e, s.fwd.Drops g s.bindsUse ∧ (stopFirst (Work.begin s)).st = { s with
      drill := s.drillStopped, flows := freedFlows (List.range 128) s.flows, hold := s.hold.ended .stopped s.now,
      ru := { s.ru with lingerOn := false }, exch := { s.exch with service := .config }, fwd := g.radioFlushed, ev := e })
    ∧ ((s.fwd.held.filter s.bindsUse).length ≠ 0 → latched (bitMask 13) (stopFirst (Work.begin s)).st) := by
  obtain ⟨e0, hdrill⟩ := endDrill_stops (Work.begin s)
  unfold stopFirst
  generalize endDrill .aborted .stopped (Work.begin s) = x0 at *
  have hfrees := freeFlows_st (List.range 128) x0
  generalize freeFlows (List.range 128) x0 = x1 at *
  obtain ⟨⟨g, e1, hfreed, hgone⟩, hdrops, -⟩ := hfrees
  have hfwd : x0.st.fwd = s.fwd := by rw [hdrill] <;> rfl
  have hflows : x0.st.flows = s.flows := by rw [hdrill] <;> rfl
  rw [hfwd, hflows] at hgone hdrops
  rw [hflows] at hfreed
  obtain ⟨e2, hhanded⟩ := (handConditions_onlyEv x1).eq
  have hbit : latched (bitMask 13) x1.st → latched (bitMask 13) (handConditions x1).st := handConditions_latched
  generalize handConditions x1 = x2 at *
  obtain ⟨e3, hheld⟩ := (endHold_onlyEv .stopped x2).eq
  have hbit' : latched (bitMask 13) x2.st → latched (bitMask 13) (endHold .stopped x2).st := fun h =>
    (closedLatched _).endHold _ _ (Or.inl trivial) h
  generalize endHold .stopped x2 = x3 at *
  have hlinger := stopLinger_st (flushQueue .radio x3)
  rw [flushRadio_st] at hlinger
  have hservice : ∀ y : Work, (setService .config y).st = { y.st with exch := { y.st.exch with service := .config } } :=
    fun _ => rfl
  have hall : (setService .config (stopLinger (flushQueue .radio x3))).st = { x3.st with
      fwd := x3.st.fwd.radioFlushed, ru := { x3.st.ru with lingerOn := false },
      exch := { x3.st.exch with service := .config } } := by rw [hservice, hlinger]
  have hnow : x2.now = s.now := by
    unfold Work.now
    rw [hhanded, hfreed, hdrill]
    rfl
  refine ⟨⟨g, e3, hgone, ?_⟩, fun h => ?_⟩
  · generalize freedFlows (List.range 128) s.flows = fs at *
    rw [hall, hheld, hnow, hhanded, hfreed, hdrill]
    rfl
  · exact latched_of_latch (congrArg (fun u : State => u.ev.latch) hall) (hbit' (hbit (hdrops h)))

theorem stopSteps_stopped (s : State) : s.Stopped (stopSteps (Work.begin s)) := by
  obtain ⟨⟨g, e, hgone, hst⟩, hdrops⟩ := stopFirst_st s
  rw [stopSteps_eq]
  generalize stopFirst (Work.begin s) = x at *
  have hready : ∀ p, (x.st.path p).ready = (s.path p).ready := fun p => by
    rw [hst]
    cases p <;> rfl
  obtain ⟨e', hsettled⟩ := settleBoth_st x
  have hlatched := fun p (h : (x.st.path p).ready = true) => settleBoth_latched h
  have hkeeps : ∀ m, latched m x.st → latched m (settle .radio (settle .fibre x)).st := fun m h =>
    (closedLatched m).settle .radio (Or.inl rfl) _ ((closedLatched m).settle .fibre (Or.inr trivial) _ h)
  generalize settle .radio (settle .fibre x) = y at *
  have hhold : y.st.hold.active = false := by
    rw [hsettled, hst]
    exact ended_inactive _ _ _
  have hdrill : y.st.drill.running = false := by
    rw [hsettled, hst]
    exact drillStopped_idle s
  have hpath : ∀ p, (y.st.path p).state = (s.path p).state := fun p => by
    rw [hsettled, hst]
    cases p <;> rfl
  obtain ⟨e'', hback⟩ := backBoth_st hhold hdrill
  have hchange := fun p => backBoth_latched (p := p) hhold
  have hlater : ∀ m, latched m y.st → latched m (backToUp .radio (backToUp .fibre y)).st := fun m h =>
    (closedLatched m).backToUp .radio (Or.inl rfl) (Or.inl trivial) _
      ((closedLatched m).backToUp .fibre (Or.inr trivial) (Or.inl trivial) _ h)
  generalize backToUp .radio (backToUp .fibre y) = v at *
  refine ⟨⟨_, e'', framesStopped_of hgone [] [], ?_⟩, fun h => hlater _ (hkeeps _ (hdrops h)), fun p hd hu => ?_,
    fun p h => hlater _ (hlatched p ((hready p).trans h))⟩
  · have hfibre : y.st.fibre.backUp y.st.now = s.stoppedPath .fibre := by
      rw [hsettled, hst]
      rfl
    have hradio : y.st.radio.backUp y.st.now = s.stoppedPath .radio := by
      rw [hsettled, hst]
      rfl
    have hsteer : y.st.steer.sees y.st.now y.st.fibre.state (s.stoppedPath .fibre).state
        = s.steer.sees s.now s.fibre.state (s.stoppedPath .fibre).state := by
      rw [hsettled, hst]
      rfl
    rw [hfibre, hradio, hsteer] at hback
    generalize s.stoppedPath .fibre = a at *
    generalize s.stoppedPath .radio = b at *
    rw [hback, hsettled, hst]
  · exact hchange p (by rw [hpath]; exact hd) (by rw [hpath]; exact hu)

end Sys2Proof.Machine
end


section
/-! Passes in CONFIG with no flow in use: nothing goes to the radio band, no record and no count of discarded frames
changes (R84, R87, R106, R129). -/

namespace Sys2Proof.Machine

theorem decideClass_config {s : State} (h : s.exch.service ≠ .service) (c : ClassRec) : decideClass s c = s.fibreOrBlock :=
  if_pos h

/-- A frame that leaves the hold buffer in a pass in CONFIG with no flow in use does not go to radio. -/
theorem leftWaiting_config {s : State} (hservice : s.exch.service ≠ .service)
    (hflows : ∀ f ∈ s.flows, f.state.live = false) {x : HeldFrame} (h : s.bindingPath x = .waiting) :
    s.rebound.bindingPath x ≠ .radio := by
  cases hflow : x.flow with
  | none =>
    rw [bindingPath_class _ hflow]
    intro hradio
    by_cases hin : x.cls < s.classes.length
    · have hcls : (s.rebound.cls x.cls).cur = decideClass s (s.cls x.cls) := by
        show (s.decided.getD x.cls _).cur = _
        unfold State.decided State.cls
        rw [getD_map_lt _ hin (ClassRec.initial 3 false), takePath_cur]
      rw [hcls, decideClass_config hservice] at hradio
      exact fibreOrBlock_ne_radio s hradio
    · have hlength : s.decided.length ≤ x.cls := by
        unfold State.decided
        rw [List.length_map]
        exact Nat.not_lt.mp hin
      have hcls : s.rebound.cls x.cls = ClassRec.initial 3 false := List.getD_eq_default _ _ hlength
      rw [hcls] at hradio
      cases hradio
  | some i =>
    rw [bindingPath_of_flow _ hflow] at h
    have hwaiting := waiting_of_asPath h
    exfalso
    by_cases hin : i < s.flows.length
    · have hmem : s.flow i ∈ s.flows := by
        unfold State.flow
        rw [List.getD_eq_getElem _ _ hin]
        exact List.getElem_mem hin
      have hdead := hflows _ hmem
      rw [hwaiting] at hdead
      cases hdead
    · have hfree : s.flow i = FlowRec.freed 0 := List.getD_eq_default _ _ (Nat.not_lt.mp hin)
      rw [hfree] at hwaiting
      cases hwaiting

/-! ## The bodies of passes -/

theorem takeNext_ledger_fibre (w : Work) : (takeNext .fibre w).st.ledger = w.st.ledger := by
  unfold takeNext
  split
  · split <;> rfl
  · rfl

theorem enterBand_ledger_fibre (tier : Nat) (f : TxFrame) (w : Work) :
    (enterBand .fibre tier f w).st.ledger = w.st.ledger := by
  unfold enterBand
  split
  · rfl
  · exact takeNext_ledger_fibre _

theorem releaseHeld_ledger_notRadio {x : HeldFrame} {w : Work} (h : w.st.bindingPath x ≠ .radio) :
    (releaseHeld x w).st.ledger = w.st.ledger := by
  cases hb : w.st.bindingPath x with
  | fibre =>
    rw [releaseHeld_path (p := .fibre) hb]
    unfold releaseOnto
    split
    · exact (latch_onlyEv Bit.holdDrops _).ledger.trans (enterBand_ledger_fibre _ _ w)
    · exact enterBand_ledger_fibre _ _ w
  | radio => exact absurd hb h
  | waiting => rw [releaseHeld_waiting hb]
  | blocked =>
    rw [releaseHeld_blocked hb]
    exact (latch_onlyEv Bit.holdDrops _).ledger

theorem releaseAll_ledger_notRadio (l : List HeldFrame) {w : Work} (h : ∀ x ∈ l, w.st.bindingPath x ≠ .radio) :
    (releaseAll l w).st.ledger = w.st.ledger := by
  induction l generalizing w with
  | nil => rfl
  | cons x l ih =>
    have hbinds := (closed_bound _ _ _).releaseHeld x w (bound_self w.st)
    refine (ih fun y hy => ?_).trans (releaseHeld_ledger_notRadio (h x List.mem_cons_self))
    rw [bindingPath_congr hbinds.1 hbinds.2.1]
    exact h y (List.mem_cons_of_mem _ hy)

theorem followed_dead {s : State} (h : ∀ f ∈ s.flows, f.state.live = false) : s.followed = s.flows := by
  unfold State.followed
  refine (List.map_congr_left fun f hf => ?_).trans (List.map_id _)
  unfold followClass
  dsimp only
  rw [if_pos (by rw [h f hf]; decide)]
  rfl

section
variable {w : Work} (hservice : w.st.exch.service ≠ .service) (hflows : ∀ f ∈ w.st.flows, f.state.live = false)
include hservice hflows

theorem leaving_config {x : HeldFrame} (hx : x ∈ w.st.leaving) : w.st.rebound.bindingPath x ≠ .radio := by
  obtain ⟨-, hleft⟩ := List.mem_filter.mp hx
  exact leftWaiting_config hservice hflows (of_decide_eq_true (Bool.and_eq_true_iff.mp hleft).1)

theorem passBody_config_ledger : (passBody w).st.ledger = w.st.ledger := by
  have hreleased : (releasedWork w).st.ledger = (leavingWork w).st.ledger := by
    rw [releasedWork_leaving]
    refine releaseAll_ledger_notRadio _ fun x hx => ?_
    rw [leavingWork_binds]
    exact leaving_config hservice hflows hx
  obtain ⟨e, held, hleaving⟩ := leavingWork_fields w
  obtain ⟨-, hbody, hfwd, -⟩ := passBody_fields w
  have hstart : (leavingWork w).st.ledger = w.st.ledger := by
    rw [hleaving]
    show (w.st.followed, w.st.fwd.counts.holdDiscard) = _
    rw [followed_dead hflows]
    rfl
  have hend : (passBody w).st.ledger = (releasedWork w).st.ledger := by
    unfold State.ledger
    rw [hbody, hfwd]
  rw [hend, hreleased, hstart]

/-- Nothing enters the radio band in a pass in CONFIG. -/
theorem passBody_config_linkless {P : State → Prop} (H : Linkless (fun p => p = .fibre) P) (h : P w.st) :
    P (passBody w).st := by
  refine H.passBody w (fun x hleft p hp => ?_) h
  have hbinds := steeredWork_binds w x
  have hrebound : w.st.rebound.bindingPath x = boundTo p := hbinds.symm.trans hp
  have hwas : w.st.bindingPath x = .waiting := of_decide_eq_true (Bool.and_eq_true_iff.mp hleft).1
  have hnot := leftWaiting_config hservice hflows hwas
  cases p with
  | fibre => rfl
  | radio => exact absurd hrebound hnot

end

/-! ## The radio band and the records through all passes -/

/-- The radio band is empty, and this many frames of it have been flushed. -/
def State.bandEmpty (n : Nat) (s : State) : Prop :=
  s.fwd.radioQ.urgent = [] ∧ s.fwd.radioQ.normal = [] ∧ s.fwd.counts.radioFlush = n

theorem linkless_bandEmpty (n : Nat) : Linkless (fun p => p = .fibre) (State.bandEmpty n) where
  classes := fun _ _ h => h
  flows := fun _ _ h => h
  allow := fun _ _ h => h
  drill := fun _ _ h => h
  ev := fun _ _ _ h => h
  counts := fun _ _ h => h
  flowChanges := fun _ _ h => h
  fwd := by
    intro s f hf ⟨hurgent, hnormal, hcount⟩
    obtain ⟨hflushed, hqueue⟩ := hf .radio
    have hq : f.radioQ = s.fwd.radioQ := hqueue.resolve_left (by decide)
    refine ⟨?_, ?_, hflushed.trans hcount⟩
    · show f.radioQ.urgent = []
      rw [hq]
      exact hurgent
    · show f.radioQ.normal = []
      rw [hq]
      exact hnormal

theorem sessionLeft_bandEmpty {n : Nat} (hn : n ≤ max32) {s : State} (h : s.bandEmpty n) : s.sessionLeft.bandEmpty n := by
  obtain ⟨hurgent, hnormal, hcount⟩ := h
  have hflush : hold32 (s.fwd.counts.radioFlush + (s.fwd.radioQ.urgent.length + s.fwd.radioQ.normal.length)) = n := by
    rw [hurgent, hnormal, hcount]
    exact Nat.min_eq_left hn
  unfold State.bandEmpty
  rw [sessionLeft_fwd]
  split <;> exact ⟨rfl, rfl, hflush⟩

theorem demanding_bandEmpty {n : Nat} (hn : n ≤ max32) : Demanding fun s t => s.bandEmpty n → t.bandEmpty n where
  refl := fun _ h => h
  trans := fun h h' hs => h' (h hs)
  moveTo := by
    intro m hm w hw
    by_cases h : w.st.ru.state = .session
    · obtain ⟨e, -, hst⟩ := moveTo_leaves m h hm
      rw [hst]
      exact sessionLeft_bandEmpty hn hw
    · obtain ⟨r, e, -, hst⟩ := moveTo_ruOnly m w (Or.inl h)
      rw [hst]
      exact hw
  only := by
    rintro s t ⟨r, e, -, rfl⟩ - h
    exact h
  steer := fun _ _ h => h

/-- A state in CONFIG with these records, none in use, an empty radio band and these counts. -/
structure State.InConfig (n m : Nat) (fs : List FlowRec) (s : State) : Prop where
  service : s.exch.service = .config
  flows : s.flows = fs
  band : s.bandEmpty n
  discards : s.fwd.counts.holdDiscard = m

section
variable {n m : Nat} {fs : List FlowRec} (hn : n ≤ max32) (hfs : ∀ f ∈ fs, f.state.live = false)

theorem State.InConfig.demanded {Q : Work → Work} {w : Work} (h : w.st.InConfig n m fs)
    (hkept : (Q w).st.kept = w.st.kept) (hkeeps : w.st.DemandKeeps (Q w).st)
    (hband : w.st.bandEmpty n → (Q w).st.bandEmpty n)
    (hdiscard : (Q w).st.fwd.counts.holdDiscard = w.st.fwd.counts.holdDiscard) : (Q w).st.InConfig n m fs :=
  ⟨(service_of_kept hkept).trans h.service, hkeeps.flows.trans h.flows, hband h.band, hdiscard.trans h.discards⟩

section
include hn

theorem recomputeDemand_inConfig {w : Work} (h : w.st.InConfig n m fs) : (recomputeDemand w).st.InConfig n m fs :=
  h.demanded (recomputeDemand_kept w) (demanding_demandKeeps.recomputeDemand w)
    ((demanding_bandEmpty hn).recomputeDemand w) (demanding_discard.recomputeDemand w)

theorem recomputeTarget_inConfig {w : Work} (h : w.st.InConfig n m fs) : (recomputeTarget w).st.InConfig n m fs :=
  h.demanded (recomputeTarget_kept w) (demanding_demandKeeps.recomputeTarget w)
    ((demanding_bandEmpty hn).recomputeTarget w) (demanding_discard.recomputeTarget w)

end

include hfs

theorem passBody_inConfig {w : Work} (h : w.st.InConfig n m fs) : (passBody w).st.InConfig n m fs := by
  have hservice : w.st.exch.service ≠ .service := by
    rw [h.service]
    decide
  have hdead : ∀ f ∈ w.st.flows, f.state.live = false := by
    rw [h.flows]
    exact hfs
  have hledger := passBody_config_ledger hservice hdead
  obtain ⟨hflows, hdiscard⟩ := Prod.mk.inj hledger
  exact ⟨(service_of_kept (passBody_kept w)).trans h.service, hflows.trans h.flows,
    passBody_config_linkless hservice hdead (linkless_bandEmpty n) h.band, hdiscard.trans h.discards⟩

include hn

theorem passes_inConfig {w : Work} (h : w.st.InConfig n m fs) : (passes w).st.InConfig n m fs :=
  runPasses_keeps (P := State.InConfig n m fs) (fun _ => recomputeDemand_inConfig hn) (fun _ => passBody_inConfig hfs) _ h

theorem retarget_inConfig {w : Work} (h : w.st.InConfig n m fs) : (retarget w).st.InConfig n m fs :=
  recomputeTarget_inConfig hn (passes_inConfig hn hfs (w := w.owePass) h)

end

end Sys2Proof.Machine
end


section
/-! A radio unit that STOP SERVICE finds in BACKOFF (R59, R63, R64, R73, R179). -/

namespace Sys2Proof.Machine

/-- No class is on radio or waits for it, and no flow is in use. -/
structure State.NoUse (s : State) : Prop where
  service : s.exch.service = .config
  flows : ∀ f ∈ s.flows, f.state.live = false
  classes : ∀ c ∈ s.classes, c.cur.wantsRadio = false

theorem State.NoUse.unurgent {s : State} (h : s.NoUse) : s.wantsUrgently = false := by
  have hflow : s.tier0Flow = false := by
    unfold State.tier0Flow
    rw [List.any_eq_false.mpr fun f hf => by rw [h.flows f hf]; simp]
    exact Bool.and_false _
  unfold State.wantsUrgently
  rw [hflow, Bool.false_or]
  exact List.any_eq_false.mpr fun c hc => by rw [h.classes c hc]; simp

theorem State.NoUse.demanded {s t : State} (h : s.NoUse) (hkept : t.kept = s.kept) (hkeeps : s.DemandKeeps t) : t.NoUse where
  service := (service_of_kept hkept).trans h.service
  flows := by
    rw [hkeeps.flows]
    exact h.flows
  classes := by
    rw [hkeeps.classes]
    exact h.classes

theorem fibreOrBlock_unused (s : State) : s.fibreOrBlock.wantsRadio = false := by
  unfold State.fibreOrBlock
  split <;> rfl

theorem passBody_noUse {w : Work} (hservice : w.st.exch.service = .config)
    (hflows : ∀ f ∈ w.st.flows, f.state.live = false) : (passBody w).st.NoUse := by
  have hnot : w.st.exch.service ≠ .service := by
    rw [hservice]
    decide
  obtain ⟨hsame, -⟩ := Prod.mk.inj (passBody_config_ledger hnot hflows)
  obtain ⟨hclasses, -⟩ := passBody_fields w
  refine ⟨(service_of_kept (passBody_kept w)).trans hservice, by rw [hsame]; exact hflows, fun c hc => ?_⟩
  rw [hclasses] at hc
  have hmap := classes_of_unreleased (released_rests w)
  have hmem : c.undropped ∈ w.st.decided.map ClassRec.undropped := by
    rw [← hmap]
    exact List.mem_map_of_mem hc
  obtain ⟨d, hd, hsame⟩ := List.mem_map.mp hmem
  obtain ⟨b, -, rfl⟩ := List.mem_map.mp hd
  have hcur : c.cur = decideClass w.st b := by
    rw [← (ClassRec.of_undropped hsame).1]
    exact takePath_cur _ _ _
  rw [hcur, decideClass_config hnot]
  exact fibreOrBlock_unused _

/-! ## Where the unit ends -/

/-- A unit that its target, OFF, moves no further (R59, R63, R64). -/
def RadioUnit.standsDown (x : RadioState) (r : RadioUnit) : Prop := r.target = .off ∧ r.state = x

theorem targetNow_config {s : State} (h : s.exch.service = .config) : s.targetNow = .off :=
  if_pos (by rw [h]; decide)

/-- The states in which target OFF leaves a unit. -/
def RadioState.rests : RadioState → Bool
  | .backoff | .stopping | .off => true
  | _ => false

theorem acts_standsDown {x : RadioState} (hx : x.rests = true) {r : RadioUnit} (h : r.standsDown x) (now : Time) :
    r.acts now = r := by
  obtain ⟨ht, hs⟩ := h
  unfold RadioUnit.acts
  rw [hs]
  cases x with
  | off => exact if_pos ht
  | stopping => rfl
  | backoff => rfl
  | _ => cases hx

section
variable {x : RadioState} (hx : x.rests = true) {w : Work}
include hx

theorem recomputeTarget_standsDown (hservice : w.st.exch.service = .config) (h : w.st.ru.standsDown x) :
    (recomputeTarget w).st.ru.standsDown x := by
  have hset : (setTarget w).st.ru.standsDown x := by
    rw [setTarget_unit]
    exact ⟨targetNow_config hservice, h.2⟩
  rw [recomputeTarget_ru]
  split
  · rw [if_neg fun hc => hc.1 h.1]
    exact hset
  · rw [acts_standsDown hx hset]
    exact hset

theorem recomputeDemand_standsDown (huse : w.st.NoUse) (h : w.st.ru.standsDown x) :
    (recomputeDemand w).st.ru.standsDown x := by
  have htarget : (recomputeDemand w).st.ru.target = .off :=
    (recomputeDemand_onTarget w).trans (targetNow_config ((service_of_kept (recomputeDemand_kept w)).trans huse.service))
  have hurgent : (recomputeDemand w).st.steer.urgent = false := by
    rw [recomputeDemand_steer]
    exact huse.unurgent
  by_cases hb : w.st.ru.state = .backoff
  · obtain ⟨-, -, hstays⟩ := recomputeDemand_backoff w hb
    refine ⟨htarget, (hstays ?_).1.trans (hb.symm.trans h.2)⟩
    rintro (⟨-, hnow⟩ | ⟨hwas, -⟩)
    · rw [hurgent] at hnow
      cases hnow
    · exact hwas h.1
  · obtain ⟨a, b, t, hmoves⟩ := recomputeDemand_moves w
    obtain ⟨-, hru⟩ := hmoves.resolve_left fun hc => hb hc.1
    have hsame : ((w.st.ru.aimed a b t).acts w.now).target = t := by
      have hact := (walk_target t).act (w.onRu fun r => r.aimed a b t) rfl
      rw [act_ru] at hact
      exact hact
    have hoff : t = .off := by rw [← hsame, ← hru, htarget]
    have haimed : (w.st.ru.aimed a b t).standsDown x := ⟨hoff, h.2⟩
    rw [hru, acts_standsDown hx haimed]
    exact haimed

end

/-- Passes of a unit that stands down in CONFIG, no record in use. -/
def State.downIn (x : RadioState) (s : State) : Prop := s.NoUse ∧ s.ru.standsDown x

section
variable {x : RadioState} (hx : x.rests = true)
include hx

theorem recomputeDemand_downIn {w : Work} (h : w.st.downIn x) : (recomputeDemand w).st.downIn x :=
  ⟨h.1.demanded (recomputeDemand_kept w) (demanding_demandKeeps.recomputeDemand w), recomputeDemand_standsDown hx h.1 h.2⟩

omit hx in
theorem passBody_downIn {w : Work} (h : w.st.downIn x) : (passBody w).st.downIn x := by
  refine ⟨passBody_noUse h.1.service h.1.flows, ?_⟩
  rw [passBody_unit]
  exact h.2

theorem runPasses_downIn (n : Nat) {w : Work} (h : w.st.downIn x) : (runPasses n w).st.downIn x :=
  runPasses_keeps (P := State.downIn x) (fun _ => recomputeDemand_downIn hx) (fun _ => passBody_downIn) n h

theorem recomputeTarget_downIn {w : Work} (h : w.st.downIn x) : (recomputeTarget w).st.downIn x :=
  ⟨h.1.demanded (recomputeTarget_kept w) (demanding_demandKeeps.recomputeTarget w),
    recomputeTarget_standsDown hx h.1.service h.2⟩

end

/-- Where target OFF takes a unit in BACKOFF. -/
def RadioUnit.downFrom (r : RadioUnit) : RadioState :=
  if r.target = .off then .backoff else if r.ready then RadioState.stopping else .off

theorem downFrom_rests (r : RadioUnit) : r.downFrom.rests = true := by
  unfold RadioUnit.downFrom
  split
  · rfl
  · split <;> rfl

/-- The first pass of a unit in BACKOFF: with another target than OFF it goes to IDLE, and from there on. -/
theorem steeringPass_downIn {w : Work} (hservice : w.st.exch.service = .config)
    (hflows : ∀ f ∈ w.st.flows, f.state.live = false) (hstate : w.st.ru.state = .backoff) :
    (steeringPass w).st.downIn w.st.ru.downFrom := by
  have huse := passBody_noUse hservice hflows
  have hunit := passBody_unit w
  rw [steeringPass_eq]
  generalize passBody w = v at *
  rw [← hunit] at hstate ⊢
  unfold RadioUnit.downFrom
  by_cases ht : v.st.ru.target = .off
  · rw [if_pos ht]
    exact recomputeDemand_downIn rfl ⟨huse, ht, hstate⟩
  · have htarget : (recomputeDemand v).st.ru.target = .off :=
      (recomputeDemand_onTarget v).trans (targetNow_config ((service_of_kept (recomputeDemand_kept v)).trans huse.service))
    obtain ⟨-, hearly, -⟩ := recomputeDemand_backoff v hstate
    obtain ⟨-, hoff, -⟩ := hearly (Or.inr ⟨ht, htarget⟩)
    rw [if_neg ht]
    exact ⟨huse.demanded (recomputeDemand_kept v) (demanding_demandKeeps.recomputeDemand v), htarget, (hoff htarget).1⟩

theorem passes_first {w : Work} (h : w.passDue = true) :
    passes w = runPasses 7 (steeringPass { w with passDue := false, demandDue := false }) := by
  show runPasses (7 + 1) w = _
  unfold runPasses
  exact if_pos h

theorem passes_downIn {x : RadioState} (hx : x.rests = true) {w : Work} (h : w.st.downIn x) : (passes w).st.downIn x :=
  runPasses_downIn hx Config.passFuel h

/-- A unit that an order finds in BACKOFF, its records freed and its service CONFIG (R64, R179). -/
theorem retarget_backoff {w : Work} (hservice : w.st.exch.service = .config)
    (hflows : ∀ f ∈ w.st.flows, f.state.live = false) (hstate : w.st.ru.state = .backoff) :
    (passes (retarget w)).st.ru.state = w.st.ru.downFrom := by
  have hx := downFrom_rests w.st.ru
  have hpass : ∀ u : Work, u.st = w.st → (steeringPass u).st.downIn w.st.ru.downFrom := fun u hu => by
    rw [← hu] at hservice hflows hstate ⊢
    exact steeringPass_downIn hservice hflows hstate
  have hfirst := hpass { w.owePass with passDue := false, demandDue := false } rfl
  have hpasses := passes_first (w := w.owePass) rfl
  have hretarget : retarget w = recomputeTarget (passes w.owePass) := rfl
  generalize steeringPass { w.owePass with passDue := false, demandDue := false } = v at *
  have hdown := runPasses_downIn hx 7 hfirst
  rw [← hpasses] at hdown
  have htarget := recomputeTarget_downIn hx hdown
  rw [← hretarget] at htarget
  exact (passes_downIn hx htarget).2.2

end Sys2Proof.Machine
end


section
/-! START SERVICE and STOP SERVICE (R178, R179). -/

namespace Sys2Proof.Machine

theorem orderStop_service {ps : List Byte} {s : State} (h : s.exch.service = .service) : orderStopService ps (Work.begin s)
    = { work := retarget (stopSteps (Work.begin s)), result := .ok,
        answer := stopAnswer s.flowsInUse s.drill.running s.hold.active } := if_pos h

theorem orderStop_config {ps : List Byte} {s : State} (h : s.exch.service = .config) : orderStopService ps (Work.begin s)
    = { work := Work.begin s, result := .ok, answer := stopAnswer 0 false false } :=
  if_neg (by rw [show (Work.begin s).st.exch.service = .config from h]; decide)

theorem stopAnswer_of {s t : State} (freed : Nat) (drill hold : Bool) (hservice : s.exch.service = .config)
    (hfibre : t.fibre = s.fibre) (hradio : t.radio = s.radio) (hru : t.ru = s.ru) : stopAnswer freed drill hold s
    = pack [(1, freed), (1, drill.toNat), (1, hold.toNat), (1, 1), (1, t.fibre.state.code), (1, t.radio.state.code),
        (1, t.ru.state.code)] := by
  unfold stopAnswer
  rw [hservice, hfibre, hradio, hru]
  rfl

/-! ## What the passes keep of the steps -/

theorem bindsUse_eq {s : State} (htables : s.tables) (h : HeldFrame) : s.bindsUse h =
    (match h.flow with | none => false | some k => decide ((s.flow k).state ≠ .free)) := by
  unfold State.bindsUse HeldFrame.boundIn
  cases h.flow with
  | none => rfl
  | some k =>
    dsimp only
    by_cases hk : k < 128
    · rw [decide_eq_true (List.mem_range.mpr hk)]
      rfl
    · have hfree : s.flow k = FlowRec.freed 0 := List.getD_eq_default _ _ (by rw [htables.2]; exact Nat.not_lt.mp hk)
      rw [hfree, decide_eq_false (by rw [List.mem_range]; exact hk)]
      rfl

theorem stopped_dead {s : State} (htables : s.tables) : ∀ f ∈ freedFlows (List.range 128) s.flows, f.state.live = false := by
  rw [freedFlows_range htables.2]
  intro f hf
  obtain ⟨g, -, rfl⟩ := List.mem_map.mp hf
  split
  · next h =>
    rw [h]
    rfl
  · rfl

section
variable {s : State} {v : Work} (hv : s.Stopped v)
include hv

theorem State.Stopped.inConfig : v.st.InConfig
    (hold32 (s.fwd.counts.radioFlush + (s.fwd.radioQ.urgent.length + s.fwd.radioQ.normal.length)))
    (s.fwd.counts.discards (s.fwd.held.filter s.bindsUse).length).holdDiscard (freedFlows (List.range 128) s.flows) := by
  obtain ⟨f, e, hframes, hst⟩ := hv.st
  generalize freedFlows (List.range 128) s.flows = fs at *
  have hfwd : v.st.fwd = f := by rw [hst]
  refine ⟨by rw [hst], by rw [hst], ?_, ?_⟩
  · unfold State.bandEmpty
    rw [hfwd]
    exact ⟨hframes.urgent, hframes.normal, hframes.flushed⟩
  · rw [hfwd]
    exact hframes.discards

theorem State.Stopped.waits (htables : s.tables) (h : s.heldFramesWait) : v.st.heldFramesWait := by
  obtain ⟨f, e, hframes, hst⟩ := hv.st
  intro x hx
  have hheld : x ∈ s.fwd.held ∧ s.bindsUse x = false := by
    rw [hst] at hx
    have hf : x ∈ f.held := hx
    rw [hframes.held] at hf
    obtain ⟨hmem, hnot⟩ := List.mem_filter.mp hf
    exact ⟨hmem, by simpa using hnot⟩
  have hwas := h x hheld.1
  cases hflow : x.flow with
  | none =>
    rw [bindingPath_class _ hflow] at hwas ⊢
    rw [hst]
    exact hwas
  | some k =>
    rw [bindingPath_of_flow _ hflow] at hwas
    have hwaiting := waiting_of_asPath hwas
    have hbinds := hheld.2
    rw [bindsUse_eq htables, hflow] at hbinds
    dsimp only at hbinds
    rw [hwaiting] at hbinds
    cases hbinds

theorem State.Stopped.fields : v.st.drill = s.drillStopped ∧ v.st.hold = s.hold.ended .stopped s.now
    ∧ v.st.fibre = s.stoppedPath .fibre ∧ v.st.radio = s.stoppedPath .radio
    ∧ v.st.steer = s.steer.sees s.now s.fibre.state (s.stoppedPath .fibre).state ∧ v.st.grade = s.grade
    ∧ v.st.clk = s.clk ∧ v.st.mem = s.mem ∧ v.st.exch = { s.exch with service := .config }
    ∧ v.st.ru = { s.ru with lingerOn := false } := by
  obtain ⟨f, e, -, hst⟩ := hv.st
  rw [hst]
  exact ⟨rfl, rfl, rfl, rfl, rfl, rfl, rfl, rfl, rfl, rfl⟩

end

/-- With no class and no flow waiting, the hold buffer is empty. -/
theorem held_empty {s : State} (huse : s.NoUse) (h : s.heldFramesWait) : s.fwd.held = [] := by
  refine List.eq_nil_iff_forall_not_mem.mpr fun x hx => ?_
  have hwaits := h x hx
  cases hflow : x.flow with
  | none =>
    rw [bindingPath_class _ hflow] at hwaits
    by_cases hin : x.cls < s.classes.length
    · have hmem : s.cls x.cls ∈ s.classes := by
        unfold State.cls
        rw [List.getD_eq_getElem _ _ hin]
        exact List.getElem_mem hin
      have hnot := huse.classes _ hmem
      rw [hwaits] at hnot
      cases hnot
    · have hcls : s.cls x.cls = ClassRec.initial 3 false := List.getD_eq_default _ _ (Nat.not_lt.mp hin)
      rw [hcls] at hwaits
      cases hwaits
  | some k =>
    rw [bindingPath_of_flow _ hflow] at hwaits
    have hwaiting := waiting_of_asPath hwaits
    have hmem := flow_mem (s := s) (i := k) fun he => by
      rw [he] at hwaiting
      cases hwaiting
    have hdead := huse.flows _ hmem
    rw [hwaiting] at hdead
    cases hdead

/-! ## What the order leaves as it was -/

theorem steady_settings (x : EventUnit) : Steady fun s => s.ev.settings = x where
  quiet := fun _ _ h hs => (congrArg EventUnit.settings h.ev).trans hs
  latched := fun i w _ h => by
    obtain ⟨e, he, hst⟩ := latch_onlyEv i w
    rw [hst]
    exact he.trans h
  handed := fun w h => by
    obtain ⟨e, he, hst⟩ := handConditions_onlyEv w
    rw [hst]
    exact he.trans h

theorem movesTo_lasting (now : Time) (n : PathState) (r : PathRec) : (r.movesTo now n).lasting = r.lasting := by
  unfold PathRec.movesTo
  dsimp only
  split <;> rfl

theorem stoppedPath_lasting (s : State) (p : Path) : (s.stoppedPath p).lasting = (s.path p).lasting := by
  unfold State.stoppedPath PathRec.backUp
  split
  · rfl
  · exact (movesTo_lasting _ _ _).trans rfl

theorem drillStopped_settings (s : State) : s.drillStopped.settings = s.drill.settings := by
  unfold State.drillStopped
  split <;> rfl

theorem steer_sees_settings (now : Time) (was is : PathState) (x : Steering) : (x.sees now was is).settings = x.settings := by
  unfold Steering.sees
  dsimp only
  split
  · split <;> rfl
  · split <;> rfl

theorem State.Stopped.keptByPaths {s : State} {v : Work} (hv : s.Stopped v) (htables : s.tables)
    (hev : v.st.ev.settings = s.ev.settings) (i : Nat) (rest : List Nat) (r : ResultCode) (ans : List Byte) :
    (v.st.answered i rest r ans).keptByPaths = (({ s with
      exch := { s.exch with service := .config },
      flows := s.flows.map fun f => if f.state = .free then f else FlowRec.freed f.count } : State).answered i rest r
        ans).keptByPaths := by
  obtain ⟨f, e, hframes, hst⟩ := hv.st
  rw [freedFlows_range htables.2] at hst
  have he : e.settings = s.ev.settings := by
    rw [hst] at hev
    exact hev
  have hfibre := stoppedPath_lasting s .fibre
  have hradio := stoppedPath_lasting s .radio
  have hhold := ended_settings .stopped s.now s.hold
  have hdrill := drillStopped_settings s
  have hsteer := steer_sees_settings s.now s.fibre.state (s.stoppedPath .fibre).state s.steer
  have hfwd := hframes.lasting
  generalize (s.flows.map fun f => if f.state = .free then f else FlowRec.freed f.count) = fs at *
  generalize s.stoppedPath .fibre = a at *
  generalize s.stoppedPath .radio = b at *
  generalize s.hold.ended .stopped s.now = h at *
  generalize s.drillStopped = d at *
  generalize s.steer.sees s.now s.fibre.state a.state = x at *
  rw [hst]
  unfold State.answered State.keptByPaths State.kept
  dsimp only
  rw [he, hhold, hdrill, hfwd, hsteer, hfibre, hradio]
  rfl

end Sys2Proof.Machine
end


section
/-! START SERVICE and STOP SERVICE (R178, R179). -/

namespace Sys2Proof.Machine

/-- What STOP SERVICE's passes leave of a state that its steps have made. -/
structure State.StopRests (s u : State) : Prop where
  config : u.InConfig (hold32 (s.fwd.counts.radioFlush + (s.fwd.radioQ.urgent.length + s.fwd.radioQ.normal.length)))
    (s.fwd.counts.discards (s.fwd.held.filter s.bindsUse).length).holdDiscard (freedFlows (List.range 128) s.flows)
  backoff : s.ru.state = .backoff → u.ru.state = s.ru.downFrom
  held : s.heldFramesWait → u.fwd.held = []

theorem noUse_of_steered {u : State} {free : Prop} (hservice : u.exch.service = .config)
    (hflows : ∀ f ∈ u.flows, f.state.live = false) (h : u.steeredOn free) : u.NoUse := by
  refine ⟨hservice, hflows, fun c hc => ?_⟩
  have hcur : c.cur = u.lastPath := (((steered_iff _ _).mp h.1).1 c hc).1 (by rw [hservice]; decide)
  rw [hcur]
  unfold State.lastPath
  split <;> rfl

theorem recomputeTarget_heldFramesWait {w : Work} (h : w.st.heldFramesWait) : (recomputeTarget w).st.heldFramesWait :=
  heldFramesWait_of_bound ((closed_bound _ _ _).recomputeTarget trivial w (bound_self w.st)) h

theorem retarget_heldFramesWait {w : Work} (h : w.st.heldFramesWait) : (retarget w).st.heldFramesWait :=
  recomputeTarget_heldFramesWait (passes_heldFramesWait w.owePass h)

theorem State.Stopped.rests {s : State} {b : Work} (hv : s.Stopped b) (htables : s.tables) :
    s.StopRests (passes (retarget b)).st := by
  have hconfig := hv.inConfig
  have hwaits := hv.waits htables
  have hru := hv.fields.2.2.2.2.2.2.2.2.2
  have hdead := stopped_dead htables
  have hsteered := retarget_steeredOn (free := False) (w := b) False.elim
  have hn : hold32 (s.fwd.counts.radioFlush + (s.fwd.radioQ.urgent.length + s.fwd.radioQ.normal.length)) ≤ max32 :=
    Nat.min_le_right _ _
  have hin := passes_inConfig hn hdead (retarget_inConfig hn hdead hconfig)
  have hend := runPasses_steeredOn Config.passFuel hsteered
  have hflows : ∀ f ∈ b.st.flows, f.state.live = false := by
    rw [hconfig.flows]
    exact hdead
  have hback := retarget_backoff (w := b) hconfig.service hflows
  have hdown : b.st.ru.downFrom = s.ru.downFrom := by
    rw [hru]
    rfl
  have hstate : b.st.ru.state = s.ru.state := by rw [hru]
  refine ⟨hin, fun hs => (hback (hstate.trans hs)).trans hdown, fun hw => ?_⟩
  have huse := noUse_of_steered hin.service (by rw [hin.flows]; exact hdead) hend
  exact held_empty huse (passes_heldFramesWait _ (retarget_heldFramesWait (hwaits hw)))

section
variable {i : Nat} {rest : List Nat} {s : State} (hoffers : s.offersKind Kind.stopService i rest)
  (hservice : s.exch.service = .service) (htables : s.tables)
include hservice

/-- The work that STOP SERVICE leaves to the end of its event. -/
theorem stop_body : (orderStopService (slotParams s.mem i) (Work.begin s)).work = retarget (stopSteps (Work.begin s)) :=
  by rw [orderStop_service (ps := slotParams s.mem i) hservice]

include hoffers

theorem stop_ends : (stopSteps (Work.begin s)).st.EventEnds (takeKind Kind.stopService orderStopService s) := by
  have hwork := stop_body (i := i) hservice
  have hv := stopSteps_stopped s
  obtain ⟨-, -, -, -, -, -, -, hmem, -⟩ := hv.fields
  have hends := retarget_ends (stopSteps (Work.begin s))
  have hkept := retarget_kept (stopSteps (Work.begin s))
  generalize stopSteps (Work.begin s) = b at *
  generalize retarget b = v at *
  exact hends.trans (takeKind_ends (kind := Kind.stopService) hoffers hwork ((mem_of_kept hkept).trans hmem))

/-- Drill, hold, paths, return delay, grade and their events (R43, R83, R92, R160). -/
theorem stop_paths :
    let t := takeKind Kind.stopService orderStopService s
    t.drill = s.drillStopped ∧ t.hold = s.hold.ended .stopped s.now ∧ t.fibre = s.stoppedPath .fibre
      ∧ (s.closes t → t.radio = (s.stoppedPath .radio).lostIn { s with exch := { s.exch with service := .config } } .radio)
      ∧ (¬s.closes t → t.radio = s.stoppedPath .radio)
      ∧ t.steer.ret = (s.steer.sees s.now s.fibre.state t.fibre.state).ret
      ∧ t.steer.retDue = (s.steer.sees s.now s.fibre.state t.fibre.state).retDue ∧ t.grade = s.grade
      ∧ (∀ p, (s.path p).state ≠ .down → (s.path p).state ≠ .up → latched (bitMask (changeBit p)) t)
      ∧ (∀ p, (s.path p).ready = true → latched (bitMask 15) t)
      ∧ ((s.fwd.held.filter s.bindsUse).length ≠ 0 → latched (bitMask 13) t) := by
  have hends := stop_ends hoffers hservice
  have hv := stopSteps_stopped s
  dsimp only
  generalize takeKind Kind.stopService orderStopService s = t at *
  generalize stopSteps (Work.begin s) = b at *
  obtain ⟨hdrill, hhold, hfibre, hradio, hsteer, hgrade, hclk, -, hexch, hru⟩ := hv.fields
  have hidle : b.st.drill.running = false := by
    rw [hdrill]
    exact drillStopped_idle s
  have hinactive : b.st.hold.active = false := by
    rw [hhold]
    exact ended_inactive _ _ _
  have hcloses : s.closes t ↔ b.st.closes t := by
    unfold State.closes
    rw [hru]
  have hpath : t.fibre = s.stoppedPath .fibre := hends.fibre.trans hfibre
  refine ⟨(hends.drill hidle).trans hdrill, (hends.link.hold_inactive hinactive).trans hhold, hpath, fun hc => ?_,
    fun hc => ?_, ?_, ?_, hends.link.grade.trans hgrade, fun p hd hu => hends.latches _ (hv.change p hd hu),
    fun p h => hends.latches _ (hv.ready p h), fun h => hends.latches _ (hv.drops h)⟩
  · rw [(hends.link.lost (hcloses.mp hc)).1, hradio]
    exact lostIn_congr (s := { s with exch := { s.exch with service := .config } }) hclk
      (congrArg Exchange.service hexch) hgrade _ _
  · rw [(hends.link.stays fun h => hc (hcloses.mpr h)).1, hradio]
  · rw [hends.ret.1, hsteer, hpath]
  · rw [hends.ret.2, hsteer, hpath]

include htables

/-- Target, BACKOFF, classes, radio band, hold buffer and records (R64, R73, R84, R105, R124, R130). -/
theorem stop_rests :
    let t := takeKind Kind.stopService orderStopService s
    t.exch.service = .config ∧ t.ru.target = .off
      ∧ (s.ru.state = .backoff → t.ru.state = s.ru.downFrom)
      ∧ (∀ c ∈ t.classes, c.cur = t.lastPath)
      ∧ t.bandEmpty (hold32 (s.fwd.counts.radioFlush + (s.fwd.radioQ.urgent.length + s.fwd.radioQ.normal.length)))
      ∧ t.fwd.counts.holdDiscard = (s.fwd.counts.discards (s.fwd.held.filter s.bindsUse).length).holdDiscard
      ∧ (s.heldFramesWait → t.fwd.held = [])
      ∧ (∀ k < 128, (s.flow k).state ≠ .free → t.flow k = { FlowRec.freed 0 with count := (t.flow k).count }) := by
  have hwork := stop_body (i := i) hservice
  have hv := stopSteps_stopped s
  have hrests := hv.rests htables
  have honTarget := retarget_onTarget (stopSteps (Work.begin s))
  have hsteered := retarget_steeredOn (free := False) (w := stopSteps (Work.begin s)) False.elim
  have hservice' := service_of_kept (passes_kept (retarget (stopSteps (Work.begin s))))
  generalize retarget (stopSteps (Work.begin s)) = v at *
  obtain ⟨hfwd, -, hflow, -⟩ := takeKind_fields (kind := Kind.stopService) hoffers hwork
  have hru := takeKind_ru (kind := Kind.stopService) hoffers hwork
  have htarget := takeKind_onTarget (kind := Kind.stopService) hoffers hwork honTarget
  have hsettled := takeKind_settled (kind := Kind.stopService) (body := orderStopService) hoffers (free := False)
    (by rw [hwork]; exact hsteered)
  have hstays : (takeKind Kind.stopService orderStopService s).exch.service = (passes v).st.exch.service := by
    have hgoes := takeKind_linkGoes (kind := Kind.stopService) (body := orderStopService) hoffers
    rw [hwork] at hgoes
    exact hgoes.service.trans hservice'.symm
  generalize takeKind Kind.stopService orderStopService s = t at *
  generalize passes v = u at *
  have hconfig : t.exch.service = .config := hstays.trans hrests.config.service
  refine ⟨hconfig, htarget.trans (targetNow_config hconfig), fun hs => ?_, fun c hc => ?_, ?_, ?_, fun hw => ?_,
    fun k hk hused => ?_⟩
  · rw [hru]
    exact hrests.backoff hs
  · exact (((steered_iff _ _).mp hsettled).1 c hc).1 (by rw [hconfig]; decide)
  · have hband := hrests.config.band
    unfold State.bandEmpty at hband ⊢
    rw [hfwd]
    exact hband
  · rw [hfwd]
    exact hrests.config.discards
  · rw [hfwd]
    exact hrests.held hw
  · have hin : k < s.flows.length := by rw [htables.2]; exact hk
    have hfreed : u.st.flow k = FlowRec.freed (s.flow k).count := by
      show u.st.flows.getD k _ = _
      rw [hrests.config.flows, freedFlows_range htables.2, getD_map_lt _ hin (FlowRec.freed 0)]
      exact if_neg hused
    rw [hflow k, hfreed]
    rfl

end

/-- What the order answers, and what it leaves as it was. -/
theorem stop_kept {i : Nat} {rest : List Nat} {s : State} (hoffers : s.offersKind Kind.stopService i rest)
    (hservice : s.exch.service = .service) (htables : s.tables) :
    let t := takeKind Kind.stopService orderStopService s
    t.keptByPaths = (({ s with
      exch := { s.exch with service := .config },
      flows := s.flows.map fun f => if f.state = .free then f else FlowRec.freed f.count } : State).answered i rest .ok
        (pack [(1, s.flowsInUse), (1, s.drill.running.toNat), (1, s.hold.active.toNat), (1, 1), (1, t.fibre.state.code),
          (1, t.radio.state.code), (1, t.ru.state.code)])).keptByPaths := by
  have hbody := orderStop_service (ps := slotParams s.mem i) hservice
  have hwork := stop_body (i := i) hservice
  have hv := stopSteps_stopped s
  have hev : (stopSteps (Work.begin s)).st.ev.settings = s.ev.settings :=
    (steady_settings s.ev.settings).stopSteps (Work.begin s) rfl
  have hkept := retarget_kept (stopSteps (Work.begin s))
  obtain ⟨-, -, -, -, -, -, -, hmem, -⟩ := hv.fields
  have hrests := hv.rests htables
  generalize stopSteps (Work.begin s) = b at *
  generalize retarget b = v at *
  have htaken := takeKind_kept_of (kind := Kind.stopService) hoffers hbody hkept hmem
  obtain ⟨hfibre, hradio, hru⟩ := takeKind_shown (kind := Kind.stopService) hoffers hwork
  have hanswer := stopAnswer_of s.flowsInUse s.drill.running s.hold.active hrests.config.service hfibre hradio hru
  rw [hanswer] at htaken
  dsimp only
  generalize takeKind Kind.stopService orderStopService s = t at *
  exact (keptByPaths_of_kept htaken).trans (hv.keptByPaths htables hev _ _ _ _)

theorem startAnswer_running {s : State} (h : s.exch.service = .service) : startAnswer s
    = pack [(1, 2), (1, s.fibre.state.code), (1, s.radio.state.code), (1, s.ru.state.code), (1, s.ru.target.code)] := by
  unfold startAnswer
  rw [h]
  rfl

theorem stoppedPath_upOrDown (s : State) (p : Path) :
    (s.stoppedPath p).state = .up ∨ (s.stoppedPath p).state = .down := by
  unfold State.stoppedPath
  rw [backUp_state]
  split
  · exact Or.inr rfl
  · exact Or.inl rfl

theorem lastPath_stopped {s t : State} (h : t.fibre = s.stoppedPath .fibre) :
    t.lastPath = if t.fibre.state = .up then .fibre else .blocked := by
  unfold State.lastPath
  rcases stoppedPath_upOrDown s .fibre with hs | hs <;> rw [h, hs] <;> simp

theorem discards_holdDiscard (n : Nat) (c : ForwardCounts) : (n = 0 → (c.discards n).holdDiscard = c.holdDiscard)
    ∧ (0 < n → (c.discards n).holdDiscard = min (c.holdDiscard + n) 4294967295) := by
  unfold ForwardCounts.discards
  refine ⟨fun h => by rw [if_pos h], fun h => ?_⟩
  rw [if_neg (Nat.pos_iff_ne_zero.mp h)]
  rfl

theorem ready_iff {r : PathRec} : r.ready = true ↔ 8 ≤ r.window.length := decide_eq_true_iff

/-- Settles O36. -/
theorem serviceStartsAndStops : Obligations.ServiceStartsAndStops := by
  unfold Obligations.ServiceStartsAndStops
  refine ⟨fun i rest s hcur hoffers => ⟨fun hservice => ⟨_, rfl, ?starts⟩, fun hservice => ⟨_, rfl, ?runs⟩⟩,
    fun i rest s hcur hoffers => ⟨fun hservice htables => ⟨_, rfl, ?stops⟩, fun hservice => ⟨_, rfl, ?idle⟩⟩⟩
  case starts => exact serviceStarts hoffers hservice
  case runs =>
    have hanswer := startAnswer_running hservice
    have hstill := takeKind_still (kind := Kind.startService) hoffers (orderStart_service hservice) rfl rfl rfl rfl hcur
    exact hstill.trans (congrArg (fun a => (s.answered i rest .ok a).plain) hanswer)
  case idle =>
    have hstill := takeKind_still (kind := Kind.stopService) hoffers (orderStop_config hservice) rfl rfl rfl rfl hcur
    exact hstill.trans (congrArg (fun a => (s.answered i rest .ok a).plain)
      (stopAnswer_of (t := s) 0 false false hservice rfl rfl rfl))
  case stops =>
    have hkept := stop_kept hoffers hservice htables
    obtain ⟨hdrill, hhold, hfibre, hclosed, hopen, hret, hdue, hgrade, hchange, hready, hdrops⟩ := stop_paths hoffers hservice
    obtain ⟨hconfig, htarget, hbackoff, hclasses, hband, hdiscard, hheld, hflows⟩ := stop_rests hoffers hservice htables
    have hbinds : s.bindsUse = fun h : HeldFrame =>
        match h.flow with | none => false | some k => decide ((s.flow k).state ≠ .free) :=
      funext fun x => bindsUse_eq htables x
    have hcount := discards_holdDiscard (s.fwd.held.filter s.bindsUse).length s.fwd.counts
    rw [hbinds] at hcount hdiscard hdrops
    generalize takeKind Kind.stopService orderStopService s = t at *
    refine ⟨hkept, ?_, ?_, htarget, fun hrun => ?_, fun hactive => ?_, ⟨hfibre, hclosed, hopen, hret, hdue, hgrade,
      fun p hd => ⟨fun hu => ?_, fun hw => ?_⟩⟩, hbackoff, fun c hc => ?_, hband.1, hband.2.1, ?_,
      ⟨fun hgone => hdiscard.trans (hcount.1 hgone), fun hgone => ⟨hdiscard.trans (hcount.2 hgone), ?_⟩⟩, hheld, hflows⟩
    · rw [hdrill]
      exact drillStopped_idle s
    · rw [hhold]
      exact ended_inactive _ _ _
    · rw [hdrill]
      unfold State.drillStopped
      rw [if_pos hrun]
      exact ⟨rfl, rfl⟩
    · rw [hhold]
      unfold Hold.ended
      rw [if_pos hactive]
    · exact changeBit_latched t p (hchange p hd hu)
    · exact getLsbD_of_latched (hready p (ready_iff.mpr hw)) (by decide)
    · exact (hclasses c hc).trans (lastPath_stopped hfibre)
    · rw [hband.2.2, ← Nat.add_assoc]
      rfl
    · exact getLsbD_of_latched (hdrops (Nat.pos_iff_ne_zero.mp hgone)) (by decide)

end Sys2Proof.Machine
end


section
/-! Results and the pending list: what enters the window and scores the path reads no pending entry, so a course of the
path is the same whatever its list holds meanwhile (R11, R13, R23 to R27). -/

namespace Sys2Proof.Machine

/-! ## A record with other pending entries -/

/-- The record with this pending list. -/
def PathRec.pending (q : List Probe) (r : PathRec) : PathRec := { r with probes := q }

/-- The state with no entry pending on the path. -/
def State.bared (s : State) (p : Path) : State := s.onPath p (PathRec.pending [])

theorem pending_pending (q q' : List Probe) (r : PathRec) : (r.pending q').pending q = r.pending q := rfl

theorem bared_onPath (s : State) (p : Path) (q : List Probe) : (s.onPath p (PathRec.pending q)).bared p = s.bared p := by
  cases p <;> rfl

theorem bared_path (s : State) (p : Path) : (s.bared p).path p = (s.path p).pending [] := path_onPath _ _ _

theorem movesTo_pending (now : Time) (n : PathState) (q : List Probe) (r : PathRec) :
    (r.pending q).movesTo now n = (r.movesTo now n).pending q := by
  by_cases h : r.state = n
  · rw [movesTo_same h]
    exact movesTo_same (r := r.pending q) h
  · unfold PathRec.movesTo
    rw [apply_ite (PathRec.pending q)]
    exact (if_neg (h : ¬(r.pending q).state = n)).trans (if_neg h).symm

theorem judged_down {s : State} {p : Path} {h : Nat} {k : Cause} {r : PathRec} (hd : r.state = .down) :
    r.judged s p h k = r.scored h := by
  have hp : ¬r.state = .proving := by rw [hd]; decide
  have hu : ¬(r.state = .up ∨ r.state = .weak) := by rw [hd]; decide
  unfold PathRec.judged
  dsimp only
  rw [if_neg hp, if_neg (fun h => hu h.1), if_neg (fun h => hu h.1), if_neg hu]
  rfl

/-- The state rule reads no pending entry. -/
theorem judged_pending (s : State) (p : Path) (h : Nat) (k : Cause) (q : List Probe) (r : PathRec) :
    (r.pending q).judged s p h k = (r.judged s p h k).pending q := by
  have usable : r.state = .up ∨ r.state = .weak → (r.pending q).judged s p h k = (r.judged s p h k).pending q := by
    intro hu
    by_cases hf : h < r.failT
    · by_cases hl : r.failLimit ≤ r.failCount + 1
      · rw [judged_falls hu ⟨hf, hl⟩, ← movesTo_pending]
        exact judged_falls (r := r.pending q) hu ⟨hf, hl⟩
      · rw [judged_fails hu hf hl, ← movesTo_pending]
        exact judged_fails (r := r.pending q) hu hf hl
    · rw [judged_stands hu hf, ← movesTo_pending]
      exact judged_stands (r := r.pending q) hu hf
  cases hs : r.state with
  | proving =>
    rw [judged_proving hs]
    refine (judged_proving (r := r.pending q) hs).trans ?_
    rw [apply_ite (PathRec.pending q), ← movesTo_pending]
    rfl
  | up => exact usable (Or.inl hs)
  | weak => exact usable (Or.inr hs)
  | suppressed =>
    rw [judged_suppressed hs]
    exact judged_suppressed (r := r.pending q) hs
  | down =>
    rw [judged_down hs]
    exact judged_down (r := r.pending q) hs

theorem evaluatedIn_pending (s : State) (p : Path) (q : List Probe) (r : PathRec) :
    (r.pending q).evaluatedIn s p = (r.evaluatedIn s p).pending q := by
  rw [evaluatedIn_eq, evaluatedIn_eq, ← judged_pending]
  rfl

/-! ## Results -/

/-- The window and the smoothed RTT with one more result. -/
theorem record_eq (x : Result) (r : PathRec) : r.record x = { r with
    window := (r.window ++ [x]).drop ((r.window ++ [x]).length - 16),
    s := (match x.rtt with | none => r.s | some rtt => if r.replied then (7 * r.s + rtt + 4) / 8 else rtt),
    replied := r.replied || x.rtt.isSome } := by
  obtain ⟨seq, rtt⟩ := x
  cases rtt with
  | none =>
    show ({ r with window := _ } : PathRec) = _
    rw [Option.isSome_none, Bool.or_false]
    rfl
  | some rtt =>
    show PathRec.smooth rtt ({ r with window := _ } : PathRec) = _
    unfold PathRec.smooth
    dsimp only
    cases hr : r.replied with
    | true => rfl
    | false => rfl

/-- A scoring path with eight results or more is evaluated. -/
theorem afterResult_eq (s : State) (p : Path) (x : Result) (r : PathRec) : r.afterResult s p x =
    if s.exch.service = .service ∧ r.linkOnly = false ∧ r.state ≠ .down ∧ 8 ≤ (r.record x).window.length then
      (r.record x).evaluatedIn s p
    else r.record x := by
  rw [record_eq]
  rfl

theorem record_pending (x : Result) (q : List Probe) (r : PathRec) : (r.pending q).record x = (r.record x).pending q := by
  rw [record_eq, record_eq]
  rfl

/-- What a result makes of a path reads no pending entry. -/
theorem afterResult_pending (s : State) (p : Path) (x : Result) (q : List Probe) (r : PathRec) :
    (r.pending q).afterResult s p x = (r.afterResult s p x).pending q := by
  rw [afterResult_eq, afterResult_eq, apply_ite (PathRec.pending q), ← evaluatedIn_pending, record_pending]
  rfl

theorem through_pending (s : State) (p : Path) (xs : List Result) (q : List Probe) (r : PathRec) :
    (r.pending q).through s p xs = (r.through s p xs).map (PathRec.pending q) := by
  induction xs generalizing r with
  | nil => rfl
  | cons x xs ih =>
    unfold PathRec.through
    rw [afterResult_pending, ih]
    rfl

/-! ## What a course of the path asks of the state -/

theorem evaluatedIn_congr {s t : State} (hclk : t.clk = s.clk) (hgrade : t.grade = s.grade) (p : Path) (r : PathRec) :
    r.evaluatedIn t p = r.evaluatedIn s p := by
  have hnow : t.now = s.now := congrArg Clock.ms hclk
  unfold PathRec.evaluatedIn
  rw [hnow, hgrade]

theorem afterResult_congr {s t : State} (hservice : t.exch.service = s.exch.service) (hclk : t.clk = s.clk)
    (hgrade : t.grade = s.grade) (p : Path) (x : Result) (r : PathRec) : r.afterResult t p x = r.afterResult s p x := by
  rw [afterResult_eq, afterResult_eq, evaluatedIn_congr hclk hgrade, hservice]

theorem through_congr {s t : State} (hservice : t.exch.service = s.exch.service) (hclk : t.clk = s.clk)
    (hgrade : t.grade = s.grade) (p : Path) (xs : List Result) (r : PathRec) : r.through t p xs = r.through s p xs := by
  induction xs generalizing r with
  | nil => rfl
  | cons x xs ih =>
    unfold PathRec.through
    rw [afterResult_congr hservice hclk hgrade, ih]

end Sys2Proof.Machine
end


section
/-! The drained list as a course of the path: one record for each result, each evaluated before the next enters (R11, R12,
R14, R27). -/

namespace Sys2Proof.Machine

/-! ## Courses that differ in their pending entries -/

theorem bared_fields (s : State) (p : Path) :
    (s.bared p).path (otherPath p) = s.path (otherPath p) ∧ (s.bared p).grade = s.grade ∧ (s.bared p).clk = s.clk
      ∧ (s.bared p).exch = s.exch ∧ (s.bared p).ru = s.ru ∧ (s.bared p).hold = s.hold ∧ (s.bared p).steer = s.steer
      ∧ (s.bared p).drill = s.drill := onPath_fields s p _

theorem bared_ev (s : State) (p : Path) : (s.bared p).ev = s.ev := by cases p <;> rfl

/-- Two states that are one but for what is pending on the path. -/
structure State.AlikeBut (p : Path) (s t : State) : Prop where
  record : (t.path p).pending [] = (s.path p).pending []
  other : t.path (otherPath p) = s.path (otherPath p)
  grade : t.grade = s.grade
  clk : t.clk = s.clk
  exch : t.exch = s.exch
  ru : t.ru = s.ru
  hold : t.hold = s.hold
  steer : t.steer = s.steer
  drill : t.drill = s.drill
  ev : t.ev = s.ev

theorem alike_of_bared {p : Path} {s t : State} (h : t.bared p = s.bared p) : s.AlikeBut p t := by
  obtain ⟨ho, hg, hc, he, hru, hh, hst, hd⟩ := bared_fields s p
  obtain ⟨ho', hg', hc', he', hru', hh', hst', hd'⟩ := bared_fields t p
  exact {
    record := by rw [← bared_path, ← bared_path, h]
    other := by rw [← ho, ← ho', h]
    grade := by rw [← hg, ← hg', h]
    clk := by rw [← hc, ← hc', h]
    exch := by rw [← he, ← he', h]
    ru := by rw [← hru, ← hru', h]
    hold := by rw [← hh, ← hh', h]
    steer := by rw [← hst, ← hst', h]
    drill := by rw [← hd, ← hd', h]
    ev := by rw [← bared_ev s p, ← bared_ev t p, h] }

theorem alike_states {xs ys : List PathRec} (h : ys.map (PathRec.pending []) = xs.map (PathRec.pending [])) :
    ys.map PathRec.state = xs.map PathRec.state := by
  have := congrArg (List.map PathRec.state) h
  rwa [List.map_map, List.map_map] at this

theorem Hold.through_states (now : Time) (p : Path) {xs ys : List PathRec}
    (h : ys.map PathRec.state = xs.map PathRec.state) (was : PathState) (k : Hold) :
    k.through now p was ys = k.through now p was xs := by
  have key : ∀ zs : List PathRec, k.through now p was zs
      = ((zs.map PathRec.state).foldl (fun a n => (a.1.sees now p a.2 n, n)) (k, was)).1 := fun zs => by
    rw [List.foldl_map]
    rfl
  rw [key, key, h]

theorem Steering.through_states (now : Time) {xs ys : List PathRec}
    (h : ys.map PathRec.state = xs.map PathRec.state) (was : PathState) (k : Steering) :
    k.through now was ys = k.through now was xs := by
  have key : ∀ zs : List PathRec, k.through now was zs
      = ((zs.map PathRec.state).foldl (fun a n => (a.1.sees now a.2 n, n)) (k, was)).1 := fun zs => by
    rw [List.foldl_map]
    rfl
  rw [key, key, h]

theorem state_mem {xs ys : List PathRec} (h : ys.map PathRec.state = xs.map PathRec.state) {P : PathState → Prop}
    (hx : ∃ y ∈ ys, P y.state) : ∃ x ∈ xs, P x.state := by
  obtain ⟨y, hy, hP⟩ := hx
  obtain ⟨x, hx, he⟩ := List.mem_map.mp (h ▸ List.mem_map_of_mem (f := PathRec.state) hy)
  exact ⟨x, hx, he.symm ▸ hP⟩

/-- A drill's record reads no pending entry. -/
theorem drillEnded_pending (s : State) (q : List Probe) (x : PathRec) (o : DrillOutcome) (c : DrillCause) :
    ({ s with radio := x.pending q } : State).drillEnded o c = ({ s with radio := x } : State).drillEnded o c := rfl

/-- A course told with other pending entries. -/
theorem State.PathWent.alike {s t s' t' : State} {p : Path} {xs ys : List PathRec} (h : s.PathWent t p xs)
    (hs : s.AlikeBut p s') (ht : t.AlikeBut p t') (hxs : ys.map (PathRec.pending []) = xs.map (PathRec.pending []))
    (hpath : t'.path p = ys.getLastD (s'.path p)) : s'.PathWent t' p ys := by
  have hnow : s'.now = s.now := congrArg Clock.ms hs.clk
  have hstates := alike_states hxs
  have hstate : (s'.path p).state = (s.path p).state := (congrArg PathRec.state hs.record :)
  have hlatched : ∀ {m}, latched m t → latched m t' := fun hm => by
    unfold latched
    rw [ht.ev]
    exact hm
  have hready : ∀ {u u' : State}, u.AlikeBut p u' → (u'.path p).ready = (u.path p).ready := fun hu =>
    ready_of_window (congrArg PathRec.window hu.record :)
  have hcause : ∀ {u u' : State}, u.AlikeBut p u' → (u'.path p).cause = (u.path p).cause := fun hu =>
    (congrArg PathRec.cause hu.record :)
  refine {
    keeps := {
      other := by rw [ht.other, hs.other, h.keeps.other]
      grade := by rw [ht.grade, hs.grade, h.keeps.grade]
      clk := by rw [ht.clk, hs.clk, h.keeps.clk]
      service := by rw [ht.exch, hs.exch, h.keeps.service]
      ru := by rw [ht.ru, hs.ru, h.keeps.ru]
      ready := fun hne => hlatched (h.keeps.ready (by rwa [hready hs, hready ht] at hne))
      cause := fun hne => hlatched (h.keeps.cause (by rwa [hcause hs, hcause ht] at hne))
      latches := ?latches }
    path := hpath
    hold := by rw [ht.hold, h.hold, hs.hold, hnow, hstate, Hold.through_states _ _ hstates]
    fibre := fun hp => by rw [ht.steer, h.fibre hp, hs.steer, hnow, hstate, Steering.through_states _ hstates]
    radio := fun hp => by rw [ht.steer, h.radio hp, hs.steer]
    change := fun hc => hlatched (h.change (state_mem (P := fun n => n ≠ (s.path p).state) hstates (hstate ▸ hc)))
    ends := fun ha he => hlatched (h.ends (hs.hold ▸ ha) (ht.hold ▸ he))
    drill := ?drill, passes := ?passes }
  case latches =>
    intro m hm
    refine hlatched (h.keeps.latches m ?_)
    unfold latched at hm ⊢
    rwa [hs.ev] at hm
  case drill =>
    intro hidle
    rw [ht.drill, hs.drill]
    refine h.drill (hs.drill ▸ hidle.imp_right fun hc => hc.imp_right fun hc x hx hup => ?_)
    obtain ⟨y, hy, hne⟩ := state_mem (P := fun n => n = .up) hstates.symm ⟨x, hx, hup⟩
    exact hc y hy hne
  case passes =>
    intro hp hrun hup before y after heq hbefore hy
    rw [heq, List.map_append, List.map_cons] at hxs
    obtain ⟨before', rest', hxsplit, hb, hr⟩ := List.map_eq_append_iff.mp hxs.symm
    obtain ⟨x, after', rfl, hx, -⟩ := List.map_eq_cons_iff.mp hr
    have hyx : x.state = y.state := (congrArg PathRec.state hx :)
    have hearlier : ∀ z ∈ before', z.state ≠ .up := fun z hz hzup => by
      obtain ⟨w, hw, hwup⟩ := state_mem (P := fun n => n = .up) (alike_states hb) ⟨z, hz, hzup⟩
      exact hbefore w hw hwup
    obtain ⟨hdrill, hlatch⟩ := h.passes hp (hs.drill ▸ hrun) (hstate ▸ hup) before' x after' hxsplit hearlier
      (hyx.trans hy)
    refine ⟨(ht.drill.trans hdrill).trans ?_, hlatched hlatch⟩
    rw [← drillEnded_pending s [] x, hx, drillEnded_pending]
    exact (drillEnded_congr (s := { s with radio := y }) (t := { s' with radio := y }) hs.clk
      (congrArg Exchange.service hs.exch) hs.ru hs.drill rfl _ _).symm

/-! ## One result (R13, R14, R27) -/

/-- A record revised, with the readiness it then has noted (R14). -/
def noted (p : Path) (f : PathRec → PathRec) (w : Work) : Work := noteReady p (w.st.path p).ready (w.onPath p f)

section
variable {p : Path} {f : PathRec → PathRec} {w : Work}

theorem noted_onlyEv : (w.st.onPath p f).OnlyEv (noted p f w).st := noteReady_onlyEv p _ (w.onPath p f)

theorem noted_path : (noted p f w).st.path p = f (w.st.path p) := (noted_onlyEv.path p).trans (path_onPath _ _ _)

theorem noted_idle (h : (f (w.st.path p)).ready = (w.st.path p).ready) : noted p f w = w.onPath p f := by
  unfold noted noteReady
  exact if_pos ((congrArg PathRec.ready (path_onPath _ _ _)).trans h)

theorem noted_latched (h : (f (w.st.path p)).ready ≠ (w.st.path p).ready) : latched (bitMask 15) (noted p f w).st := by
  unfold noted noteReady
  have hne : ¬((w.onPath p f).st.path p).ready = (w.st.path p).ready := fun he =>
    h ((congrArg PathRec.ready (path_onPath _ _ _)).symm.trans he)
  rw [if_neg hne]
  exact latch_latched _ _

theorem noted_revised (hstate : (f (w.st.path p)).state = (w.st.path p).state)
    (hcause : (f (w.st.path p)).cause = (w.st.path p).cause) : w.st.PathRevised (noted p f w).st p := by
  obtain ⟨hother, hgrade, hclk, hexch, hru, hhold, hsteer, hdrill⟩ := onPath_fields w.st p f
  obtain ⟨e, -, hst⟩ := noted_onlyEv (p := p) (f := f) (w := w)
  refine {
    keeps := {
      other := by rw [noted_onlyEv.path, hother]
      grade := by rw [hst]; exact hgrade
      clk := by rw [hst]; exact hclk
      service := by rw [hst]; exact congrArg Exchange.service hexch
      ru := by rw [hst]; exact hru
      ready := fun hne => noted_latched fun h => hne (by rw [noted_path, h])
      cause := fun hne => by
        rw [noted_path, hcause] at hne
        exact (hne.elim (fun h => h rfl) fun h => h rfl).elim
      latches := fun m hm => ?latches }
    state := by rw [noted_path, hstate]
    hold := by rw [hst]; exact hhold
    steer := by rw [hst]; exact hsteer
    drill := by rw [hst]; exact hdrill }
  case latches =>
    have hset : latched m (w.onPath p f).st := by cases p <;> exact hm
    unfold noted noteReady
    split
    · exact hset
    · exact (closedLatched m).latch _ _ (handConditions_latched hset)

end

theorem enterResult_eq (p : Path) (x : Result) (w : Work) :
    enterResult p x w = evaluate p (noted p (PathRec.record x) w) := rfl

theorem record_fields (x : Result) (r : PathRec) :
    (r.record x).state = r.state ∧ (r.record x).cause = r.cause ∧ (r.record x).linkOnly = r.linkOnly
      ∧ (r.record x).probes = r.probes := by
  rw [record_eq]
  exact ⟨rfl, rfl, rfl, rfl⟩

/-- One result is a course of one record. -/
theorem enterResult_went (p : Path) (x : Result) (w : Work) :
    w.st.PathWent (enterResult p x w).st p [(w.st.path p).afterResult w.st p x] := by
  obtain ⟨hstate, hcause, hlink, -⟩ := record_fields x (w.st.path p)
  have hrevised := noted_revised (p := p) (w := w) hstate hcause
  have hpath := noted_path (p := p) (f := PathRec.record x) (w := w)
  have hscoring : (noted p (PathRec.record x) w).st.scoring p = true ↔
      w.st.exch.service = .service ∧ (w.st.path p).linkOnly = false ∧ (w.st.path p).state ≠ .down := by
    rw [scoring_iff, hpath, hstate, hlink, hrevised.keeps.service]
  have hready : ((noted p (PathRec.record x) w).st.path p).ready = true ↔
      8 ≤ ((w.st.path p).record x).window.length := by
    rw [hpath]
    exact ready_iff
  rw [enterResult_eq, afterResult_eq]
  split
  case isTrue h =>
    obtain ⟨hs, hl, hd, hw⟩ := h
    have hwent := evaluate_went (hscoring.mpr ⟨hs, hl, hd⟩) (hready.mpr hw)
    rw [hpath, evaluatedIn_congr hrevised.keeps.clk hrevised.keeps.grade] at hwent
    exact hrevised.then hwent
  case isFalse h =>
    have hrests : ((noted p (PathRec.record x) w).st.scoring p && ((noted p (PathRec.record x) w).st.path p).ready) = false := by
      rw [Bool.eq_false_iff, ne_eq, Bool.and_eq_true, hscoring, hready]
      exact fun ⟨⟨hs, hl, hd⟩, hw⟩ => h ⟨hs, hl, hd, hw⟩
    rw [evaluate_rests hrests]
    have hwent := hrevised.went
    rwa [hpath] at hwent

/-! ## The list drained (R11) -/

/-- The results of a list, entered one after another, each with the entries behind it pending. -/
theorem drainList_resolved (p : Path) {e : Probe} (rest : List Probe) {x : Result} (hx : e.result = some x) (w : Work) :
    drainList p (e :: rest) w = drainList p rest (enterResult p x (w.onPath p (PathRec.pending rest))) := by
  unfold Probe.result at hx
  conv => lhs; unfold drainList
  cases hres : e.res with
  | unresolved =>
    rw [hres] at hx
    exact absurd hx (by simp)
  | replied rtt =>
    rw [hres] at hx
    obtain rfl := Option.some.inj hx
    rfl
  | lost =>
    rw [hres] at hx
    obtain rfl := Option.some.inj hx
    rfl

theorem drainList_unresolved (p : Path) {e : Probe} (rest : List Probe) (hx : e.result = none) (w : Work) :
    drainList p (e :: rest) w = w.onPath p (PathRec.pending (e :: rest)) := by
  unfold Probe.result at hx
  unfold drainList
  cases hres : e.res with
  | unresolved => rfl
  | replied rtt => rw [hres] at hx; cases hx
  | lost => rw [hres] at hx; cases hx

theorem resultsOf_resolved {e : Probe} {rest : List Probe} {x : Result} (hx : e.result = some x) :
    resultsOf (e :: rest) = x :: resultsOf rest ∧ unresolvedOn (e :: rest) = unresolvedOn rest := by
  unfold resultsOf unresolvedOn
  rw [List.takeWhile_cons_of_pos (by rw [hx]; rfl), List.dropWhile_cons_of_pos (by rw [hx]; rfl)]
  exact ⟨List.filterMap_cons_some hx, rfl⟩

theorem resultsOf_unresolved {e : Probe} {rest : List Probe} (hx : e.result = none) :
    resultsOf (e :: rest) = [] ∧ unresolvedOn (e :: rest) = e :: rest := by
  unfold resultsOf unresolvedOn
  rw [List.takeWhile_cons_of_neg (by rw [hx]; exact Bool.false_ne_true),
    List.dropWhile_cons_of_neg (by rw [hx]; exact Bool.false_ne_true)]
  exact ⟨rfl, rfl⟩

theorem drainList_leaves (p : Path) (es : List Probe) (w : Work) :
    ((drainList p es w).st.path p).probes = unresolvedOn es := by
  induction es generalizing w with
  | nil => exact congrArg PathRec.probes (path_onPath _ _ _)
  | cons e rest ih =>
    cases hx : e.result with
    | none =>
      rw [drainList_unresolved p rest hx, (resultsOf_unresolved hx).2]
      exact congrArg PathRec.probes (path_onPath _ _ _)
    | some x =>
      rw [drainList_resolved p rest hx, (resultsOf_resolved hx).2]
      exact ih _

/-- A pending list written is no step of the path. -/
theorem pending_still (p : Path) (q : List Probe) (w : Work) :
    (w.st.bared p).PathWent ((w.onPath p (PathRec.pending q)).st.bared p) p [] := by
  have h : (w.onPath p (PathRec.pending q)).st.bared p = w.st.bared p := bared_onPath w.st p q
  rw [h]
  exact (State.PathRevised.refl _ p).still rfl

theorem State.AlikeBut.symm {p : Path} {s t : State} (h : s.AlikeBut p t) : t.AlikeBut p s :=
  ⟨h.record.symm, h.other.symm, h.grade.symm, h.clk.symm, h.exch.symm, h.ru.symm, h.hold.symm, h.steer.symm,
    h.drill.symm, h.ev.symm⟩

theorem bared_alike (s : State) (p : Path) : s.AlikeBut p (s.bared p) := alike_of_bared (bared_onPath s p [])

theorem afterResult_onPath (w : Work) (p : Path) (f : PathRec → PathRec) (x : Result) (r : PathRec) :
    r.afterResult (w.onPath p f).st p x = r.afterResult w.st p x := by
  obtain ⟨-, hgrade, hclk, hexch, -⟩ := onPath_fields w.st p f
  exact afterResult_congr (congrArg Exchange.service hexch) hclk hgrade p x r

/-- The list drained is a course of one record for each result, whatever is pending meanwhile. -/
theorem drainList_bared (p : Path) (es : List Probe) (w : Work) :
    (w.st.bared p).PathWent ((drainList p es w).st.bared p) p (((w.st.path p).pending []).through w.st p (resultsOf es)) := by
  induction es generalizing w with
  | nil => exact pending_still p [] w
  | cons e rest ih =>
    cases hx : e.result with
    | none =>
      rw [drainList_unresolved p rest hx, (resultsOf_unresolved hx).1]
      exact pending_still p _ w
    | some x =>
      rw [drainList_resolved p rest hx, (resultsOf_resolved hx).1]
      have hwent := enterResult_went p x (w.onPath p (PathRec.pending rest))
      have hlater := ih (enterResult p x (w.onPath p (PathRec.pending rest)))
      generalize enterResult p x (w.onPath p (PathRec.pending rest)) = v at *
      obtain ⟨-, hgrade, hclk, hexch, -⟩ := onPath_fields w.st p (PathRec.pending rest)
      have hrecord : ((w.onPath p (PathRec.pending rest)).st.path p) = (w.st.path p).pending rest := path_onPath _ _ _
      have hpath : v.st.path p = ((w.st.path p).afterResult w.st p x).pending rest := by
        rw [hwent.path, hrecord, afterResult_pending, afterResult_onPath]
        rfl
      have hfirst : (w.st.bared p).PathWent (v.st.bared p) p [((w.st.path p).pending []).afterResult w.st p x] := by
        refine hwent.alike ?_ (bared_alike _ p) ?_ ?_
        · exact alike_of_bared ((bared_onPath _ p []).trans (bared_onPath w.st p rest).symm)
        · rw [List.map_singleton, List.map_singleton, hrecord, afterResult_pending, afterResult_pending, afterResult_onPath]
          rfl
        · rw [bared_path, hpath, afterResult_pending]
          rfl
      have hrest : ((v.st.path p).pending []).through v.st p (resultsOf rest)
          = (((w.st.path p).pending []).afterResult w.st p x).through w.st p (resultsOf rest) := by
        rw [through_congr (hwent.keeps.service.trans (congrArg Exchange.service hexch)) (hwent.keeps.clk.trans hclk)
          (hwent.keeps.grade.trans hgrade), hpath, afterResult_pending]
        rfl
      rw [hrest] at hlater
      exact hfirst.trans hlater

end Sys2Proof.Machine
end


section
/-! The drained list in full: the course of one record for each result, and, where fewer than eight results come
together, the records alone, with nothing evaluated (R11, R12, R14, R27). -/

namespace Sys2Proof.Machine

/-! ## The course and its last record -/

theorem getLastD_map {f : PathRec → PathRec} {xs : List PathRec} (h : xs ≠ []) (d d' : PathRec) :
    (xs.map f).getLastD d = f (xs.getLastD d') := by
  rw [List.getLastD_eq_getLast?, List.getLastD_eq_getLast?, List.getLast?_map, List.getLast?_eq_some_getLast h]
  rfl

theorem through_ne_nil {s : State} {p : Path} {xs : List Result} (h : xs ≠ []) (r : PathRec) : r.through s p xs ≠ [] := by
  cases xs with
  | nil => exact absurd rfl h
  | cons x xs => exact List.cons_ne_nil _ _

/-- The list drained, as a course of the path's own records, where a result leaves it. -/
theorem drainList_went {p : Path} {es : List Probe} (w : Work) (h : resultsOf es ≠ []) :
    w.st.PathWent (drainList p es w).st p
      (((w.st.path p).pending (unresolvedOn es)).through w.st p (resultsOf es)) := by
  have hne := through_ne_nil (s := w.st) (p := p) h (w.st.path p)
  have hbared := drainList_bared p es w
  have hprobes := drainList_leaves p es w
  generalize drainList p es w = v at *
  rw [through_pending] at hbared ⊢
  refine hbared.alike (bared_alike _ p).symm (bared_alike _ p).symm ?_ ?_
  · rw [List.map_map, List.map_map]
    rfl
  · have hlast := hbared.path
    rw [bared_path, bared_path, getLastD_map hne _ (w.st.path p)] at hlast
    rw [getLastD_map hne _ (w.st.path p), ← hprobes]
    exact (congrArg (PathRec.pending (v.st.path p).probes) hlast :)

/-! ## Fewer than eight results -/

theorem record_window {x : Result} {r : PathRec} (h : r.window.length < 16) :
    (r.record x).window = r.window ++ [x] := by
  rw [record_eq]
  show List.drop _ _ = _
  rw [List.length_append, List.length_singleton, Nat.sub_eq_zero_of_le (by omega), List.drop_zero]

theorem not_ready_of {r : PathRec} (h : r.window.length < 8) : r.ready = false :=
  Bool.eq_false_iff.mpr fun hr => absurd (ready_iff.mp hr) (by omega)

theorem afterResult_few {s : State} {p : Path} {x : Result} {r : PathRec} (h : r.window.length < 7) :
    r.afterResult s p x = r.record x := by
  rw [afterResult_eq, record_window (by omega), List.length_append, List.length_singleton]
  exact if_neg fun ⟨_, _, _, hw⟩ => by omega

theorem onPath_eq (p : Path) (f : PathRec → PathRec) (w : Work) : w.onPath p f = w.onPath p fun _ => f (w.st.path p) := by
  cases p <;> rfl

theorem onPath_twice (p : Path) (f g : PathRec → PathRec) (w : Work) :
    (w.onPath p f).onPath p g = w.onPath p fun r => g (f r) := by
  cases p <;> rfl

theorem through_cons (s : State) (p : Path) (x : Result) (xs : List Result) (r : PathRec) :
    r.through s p (x :: xs) = r.afterResult s p x :: (r.afterResult s p x).through s p xs := rfl

theorem through_onPath (w : Work) (p : Path) (f : PathRec → PathRec) (xs : List Result) (r : PathRec) :
    r.through (w.onPath p f).st p xs = r.through w.st p xs := by
  obtain ⟨-, hgrade, hclk, hexch, -⟩ := onPath_fields w.st p f
  exact through_congr (congrArg Exchange.service hexch) hclk hgrade p xs r

/-- A result that leaves fewer than eight is no evaluation event. -/
theorem enterResult_few {p : Path} {x : Result} {w : Work} (h : (w.st.path p).window.length < 7) :
    enterResult p x w = w.onPath p (PathRec.record x) := by
  have hafter : ((w.st.path p).record x).ready = false := not_ready_of (by
    rw [record_window (by omega), List.length_append, List.length_singleton]
    omega)
  rw [enterResult_eq, noted_idle (hafter.trans (not_ready_of (by omega)).symm)]
  refine evaluate_rests ?_
  rw [onPath_path, hafter, Bool.and_false]

/-- Where the results stay fewer than eight, the list drained changes the record alone. -/
theorem drainList_few {p : Path} {es : List Probe} (w : Work)
    (h : (w.st.path p).window.length + (resultsOf es).length < 8) :
    drainList p es w = w.onPath p fun _ => (((w.st.path p).pending (unresolvedOn es)).through w.st p
      (resultsOf es)).getLastD ((w.st.path p).pending (unresolvedOn es)) := by
  induction es generalizing w with
  | nil => exact onPath_eq p _ w
  | cons e rest ih =>
    cases hx : e.result with
    | none =>
      rw [drainList_unresolved p rest hx, (resultsOf_unresolved hx).1, (resultsOf_unresolved hx).2]
      exact onPath_eq p _ w
    | some x =>
      rw [(resultsOf_resolved hx).1] at h
      rw [List.length_cons] at h
      have hpath : ((w.onPath p (PathRec.pending rest)).onPath p (PathRec.record x)).st.path p
          = ((w.st.path p).pending rest).record x := by rw [onPath_path, onPath_path]
      have hwindow : (((w.st.path p).pending rest).record x).window.length = (w.st.path p).window.length + 1 := by
        rw [record_pending]
        exact (congrArg List.length (record_window (show (w.st.path p).window.length < 16 by omega))).trans
          List.length_append
      rw [drainList_resolved p rest hx, (resultsOf_resolved hx).1, (resultsOf_resolved hx).2,
        enterResult_few (by rw [onPath_path]; exact (show (w.st.path p).window.length < 7 by omega)),
        ih _ (by rw [hpath, hwindow]; omega), hpath, onPath_twice, onPath_twice, through_onPath, through_onPath,
        record_pending, pending_pending]
      rw [through_cons, List.getLastD_cons, afterResult_pending,
        afterResult_few (show (w.st.path p).window.length < 7 by omega)]

end Sys2Proof.Machine
end


section
/-! An entry resolved: at the front, where it leaves with the entries resolved behind it, and behind an unresolved entry,
where it stands (R9, R10, R11). -/

namespace Sys2Proof.Machine

/-! ## The entry found -/

/-- A resolution from its result's RTT. -/
def Resolution.from : Option Nat → Resolution
  | none => .lost
  | some rtt => .replied rtt

theorem result_resolved (e : Probe) (rtt : Option Nat) :
    ({ e with res := Resolution.from rtt } : Probe).result = some ⟨e.seq, rtt⟩ := by
  cases rtt <;> rfl

/-- The first unresolved entry with its number, in a list cut before it. -/
structure Probe.FirstIn (e : Probe) (before : List Probe) : Prop where
  unresolved : e.res = .unresolved
  earlier : ∀ x ∈ before, ¬(x.seq = e.seq ∧ x.res = .unresolved)

theorem Probe.firstIn_nil {e : Probe} (h : e.res = .unresolved) : e.FirstIn [] := ⟨h, fun _ hx => absurd hx List.not_mem_nil⟩

theorem resolveSeq_first {e : Probe} {before : List Probe} (h : e.FirstIn before) (res : Resolution) (after : List Probe) :
    resolveSeq e.seq res (before ++ e :: after) = before ++ { e with res := res } :: after := by
  obtain ⟨hres, hearlier⟩ := h
  induction before with
  | nil => exact if_pos ⟨rfl, hres⟩
  | cons x xs ih =>
    refine (if_neg (hearlier x List.mem_cons_self)).trans (congrArg (x :: ·) ?_)
    exact ih fun y hy => hearlier y (List.mem_cons_of_mem _ hy)

theorem findUnresolved_none {seq : Half} {es : List Probe} (h : ∀ x ∈ es, ¬(x.seq = seq ∧ x.res = .unresolved)) :
    findUnresolved seq es = none := by
  unfold findUnresolved
  rw [List.find?_eq_none]
  intro x hx
  rw [Bool.and_eq_true, decide_eq_true_iff, decide_eq_true_iff]
  exact h x hx

theorem findUnresolved_first {e : Probe} {before : List Probe} (h : e.FirstIn before) (after : List Probe) :
    findUnresolved e.seq (before ++ e :: after) = some e := by
  have hnone := findUnresolved_none h.earlier
  unfold findUnresolved at hnone ⊢
  rw [List.find?_append, hnone, Option.none_or]
  exact List.find?_cons_of_pos (by rw [Bool.and_eq_true]; exact ⟨decide_eq_true rfl, decide_eq_true h.unresolved⟩)

/-! ## What the resolution makes of the path -/

section
variable {p : Path} {w : Work} {e : Probe} {before after : List Probe}

theorem resolveProbe_first (h : e.FirstIn before) (hprobes : (w.st.path p).probes = before ++ e :: after) (res : Resolution) :
    resolveProbe p e.seq res w = drainList p (before ++ { e with res := res } :: after)
      (w.onPath p (PathRec.pending (before ++ { e with res := res } :: after))) := by
  have hst : w.onPath p (fun r => { r with probes := resolveSeq e.seq res r.probes })
      = w.onPath p (PathRec.pending (before ++ { e with res := res } :: after)) := by
    rw [onPath_eq, onPath_eq p (PathRec.pending _), hprobes, resolveSeq_first h]
    rfl
  unfold resolveProbe drain
  rw [hst, onPath_path]
  rfl

/-- An entry behind an unresolved one is resolved where it stands. -/
theorem resolveProbe_behind (h : e.FirstIn before) (hprobes : (w.st.path p).probes = before ++ e :: after)
    {x : Probe} (hx : before.head? = some x) (hres : x.res = .unresolved) (res : Resolution) :
    resolveProbe p e.seq res w = w.onPath p (PathRec.pending (before ++ { e with res := res } :: after)) := by
  rw [resolveProbe_first h hprobes]
  obtain ⟨rest, rfl⟩ : ∃ rest, before = x :: rest := by
    cases before with
    | nil => cases hx
    | cons y ys =>
      obtain rfl := Option.some.inj hx
      exact ⟨ys, rfl⟩
  have hnone : x.result = none := by
    unfold Probe.result
    rw [hres]
  rw [List.cons_append, drainList_unresolved p _ hnone, onPath_twice]
  rfl

end

section
variable {p : Path} {w : Work} {e : Probe} {rest : List Probe} (rtt : Option Nat)

/-- The records that a path goes through as the front entry leaves, with the entries resolved behind it. -/
def PathRec.resolved (s : State) (p : Path) (e : Probe) (rtt : Option Nat) (rest : List Probe) (r : PathRec) :
    List PathRec :=
  (r.pending (unresolvedOn rest)).through s p (⟨e.seq, rtt⟩ :: resultsOf rest)

omit rtt in
theorem resolveProbe_front (hprobes : (w.st.path p).probes = e :: rest) (hres : e.res = .unresolved) (res : Resolution) :
    resolveProbe p e.seq res w = drainList p ({ e with res := res } :: rest)
      (w.onPath p (PathRec.pending ({ e with res := res } :: rest))) :=
  resolveProbe_first (before := []) (Probe.firstIn_nil hres) hprobes res

/-- A resolved entry at the front leaves as a result, with the results behind it. -/
theorem drainList_front (e : Probe) (rest : List Probe) (w : Work) :
    w.st.PathWent (drainList p ({ e with res := Resolution.from rtt } :: rest)
      (w.onPath p (PathRec.pending ({ e with res := Resolution.from rtt } :: rest)))).st p
      ((w.st.path p).resolved w.st p e rtt rest) := by
  obtain ⟨hresults, hleft⟩ := resultsOf_resolved (rest := rest) (result_resolved e rtt)
  have hwent := drainList_went (p := p) (es := { e with res := Resolution.from rtt } :: rest)
    (w.onPath p (PathRec.pending ({ e with res := Resolution.from rtt } :: rest)))
    (by rw [hresults]; exact List.cons_ne_nil _ _)
  rw [hresults, hleft, onPath_path, pending_pending, through_onPath] at hwent
  exact (revised_onPath (w := w) rfl rfl rfl).then hwent

/-- Where fewer than eight results come together, they change the record alone. -/
theorem drainList_frontFew (e : Probe) {rest : List Probe} {w : Work}
    (h : (w.st.path p).window.length + 1 + (resultsOf rest).length < 8) :
    drainList p ({ e with res := Resolution.from rtt } :: rest)
      (w.onPath p (PathRec.pending ({ e with res := Resolution.from rtt } :: rest)))
      = w.onPath p fun r => ((w.st.path p).resolved w.st p e rtt rest).getLastD r := by
  obtain ⟨hresults, hleft⟩ := resultsOf_resolved (rest := rest) (result_resolved e rtt)
  refine (drainList_few _ ?_).trans ?_
  · rw [onPath_path, hresults, List.length_cons]
    exact (show (w.st.path p).window.length + ((resultsOf rest).length + 1) < 8 by omega)
  · rw [onPath_twice, onPath_path, pending_pending, hresults, hleft, through_onPath]
    rfl

theorem resolveProbe_went (hprobes : (w.st.path p).probes = e :: rest) (hres : e.res = .unresolved) :
    w.st.PathWent (resolveProbe p e.seq (Resolution.from rtt) w).st p ((w.st.path p).resolved w.st p e rtt rest) := by
  rw [resolveProbe_front hprobes hres]
  exact drainList_front rtt e rest w

theorem resolveProbe_few (hprobes : (w.st.path p).probes = e :: rest) (hres : e.res = .unresolved)
    (h : (w.st.path p).window.length + 1 + (resultsOf rest).length < 8) :
    resolveProbe p e.seq (Resolution.from rtt) w
      = w.onPath p fun r => ((w.st.path p).resolved w.st p e rtt rest).getLastD r := by
  rw [resolveProbe_front hprobes hres]
  exact drainList_frontFew rtt e h

end

/-! ## One result that leaves fewer than eight -/

theorem resultsOf_waiting {es : List Probe} (h : ∀ x ∈ es.head?, x.res = .unresolved) :
    resultsOf es = [] ∧ unresolvedOn es = es := by
  cases es with
  | nil => exact ⟨rfl, rfl⟩
  | cons x xs =>
    refine resultsOf_unresolved ?_
    unfold Probe.result
    rw [h x rfl]

theorem record_lost {r : PathRec} (h : r.window.length < 16) (seq : Half) :
    r.record ⟨seq, none⟩ = { r with window := r.window ++ [⟨seq, none⟩] } := by
  rw [← record_window h]
  rfl

theorem record_replied {r : PathRec} (h : r.window.length < 16) (seq : Half) (rtt : Nat) :
    r.record ⟨seq, some rtt⟩ = { r with
      window := r.window ++ [⟨seq, some rtt⟩], s := if r.replied then (7 * r.s + rtt + 4) / 8 else rtt,
      replied := true } := by
  rw [← record_window h, record_eq]
  dsimp only
  rw [Option.isSome_some, Bool.or_true]

/-- The last record, where nothing resolved stands behind the front entry. -/
theorem resolved_alone {s : State} {p : Path} {e : Probe} {rest : List Probe} {rtt : Option Nat} {r d : PathRec}
    (hrest : ∀ x ∈ rest.head?, x.res = .unresolved) (h : r.window.length < 7) :
    (r.resolved s p e rtt rest).getLastD d = (r.record ⟨e.seq, rtt⟩).pending rest := by
  obtain ⟨hresults, hleft⟩ := resultsOf_waiting hrest
  unfold PathRec.resolved
  rw [hresults, hleft, through_cons, List.getLastD_cons, afterResult_pending, afterResult_few h]
  rfl

end Sys2Proof.Machine
end


section
/-! Events that change records without a fact of the event unit, and PROBE_EXPIRY among them (R10, R11, R183). -/

namespace Sys2Proof.Machine

/-! ## Quiet steps -/

theorem facts_onPath {s : State} {p : Path} {f : PathRec → PathRec} (hstate : (f (s.path p)).state = (s.path p).state)
    (hready : (f (s.path p)).ready = (s.path p).ready) : (s.onPath p f).facts = s.facts := by
  unfold State.facts State.factList State.fibreUsable State.radioUsable
  cases p with
  | fibre =>
    change (f s.fibre).state = s.fibre.state at hstate
    change (f s.fibre).ready = s.fibre.ready at hready
    unfold State.onPath
    dsimp only
    rw [hstate, hready]
  | radio =>
    change (f s.radio).state = s.radio.state at hstate
    change (f s.radio).ready = s.radio.ready at hready
    unfold State.onPath
    dsimp only
    rw [hstate, hready]

section
variable {s : State} {v : Work} (h : v.Quietly s)
include h

theorem Work.Quietly.onPath {p : Path} {f : PathRec → PathRec} (hstate : (f (v.st.path p)).state = (v.st.path p).state)
    (hready : (f (v.st.path p)).ready = (v.st.path p).ready) : (v.onPath p f).Quietly s where
  service := h.service
  pass := h.pass
  demand := h.demand
  flows := by cases p <;> exact h.flows
  cond := by
    have hcond : (v.st.onPath p f).ev = v.st.ev := by cases p <;> rfl
    exact (congrArg EventUnit.cond hcond).trans (h.cond.trans (facts_onPath hstate hready).symm)
  irq := by cases p <;> exact h.irq

theorem Work.Quietly.onFwd (f : Forwarding → Forwarding) : (v.onFwd f).Quietly s :=
  ⟨h.service, h.pass, h.demand, h.flows, h.cond, h.irq⟩

theorem Work.Quietly.onGens (f : Generators → Generators) : (v.onGens f).Quietly s :=
  ⟨h.service, h.pass, h.demand, h.flows, h.cond, h.irq⟩

theorem Work.Quietly.onUsed (n : Nat) : (v.onAllow fun a => { a with used := n }).Quietly s :=
  ⟨h.service, h.pass, h.demand, h.flows, h.cond.trans (facts_used v.st n).symm, h.irq⟩

/-- An event of quiet steps makes what they make. -/
theorem Work.Quietly.event_plain {g : Work → Work} (hg : g (Work.begin s) = v) : (event g s).plain = v.st.plain :=
  h.plain (r := v.st.ru) hg rfl rfl rfl Iff.rfl

end

/-! ## PROBE_EXPIRY (R10) -/

section
variable {p : Path} {s : State} {e : Probe} {before after : List Probe}

theorem exec_probeExpiry (p : Path) (seq : Half) (s : State) : exec (.probeExpiry p seq) s = execProbeExpiry p seq s := by rfl

theorem probeExpiry_due (h : e.FirstIn before) (hprobes : (s.path p).probes = before ++ e :: after)
    (hdue : reachedFine s.clk e.expiry e.sentSub = true) :
    exec (.probeExpiry p e.seq) s = .next (event (resolveProbe p e.seq (Resolution.from none)) s) := by
  rw [exec_probeExpiry]
  unfold execProbeExpiry State.probeDue
  rw [hprobes, findUnresolved_first h]
  dsimp only
  rw [if_pos hdue]
  rfl

end

theorem through_few {s : State} {p : Path} {xs : List Result} {r : PathRec} (h : r.window.length + xs.length < 8) :
    ((r.through s p xs).getLastD r).state = r.state
      ∧ ((r.through s p xs).getLastD r).window.length = r.window.length + xs.length := by
  induction xs generalizing r with
  | nil => exact ⟨rfl, rfl⟩
  | cons x xs ih =>
    rw [List.length_cons] at h ⊢
    have hlength : (r.record x).window.length = r.window.length + 1 := by
      rw [record_window (by omega)]
      exact List.length_append
    obtain ⟨hstate, hwindow⟩ := ih (r := r.record x) (by omega)
    rw [through_cons, List.getLastD_cons, afterResult_few (by omega), hstate, hwindow, hlength]
    exact ⟨(record_fields x r).1, by omega⟩

section
variable {p : Path} {w : Work} {e : Probe} {rest : List Probe} {rtt : Option Nat} {s : State}

/-- Fewer than eight results come together: the records change, and no fact with them. -/
theorem resolved_quietly (hw : w.Quietly s) (hprobes : (w.st.path p).probes = e :: rest) (hres : e.res = .unresolved)
    (hfew : (w.st.path p).window.length + 1 + (resultsOf rest).length < 8) :
    (resolveProbe p e.seq (Resolution.from rtt) w).Quietly s := by
  rw [resolveProbe_few rtt hprobes hres hfew, onPath_eq]
  obtain ⟨hstate, hwindow⟩ := through_few (s := w.st) (p := p) (xs := ⟨e.seq, rtt⟩ :: resultsOf rest)
    (r := (w.st.path p).pending (unresolvedOn rest)) (show (w.st.path p).window.length + _ < 8 by
      rw [List.length_cons]
      omega)
  refine hw.onPath hstate ?_
  refine (not_ready_of ?_).trans (not_ready_of (by omega)).symm
  exact lt_of_eq_of_lt hwindow (show (w.st.path p).window.length + _ < 8 by rw [List.length_cons]; omega)

theorem event_resolvesFew {g : Work → Work} (hw : w.Quietly s) (hprobes : (w.st.path p).probes = e :: rest)
    (hres : e.res = .unresolved) (hfew : (w.st.path p).window.length + 1 + (resultsOf rest).length < 8)
    (hg : g (Work.begin s) = resolveProbe p e.seq (Resolution.from rtt) w) : (event g s).plain
      = (w.st.onPath p fun r => ((w.st.path p).resolved w.st p e rtt rest).getLastD r).plain := by
  refine ((resolved_quietly hw hprobes hres hfew).event_plain hg).trans ?_
  rw [resolveProbe_few rtt hprobes hres hfew]
  rfl

/-- An entry behind an unresolved one is resolved where it stands. -/
theorem event_resolvesBehind {before : List Probe} {x : Probe} {g : Work → Work} (hw : w.Quietly s) (h : e.FirstIn before)
    (hprobes : (w.st.path p).probes = before ++ e :: rest) (hx : before.head? = some x) (hres : x.res = .unresolved)
    (hg : g (Work.begin s) = resolveProbe p e.seq (Resolution.from rtt) w) : (event g s).plain
      = (w.st.onPath p fun r => { r with probes := before ++ { e with res := Resolution.from rtt } :: rest }).plain :=
  (hw.onPath (p := p) rfl rfl).event_plain (hg.trans (resolveProbe_behind h hprobes hx hres _))

/-- One result leaves fewer than eight. -/
theorem event_resolvesAlone {g : Work → Work} (hw : w.Quietly s) (hprobes : (w.st.path p).probes = e :: rest)
    (hres : e.res = .unresolved) (hrest : ∀ x ∈ rest.head?, x.res = .unresolved) (hfew : (w.st.path p).window.length < 7)
    (hg : g (Work.begin s) = resolveProbe p e.seq (Resolution.from rtt) w) : (event g s).plain
      = (w.st.onPath p fun r => (r.record ⟨e.seq, rtt⟩).pending rest).plain := by
  have hlength : (resultsOf rest).length = 0 := congrArg List.length (resultsOf_waiting hrest).1
  rw [event_resolvesFew hw hprobes hres (by omega) hg]
  refine congrArg State.plain ?_
  have hconst := congrArg Work.st (onPath_eq p (fun r => (r.record ⟨e.seq, rtt⟩).pending rest) w)
  refine Eq.trans ?_ hconst.symm
  refine congrArg (fun f => (w.onPath p f).st) (funext fun r => ?_)
  exact resolved_alone hrest hfew

end

/-- PROBE_EXPIRY, due, as O37 states it. -/
theorem probeExpiry_taken {p : Path} {s : State} (hcur : s.current) {before after : List Probe} {e : Probe}
    (hprobes : (s.path p).probes = before ++ e :: after) (hfirst : e.FirstIn before)
    (hdue : reachedFine s.clk e.expiry e.sentSub = true) :
    ((∃ x rest, before = x :: rest ∧ x.res = .unresolved) → ∃ t, exec (.probeExpiry p e.seq) s = .next t ∧
      t.plain = (s.onPath p fun _ => { s.path p with probes := before ++ { e with res := .lost } :: after }).plain)
    ∧ (before = [] → (∀ x ∈ after.head?, x.res = .unresolved) → (s.path p).window.length < 7 →
      ∃ t, exec (.probeExpiry p e.seq) s = .next t ∧
        t.plain = (s.onPath p fun _ =>
          { s.path p with probes := after, window := (s.path p).window ++ [(⟨e.seq, none⟩ : Result)] }).plain)
    ∧ (before = [] → (s.path p).window.length + 1 + (resultsOf after).length < 8 →
      ∃ t, exec (.probeExpiry p e.seq) s = .next t ∧
        t.plain = (s.onPath p fun _ => (({ s.path p with probes := unresolvedOn after }.through s p
          (⟨e.seq, none⟩ :: resultsOf after)).getLastD (s.path p))).plain) := by
  refine ⟨?_, ?_, ?_⟩
  · rintro ⟨x, rest, hx, hres⟩
    refine ⟨_, probeExpiry_due hfirst hprobes hdue, ?_⟩
    rw [event_resolvesBehind (begin_quietly hcur) hfirst hprobes (by rw [hx]; rfl) hres rfl]
    exact congrArg (fun w : Work => w.st.plain) (onPath_eq p _ (Work.begin s))
  · rintro rfl hhead hfew
    refine ⟨_, probeExpiry_due hfirst hprobes hdue, ?_⟩
    rw [event_resolvesAlone (begin_quietly hcur) hprobes hfirst.unresolved hhead hfew rfl]
    refine (congrArg (fun w : Work => w.st.plain) (onPath_eq p _ (Work.begin s))).trans ?_
    rw [show (Work.begin s).st = s from rfl, record_lost (by omega)]
    rfl
  · rintro rfl hfew
    refine ⟨_, probeExpiry_due hfirst hprobes hdue, ?_⟩
    rw [event_resolvesFew (begin_quietly hcur) hprobes hfirst.unresolved hfew rfl]
    exact congrArg (fun w : Work => w.st.plain) (onPath_eq p _ (Work.begin s))

end Sys2Proof.Machine
end


section
/-! GENERATOR_TICK: a tick offered to the generator's paths, and the probe that a due tick sends (R2, R5, R6, R7, R12). -/

namespace Sys2Proof.Machine

/-! ## A tick offered (R2, R5) -/

/-- The assignment that names the generator. -/
def Generator.names : Generator → Assignment
  | .a => .genA
  | .b => .genB

/-- The state after the generator's tick has been taken. -/
def State.ticked (s : State) (g : Generator) : State :=
  { s with gens := s.gens.set g { s.gens.get g with due := later (s.gens.get g).due (periodMs (s.gens.get g).n) } }

theorem offerTick_named {g : Generator} {p : Path} {w : Work} (h : (w.st.path p).assign = Generator.names g) :
    offerTick g p w = tickPath p w := by
  unfold offerTick
  rw [h]
  cases g <;> rfl

theorem offerTick_unnamed {g : Generator} {p : Path} {w : Work} (h : (w.st.path p).assign ≠ Generator.names g) :
    offerTick g p w = w := by
  unfold offerTick
  cases ha : (w.st.path p).assign with
  | none => cases g <;> rfl
  | genA =>
    cases g with
    | a => exact absurd ha h
    | b => rfl
  | genB =>
    cases g with
    | a => rfl
    | b => exact absurd ha h

/-- A tick is left where the path is another generator's, or is not scoring. -/
theorem offerTick_left {g : Generator} {p : Path} {w : Work}
    (h : ¬((w.st.path p).assign = Generator.names g ∧ w.st.scoring p = true)) : offerTick g p w = w := by
  by_cases ha : (w.st.path p).assign = Generator.names g
  · rw [offerTick_named ha]
    exact if_neg fun hs => h ⟨ha, hs⟩
  · exact offerTick_unnamed ha

theorem generatorTick_eq (g : Generator) (s : State) : generatorTick g (Work.begin s)
    = offerTick g .radio (offerTick g .fibre (Work.begin (s.ticked g))) := rfl

theorem offerTick_assign (g : Generator) (w : Work) : (offerTick g .fibre w).st.radio.assign = w.st.radio.assign := by
  have h := (closed_keptByProbes w.st.keptByProbes).offerTick trivial g .fibre (Or.inr trivial) w rfl
  exact (congrArg (fun t : State => t.radio.assign) h :)

/-- A generator of one path offers its tick to that path. -/
theorem generatorTick_single {g : Generator} {p : Path} {s : State}
    (h : ∀ q, (s.path q).assign = Generator.names g → q = p) :
    generatorTick g (Work.begin s) = offerTick g p (Work.begin (s.ticked g)) := by
  rw [generatorTick_eq]
  cases p with
  | fibre =>
    refine offerTick_unnamed fun ha => ?_
    have hradio : (s.path .radio).assign = Generator.names g := (offerTick_assign g _).symm.trans ha
    exact absurd (h _ hradio) (by decide)
  | radio =>
    rw [offerTick_unnamed (p := .fibre)]
    exact fun ha => absurd (h .fibre ha) (by decide)

theorem exec_generatorTick (g : Generator) (s : State) : exec (.generatorTick g) s = execGeneratorTick g s := by rfl

theorem generatorTick_due {g : Generator} {s : State} (h : reached s.now (s.gens.get g).due = true) :
    exec (.generatorTick g) s = .next (event (generatorTick g) s) := by
  rw [exec_generatorTick]
  unfold execGeneratorTick
  rw [if_pos h]

theorem ticked_quietly {s : State} (hcur : s.current) (g : Generator) : (Work.begin (s.ticked g)).Quietly s :=
  (begin_quietly hcur).onGens fun gs => gs.set g { gs.get g with due := later (gs.get g).due (periodMs (gs.get g).n) }

/-! ## A probe sent (R6, R7) -/

/-- The entry of the probe that the path sends now. -/
def Probe.sentIn (s : State) (r : PathRec) : Probe :=
  { seq := r.seq, sent := s.now, sentSub := s.clk.sub, expiry := later s.now r.timeout, res := .unresolved }

/-- The record with a probe sent. -/
def PathRec.sends (e : Probe) (r : PathRec) : PathRec :=
  { r with probes := r.probes ++ [e], seq := r.seq + 1, sent := r.sent + 1 }

/-- The frame of the probe that the path sends now. -/
def State.probeTx (s : State) (p : Path) (r : PathRec) : TxFrame := ⟨probeFrame p r.template r.seq s.now, none⟩

/-- The queue with one more probe waiting. -/
def TxQueue.awaits (f : TxFrame) (q : TxQueue) : TxQueue := { q with probes := q.probes ++ [f] }

/-- The probe entered in the pending list, and its frame waiting at the port. -/
def posted (p : Path) (w : Work) : Work :=
  (w.onPath p (PathRec.sends (Probe.sentIn w.st (w.st.path p)))).onQueue p
    (TxQueue.awaits (w.st.probeTx p (w.st.path p)))

/-- The tick counted as the last of its divisor. -/
def rewound (p : Path) (w : Work) : Work := w.onPath p fun _ => { w.st.path p with ticks := 0 }

section
variable {p : Path} {w : Work}

theorem sendProbe_eq (p : Path) (w : Work) : sendProbe p w = takeNext p (posted p (makeRoom p w)) := rfl

theorem tickPath_sends (hs : w.st.scoring p = true) (hd : (w.st.path p).d ≤ (w.st.path p).ticks + 1) :
    tickPath p w = sendProbe p (rewound p w) := by
  unfold tickPath
  dsimp only
  rw [if_pos hs, if_pos hd]
  exact congrArg (sendProbe p) (onPath_eq p _ w)

theorem tickPath_counts (hs : w.st.scoring p = true) (hd : (w.st.path p).ticks + 1 < (w.st.path p).d) :
    tickPath p w = w.onPath p fun _ => { w.st.path p with ticks := (w.st.path p).ticks + 1 } := by
  unfold tickPath
  dsimp only
  rw [if_pos hs, if_neg (by omega)]
  exact onPath_eq p _ w

theorem makeRoom_spare (h : (w.st.path p).probes.length < 4) : makeRoom p w = w := by
  unfold makeRoom
  cases hp : (w.st.path p).probes with
  | nil => rfl
  | cons e es =>
    rw [hp] at h
    exact if_neg (Nat.not_le.mpr h)

theorem makeRoom_full {x : Probe} {xs : List Probe} (hp : (w.st.path p).probes = x :: xs)
    (h : 4 ≤ (w.st.path p).probes.length) : makeRoom p w = drainList p ({ x with res := Resolution.from none } :: xs)
      (w.onPath p (PathRec.pending ({ x with res := Resolution.from none } :: xs))) := by
  rw [hp] at h
  unfold makeRoom
  rw [hp]
  refine (if_pos h).trans ?_
  unfold drain
  rw [onPath_path]
  rfl

theorem posted_ready (p q : Path) (w : Work) : (posted p w).st.portReady q = w.st.portReady q := by
  cases p <;> cases q <;> rfl

theorem sendProbe_waits (h : (makeRoom p w).st.portReady p = false) : sendProbe p w = posted p (makeRoom p w) := by
  rw [sendProbe_eq]
  exact takeNext_unready ((posted_ready p p _).trans h)

theorem posted_quietly {s : State} (h : w.Quietly s) : (posted p w).Quietly s :=
  ((h.onPath (p := p) (f := PathRec.sends _) rfl rfl).onFwd fun f => f.setQueue p
    ((f.queue p).awaits (w.st.probeTx p (w.st.path p))))

theorem rewound_path : (rewound p w).st.path p = { w.st.path p with ticks := 0 } := onPath_path _ _ _

end

end Sys2Proof.Machine
end


section
/-! GENERATOR_TICK of one path, where no eight results come together: its tick left, counted, or a probe sent (R5, R6, R7,
R12, R123). -/

namespace Sys2Proof.Machine

section
variable {g : Generator} {p : Path} {s : State} (hcur : s.current)
  (hone : ∀ q, (s.path q).assign = Generator.names g → q = p)

theorem ticked_path (s : State) (g : Generator) (p : Path) : (s.ticked g).path p = s.path p := by cases p <;> rfl

theorem ticked_scoring (s : State) (g : Generator) (p : Path) : (s.ticked g).scoring p = s.scoring p := by cases p <;> rfl

include hone in
/-- A path of the other generator, or not scoring, is left. -/
theorem tick_left (h : ¬((s.path p).assign = Generator.names g ∧ s.scoring p = true)) :
    generatorTick g (Work.begin s) = Work.begin (s.ticked g) := by
  rw [generatorTick_single hone]
  refine offerTick_left ?_
  show ¬(((s.ticked g).path p).assign = _ ∧ (s.ticked g).scoring p = true)
  rw [ticked_path, ticked_scoring]
  exact h

variable (hnamed : (s.path p).assign = Generator.names g) (hscoring : s.scoring p = true)
include hone hnamed hscoring

omit hscoring in
theorem tick_taken : generatorTick g (Work.begin s) = tickPath p (Work.begin (s.ticked g)) := by
  rw [generatorTick_single hone]
  refine offerTick_named ?_
  show ((s.ticked g).path p).assign = _
  rw [ticked_path]
  exact hnamed

theorem tick_counts (hd : (s.path p).ticks + 1 < (s.path p).d) : generatorTick g (Work.begin s)
    = (Work.begin (s.ticked g)).onPath p fun _ => { s.path p with ticks := (s.path p).ticks + 1 } := by
  rw [tick_taken hone hnamed]
  have hpath : (Work.begin (s.ticked g)).st.path p = s.path p := ticked_path s g p
  rw [tickPath_counts ((ticked_scoring s g p).trans hscoring) (by rw [hpath]; exact hd), hpath]

/-- The work that a due tick's probe is sent in. -/
def rewoundTick (g : Generator) (p : Path) (s : State) : Work :=
  (Work.begin (s.ticked g)).onPath p fun _ => { s.path p with ticks := 0 }

omit hone hnamed hscoring in
theorem rewoundTick_path : (rewoundTick g p s).st.path p = { s.path p with ticks := 0 } := onPath_path _ _ _

omit hone hnamed hscoring in
theorem rewoundTick_quietly (hcur : s.current) : (rewoundTick g p s).Quietly s := by
  refine (ticked_quietly hcur g).onPath ?_ ?_
  · exact (congrArg PathRec.state (ticked_path s g p)).symm
  · exact (congrArg PathRec.ready (ticked_path s g p)).symm

omit hone hnamed hscoring in
theorem rewoundTick_ready : (rewoundTick g p s).st.portReady p = s.portReady p := by cases p <;> rfl

omit hone hnamed hscoring in
theorem rewoundTick_fields : (rewoundTick g p s).st.fwd = s.fwd ∧ (rewoundTick g p s).st.clk = s.clk
    ∧ (rewoundTick g p s).st.exch = s.exch ∧ (rewoundTick g p s).st.grade = s.grade
    ∧ (rewoundTick g p s).st.allow = s.allow := by
  cases p <;> exact ⟨rfl, rfl, rfl, rfl, rfl⟩

theorem tick_sends (hd : (s.path p).d ≤ (s.path p).ticks + 1) :
    generatorTick g (Work.begin s) = sendProbe p (rewoundTick g p s) := by
  rw [tick_taken hone hnamed]
  have hpath : (Work.begin (s.ticked g)).st.path p = s.path p := ticked_path s g p
  rw [tickPath_sends ((ticked_scoring s g p).trans hscoring) (by rw [hpath]; exact hd)]
  unfold rewound rewoundTick
  rw [hpath]

end

/-! ## A probe that waits at the port -/

section
variable {g : Generator} {p : Path} {s : State}

/-- The state after a due tick whose probe waits at the port, its record otherwise this one. -/
theorem rewoundTick_posts (r : PathRec) : (posted p ((rewoundTick g p s).onPath p fun _ => r)).st
    = { (s.ticked g).onPath p (fun _ => r.sends (Probe.sentIn s r)) with
        fwd := s.fwd.setQueue p ((s.fwd.queue p).awaits (s.probeTx p r)) } := by
  cases p <;> rfl

theorem rewoundTick_self : rewoundTick g p s = (rewoundTick g p s).onPath p fun _ => { s.path p with ticks := 0 } := by
  cases p <;> rfl

variable (hcur : s.current)
include hcur

theorem event_posts {r : PathRec} (hstate : r.state = (s.path p).state) (hready : r.ready = (s.path p).ready)
    (hg : generatorTick g (Work.begin s) = posted p ((rewoundTick g p s).onPath p fun _ => r)) :
    (event (generatorTick g) s).plain = ({ (s.ticked g).onPath p (fun _ => r.sends (Probe.sentIn s r)) with
        fwd := s.fwd.setQueue p ((s.fwd.queue p).awaits (s.probeTx p r)) } : State).plain := by
  have hq : ((rewoundTick g p s).onPath p fun _ => r).Quietly s := by
    refine (rewoundTick_quietly hcur).onPath ?_ ?_
    · rw [rewoundTick_path]
      exact hstate
    · rw [rewoundTick_path]
      exact hready
  exact ((posted_quietly hq).event_plain hg).trans (congrArg State.plain (rewoundTick_posts r))

variable (hone : ∀ q, (s.path q).assign = Generator.names g → q = p) (hnamed : (s.path p).assign = Generator.names g)
  (hscoring : s.scoring p = true) (hd : (s.path p).d ≤ (s.path p).ticks + 1)
include hone hnamed hscoring hd

omit hcur in
theorem tick_posts (hroom : (s.path p).probes.length < 4) : generatorTick g (Work.begin s)
    = takeNext p (posted p ((rewoundTick g p s).onPath p fun _ => { s.path p with ticks := 0 })) := by
  rw [tick_sends hone hnamed hscoring hd, sendProbe_eq, makeRoom_spare (by rw [rewoundTick_path]; exact hroom),
    ← rewoundTick_self]

/-- The probe waits at a port that is not free. -/
theorem tick_waits (hroom : (s.path p).probes.length < 4) (hport : s.portReady p = false) :
    (event (generatorTick g) s).plain = ({ (s.ticked g).onPath p (fun _ =>
          ({ s.path p with ticks := 0 } : PathRec).sends (Probe.sentIn s (s.path p))) with
        fwd := s.fwd.setQueue p ((s.fwd.queue p).awaits (s.probeTx p (s.path p))) } : State).plain := by
  refine event_posts hcur (r := { s.path p with ticks := 0 }) rfl rfl ?_
  rw [tick_posts hone hnamed hscoring hd hroom]
  refine takeNext_unready ?_
  rw [posted_ready, ← rewoundTick_self, rewoundTick_ready, hport]

/-- The probe goes straight to a port that is free. -/
theorem tick_goes (hroom : (s.path p).probes.length < 4) (hport : s.portReady p = true)
    (hnone : (s.fwd.queue p).probes = []) (hsound : p = .radio → s.allow.sound
      ∧ { s.allow with used := min (s.allow.used + (s.probeTx p (s.path p)).data.length + s.allow.overhead) max64 }.stageNow
        = s.allow.stage) :
    (event (generatorTick g) s).plain = ({ (s.ticked g).onPath p (fun _ =>
          ({ s.path p with ticks := 0 } : PathRec).sends (Probe.sentIn s (s.path p))) with
        fwd := s.fwd.setQueue p { s.fwd.queue p with sending := some (s.probeTx p (s.path p)).data }
        allow := match p with
          | .fibre => s.allow
          | .radio => { s.allow with
              used := min (s.allow.used + (s.probeTx p (s.path p)).data.length + s.allow.overhead) max64 } } : State).plain := by
  have hq := posted_quietly (p := p) (w := (rewoundTick g p s).onPath p fun _ => { s.path p with ticks := 0 }) (by
    rw [← rewoundTick_self]
    exact rewoundTick_quietly hcur)
  have hst := rewoundTick_posts (g := g) (s := s) (p := p) { s.path p with ticks := 0 }
  have hqueue : (posted p ((rewoundTick g p s).onPath p fun _ => { s.path p with ticks := 0 })).st.fwd.queue p
      = (s.fwd.queue p).awaits (s.probeTx p (s.path p)) := by
    rw [hst]
    cases p <;> rfl
  have hgives : ((posted p ((rewoundTick g p s).onPath p fun _ => { s.path p with ticks := 0 })).st.fwd.queue p).gives
      (s.probeTx p (s.path p)) (s.fwd.queue p) := by
    rw [hqueue]
    unfold TxQueue.gives TxQueue.awaits
    rw [hnone]
    exact Or.inl ⟨[], rfl, by rw [← hnone]⟩
  have hready : (posted p ((rewoundTick g p s).onPath p fun _ => { s.path p with ticks := 0 })).st.portReady p = true := by
    rw [posted_ready, ← rewoundTick_self, rewoundTick_ready, hport]
  have hallow : (posted p ((rewoundTick g p s).onPath p fun _ => { s.path p with ticks := 0 })).st.allow = s.allow := by
    rw [hst]
    cases p <;> rfl
  have hg := tick_posts hone hnamed hscoring hd hroom
  generalize posted p ((rewoundTick g p s).onPath p fun _ => { s.path p with ticks := 0 }) = v at *
  rw [takeNext_gives hready hgives] at hg
  have hoff := event_handsOff hcur.1 hg hq.pass hq.demand hq.cond hq.irq (by rw [hq.flows]) (fun hp => hallow ▸ (hsound hp).1)
  obtain ⟨hfibre, hsame, -⟩ := hoff
  cases p with
  | fibre =>
    refine (hfibre rfl).trans ?_
    rw [hst]
    rfl
  | radio =>
    have hstage := (hsound rfl).2
    rw [Nat.add_assoc] at hstage ⊢
    refine (hsame rfl ?_).trans ?_
    · rw [hallow]
      exact hstage
    · rw [hst]
      rfl

end

end Sys2Proof.Machine
end


section
/-! GENERATOR_TICK with a full pending list: the oldest entry is lost first, and what stands resolved behind it leaves
with it (R11, R12). -/

namespace Sys2Proof.Machine

/-! ## What results leave of the probe engine -/

/-- What results leave of a path's record: its lasting part, and the entries that wait. -/
def PathRec.engine (r : PathRec) : PathRec × List Probe := (r.lasting, r.probes)

theorem movesTo_engine (now : Time) (n : PathState) (r : PathRec) :
    (r.movesTo now n).engine = r.engine ∧ (r.movesTo now n).window = r.window := by
  unfold PathRec.movesTo
  dsimp only
  split <;> exact ⟨rfl, rfl⟩

/-- An evaluation reads the window and leaves it, and the probe engine. -/
theorem judged_engine (s : State) (p : Path) (h : Nat) (k : Cause) (r : PathRec) :
    (r.judged s p h k).engine = r.engine ∧ (r.judged s p h k).window = r.window := by
  have usable : r.state = .up ∨ r.state = .weak →
      (r.judged s p h k).engine = r.engine ∧ (r.judged s p h k).window = r.window := by
    intro hu
    by_cases hf : h < r.failT
    · by_cases hl : r.failLimit ≤ r.failCount + 1
      · rw [judged_falls hu ⟨hf, hl⟩]
        exact movesTo_engine _ _ ((r.scored h).fallen s p k 500)
      · rw [judged_fails hu hf hl]
        exact movesTo_engine _ _ ({ r.scored h with failCount := r.failCount + 1 } : PathRec)
    · rw [judged_stands hu hf]
      exact movesTo_engine _ _ ({ r.scored h with failCount := 0 } : PathRec)
  cases hs : r.state with
  | proving =>
    rw [judged_proving hs]
    split
    · exact movesTo_engine _ _ (r.scored h)
    · exact ⟨rfl, rfl⟩
  | up => exact usable (Or.inl hs)
  | weak => exact usable (Or.inr hs)
  | suppressed => rw [judged_suppressed hs]; exact ⟨rfl, rfl⟩
  | down => rw [judged_down hs]; exact ⟨rfl, rfl⟩

theorem record_engine (x : Result) (r : PathRec) : (r.record x).engine = r.engine := by
  rw [record_eq]
  rfl

theorem afterResult_engine (s : State) (p : Path) (x : Result) (r : PathRec) :
    (r.afterResult s p x).engine = r.engine ∧ (r.afterResult s p x).window = (r.record x).window := by
  rw [afterResult_eq]
  split
  · rw [evaluatedIn_eq]
    obtain ⟨hengine, hwindow⟩ := judged_engine s p (s.scoreOf p (r.record x)) (s.dominant p (r.record x)) (r.record x)
    exact ⟨hengine.trans (record_engine x r), hwindow⟩
  · exact ⟨record_engine x r, rfl⟩

theorem through_engine (s : State) (p : Path) (xs : List Result) (r : PathRec) :
    ((r.through s p xs).getLastD r).engine = r.engine := by
  induction xs generalizing r with
  | nil => rfl
  | cons x xs ih =>
    rw [through_cons, List.getLastD_cons, ih, (afterResult_engine s p x r).1]

theorem record_length (x : Result) (r : PathRec) : (r.record x).window.length = min (r.window.length + 1) 16 := by
  rw [record_eq]
  show (List.drop _ _).length = _
  rw [List.length_drop, List.length_append, List.length_singleton]
  omega

/-- The window grows with every result to 16. -/
theorem through_length (s : State) (p : Path) (xs : List Result) (r : PathRec) :
    min (r.window.length + xs.length) 16 ≤ ((r.through s p xs).getLastD r).window.length := by
  induction xs generalizing r with
  | nil => exact Nat.min_le_left _ _
  | cons x xs ih =>
    have hlater := ih (r.afterResult s p x)
    rw [(afterResult_engine s p x r).2, record_length] at hlater
    rw [through_cons, List.getLastD_cons, List.length_cons]
    omega

/-! ## The tick -/

section
variable {g : Generator} {p : Path} {s : State} {x : Probe} {xs : List Probe}

/-- The records that the path goes through as its oldest entry is lost. -/
def State.roomMade (s : State) (p : Path) (x : Probe) (xs : List Probe) : List PathRec :=
  ({ s.path p with ticks := 0 } : PathRec).resolved s p x none xs

/-- The record before the probe is sent. -/
def State.roomLast (s : State) (p : Path) (x : Probe) (xs : List Probe) : PathRec :=
  (s.roomMade p x xs).getLastD (s.path p)

theorem roomLast_eq (s : State) (p : Path) (x : Probe) (xs : List Probe) (d : PathRec) :
    (s.roomMade p x xs).getLastD d = s.roomLast p x xs := by
  unfold State.roomLast State.roomMade PathRec.resolved
  rw [through_cons, List.getLastD_cons, List.getLastD_cons]

theorem roomLast_engine : (s.roomLast p x xs).seq = (s.path p).seq ∧ (s.roomLast p x xs).sent = (s.path p).sent
    ∧ (s.roomLast p x xs).timeout = (s.path p).timeout ∧ (s.roomLast p x xs).template = (s.path p).template
    ∧ (s.roomLast p x xs).probes = unresolvedOn xs := by
  have h := through_engine s p (⟨x.seq, none⟩ :: resultsOf xs)
    (({ s.path p with ticks := 0 } : PathRec).pending (unresolvedOn xs))
  have hlast := roomLast_eq s p x xs (({ s.path p with ticks := 0 } : PathRec).pending (unresolvedOn xs))
  unfold State.roomMade PathRec.resolved at hlast
  rw [hlast] at h
  obtain ⟨hlasting, hprobes⟩ := Prod.mk.inj h
  exact ⟨(congrArg PathRec.seq hlasting :), (congrArg PathRec.sent hlasting :), (congrArg PathRec.timeout hlasting :),
    (congrArg PathRec.template hlasting :), hprobes⟩

theorem roomLast_few (h : (s.roomLast p x xs).window.length < 8) :
    (s.path p).window.length + 1 + (resultsOf xs).length < 8 := by
  have hlength := through_length s p (⟨x.seq, none⟩ :: resultsOf xs)
    (({ s.path p with ticks := 0 } : PathRec).pending (unresolvedOn xs))
  rw [← roomLast_eq s p x xs (({ s.path p with ticks := 0 } : PathRec).pending (unresolvedOn xs))] at h
  have hle := lt_of_le_of_lt hlength h
  rw [List.length_cons] at hle
  change min ((s.path p).window.length + ((resultsOf xs).length + 1)) 16 < 8 at hle
  omega

theorem rewoundTick_through (rs : List Result) (r : PathRec) : r.through (rewoundTick g p s).st p rs = r.through s p rs := by
  obtain ⟨-, hclk, hexch, hgrade, -⟩ := rewoundTick_fields (g := g) (p := p) (s := s)
  exact through_congr (congrArg Exchange.service hexch) hclk hgrade p rs r

theorem rewoundTick_resolved : ((rewoundTick g p s).st.path p).resolved (rewoundTick g p s).st p x none xs
    = s.roomMade p x xs := by
  unfold PathRec.resolved
  rw [rewoundTick_through, rewoundTick_path]
  rfl

section
variable (hprobes : (s.path p).probes = x :: xs) (hfull : 4 ≤ (s.path p).probes.length)
include hprobes hfull

theorem rewoundTick_makesRoom : makeRoom p (rewoundTick g p s) = drainList p ({ x with res := Resolution.from none } :: xs)
    ((rewoundTick g p s).onPath p (PathRec.pending ({ x with res := Resolution.from none } :: xs))) :=
  makeRoom_full (by rw [rewoundTick_path]; exact hprobes) (by rw [rewoundTick_path]; exact hfull)

theorem makeRoom_went : (rewoundTick g p s).st.PathWent (makeRoom p (rewoundTick g p s)).st p (s.roomMade p x xs) := by
  rw [rewoundTick_makesRoom hprobes hfull, ← rewoundTick_resolved (g := g)]
  exact drainList_front none x xs _

theorem makeRoom_few (hfew : (s.path p).window.length + 1 + (resultsOf xs).length < 8) :
    makeRoom p (rewoundTick g p s) = (rewoundTick g p s).onPath p fun _ => s.roomLast p x xs := by
  rw [rewoundTick_makesRoom hprobes hfull, drainList_frontFew none x (by rw [rewoundTick_path]; exact hfew),
    rewoundTick_resolved]
  exact congrArg (fun f => (rewoundTick g p s).onPath p f) (funext (roomLast_eq s p x xs))

end

/-- The record after the probe is sent, in the statement's words. -/
theorem roomLast_sends : (s.roomLast p x xs).sends (Probe.sentIn s (s.roomLast p x xs)) = { s.roomLast p x xs with
    seq := (s.path p).seq + 1, sent := (s.path p).sent + 1, probes := unresolvedOn xs ++ [Probe.sentIn s (s.path p)] } := by
  obtain ⟨hseq, hsent, htimeout, -, hprobes⟩ := roomLast_engine (s := s) (p := p) (x := x) (xs := xs)
  unfold PathRec.sends Probe.sentIn
  rw [← hseq, ← hsent, ← htimeout, ← hprobes]

theorem roomLast_probeTx : s.probeTx p (s.roomLast p x xs) = s.probeTx p (s.path p) := by
  obtain ⟨hseq, -, -, htemplate, -⟩ := roomLast_engine (s := s) (p := p) (x := x) (xs := xs)
  unfold State.probeTx
  rw [hseq, htemplate]

end

end Sys2Proof.Machine
end


section
/-! What results leave of the ports, and what the passes of the event leave of the probes that wait at a port that is not
free (R7, R27, R123). -/

namespace Sys2Proof.Machine

/-! ## Evaluations -/

/-- The forwarding unit and the fibre port's inputs. -/
def State.ports (s : State) : Forwarding × FibreIn := (s.fwd, s.fin)

theorem State.OnlyEv.ports {s t : State} (h : s.OnlyEv t) : t.ports = s.ports := by
  obtain ⟨e, -, rfl⟩ := h
  rfl

theorem onPath_ports (s : State) (p : Path) (f : PathRec → PathRec) : (s.onPath p f).ports = s.ports := by
  cases p <;> rfl

theorem setPathState_ports (p : Path) {n : PathState} (hn : n ≠ .down) (w : Work) :
    (setPathState p n w).st.ports = w.st.ports := by
  by_cases h : (w.st.path p).state = n
  · rw [setPathState_same h]
  · have hchanged : (w.st.changed p n).ports = w.st.ports := by
      have hfwd : w.st.fwd.changed p n = w.st.fwd := if_neg hn
      unfold State.changed State.moved State.ports
      rw [hfwd]
      cases p <;> rfl
    exact (setPathState_onlyEv p w h).ports.trans hchanged

theorem fallenWork_ports (p : Path) (k : Cause) (n : Nat) (v : Work) : (fallenWork p k n v).st.ports = v.st.ports :=
  ((offerCause_onlyEv p k _).ports.trans (onPath_ports _ p _)).trans (onPath_ports v.st p _)

section
variable {p : Path} {h : Nat} {k : Cause}

theorem fallOnScore_ports (v : Work) : (fallOnScore p k v).st.ports = v.st.ports := by
  rw [fallOnScore_eq, setPathState_ports p (by split <;> decide), fallenWork_ports]

theorem judgeUsable_ports (v : Work) : (judgeUsable p h k v).st.ports = v.st.ports := by
  unfold judgeUsable
  dsimp only
  split
  · split
    · exact fallOnScore_ports v
    · exact (setPathState_ports p (by decide) _).trans (onPath_ports v.st p _)
  · split
    · exact (setPathState_ports p (by decide) _).trans (onPath_ports v.st p _)
    · split
      · exact (setPathState_ports p (by decide) _).trans (onPath_ports v.st p _)
      · exact onPath_ports v.st p _

theorem judge_ports (v : Work) : (judge p h k v).st.ports = v.st.ports := by
  unfold judge
  split
  · split
    · exact setPathState_ports p (by decide) _
    · rfl
  · exact judgeUsable_ports v
  · exact judgeUsable_ports v
  · rfl
  · rfl

end

theorem evaluate_ports (p : Path) (w : Work) : (evaluate p w).st.ports = w.st.ports := by
  unfold evaluate
  dsimp only
  split
  · exact (judge_ports _).trans (onPath_ports w.st p _)
  · rfl

theorem enterResult_ports (p : Path) (x : Result) (w : Work) : (enterResult p x w).st.ports = w.st.ports := by
  rw [enterResult_eq, evaluate_ports, noted_onlyEv.ports, onPath_ports]

theorem drainList_ports (p : Path) (es : List Probe) (w : Work) : (drainList p es w).st.ports = w.st.ports := by
  induction es generalizing w with
  | nil => exact onPath_ports w.st p _
  | cons e rest ih =>
    cases hx : e.result with
    | none =>
      rw [drainList_unresolved p rest hx]
      exact onPath_ports w.st p _
    | some x =>
      rw [drainList_resolved p rest hx, ih, enterResult_ports]
      exact onPath_ports w.st p _

/-! ## Passes -/

/-- A course of steps that leaves the probes waiting at a port that is not free, as long as SESSION is not left. -/
def ProbesRest (p : Path) (s t : State) : Prop := (t.ru.state = .session → s.ru.state = .session)
  ∧ (s.portReady p = false → t.portReady p = false
    ∧ ((p = .radio → s.ru.state = .session → t.ru.state = .session) →
      (t.fwd.queue p).probes = (s.fwd.queue p).probes))

theorem ProbesRest.refl (p : Path) (s : State) : ProbesRest p s s := ⟨id, fun h => ⟨h, fun _ => rfl⟩⟩

theorem ProbesRest.trans {p : Path} {s t u : State} (h : ProbesRest p s t) (h' : ProbesRest p t u) :
    ProbesRest p s u := by
  refine ⟨h.1 ∘ h'.1, fun hready => ?_⟩
  obtain ⟨ht, hprobes⟩ := h.2 hready
  obtain ⟨hu, hprobes'⟩ := h'.2 ht
  refine ⟨hu, fun hstays => ?_⟩
  rw [hprobes' fun hp hs => hstays hp (h.1 hs), hprobes fun hp hs => h'.1 (hstays hp hs)]

/-- A step that leaves the ports, and enters no session. -/
theorem probesRest_of {p : Path} {s t : State} (hfwd : t.fwd = s.fwd) (hfin : t.fin = s.fin)
    (hsession : t.ru.state = .session → s.ru.state = .session) : ProbesRest p s t := by
  refine ⟨hsession, fun hready => ⟨?_, fun _ => by rw [hfwd]⟩⟩
  cases p with
  | fibre =>
    unfold State.portReady at hready ⊢
    rw [hfwd, hfin]
    exact hready
  | radio =>
    unfold State.portReady at hready ⊢
    dsimp only at hready ⊢
    rw [hfwd]
    by_cases ht : t.ru.state = .session
    · rw [decide_eq_true (hsession ht)] at hready
      rw [decide_eq_true ht]
      exact hready
    · rw [decide_eq_false ht]
      rfl

theorem State.OnlyEv.probesRest {s t : State} (h : s.OnlyEv t) (p : Path) : ProbesRest p s t := by
  obtain ⟨e, -, rfl⟩ := h
  exact probesRest_of rfl rfl id

/-- A step that leaves the fibre port and keeps the session or leaves it. -/
theorem probesRest_fibre {s t : State} (hqueue : t.fwd.fibreQ = s.fwd.fibreQ) (hfin : t.fin = s.fin)
    (hsession : t.ru.state = .session → s.ru.state = .session) : ProbesRest .fibre s t := by
  refine ⟨hsession, fun hready => ⟨?_, fun _ => congrArg TxQueue.probes hqueue⟩⟩
  unfold State.portReady at hready ⊢
  dsimp only at hready ⊢
  rw [hqueue, hfin]
  exact hready

/-- A step that leaves the radio port and its session. -/
theorem probesRest_radio {s t : State} (hprobes : t.fwd.radioQ.probes = s.fwd.radioQ.probes)
    (hsending : t.fwd.radioQ.sending = s.fwd.radioQ.sending) (hru : t.ru = s.ru) : ProbesRest .radio s t := by
  refine ⟨fun h => hru ▸ h, fun hready => ⟨?_, fun _ => hprobes⟩⟩
  unfold State.portReady at hready ⊢
  dsimp only at hready ⊢
  rw [hsending, hru]
  exact hready

/-- A step that leaves the queues, the port's inputs and the radio unit. -/
theorem probesRest_still {s t : State} (p : Path) (hqueue : ∀ q, t.fwd.queue q = s.fwd.queue q) (hfin : t.fin = s.fin)
    (hru : t.ru = s.ru) : ProbesRest p s t := by
  cases p with
  | fibre => exact probesRest_fibre (hqueue .fibre) hfin fun h => hru ▸ h
  | radio => exact probesRest_radio (congrArg TxQueue.probes (hqueue .radio)) (congrArg TxQueue.sending (hqueue .radio)) hru

theorem sessionLeft_ports (s : State) : s.sessionLeft.fwd.fibreQ = s.fwd.fibreQ ∧ s.sessionLeft.fin = s.fin := by
  by_cases h : s.radio.state = .down
  · rw [sessionLeft_of_down h]
    exact ⟨rfl, rfl⟩
  · rw [sessionLeft_of_ne h]
    exact ⟨rfl, rfl⟩

theorem demanding_probesRest (p : Path) : Demanding (ProbesRest p) where
  refl := ProbesRest.refl p
  trans := ProbesRest.trans
  moveTo := by
    intro n hn w
    by_cases h : w.st.ru.state = .session
    · have hout : (moveTo n w).st.ru.state ≠ .session := by
        rw [moveTo_state]
        exact hn
      obtain ⟨e, -, hst⟩ := moveTo_leaves n h hn
      obtain ⟨hqueue, hfin⟩ := sessionLeft_ports w.st
      cases p with
      | fibre =>
        exact probesRest_fibre (by rw [hst]; exact hqueue) (by rw [hst]; exact hfin) fun _ => h
      | radio =>
        refine ⟨fun _ => h, fun _ => ⟨?_, fun hstays => absurd (hstays rfl h) hout⟩⟩
        unfold State.portReady
        dsimp only
        rw [decide_eq_false hout]
        rfl
    · have hstate := moveTo_state n w
      obtain ⟨r, e, -, hst⟩ := moveTo_ruOnly n w (Or.inl h)
      exact probesRest_of (by rw [hst]) (by rw [hst]) fun hs => absurd (hstate.symm.trans hs) hn
  only := by
    rintro s t ⟨r, e, -, rfl⟩ hsession
    exact probesRest_of rfl rfl hsession.mp
  steer := fun _ _ => probesRest_of rfl rfl id

theorem handoff_probesRest {p q : Path} (h : q ≠ p) (f : TxFrame) (rest : TxQueue) (w : Work) :
    ProbesRest p w.st (handoff q f rest w).st := by
  cases q with
  | fibre =>
    cases p with
    | fibre => exact absurd rfl h
    | radio => exact probesRest_radio rfl rfl rfl
  | radio =>
    cases p with
    | fibre =>
      rw [handoff_radio]
      exact (probesRest_fibre (t := { (w.handedOn f rest).st with
        allow := (w.handedOn f rest).st.allow.added (w.st.counted f.data) }) rfl rfl id).trans
        ((addUsed_onlyEv _ _).probesRest .fibre)
    | radio => exact absurd rfl h

theorem takeNext_probesRest (p q : Path) (w : Work) : ProbesRest p w.st (takeNext q w).st := by
  unfold takeNext
  split
  case isTrue hready =>
    split
    case h_1 => exact ProbesRest.refl p _
    case h_2 f rest _ =>
      by_cases h : q = p
      · subst h
        have hru : (handoff q f rest w).st.ru = w.st.ru := by
          cases q with
          | fibre => rfl
          | radio =>
            rw [handoff_radio]
            obtain ⟨e, -, hst⟩ := addUsed_onlyEv (w.st.counted f.data) (w.handedOn f rest)
            rw [hst]
            rfl
        exact ⟨fun hs => hru ▸ hs, fun hn => absurd (hready.symm.trans hn) (by decide)⟩
      · exact handoff_probesRest h f rest w
  case isFalse => exact ProbesRest.refl p _

theorem enterBand_probesRest (p q : Path) (tier : Nat) (f : TxFrame) (w : Work) :
    ProbesRest p w.st (enterBand q tier f w).st := by
  have happend : ∀ k : TxQueue, (k.append tier f).probes = k.probes ∧ (k.append tier f).sending = k.sending := by
    intro k
    unfold TxQueue.append
    split <;> exact ⟨rfl, rfl⟩
  have hqueue : ProbesRest p w.st (w.onQueue q (TxQueue.append tier f)).st := by
    obtain ⟨hprobes, hsending⟩ := happend (w.st.fwd.queue q)
    cases p with
    | fibre =>
      refine ⟨id, fun hready => ?_⟩
      cases q with
      | fibre =>
        refine ⟨?_, fun _ => hprobes⟩
        unfold State.portReady at hready ⊢
        exact (congrArg (fun o : Option (List Byte) => w.st.fin.link && o.isNone) hsending).trans hready
      | radio => exact ⟨hready, fun _ => rfl⟩
    | radio =>
      cases q with
      | fibre => exact probesRest_radio rfl rfl rfl
      | radio => exact probesRest_radio hprobes hsending rfl
  unfold enterBand
  split
  · exact probesRest_still p (fun r => by cases r <;> rfl) rfl rfl
  · exact hqueue.trans (takeNext_probesRest p q _)

theorem releaseHeld_probesRest (p : Path) (x : HeldFrame) (w : Work) : ProbesRest p w.st (releaseHeld x w).st := by
  have hdrops : ∀ v : Work, ProbesRest p w.st v.st → ProbesRest p w.st (latch Bit.holdDrops v).st := fun v hv =>
    hv.trans ((latch_onlyEv Bit.holdDrops v).probesRest p)
  have honto : ∀ q, ProbesRest p w.st (if w.st.bandFull q (w.st.cls x.cls).tier then
      latch Bit.holdDrops (placeFrame q x.cls x.flow x.data w) else placeFrame q x.cls x.flow x.data w).st := by
    intro q
    split
    · exact hdrops _ (enterBand_probesRest p q _ _ w)
    · exact enterBand_probesRest p q _ _ w
  unfold releaseHeld
  dsimp only
  split
  · exact honto .fibre
  · exact honto .radio
  · exact ProbesRest.refl p _
  · exact hdrops (dropBlocked x.cls w) (probesRest_still p (fun q => by cases q <;> rfl) rfl rfl)

theorem releaseAll_probesRest (p : Path) (l : List HeldFrame) (w : Work) : ProbesRest p w.st (releaseAll l w).st := by
  induction l generalizing w with
  | nil => exact ProbesRest.refl p _
  | cons x l ih => exact (releaseHeld_probesRest p x w).trans (ih _)

theorem drillStep_probesRest (p : Path) (w : Work) : ProbesRest p w.st (drillStep w).st := by
  unfold drillStep
  split
  · cases hrun : w.st.drill.running with
    | false =>
      rw [endDrill_idle _ _ _ hrun]
      exact ProbesRest.refl p _
    | true =>
      obtain ⟨d, hd⟩ := endDrill_some .aborted .realUse w hrun
      have hdrill : ProbesRest p w.st { w.st with drill := d } := probesRest_of rfl rfl id
      exact hdrill.trans (hd.probesRest p)
  · exact ProbesRest.refl p _

theorem passBody_probesRest (p : Path) (w : Work) : ProbesRest p w.st (passBody w).st := by
  have hflow : ProbesRest p w.st (flowStep w.st (classStep w)).st := by
    obtain ⟨e, -, he⟩ := flowStep_st w
    rw [he]
    exact probesRest_of rfl rfl id
  have hrelease : ∀ v : Work, ProbesRest p v.st (releaseStep w.st v).st := fun v =>
    (probesRest_still (t := (v.onFwd fun f => { f with
      held := v.st.fwd.held.filter fun h => !leftWaiting w.st v.st h }).st) p (fun q => by cases q <;> rfl) rfl rfl).trans
      (releaseAll_probesRest p _ _)
  exact ((hflow.trans ((handConditions_onlyEv _).probesRest p)).trans (hrelease _)).trans (drillStep_probesRest p _)

theorem runPasses_probesRest (p : Path) (n : Nat) (w : Work) : ProbesRest p w.st (runPasses n w).st := by
  have D := demanding_probesRest p
  induction n generalizing w with
  | zero => exact D.refl _
  | succ n ih =>
    unfold runPasses
    split
    · refine ProbesRest.trans ?_ (ih _)
      rw [steeringPass_eq]
      exact (passBody_probesRest p { w with passDue := false, demandDue := false }).trans (D.recomputeDemand _)
    · split
      · exact (D.recomputeDemand { w with demandDue := false }).trans (ih _)
      · exact D.refl _

theorem event_probesRest (p : Path) {f : Work → Work} {s : State} (hs : s.exch.service ≠ .init) :
    ProbesRest p (f (Work.begin s)).st (event f s) := by
  unfold event
  rw [if_neg hs]
  have hpasses : ProbesRest p (f (Work.begin s)).st (passes (f (Work.begin s))).st := runPasses_probesRest p _ _
  refine hpasses.trans (probesRest_still p ?_ ?_ ?_)
  · intro q
    rw [finish_fwd]
  · rw [finish_fin]
  · rw [finish_ru]

end Sys2Proof.Machine
end


section
/-! GENERATOR_TICK with a full pending list, as an event (R5, R6, R7, R11, R12). -/

namespace Sys2Proof.Machine

section
variable {g : Generator} {p : Path} {s : State} {x : Probe} {xs : List Probe}

/-! ## The course of the path -/

theorem revised_gens (s : State) (p : Path) (k : Generators) : s.PathRevised { s with gens := k } p := by
  have h := State.PathRevised.refl s p
  cases p with
  | fibre => exact ⟨⟨rfl, rfl, rfl, rfl, rfl, h.keeps.ready, h.keeps.cause, h.keeps.latches⟩, rfl, rfl, rfl, rfl⟩
  | radio => exact ⟨⟨rfl, rfl, rfl, rfl, rfl, h.keeps.ready, h.keeps.cause, h.keeps.latches⟩, rfl, rfl, rfl, rfl⟩

theorem revised_fwd (s : State) (p : Path) (f : Forwarding) : s.PathRevised { s with fwd := f } p := by
  have h := State.PathRevised.refl s p
  cases p with
  | fibre => exact ⟨⟨rfl, rfl, rfl, rfl, rfl, h.keeps.ready, h.keeps.cause, h.keeps.latches⟩, rfl, rfl, rfl, rfl⟩
  | radio => exact ⟨⟨rfl, rfl, rfl, rfl, rfl, h.keeps.ready, h.keeps.cause, h.keeps.latches⟩, rfl, rfl, rfl, rfl⟩

theorem rewoundTick_revised : s.PathRevised (rewoundTick g p s).st p := by
  have hpath : (Work.begin (s.ticked g)).st.path p = s.path p := ticked_path s g p
  refine (revised_gens s p _).trans (revised_onPath (w := Work.begin (s.ticked g)) ?_ ?_ ?_)
  · rw [hpath]
  · rw [hpath]
  · rw [hpath]

theorem posted_revised (v : Work) : v.st.PathRevised (posted p v).st p := by
  have hsends : v.st.PathRevised (v.onPath p (PathRec.sends (Probe.sentIn v.st (v.st.path p)))).st p :=
    revised_onPath rfl rfl rfl
  exact hsends.trans (revised_fwd _ p _)

theorem posted_path (v : Work) : (posted p v).st.path p = (v.st.path p).sends (Probe.sentIn v.st (v.st.path p)) := by
  cases p <;> rfl

theorem posted_queue (v : Work) : (posted p v).st.fwd.queue p = (v.st.fwd.queue p).awaits (v.st.probeTx p (v.st.path p)) := by
  cases p <;> rfl

theorem sentIn_congr {s t : State} (h : t.clk = s.clk) (r : PathRec) : Probe.sentIn t r = Probe.sentIn s r := by
  have hnow : t.now = s.now := congrArg Clock.ms h
  unfold Probe.sentIn
  rw [hnow, h]

theorem probeTx_congr {s t : State} (h : t.clk = s.clk) (r : PathRec) : t.probeTx p r = s.probeTx p r := by
  have hnow : t.now = s.now := congrArg Clock.ms h
  unfold State.probeTx
  rw [hnow]

/-- The records of a due tick that meets a full list: those of the room made, and the probe's. -/
def State.fullTick (s : State) (p : Path) (x : Probe) (xs : List Probe) : List PathRec :=
  s.roomMade p x xs ++ [{ s.roomLast p x xs with
    seq := (s.path p).seq + 1, sent := (s.path p).sent + 1, probes := unresolvedOn xs ++ [Probe.sentIn s (s.path p)] }]

section
variable (hprobes : (s.path p).probes = x :: xs) (hfull : 4 ≤ (s.path p).probes.length)
include hprobes hfull

theorem room_went : s.PathWent (makeRoom p (rewoundTick g p s)).st p (s.roomMade p x xs) :=
  State.PathRevised.then rewoundTick_revised (makeRoom_went hprobes hfull)

theorem room_ports : (makeRoom p (rewoundTick g p s)).st.ports = s.ports := by
  rw [rewoundTick_makesRoom hprobes hfull, drainList_ports]
  cases p <;> rfl

theorem room_ready : (makeRoom p (rewoundTick g p s)).st.portReady p = s.portReady p := by
  have hports := room_ports (g := g) hprobes hfull
  have hru := (room_went (g := g) hprobes hfull).keeps.ru
  generalize makeRoom p (rewoundTick g p s) = v at *
  have hfwd : v.st.fwd = s.fwd := congrArg Prod.fst hports
  have hfin : v.st.fin = s.fin := congrArg Prod.snd hports
  unfold State.portReady
  rw [hfwd, hfin, hru]

theorem room_path : (makeRoom p (rewoundTick g p s)).st.path p = s.roomLast p x xs := (room_went hprobes hfull).path

/-- The course of the path in a due tick that meets a full list. -/
theorem fullTick_went : s.PathWent (posted p (makeRoom p (rewoundTick g p s))).st p (s.fullTick p x xs) := by
  have hroom := room_went (g := g) hprobes hfull
  have hpath := room_path (g := g) hprobes hfull
  generalize makeRoom p (rewoundTick g p s) = v at *
  have hlast := (posted_revised (p := p) v).went
  rw [posted_path, hpath, sentIn_congr hroom.keeps.clk, roomLast_sends] at hlast
  exact hroom.trans hlast

theorem fullTick_queue : ((posted p (makeRoom p (rewoundTick g p s))).st.fwd.queue p)
    = (s.fwd.queue p).awaits (s.probeTx p (s.path p)) := by
  have hports := room_ports (g := g) hprobes hfull
  have hroom := room_went (g := g) hprobes hfull
  have hpath := room_path (g := g) hprobes hfull
  generalize makeRoom p (rewoundTick g p s) = v at *
  have hfwd : v.st.fwd = s.fwd := congrArg Prod.fst hports
  rw [posted_queue, hpath, hfwd, probeTx_congr hroom.keeps.clk, roomLast_probeTx]

end

/-! ## The event -/

section
variable (hs : s.exch.service ≠ .init) (hone : ∀ q, (s.path q).assign = Generator.names g → q = p)
  (hnamed : (s.path p).assign = Generator.names g) (hscoring : s.scoring p = true)
  (hd : (s.path p).d ≤ (s.path p).ticks + 1) (hprobes : (s.path p).probes = x :: xs)
  (hfull : 4 ≤ (s.path p).probes.length) (hport : s.portReady p = false)

include hone hnamed hscoring hd hprobes hfull hport in
theorem tick_full : generatorTick g (Work.begin s) = posted p (makeRoom p (rewoundTick g p s)) := by
  rw [tick_sends hone hnamed hscoring hd]
  exact sendProbe_waits ((room_ready hprobes hfull).trans hport)

include hs hone hnamed hscoring hd hprobes hfull hport

theorem event_full : s.pathGoes (event (generatorTick g) s) p (s.fullTick p x xs)
    ∧ (¬s.closes (event (generatorTick g) s) → ((event (generatorTick g) s).fwd.queue p).probes
      = ((s.fwd.queue p).awaits (s.probeTx p (s.path p))).probes) := by
  have hg := tick_full hone hnamed hscoring hd hprobes hfull hport
  have hwent := fullTick_went (g := g) hprobes hfull
  have hqueue := fullTick_queue (g := g) hprobes hfull
  have hends := event_ends (f := generatorTick g) hs
  obtain ⟨hsession, hrest⟩ := event_probesRest p (f := generatorTick g) hs
  have hready : (posted p (makeRoom p (rewoundTick g p s))).st.portReady p = false := by
    rw [posted_ready, room_ready hprobes hfull, hport]
  rw [hg] at hends hrest
  refine ⟨pathGoes_of_went hwent hends, fun hopen => ?_⟩
  rw [← hqueue]
  refine (hrest hready).2 fun _ hv => ?_
  rw [hwent.keeps.ru] at hv
  exact not_not.mp fun hne => hopen ⟨hv, hne⟩

omit hs in
/-- Where fewer than eight results come together, the records change alone. -/
theorem event_fullFew (hcur : s.current) (hfew : (s.path p).window.length + 1 + (resultsOf xs).length < 8) :
    (event (generatorTick g) s).plain = ({ (s.ticked g).onPath p (fun _ => { s.roomLast p x xs with
          seq := (s.path p).seq + 1, sent := (s.path p).sent + 1,
          probes := unresolvedOn xs ++ [Probe.sentIn s (s.path p)] }) with
        fwd := s.fwd.setQueue p ((s.fwd.queue p).awaits (s.probeTx p (s.path p))) } : State).plain := by
  have hg := tick_full hone hnamed hscoring hd hprobes hfull hport
  rw [makeRoom_few hprobes hfull hfew] at hg
  have hfields := through_few (s := s) (p := p) (xs := ⟨x.seq, none⟩ :: resultsOf xs)
    (r := ({ s.path p with ticks := 0 } : PathRec).pending (unresolvedOn xs))
    (show (s.path p).window.length + (_ + 1) < 8 by omega)
  have hlast := roomLast_eq s p x xs (({ s.path p with ticks := 0 } : PathRec).pending (unresolvedOn xs))
  unfold State.roomMade PathRec.resolved at hlast
  rw [hlast] at hfields
  obtain ⟨hstate, hwindow⟩ := hfields
  have hplain := event_posts hcur (g := g) (p := p) (r := s.roomLast p x xs) hstate (by
    refine (not_ready_of ?_).trans (not_ready_of (by omega)).symm
    rw [hwindow]
    exact (show (s.path p).window.length + (_ + 1) < 8 by omega)) hg
  rw [roomLast_sends, roomLast_probeTx] at hplain
  exact hplain

end

end

end Sys2Proof.Machine
end


section
/-! GENERATOR_TICK of both paths, and GENERATOR_TICK and PROBE_EXPIRY as their obligation states them (R2, R5, R6, R10). -/

namespace Sys2Proof.Machine

/-! ## A tick whose probe waits at the port -/

/-- The path's record after a tick that finds room in the list. -/
def State.tickAfter (s : State) (p : Path) : PathRec :=
  if s.scoring p = false then s.path p
  else if (s.path p).ticks + 1 < (s.path p).d then { s.path p with ticks := (s.path p).ticks + 1 }
  else ({ s.path p with ticks := 0 } : PathRec).sends (Probe.sentIn s (s.path p))

/-- The path's queue after a tick that finds its port not free. -/
def State.tickQueue (s : State) (p : Path) : TxQueue :=
  if s.scoring p = true ∧ (s.path p).d ≤ (s.path p).ticks + 1 then
    (s.fwd.queue p).awaits (s.probeTx p (s.path p))
  else s.fwd.queue p

/-- A path that the tick makes send has room in its list, and a port that is not free. -/
def State.tickWaits (s : State) (p : Path) : Prop := s.scoring p = true ∧ (s.path p).d ≤ (s.path p).ticks + 1 →
  (s.path p).probes.length < 4 ∧ s.portReady p = false

theorem tickAfter_left {s : State} {p : Path} (h : s.scoring p = false) : s.tickAfter p = s.path p := if_pos h

theorem tickAfter_counts {s : State} {p : Path} (h : s.scoring p = true) (hd : (s.path p).ticks + 1 < (s.path p).d) :
    s.tickAfter p = { s.path p with ticks := (s.path p).ticks + 1 } := by
  unfold State.tickAfter
  rw [if_neg (by rw [h]; decide), if_pos hd]

theorem tickAfter_sends {s : State} {p : Path} (h : s.scoring p = true) (hd : ¬(s.path p).ticks + 1 < (s.path p).d) :
    s.tickAfter p = ({ s.path p with ticks := 0 } : PathRec).sends (Probe.sentIn s (s.path p)) := by
  unfold State.tickAfter
  rw [if_neg (by rw [h]; decide), if_neg hd]

theorem tickQueue_rests {s : State} {p : Path} (h : ¬(s.scoring p = true ∧ (s.path p).d ≤ (s.path p).ticks + 1)) :
    s.tickQueue p = s.fwd.queue p := if_neg h

theorem tickQueue_sends {s : State} {p : Path} (h : s.scoring p = true ∧ (s.path p).d ≤ (s.path p).ticks + 1) :
    s.tickQueue p = (s.fwd.queue p).awaits (s.probeTx p (s.path p)) := if_pos h

section
variable {p : Path} {w : Work}

theorem tickPath_left (h : w.st.scoring p = false) : tickPath p w = w := by
  unfold tickPath
  dsimp only
  rw [h]
  rfl

theorem tickPath_waits (h : w.st.tickWaits p) :
    tickPath p w = (w.onPath p fun _ => w.st.tickAfter p).onQueue p fun _ => w.st.tickQueue p := by
  cases hs : w.st.scoring p with
  | false =>
    rw [tickPath_left hs, tickAfter_left hs, tickQueue_rests (by rw [hs]; exact fun hc => Bool.false_ne_true hc.1)]
    cases p <;> rfl
  | true =>
    by_cases hd : (w.st.path p).ticks + 1 < (w.st.path p).d
    · rw [tickPath_counts hs hd, tickAfter_counts hs hd, tickQueue_rests (fun hc => absurd hc.2 (by omega))]
      cases p <;> rfl
    · have hsends : w.st.scoring p = true ∧ (w.st.path p).d ≤ (w.st.path p).ticks + 1 := ⟨hs, by omega⟩
      obtain ⟨hroom, hport⟩ := h hsends
      have hspare : makeRoom p (rewound p w) = rewound p w := makeRoom_spare (by rw [rewound_path]; exact hroom)
      have hready : (rewound p w).st.portReady p = false := by
        refine Eq.trans ?_ hport
        cases p <;> rfl
      rw [tickPath_sends hs hsends.2, sendProbe_waits (by rw [hspare]; exact hready), hspare, tickAfter_sends hs hd,
        tickQueue_sends hsends]
      cases p <;> rfl

theorem tickAfter_keeps (s : State) (p : Path) : (s.tickAfter p).state = (s.path p).state
    ∧ (s.tickAfter p).window = (s.path p).window := by
  unfold State.tickAfter
  split
  · exact ⟨rfl, rfl⟩
  · split <;> exact ⟨rfl, rfl⟩

theorem tickPath_quietly {s : State} (hw : w.Quietly s) (h : w.st.tickWaits p) : (tickPath p w).Quietly s := by
  rw [tickPath_waits h]
  obtain ⟨hstate, hwindow⟩ := tickAfter_keeps w.st p
  exact (hw.onPath hstate (ready_of_window hwindow)).onFwd fun f => f.setQueue p (w.st.tickQueue p)

end

/-- A generator of both paths offers its tick to both. -/
theorem event_both {g : Generator} {s : State} (hcur : s.current) (hfibre : s.fibre.assign = Generator.names g)
    (hradio : s.radio.assign = Generator.names g) (hwaits : ∀ p, s.tickWaits p) :
    (event (generatorTick g) s).plain = ({ s.ticked g with
      fibre := s.tickAfter .fibre, radio := s.tickAfter .radio,
      fwd := { s.fwd with fibreQ := s.tickQueue .fibre, radioQ := s.tickQueue .radio } } : State).plain := by
  have hq := tickPath_quietly (p := .fibre) (ticked_quietly hcur g) (hwaits .fibre)
  have hfirst := tickPath_waits (p := .fibre) (w := Work.begin (s.ticked g)) (hwaits .fibre)
  have hwaits' : (tickPath .fibre (Work.begin (s.ticked g))).st.tickWaits .radio := by
    rw [hfirst]
    exact hwaits .radio
  have hsecond := tickPath_waits hwaits'
  have hg : generatorTick g (Work.begin s) = tickPath .radio (tickPath .fibre (Work.begin (s.ticked g))) := by
    rw [generatorTick_eq, offerTick_named (p := .fibre) (w := Work.begin (s.ticked g)) hfibre, offerTick_named]
    rw [hfirst]
    exact hradio
  refine ((tickPath_quietly hq hwaits').event_plain hg).trans ?_
  rw [hsecond, hfirst]
  rfl

/-! ## The obligation -/

/-- The obligation's word for a scoring path of the generator. -/
theorem mine_iff {g : Generator} {s : State} {p : Path} :
    (decide ((s.path p).assign = match g with | .a => Assignment.genA | .b => .genB) && s.scoring p) = true
      ↔ (s.path p).assign = Generator.names g ∧ s.scoring p = true := by
  rw [Bool.and_eq_true, decide_eq_true_iff]
  exact Iff.rfl

theorem event_keptOfTick {g : Generator} {s : State} (hs : s.exch.service ≠ .init) :
    (event (generatorTick g) s).keptByProbes = (s.ticked g).keptByProbes := by
  have C := closed_keptByProbes (s.ticked g).keptByProbes
  have hbody : (generatorTick g (Work.begin s)).st.keptByProbes = (s.ticked g).keptByProbes := by
    rw [generatorTick_eq]
    exact C.offerTick trivial g .radio (Or.inl rfl) _ (C.offerTick trivial g .fibre (Or.inr trivial) _ rfl)
  rw [keptByProbes_of (keptByPaths_of_kept (event_kept (generatorTick g) s hs)), hbody]

/-- Settles O37: the tick as a course of the path's records, the probe's post after the room is made for it. -/
theorem probesSentAndLost : Obligations.ProbesSentAndLost := by
  unfold Obligations.ProbesSentAndLost
  refine ⟨fun p s hcur => ⟨fun g hdue hone => ?_, fun before after e hprobes hres hearlier hdue =>
    probeExpiry_taken hcur hprobes ⟨hres, hearlier⟩ hdue⟩, fun g s hcur hdue hfibre hradio hwaits => ?_⟩
  · have hone' : ∀ q, (s.path q).assign = Generator.names g → q = p := hone
    have hexec := generatorTick_due hdue
    refine ⟨fun hleft => ⟨_, hexec, ?_⟩, fun hm hd => ⟨_, hexec, ?_⟩, fun hm hd hroom hport => ⟨_, hexec, ?_⟩,
      fun hm hd hroom hport hnone => ?_, fun x xs hm hd hprobes hfull hhead hfew hport => ⟨_, hexec, ?_⟩,
      fun x xs hm hd hprobes hfull hport => ?_⟩
    · have hrests : ¬((s.path p).assign = Generator.names g ∧ s.scoring p = true) := fun h =>
        Bool.eq_false_iff.mp hleft (mine_iff.mpr h)
      exact (ticked_quietly hcur g).event_plain (tick_left hone' hrests)
    · obtain ⟨hnamed, hscoring⟩ := mine_iff.mp hm
      refine ((ticked_quietly hcur g).onPath (p := p) (f := fun _ => { s.path p with ticks := (s.path p).ticks + 1 })
        ?_ ?_).event_plain (tick_counts hone' hnamed hscoring hd)
      · exact (congrArg PathRec.state (ticked_path s g p)).symm
      · exact (congrArg PathRec.ready (ticked_path s g p)).symm
    · obtain ⟨hnamed, hscoring⟩ := mine_iff.mp hm
      exact tick_waits hcur hone' hnamed hscoring hd hroom hport
    · intro frame used hsound
      obtain ⟨hnamed, hscoring⟩ := mine_iff.mp hm
      exact ⟨_, hexec, tick_goes hcur hone' hnamed hscoring hd hroom hport hnone hsound⟩
    · obtain ⟨hnamed, hscoring⟩ := mine_iff.mp hm
      obtain ⟨hresults, hleft⟩ := resultsOf_waiting hhead
      have hfew' : (s.path p).window.length + 1 + (resultsOf xs).length < 8 := by
        rw [hresults]
        exact (show (s.path p).window.length + 1 < 8 by omega)
      have hlast : s.roomLast p x xs = { s.path p with
          ticks := 0, probes := xs, window := (s.path p).window ++ [⟨x.seq, none⟩] } := by
        refine (resolved_alone (r := { s.path p with ticks := 0 }) hhead hfew).trans ?_
        rw [record_lost (r := { s.path p with ticks := 0 }) (show (s.path p).window.length < 16 by omega)]
        rfl
      have hplain := event_fullFew hone' hnamed hscoring hd hprobes hfull hport hcur hfew'
      rw [hlast, hleft] at hplain
      exact hplain
    · intro went last
      obtain ⟨hnamed, hscoring⟩ := mine_iff.mp hm
      obtain ⟨hgoes, hqueue⟩ := event_full hcur.1 hone' hnamed hscoring hd hprobes hfull hport
      refine ⟨_, hexec, ?_, hgoes, hqueue, fun hfew => ?_⟩
      · exact event_keptOfTick hcur.1
      · exact event_fullFew hone' hnamed hscoring hd hprobes hfull hport hcur (roomLast_few hfew)
  · exact ⟨_, generatorTick_due hdue, event_both hcur hfibre hradio hwaits⟩

end Sys2Proof.Machine
end


section
/-! INBOUND_FRAME where its counting leaves the stage: each way a frame is taken (R8, R9, R10, R11, R132, R133). -/

namespace Sys2Proof.Machine

/-! ## The checks (R132) -/

section
variable {p : Path} {d : List Byte} {w : Work}

theorem frameFits_iff (d : List Byte) : frameFits d = true ↔ 60 ≤ d.length ∧ d.length ≤ 1518 := by
  unfold frameFits
  rw [Bool.and_eq_true, decide_eq_true_iff, decide_eq_true_iff]
  rfl

theorem inboundChecked_malformed (h : ¬(60 ≤ d.length ∧ d.length ≤ 1518)) :
    inboundChecked p d w = w.onCounts (ForwardCounts.inboundMalformed p) := by
  unfold inboundChecked
  rw [Bool.eq_false_iff.mpr (mt (frameFits_iff d).mp h)]
  rfl

theorem inboundChecked_fits (h : 60 ≤ d.length ∧ d.length ≤ 1518) :
    inboundChecked p d w = if probeShaped d then takeProbeShaped p d w else enterReceive p d w := by
  unfold inboundChecked
  rw [(frameFits_iff d).mpr h]
  rfl

theorem inboundChecked_data (h : 60 ≤ d.length ∧ d.length ≤ 1518) (hshape : probeShaped d = false) :
    inboundChecked p d w = enterReceive p d w := by
  rw [inboundChecked_fits h, hshape]
  rfl

theorem inboundChecked_probe (h : 60 ≤ d.length ∧ d.length ≤ 1518) (hshape : probeShaped d = true) :
    inboundChecked p d w = takeProbeShaped p d w := by
  rw [inboundChecked_fits h, hshape]
  rfl

/-- No unresolved entry waits for this probe (R9). -/
def awaitsNone (p : Path) (d : List Byte) (es : List Probe) : Prop :=
  trailerPath d ≠ pathCode p ∨ ∀ e ∈ es, ¬(e.seq = trailerSeq d ∧ e.res = .unresolved)

theorem takeProbeShaped_unmatched (h : awaitsNone p d (w.st.path p).probes) :
    takeProbeShaped p d w = countUnmatched p w := by
  unfold takeProbeShaped
  by_cases hpath : trailerPath d = pathCode p
  · rw [if_pos hpath, findUnresolved_none (h.resolve_left (not_not.mpr hpath))]
  · exact if_neg hpath

theorem takeProbeShaped_reply {e : Probe} {before after : List Probe} (hpath : trailerPath d = pathCode p)
    (hprobes : (w.st.path p).probes = before ++ e :: after) (hseq : e.seq = trailerSeq d) (h : e.FirstIn before) :
    takeProbeShaped p d w = resolveProbe p e.seq (Resolution.from (some (roundTrip w.st.clk e.sent e.sentSub))) w := by
  unfold takeProbeShaped
  rw [if_pos hpath, hprobes, ← hseq, findUnresolved_first h]
  rfl

theorem enterReceive_room (h : w.st.fwd.receive.length < 64) :
    enterReceive p d w = w.onFwd fun f => { f with receive := f.receive ++ [⟨d, p⟩] } :=
  if_neg (Nat.not_le.mpr h)

theorem enterReceive_full (h : 64 ≤ w.st.fwd.receive.length) :
    enterReceive p d w = w.onCounts fun c => { c with receiveDrop := hold32 (c.receiveDrop + 1) } := if_pos h

end

/-! ## The count where the stage stays (R136, R137, R141) -/

/-- The state with an inbound frame counted where that leaves the stage. -/
def State.inbound (s : State) (p : Path) (d : List Byte) : State :=
  match p with
  | .fibre => s
  | .radio => { s with allow := { s.allow with used := min (s.allow.used + d.length + s.allow.overhead) max64 } }

/-- A radio frame's count leaves the stage. -/
def State.stageStays (s : State) (p : Path) (d : List Byte) : Prop := p = .radio → s.allow.sound
  ∧ { s.allow with used := min (s.allow.used + d.length + s.allow.overhead) max64 }.stageNow = s.allow.stage

section
variable {s : State} {p : Path} {d : List Byte}

theorem inbound_fields (s : State) (p q : Path) (d : List Byte) : (s.inbound p d).path q = s.path q
    ∧ (s.inbound p d).clk = s.clk ∧ (s.inbound p d).exch = s.exch ∧ (s.inbound p d).grade = s.grade
    ∧ (s.inbound p d).fwd = s.fwd := by
  cases p <;> cases q <;> exact ⟨rfl, rfl, rfl, rfl, rfl⟩

theorem countInbound_stays (hcur : s.current) (h : s.stageStays p d) :
    countInbound p d (Work.begin s) = Work.begin (s.inbound p d) := by
  cases p with
  | fibre => rfl
  | radio =>
    obtain ⟨hsound, hstage⟩ := h rfl
    have hadd : s.allow.used + d.length + s.allow.overhead = s.allow.used + s.counted d := Nat.add_assoc _ _ _
    rw [hadd] at hstage
    have hsame := addUsed_same (w := Work.begin s) (n := s.counted d) hcur.2.1 hsound hstage
    unfold countInbound passes
    dsimp only
    rw [show (Work.begin s).st = s from rfl, hsame, runPasses_idle _ rfl rfl]
    unfold State.inbound
    rw [hadd]
    rfl

theorem inbound_quietly (hcur : s.current) (p : Path) (d : List Byte) : (Work.begin (s.inbound p d)).Quietly s := by
  cases p with
  | fibre => exact begin_quietly hcur
  | radio => exact (begin_quietly hcur).onUsed _

theorem exec_inboundFrame (p : Path) (d : List Byte) (s : State) : exec (.inboundFrame p d) s = execInboundFrame p d s := by
  rfl

/-- What an inbound frame does in its event. -/
def takeInbound (p : Path) (d : List Byte) (w : Work) : Work := inboundChecked p d (countInbound p d w)

theorem inboundFrame_received (h : s.portReceives p = true) :
    exec (.inboundFrame p d) s = .next (event (takeInbound p d) s) := by
  rw [exec_inboundFrame]
  unfold execInboundFrame
  rw [if_pos h]
  rfl

theorem takeInbound_stays (hcur : s.current) (h : s.stageStays p d) :
    takeInbound p d (Work.begin s) = inboundChecked p d (Work.begin (s.inbound p d)) :=
  congrArg (inboundChecked p d) (countInbound_stays hcur h)

end

theorem onPath_congr {s : State} {p : Path} {f g : PathRec → PathRec} (h : f (s.path p) = g (s.path p)) :
    s.onPath p f = s.onPath p g := by
  cases p with
  | fibre => exact congrArg (fun r => { s with fibre := r }) h
  | radio => exact congrArg (fun r => { s with radio := r }) h

/-! ## Each way a frame is taken, as an event -/

section
variable {s : State} {p : Path} {d : List Byte} (hcur : s.current) (hstays : s.stageStays p d)
include hcur hstays

theorem inbound_malformed (h : ¬(60 ≤ d.length ∧ d.length ≤ 1518)) : (event (takeInbound p d) s).plain
    = ((Work.begin (s.inbound p d)).onCounts (ForwardCounts.inboundMalformed p)).st.plain :=
  ((inbound_quietly hcur p d).onFwd fun f => { f with counts := ForwardCounts.inboundMalformed p f.counts }).event_plain
    ((takeInbound_stays hcur hstays).trans (inboundChecked_malformed h))

variable (hfits : 60 ≤ d.length ∧ d.length ≤ 1518)
include hfits

theorem inbound_received (hshape : probeShaped d = false) (hroom : s.fwd.receive.length < 64) :
    (event (takeInbound p d) s).plain = ((Work.begin (s.inbound p d)).onFwd fun f => { f with
      receive := f.receive ++ [⟨d, p⟩] }).st.plain := by
  obtain ⟨-, -, -, -, hfwd⟩ := inbound_fields s p p d
  refine ((inbound_quietly hcur p d).onFwd _).event_plain ((takeInbound_stays hcur hstays).trans ?_)
  rw [inboundChecked_data hfits hshape]
  exact enterReceive_room (lt_of_eq_of_lt (congrArg (fun f : Forwarding => f.receive.length) hfwd) hroom)

theorem inbound_dropped (hshape : probeShaped d = false) (hfull : 64 ≤ s.fwd.receive.length) :
    (event (takeInbound p d) s).plain = ((Work.begin (s.inbound p d)).onCounts fun c => { c with
      receiveDrop := hold32 (c.receiveDrop + 1) }).st.plain := by
  obtain ⟨-, -, -, -, hfwd⟩ := inbound_fields s p p d
  refine ((inbound_quietly hcur p d).onFwd fun f => { f with
    counts := { f.counts with receiveDrop := hold32 (f.counts.receiveDrop + 1) } }).event_plain
    ((takeInbound_stays hcur hstays).trans ?_)
  rw [inboundChecked_data hfits hshape]
  exact enterReceive_full (le_of_le_of_eq hfull (congrArg (fun f : Forwarding => f.receive.length) hfwd).symm)

variable (hshape : probeShaped d = true)
include hshape

theorem takeInbound_probe : takeInbound p d (Work.begin s) = takeProbeShaped p d (Work.begin (s.inbound p d)) :=
  (takeInbound_stays hcur hstays).trans (inboundChecked_probe hfits hshape)

theorem inbound_unmatched (h : awaitsNone p d (s.path p).probes) : (event (takeInbound p d) s).plain
    = ((s.inbound p d).onPath p fun r => { r with unmatched := hold32 (r.unmatched + 1) }).plain := by
  obtain ⟨hpath, -⟩ := inbound_fields s p p d
  refine ((inbound_quietly hcur p d).onPath (p := p) rfl rfl).event_plain
    ((takeInbound_probe hcur hstays hfits hshape).trans ?_)
  exact takeProbeShaped_unmatched (w := Work.begin (s.inbound p d)) (by
    show awaitsNone p d ((s.inbound p d).path p).probes
    rw [hpath]
    exact h)

variable (htrailer : trailerPath d = pathCode p) {e : Probe} {before rest : List Probe} (hseq : e.seq = trailerSeq d)
include htrailer hseq

theorem takeInbound_reply (hprobes : (s.path p).probes = before ++ e :: rest) (hfirst : e.FirstIn before) :
    takeInbound p d (Work.begin s) = resolveProbe p e.seq (Resolution.from (some (roundTrip s.clk e.sent e.sentSub)))
      (Work.begin (s.inbound p d)) := by
  obtain ⟨hpath, hclk, -⟩ := inbound_fields s p p d
  have hreply := takeProbeShaped_reply (w := Work.begin (s.inbound p d)) htrailer
    ((congrArg PathRec.probes hpath).trans hprobes) hseq hfirst
  rw [show (Work.begin (s.inbound p d)).st.clk = s.clk from hclk] at hreply
  exact (takeInbound_probe hcur hstays hfits hshape).trans hreply

/-- A reply to the front entry, where nothing resolved stands behind it and fewer than eight results result. -/
theorem inbound_repliesAlone (hprobes : (s.path p).probes = e :: rest) (hres : e.res = .unresolved)
    (hrest : ∀ x ∈ rest.head?, x.res = .unresolved) (hfew : (s.path p).window.length < 7) :
    (event (takeInbound p d) s).plain = ((s.inbound p d).onPath p fun r => { r with
      probes := rest, window := r.window ++ [⟨e.seq, some (roundTrip s.clk e.sent e.sentSub)⟩],
      s := if r.replied then (7 * r.s + roundTrip s.clk e.sent e.sentSub + 4) / 8 else roundTrip s.clk e.sent e.sentSub,
      replied := true }).plain := by
  obtain ⟨hpath, -⟩ := inbound_fields s p p d
  have hg := takeInbound_reply hcur hstays hfits hshape htrailer hseq (before := []) hprobes (Probe.firstIn_nil hres)
  refine (event_resolvesAlone (inbound_quietly hcur p d) ((congrArg PathRec.probes hpath).trans hprobes) hres hrest
    (lt_of_eq_of_lt (congrArg (fun r : PathRec => r.window.length) hpath) hfew) hg).trans ?_
  refine congrArg State.plain (onPath_congr (s := s.inbound p d) ?_)
  rw [hpath, record_replied (by omega)]
  rfl

/-- A reply to the front entry, where fewer than eight results come together. -/
theorem inbound_repliesFew (hprobes : (s.path p).probes = e :: rest) (hres : e.res = .unresolved)
    (hfew : (s.path p).window.length + 1 + (resultsOf rest).length < 8) :
    (event (takeInbound p d) s).plain = ((s.inbound p d).onPath p fun r =>
      (r.resolved (s.inbound p d) p e (some (roundTrip s.clk e.sent e.sentSub)) rest).getLastD r).plain := by
  obtain ⟨hpath, -⟩ := inbound_fields s p p d
  have hg := takeInbound_reply hcur hstays hfits hshape htrailer hseq (before := []) hprobes (Probe.firstIn_nil hres)
  refine (event_resolvesFew (inbound_quietly hcur p d) ((congrArg PathRec.probes hpath).trans hprobes) hres
    (lt_of_eq_of_lt (congrArg (fun r : PathRec => r.window.length + 1 + _) hpath) hfew) hg).trans ?_
  exact congrArg State.plain (onPath_congr rfl)

/-- A reply to an entry behind an unresolved one. -/
theorem inbound_repliesBehind (hprobes : (s.path p).probes = before ++ e :: rest) (hfirst : e.FirstIn before) {x : Probe}
    (hx : before.head? = some x) (hwaits : x.res = .unresolved) :
    (event (takeInbound p d) s).plain = ((s.inbound p d).onPath p fun r => { r with
      probes := before ++ { e with res := .replied (roundTrip s.clk e.sent e.sentSub) } :: rest }).plain := by
  obtain ⟨hpath, -⟩ := inbound_fields s p p d
  have hg := takeInbound_reply hcur hstays hfits hshape htrailer hseq hprobes hfirst
  exact event_resolvesBehind (inbound_quietly hcur p d) hfirst ((congrArg PathRec.probes hpath).trans hprobes) hx hwaits hg

end

end Sys2Proof.Machine
end


section
/-! The passes of an event come to rest within the passes the model allows: a pass owes another only where the radio port
takes a frame, the session is left, or a drill ends, and each happens once (R89, R90, R123, R160). -/

namespace Sys2Proof.Machine

/-! ## What a new debt costs -/

/-- A pass or a recomputation of demand is owed. -/
def Work.owes (w : Work) : Prop := w.passDue = true ∨ w.demandDue = true

/-- The radio port is free, the session is open, a drill runs: what the passes can only use up. -/
structure Work.Spends (w v : Work) : Prop where
  port : v.st.fwd.radioQ.sending = none → w.st.fwd.radioQ.sending = none
  session : v.st.ru.state = .session → w.st.ru.state = .session
  drill : v.st.drill.running = true → w.st.drill.running = true
  owes : v.owes → w.owes ∨ (w.st.fwd.radioQ.sending = none ∧ v.st.fwd.radioQ.sending ≠ none)
    ∨ (w.st.ru.state = .session ∧ v.st.ru.state ≠ .session) ∨ (w.st.drill.running = true ∧ v.st.drill.running = false)

theorem Work.Spends.refl (w : Work) : w.Spends w := ⟨id, id, id, Or.inl⟩

theorem Work.Spends.trans {w v u : Work} (h : w.Spends v) (h' : v.Spends u) : w.Spends u where
  port := h.port ∘ h'.port
  session := h.session ∘ h'.session
  drill := h.drill ∘ h'.drill
  owes := by
    intro hu
    rcases h'.owes hu with hv | ⟨hfree, htaken⟩ | ⟨hopen, hleft⟩ | ⟨hruns, hended⟩
    · rcases h.owes hv with hw | ⟨hfree, htaken⟩ | ⟨hopen, hleft⟩ | ⟨hruns, hended⟩
      · exact Or.inl hw
      · exact Or.inr (Or.inl ⟨hfree, mt h'.port htaken⟩)
      · exact Or.inr (Or.inr (Or.inl ⟨hopen, mt h'.session hleft⟩))
      · exact Or.inr (Or.inr (Or.inr ⟨hruns, Bool.eq_false_iff.mpr (mt h'.drill (Bool.eq_false_iff.mp hended))⟩))
    · exact Or.inr (Or.inl ⟨h.port hfree, htaken⟩)
    · exact Or.inr (Or.inr (Or.inl ⟨h.session hopen, hleft⟩))
    · exact Or.inr (Or.inr (Or.inr ⟨h.drill hruns, hended⟩))

theorem owes_of_debts {w v : Work} (h : v.debts = w.debts) : v.owes → w.owes := by
  obtain ⟨hpass, hdemand, -⟩ := debts_iff.mp h
  unfold Work.owes
  rw [hpass, hdemand]
  exact id

/-- A step that owes nothing new, and leaves the radio port, the radio unit and the drill. -/
theorem spends_of_debts {w v : Work} (h : v.debts = w.debts) (hport : v.st.fwd.radioQ.sending = w.st.fwd.radioQ.sending)
    (hru : v.st.ru = w.st.ru) (hdrill : v.st.drill = w.st.drill) : w.Spends v :=
  ⟨fun he => hport ▸ he, fun he => hru ▸ he, fun he => hdrill ▸ he, fun ho => Or.inl (owes_of_debts h ho)⟩

/-! ## The steps of a pass -/

theorem takeNext_spends (p : Path) (w : Work) : w.Spends (takeNext p w) := by
  by_cases hready : w.st.portReady p = true
  · unfold takeNext
    rw [if_pos hready]
    split
    · exact Work.Spends.refl w
    · next f rest _ =>
      cases p with
      | fibre => exact spends_of_debts rfl rfl rfl rfl
      | radio =>
        obtain ⟨-, hfree⟩ := Bool.and_eq_true_iff.mp hready
        obtain ⟨e, -, hst⟩ := addUsed_onlyEv (w.st.counted f.data) (w.handedOn f rest)
        have hnone : w.st.fwd.radioQ.sending = none := Option.isNone_iff_eq_none.mp hfree
        have htaken : (handoff .radio f rest w).st.fwd.radioQ.sending = some f.data := by
          rw [handoff_radio, hst]
          rfl
        have hrest : (handoff .radio f rest w).st.ru = w.st.ru ∧ (handoff .radio f rest w).st.drill = w.st.drill := by
          rw [handoff_radio, hst]
          exact ⟨rfl, rfl⟩
        exact ⟨fun _ => hnone, fun h => hrest.1 ▸ h, fun h => hrest.2 ▸ h,
          fun _ => Or.inr (Or.inl ⟨hnone, by rw [htaken]; exact Option.some_ne_none _⟩)⟩
  · rw [takeNext_unready (Bool.eq_false_iff.mpr hready)]
    exact Work.Spends.refl w

theorem enterBand_spends (p : Path) (tier : Nat) (f : TxFrame) (w : Work) : w.Spends (enterBand p tier f w) := by
  have hqueue : w.Spends (w.onQueue p (TxQueue.append tier f)) := by
    refine spends_of_debts rfl ?_ rfl rfl
    cases p with
    | fibre => rfl
    | radio =>
      show (TxQueue.append tier f w.st.fwd.radioQ).sending = _
      unfold TxQueue.append
      split <;> rfl
  unfold enterBand
  split
  · exact spends_of_debts rfl rfl rfl rfl
  · exact hqueue.trans (takeNext_spends p _)

theorem releaseHeld_spends (x : HeldFrame) (w : Work) : w.Spends (releaseHeld x w) := by
  have hdrops : ∀ v : Work, w.Spends v → w.Spends (latch Bit.holdDrops v) := fun v hv =>
    hv.trans (spends_of_debts rfl rfl rfl rfl)
  have honto : ∀ p, w.Spends (if w.st.bandFull p (w.st.cls x.cls).tier then
      latch Bit.holdDrops (placeFrame p x.cls x.flow x.data w) else placeFrame p x.cls x.flow x.data w) := by
    intro p
    split
    · exact hdrops _ (enterBand_spends p _ _ w)
    · exact enterBand_spends p _ _ w
  unfold releaseHeld
  dsimp only
  split
  · exact honto .fibre
  · exact honto .radio
  · exact Work.Spends.refl w
  · exact hdrops (dropBlocked x.cls w) (spends_of_debts rfl rfl rfl rfl)

theorem releaseAll_spends (l : List HeldFrame) (w : Work) : w.Spends (releaseAll l w) := by
  induction l generalizing w with
  | nil => exact Work.Spends.refl w
  | cons x l ih => exact (releaseHeld_spends x w).trans (ih _)

theorem drillStep_spends (w : Work) : w.Spends (drillStep w) := by
  unfold drillStep
  split
  · cases hrun : w.st.drill.running with
    | false =>
      rw [endDrill_idle _ _ _ hrun]
      exact Work.Spends.refl w
    | true =>
      obtain ⟨hdrill, -⟩ := endDrill_leaves .aborted .realUse hrun
      obtain ⟨d, e, -, hst⟩ := endDrill_some .aborted .realUse w hrun
      have hended : (endDrill .aborted .realUse w).st.drill.running = false := by
        rw [hdrill]
        rfl
      exact ⟨fun h => by rw [hst] at h; exact h, fun h => by rw [hst] at h; exact h, fun _ => hrun,
        fun _ => Or.inr (Or.inr (Or.inr ⟨hrun, hended⟩))⟩
  · exact Work.Spends.refl w

/-- A pass, before demand is recomputed. -/
theorem passBody_spends (w : Work) : w.Spends (passBody w) := by
  have hflow : w.Spends (handConditions (flowStep w.st (classStep w))) := by
    obtain ⟨e, -, hf⟩ := flowStep_st w
    obtain ⟨e', -, hst⟩ := handConditions_onlyEv (flowStep w.st (classStep w))
    refine spends_of_debts ((handConditions_debts _).trans ((flowStep_debts _ _).trans (classStep_debts w))) ?_ ?_ ?_
    · rw [hst, hf]
    · rw [hst, hf]
    · rw [hst, hf]
  have hrelease : ∀ v : Work, v.Spends (releaseStep w.st v) := fun v =>
    (spends_of_debts (w := v) (v := v.onFwd fun f => { f with
      held := v.st.fwd.held.filter fun h => !leftWaiting w.st v.st h }) rfl rfl rfl rfl).trans (releaseAll_spends _ _)
  exact (hflow.trans (hrelease _)).trans (drillStep_spends _)

/-! ## Demand -/

theorem recomputeDemand_spends (w : Work) : w.Spends (recomputeDemand w) := by
  have hports := demanding_portRests.recomputeDemand w
  have hdrill : (recomputeDemand w).st.drill.running = true → w.st.drill.running = true := fun h => by
    by_contra hidle
    have hrests := (closed_drillRests False False False False True _ (Bool.eq_false_iff.mpr hidle)).recomputeDemand trivial w rfl
    exact hidle ((congrArg Drill.running hrests).symm.trans h)
  refine ⟨fun h => hports.sending ▸ h, hports.session, hdrill, fun ho => ?_⟩
  by_cases hs : w.st.ru.state = .session
  · by_cases hstays : (recomputeDemand w).st.ru.state = .session
    · exact Or.inl (owes_of_debts (recomputeDemand_inSession hs hstays) ho)
    · exact Or.inr (Or.inr (Or.inl ⟨hs, hstays⟩))
  · exact Or.inl (owes_of_debts (recomputeDemand_debts hs) ho)

/-! ## The passes come to rest -/

/-- What passes can still use up. -/
def Work.room (w : Work) : Nat := (decide (w.st.fwd.radioQ.sending = none)).toNat
  + (decide (w.st.ru.state = .session)).toNat + (decide (w.st.drill.running = true)).toNat

theorem toNat_le {a b : Prop} [Decidable a] [Decidable b] (h : a → b) : (decide a).toNat ≤ (decide b).toNat := by
  by_cases ha : a
  · rw [decide_eq_true ha, decide_eq_true (h ha)]
  · rw [decide_eq_false ha]
    exact Nat.zero_le _

theorem toNat_lt {a b : Prop} [Decidable a] [Decidable b] (hb : b) (ha : ¬a) : (decide a).toNat < (decide b).toNat := by
  rw [decide_eq_true hb, decide_eq_false ha]
  exact Nat.zero_lt_one

theorem Work.Spends.room {w v : Work} (h : w.Spends v) (hw : ¬w.owes) (hv : v.owes) : v.room < w.room := by
  have hport := toNat_le h.port
  have hsession := toNat_le h.session
  have hdrill := toNat_le h.drill
  unfold Work.room
  rcases h.owes hv with ho | ⟨hfree, htaken⟩ | ⟨hopen, hleft⟩ | ⟨hruns, hended⟩
  · exact absurd ho hw
  · have := toNat_lt hfree htaken
    omega
  · have := toNat_lt hopen hleft
    omega
  · have := toNat_lt hruns (Bool.eq_false_iff.mp hended)
    omega

theorem room_le (w : Work) : w.room ≤ 3 := by
  have h := fun b : Bool => Bool.toNat_le b
  exact Nat.add_le_add (Nat.add_le_add (h _) (h _)) (h _)

/-- The debts cleared, as each round begins. -/
def Work.cleared (w : Work) : Work := { w with passDue := false, demandDue := false }

theorem cleared_owes (w : Work) : ¬w.cleared.owes := fun h => h.elim (fun h => Bool.false_ne_true h) fun h => Bool.false_ne_true h

theorem runPasses_owesNothing (n : Nat) {w : Work} (h : w.owes → w.room < n) : ¬(runPasses n w).owes := by
  induction n generalizing w with
  | zero => exact fun ho => absurd (h ho) (Nat.not_lt_zero _)
  | succ n ih =>
    have hround : ∀ v : Work, w.owes → w.cleared.Spends v → v.owes → v.room < n := fun v ho hv hvo =>
      lt_of_lt_of_le (hv.room (cleared_owes w) hvo) (Nat.le_of_lt_succ (h ho))
    unfold runPasses
    split
    · next hpass =>
      refine ih (hround _ (Or.inl hpass) ?_)
      rw [steeringPass_eq]
      exact (passBody_spends _).trans (recomputeDemand_spends _)
    · next hpass =>
      split
      · next hdemand =>
        have hcleared : ({ w with demandDue := false } : Work) = w.cleared := by
          unfold Work.cleared
          rw [← Bool.eq_false_iff.mpr hpass]
        refine ih (hround _ (Or.inr hdemand) ?_)
        rw [hcleared]
        exact recomputeDemand_spends _
      · next hdemand => exact fun ho => ho.elim hpass hdemand

/-- An event's passes leave nothing owed. -/
theorem passes_owesNothing (w : Work) : (passes w).passDue = false ∧ (passes w).demandDue = false := by
  have h := runPasses_owesNothing Config.passFuel (w := w) fun _ => lt_of_le_of_lt (room_le w) (by decide)
  exact ⟨Bool.eq_false_iff.mpr fun hp => h (Or.inl hp), Bool.eq_false_iff.mpr fun hd => h (Or.inr hd)⟩

end Sys2Proof.Machine
end


section
/-! What passes leave of the counts of inbound frames (R132, R133, R135), and what the taking of an inbound frame makes
of a state that its counting has restaged (R132, R136, R141). -/

namespace Sys2Proof.Machine

/-! ## The counts of inbound frames -/

/-- The counts of inbound frames: malformed from each path, and dropped at a full receive queue. -/
def State.arrived (s : State) : Nat × Nat × Nat :=
  (s.fwd.counts.fibreIn, s.fwd.counts.radioIn, s.fwd.counts.receiveDrop)

theorem State.OnlyEv.arrived {s t : State} (h : s.OnlyEv t) : t.arrived = s.arrived := by
  obtain ⟨e, -, rfl⟩ := h
  rfl

theorem takeNext_arrived (p : Path) (w : Work) : (takeNext p w).st.arrived = w.st.arrived := by
  unfold takeNext
  split
  · split
    · rfl
    · next f rest _ =>
      cases p with
      | fibre => rfl
      | radio =>
        rw [handoff_radio, (addUsed_onlyEv _ _).arrived]
        rfl
  · rfl

theorem enterBand_arrived (p : Path) (tier : Nat) (f : TxFrame) (w : Work) :
    (enterBand p tier f w).st.arrived = w.st.arrived := by
  unfold enterBand
  split
  · cases p <;> rfl
  · rw [takeNext_arrived]
    cases p <;> rfl

theorem releaseOnto_arrived (p : Path) (x : HeldFrame) (w : Work) : (releaseOnto p x w).st.arrived = w.st.arrived := by
  unfold releaseOnto
  split
  · exact (latch_onlyEv Bit.holdDrops _).arrived.trans (enterBand_arrived _ _ _ _)
  · exact enterBand_arrived _ _ _ _

theorem releaseHeld_arrived (x : HeldFrame) (w : Work) : (releaseHeld x w).st.arrived = w.st.arrived := by
  cases hbound : w.st.bindingPath x with
  | fibre => exact (releaseHeld_path (p := .fibre) hbound) ▸ releaseOnto_arrived _ _ _
  | radio => exact (releaseHeld_path (p := .radio) hbound) ▸ releaseOnto_arrived _ _ _
  | waiting => rw [releaseHeld_waiting hbound]
  | blocked =>
    rw [releaseHeld_blocked hbound]
    exact (latch_onlyEv Bit.holdDrops (dropBlocked x.cls w)).arrived

theorem releaseAll_arrived (l : List HeldFrame) (w : Work) : (releaseAll l w).st.arrived = w.st.arrived := by
  induction l generalizing w with
  | nil => rfl
  | cons x l ih => exact (ih _).trans (releaseHeld_arrived x w)

theorem releaseStep_arrived (s0 : State) (v : Work) : (releaseStep s0 v).st.arrived = v.st.arrived := by
  unfold releaseStep
  dsimp only
  rw [releaseAll_arrived]
  rfl

theorem passBody_arrived (w : Work) : (passBody w).st.arrived = w.st.arrived := by
  obtain ⟨-, -, hfwd, -⟩ := passBody_fields w
  have hbody : (passBody w).st.arrived = (releasedWork w).st.arrived := by
    unfold State.arrived
    rw [hfwd]
  have hsteered : (steeredWork w).st.arrived = w.st.arrived := (steeredWork_onlyEv w).arrived
  have hreleased : (releasedWork w).st.arrived = (steeredWork w).st.arrived := releaseStep_arrived w.st (steeredWork w)
  exact hbody.trans (hreleased.trans hsteered)

theorem demanding_arrived : Demanding fun s t => t.arrived = s.arrived where
  refl := fun _ => rfl
  trans := fun h h' => h'.trans h
  moveTo := by
    intro n hn w
    by_cases h : w.st.ru.state = .session
    · have hleft : ∀ s : State, s.sessionLeft.arrived = s.arrived := by
        intro s
        by_cases hd : s.radio.state = .down
        · rw [sessionLeft_of_down hd]
          rfl
        · rw [sessionLeft_of_ne hd]
          rfl
      rw [(moveTo_leaves n h hn).arrived]
      exact hleft w.st
    · obtain ⟨r, e, -, hst⟩ := moveTo_ruOnly n w (Or.inl h)
      rw [hst]
      rfl
  only := by
    rintro s t ⟨r, e, -, rfl⟩ -
    rfl
  steer := fun _ _ => rfl

theorem passes_arrived (w : Work) : (passes w).st.arrived = w.st.arrived := by
  have D := demanding_arrived
  have hruns : ∀ (n : Nat) (v : Work), (runPasses n v).st.arrived = v.st.arrived := by
    intro n
    induction n with
    | zero => exact fun v => rfl
    | succ n ih =>
      intro v
      unfold runPasses
      split
      · rw [ih, steeringPass_eq]
        exact (D.recomputeDemand _).trans (passBody_arrived _)
      · split
        · rw [ih]
          exact D.recomputeDemand { v with demandDue := false }
        · rfl
  exact hruns _ w

/-! ## The work that the counting leaves -/

/-- A radio frame counted, with the pass that a change of stage owes. -/
def countedWork (d : List Byte) (s : State) : Work := passes (addUsed (s.counted d) (Work.begin s))

section
variable {s : State} {d : List Byte}

theorem countedWork_arrived : (countedWork d s).st.arrived = s.arrived := by
  unfold countedWork
  rw [passes_arrived, (addUsed_onlyEv _ _).arrived]
  rfl

theorem countedWork_rests : (countedWork d s).passDue = false ∧ (countedWork d s).demandDue = false :=
  passes_owesNothing _

theorem event_taken (hs : s.exch.service ≠ .init) :
    event (takeInbound .radio d) s = finish s (passes (inboundChecked .radio d (countedWork d s))) := if_neg hs

theorem countedWork_goes (h : s.allow.sound)
    (hstage : Allowance.stageNow { s.allow with used := min (s.allow.used + s.counted d) max64 } ≠ s.allow.stage) :
    s.MeterGoes (s.counted d) (countedWork d s).st :=
  passes_addUsed_meterGoes (w := Work.begin s) h hstage

end

/-! ## Steps behind an addition that changes the stage -/

section
variable {s v : State} {n : Nat} (h : s.MeterGoes n v)
include h

theorem State.MeterGoes.counts (c : ForwardCounts) : s.MeterGoes n { v with fwd := { v.fwd with counts := c } } where
  kept := h.kept
  rests := fun hnone => ⟨(h.rests hnone).allow, (h.rests hnone).sending, (h.rests hnone).session, (h.rests hnone).held,
    (h.rests hnone).bytes⟩
  used := h.used
  sound := h.sound
  changes := h.changes
  overrun := h.overrun
  link := ⟨h.link.lost, h.link.stays, h.link.session, h.link.clk, h.link.service, h.link.grade, h.link.loss, h.link.ends,
    h.link.breaks⟩
  steered := h.steered

/-- A frame received, before the addition or behind it. -/
theorem State.MeterGoes.received (x : RxFrame) :
    ({ s with fwd := { s.fwd with receive := s.fwd.receive ++ [x] } } : State).MeterGoes n
      { v with fwd := { v.fwd with receive := v.fwd.receive ++ [x] } } where
  kept := by
    have hfwd : v.fwd.lasting = s.fwd.lasting := (congrArg State.fwd h.kept :)
    have hreceive : v.fwd.receive = s.fwd.receive := (congrArg Forwarding.receive hfwd :)
    have hkept : ∀ (u : State) (l : List RxFrame), ({ u with fwd := { u.fwd with receive := l } } : State).kept
        = { u.kept with fwd := { u.kept.fwd with receive := l } } := fun _ _ => rfl
    rw [hkept, hkept, h.kept, hreceive]
    rfl
  rests := fun hnone => ⟨(h.rests hnone).allow, (h.rests hnone).sending, (h.rests hnone).session, (h.rests hnone).held,
    (h.rests hnone).bytes⟩
  used := h.used
  sound := h.sound
  changes := h.changes
  overrun := h.overrun
  link := ⟨h.link.lost, h.link.stays, h.link.session, h.link.clk, h.link.service, h.link.grade, h.link.loss, h.link.ends,
    h.link.breaks⟩
  steered := h.steered

end

/-! ## A probe that nothing awaits, behind the addition -/

/-- The record with one more unmatched probe. -/
def PathRec.unmatches (r : PathRec) : PathRec := { r with unmatched := hold32 (r.unmatched + 1) }

theorem movesTo_unmatches (now : Time) (m : PathState) (r : PathRec) :
    r.unmatches.movesTo now m = (r.movesTo now m).unmatches := by
  unfold PathRec.movesTo
  rw [apply_ite PathRec.unmatches]
  rfl

theorem lostIn_unmatches (s : State) (p : Path) (r : PathRec) : r.unmatches.lostIn s p = (r.lostIn s p).unmatches := by
  have hmoves : r.unmatches.settled.movesTo s.now .down = (r.settled.movesTo s.now .down).unmatches :=
    movesTo_unmatches s.now .down r.settled
  unfold PathRec.lostIn
  dsimp only
  rw [hmoves, apply_ite PathRec.unmatches, apply_ite PathRec.unmatches]
  rfl

theorem State.MeterGoes.unmatched {s v : State} {n : Nat} (h : s.MeterGoes n v) :
    ({ s with radio := s.radio.unmatches } : State).MeterGoes n { v with radio := v.radio.unmatches } where
  kept := by
    have hkept : ∀ u : State, ({ u with radio := u.radio.unmatches } : State).kept
        = { u.kept with radio := u.kept.radio.unmatches } := fun _ => rfl
    rw [hkept, hkept, h.kept]
  rests := fun hnone => ⟨(h.rests hnone).allow, (h.rests hnone).sending, (h.rests hnone).session, (h.rests hnone).held,
    (h.rests hnone).bytes⟩
  used := h.used
  sound := h.sound
  changes := h.changes
  overrun := h.overrun
  link := {
    lost := fun hc => by
      obtain ⟨hradio, hhold⟩ := h.link.lost hc
      refine ⟨?_, hhold⟩
      show v.radio.unmatches = s.radio.unmatches.lostIn _ .radio
      rw [lostIn_congr (s := s) (t := { s with radio := s.radio.unmatches }) rfl rfl rfl, lostIn_unmatches, hradio]
    stays := fun hc => by
      obtain ⟨hradio, hhold⟩ := h.link.stays hc
      exact ⟨congrArg PathRec.unmatches hradio, hhold⟩
    session := h.link.session, clk := h.link.clk, service := h.link.service, grade := h.link.grade, loss := h.link.loss
    ends := h.link.ends, breaks := h.link.breaks }
  steered := h.steered

end Sys2Proof.Machine
end


section
/-! The reply to a pending entry behind an addition that changes the stage (R9, R11, R31, R132, R141). -/

namespace Sys2Proof.Machine

/-! ## What a result at the front leaves -/

theorem keptByPaths_eq (s : State) : s.keptByPaths
    = { s.keptByProbes with fibre := s.fibre.lasting, radio := s.radio.lasting } := rfl

theorem keptByPaths_of_probes {s t : State} {p : Path} (h : t.keptByProbes = s.keptByProbes)
    (hpath : (t.path p).lasting = (s.path p).lasting) (hother : t.path (otherPath p) = s.path (otherPath p)) :
    t.keptByPaths = s.keptByPaths := by
  rw [keptByPaths_eq, keptByPaths_eq, h]
  cases p with
  | fibre =>
    have hradio : t.radio.lasting = s.radio.lasting := congrArg PathRec.lasting hother
    rw [hradio, show t.fibre.lasting = s.fibre.lasting from hpath]
  | radio =>
    have hfibre : t.fibre.lasting = s.fibre.lasting := congrArg PathRec.lasting hother
    rw [hfibre, show t.radio.lasting = s.radio.lasting from hpath]

section
variable {p : Path} {w : Work} {e : Probe} {rest : List Probe} {rtt : Option Nat}

theorem resolved_lasting (s : State) (p : Path) (e : Probe) (rtt : Option Nat) (rest : List Probe) (r d : PathRec) :
    ((r.resolved s p e rtt rest).getLastD d).lasting = r.lasting := by
  have h := through_engine s p (⟨e.seq, rtt⟩ :: resultsOf rest) (r.pending (unresolvedOn rest))
  unfold PathRec.resolved
  rw [through_cons, List.getLastD_cons] at h ⊢
  exact (Prod.mk.inj h).1

theorem resolveProbe_keptByPaths (hprobes : (w.st.path p).probes = e :: rest) (hres : e.res = .unresolved) :
    (resolveProbe p e.seq (Resolution.from rtt) w).st.keptByPaths = w.st.keptByPaths := by
  have hwent := resolveProbe_went rtt hprobes hres
  refine keptByPaths_of_probes (p := p) ?_ ?_ hwent.keeps.other
  · exact (closed_keptByProbes w.st.keptByProbes).resolveProbe trivial p (Or.inr trivial) _ _ w rfl
  · rw [hwent.path, resolved_lasting]

end

/-! ## The path behind the addition -/

section
variable {s : State} {d : List Byte}

theorem lostIn_probes {s : State} {p : Path} {r : PathRec} (h : r.state ≠ .down) : (r.lostIn s p).probes = [] := by
  unfold PathRec.lostIn
  dsimp only
  rw [if_neg h]
  split
  · exact (Prod.mk.inj (movesTo_engine s.now .down r.settled).1).2
  · exact (Prod.mk.inj (movesTo_engine s.now .down r.settled).1).2

theorem meter_radio {n : Nat} {v : State} (h : s.MeterGoes n v) (hlink : s.closes v → s.radio.state = .down) :
    v.radio = s.radio := by
  by_cases hc : s.closes v
  · rw [(h.link.lost hc).1]
    exact if_pos (hlink hc)
  · exact (h.link.stays hc).1

/-- Entries written behind the addition, where it does not settle the path. -/
theorem State.MeterGoes.pending {n : Nat} {v : State} (h : s.MeterGoes n v) (hlink : s.closes v → s.radio.state = .down)
    (q : List Probe) :
    ({ s with radio := s.radio.pending q } : State).MeterGoes n { v with radio := v.radio.pending q } where
  kept := h.kept
  rests := fun hnone => ⟨(h.rests hnone).allow, (h.rests hnone).sending, (h.rests hnone).session, (h.rests hnone).held,
    (h.rests hnone).bytes⟩
  used := h.used
  sound := h.sound
  changes := h.changes
  overrun := h.overrun
  link := {
    lost := fun hc => by
      have hradio := meter_radio h hlink
      have hdown : (s.radio.pending q).state = .down := hlink hc
      refine ⟨?_, (h.link.lost hc).2⟩
      show v.radio.pending q = (s.radio.pending q).lostIn _ .radio
      rw [hradio]
      exact (if_pos hdown).symm
    stays := fun hc => ⟨congrArg (PathRec.pending q) (h.link.stays hc).1, (h.link.stays hc).2⟩
    session := h.link.session, clk := h.link.clk, service := h.link.service, grade := h.link.grade, loss := h.link.loss
    ends := h.link.ends, breaks := h.link.breaks }
  steered := h.steered

/-! ## The event -/

theorem finish_closes (s0 s : State) (w : Work) : s.closes (finish s0 w) ↔ s.closes w.st := by
  unfold State.closes
  rw [finish_ru]

section
variable (hs : s.exch.service ≠ .init)
include hs

/-- Where the frame itself owes nothing, its event ends behind the addition. -/
theorem event_takenRests {x : Work} (hx : inboundChecked .radio d (countedWork d s) = x)
    (hpass : x.passDue = (countedWork d s).passDue) (hdemand : x.demandDue = (countedWork d s).demandDue) :
    event (takeInbound .radio d) s = finish s x := by
  obtain ⟨h1, h2⟩ := countedWork_rests (s := s) (d := d)
  rw [event_taken hs, hx]
  exact congrArg (finish s) (runPasses_idle _ (hpass.trans h1) (hdemand.trans h2))

end

end

end Sys2Proof.Machine
end


section
/-! INBOUND_FRAME where its counting changes the stage: the steering pass comes first, and each way a frame is taken
follows it (R8, R9, R10, R11, R132, R133, R141). -/

namespace Sys2Proof.Machine

section
variable {s : State} {d : List Byte} (hs : s.exch.service ≠ .init) (hsound : s.allow.sound)
  (hstage : Allowance.stageNow { s.allow with used := min (s.allow.used + s.counted d) max64 } ≠ s.allow.stage)

theorem arrived_fields {u : State} (h : u.arrived = s.arrived) : u.fwd.counts.fibreIn = s.fwd.counts.fibreIn
    ∧ u.fwd.counts.radioIn = s.fwd.counts.radioIn ∧ u.fwd.counts.receiveDrop = s.fwd.counts.receiveDrop := by
  obtain ⟨hfibre, hrest⟩ := Prod.mk.inj h
  obtain ⟨hradio, hdrop⟩ := Prod.mk.inj hrest
  exact ⟨hfibre, hradio, hdrop⟩

theorem finish_arrived (s0 : State) (w : Work) : (finish s0 w).arrived = w.st.arrived := by
  unfold State.arrived
  rw [finish_fwd]

/-! ## Frames that are no reply -/

section
include hs hsound hstage

theorem restages_malformed (h : ¬(60 ≤ d.length ∧ d.length ≤ 1518)) :
    s.restages (s.counted d) (event (takeInbound .radio d) s)
    ∧ (event (takeInbound .radio d) s).arrived
      = (s.fwd.counts.fibreIn, hold32 (s.fwd.counts.radioIn + 1), s.fwd.counts.receiveDrop) := by
  have hgoes := countedWork_goes hsound hstage
  obtain ⟨hfibre, hradio, hdrop⟩ := arrived_fields (countedWork_arrived (s := s) (d := d))
  rw [event_takenRests hs (inboundChecked_malformed h) rfl rfl]
  generalize countedWork d s = v at *
  refine ⟨((hgoes.counts (ForwardCounts.inboundMalformed .radio v.st.fwd.counts)).finish
    (w := v.onCounts (ForwardCounts.inboundMalformed .radio)) s).restages (fs := s.flows) hsound rfl, ?_⟩
  rw [finish_arrived, ← hfibre, ← hradio, ← hdrop]
  rfl

variable (hfits : 60 ≤ d.length ∧ d.length ≤ 1518)
include hfits

omit hs hfits in
theorem counted_receive : (countedWork d s).st.fwd.receive = s.fwd.receive := by
  have hfwd : (countedWork d s).st.fwd.lasting = s.fwd.lasting :=
    (congrArg State.fwd (countedWork_goes hsound hstage).kept :)
  exact (congrArg Forwarding.receive hfwd :)

theorem restages_dropped (hshape : probeShaped d = false) (hfull : 64 ≤ s.fwd.receive.length) :
    s.restages (s.counted d) (event (takeInbound .radio d) s)
    ∧ (event (takeInbound .radio d) s).arrived
      = (s.fwd.counts.fibreIn, s.fwd.counts.radioIn, hold32 (s.fwd.counts.receiveDrop + 1)) := by
  have hgoes := countedWork_goes hsound hstage
  obtain ⟨hfibre, hradio, hdrop⟩ := arrived_fields (countedWork_arrived (s := s) (d := d))
  have hreceive := counted_receive hsound hstage
  have hx : inboundChecked .radio d (countedWork d s) = (countedWork d s).onCounts fun c => { c with
      receiveDrop := hold32 (c.receiveDrop + 1) } := by
    rw [inboundChecked_data hfits hshape]
    exact enterReceive_full (by rw [hreceive]; exact hfull)
  rw [event_takenRests hs hx rfl rfl]
  generalize countedWork d s = v at *
  refine ⟨((hgoes.counts { v.st.fwd.counts with receiveDrop := hold32 (v.st.fwd.counts.receiveDrop + 1) }).finish
    (w := v.onCounts fun c => { c with receiveDrop := hold32 (c.receiveDrop + 1) }) s).restages (fs := s.flows) hsound rfl, ?_⟩
  rw [finish_arrived, ← hfibre, ← hradio, ← hdrop]
  rfl

theorem restages_received (hshape : probeShaped d = false) (hroom : s.fwd.receive.length < 64) :
    ({ s with fwd := { s.fwd with receive := s.fwd.receive ++ [(⟨d, .radio⟩ : RxFrame)] } } : State).restages (s.counted d)
      (event (takeInbound .radio d) s)
    ∧ (event (takeInbound .radio d) s).arrived = s.arrived := by
  have hgoes := countedWork_goes hsound hstage
  have harrived := countedWork_arrived (s := s) (d := d)
  have hreceive := counted_receive hsound hstage
  have hx : inboundChecked .radio d (countedWork d s) = (countedWork d s).onFwd fun f => { f with
      receive := f.receive ++ [⟨d, .radio⟩] } := by
    rw [inboundChecked_data hfits hshape]
    exact enterReceive_room (by rw [hreceive]; exact hroom)
  rw [event_takenRests hs hx rfl rfl]
  generalize countedWork d s = v at *
  refine ⟨((hgoes.received ⟨d, .radio⟩).finish (w := v.onFwd fun f => { f with
    receive := f.receive ++ [⟨d, .radio⟩] }) s).restages (fs := s.flows) hsound rfl, ?_⟩
  rw [finish_arrived, ← harrived]
  rfl

variable (hshape : probeShaped d = true)
include hshape

/-- A probe that nothing awaits behind the addition. -/
theorem restages_unmatched (hnone : awaitsNone .radio d (countedWork d s).st.radio.probes) :
    event (takeInbound .radio d) s = finish s ((countedWork d s).onPath .radio PathRec.unmatches)
    ∧ ({ s with radio := s.radio.unmatches } : State).restages (s.counted d) (event (takeInbound .radio d) s)
    ∧ (event (takeInbound .radio d) s).arrived = s.arrived := by
  have hgoes := countedWork_goes hsound hstage
  have harrived := countedWork_arrived (s := s) (d := d)
  have hx : inboundChecked .radio d (countedWork d s) = (countedWork d s).onPath .radio PathRec.unmatches := by
    rw [inboundChecked_probe hfits hshape]
    exact takeProbeShaped_unmatched hnone
  have hevent := event_takenRests hs hx rfl rfl
  rw [hevent]
  generalize countedWork d s = v at *
  refine ⟨rfl, (hgoes.unmatched.finish (w := v.onPath .radio PathRec.unmatches) s).restages (fs := s.flows) hsound rfl, ?_⟩
  rw [finish_arrived, ← harrived]
  rfl

end

/-! ## Replies -/

theorem countedWork_radio (h : ¬(s.radio.state ≠ .down ∧ s.closes (countedWork d s).st)) :
    s.closes (countedWork d s).st → s.radio.state = .down := fun hc => not_not.mp fun hne => h ⟨hne, hc⟩

section
include hs hsound hstage

/-- A reply where the pass of its counting has closed the session and settled the path: it is unmatched. -/
theorem restages_lost (hfits : 60 ≤ d.length ∧ d.length ≤ 1518) (hshape : probeShaped d = true)
    (hne : s.radio.state ≠ .down) (hc : s.closes (countedWork d s).st) (taken : State → State → Prop) :
    s.restagesThen (s.counted d) taken (event (takeInbound .radio d) s)
    ∧ (event (takeInbound .radio d) s).arrived = s.arrived := by
  have hprobes : (countedWork d s).st.radio.probes = [] := by
    rw [((countedWork_goes hsound hstage).link.lost hc).1]
    exact lostIn_probes hne
  obtain ⟨hevent, hrestages, harrived⟩ := restages_unmatched hs hsound hstage hfits hshape
    (Or.inr fun e he => by rw [hprobes] at he; exact absurd he List.not_mem_nil)
  refine ⟨Or.inl ⟨hne, ?_, hrestages⟩, harrived⟩
  rw [hevent, finish_closes]
  exact hc

variable (hfits : 60 ≤ d.length ∧ d.length ≤ 1518) (hshape : probeShaped d = true)
  (htrailer : trailerPath d = pathCode .radio) {e : Probe} {before rest : List Probe} (hseq : e.seq = trailerSeq d)
  (hprobes : s.radio.probes = before ++ e :: rest) (hfirst : e.FirstIn before)
  (hlink : s.closes (countedWork d s).st → s.radio.state = .down)
include hfits hshape htrailer hseq hprobes hfirst hlink

omit hs in
/-- A reply where the path still waits for it behind the counting. -/
theorem inboundChecked_restaged : inboundChecked .radio d (countedWork d s)
    = resolveProbe .radio e.seq (Resolution.from (some (roundTrip s.clk e.sent e.sentSub))) (countedWork d s) := by
  have hgoes := countedWork_goes hsound hstage
  have hradio := meter_radio hgoes hlink
  rw [inboundChecked_probe hfits hshape, takeProbeShaped_reply (w := countedWork d s) htrailer
    ((congrArg PathRec.probes hradio).trans hprobes) hseq hfirst, hgoes.link.clk]

end

section
include hs hsound hstage
variable (hfits : 60 ≤ d.length ∧ d.length ≤ 1518) (hshape : probeShaped d = true)
  (htrailer : trailerPath d = pathCode .radio) {e : Probe} {rest : List Probe} (hseq : e.seq = trailerSeq d)
include hfits hshape htrailer hseq

/-- A reply to the front entry. -/
theorem restages_front (hprobes : s.radio.probes = e :: rest) (hres : e.res = .unresolved) :
    s.restagesThen (s.counted d) (fun v t => v.pathGoes t .radio
      (v.radio.resolved v .radio e (some (roundTrip s.clk e.sent e.sentSub)) rest)) (event (takeInbound .radio d) s)
    ∧ (event (takeInbound .radio d) s).arrived = s.arrived := by
  by_cases hleft : s.radio.state ≠ .down ∧ s.closes (countedWork d s).st
  · exact restages_lost hs hsound hstage hfits hshape hleft.1 hleft.2 _
  · have hlink := countedWork_radio hleft
    have hgoes := countedWork_goes hsound hstage
    have hradio := meter_radio hgoes hlink
    have hx := inboundChecked_restaged hsound hstage hfits hshape htrailer hseq (before := []) hprobes
      (Probe.firstIn_nil hres) hlink
    have harrived := countedWork_arrived (s := s) (d := d)
    have hends := event_ends (f := takeInbound .radio d) hs
    have hkept := event_kept (takeInbound .radio d) s hs
    have hcounts : (event (takeInbound .radio d) s).arrived = (takeInbound .radio d (Work.begin s)).st.arrived := by
      rw [event_taken hs, finish_arrived, passes_arrived]
      rfl
    change (takeInbound .radio d (Work.begin s)) = _ at hx
    generalize event (takeInbound .radio d) s = t at *
    rw [hx] at hends hkept hcounts
    generalize countedWork d s = v at *
    have hfront : (v.st.path .radio).probes = e :: rest := (congrArg PathRec.probes hradio).trans hprobes
    have hwent := resolveProbe_went (w := v) (some (roundTrip s.clk e.sent e.sentSub)) hfront hres
    have hpaths := resolveProbe_keptByPaths (w := v) (rtt := some (roundTrip s.clk e.sent e.sentSub)) hfront hres
    refine ⟨Or.inr ⟨v.st, hgoes.restages (fs := s.flows) hsound rfl, hlink, ?_, pathGoes_of_went hwent hends⟩, ?_⟩
    · exact (keptByPaths_of_kept hkept).trans (hpaths.trans (keptByPaths_of_kept hgoes.kept))
    · rw [hcounts, ← harrived, resolveProbe_front hfront hres]
      have hports := drainList_ports .radio ({ e with res := Resolution.from (some (roundTrip s.clk e.sent e.sentSub)) } :: rest)
        (v.onPath .radio (PathRec.pending ({ e with res := Resolution.from (some (roundTrip s.clk e.sent e.sentSub)) } :: rest)))
      exact congrArg (fun k : Forwarding × FibreIn => (k.1.counts.fibreIn, k.1.counts.radioIn, k.1.counts.receiveDrop)) hports

/-- A reply to an entry behind an unresolved one. -/
theorem restages_behind {before : List Probe} (hprobes : s.radio.probes = before ++ e :: rest) (hfirst : e.FirstIn before)
    {x : Probe} (hx : before.head? = some x) (hwaits : x.res = .unresolved) :
    s.restagesThen (s.counted d) (fun v t => t.plain = ({ v with radio := { v.radio with
      probes := before ++ { e with res := .replied (roundTrip s.clk e.sent e.sentSub) } :: rest } } : State).plain)
      (event (takeInbound .radio d) s)
    ∧ (event (takeInbound .radio d) s).arrived = s.arrived := by
  by_cases hleft : s.radio.state ≠ .down ∧ s.closes (countedWork d s).st
  · exact restages_lost hs hsound hstage hfits hshape hleft.1 hleft.2 _
  · have hlink := countedWork_radio hleft
    have hgoes := countedWork_goes hsound hstage
    have hradio := meter_radio hgoes hlink
    have hbody := inboundChecked_restaged hsound hstage hfits hshape htrailer hseq hprobes hfirst hlink
    rw [resolveProbe_behind hfirst (p := .radio) (w := countedWork d s) ((congrArg PathRec.probes hradio).trans hprobes) hx hwaits] at hbody
    have harrived := countedWork_arrived (s := s) (d := d)
    rw [event_takenRests hs hbody rfl rfl]
    generalize hnew : before ++ { e with res := Resolution.from (some (roundTrip s.clk e.sent e.sentSub)) } :: rest = new
    generalize countedWork d s = v at *
    have hmeter := (hgoes.pending hlink new).finish (w := v.onPath .radio (PathRec.pending new)) s
    have hkept : (finish s (v.onPath .radio (PathRec.pending new))).kept = s.kept :=
      (finish_kept s (v.onPath .radio (PathRec.pending new))).trans hgoes.kept
    have hprobesNow : (finish s (v.onPath .radio (PathRec.pending new))).radio.probes = new := by
      rw [finish_radio]
      rfl
    have hlinkNow : s.closes (finish s (v.onPath .radio (PathRec.pending new))) → s.radio.state = .down := fun hc =>
      hlink ((finish_closes s s (v.onPath .radio (PathRec.pending new))).mp hc)
    have hcounts : (finish s (v.onPath .radio (PathRec.pending new))).arrived = s.arrived :=
      (finish_arrived s (v.onPath .radio (PathRec.pending new))).trans harrived
    generalize finish s (v.onPath .radio (PathRec.pending new)) = t at *
    have hbefore : s.MeterGoes (s.counted d) { t with radio := t.radio.pending s.radio.probes } :=
      hmeter.pending hlinkNow s.radio.probes
    refine ⟨Or.inr ⟨_, hbefore.restages (fs := s.flows) hsound rfl, hlinkNow, keptByPaths_of_kept hkept, ?_⟩, hcounts⟩
    have hsame : t.radio.pending new = t.radio := by
      rw [← hprobesNow]
      rfl
    have hplain : t.plain = ({ t with radio := t.radio.pending new } : State).plain := by rw [hsame]
    exact hnew ▸ hplain

end

end

end Sys2Proof.Machine
end


section
/-! INBOUND_FRAME, as its obligation states it (R8, R9, R10, R11, R132, R133, R136, R141). -/

namespace Sys2Proof.Machine

theorem counts_of_arrived {t : State} {a b c : Nat} (h : t.arrived = (a, b, c)) :
    t.fwd.counts.fibreIn = a ∧ t.fwd.counts.radioIn = b ∧ t.fwd.counts.receiveDrop = c := by
  obtain ⟨hfibre, hrest⟩ := Prod.mk.inj h
  obtain ⟨hradio, hdrop⟩ := Prod.mk.inj hrest
  exact ⟨hfibre, hradio, hdrop⟩

/-- The path still awaits nothing for the probe behind the counting, which leaves its entries or settles it. -/
theorem counted_awaitsNone {s : State} {d : List Byte} {n : Nat} {v : State} (h : s.MeterGoes n v)
    (hnone : awaitsNone .radio d s.radio.probes) : awaitsNone .radio d v.radio.probes := by
  by_cases hleft : s.radio.state ≠ .down ∧ s.closes v
  · refine Or.inr fun e he => ?_
    rw [(h.link.lost hleft.2).1, lostIn_probes hleft.1] at he
    exact absurd he List.not_mem_nil
  · rw [meter_radio h fun hc => not_not.mp fun hne => hleft ⟨hne, hc⟩]
    exact hnone

/-- Settles O39: the checks of the frame, first where its counting leaves the stage, then behind the steering pass that a
change of stage owes, where the passes have come to rest before the frame is taken. -/
theorem inboundFramesTaken : Obligations.InboundFramesTaken := by
  unfold Obligations.InboundFramesTaken
  refine ⟨?stays, ?restages⟩
  case stays =>
    intro p d s hcur hport used u hstays counts malformed dropped result
    have hstays' : s.stageStays p d := hstays
    have hresult : result (event (takeInbound p d) s) := inboundFrame_received hport
    refine ⟨fun h => ⟨_, hresult, ?_⟩, fun h1 h2 hshape hroom => ⟨_, hresult, ?_⟩,
      fun h1 h2 hshape hfull => ⟨_, hresult, ?_⟩, fun h1 h2 hshape hnone => ⟨_, hresult, ?_⟩,
      fun e rest h1 h2 hshape htrailer hprobes hseq hres hhead hfew => ⟨_, hresult, ?_⟩,
      fun e rest h1 h2 hshape htrailer hprobes hseq hres hfew => ⟨_, hresult, ?_⟩,
      fun before after e x h1 h2 hshape htrailer hprobes hseq hres hearlier hx hwaits => ⟨_, hresult, ?_⟩⟩
    · rw [inbound_malformed hcur hstays' h]
      cases p <;> rfl
    · rw [inbound_received hcur hstays' ⟨h1, h2⟩ hshape hroom]
      cases p <;> rfl
    · rw [inbound_dropped hcur hstays' ⟨h1, h2⟩ hshape hfull]
      cases p <;> rfl
    · exact inbound_unmatched hcur hstays' ⟨h1, h2⟩ hshape hnone
    · exact inbound_repliesAlone hcur hstays' ⟨h1, h2⟩ hshape htrailer hseq hprobes hres hhead hfew
    · exact inbound_repliesFew hcur hstays' ⟨h1, h2⟩ hshape htrailer hseq hprobes hres hfew
    · exact inbound_repliesBehind hcur hstays' ⟨h1, h2⟩ hshape htrailer hseq hprobes ⟨hres, hearlier⟩ hx hwaits
  case restages =>
    intro d s hcur hport hsound n hstage counts fits result counted stay
    have hs := hcur.1
    have hresult : result (event (takeInbound .radio d) s) := inboundFrame_received hport
    refine ⟨fun h => ?_, fun h hshape hroom => ?_, fun h hshape hfull => ?_, fun h hshape hnone => ?_,
      fun before after e h hshape htrailer hprobes hseq hres hearlier => ⟨fun hfront => ?_, fun x hx hwaits => ?_⟩⟩
    · obtain ⟨hrestages, hcounts⟩ := restages_malformed hs hsound hstage h
      exact ⟨_, hresult, hrestages, counts_of_arrived hcounts⟩
    · obtain ⟨hrestages, hcounts⟩ := restages_received hs hsound hstage h hshape hroom
      exact ⟨_, hresult, counts_of_arrived hcounts, hrestages⟩
    · obtain ⟨hrestages, hcounts⟩ := restages_dropped hs hsound hstage h hshape hfull
      exact ⟨_, hresult, hrestages, counts_of_arrived hcounts⟩
    · obtain ⟨-, hrestages, hcounts⟩ := restages_unmatched hs hsound hstage h hshape
        (counted_awaitsNone (countedWork_goes hsound hstage) hnone)
      exact ⟨_, hresult, counts_of_arrived hcounts, hrestages⟩
    · subst hfront
      obtain ⟨hthen, hcounts⟩ := restages_front hs hsound hstage h hshape htrailer hseq hprobes hres
      exact ⟨_, hresult, counts_of_arrived hcounts, hthen⟩
    · obtain ⟨hthen, hcounts⟩ := restages_behind hs hsound hstage h hshape htrailer hseq hprobes ⟨hres, hearlier⟩ hx hwaits
      exact ⟨_, hresult, counts_of_arrived hcounts, hthen⟩

end Sys2Proof.Machine
end


section
/-! What an evaluation makes of each field of the record (R33, R34, R36, R46). -/

namespace Sys2Proof.Machine

/-! ## The rules of a fall and a failure -/

/-- A usable path scores below its fail threshold. -/
def PathRec.failsAt (h : Nat) (r : PathRec) : Bool := r.state.usable && decide (h < r.failT)

/-- A failure at the fail limit: a fall on score. -/
def PathRec.fallsAt (h : Nat) (r : PathRec) : Bool := r.failsAt h && decide (r.failLimit ≤ r.failCount + 1)

/-- The flap penalty after a score. -/
def PathRec.penaltyAt (h : Nat) (r : PathRec) : Nat := if r.fallsAt h then min 8000 (r.penalty + 500) else r.penalty

/-- The state after a score. -/
def PathRec.stateAt (h : Nat) (r : PathRec) : PathState :=
  if r.state = .suppressed then PathState.suppressed
  else if r.fallsAt h then (if r.damping = true ∧ r.suppress ≤ r.penaltyAt h then .suppressed else .proving)
  else if r.failsAt h then .weak
  else if r.upT ≤ h then .up
  else if r.state = .proving then .proving
  else if h < r.weakT then .weak else r.state

/-- The snapshot of a fall on this score. -/
def PathRec.snapshotAt (s : State) (p : Path) (h : Nat) (r : PathRec) : Snapshot :=
  { time := s.now, before := some r.state, h := h, n := r.window.length,
    l := (r.window.filter fun x => x.rtt.isNone).length, s := r.s,
    grade := (match p with | .fibre => 0 | .radio => s.grade.scoring),
    gradeValid := (match p with | .fibre => false | .radio => s.grade.valid), penalty := r.penaltyAt h }

/-- What a score makes of a record. -/
structure PathRec.ScoredAs (s : State) (p : Path) (h : Nat) (k : Cause) (r q : PathRec) : Prop where
  state : q.state = r.stateAt h
  penalty : q.penalty = r.penaltyAt h
  fails : r.state.usable = true → q.failCount = if r.failsAt h && !r.fallsAt h then r.failCount + 1 else 0
  falls : r.fallsAt h = true → q.cause = r.cause.afterOffer r.lockFirst k (r.snapshotAt s p h)
  stays : r.fallsAt h = false → q.cause = r.cause
  score : q.score = h ∧ q.measured = true
  rtt : q.s = r.s ∧ q.replied = r.replied

theorem failsAt_iff {h : Nat} {r : PathRec} : r.failsAt h = true ↔ (r.state = .up ∨ r.state = .weak) ∧ h < r.failT := by
  unfold PathRec.failsAt
  rw [Bool.and_eq_true, usable_iff, decide_eq_true_iff]

theorem fallsAt_iff {h : Nat} {r : PathRec} : r.fallsAt h = true ↔
    ((r.state = .up ∨ r.state = .weak) ∧ h < r.failT) ∧ r.failLimit ≤ r.failCount + 1 := by
  unfold PathRec.fallsAt
  rw [Bool.and_eq_true, failsAt_iff, decide_eq_true_iff]

/-- The fields that a change of state leaves. -/
theorem movesTo_scored (now : Time) (n : PathState) (r : PathRec) :
    (r.movesTo now n).state = n ∧ (r.movesTo now n).penalty = r.penalty ∧ (r.movesTo now n).cause = r.cause
      ∧ (r.movesTo now n).score = r.score ∧ (r.movesTo now n).measured = r.measured ∧ (r.movesTo now n).s = r.s
      ∧ (r.movesTo now n).replied = r.replied := by
  unfold PathRec.movesTo
  dsimp only
  split
  · next h => exact ⟨h, rfl, rfl, rfl, rfl, rfl, rfl⟩
  · exact ⟨rfl, rfl, rfl, rfl, rfl, rfl, rfl⟩

/-- The fail count goes on between usable states alone. -/
theorem movesTo_failCount {now : Time} {n : PathState} {r : PathRec} (hr : r.state = .up ∨ r.state = .weak) :
    (r.movesTo now n).failCount = if n = .up ∨ n = .weak then r.failCount else 0 := by
  unfold PathRec.movesTo
  dsimp only
  split
  · next h => rw [if_pos (h ▸ hr)]
  · by_cases hn : n = .up ∨ n = .weak
    · rw [if_pos ⟨hr, hn⟩, if_pos hn]
    · rw [if_neg (fun hc => hn hc.2), if_neg hn]

section
variable {s : State} {p : Path} {h : Nat} {k : Cause} {r : PathRec}

theorem not_falls (hf : ¬r.failsAt h = true) : r.fallsAt h = false := by
  unfold PathRec.fallsAt
  rw [Bool.eq_false_iff.mpr hf, Bool.false_and]

theorem not_suppressed (hu : r.state = .up ∨ r.state = .weak) : r.state ≠ .suppressed := by
  rcases hu with hu | hu <;> rw [hu] <;> decide

theorem judged_falls_scored (hu : r.state = .up ∨ r.state = .weak) (hf : h < r.failT)
    (hl : r.failLimit ≤ r.failCount + 1) : r.ScoredAs s p h k (r.judged s p h k) := by
  have hfails : r.failsAt h = true := failsAt_iff.mpr ⟨hu, hf⟩
  have hfalls : r.fallsAt h = true := fallsAt_iff.mpr ⟨⟨hu, hf⟩, hl⟩
  have hpenalty : r.penaltyAt h = min 8000 (r.penalty + 500) := if_pos hfalls
  have hstate : r.stateAt h = if ((r.scored h).fallen s p k 500).suppressible then PathState.suppressed else .proving := by
    unfold PathRec.stateAt
    rw [if_neg (not_suppressed hu), if_pos hfalls, hpenalty, fallen_state]
    rfl
  have husable : ¬(r.stateAt h = .up ∨ r.stateAt h = .weak) := by
    rw [hstate]
    split <;> decide
  rw [judged_falls hu ⟨hf, hl⟩, ← hstate]
  have hfields := movesTo_scored s.now (r.stateAt h) ((r.scored h).fallen s p k 500)
  have hcount := movesTo_failCount (now := s.now) (n := r.stateAt h) (r := (r.scored h).fallen s p k 500) hu
  rw [if_neg husable] at hcount
  generalize ((r.scored h).fallen s p k 500).movesTo s.now (r.stateAt h) = q at hfields hcount
  obtain ⟨h1, h2, h3, h4, h5, h6, h7⟩ := hfields
  refine ⟨h1, h2.trans hpenalty.symm, fun _ => ?_, fun _ => ?_, fun hc => ?_, ⟨h4, h5⟩, ⟨h6, h7⟩⟩
  · rw [hcount, hfalls, Bool.not_true, Bool.and_false]
    rfl
  · rw [h3]
    unfold PathRec.snapshotAt
    rw [hpenalty]
    rfl
  · rw [hfalls] at hc
    cases hc

theorem judged_fails_scored (hu : r.state = .up ∨ r.state = .weak) (hf : h < r.failT)
    (hl : ¬r.failLimit ≤ r.failCount + 1) : r.ScoredAs s p h k (r.judged s p h k) := by
  have hfails : r.failsAt h = true := failsAt_iff.mpr ⟨hu, hf⟩
  have hfalls : r.fallsAt h = false := Bool.eq_false_iff.mpr fun hc => hl (fallsAt_iff.mp hc).2
  have hpenalty : r.penaltyAt h = r.penalty := if_neg (by rw [hfalls]; decide)
  have hstate : r.stateAt h = .weak := by
    unfold PathRec.stateAt
    rw [if_neg (not_suppressed hu), hfalls, if_neg Bool.false_ne_true, if_pos hfails]
  rw [judged_fails hu hf hl]
  have hfields := movesTo_scored s.now .weak ({ r.scored h with failCount := r.failCount + 1 } : PathRec)
  have hcount := movesTo_failCount (now := s.now) (n := .weak) (r := { r.scored h with failCount := r.failCount + 1 }) hu
  rw [if_pos (Or.inr rfl)] at hcount
  generalize ({ r.scored h with failCount := r.failCount + 1 } : PathRec).movesTo s.now .weak = q at hfields hcount
  obtain ⟨h1, h2, h3, h4, h5, h6, h7⟩ := hfields
  refine ⟨h1.trans hstate.symm, h2.trans hpenalty.symm, fun _ => ?_, fun hc => ?_, fun _ => h3, ⟨h4, h5⟩, ⟨h6, h7⟩⟩
  · rw [hcount, hfalls, hfails]
    rfl
  · rw [hfalls] at hc
    cases hc

theorem judged_stands_scored (hu : r.state = .up ∨ r.state = .weak) (hf : ¬h < r.failT) :
    r.ScoredAs s p h k (r.judged s p h k) := by
  have hfails : r.failsAt h = false := Bool.eq_false_iff.mpr fun hc => hf (failsAt_iff.mp hc).2
  have hfalls : r.fallsAt h = false := not_falls (Bool.eq_false_iff.mp hfails)
  have hpenalty : r.penaltyAt h = r.penalty := if_neg (by rw [hfalls]; decide)
  have hstate : r.stateAt h = if r.upT ≤ h then .up else if h < r.weakT then .weak else r.state := by
    unfold PathRec.stateAt
    rw [if_neg (not_suppressed hu), hfalls, if_neg Bool.false_ne_true, hfails, if_neg Bool.false_ne_true,
      if_neg (not_proving_of_usable hu)]
  have husable : r.stateAt h = .up ∨ r.stateAt h = .weak := by
    rw [hstate]
    split
    · exact Or.inl rfl
    · split
      · exact Or.inr rfl
      · exact hu
  rw [judged_stands hu hf, ← hstate]
  have hfields := movesTo_scored s.now (r.stateAt h) ({ r.scored h with failCount := 0 } : PathRec)
  have hcount := movesTo_failCount (now := s.now) (n := r.stateAt h) (r := { r.scored h with failCount := 0 }) hu
  rw [if_pos husable] at hcount
  generalize ({ r.scored h with failCount := 0 } : PathRec).movesTo s.now (r.stateAt h) = q at hfields hcount
  obtain ⟨h1, h2, h3, h4, h5, h6, h7⟩ := hfields
  refine ⟨h1, h2.trans hpenalty.symm, fun _ => ?_, fun hc => ?_, fun _ => h3, ⟨h4, h5⟩, ⟨h6, h7⟩⟩
  · rw [hcount, hfails]
    rfl
  · rw [hfalls] at hc
    cases hc

/-- What the state rule makes of the record of a path that is not DOWN. -/
theorem judged_scored (hd : r.state ≠ .down) : r.ScoredAs s p h k (r.judged s p h k) := by
  have usable : r.state = .up ∨ r.state = .weak → r.ScoredAs s p h k (r.judged s p h k) := by
    intro hu
    by_cases hf : h < r.failT
    · by_cases hl : r.failLimit ≤ r.failCount + 1
      · exact judged_falls_scored hu hf hl
      · exact judged_fails_scored hu hf hl
    · exact judged_stands_scored hu hf
  have unusable : ¬(r.state = .up ∨ r.state = .weak) → ∀ q : PathRec, q.state = r.stateAt h → q.penalty = r.penalty →
      q.cause = r.cause → q.score = h ∧ q.measured = true → q.s = r.s ∧ q.replied = r.replied → r.ScoredAs s p h k q := by
    intro hu q hstate hpenalty hcause hscore hrtt
    have hfalls : r.fallsAt h = false := not_falls fun hc => hu (failsAt_iff.mp hc).1
    have hpenaltyAt : r.penaltyAt h = r.penalty := if_neg (by rw [hfalls]; decide)
    refine ⟨hstate, hpenalty.trans hpenaltyAt.symm, fun hc => absurd ((usable_iff _).mp hc) hu, fun hc => ?_, fun _ => hcause,
      hscore, hrtt⟩
    rw [hfalls] at hc
    cases hc
  cases hs : r.state with
  | down => exact absurd hs hd
  | up => exact usable (Or.inl hs)
  | weak => exact usable (Or.inr hs)
  | suppressed =>
    rw [judged_suppressed hs]
    refine unusable (by rw [hs]; decide) (r.scored h) ?_ rfl rfl ⟨rfl, rfl⟩ ⟨rfl, rfl⟩
    unfold PathRec.stateAt
    rw [if_pos hs]
    exact hs
  | proving =>
    have hu : ¬(r.state = .up ∨ r.state = .weak) := by rw [hs]; decide
    have hfails : r.failsAt h = false := Bool.eq_false_iff.mpr fun hc => hu (failsAt_iff.mp hc).1
    have hstate : r.stateAt h = if r.upT ≤ h then .up else .proving := by
      unfold PathRec.stateAt
      rw [if_neg (by rw [hs]; decide), not_falls (Bool.eq_false_iff.mp hfails), if_neg Bool.false_ne_true, hfails,
        if_neg Bool.false_ne_true, if_pos hs]
    rw [judged_proving hs]
    by_cases hup : r.upT ≤ h
    · rw [if_pos hup] at hstate ⊢
      obtain ⟨h1, h2, h3, h4, h5, h6, h7⟩ := movesTo_scored s.now .up (r.scored h)
      exact unusable hu _ (h1.trans hstate.symm) h2 h3 ⟨h4, h5⟩ ⟨h6, h7⟩
    · rw [if_neg hup] at hstate ⊢
      exact unusable hu _ (hs.trans hstate.symm) rfl rfl ⟨rfl, rfl⟩ ⟨rfl, rfl⟩

end

end Sys2Proof.Machine
end


section
/-! CAUSE_LATCHED latches with an offer that writes the cause field, and with nothing else that a result does (R47). -/

namespace Sys2Proof.Machine

/-- CAUSE_LATCHED as it stands. -/
def State.causeBit (s : State) : Bool := s.ev.latch.getLsbD 12

theorem latch_causeBit {i : Nat} (h : i ≠ 12) (w : Work) : (latch i w).st.causeBit = w.st.causeBit := latch_bit h w.st.ev

theorem handConditions_causeBit (w : Work) : (handConditions w).st.causeBit = w.st.causeBit :=
  handConditions_bit (by decide) w

theorem onPath_causeBit (s : State) (p : Path) (f : PathRec → PathRec) : (s.onPath p f).causeBit = s.causeBit := by
  cases p <;> rfl

theorem endHold_causeBit (reason : HoldEnd) (w : Work) : (endHold reason w).st.causeBit = w.st.causeBit := by
  unfold endHold
  split
  · rw [owePass_st, touch_st, handConditions_causeBit]
    split
    · exact latch_causeBit (by decide) (w.onHold _)
    · rfl
  · rfl

theorem endDrill_causeBit (o : DrillOutcome) (c : DrillCause) (w : Work) : (endDrill o c w).st.causeBit = w.st.causeBit := by
  cases hrun : w.st.drill.running with
  | false => rw [endDrill_idle _ _ _ hrun]
  | true =>
    rw [endDrill_eq _ _ _ hrun, endedWork_st, handConditions_causeBit]
    exact latch_causeBit (by decide) (w.onDrill (Drill.closed w.st o c))

theorem holdSees_causeBit (p : Path) (was is : PathState) (w : Work) :
    (holdSees p was is w).st.causeBit = w.st.causeBit := by
  unfold holdSees
  split
  · cases p with
    | fibre =>
      dsimp only
      split
      · exact endHold_causeBit .broken w
      · rfl
    | radio =>
      dsimp only
      split
      · rfl
      · split
        · exact endHold_causeBit .broken w
        · rfl
  · rfl

theorem pathSees_causeBit (p : Path) (was is : PathState) (w : Work) :
    (pathSees p was is w).st.causeBit = w.st.causeBit := by
  cases p with
  | fibre =>
    show (returnSees was is w).st.causeBit = _
    rw [returnSees_onlySteer]
    rfl
  | radio =>
    unfold pathSees
    dsimp only
    split
    · rw [endDrill_causeBit]
      split <;> rfl
    · split <;> rfl

theorem setPathState_causeBit (p : Path) (n : PathState) (w : Work) : (setPathState p n w).st.causeBit = w.st.causeBit := by
  by_cases hne : (w.st.path p).state = n
  · rw [setPathState_same hne]
  · have hchange : changeBit p ≠ 12 := by cases p <;> decide
    rw [setPathState_eq p w hne, owePass_st, touch_st, pathSees_causeBit, handConditions_causeBit,
      latch_causeBit hchange, holdSees_causeBit]
    exact movePath_bit (by decide) p n w

theorem offerCause_causeBit {p : Path} {k : Cause} {w : Work}
    (h : ¬(w.st.path p).cause.offerWrites (w.st.path p).lockFirst k) : (offerCause p k w).st.causeBit = w.st.causeBit := by
  unfold offerCause
  dsimp only
  rw [if_neg (fun hw => h ((writes_iff _ _ _).mp hw))]
  exact onPath_causeBit w.st p _

section
variable {p : Path} {h : Nat} {k : Cause}

/-- The state rule on a scored record latches no cause where nothing is written. -/
theorem judge_causeBit {w : Work} (hd : (w.st.path p).state ≠ .down)
    (hquiet : (w.st.path p).fallsAt h = true → ¬(w.st.path p).cause.offerWrites (w.st.path p).lockFirst k) :
    (judge p h k (scoredWork p h w)).st.causeBit = w.st.causeBit := by
  have hpath : (scoredWork p h w).st.path p = (w.st.path p).scored h := scored_path
  have hscored : (scoredWork p h w).st.causeBit = w.st.causeBit := onPath_causeBit w.st p _
  generalize scoredWork p h w = v at hpath hscored
  have hstate : (v.st.path p).state = (w.st.path p).state := by rw [hpath]; rfl
  have usable : (w.st.path p).state = .up ∨ (w.st.path p).state = .weak → (judgeUsable p h k v).st.causeBit = w.st.causeBit := by
    intro hu
    unfold judgeUsable
    dsimp only
    rw [hpath]
    split
    · next hf =>
      split
      · next hl =>
        rw [fallOnScore_eq, setPathState_causeBit]
        unfold fallenWork
        have hwrites := hquiet (fallsAt_iff.mpr ⟨⟨hu, hf⟩, hl⟩)
        rw [offerCause_causeBit, ← hscored]
        · exact onPath_causeBit v.st p _
        · rw [penalized_path hpath]
          exact hwrites
      · rw [setPathState_causeBit, ← hscored]
        exact onPath_causeBit v.st p _
    · have hcleared : ((v.onPath p fun r => { r with failCount := 0 }).st).causeBit = w.st.causeBit :=
        (onPath_causeBit v.st p _).trans hscored
      split
      · rw [setPathState_causeBit, hcleared]
      · split
        · rw [setPathState_causeBit, hcleared]
        · exact hcleared
  cases hs : (w.st.path p).state with
  | down => exact absurd hs hd
  | up =>
    rw [judge_usable (Or.inl (hstate.trans hs))]
    exact usable (Or.inl hs)
  | weak =>
    rw [judge_usable (Or.inr (hstate.trans hs))]
    exact usable (Or.inr hs)
  | suppressed =>
    rw [judge_suppressed (hstate.trans hs)]
    exact hscored
  | proving =>
    rw [judge_proving (hstate.trans hs)]
    split
    · rw [setPathState_causeBit, hscored]
    · exact hscored

end

theorem noted_causeBit (p : Path) (f : PathRec → PathRec) (w : Work) : (noted p f w).st.causeBit = w.st.causeBit :=
  (noteReady_bit (by decide) p _ (w.onPath p f)).trans (onPath_causeBit w.st p f)

end Sys2Proof.Machine
end


section
/-! An event in which the path is scored once: what it makes of the path, its cause record, and a hold of it (R31, R38,
R47, R91, R93, R95). -/

namespace Sys2Proof.Machine

/-! ## The loss of a session behind the score (R31) -/

theorem lostIn_score (s : State) (p : Path) (r : PathRec) : (r.lostIn s p).score = r.score := by
  obtain ⟨-, -, -, hscore, -⟩ := movesTo_scored s.now .down r.settled
  unfold PathRec.lostIn
  dsimp only
  split
  · rfl
  · split
    · exact hscore
    · exact hscore

/-- The cause record of a path that is not usable stays through a loss. -/
theorem lostIn_cause {s : State} {p : Path} {r : PathRec} (hu : ¬(r.state = .up ∨ r.state = .weak)) :
    (r.lostIn s p).cause = r.cause := by
  by_cases hd : r.state = .down
  · exact congrArg PathRec.cause (if_pos hd)
  · rw [lostIn_unusable hd hu]
    obtain ⟨-, -, hcause, -⟩ := movesTo_scored s.now .down r.settled
    exact hcause

/-! ## The hold (R91, R93, R95) -/

theorem sees_breaks {h : Hold} {now : Time} {p : Path} {was is : PathState} (ha : h.active = true) (hp : h.path = some p)
    (hwas : was = .up ∨ was = .weak) (his : ¬(is = .up ∨ is = .weak)) (hseen : p = .radio → h.seen = true) :
    h.sees now p was is = { h with active := false, stop := now, reason := .broken } := by
  have hne : was ≠ is := fun he => his (he ▸ hwas)
  have hcase : p = .fibre ∨ h.seen = true := by
    cases p with
    | fibre => exact Or.inl rfl
    | radio => exact Or.inr (hseen rfl)
  unfold Hold.sees
  dsimp only
  rw [if_neg (by rw [ha, hp]; rintro (hc | hc | hc); exacts [absurd hc (by decide), hc rfl, hne hc]),
    if_neg (fun hc => his hc.2), if_pos ⟨hwas, his, hcase⟩]

/-- A RADIO hold has seen radio usable when the path becomes UP, and keeps that. -/
theorem sees_rises {h : Hold} {now : Time} {was : PathState} (ha : h.active = true) (hp : h.path = some .radio)
    (hne : was ≠ .up) : (h.sees now .radio was .up).seen = true := by
  unfold Hold.sees
  dsimp only
  rw [if_neg (by rw [ha, hp]; rintro (hc | hc | hc); exacts [absurd hc (by decide), hc rfl, hne hc]),
    if_pos ⟨rfl, Or.inl rfl⟩]

theorem sees_seen {h : Hold} {now : Time} {p : Path} {was is : PathState} (hs : h.seen = true) :
    (h.sees now p was is).seen = true := by
  unfold Hold.sees
  dsimp only
  split
  · exact hs
  · split
    · rfl
    · split
      · exact hs
      · exact hs

/-! ## One record -/

section
variable {s t : State} {p : Path} {last : PathRec} (h : s.pathGoes t p [last])
include h

/-- The path's record at the end of the event. -/
theorem goes_path : t.path p = last ∨ (p = .radio ∧ s.closes t ∧ t.path p = last.lostIn s .radio) := by
  obtain ⟨hfibre, hcloses, hstays, -⟩ := h
  cases p with
  | fibre => exact Or.inl hfibre
  | radio =>
    by_cases hc : s.closes t
    · exact Or.inr ⟨rfl, hc, (hcloses hc).1⟩
    · exact Or.inl (hstays hc).1

/-- The hold at the end of the event. -/
theorem goes_hold : t.hold = s.hold.sees s.now p (s.path p).state last.state
    ∨ ∃ was, t.hold = (s.hold.sees s.now p (s.path p).state last.state).sees s.now .radio was .down := by
  obtain ⟨-, hcloses, hstays, -⟩ := h
  by_cases hc : s.closes t
  · exact Or.inr ⟨_, (hcloses hc).2⟩
  · exact Or.inl (hstays hc).2

theorem goes_latches : (¬(8 ≤ (s.path p).window.length ↔ 8 ≤ last.window.length) → t.ev.latch.getLsbD 15 = true)
    ∧ (last.cause.valid ≠ (s.path p).cause.valid ∨ last.cause.cause ≠ (s.path p).cause.cause → t.ev.latch.getLsbD 12 = true)
    ∧ (s.hold.active = true → t.hold.active = false → t.ev.latch.getLsbD 10 = true) := by
  obtain ⟨-, -, -, -, -, -, -, hready, hcause, hends, -⟩ := h
  exact ⟨hready, hcause, hends⟩

theorem goes_score : (t.path p).score = last.score ∧ (t.path p).measured = last.measured := by
  rcases goes_path h with he | ⟨-, -, he⟩
  · rw [he]
    exact ⟨rfl, rfl⟩
  · rw [he]
    exact ⟨lostIn_score _ _ _, lostIn_measured _ _ _⟩

/-- The record where the path is not taken DOWN by a session that closes. -/
theorem goes_last : t.path p = last ∨ (p = .radio ∧ (t.path p).state = .down ∧ s.ru.state = .session ∧ t.ru.state ≠ .session) := by
  rcases goes_path h with he | ⟨hp, ⟨hwas, his⟩, he⟩
  · exact Or.inl he
  · exact Or.inr ⟨hp, by rw [he]; exact lostIn_state _ _ _, hwas, his⟩

theorem goes_cause (hu : ¬(last.state = .up ∨ last.state = .weak)) : (t.path p).cause = last.cause := by
  rcases goes_path h with he | ⟨-, -, he⟩
  · rw [he]
  · rw [he, lostIn_cause hu]

theorem goes_up (hup : (t.path p).state ≠ .down) : t.path p = last :=
  (goes_last h).resolve_right fun hc => hup hc.2.1

section
variable (ha : s.hold.active = true) (hp : s.hold.path = some p)
include ha hp

theorem goes_breaks (hwas : (s.path p).state = .up ∨ (s.path p).state = .weak) (his : ¬(last.state = .up ∨ last.state = .weak))
    (hseen : p = .radio → s.hold.seen = true) : t.ev.latch.getLsbD 10 = true
      ∧ t.hold = { s.hold with active := false, stop := s.now, reason := .broken } := by
  have hbreaks := sees_breaks (now := s.now) ha hp hwas his hseen
  have hhold : t.hold = { s.hold with active := false, stop := s.now, reason := .broken } := by
    rcases goes_hold h with he | ⟨was, he⟩
    · rw [he, hbreaks]
    · rw [he, hbreaks, sees_inactive rfl]
  exact ⟨(goes_latches h).2.2 ha (by rw [hhold]), hhold⟩

theorem goes_seen (hradio : p = .radio) (hwas : (s.path p).state ≠ .up) (his : last.state = .up) : t.hold.seen = true := by
  subst hradio
  have hrises := sees_rises (now := s.now) ha hp hwas
  rcases goes_hold h with he | ⟨was, he⟩
  · rw [he, his]
    exact hrises
  · rw [he, his]
    exact sees_seen hrises

end

end

/-- An offer that writes changes what is recorded. -/
theorem afterOffer_writes {c : CauseRecord} {lock : Bool} {k : Cause} (h : c.offerWrites lock k) (snap : Snapshot) :
    (c.afterOffer lock k snap).valid ≠ c.valid ∨ (c.afterOffer lock k snap).cause ≠ c.cause := by
  unfold CauseRecord.afterOffer
  dsimp only
  by_cases hv : c.valid = false
  · rw [if_pos hv, hv]
    exact Or.inl fun he => Bool.false_ne_true he.symm
  · obtain ⟨hlock, hmore⟩ := h.resolve_left hv
    have hbetter : (match c.cause with | none => true | some held => decide (k.code < held.code)) = true := by
      cases hc : c.cause with
      | none => rfl
      | some held => exact decide_eq_true (hmore held hc)
    rw [if_neg hv, if_pos ⟨hlock, hbetter⟩]
    refine Or.inr fun he => ?_
    exact Nat.lt_irrefl _ (hmore k he.symm)

end Sys2Proof.Machine
end


section
/-! A result at the front of the pending list as an event: PROBE_EXPIRY, and INBOUND_FRAME where its counting leaves the
stage (R8, R9, R10, R11, R132, R141). -/

namespace Sys2Proof.Machine

/-! ## The work that the result is taken in -/

/-- A work that the event has brought no further than to its count: the path as it was, and nothing latched but more. -/
structure Work.CountedOnly (s : State) (p : Path) (v : Work) : Prop where
  revised : s.PathRevised v.st p
  path : v.st.path p = s.path p
  kept : v.st.keptByPaths = s.keptByPaths
  cause : v.st.causeBit = s.causeBit

theorem begin_counted (s : State) (p : Path) : (Work.begin s).CountedOnly s p :=
  ⟨State.PathRevised.refl s p, rfl, rfl, rfl⟩

theorem State.OnlyEv.revised {s t : State} (h : s.OnlyEv t) (p : Path) (hlatches : ∀ m, latched m s → latched m t) :
    s.PathRevised t p := by
  have hpath := h.path p
  obtain ⟨e, -, rfl⟩ := h
  refine ⟨⟨?_, rfl, rfl, rfl, rfl, fun hne => absurd (congrArg PathRec.ready hpath).symm hne, fun hne => ?_, hlatches⟩, ?_,
    rfl, rfl, rfl⟩
  · exact path_ev s e _
  · rw [hpath] at hne
    exact (hne.elim (fun hc => hc rfl) fun hc => hc rfl).elim
  · rw [hpath]

theorem revised_allow (s : State) (p : Path) (a : Allowance) : s.PathRevised { s with allow := a } p := by
  have h := State.PathRevised.refl s p
  cases p with
  | fibre => exact ⟨⟨rfl, rfl, rfl, rfl, rfl, h.keeps.ready, h.keeps.cause, h.keeps.latches⟩, rfl, rfl, rfl, rfl⟩
  | radio => exact ⟨⟨rfl, rfl, rfl, rfl, rfl, h.keeps.ready, h.keeps.cause, h.keeps.latches⟩, rfl, rfl, rfl, rfl⟩

section
variable {s : State} {p : Path} {d : List Byte}

/-- A count that leaves the stage owes nothing. -/
theorem countInbound_owes
    (hstage : Allowance.stageNow { s.allow with used := min (s.allow.used + s.counted d) max64 } = s.allow.stage) :
    countInbound .radio d (Work.begin s) = addUsed (s.counted d) (Work.begin s) := by
  obtain ⟨hpass, hdemand⟩ := restage_owes (w := (Work.begin s).onAllow fun a => { a with used := min (a.used + s.counted d) max64 })
    hstage
  exact runPasses_idle _ hpass hdemand

theorem addUsed_causeBit (n : Nat) (s : State) : (addUsed n (Work.begin s)).st.causeBit = s.causeBit := by
  have hlink := (linkless_linkGoes s).addUsed n (Work.begin s) (State.LinkGoes.refl s)
  have hru : (addUsed n (Work.begin s)).st.ru = s.ru := by
    obtain ⟨e, -, hst⟩ := addUsed_onlyEv n (Work.begin s)
    rw [hst]
    rfl
  exact (hlink.loss fun hc => hc.2 (by rw [hru]; exact hc.1)).2

theorem countInbound_counted (h : s.stageStays p d) : (countInbound p d (Work.begin s)).CountedOnly s p := by
  cases p with
  | fibre => exact begin_counted s .fibre
  | radio =>
    obtain ⟨-, hstage⟩ := h rfl
    rw [Nat.add_assoc] at hstage
    have honly := addUsed_onlyEv (s.counted d) (Work.begin s)
    have hcause := addUsed_causeBit (s.counted d) s
    have hlatches : ∀ m, latched m s → latched m (addUsed (s.counted d) (Work.begin s)).st := fun m hm =>
      (closedLatched m).addUsed _ _ hm
    rw [countInbound_owes hstage]
    generalize addUsed (s.counted d) (Work.begin s) = v at *
    refine ⟨(revised_allow s .radio _).trans (honly.revised .radio hlatches), honly.path .radio, ?_, hcause⟩
    rw [keptByPaths_of_kept honly.kept]
    exact keptByPaths_of_kept rfl

/-- A reply to the front entry, behind a count that leaves the stage. -/
theorem inbound_replies {e : Probe} {rest : List Probe} (hfits : 60 ≤ d.length ∧ d.length ≤ 1518)
    (hshape : probeShaped d = true) (htrailer : trailerPath d = pathCode p) (hseq : trailerSeq d = e.seq)
    (hstays : s.stageStays p d) (hprobes : (s.path p).probes = e :: rest) (hres : e.res = .unresolved) :
    takeInbound p d (Work.begin s) = resolveProbe p e.seq (Resolution.from (some (roundTrip s.clk e.sent e.sentSub)))
      (countInbound p d (Work.begin s)) := by
  have hv := countInbound_counted hstays
  unfold takeInbound
  rw [inboundChecked_probe hfits hshape, takeProbeShaped_reply (before := []) htrailer
    ((congrArg PathRec.probes hv.path).trans hprobes) hseq.symm (Probe.firstIn_nil hres), hv.revised.keeps.clk]

end

/-! ## The result taken -/

section
variable {s : State} {p : Path} {e : Probe} {rest : List Probe} {rtt : Option Nat} {f : Work → Work} {v : Work}
  (hs : s.exch.service ≠ .init) (hv : v.CountedOnly s p) (hprobes : (s.path p).probes = e :: rest)
  (hres : e.res = .unresolved) (hf : f (Work.begin s) = resolveProbe p e.seq (Resolution.from rtt) v)

include hv in
theorem counted_resolved : (v.st.path p).resolved v.st p e rtt rest = (s.path p).resolved s p e rtt rest := by
  unfold PathRec.resolved
  rw [hv.path, through_congr hv.revised.keeps.service hv.revised.keeps.clk hv.revised.keeps.grade]

include hv hprobes hres in
theorem counted_went : s.PathWent (resolveProbe p e.seq (Resolution.from rtt) v).st p
    ((s.path p).resolved s p e rtt rest) := by
  have hwent := resolveProbe_went rtt ((congrArg PathRec.probes hv.path).trans hprobes) hres
  rw [counted_resolved hv] at hwent
  exact hv.revised.then hwent

include hs hv hprobes hres hf

/-- The front entry leaves, with what stands resolved behind it. -/
theorem event_drains : (event f s).keptByPaths = s.keptByPaths
    ∧ s.pathGoes (event f s) p ((s.path p).resolved s p e rtt rest) := by
  have hwent := counted_went (rtt := rtt) hv hprobes hres
  have hends := event_ends (f := f) hs
  have hkept := event_keptByPaths f s (by
    rw [hf, resolveProbe_keptByPaths ((congrArg PathRec.probes hv.path).trans hprobes) hres, hv.kept])
  rw [hf] at hends
  exact ⟨hkept, pathGoes_of_went hwent hends⟩

/-- CAUSE_LATCHED stays where no session closes and the body leaves it. -/
theorem event_causeBit (hbit : (resolveProbe p e.seq (Resolution.from rtt) v).st.causeBit = s.causeBit)
    (hru : (event f s).ru.state = s.ru.state) : (event f s).causeBit = s.causeBit := by
  have hwent := counted_went (rtt := rtt) hv hprobes hres
  have hends := event_ends (f := f) hs
  rw [hf] at hends
  have hopen : ¬(resolveProbe p e.seq (Resolution.from rtt) v).st.closes (event f s) := fun hc => by
    rw [State.closes, hwent.keeps.ru, hru] at hc
    exact hc.2 hc.1
  exact (hends.link.loss hopen).2.trans hbit

end

end Sys2Proof.Machine
end


section
/-! One result that scores the path: its record, and CAUSE_LATCHED where its offer writes nothing (R13, R23 to R27, R46,
R47). -/

namespace Sys2Proof.Machine

/-! ## CAUSE_LATCHED in the body of the event -/

section
variable {s t : State} {p : Path}

theorem scoreOf_congr (hgrade : t.grade = s.grade) (r : PathRec) : t.scoreOf p r = s.scoreOf p r
    ∧ t.dominant p r = s.dominant p r := by
  have hsignal : t.signalPenalty p = s.signalPenalty p := by
    cases p with
    | fibre => rfl
    | radio => exact congrArg (fun g : GradeState => gradePenalty g.scoring) hgrade
  unfold State.scoreOf State.dominant State.scorePenalties
  rw [hsignal]
  exact ⟨rfl, rfl⟩

/-- The record's score in this state causes no fall that its cause record would be written for. -/
def PathRec.quietIn (s : State) (p : Path) (r : PathRec) : Prop :=
  r.fallsAt (s.scoreOf p r) = true → ¬r.cause.offerWrites r.lockFirst (s.dominant p r)

theorem evaluate_causeBit {w : Work} (h : (w.st.path p).quietIn w.st p) : (evaluate p w).st.causeBit = w.st.causeBit := by
  cases hc : w.st.scoring p && (w.st.path p).ready with
  | false => rw [evaluate_rests hc]
  | true =>
    obtain ⟨hscoring, -⟩ := Bool.and_eq_true_iff.mp hc
    rw [evaluate_judges hc]
    exact judge_causeBit ((scoring_iff _ _).mp hscoring).2.2 h

theorem enterResult_causeBit {x : Result} {w : Work} (h : ((w.st.path p).record x).quietIn w.st p) :
    (enterResult p x w).st.causeBit = w.st.causeBit := by
  obtain ⟨hstate, hcause, -⟩ := record_fields x (w.st.path p)
  have hgrade := (noted_revised (p := p) (w := w) (f := PathRec.record x) hstate hcause).keeps.grade
  obtain ⟨hscore, hdominant⟩ := scoreOf_congr (p := p) hgrade ((w.st.path p).record x)
  rw [enterResult_eq, evaluate_causeBit, noted_causeBit]
  rw [noted_path]
  unfold PathRec.quietIn
  rw [hscore, hdominant]
  exact h

theorem drainList_waiting {rest : List Probe} (hrest : ∀ x ∈ rest.head?, x.res = .unresolved) (w : Work) :
    drainList p rest w = w.onPath p (PathRec.pending rest) := by
  cases rest with
  | nil => rfl
  | cons x xs =>
    refine drainList_unresolved p xs ?_ w
    unfold Probe.result
    rw [hrest x rfl]

theorem resolveProbe_causeBit {w : Work} {e : Probe} {rest : List Probe} {rtt : Option Nat}
    (hprobes : (w.st.path p).probes = e :: rest) (hres : e.res = .unresolved)
    (hrest : ∀ x ∈ rest.head?, x.res = .unresolved) (h : (((w.st.path p).record ⟨e.seq, rtt⟩).pending rest).quietIn w.st p) :
    (resolveProbe p e.seq (Resolution.from rtt) w).st.causeBit = w.st.causeBit := by
  have hentered : ∀ u : Work, u.st.path p = (w.st.path p).pending rest → u.st.grade = w.st.grade →
      u.st.causeBit = w.st.causeBit → (enterResult p ⟨e.seq, rtt⟩ u).st.causeBit = w.st.causeBit := by
    intro u hpath hgrade hbit
    obtain ⟨hscore, hdominant⟩ := scoreOf_congr (p := p) hgrade (((w.st.path p).record ⟨e.seq, rtt⟩).pending rest)
    rw [enterResult_causeBit, hbit]
    rw [hpath, record_pending]
    unfold PathRec.quietIn
    rw [hscore, hdominant]
    exact h
  rw [resolveProbe_front hprobes hres, drainList_resolved p rest (result_resolved e rtt), drainList_waiting hrest]
  refine (onPath_causeBit _ p _).trans (hentered _ ?_ ?_ ?_)
  · rw [onPath_path, onPath_path]
    rfl
  · rw [onPath_twice]
    exact (onPath_fields w.st p _).2.1
  · rw [onPath_twice]
    exact onPath_causeBit w.st p _

end

/-! ## The record that is scored -/

/-- The record with one more result in its full window, before it is scored. -/
def PathRec.taking (seq : Half) (rtt : Option Nat) (srtt : Nat) (replied : Bool) (rest : List Probe) (r : PathRec) : PathRec :=
  { r with
    probes := rest, s := srtt, replied := replied,
    window := (r.window ++ [(⟨seq, rtt⟩ : Result)]).drop ((r.window ++ [(⟨seq, rtt⟩ : Result)]).length - 16) }

theorem record_taking_lost (seq : Half) (rest : List Probe) (r : PathRec) :
    (r.record ⟨seq, none⟩).pending rest = r.taking seq none r.s r.replied rest := by
  rw [record_eq]
  unfold PathRec.taking PathRec.pending
  dsimp only
  rw [Option.isSome_none, Bool.or_false]

theorem record_taking_replied (seq : Half) (rtt : Nat) (rest : List Probe) (r : PathRec) :
    (r.record ⟨seq, some rtt⟩).pending rest
      = r.taking seq (some rtt) (if r.replied then (7 * r.s + rtt + 4) / 8 else rtt) true rest := by
  rw [record_eq]
  unfold PathRec.taking PathRec.pending
  dsimp only
  rw [Option.isSome_some, Bool.or_true]

/-- One result with seven before it is an evaluation of its record. -/
theorem resolved_scored {s : State} {p : Path} {e : Probe} {rest : List Probe} {rtt : Option Nat} {r R : PathRec}
    (hservice : s.exch.service = .service) (hlink : r.linkOnly = false) (hd : r.state ≠ .down) (hwindow : 7 ≤ r.window.length)
    (hrest : ∀ x ∈ rest.head?, x.res = .unresolved) (hR : (r.record ⟨e.seq, rtt⟩).pending rest = R) :
    r.resolved s p e rtt rest = [R.judged s p (s.scoreOf p R) (s.dominant p R)] := by
  obtain ⟨hresults, hleft⟩ := resultsOf_waiting hrest
  have hlong : 8 ≤ (r.record ⟨e.seq, rtt⟩).window.length := by
    rw [record_length]
    omega
  unfold PathRec.resolved
  rw [hresults, hleft, through_cons, afterResult_pending, afterResult_eq, if_pos ⟨hservice, hlink, hd, hlong⟩,
    ← evaluatedIn_pending, hR, evaluatedIn_eq]
  rfl

end Sys2Proof.Machine
end


section
/-! An event with one result that scores the path: the path, its cause record, and a hold of it (R11, R23 to R27, R33, R34,
R46, R47, R91, R93). -/

namespace Sys2Proof.Machine

/-! ## The score and the dominant cause in full -/

section
variable (s : State) (p : Path) (r : PathRec)

theorem scorePenalties_eq : s.scorePenalties p r =
    ((r.window.filter fun x => x.rtt.isNone).length * 600 / r.window.length,
      if r.replied = false then 300 else if r.s ≤ r.floor then 0 else if r.ceiling ≤ r.s then 300
        else 300 * (r.s - r.floor) / (r.ceiling - r.floor),
      match p with
      | .fibre => 0
      | .radio => if 20 ≤ s.grade.scoring then 0 else (20 - s.grade.scoring) * 10) := by
  unfold State.scorePenalties
  rw [latencyPenalty_eq]
  cases p <;> rfl

end

/-! ## An event with one result -/

section
variable {s : State} {p : Path} {e : Probe} {rest : List Probe} {rtt : Option Nat} {srtt : Nat} {replied : Bool}
  {f : Work → Work} {v : Work}

/-- The record of the path with the result taken, before it is scored. -/
def State.takes (s : State) (p : Path) (e : Probe) (rest : List Probe) (rtt : Option Nat) (srtt : Nat) (replied : Bool) :
    PathRec := (s.path p).taking e.seq rtt srtt replied rest

/-- What an event with one result that scores the path comes to. -/
structure State.ScoresIn (s : State) (p : Path) (R last : PathRec) (t : State) : Prop where
  scored : R.ScoredAs s p (s.scoreOf p R) (s.dominant p R) last
  goes : s.pathGoes t p [last]
  kept : t.keptByPaths = s.keptByPaths
  probes : last.probes = R.probes
  window : last.window = R.window
  cause : R.quietIn s p → t.ru.state = s.ru.state → t.causeBit = s.causeBit

theorem event_scores (hservice : s.exch.service = .service) (hlink : (s.path p).linkOnly = false)
    (hd : (s.path p).state ≠ .down) (hprobes : (s.path p).probes = e :: rest) (hres : e.res = .unresolved)
    (hrest : ∀ x ∈ rest.head?, x.res = .unresolved) (hwindow : 7 ≤ (s.path p).window.length) (hv : v.CountedOnly s p)
    (hf : f (Work.begin s) = resolveProbe p e.seq (Resolution.from rtt) v)
    (hR : ((s.path p).record ⟨e.seq, rtt⟩).pending rest = s.takes p e rest rtt srtt replied) :
    ∃ last, s.ScoresIn p (s.takes p e rest rtt srtt replied) last (event f s) := by
  have hs : s.exch.service ≠ .init := by rw [hservice]; decide
  obtain ⟨hkept, hgoes⟩ := event_drains (rtt := rtt) hs hv hprobes hres hf
  rw [resolved_scored hservice hlink hd hwindow hrest hR] at hgoes
  have hbit := fun hquiet => event_causeBit (rtt := rtt) hs hv hprobes hres hf hquiet
  have hbody : (s.takes p e rest rtt srtt replied).quietIn s p →
      (resolveProbe p e.seq (Resolution.from rtt) v).st.causeBit = s.causeBit := by
    intro hquiet
    obtain ⟨hscore, hdominant⟩ := scoreOf_congr (p := p) hv.revised.keeps.grade (s.takes p e rest rtt srtt replied)
    rw [resolveProbe_causeBit ((congrArg PathRec.probes hv.path).trans hprobes) hres hrest, hv.cause]
    rw [hv.path, hR]
    unfold PathRec.quietIn
    rw [hscore, hdominant]
    exact hquiet
  have hdown : (s.takes p e rest rtt srtt replied).state ≠ .down := hd
  generalize s.takes p e rest rtt srtt replied = R at *
  obtain ⟨hengine, hkeepsWindow⟩ := judged_engine s p (s.scoreOf p R) (s.dominant p R) R
  exact ⟨_, judged_scored hdown, hgoes, hkept, (Prod.mk.inj hengine).2, hkeepsWindow, fun hquiet => hbit (hbody hquiet)⟩

end

/-- A fall leaves the path in no usable state. -/
theorem stateAt_fallen {h : Nat} {r : PathRec} (hf : r.fallsAt h = true) :
    ¬(r.stateAt h = .up ∨ r.stateAt h = .weak) := by
  have hu := (fallsAt_iff.mp hf).1.1
  unfold PathRec.stateAt
  rw [if_neg (not_suppressed hu), if_pos hf]
  split <;> decide

/-! ## What the event comes to, clause by clause -/

section
variable {s t : State} {p : Path} {R last : PathRec} (H : s.ScoresIn p R last t)
include H

theorem State.ScoresIn.record :
    ((t.path p).state = R.stateAt (s.scoreOf p R) ∧ (t.path p).window = R.window ∧ (t.path p).probes = R.probes
        ∧ (t.path p).penalty = R.penaltyAt (s.scoreOf p R) ∧ (t.path p).s = R.s ∧ (t.path p).replied = R.replied
        ∧ (R.state.usable = true → (t.path p).failCount
          = if R.failsAt (s.scoreOf p R) && !R.fallsAt (s.scoreOf p R) then R.failCount + 1 else 0))
      ∨ (p = .radio ∧ (t.path p).state = .down ∧ s.ru.state = .session ∧ t.ru.state ≠ .session) := by
  refine (goes_last H.goes).imp_left fun he => ?_
  rw [he]
  obtain ⟨hs, hreplied⟩ := H.scored.rtt
  exact ⟨H.scored.state, H.window, H.probes, H.scored.penalty, hs, hreplied, H.scored.fails⟩

theorem State.ScoresIn.score : (t.path p).score = s.scoreOf p R ∧ (t.path p).measured = true := by
  obtain ⟨hscore, hmeasured⟩ := goes_score H.goes
  obtain ⟨hnow, hmark⟩ := H.scored.score
  exact ⟨hscore.trans hnow, hmeasured.trans hmark⟩

/-- What is blamed for a fall, and when CAUSE_LATCHED latches with it. -/
theorem State.ScoresIn.blames (hcause : (s.path p).cause = R.cause) (hfalls : R.fallsAt (s.scoreOf p R) = true) :
    (t.path p).cause = R.cause.afterOffer R.lockFirst (s.dominant p R) (R.snapshotAt s p (s.scoreOf p R))
    ∧ (R.cause.offerWrites R.lockFirst (s.dominant p R) → t.ev.latch.getLsbD 12 = true)
    ∧ (¬R.cause.offerWrites R.lockFirst (s.dominant p R) → s.ev.latch.getLsbD 12 = false → t.ru.state = s.ru.state →
        t.ev.latch.getLsbD 12 = false) := by
  have hunusable := stateAt_fallen hfalls
  rw [← H.scored.state] at hunusable
  have hlast := H.scored.falls hfalls
  refine ⟨(goes_cause H.goes hunusable).trans hlast, fun hwrites => ?_, fun hquiet hclear hru => ?_⟩
  · refine (goes_latches H.goes).2.1 ?_
    rw [hlast, hcause]
    exact afterOffer_writes hwrites _
  · exact (H.cause (fun _ => hquiet) hru).trans hclear

theorem State.ScoresIn.blamesNothing (hfalls : R.fallsAt (s.scoreOf p R) = false) (hup : (t.path p).state ≠ .down) :
    (t.path p).cause = R.cause := by
  rw [goes_up H.goes hup]
  exact H.scored.stays hfalls

theorem State.ScoresIn.becomesReady (hnow : R.window.length = 8) (hwas : (s.path p).window.length = 7) :
    t.ev.latch.getLsbD 15 = true := by
  refine (goes_latches H.goes).1 fun hsame => ?_
  rw [H.window, hwas, hnow] at hsame
  exact absurd (hsame.mpr (Nat.le_refl _)) (by decide)

/-- A hold of the path, where it falls, and where it comes UP from PROVING. -/
theorem State.ScoresIn.holds (hstate : (s.path p).state = R.state) (ha : s.hold.active = true)
    (hp : s.hold.path = some p) :
    (R.fallsAt (s.scoreOf p R) = true → (p = .radio → s.hold.seen = true) → t.ev.latch.getLsbD 10 = true
      ∧ t.hold = { s.hold with active := false, stop := s.now, reason := .broken })
    ∧ (R.state = .proving → R.stateAt (s.scoreOf p R) = .up → p = .radio → t.hold.seen = true) := by
  refine ⟨fun hfalls hseen => ?_, fun hproving hup hradio => ?_⟩
  · refine goes_breaks H.goes ha hp ?_ ?_ hseen
    · rw [hstate]
      exact (fallsAt_iff.mp hfalls).1.1
    · rw [H.scored.state]
      exact stateAt_fallen hfalls
  · refine goes_seen H.goes ha hp hradio ?_ ?_
    · rw [hstate, hproving]
      decide
    · rw [H.scored.state]
      exact hup

end

end Sys2Proof.Machine
end


section
/-! Results that score the path, as their obligation states them (R11, R23 to R27, R33, R34, R46, R47). -/

namespace Sys2Proof.Machine

/-- Settles O38: a result is one record of the path's course; the drained list is a course of one record for each. -/
theorem resultsScoreThePath : Obligations.ResultsScoreThePath := by
  unfold Obligations.ResultsScoreThePath
  refine ⟨?scored, ?drains, ?restages⟩
  case scored =>
    intro p e rest s hservice r hlink hd hprobes hres hrest hwindow scored
    have key : ∀ (c : Instr) (f : Work → Work) (v : Work) (rtt : Option Nat) (srtt : Nat) (replied : Bool),
        exec c s = .next (event f s) → v.CountedOnly s p →
        f (Work.begin s) = resolveProbe p e.seq (Resolution.from rtt) v →
        ((s.path p).record ⟨e.seq, rtt⟩).pending rest = s.takes p e rest rtt srtt replied → scored c rtt srtt replied := by
      intro c f v rtt srtt replied hexec hv hf hR
      unfold scored
      intro full window pl pt pg h fails falls penalty next
      obtain ⟨last, H⟩ := event_scores hservice hlink hd hprobes hres hrest hwindow hv hf hR
      have hpenalties := scorePenalties_eq s p (s.takes p e rest rtt srtt replied)
      have hscore : s.scoreOf p (s.takes p e rest rtt srtt replied) = h := by
        unfold State.scoreOf
        rw [hpenalties]
        rfl
      have hdominant : s.dominant p (s.takes p e rest rtt srtt replied) = if pt ≤ pl ∧ pg ≤ pl then Cause.loss
          else if pg ≤ pt then .latency else .signal := by
        unfold State.dominant
        rw [hpenalties]
        rfl
      obtain ⟨hh, hmeasured⟩ := H.score
      have hrecord := H.record
      have hblames := H.blames rfl
      have hnothing := H.blamesNothing
      have hholds := H.holds rfl
      rw [hscore] at hh hrecord hblames hnothing hholds
      rw [hdominant] at hblames
      exact ⟨_, hexec, hh, hmeasured, H.kept, hrecord, ⟨hblames, hnothing⟩, H.becomesReady, hholds⟩
    refine ⟨fun hdue => ?_, ?_⟩
    · exact key _ _ _ none r.s r.replied (probeExpiry_due (before := []) (Probe.firstIn_nil hres) hprobes hdue)
        (begin_counted s p) rfl (record_taking_lost _ _ _)
    · intro d hport h1 h2 hshape htrailer hseq hstays rtt
      exact key _ _ _ (some rtt) _ true (inboundFrame_received hport) (countInbound_counted hstays)
        (inbound_replies ⟨h1, h2⟩ hshape htrailer hseq hstays hprobes hres) (record_taking_replied _ _ _ _)
  case drains =>
    intro p e rest s hs hprobes hres drains
    refine ⟨fun hdue => ⟨_, probeExpiry_due (before := []) (Probe.firstIn_nil hres) hprobes hdue,
      event_drains hs (begin_counted s p) hprobes hres rfl⟩, ?_⟩
    intro d hport h1 h2 hshape htrailer hseq hstays
    exact ⟨_, inboundFrame_received hport, event_drains hs (countInbound_counted hstays) hprobes hres
      (inbound_replies ⟨h1, h2⟩ hshape htrailer hseq hstays hprobes hres)⟩
  case restages =>
    intro e rest d s hs hport hprobes hres h1 h2 hshape htrailer hseq hsound n hstage rtt
    obtain ⟨hthen, -⟩ := restages_front hs hsound hstage ⟨h1, h2⟩ hshape htrailer hseq.symm hprobes hres
    exact ⟨_, inboundFrame_received hport, hthen⟩

end Sys2Proof.Machine
end
